-- ==== Sys2Proof/Word.lean ====
section
/-!
DEFINITION. Word.lean: the word types of the HW2400 and the sparse table `Tab` in which the model keeps
everything the part has many of (memory bytes, registers, cores, partitions, contexts, streams).
-/
namespace Sys2Proof

/-- One byte of a memory. -/
abbrev Byte := BitVec 8

/-- A register of the part: 32 bits (R5). -/
abbrev Word := BitVec 32

/-- A doubleword: scalar registers, semaphore values, hub time on the bus. -/
abbrev DWord := BitVec 64

/-- A core instruction: 128 bits (R151). -/
abbrev InstrWord := BitVec 128

/-- A descriptor as fetched from a ring: 64 bytes, byte 0 in bits 7 to 0 (R63). -/
abbrev DescWord := BitVec 512

/-- A sparse table: entries with strictly rising keys, none equal to what an unlisted key holds. -/
abbrev Tab (α : Type) := List (Nat × α)

end Sys2Proof
end

