-- ==== Sys2Proof/Syntax.lean ====
section
/-!
DEFINITION. Syntax.lean: the commands of the HW2400, one constructor for each row of spec/opcode_table.json.

A row that the outside or the passing of time brings about carries `t`, ns of the crystal since PORST_N release.
A row of the core instruction set carries the global core `g`. A descriptor row carries `id`, the number the ring
engine gave the descriptor when it fetched it. What a row brings in from outside the device is an operand.
-/
namespace Sys2Proof

/-- Who makes a register access: the management PF's BAR0, the BAR0 of VF `p`, or scion through its window on a hub
(R33, R147). -/
inductive Agent where
  | pf
  | vf (p : Nat)
  | scion (hub : Nat)
  deriving DecidableEq, Repr


/-- Who asks for memory: a context, or a class of hub requester (R352, log entry 12). -/
inductive Requester where
  | ctx (p slot : Nat)
  | hub (cls : Nat)
  deriving DecidableEq, Repr

/-- A memory request of at most 4 KiB inside a 4 KiB block, or one line of it in a channel's queue (R347, R348). -/
structure MemReq where
  isWrite : Bool
  /-- device address of the first byte -/
  addr : Nat
  len : Nat
  /-- bytes written; empty for a read -/
  data : List Byte
  who : Requester
  /-- when it was made -/
  since : Nat
  deriving DecidableEq, Repr

/-- What bring-up finds of one timing set (R357): the verification, the channel at which a full training fails, and the
temperature class and PHY settings that a training captures. -/
structure TrainRes where
  verified : Bool
  failedAt : Option Nat
  temp : Nat
  phy : List Byte
  deriving DecidableEq, Repr

/-- What a partner package sends over the partner link (R386): a write, or a semaphore operation. -/
inductive PtnPkt where
  | write (part addr : Nat) (data : List Byte)
  | sem (part sem : Nat) (set : Bool) (operand : Nat)
  deriving DecidableEq, Repr

/-- The header of a flit as an end of a link receives it (Table 13.3): whether its CRC holds, sequence number,
acknowledgement, epoch, kind, the bundle that carried it, and the packets it starts: source die, destination die and
end-to-end sequence number (Table 13.4). -/
structure Flit where
  crcOk : Bool
  seq : Nat
  ack : Nat
  epoch : Nat
  kind : Nat
  bundle : Nat
  packets : List (Nat × Nat × Nat)
  deriving DecidableEq, Repr

/-- A request on the DOE mailbox (R451); `nonce` is the VENDOR_DEFINED request for a debug token's nonce (R453). -/
inductive SpdmReq where
  | version | capabilities | algorithms | digests | certificate | challenge
  /-- GET_MEASUREMENTS of one index -/
  | measurements (idx : Nat)
  | keyExchange | finish | nonce
  /-- any request the spec does not list -/
  | other (code : Nat)
  deriving DecidableEq, Repr

/-- A TAP access (R453, Table 15.9a): boundary scan, an instrument or test access by its instruction, or the OTP write
of an island's isl_split. -/
inductive TapOp where
  | boundary
  | instrument (instr : Nat)
  | otpSplit (instr island : Nat) (val : Bool)
  deriving DecidableEq, Repr

/-- The commands: what the outside does to the part, and every step the part takes. -/
inductive Instr where
  /-- REGISTER_WRITE (R6): A write to a register field that has no row of its own takes effect as its access code and class state. -/
  | registerWrite (t : Nat) (acc : Agent) (off : Nat) (val : Word)
  /-- SHADOW_COMMIT (R8): At a block's commit boundary the last value written to each sh field takes effect. -/
  | shadowCommit (t : Nat) (blk : Nat)
  /-- EXPERT_ENABLE (R11): Setting EXPERT_EN brings a block's raw fields into force, holding the profile's values until written. -/
  | expertEnable (t : Nat) (acc : Agent) (off : Nat)
  /-- MISALIGNED_ACCESS (R5): A BAR0 access that is not an aligned 32-bit access completes with Unsupported Request and has no effect. -/
  | misalignedAccess (t : Nat) (acc : Agent) (off : Nat) (size : Nat) (isWrite : Bool)
  /-- UNREACHABLE_ACCESS (R35): A BAR0 access to a block that is powered off, fenced, in reset or separated returns 0xDEAD_00nn or is discarded, and GLB_ERR records it. -/
  | unreachableAccess (t : Nat) (acc : Agent) (off : Nat) (isWrite : Bool) (late : Bool)
  /-- LATCHING_LO_READ (R146): A read of the low half of a 64-bit counter or time register latches the high half for the next read. -/
  | latchingLoRead (t : Nat) (acc : Agent) (off : Nat)
  /-- SQ_DOORBELL (R49): A doorbell write to a submission ring sets the new tail, or is discarded and flagged when out of range or the ring is not ACTIVE. -/
  | sqDoorbell (t : Nat) (fn : Nat) (ring : Nat) (val : Nat)
  /-- CQ_DOORBELL (R49): A doorbell write to a completion ring releases slots, and held or pending completions are then written in finishing order. -/
  | cqDoorbell (t : Nat) (fn : Nat) (ring : Nat) (val : Nat)
  /-- RING_ENABLE (R48): Writing enable to a ring checks its set-up and version, and the ring becomes ACTIVE or ERROR. -/
  | ringEnable (t : Nat) (fn : Nat) (ring : Nat)
  /-- RING_DISABLE (R525): Writing enable = 0 stops fetching on a submission ring, which enters DRAINING; on a completion ring the write is accepted only while its submission ring is OFF. -/
  | ringDisable (t : Nat) (fn : Nat) (ring : Nat)
  /-- RING_DRAIN_DONE (R525): A DRAINING ring goes OFF once every fetched descriptor has completed and its completion entry is written. -/
  | ringDrainDone (t : Nat) (fn : Nat) (ring : Nat)
  /-- RING_FETCH (R54): A ring engine turn fetches up to 8 descriptors from a ring, chosen by strict class priority and round robin. -/
  | ringFetch (t : Nat) (hub : Nat) (load : Nat) (descs : List DescWord)
  /-- RING_FETCH_ERROR (R81): A ring fetch that returns a completion timeout, poison or UR sends the ring to ERROR and records event 0x0204. -/
  | ringFetchError (t : Nat) (fn : Nat) (ring : Nat) (addr : Nat)
  /-- COALESCE_TIMEOUT (R74): A completion ring's vector is signalled when the oldest counted entry has waited the time threshold. -/
  | coalesceTimeout (t : Nat) (fn : Nat) (ring : Nat)
  /-- MSIX_UNMASK (R74): Unmasking a vector that has its pending bit set sends the held message. -/
  | msixUnmask (t : Nat) (fn : Nat) (vec : Nat)
  /-- VF_FLR (R78): A Function Level Reset of a VF disables its rings, abandons their descriptors and destroys every context of the partition. -/
  | vfFlr (t : Nat) (p : Nat)
  /-- PF_FLR (R79): A Function Level Reset of a PF disables its admin rings and clears VF Enable on its link. -/
  | pfFlr (t : Nat) (link : Nat)
  /-- PORT_RESET (R79): A hot reset or PERST_N assertion resets every function of that port's links and retrains them. -/
  | portReset (t : Nat) (hub : Nat) (perst : Bool)
  /-- PCIE_LINK_DOWN (R80): A PCIe link lost without reset stops fetching for its functions and discards their completions and MSI-X messages. -/
  | pcieLinkDown (t : Nat) (link : Nat)
  /-- PCIE_LINK_RETURN (R80): When a lost PCIe link returns, every ring of its functions is OFF until the host enables it. -/
  | pcieLinkReturn (t : Nat) (link : Nat) (speed : Nat) (width : Nat) (flit : Bool)
  /-- NOP (R63): A NOP descriptor completes OK with no effect. -/
  | nop (t : Nat) (id : Nat)
  /-- LAUNCH (R91): A LAUNCH that reaches the front of its context's descriptors makes the context READY to run a program. -/
  | launch (t : Nat) (id : Nat)
  /-- COPY (R523): A COPY moves bytes between partition memory and host or partition memory as if the whole source were read first. -/
  | copy (t : Nat) (id : Nat) (src : List Byte)
  /-- FILL (R523): A FILL writes a repeated 64-bit pattern over a partition range. -/
  | fill (t : Nat) (id : Nat)
  /-- WAIT (R107): A WAIT descriptor completes when its semaphore condition holds or its timeout expires. -/
  | wait (t : Nat) (id : Nat)
  /-- SIGNAL (R107): A SIGNAL sets or adds to a counting semaphore and serves the waiters it satisfies. -/
  | signal (t : Nat) (id : Nat)
  /-- PREEMPT (R64): A PREEMPT heels in its target context if needed and holds it HELD. -/
  | preempt (t : Nat) (id : Nat)
  /-- RESUME (R64): A RESUME releases a held context to the state it had before the hold. -/
  | resume (t : Nat) (id : Nat)
  /-- KV_MAP (R262): A KV_MAP copies page entries into a page list and, with gen_bump, advances the list's generation. -/
  | kvMap (t : Nat) (id : Nat)
  /-- STREAM_BIND (R284): A STREAM_BIND checks and binds a sensor stream pending its first frame, or unbinds it. -/
  | streamBind (t : Nat) (id : Nat)
  /-- CAL_LOAD (R310): A CAL_LOAD reads a calibration entry into a sensor's current or next entry. -/
  | calLoad (t : Nat) (id : Nat)
  /-- DIGEST (R522): A DIGEST hashes a partition range and writes the digest to host memory. -/
  | digest (t : Nat) (id : Nat)
  /-- QUERY (R82): A QUERY writes a 64-byte snapshot answer of the selected class to host memory. -/
  | query (t : Nat) (id : Nat)
  /-- RECORD_START (R459): RECORD start checks a recording buffer and begins recording on a context. -/
  | recordStart (t : Nat) (id : Nat)
  /-- RECORD_STOP (R461): RECORD stop ends an active recording with state complete. -/
  | recordStop (t : Nat) (id : Nat)
  /-- REPLAY (R463): A REPLAY re-runs the entries of a recording in order and writes each entry's match. -/
  | replay (t : Nat) (id : Nat)
  /-- PART_CREATE (R84): A PART_CREATE checks resources and creates a partition with cores, granules, shares and fresh keys. -/
  | partCreate (t : Nat) (id : Nat)
  /-- PART_DESTROY (R87): A PART_DESTROY tears down a partition's contexts, streams, keys, granules, cores and semaphores in order. -/
  | partDestroy (t : Nat) (id : Nat)
  /-- CTX_CREATE (R90): A CTX_CREATE checks and initialises a context slot in state IDLE. -/
  | ctxCreate (t : Nat) (id : Nat)
  /-- CTX_DESTROY (R115): A CTX_DESTROY frees a context slot, at once with force or after its earlier descriptors complete. -/
  | ctxDestroy (t : Nat) (id : Nat)
  /-- MEM_MAP (R88): A MEM_MAP maps consecutive partition granules onto device granules with read and write rights. -/
  | memMap (t : Nat) (id : Nat)
  /-- MEM_UNMAP (R89): A MEM_MAP with unmap removes a range, tears down contexts whose heel-in area it overlaps and zeroes the granules. -/
  | memUnmap (t : Nat) (id : Nat)
  /-- SAFETY_CFG (R400): A SAFETY_CFG sets or removes a monitored stream on an island after its checks. -/
  | safetyCfg (t : Nat) (id : Nat) (prog : List Byte)
  /-- DRAM_FREQ (R354): A DRAM_FREQ starts a change of the named hubs to a trained timing set. -/
  | dramFreq (t : Nat) (id : Nat)
  /-- FREQ_GROUP_SWITCH (R355): A channel group that has drained enters self-refresh, switches to the new set and serves again. -/
  | freqGroupSwitch (t : Nat) (hub : Nat) (grp : Nat)
  /-- LINK_RETRAIN (R524): A LINK_RETRAIN starts a new training of a die link or partner port. -/
  | linkRetrain (t : Nat) (id : Nat)
  /-- DIE_RESET (R65): A DIE_RESET fences a die, resets a fenced die, or does both. -/
  | dieReset (t : Nat) (id : Nat)
  /-- KEY_IMPORT (R440): A KEY_IMPORT unwraps and places a key or signing seed in an import slot of the partition. -/
  | keyImport (t : Nat) (id : Nat) (payload : List Byte)
  /-- POLICY_INSTALL (R441): A slot 0 import waits for the partition to be quiet, then decrypts, checks and installs its region policy. -/
  | policyInstall (t : Nat) (id : Nat)
  /-- ATTEST (R450): An ATTEST writes a device or partition report signed by the alias key. -/
  | attest (t : Nat) (id : Nat)
  /-- MIRROR_CFG_ADD (R385): MIRROR_CFG add starts mirroring a partition range to the partner package. -/
  | mirrorCfgAdd (t : Nat) (id : Nat) (same : Bool)
  /-- MIRROR_CFG_REMOVE (R385): MIRROR_CFG remove stops mirroring a range at once. -/
  | mirrorCfgRemove (t : Nat) (id : Nat)
  /-- RANGE_IN_SYNC (R385): Once the partner's matching add arrives and the whole range is copied, the range is in-sync and the add completes. -/
  | rangeInSync (t : Nat) (id : Nat)
  /-- STOP_POINT_REACHED (R98): A core reaches its next stop point after a stop request and begins to drain. -/
  | stopPointReached (t : Nat) (g : Nat)
  /-- DRAIN_DONE (R97): When a stopped core's in-flight transfers have completed, it writes its core block. -/
  | drainDone (t : Nat) (g : Nat)
  /-- HEEL_IN_DONE (R97): With every core block and then the header written, the context's cores are released and it is HEELED or HELD. -/
  | heelInDone (t : Nat) (p : Nat) (slot : Nat)
  /-- REPLANT_DONE (R103): When the state has been restored, the context returns to RUNNING from its recorded position. -/
  | replantDone (t : Nat) (p : Nat) (slot : Nat)
  /-- QUANTUM_EXPIRY (R95): A context that has run one quantum is heeled in for a waiting context of equal priority. -/
  | quantumExpiry (t : Nat) (p : Nat) (slot : Nat)
  /-- BUDGET_EXPIRY (R96): A LAUNCH whose running time exceeds budget_us faults with cause BUDGET. -/
  | budgetExpiry (t : Nat) (p : Nat) (slot : Nat)
  /-- SEMAPHORE_TIMEOUT (R108): A waiter that reaches its timeout leaves the semaphore queue unserved. -/
  | semaphoreTimeout (t : Nat) (p : Nat) (idx : Nat)
  /-- HOLD_BUDGET_EXPIRY (R111): When a parked owner's hold budget runs out, the mutex is revoked and the owner is torn down with SEM_REVOKED. -/
  | holdBudgetExpiry (t : Nat) (p : Nat) (slot : Nat)
  /-- MIRROR_APPLY (R117): HS applies a PRT table change received from HN. -/
  | mirrorApply (t : Nat)
  /-- MIRROR_LOST (R117): When the mirror falls behind or its route fails, mirror_ok clears and event 0x0304 is recorded. -/
  | mirrorLost (t : Nat)
  /-- ILLEGAL_OPCODE (R152): A reserved opcode or EXT word faults the context with cause 0x01. -/
  | illegalOpcode (g : Nat)
  /-- BR (R162): BR sets pc to the target. -/
  | br (g : Nat)
  /-- BRC (R162): BRC branches when its condition on two scalar registers holds. -/
  | brc (g : Nat)
  /-- LOOP (R163): LOOP pushes a loop entry, or skips the body when the count is zero. -/
  | loopI (g : Nat)
  /-- ENDL (R163): ENDL decrements the innermost loop and branches back or pops the entry. -/
  | endlI (g : Nat)
  /-- CALL (R163): CALL pushes the return index and branches. -/
  | callI (g : Nat)
  /-- RET (R163): RET pops the call stack into pc. -/
  | retI (g : Nat)
  /-- HALT (R164): HALT stops the core once its writes are visible, and the context leaves RUNNING when every core has halted. -/
  | haltI (g : Nat)
  /-- YIELD (R164): YIELD is a barrier after which the context is treated as having used its quantum. -/
  | yieldI (g : Nat)
  /-- TRAP (R162): TRAP tears down the context with a trap code. -/
  | trapI (g : Nat)
  /-- ADD (R162): ADD adds scalars modulo 2^64. -/
  | addI (g : Nat)
  /-- SUB (R162): SUB subtracts scalars modulo 2^64. -/
  | subI (g : Nat)
  /-- MUL (R162): MUL multiplies scalars, keeping the low 64 bits. -/
  | mulI (g : Nat)
  /-- AND (R162): AND is a bitwise and of scalars. -/
  | andI (g : Nat)
  /-- OR (R162): OR is a bitwise or of scalars. -/
  | orI (g : Nat)
  /-- XOR (R162): XOR is a bitwise exclusive or of scalars. -/
  | xorI (g : Nat)
  /-- SHL (R162): SHL shifts a scalar left. -/
  | shlI (g : Nat)
  /-- SHR (R162): SHR shifts a scalar right, logically or arithmetically. -/
  | shrI (g : Nat)
  /-- LI (R162): LI loads an immediate into a scalar register. -/
  | li (g : Nat)
  /-- LD (R154): LD loads from scratchpad, accumulators or a special register into a scalar register. -/
  | ld (g : Nat)
  /-- ST (R154): ST stores a scalar to scratchpad, accumulators or a writable special register. -/
  | st (g : Nat)
  /-- CMP (R162): CMP writes 1 or 0 according to a comparison. -/
  | cmpI (g : Nat)
  /-- MIN (R162): MIN writes the smaller of two scalars. -/
  | minI (g : Nat)
  /-- MAX (R162): MAX writes the larger of two scalars. -/
  | maxI (g : Nat)
  /-- TDLD (R156): TDLD loads a tensor descriptor register from scratchpad. -/
  | tdldI (g : Nat)
  /-- TDST (R156): TDST stores a tensor descriptor register to scratchpad. -/
  | tdstI (g : Nat)
  /-- MMT (R165): MMT computes a matrix product into accumulators through tiles and the fixed combine tree. -/
  | mmtI (g : Nat)
  /-- MMA (R165): MMA computes a matrix product and adds it to the accumulators. -/
  | mmaI (g : Nat)
  /-- CONV (R166): CONV computes a convolution on the engines. -/
  | convI (g : Nat)
  /-- CONVT (R230): CONVT computes a transposed convolution on the engines. -/
  | convtI (g : Nat)
  /-- POOL (R233): POOL computes max, average or sum pooling on the vector unit. -/
  | poolI (g : Nat)
  /-- ATTN (R256): ATTN computes single-pass attention over a paged key-value cache. -/
  | attnI (g : Nat)
  /-- KVW (R261): KVW appends keys and values to pages, or commits or rewinds a page list. -/
  | kvwI (g : Nat)
  /-- CBLD (R167): CBLD loads the codebook store of all engines of the core. -/
  | cbldI (g : Nat)
  /-- SCALE (R168): SCALE forms block scale records, fresh or delayed from a history record. -/
  | scaleI (g : Nat)
  /-- VOP (R170): VOP performs an elementwise vector operation. -/
  | vopI (g : Nat)
  /-- VRED (R171): VRED reduces along an axis with the fixed tree. -/
  | vredI (g : Nat)
  /-- VDW (R234): VDW computes a depthwise filter on the vector unit. -/
  | vdwI (g : Nat)
  /-- VSFN (R216): VSFN applies a special function, softmax or log-softmax. -/
  | vsfnI (g : Nat)
  /-- VNORM (R172): VNORM computes layer or RMS normalisation. -/
  | vnormI (g : Nat)
  /-- VOPT (R271): VOPT performs an optimiser update, a gradient check or a loss-scale update. -/
  | voptI (g : Nat)
  /-- VCVT (R190): VCVT converts a tensor into another format, with existing or fresh scales. -/
  | vcvtI (g : Nat)
  /-- VGATHER (R173): VGATHER copies rows selected by an index tensor. -/
  | vgatherI (g : Nat)
  /-- DMA (R174): DMA places a transfer entry in a DMA queue and returns its number. -/
  | dmaI (g : Nat)
  /-- HALO (R177): HALO sends a row-set to a neighbour's seam buffer, waits for one, or releases a slot. -/
  | haloI (g : Nat)
  /-- DMAW (R175): DMAW waits for named DMA entries or a whole queue to complete. -/
  | dmawI (g : Nat)
  /-- PREF (R176): PREF prefetches instruction lines, or in its kill form clears live bits of banks. -/
  | prefI (g : Nat)
  /-- SEMA (R178): SEMA performs a semaphore or mutex operation at PRT. -/
  | semaI (g : Nat)
  /-- BAR (R179): BAR waits until every core of the context, or of the die, has arrived. -/
  | barI (g : Nat)
  /-- CRED (R180): CRED opens, acquires, releases or closes a credit stream between two cores. -/
  | credI (g : Nat)
  /-- EVT (R181): EVT sends an MSI-X vector, or writes a result record and copies it to an island. -/
  | evtI (g : Nat)
  /-- ICACHE_FILL (R149): An instruction cache line fill from partition memory completes. -/
  | icacheFill (t : Nat) (g : Nat) (line : Nat)
  /-- TILE_ISSUE (R132): An idle engine takes the oldest queued tile once its staging slots are free. -/
  | tileIssue (t : Nat) (g : Nat) (engine : Nat)
  /-- LEAF_DELIVER (R130): A computed leaf is delivered into its reserved staging slots. -/
  | leafDeliver (t : Nat) (g : Nat) (tile : Nat)
  /-- GLEAN_REQUEST (R135): A core waiting at a barrier sends a glean request to the next sibling. -/
  | gleanRequest (t : Nat) (g : Nat)
  /-- GLEAN_GRANT (R135): A sibling receiving a glean request lends its oldest queued tile or answers none. -/
  | gleanGrant (t : Nat) (g : Nat)
  /-- GLEAN_BACKOFF_EXPIRY (R135): After a none from every sibling and 256 cycles, the gleaning core begins a new round. -/
  | gleanBackoffExpiry (t : Nat) (g : Nat)
  /-- DMA_ENTRY_START (R141): A DMA queue starts its next entry in queue order. -/
  | dmaEntryStart (t : Nat) (g : Nat) (q : Nat)
  /-- DMA_ENTRY_DONE (R141): A DMA entry completes when all its writes are visible. -/
  | dmaEntryDone (t : Nat) (g : Nat) (q : Nat)
  /-- MESH_PACKET_LOST (R148): A mesh packet lost after retransmission tears down its context and records event 0x0404. -/
  | meshPacketLost (t : Nat) (die : Nat) (c : Nat) (vc : Nat) (p : Nat) (slot : Nat)
  /-- CORE_MOVE (R105): One core of a context is moved onto the die's spare over the mesh. -/
  | coreMove (t : Nat) (g : Nat)
  /-- SDL_ENTRY_COMMIT (R241): At commit a seedling entry reads and checks its job record and loads its weights. -/
  | sdlEntryCommit (t : Nat) (h : Nat) (e : Nat)
  /-- SDL_BAND (R246): The seedling engine computes one row band of a first-layer job once its input lines have arrived. -/
  | sdlBand (t : Nat) (h : Nat) (e : Nat)
  /-- SDL_JOB_START (R245): A ready last-layer job takes trig_count from trig_sem, runs and adds 1 to done_sem. -/
  | sdlJobStart (t : Nat) (h : Nat) (e : Nat)
  /-- SLICE_END (R116): A slice on a shared engine ends at the first grain boundary at or after its end, and the overrun becomes debt. -/
  | sliceEnd (t : Nat) (eng : Nat) (h : Nat)
  /-- CSI_LONG_PACKET (R282): A received CSI-2 long packet is stored as a line of its stream, or discarded. -/
  | csiLongPacket (t : Nat) (h : Nat) (port : Nat) (vc : Nat) (dt : Nat) (hdr : Nat) (crcOk : Bool) (data : List Byte) (ecc : Bool) (read : List Byte)
  /-- FRAME_START (R292): A Frame Start is stamped and its frame is admitted whole or dropped whole. -/
  | frameStart (t : Nat) (h : Nat) (port : Nat) (vc : Nat) (fn : Nat)
  /-- FRAME_END (R290): A frame ends by Frame End or another boundary event and is marked damaged where needed. -/
  | frameEnd (t : Nat) (h : Nat) (port : Nat) (vc : Nat)
  /-- ETH_FRAME (R283): A received Ethernet frame is matched to a stream as one line, or discarded. -/
  | ethFrame (t : Nat) (h : Nat) (mac : Nat) (dst : Nat) (etype : Nat) (vlan : Nat) (len : Nat) (fcsOk : Bool) (isAs : Bool) (data : List Byte) (ecc : Bool) (read : List Byte)
  /-- FRAME_GAP_EXPIRY (R290): A frame with no packet for gap_us ends damaged. -/
  | frameGapExpiry (t : Nat) (h : Nat) (n : Nat)
  /-- MISSING_DEADLINE (R299): When no start of frame arrives by the deadline, a missing frame is counted and the deadline restarts. -/
  | missingDeadline (t : Nat) (h : Nat) (n : Nat)
  /-- FRAME_RELEASE (R293): A frame whose consumers have all finished returns its size to reserve and pool. -/
  | frameRelease (t : Nat) (h : Nat) (n : Nat) (seq : Nat)
  /-- SYNC_RECEIVED (R286): An IEEE 802.1AS Sync message updates the hub time servo. -/
  | syncReceived (t : Nat) (h : Nat) (gm : Nat) (adj : Int)
  /-- SYNC_TIMEOUT (R286): With no Sync within syncReceiptTimeout, the hub free-runs and sets free_run. -/
  | syncTimeout (t : Nat) (h : Nat)
  /-- TIME_FOLLOW (R288): HS takes HN's time over the die links and keeps within 20 ns of it. -/
  | timeFollow (t : Nat) (adj : Int)
  /-- TIME_STEP (R287): ING_TIME_CTRL.step steps hub time to grandmaster time, or is refused. -/
  | timeStep (t : Nat) (h : Nat)
  /-- FUSION_ENABLE (R331): Setting FUS_CFG.enable reads the set-up record and starts the engine. -/
  | fusionEnable (t : Nat) (h : Nat)
  /-- FUSION_DISABLE (R331): Clearing FUS_CFG.enable stops the engine and discards open instants. -/
  | fusionDisable (t : Nat) (h : Nat)
  /-- FUSION_SOURCE_COMMIT (R305): At commit a fusion source entry reads and checks its source record. -/
  | fusionSourceCommit (t : Nat) (h : Nat) (e : Nat)
  /-- POINT_LIST_READ (R308): A point-list source takes its trigger semaphore, reads the list and adds to done_sem. -/
  | pointListRead (t : Nat) (h : Nat) (e : Nat)
  /-- FUSION_POINT_BATCH (R329): The fusion engine transforms a batch of eligible points into the point area. -/
  | fusionPointBatch (t : Nat) (h : Nat) (e : Nat)
  /-- INSTANT_CLOSE (R304): At t_k + close_lag the engine estimates the pose, updates the grid and writes the instant's result. -/
  | instantClose (t : Nat) (h : Nat) (struck : List Nat)
  /-- CRYPTO_TURN (R347): The crypto unit serves the next requester turn by deficit round robin. -/
  | cryptoTurn (t : Nat) (h : Nat) (reqs : List MemReq)
  /-- DRAM_READ (R341): A DRAM line read is ECC-checked, MAC-checked and decrypted. -/
  | dramRead (t : Nat) (h : Nat) (ch : Nat) (err : Nat) (lecc : Bool)
  /-- DRAM_WRITE (R342): A DRAM line write is encrypted and stored, as a read-modify-write when partial. -/
  | dramWrite (t : Nat) (h : Nat) (ch : Nat) (err : Nat) (lecc : Bool)
  /-- REFRESH (R349): A channel issues per-bank refresh and RFM at the interval its devices require. -/
  | refresh (t : Nat) (h : Nat) (ch : Nat)
  /-- RAT_WINDOW_END (R351): At the refresh boundary ending each window, activation tables empty and throttles end. -/
  | ratWindowEnd (t : Nat) (h : Nat) (ch : Nat)
  /-- PATROL_SCRUB (R346): Patrol scrub reads and ECC-checks a line, correcting or poisoning it. -/
  | patrolScrub (t : Nat) (h : Nat) (err : Nat)
  /-- WCK2DQ_TRACK (R358): Every 50 ms DRC reads each channel's interval oscillator and corrects its delays. -/
  | wck2dqTrack (t : Nat) (h : Nat) (ch : Nat) (beyond : Bool)
  /-- TRAINING_GO (R357): DRC_TRN_CTRL.go ends the training wait, and DRC verifies or trains each enabled set. -/
  | trainingGo (t : Nat) (h : Nat) (types : List Nat) (dens : List Nat) (mrs : List Byte) (res : List TrainRes)
  /-- TRN_WAIT_EXPIRY (R357): When trn_wait passes without go, DRC proceeds to verify or train. -/
  | trnWaitExpiry (t : Nat) (h : Nat) (types : List Nat) (dens : List Nat) (mrs : List Byte) (res : List TrainRes)
  /-- CAPTURE (R360): DRC_FREEZE.capture copies the channel state into the diagnosis store. -/
  | capture (t : Nat) (h : Nat)
  /-- HOLD (R361): Setting DRC_FREEZE.hold stops the hub's memory when no granule is mapped, or is refused. -/
  | holdMem (t : Nat) (h : Nat)
  /-- HOLD_RELEASE (R361): Clearing hold exits self-refresh and resumes service. -/
  | holdRelease (t : Nat) (h : Nat)
  /-- DIAG_LOAD (R362): A write to DRC_DIAG_SEL or DRC_DIAG_IDX loads a diagnosis item into the data window. -/
  | diagLoad (t : Nat) (h : Nat) (idx : Bool) (val : Word)
  /-- SIDEBAND_MESSAGE (R365): A checked sideband message is received on a die link. -/
  | sidebandMessage (t : Nat) (k : Nat) (toB : Bool) (ok : Bool)
  /-- SIDEBAND_RETRY (R365): An unanswered sideband message is repeated every 10 µs, and the sideband is dead after three repeats. -/
  | sidebandRetry (t : Nat) (k : Nat)
  /-- LINK_TRAIN (R368): A link training attempt exchanges epochs and masks and rethreads where called for. -/
  | linkTrain (t : Nat) (k : Nat) (fails : List (List Nat)) (peerE : Nat) (peerM : Nat) (keyOk : Bool)
  /-- TRAIN_TIMEOUT (R368): A training attempt fails after a 1 ms timeout, and the link goes DOWN after three failures. -/
  | trainTimeout (t : Nat) (k : Nat)
  /-- FLIT_RECEIVE (R371): A received flit is CRC- and epoch-checked and delivered in sequence, or refused. -/
  | flitReceive (t : Nat) (k : Nat) (toB : Bool) (f : Flit)
  /-- NAK_RECEIVED (R371): A nak makes the sender resend from the named flit, retraining at the replay threshold. -/
  | nakReceived (t : Nat) (k : Nat)
  /-- LINK_HEARTBEAT (R374): Each end of an UP link sends a heartbeat flit every 10 µs. -/
  | linkHeartbeat (t : Nat) (k : Nat) (fromB : Bool)
  /-- LINK_SILENCE (R374): A link with no valid flit for 30 µs leaves UP for TRAINING. -/
  | linkSilence (t : Nat) (k : Nat) (atB : Bool)
  /-- E2E_ACK (R376): An end-to-end acknowledgement frees packets from the source's resend store. -/
  | e2eAck (t : Nat) (src : Nat) (dst : Nat) (seqs : List Nat)
  /-- DIE_HEARTBEAT (R375): A compute die sends its die heartbeat on both routes every 10 µs. -/
  | dieHeartbeat (t : Nat) (d : Nat) (pll : Bool)
  /-- DIE_HEARTBEAT_MISS (R375): Three intervals without a die heartbeat make the declaring hub declare the die lost. -/
  | dieHeartbeatMiss (t : Nat) (d : Nat)
  /-- PLL_UNLOCK (R27): A compute die PLL unlock is handled as a lost die, and a hub PLL or crystal fault as a hub die reset. -/
  | pllUnlock (t : Nat) (d : Nat)
  /-- FENCE_RECEIVE (R378): A die receiving FENCE fences its links to the lost die at ingress. -/
  | fenceReceive (t : Nat) (d : Nat) (lost : Nat)
  /-- FENCED_HEARTBEAT (R381): A heartbeat from a fenced die is ignored and event 0x0507 is recorded. -/
  | fencedHeartbeat (t : Nat) (d : Nat)
  /-- DIE_RESET_RELEASE (R382): After 10 µs of reset the die locks its PLL, clears SRAM and begins rejoin training. -/
  | dieResetRelease (t : Nat) (d : Nat)
  /-- DIE_REJOIN_DONE (R382): A rejoining die goes UP when its links are sealed and a route exists, or returns to FENCED. -/
  | dieRejoinDone (t : Nat) (d : Nat)
  /-- HUB_DIE_RESET (R383): A hub die reset takes its links OFF and hands its side to the other hub. -/
  | hubDieReset (t : Nat) (hub : Nat)
  /-- HUB_RETURN (R118): A returning hub trains its links and resumes its role. -/
  | hubReturn (t : Nat) (hub : Nat)
  /-- PARTNER_ENABLE (R384): Setting PTN_CFG.enable makes the partner port train and run. -/
  | partnerEnable (t : Nat) (acc : Agent) (hub : Nat) (en : Bool)
  /-- PARTNER_LOST (R387): When the partner is lost or the port goes down, mirrored ranges become diverged. -/
  | partnerLost (t : Nat) (hub : Nat)
  /-- PARTNER_MIRROR_APPLY (R386): The partner applies mirrored writes and semaphore operations in accepted order. -/
  | partnerMirrorApply (t : Nat) (hub : Nat) (pkt : Option PtnPkt) (tagOk : Bool)
  /-- RESULT_RECORD (R406): An island receives a result record and gives a verdict on its pair or single record. -/
  | resultRecord (t : Nat) (isl : Nat)
  /-- UNMATCHED_EXPIRY (R407): A record that has waited longer than period_us for its partner gets UNMATCHED. -/
  | unmatchedExpiry (t : Nat) (isl : Nat) (n : Nat)
  /-- RESULT_DEADLINE (R408): A deadline expiry adds a miss, and exceeding miss_limit is a MISSED detection. -/
  | resultDeadline (t : Nat) (isl : Nat) (n : Nat)
  /-- STALE_NOTICE (R410): An island receives a STALE entry or exit and updates its dependent streams. -/
  | staleNotice (t : Nat) (isl : Nat)
  /-- LOCKSTEP_ERROR (R391): A difference between master and checker puts the island into the safe state by hardware. -/
  | lockstepError (t : Nat) (isl : Nat)
  /-- INPUT_DISAGREEMENT (R395): An input disagreement lasting more than 16 cycles is a lock-step error. -/
  | inputDisagreement (t : Nat) (isl : Nat)
  /-- CLOCK_CHECK (R396): Each 100 µs window the island checks its clock against its references. -/
  | clockCheck (t : Nat) (isl : Nat) (ppm : Nat) (ppmOther : Nat)
  /-- ISLAND_HEARTBEAT (R397): An island sends a heartbeat over the island link every 50 µs. -/
  | islandHeartbeat (t : Nat) (isl : Nat) (ok : Bool)
  /-- ISL_LINK_LOSS (R397): Three missing island heartbeats are an ISL_LINK detection. -/
  | islLinkLoss (t : Nat) (isl : Nat)
  /-- ISLAND_LINK_MESSAGE (R415): An island receives a safe-state, hub-reset or separation notice from the other island. -/
  | islandLinkMessage (t : Nat) (isl : Nat) (ok : Bool)
  /-- ISLAND_RESET_RELEASE (R392): At island reset release the comparator is tested and start-up runs. -/
  | islandResetRelease (t : Nat) (isl : Nat) (cmpOk : Bool)
  /-- ISLAND_RUN (R398): Start-up completes, the island enters RUN, releases FAULT and toggles ALIVE. -/
  | islandRun (t : Nat) (isl : Nat)
  /-- ISLAND_RESTART (R399): SAF_CMD.restart leaves the safe state and reruns start-up. -/
  | islandRestart (t : Nat) (isl : Nat) (acc : Agent) (cmpOk : Bool)
  /-- ISLAND_DEBUG_HALT (R394): A debug halt stops both island cores and latches the safe state. -/
  | islandDebugHalt (t : Nat) (isl : Nat)
  /-- CAN_STATUS_FRAME (R417): Every 10 ms the island sends a status or safe-state CAN FD frame. -/
  | canStatusFrame (t : Nat) (isl : Nat)
  /-- CAN_BUSOFF (R416): The CAN controller reaching bus-off records a diagnostic detection. -/
  | canBusoff (t : Nat) (isl : Nat)
  /-- CAN_RECEIVE (R416): A received CAN frame is acknowledged and ignored. -/
  | canReceive (t : Nat) (isl : Nat)
  /-- SWATCH_DONE (R421): A swatch completion passes or is a SWATCH_FAIL detection. -/
  | swatchDone (t : Nat) (isl : Nat) (n : Nat) (ch : Nat)
  /-- ROLLING_TEST_START (R423): A die's rolling test chooses the oldest-tested core and moves it onto the spare. -/
  | rollingTestStart (t : Nat) (d : Nat)
  /-- SCAN_TEST_DONE (R423): After 1.8 ms of scan test the core becomes the spare, or fails. -/
  | scanTestDone (t : Nat) (g : Nat) (ok : Bool)
  /-- COVERAGE_CHECK (R425): A core or island test older than its interval raises a COVERAGE detection. -/
  | coverageCheck (t : Nat) (isl : Nat)
  /-- INJ_FIRE (R427): A write to INJ_FIRE arms a one-time injection of the selected point, or is refused. -/
  | injFire (t : Nat) (acc : Agent)
  /-- INJECTION_EFFECT (R427): The injection takes effect at its next occasion, and the detection timer starts. -/
  | injectionEffect (t : Nat)
  /-- INJECTION_TIMEOUT (R427): With no detection within the timeout, event 0x0F02 is recorded and not_detected is set. -/
  | injectionTimeout (t : Nat)
  /-- BOOT_ROM (R432): At PORST_N release ROM verifies rootstock, which verifies the other images and starts the islands and scion. -/
  | bootRom (t : Nat) (flash : List Byte)
  /-- SCION_COPY (R437): After the hub granules are zeroed, rootstock places the verified scion body in the SEC-private granules. -/
  | scionCopy (t : Nat) (h : Nat) (body : List Byte)
  /-- RECOVERY_CHUNK (R433): SEC_RCV_CTRL go hands a recovery chunk to SEC, and the final chunk is verified. -/
  | recoveryChunk (t : Nat) (acc : Agent) (chunk : Nat) (last : Bool) (commits : Bool)
  /-- SCION_HEARTBEAT (R438): Scion writes its heartbeat to rootstock. -/
  | scionHeartbeat (t : Nat) (h : Nat)
  /-- SCION_WATCHDOG (R438): After 15 ms without a heartbeat rootstock resets and reloads scion. -/
  | scionWatchdog (t : Nat) (h : Nat) (flash : List Byte)
  /-- SPDM_REQUEST (R451): An SPDM request on the DOE mailbox is answered or refused. -/
  | spdmRequest (t : Nat) (req : SpdmReq)
  /-- DEBUG_TOKEN (R453): A verified debug token raises the debug level and extends M6. -/
  | debugToken (t : Nat) (level : Nat) (devid : List Byte) (nonce : List Byte) (key : List Byte) (sig : List Byte)
  /-- TAP_ACCESS (R453): A TAP access beyond boundary scan is refused while debug is locked. -/
  | tapAccess (t : Nat) (op : TapOp)
  /-- EVR_CURSOR_LOAD (R471): A write to an event cursor loads the slot into its window. -/
  | evrCursorLoad (t : Nat) (acc : Agent) (val : Word) (dbl : Bool)
  /-- CLEAR_CIRCULATING (R472): EVR_CLR.circ empties the circulating area. -/
  | clearCirculating (t : Nat) (acc : Agent)
  /-- CLEAR_KEPT (R472): EVR_CLR.kept empties the kept area from the management PF, or is refused for scion. -/
  | clearKept (t : Nat) (acc : Agent)
  /-- CORE_CNT_CLR (R146): CORE_CNT_CTRL.clr clears every counter of the core. -/
  | coreCntClr (t : Nat) (acc : Agent) (off : Nat)
  /-- MODE_REQUEST (R476): A write to PWR_MODE.req starts a change of power mode, or is refused. -/
  | modeRequest (t : Nat) (acc : Agent) (req : Nat)
  /-- MODE_CHANGE_DONE (R476): A power mode change finishes after its entry time. -/
  | modeChangeDone (t : Nat) (saved : Bool)
  /-- STANDBY_EXIT (R478): A PERST_N release after an assertion ends STANDBY and returns the package to HUBS. -/
  | standbyExit (t : Nat) (hub : Nat)
  /-- QUADRANT_GATE (R475): PWR gates a quadrant with no placed core after moving the spare role. -/
  | quadrantGate (t : Nat) (d : Nat) (q : Nat)
  /-- QUADRANT_UNGATE (R475): An ungated quadrant comes up with clear SRAM and its cores join PRT_FREE. -/
  | quadrantUngate (t : Nat) (d : Nat) (q : Nat)
  /-- CAP_TICK (R483): Every 1 ms PWR sums rail power and steps one die's cap point down or up. -/
  | capTick (t : Nat) (w : List Nat) (rest : Nat)
  /-- VOLTAGE_REACHED (R480): When the regulator reports the new level, the clock is raised. -/
  | voltageReached (t : Nat) (d : Nat)
  /-- CURRENT_CHECK (R482): A die's 10 µs current estimate halves CORE_CLK above 150 A and restores it later. -/
  | currentCheck (t : Nat) (d : Nat) (amps : Nat)
  /-- THERMAL_SAMPLE (R485): A 50 µs sensor reading drives the thermal steps of its die. -/
  | thermalSample (t : Nat) (sensor : Nat) (temp : Int) (bad_ : Bool)
  /-- COOLANT_CHECK (R487): Coolant readings select the coolant limit on package power. -/
  | coolantCheck (t : Nat) (h : Nat) (inlet : Int) (outlet : Int) (inBad : Bool) (outBad : Bool) (pulses : Nat)
  /-- RAIL_FAULT (R488): A rail outside 5 % for 10 µs fences a die, resets a hub or records an event. -/
  | railFault (t : Nat) (rail : Nat) (mv : Nat)
  /-- HUB_RESET (R490): PWR_CMD.hub_reset resets the named hub die. -/
  | hubReset (t : Nat) (acc : Agent) (hub : Nat)
  /-- PORST (R490): PORST_N resets the whole package except the event store and lifetime counters. -/
  | porst (t : Nat)
  /-- AGEING_MEASURE (R494): Every 24 hours PWR measures ageing monitors and lowers the ageing guard. -/
  | ageingMeasure (t : Nat) (x : Nat) (slows : List Nat)
  /-- LIFETIME_SAVE (R493): Every hour, and at STANDBY entry, rootstock copies the lifetime counters to flash. -/
  | lifetimeSave (t : Nat) (ok : Bool)
  /-- INSTRUCTION_NOP (R162): The NOP instruction (opcode 0x00) issues in one cycle and changes nothing. -/
  | instructionNop (g : Nat)
  /-- UNSUPPORTED_REQUEST (R41): A received I/O request, or any PCIe request the device does not support, completes with Unsupported Request. -/
  | unsupportedRequest (t : Nat) (link : Nat) (posted : Bool)
  /-- VF_ENABLE_WRITE (R79): A host write to a link PF's SR-IOV VF Enable or NumVFs shows or hides partitions, and clearing VF Enable applies R78 to every VF on the link. -/
  | vfEnableWrite (t : Nat) (link : Nat) (en : Bool) (num : Nat)
  /-- MANAGEMENT_CLUSTER_ACCESS (R31): A management cluster access to a reserved, unpopulated, partition-owned or SEC-private address returns a bus error and records event 0x1001. -/
  | managementClusterAccess (t : Nat) (hub : Nat) (core : Nat) (addr : Nat) (isWrite : Bool) (len : Nat) (data : List Byte)
  /-- ISLAND_PERIODIC_TEST (R422): Every 100 ms interval the island runs its own periodic test in a quiet window with 120 µs left on every RUN stream. -/
  | islandPeriodicTest (t : Nat) (isl : Nat) (ecc : Bool)
  /-- QUIET_WINDOW_OPEN (R422): A stream's quiet window opens quiet_off_us after a pass verdict, and a deferred core move or island test may then start. -/
  | quietWindowOpen (t : Nat) (isl : Nat) (n : Nat)
  /-- ISLAND_PLL_UNLOCK (R396): Loss of an island's clock or a PLL unlock stops ALIVE_x and drives FAULT_x_N low through the island's own circuit. -/
  | islandPllUnlock (t : Nat) (isl : Nat)
  /-- ISLAND_DEBUG_RESUME (R394): A debug resume or single step restarts both island cores together, and the safe state stays latched. -/
  | islandDebugResume (t : Nat) (isl : Nat) (step : Bool)
  /-- ISLAND_RESET_ASSERT (R390): Assertion of ISL_x_RST_N resets that island, driving FAULT_x_N and ALIVE_x low. -/
  | islandResetAssert (t : Nat) (isl : Nat)
  /-- CAN_BUSOFF_RECOVERY (R416): The CAN FD controller recovers from bus-off as ISO 11898-1 allows and rejoins the bus. -/
  | canBusoffRecovery (t : Nat) (isl : Nat)
  /-- VDD_AON_LOSS (R465): Loss of VDD_AON on HN empties the event store and resets EVR_HEAD and the always-on lifetime counters. -/
  | vddAonLoss (t : Nat)
  deriving DecidableEq, Repr

end Sys2Proof
end

