-- ==== Sys2Proof/Decode.lean ====
section
/-!
DEFINITION. Decode.lean: the command that a word of the opcode table's bits spells. The table gives no row any bits
(the commands reach the part as events, not as words), so no word spells one.
-/
namespace Sys2Proof

/-- The command a word spells: the table gives no row bits, so none. -/
def decodeTableWord (_nbits _w : Nat) : Option Instr := none

end Sys2Proof
end

