-- ==== Sys2Proof/Machine/Hash.lean ====
section
/-!
DEFINITION. Hash.lean: SHA3-256 (FIPS 202) and the checks CRC-8 (R198), CRC-32C (R297) and CRC-64 (Table 13.3).
-/
namespace Sys2Proof.Machine

/-- Round constants of Keccak-f[1600]. -/
def keccakRc : List DWord :=
  [0x0000000000000001, 0x0000000000008082, 0x800000000000808A, 0x8000000080008000, 0x000000000000808B,
   0x0000000080000001, 0x8000000080008081, 0x8000000000008009, 0x000000000000008A, 0x0000000000000088,
   0x0000000080008009, 0x000000008000000A, 0x000000008000808B, 0x800000000000008B, 0x8000000000008089,
   0x8000000000008003, 0x8000000000008002, 0x8000000000000080, 0x000000000000800A, 0x800000008000000A,
   0x8000000080008081, 0x8000000000008080, 0x0000000080000001, 0x8000000080008008]

/-- Rotation offsets by lane 5·y + x. -/
def keccakRot : List Nat :=
  [0, 1, 62, 28, 27, 36, 44, 6, 55, 20, 3, 10, 43, 25, 39, 41, 45, 15, 21, 8, 18, 2, 61, 56, 14]

/-- One round on the 25 lanes, lane 5·y + x. -/
def keccakRound (rc : DWord) (a : List DWord) : List DWord :=
  let lane (l : List DWord) (x y : Nat) : DWord := l.getD (5 * (y % 5) + x % 5) 0
  let c := (List.range 5).map fun x => lane a x 0 ^^^ lane a x 1 ^^^ lane a x 2 ^^^ lane a x 3 ^^^ lane a x 4
  let d := (List.range 5).map fun x => c.getD ((x + 4) % 5) 0 ^^^ (c.getD ((x + 1) % 5) 0).rotateLeft 1
  let t := (List.range 25).map fun i => a.getD i 0 ^^^ d.getD (i % 5) 0
  -- rho and pi: lane (x, y) takes the rotated lane (x + 3 y, x)
  let b := (List.range 25).map fun i =>
    let x := i % 5
    let y := i / 5
    let sx := (x + 3 * y) % 5
    let j := 5 * x + sx
    (t.getD j 0).rotateLeft (keccakRot.getD j 0)
  (List.range 25).map fun i =>
    let x := i % 5
    let y := i / 5
    let v := lane b x y ^^^ (~~~(lane b (x + 1) y) &&& lane b (x + 2) y)
    if i = 0 then v ^^^ rc else v

/-- The permutation. -/
def keccakF (a : List DWord) : List DWord := keccakRc.foldl (fun a rc => keccakRound rc a) a

/-- Eight bytes as a lane. -/
def laneOf : List Byte → Nat
  | [] => 0
  | b :: r => b.toNat + 256 * laneOf r

/-- Absorb whole 136-byte blocks; `n` bounds how many. -/
def keccakAbsorb : (n : Nat) → List Byte → List DWord → List DWord
  | 0, _, a => a
  | n + 1, m, a =>
    if m.isEmpty then a
    else
      let blk := m.take 136
      let a := (List.range 25).map fun i =>
        if i < 17 then a.getD i 0 ^^^ BitVec.ofNat 64 (laneOf ((blk.drop (8 * i)).take 8)) else a.getD i 0
      keccakAbsorb n (m.drop 136) (keccakF a)

/-- SHA3-256 of a byte string, 32 bytes. -/
def sha3 (m : List Byte) : List Byte :=
  let r := 136 - m.length % 136
  let pad : List Byte :=
    if r = 1 then [0x86#8] else 0x06#8 :: (List.replicate (r - 2) 0#8 ++ [0x80#8])
  let p := m ++ pad
  let a := keccakAbsorb (p.length / 136 + 1) p (List.replicate 25 0)
  ((List.range 4).map fun i => (List.range 8).map fun j => BitVec.ofNat 8 ((a.getD i 0).toNat >>> (8 * j))).flatten

/-- One bit of a non-reflected CRC of width `w`, most significant bit first. -/
def crcShift (w poly c : Nat) : Nat :=
  if c.testBit (w - 1) then (c * 2 % 2 ^ w) ^^^ poly else c * 2 % 2 ^ w

/-- `n` steps of a function. -/
def iter {α : Type} (f : α → α) : (n : Nat) → α → α
  | 0, a => a
  | n + 1, a => iter f n (f a)

/-- A non-reflected CRC with initial value 0 and no final inversion. -/
def crcPlain (w poly : Nat) (m : List Byte) : Nat :=
  m.foldl (fun c b => iter (crcShift w poly) 8 (c ^^^ (b.toNat <<< (w - 8)))) 0

/-- CRC-8 of R198. -/
def crc8 (m : List Byte) : Nat := crcPlain 8 0x07 m

/-- CRC-64 of a flit (Table 13.3). -/
def crc64 (m : List Byte) : Nat := crcPlain 64 0x42F0E1EBA9EA3693 m

/-- One bit of the reflected CRC-32C. -/
def crc32Shift (c : Nat) : Nat := if c % 2 = 1 then c / 2 ^^^ 0x82F63B78 else c / 2

/-- The CRC-32C register after more bytes (R297). -/
def crc32cFrom (c : Nat) (m : List Byte) : Nat := m.foldl (fun c b => iter crc32Shift 8 (c ^^^ b.toNat)) c

/-- CRC-32C of R297. -/
def crc32c (m : List Byte) : Nat := crc32cFrom 0xFFFFFFFF m ^^^ 0xFFFFFFFF

end Sys2Proof.Machine
end

