-- ==== Sys2Proof/Machine/Registers.lean ====
section
/-!
DEFINITION. Registers.lean: the register tables of the spec (spec/01 to spec/17), field by field: place, access code and
class (Table 0.4), reset value, and whether the field is an expert field (R11). Offsets are within the block.
A field whose write has a row of its own in the opcode table carries the class `row`. Fused and OTP fields carry 0
here: they are computed from `Fuse` when read.
-/
namespace Sys2Proof.Machine

/-- Access codes (Table 0.4). -/
inductive Acc where
  | ro | rw | w1c | w1s
  deriving DecidableEq, Repr

/-- Classes (R7); `row` where the opcode table has a row for the write. -/
inductive Cls where
  | none | sh | lv | lk | row
  deriving DecidableEq, Repr

/-- A field: low bit, width, access, class, reset value, expert field. -/
structure RegField where
  lo : Nat
  w : Nat
  acc : Acc
  cls : Cls
  reset : Nat
  expert : Bool
  deriving DecidableEq, Repr

/-- A register or an array of registers: offset, two strides with their counts, fields. -/
structure RegDef where
  off : Nat
  s1 : Nat
  n1 : Nat
  s2 : Nat
  n2 : Nat
  fields : List RegField
  deriving DecidableEq, Repr

/-- Registers of GLB, part 0 (spec register tables). -/
def regsGlb0 : List RegDef :=
  [
   -- GLB_ID
   ⟨0x0, 0x4, 1, 0x4, 1, [⟨0, 16, .ro, .none, 9216, false⟩,
     ⟨16, 4, .ro, .none, 0, false⟩,
     ⟨20, 4, .ro, .none, 0, false⟩,
     ⟨24, 4, .ro, .none, 0, false⟩]⟩,
   -- GLB_ARCH
   ⟨0x4, 0x4, 1, 0x4, 1, [⟨0, 4, .ro, .none, 1, false⟩,
     ⟨4, 8, .ro, .none, 1, false⟩,
     ⟨12, 16, .ro, .none, 2, false⟩]⟩,
   -- GLB_CAP0
   ⟨0x10, 0x4, 1, 0x4, 1, [⟨0, 1, .ro, .none, 1, false⟩,
     ⟨1, 1, .ro, .none, 1, false⟩,
     ⟨2, 1, .ro, .none, 1, false⟩,
     ⟨3, 1, .ro, .none, 1, false⟩,
     ⟨4, 1, .ro, .none, 1, false⟩,
     ⟨5, 1, .ro, .none, 1, false⟩,
     ⟨6, 1, .ro, .none, 1, false⟩,
     ⟨7, 1, .ro, .none, 1, false⟩,
     ⟨8, 1, .ro, .none, 1, false⟩,
     ⟨9, 1, .ro, .none, 1, false⟩,
     ⟨10, 1, .ro, .none, 1, false⟩,
     ⟨11, 1, .ro, .none, 1, false⟩]⟩,
   -- GLB_CAP1
   ⟨0x14, 0x4, 1, 0x4, 1, [⟨0, 8, .ro, .none, 32, false⟩,
     ⟨8, 8, .ro, .none, 16, false⟩,
     ⟨16, 9, .ro, .none, 256, false⟩]⟩,
   -- GLB_CAP2
   ⟨0x18, 0x4, 1, 0x4, 1, [⟨0, 8, .ro, .none, 48, false⟩,
     ⟨8, 8, .ro, .none, 12, false⟩,
     ⟨16, 4, .ro, .none, 4, false⟩,
     ⟨20, 4, .ro, .none, 4, false⟩]⟩,
   -- GLB_CAP3
   ⟨0x1C, 0x4, 1, 0x4, 1, [⟨0, 8, .ro, .none, 0, false⟩,
     ⟨8, 8, .ro, .none, 0, false⟩,
     ⟨16, 2, .ro, .none, 0, false⟩,
     ⟨18, 2, .ro, .none, 0, false⟩,
     ⟨20, 2, .ro, .none, 0, false⟩,
     ⟨22, 2, .ro, .none, 0, false⟩,
     ⟨24, 1, .ro, .none, 0, false⟩,
     ⟨25, 1, .ro, .none, 0, false⟩]⟩,
   -- GLB_CORES
   ⟨0x20, 0x4, 1, 0x4, 1, [⟨0, 8, .ro, .none, 0, false⟩,
     ⟨8, 8, .ro, .none, 0, false⟩,
     ⟨16, 8, .ro, .none, 0, false⟩,
     ⟨24, 8, .ro, .none, 0, false⟩]⟩,
   -- GLB_CORE_ENd
   ⟨0x30, 0x4, 4, 0x4, 1, [⟨0, 32, .ro, .none, 0, false⟩]⟩,
   -- GLB_DIE_STATE
   ⟨0x40, 0x4, 1, 0x4, 1, [⟨0, 4, .ro, .none, 0, false⟩,
     ⟨4, 4, .ro, .none, 0, false⟩,
     ⟨8, 4, .ro, .none, 0, false⟩,
     ⟨12, 4, .ro, .none, 0, false⟩,
     ⟨16, 4, .ro, .none, 0, false⟩,
     ⟨20, 4, .ro, .none, 0, false⟩]⟩,
   -- GLB_ERR
   ⟨0x44, 0x4, 1, 0x4, 1, [⟨0, 1, .w1c, .none, 0, false⟩,
     ⟨1, 1, .w1c, .none, 0, false⟩,
     ⟨2, 1, .w1c, .none, 0, false⟩,
     ⟨8, 8, .ro, .none, 0, false⟩]⟩,
   -- GLB_ERR_ADDR
   ⟨0x48, 0x4, 1, 0x4, 1, [⟨0, 26, .ro, .none, 0, false⟩]⟩]

/-- Every register of GLB. -/
def regsGlb : List RegDef := regsGlb0

/-- Registers of HIF, part 0 (spec register tables). -/
def regsHif0 : List RegDef :=
  [
   -- HIF_LINK_CFG
   ⟨0x0, 0x4, 1, 0x4, 1, [⟨0, 2, .ro, .none, 0, false⟩,
     ⟨2, 2, .ro, .none, 0, false⟩,
     ⟨4, 2, .ro, .none, 0, false⟩]⟩,
   -- HIF_LINK_STn
   ⟨0x10, 0x4, 4, 0x4, 1, [⟨0, 3, .ro, .none, 0, false⟩,
     ⟨4, 4, .ro, .none, 0, false⟩,
     ⟨8, 1, .ro, .none, 0, false⟩,
     ⟨9, 1, .ro, .none, 0, false⟩,
     ⟨10, 1, .ro, .none, 0, false⟩,
     ⟨11, 1, .ro, .none, 0, false⟩]⟩,
   -- HIF_VF_MAPm
   ⟨0x40, 0x4, 2, 0x4, 1, [⟨0, 2, .rw, .lk, 0, false⟩,
     ⟨2, 2, .rw, .lk, 0, false⟩,
     ⟨4, 2, .rw, .lk, 0, false⟩,
     ⟨6, 2, .rw, .lk, 0, false⟩,
     ⟨8, 2, .rw, .lk, 0, false⟩,
     ⟨10, 2, .rw, .lk, 0, false⟩,
     ⟨12, 2, .rw, .lk, 0, false⟩,
     ⟨14, 2, .rw, .lk, 0, false⟩,
     ⟨16, 2, .rw, .lk, 0, false⟩,
     ⟨18, 2, .rw, .lk, 0, false⟩,
     ⟨20, 2, .rw, .lk, 0, false⟩,
     ⟨22, 2, .rw, .lk, 0, false⟩,
     ⟨24, 2, .rw, .lk, 0, false⟩,
     ⟨26, 2, .rw, .lk, 0, false⟩,
     ⟨28, 2, .rw, .lk, 0, false⟩,
     ⟨30, 2, .rw, .lk, 0, false⟩]⟩]

/-- Every register of HIF. -/
def regsHif : List RegDef := regsHif0

/-- Registers of FN, part 0 (spec register tables). -/
def regsFn0 : List RegDef :=
  [
   -- HIF_FN_STATUS
   ⟨0x0, 0x4, 1, 0x4, 1, [⟨0, 8, .ro, .none, 0, false⟩,
     ⟨8, 2, .ro, .none, 0, false⟩,
     ⟨10, 2, .ro, .none, 0, false⟩]⟩,
   -- HIF_FN_CTRL
   ⟨0x4, 0x4, 1, 0x4, 1, [⟨0, 1, .rw, .lv, 0, false⟩]⟩,
   -- HIF_FN_ERR
   ⟨0x8, 0x4, 1, 0x4, 1, [⟨0, 1, .w1c, .none, 0, false⟩,
     ⟨1, 1, .w1c, .none, 0, false⟩,
     ⟨2, 1, .w1c, .none, 0, false⟩,
     ⟨3, 1, .w1c, .none, 0, false⟩,
     ⟨4, 1, .w1c, .none, 0, false⟩,
     ⟨5, 1, .w1c, .none, 0, false⟩,
     ⟨8, 3, .ro, .none, 0, false⟩]⟩,
   -- HIF_RING_BASE_LOr
   ⟨0x100, 0x20, 8, 0x4, 1, [⟨12, 20, .rw, .lk, 0, false⟩]⟩,
   -- HIF_RING_BASE_HIr
   ⟨0x104, 0x20, 8, 0x4, 1, [⟨0, 32, .rw, .lk, 0, false⟩]⟩,
   -- HIF_RING_CFGr
   ⟨0x108, 0x20, 8, 0x4, 1, [⟨0, 5, .rw, .lk, 0, false⟩,
     ⟨8, 4, .rw, .lk, 0, false⟩,
     ⟨16, 1, .rw, .row, 0, false⟩]⟩,
   -- HIF_RING_STATEr
   ⟨0x10C, 0x20, 8, 0x4, 1, [⟨0, 2, .ro, .none, 0, false⟩,
     ⟨2, 2, .ro, .none, 0, false⟩,
     ⟨4, 4, .ro, .none, 0, false⟩,
     ⟨16, 16, .ro, .none, 0, false⟩]⟩,
   -- HIF_IRQ_CFGr
   ⟨0x190, 0x20, 4, 0x4, 1, [⟨0, 2, .rw, .sh, 0, false⟩,
     ⟨8, 6, .rw, .lk, 0, false⟩,
     ⟨16, 8, .rw, .sh, 1, true⟩,
     ⟨24, 8, .rw, .sh, 1, true⟩]⟩]

/-- Every register of FN. -/
def regsFn : List RegDef := regsFn0

/-- Registers of PRT, part 0 (spec register tables). -/
def regsPrt0 : List RegDef :=
  [
   -- PRT_STATUS
   ⟨0x0, 0x4, 1, 0x4, 1, [⟨0, 2, .ro, .none, 1, false⟩,
     ⟨2, 1, .ro, .none, 0, false⟩,
     ⟨8, 6, .ro, .none, 0, false⟩,
     ⟨16, 9, .ro, .none, 0, false⟩]⟩,
   -- PRT_FREE
   ⟨0x4, 0x4, 1, 0x4, 1, [⟨0, 8, .ro, .none, 0, false⟩,
     ⟨8, 8, .ro, .none, 0, false⟩,
     ⟨16, 8, .ro, .none, 0, false⟩,
     ⟨24, 8, .ro, .none, 0, false⟩]⟩,
   -- PRT_CTRL
   ⟨0x8, 0x4, 1, 0x4, 1, [⟨0, 1, .rw, .lv, 0, false⟩]⟩,
   -- PRT_SCHED
   ⟨0xC, 0x4, 1, 0x4, 1, [⟨0, 2, .rw, .sh, 0, false⟩,
     ⟨8, 16, .rw, .sh, 0, true⟩]⟩,
   -- PRT_ERR
   ⟨0x10, 0x4, 1, 0x4, 1, [⟨0, 1, .w1c, .none, 0, false⟩,
     ⟨1, 1, .w1c, .none, 0, false⟩,
     ⟨2, 1, .w1c, .none, 0, false⟩,
     ⟨8, 8, .ro, .none, 0, false⟩]⟩,
   -- PRT_PART_CFGp
   ⟨0x100, 0x10, 32, 0x4, 1, [⟨0, 2, .ro, .none, 0, false⟩,
     ⟨2, 1, .ro, .none, 0, false⟩,
     ⟨3, 1, .ro, .none, 0, false⟩,
     ⟨4, 1, .ro, .none, 0, false⟩,
     ⟨5, 1, .ro, .none, 0, false⟩,
     ⟨16, 16, .ro, .none, 0, false⟩]⟩,
   -- PRT_PART_COREp
   ⟨0x104, 0x10, 32, 0x4, 1, [⟨0, 8, .ro, .none, 0, false⟩,
     ⟨8, 8, .ro, .none, 0, false⟩,
     ⟨16, 8, .ro, .none, 0, false⟩,
     ⟨24, 8, .ro, .none, 0, false⟩]⟩,
   -- PRT_PART_MEMp
   ⟨0x108, 0x10, 32, 0x4, 1, [⟨0, 16, .ro, .none, 0, false⟩,
     ⟨16, 16, .ro, .none, 0, false⟩]⟩,
   -- PRT_PART_BWp
   ⟨0x10C, 0x10, 32, 0x4, 1, [⟨0, 8, .ro, .none, 0, false⟩,
     ⟨8, 8, .ro, .none, 0, false⟩]⟩,
   -- PRT_CTX_STps
   ⟨0x1000, 0x40, 32, 0x4, 16, [⟨0, 4, .ro, .none, 0, false⟩,
     ⟨4, 2, .ro, .none, 0, false⟩,
     ⟨6, 2, .ro, .none, 0, false⟩,
     ⟨8, 8, .ro, .none, 0, false⟩,
     ⟨16, 1, .ro, .none, 0, false⟩,
     ⟨17, 1, .ro, .none, 0, false⟩,
     ⟨18, 1, .ro, .none, 0, false⟩]⟩]

/-- Every register of PRT. -/
def regsPrt : List RegDef := regsPrt0

/-- Registers of CORE, part 0 (spec register tables). -/
def regsCore0 : List RegDef :=
  [
   -- CORE_STATUS
   ⟨0x0, 0x4, 1, 0x4, 1, [⟨0, 1, .ro, .none, 0, false⟩,
     ⟨1, 1, .ro, .none, 0, false⟩,
     ⟨2, 3, .ro, .none, 0, false⟩,
     ⟨8, 6, .ro, .none, 0, false⟩,
     ⟨16, 4, .ro, .none, 0, false⟩,
     ⟨20, 7, .ro, .none, 0, false⟩]⟩,
   -- CORE_LIVE0
   ⟨0x8, 0x4, 1, 0x4, 1, [⟨0, 32, .ro, .none, 0, false⟩]⟩,
   -- CORE_LIVE1
   ⟨0xC, 0x4, 1, 0x4, 1, [⟨0, 16, .ro, .none, 0, false⟩]⟩,
   -- CORE_ERR
   ⟨0x10, 0x4, 1, 0x4, 1, [⟨0, 1, .w1c, .none, 0, false⟩,
     ⟨1, 1, .w1c, .none, 0, false⟩,
     ⟨2, 1, .w1c, .none, 0, false⟩]⟩,
   -- CORE_CNT_CTRL
   ⟨0x20, 0x4, 1, 0x4, 1, [⟨0, 1, .w1s, .row, 0, false⟩,
     ⟨1, 1, .rw, .lv, 0, false⟩]⟩,
   -- CORE_CNTi_LO
   ⟨0x100, 0x8, 12, 0x4, 1, [⟨0, 32, .ro, .none, 0, false⟩]⟩,
   -- CORE_CNTi_HI
   ⟨0x104, 0x8, 12, 0x4, 1, [⟨0, 32, .ro, .none, 0, false⟩]⟩]

/-- Every register of CORE. -/
def regsCore : List RegDef := regsCore0

/-- Registers of DIE, part 0 (spec register tables). -/
def regsDie0 : List RegDef :=
  [
   -- CDx_CTRL
   ⟨0x0, 0x4, 1, 0x4, 1, [⟨0, 1, .rw, .lv, 0, false⟩]⟩,
   -- CDx_GLEAN
   ⟨0x4, 0x4, 1, 0x4, 1, [⟨0, 2, .rw, .sh, 1, false⟩,
     ⟨8, 4, .rw, .sh, 2, true⟩,
     ⟨12, 3, .rw, .sh, 2, true⟩]⟩,
   -- CDx_MESH_ERR
   ⟨0x10, 0x4, 1, 0x4, 1, [⟨0, 1, .w1c, .none, 0, false⟩,
     ⟨1, 1, .w1c, .none, 0, false⟩,
     ⟨2, 1, .w1c, .none, 0, false⟩,
     ⟨8, 5, .ro, .none, 0, false⟩]⟩]

/-- Every register of DIE. -/
def regsDie : List RegDef := regsDie0

/-- Registers of SDL, part 0 (spec register tables). -/
def regsSdl0 : List RegDef :=
  [
   -- SDL_STATUS
   ⟨0x0, 0x4, 1, 0x4, 1, [⟨0, 7, .ro, .none, 0, false⟩,
     ⟨8, 19, .ro, .none, 0, false⟩]⟩,
   -- SDL_CTRL
   ⟨0x4, 0x4, 1, 0x4, 1, [⟨0, 1, .rw, .lv, 0, false⟩]⟩,
   -- SDL_SLICE
   ⟨0x8, 0x4, 1, 0x4, 1, [⟨0, 2, .rw, .sh, 1, false⟩]⟩,
   -- SDL_ERR
   ⟨0x10, 0x4, 1, 0x4, 1, [⟨0, 1, .w1c, .none, 0, false⟩,
     ⟨1, 1, .w1c, .none, 0, false⟩,
     ⟨2, 1, .w1c, .none, 0, false⟩,
     ⟨8, 6, .ro, .none, 0, false⟩]⟩,
   -- SDL_ENTe_CFG
   ⟨0x1000, 0x20, 64, 0x4, 1, [⟨0, 1, .rw, .sh, 0, false⟩,
     ⟨1, 1, .rw, .lk, 0, false⟩,
     ⟨2, 6, .rw, .sh, 0, false⟩,
     ⟨8, 6, .rw, .sh, 0, false⟩,
     ⟨14, 4, .rw, .sh, 0, false⟩]⟩,
   -- SDL_ENTe_JOB_LO
   ⟨0x1004, 0x20, 64, 0x4, 1, [⟨6, 26, .rw, .sh, 0, false⟩]⟩,
   -- SDL_ENTe_JOB_HI
   ⟨0x1008, 0x20, 64, 0x4, 1, [⟨0, 6, .rw, .sh, 0, false⟩]⟩,
   -- SDL_ENTe_SLICE
   ⟨0x100C, 0x20, 64, 0x4, 1, [⟨0, 16, .rw, .sh, 200, true⟩]⟩,
   -- SDL_ENTe_STAT
   ⟨0x1010, 0x20, 64, 0x4, 1, [⟨0, 1, .ro, .none, 0, false⟩,
     ⟨1, 3, .ro, .none, 0, false⟩,
     ⟨8, 8, .ro, .none, 0, false⟩,
     ⟨16, 8, .ro, .none, 0, false⟩,
     ⟨24, 8, .ro, .none, 0, false⟩]⟩]

/-- Every register of SDL. -/
def regsSdl : List RegDef := regsSdl0

/-- Registers of ING, part 0 (spec register tables). -/
def regsIng0 : List RegDef :=
  [
   -- ING_STATUS
   ⟨0x0, 0x4, 1, 0x4, 1, [⟨0, 6, .ro, .none, 0, false⟩,
     ⟨8, 6, .ro, .none, 0, false⟩]⟩,
   -- ING_CTRL
   ⟨0x4, 0x4, 1, 0x4, 1, [⟨0, 1, .rw, .lv, 0, false⟩]⟩,
   -- ING_ERR
   ⟨0x8, 0x4, 1, 0x4, 1, [⟨0, 1, .w1c, .none, 0, false⟩,
     ⟨1, 1, .w1c, .none, 0, false⟩,
     ⟨2, 1, .w1c, .none, 0, false⟩,
     ⟨3, 1, .w1c, .none, 0, false⟩,
     ⟨4, 1, .w1c, .none, 0, false⟩,
     ⟨5, 1, .w1c, .none, 0, false⟩,
     ⟨6, 1, .w1c, .none, 0, false⟩,
     ⟨8, 6, .ro, .none, 0, false⟩]⟩,
   -- ING_TIME_LO
   ⟨0x10, 0x4, 1, 0x4, 1, [⟨0, 32, .ro, .none, 0, false⟩]⟩,
   -- ING_TIME_HI
   ⟨0x14, 0x4, 1, 0x4, 1, [⟨0, 32, .ro, .none, 0, false⟩]⟩,
   -- ING_TIME_ST
   ⟨0x18, 0x4, 1, 0x4, 1, [⟨0, 1, .ro, .none, 0, false⟩,
     ⟨1, 1, .ro, .none, 1, false⟩,
     ⟨2, 1, .ro, .none, 0, false⟩,
     ⟨3, 1, .ro, .none, 0, false⟩,
     ⟨4, 1, .w1c, .none, 0, false⟩,
     ⟨16, 16, .ro, .none, 0, false⟩]⟩,
   -- ING_TIME_CFG
   ⟨0x1C, 0x4, 1, 0x4, 1, [⟨0, 1, .rw, .lv, 0, false⟩,
     ⟨1, 2, .rw, .lk, 0, false⟩,
     ⟨3, 1, .rw, .lk, 0, false⟩]⟩,
   -- ING_TIME_CTRL
   ⟨0x20, 0x4, 1, 0x4, 1, [⟨0, 1, .w1s, .row, 0, false⟩]⟩,
   -- ING_POOL
   ⟨0x30, 0x4, 1, 0x4, 1, [⟨0, 15, .ro, .none, 24576, false⟩,
     ⟨16, 15, .ro, .none, 0, false⟩]⟩,
   -- ING_PORTp_CFG
   ⟨0x100, 0x4, 12, 0x4, 1, [⟨0, 2, .rw, .lk, 0, false⟩,
     ⟨2, 2, .rw, .lk, 0, false⟩]⟩,
   -- ING_MACm_CFG
   ⟨0x140, 0x4, 4, 0x4, 1, [⟨0, 1, .rw, .lk, 0, false⟩]⟩,
   -- ING_STRs_BIND
   ⟨0x1000, 0x40, 48, 0x4, 1, [⟨0, 1, .ro, .none, 0, false⟩,
     ⟨1, 1, .ro, .none, 0, false⟩,
     ⟨2, 6, .ro, .none, 0, false⟩,
     ⟨8, 2, .ro, .none, 0, false⟩,
     ⟨10, 4, .ro, .none, 0, false⟩,
     ⟨14, 4, .ro, .none, 0, false⟩,
     ⟨18, 6, .ro, .none, 0, false⟩,
     ⟨24, 2, .ro, .none, 0, false⟩]⟩]

/-- Registers of ING, part 1 (spec register tables). -/
def regsIng1 : List RegDef :=
  [
   -- ING_STRs_GEOM
   ⟨0x1004, 0x40, 48, 0x4, 1, [⟨0, 16, .ro, .none, 0, false⟩,
     ⟨16, 16, .ro, .none, 0, false⟩]⟩,
   -- ING_STRs_REC_LO
   ⟨0x1008, 0x40, 48, 0x4, 1, [⟨6, 26, .rw, .sh, 0, false⟩]⟩,
   -- ING_STRs_REC_HI
   ⟨0x100C, 0x40, 48, 0x4, 1, [⟨0, 6, .rw, .sh, 0, false⟩,
     ⟨8, 4, .rw, .sh, 0, false⟩,
     ⟨12, 1, .rw, .sh, 0, false⟩]⟩,
   -- ING_STRs_FRESH
   ⟨0x1010, 0x40, 48, 0x4, 1, [⟨0, 5, .rw, .sh, 16, true⟩,
     ⟨5, 3, .rw, .sh, 2, true⟩,
     ⟨8, 3, .rw, .sh, 2, true⟩,
     ⟨11, 4, .rw, .sh, 4, true⟩,
     ⟨15, 8, .rw, .sh, 25, true⟩]⟩,
   -- ING_STRs_TIMING
   ⟨0x1014, 0x40, 48, 0x4, 1, [⟨0, 20, .rw, .sh, 0, true⟩,
     ⟨20, 12, .rw, .sh, 200, true⟩]⟩,
   -- ING_STRs_ST
   ⟨0x1018, 0x40, 48, 0x4, 1, [⟨0, 2, .ro, .none, 0, false⟩,
     ⟨2, 20, .ro, .none, 0, false⟩]⟩,
   -- ING_STRs_CNT
   ⟨0x101C, 0x40, 48, 0x4, 1, [⟨0, 16, .ro, .none, 0, false⟩,
     ⟨16, 16, .ro, .none, 0, false⟩]⟩,
   -- ING_STRs_HELD
   ⟨0x1020, 0x40, 48, 0x4, 1, [⟨0, 15, .ro, .none, 0, false⟩,
     ⟨16, 15, .ro, .none, 0, false⟩]⟩]

/-- Every register of ING. -/
def regsIng : List RegDef := regsIng0 ++ regsIng1

/-- Registers of FUS, part 0 (spec register tables). -/
def regsFus0 : List RegDef :=
  [
   -- FUS_STATUS
   ⟨0x0, 0x4, 1, 0x4, 1, [⟨0, 1, .ro, .none, 0, false⟩,
     ⟨1, 1, .ro, .none, 0, false⟩,
     ⟨2, 2, .ro, .none, 0, false⟩,
     ⟨8, 6, .ro, .none, 0, false⟩]⟩,
   -- FUS_CTRL
   ⟨0x4, 0x4, 1, 0x4, 1, [⟨0, 1, .rw, .lv, 0, false⟩]⟩,
   -- FUS_ERR
   ⟨0x8, 0x4, 1, 0x4, 1, [⟨0, 1, .w1c, .none, 0, false⟩,
     ⟨1, 1, .w1c, .none, 0, false⟩,
     ⟨2, 1, .w1c, .none, 0, false⟩,
     ⟨3, 1, .w1c, .none, 0, false⟩,
     ⟨4, 1, .w1c, .none, 0, false⟩]⟩,
   -- FUS_CFG
   ⟨0x10, 0x4, 1, 0x4, 1, [⟨0, 1, .rw, .row, 0, false⟩,
     ⟨1, 6, .rw, .lk, 0, false⟩]⟩,
   -- FUS_SETUP_LO
   ⟨0x14, 0x4, 1, 0x4, 1, [⟨7, 25, .rw, .lk, 0, false⟩]⟩,
   -- FUS_SETUP_HI
   ⟨0x18, 0x4, 1, 0x4, 1, [⟨0, 6, .rw, .lk, 0, false⟩]⟩,
   -- FUS_PROFILE
   ⟨0x1C, 0x4, 1, 0x4, 1, [⟨0, 2, .rw, .sh, 0, false⟩]⟩,
   -- FUS_TUNE0
   ⟨0x20, 0x4, 1, 0x4, 1, [⟨0, 16, .rw, .sh, 256, true⟩,
     ⟨16, 12, .rw, .sh, 1024, true⟩]⟩,
   -- FUS_TUNE1
   ⟨0x24, 0x4, 1, 0x4, 1, [⟨0, 5, .rw, .sh, 8, true⟩,
     ⟨5, 5, .rw, .sh, 8, true⟩,
     ⟨10, 16, .rw, .sh, 64, true⟩]⟩,
   -- FUS_INST_LO
   ⟨0x30, 0x4, 1, 0x4, 1, [⟨0, 32, .ro, .none, 0, false⟩]⟩,
   -- FUS_INST_HI
   ⟨0x34, 0x4, 1, 0x4, 1, [⟨0, 32, .ro, .none, 0, false⟩]⟩,
   -- FUS_SRCi_CFG
   ⟨0x1000, 0x20, 32, 0x4, 1, [⟨0, 1, .rw, .sh, 0, false⟩]⟩]

/-- Registers of FUS, part 1 (spec register tables). -/
def regsFus1 : List RegDef :=
  [
   -- FUS_SRCi_REC_LO
   ⟨0x1004, 0x20, 32, 0x4, 1, [⟨6, 26, .rw, .sh, 0, false⟩]⟩,
   -- FUS_SRCi_REC_HI
   ⟨0x1008, 0x20, 32, 0x4, 1, [⟨0, 6, .rw, .sh, 0, false⟩]⟩,
   -- FUS_SRCi_STAT
   ⟨0x100C, 0x20, 32, 0x4, 1, [⟨0, 1, .ro, .none, 0, false⟩,
     ⟨1, 3, .ro, .none, 0, false⟩,
     ⟨8, 24, .ro, .none, 0, false⟩]⟩,
   -- FUS_SRCi_CNT
   ⟨0x1010, 0x20, 32, 0x4, 1, [⟨0, 12, .ro, .none, 0, false⟩,
     ⟨12, 12, .ro, .none, 0, false⟩,
     ⟨24, 8, .ro, .none, 0, false⟩]⟩]

/-- Every register of FUS. -/
def regsFus : List RegDef := regsFus0 ++ regsFus1

/-- Registers of DRC, part 0 (spec register tables). -/
def regsDrc0 : List RegDef :=
  [
   -- DRC_STATUS
   ⟨0x0, 0x4, 1, 0x4, 1, [⟨0, 3, .ro, .none, 0, false⟩,
     ⟨3, 2, .ro, .none, 0, false⟩,
     ⟨5, 2, .ro, .none, 0, false⟩,
     ⟨8, 8, .ro, .none, 0, false⟩,
     ⟨16, 8, .ro, .none, 0, false⟩]⟩,
   -- DRC_CTRL
   ⟨0x4, 0x4, 1, 0x4, 1, [⟨0, 1, .rw, .lv, 0, false⟩]⟩,
   -- DRC_ERR
   ⟨0x8, 0x4, 1, 0x4, 1, [⟨0, 1, .w1c, .none, 0, false⟩,
     ⟨1, 1, .w1c, .none, 0, false⟩,
     ⟨2, 1, .w1c, .none, 0, false⟩,
     ⟨3, 1, .w1c, .none, 0, false⟩,
     ⟨4, 1, .w1c, .none, 0, false⟩,
     ⟨5, 1, .w1c, .none, 0, false⟩,
     ⟨8, 4, .ro, .none, 0, false⟩]⟩,
   -- DRC_SCHED
   ⟨0x10, 0x4, 1, 0x4, 1, [⟨0, 2, .rw, .sh, 0, false⟩,
     ⟨2, 9, .rw, .sh, 64, true⟩,
     ⟨11, 6, .rw, .sh, 48, true⟩,
     ⟨17, 6, .rw, .sh, 16, true⟩,
     ⟨23, 9, .rw, .sh, 50, true⟩]⟩,
   -- DRC_RAT
   ⟨0x14, 0x4, 1, 0x4, 1, [⟨0, 2, .rw, .sh, 0, false⟩,
     ⟨2, 14, .rw, .sh, 2048, true⟩,
     ⟨16, 8, .rw, .sh, 20, true⟩]⟩,
   -- DRC_SCRUB
   ⟨0x18, 0x4, 1, 0x4, 1, [⟨0, 2, .rw, .sh, 0, false⟩]⟩,
   -- DRC_SETn_CFG
   ⟨0x20, 0x4, 3, 0x4, 1, [⟨0, 14, .rw, .lk, 0, false⟩,
     ⟨14, 1, .rw, .lk, 0, false⟩,
     ⟨15, 1, .rw, .lk, 0, false⟩,
     ⟨16, 1, .rw, .lk, 0, false⟩,
     ⟨17, 1, .rw, .lk, 1, false⟩,
     ⟨18, 1, .ro, .none, 0, false⟩]⟩,
   -- DRC_CE_CNT
   ⟨0x30, 0x4, 1, 0x4, 1, [⟨0, 32, .ro, .none, 0, false⟩]⟩,
   -- DRC_UE_CNT
   ⟨0x34, 0x4, 1, 0x4, 1, [⟨0, 16, .ro, .none, 0, false⟩,
     ⟨16, 16, .ro, .none, 0, false⟩]⟩,
   -- DRC_LECC_CNT
   ⟨0x38, 0x4, 1, 0x4, 1, [⟨0, 32, .ro, .none, 0, false⟩]⟩,
   -- DRC_UE_ADDR_LO
   ⟨0x40, 0x4, 1, 0x4, 1, [⟨6, 26, .ro, .none, 0, false⟩]⟩,
   -- DRC_UE_ADDR_HI
   ⟨0x44, 0x4, 1, 0x4, 1, [⟨0, 16, .ro, .none, 0, false⟩,
     ⟨16, 6, .ro, .none, 0, false⟩,
     ⟨22, 1, .ro, .none, 0, false⟩]⟩]

/-- Registers of DRC, part 1 (spec register tables). -/
def regsDrc1 : List RegDef :=
  [
   -- DRC_FREEZE
   ⟨0x60, 0x4, 1, 0x4, 1, [⟨0, 1, .w1s, .row, 0, false⟩,
     ⟨1, 1, .rw, .row, 0, false⟩,
     ⟨2, 1, .rw, .lv, 0, false⟩,
     ⟨3, 1, .w1c, .none, 0, false⟩,
     ⟨4, 1, .ro, .none, 0, false⟩]⟩,
   -- DRC_DIAG_SEL
   ⟨0x64, 0x4, 1, 0x4, 1, [⟨0, 3, .rw, .lv, 0, false⟩,
     ⟨3, 4, .rw, .lv, 0, false⟩,
     ⟨7, 4, .rw, .lv, 0, false⟩,
     ⟨11, 5, .rw, .lv, 0, false⟩,
     ⟨31, 1, .ro, .none, 1, false⟩]⟩,
   -- DRC_DIAG_IDX
   ⟨0x68, 0x4, 1, 0x4, 1, [⟨0, 32, .rw, .lv, 0, false⟩]⟩,
   -- DRC_TRN_CTRL
   ⟨0x70, 0x4, 1, 0x4, 1, [⟨0, 1, .w1s, .row, 0, false⟩,
     ⟨1, 3, .ro, .none, 0, false⟩,
     ⟨4, 3, .w1c, .none, 0, false⟩,
     ⟨8, 8, .rw, .lv, 100, false⟩]⟩,
   -- DRC_DIAG_DATAi
   ⟨0x80, 0x4, 18, 0x4, 1, [⟨0, 32, .ro, .none, 0, false⟩]⟩,
   -- training window
   ⟨0x40000, 0x4, 12288, 0x4, 1, [⟨0, 32, .rw, .lk, 0, false⟩]⟩]

/-- Every register of DRC. -/
def regsDrc : List RegDef := regsDrc0 ++ regsDrc1

/-- Registers of LNK, part 0 (spec register tables). -/
def regsLnk0 : List RegDef :=
  [
   -- LNK_STATUS
   ⟨0x0, 0x4, 1, 0x4, 1, [⟨0, 8, .ro, .none, 0, false⟩,
     ⟨8, 8, .ro, .none, 0, false⟩,
     ⟨16, 8, .ro, .none, 0, false⟩]⟩,
   -- LNK_CTRL
   ⟨0x4, 0x4, 1, 0x4, 1, [⟨0, 1, .rw, .lv, 0, false⟩]⟩,
   -- LNK_ERR
   ⟨0x8, 0x4, 1, 0x4, 1, [⟨0, 1, .w1c, .none, 0, false⟩,
     ⟨1, 1, .w1c, .none, 0, false⟩,
     ⟨2, 1, .w1c, .none, 0, false⟩,
     ⟨3, 1, .w1c, .none, 0, false⟩,
     ⟨4, 1, .w1c, .none, 0, false⟩,
     ⟨8, 3, .ro, .none, 0, false⟩]⟩,
   -- LNK_POLICY
   ⟨0xC, 0x4, 1, 0x4, 1, [⟨0, 2, .rw, .sh, 0, false⟩,
     ⟨8, 8, .rw, .sh, 8, true⟩,
     ⟨16, 16, .rw, .sh, 1000, true⟩]⟩,
   -- LNK_Lk_ST
   ⟨0x100, 0x40, 8, 0x4, 1, [⟨0, 3, .ro, .none, 0, false⟩,
     ⟨3, 1, .ro, .none, 0, false⟩,
     ⟨4, 4, .ro, .none, 0, false⟩,
     ⟨8, 3, .ro, .none, 0, false⟩,
     ⟨16, 16, .ro, .none, 0, false⟩]⟩,
   -- LNK_Lk_RPbd
   ⟨0x104, 0x40, 8, 0x4, 8, [⟨0, 7, .ro, .none, 0, false⟩,
     ⟨7, 7, .ro, .none, 0, false⟩,
     ⟨14, 7, .ro, .none, 0, false⟩,
     ⟨21, 7, .ro, .none, 0, false⟩,
     ⟨28, 3, .ro, .none, 0, false⟩,
     ⟨31, 1, .ro, .none, 0, false⟩]⟩,
   -- LNK_Lk_CNT0
   ⟨0x124, 0x40, 8, 0x4, 1, [⟨0, 16, .ro, .none, 0, false⟩,
     ⟨16, 16, .ro, .none, 0, false⟩]⟩,
   -- LNK_Lk_CNT1
   ⟨0x128, 0x40, 8, 0x4, 1, [⟨0, 16, .ro, .none, 0, false⟩,
     ⟨16, 8, .ro, .none, 0, false⟩,
     ⟨24, 8, .ro, .none, 0, false⟩]⟩]

/-- Every register of LNK. -/
def regsLnk : List RegDef := regsLnk0

/-- Registers of PTN, part 0 (spec register tables). -/
def regsPtn0 : List RegDef :=
  [
   -- PTN_ST
   ⟨0x0, 0x4, 1, 0x4, 1, [⟨0, 3, .ro, .none, 0, false⟩,
     ⟨3, 3, .ro, .none, 0, false⟩,
     ⟨6, 1, .ro, .none, 0, false⟩,
     ⟨16, 16, .ro, .none, 0, false⟩]⟩,
   -- PTN_CFG
   ⟨0x4, 0x4, 1, 0x4, 1, [⟨0, 1, .rw, .row, 0, false⟩,
     ⟨1, 1, .rw, .lk, 0, false⟩]⟩,
   -- PTN_CTRL
   ⟨0x8, 0x4, 1, 0x4, 1, [⟨0, 1, .rw, .lv, 0, false⟩]⟩,
   -- PTN_LAG
   ⟨0xC, 0x4, 1, 0x4, 1, [⟨0, 2, .rw, .sh, 0, false⟩,
     ⟨16, 13, .rw, .sh, 1024, true⟩]⟩,
   -- PTN_ERR
   ⟨0x10, 0x4, 1, 0x4, 1, [⟨0, 1, .w1c, .none, 0, false⟩,
     ⟨1, 1, .w1c, .none, 0, false⟩,
     ⟨2, 1, .w1c, .none, 0, false⟩]⟩,
   -- PTN_CNT
   ⟨0x14, 0x4, 1, 0x4, 1, [⟨0, 32, .ro, .none, 0, false⟩]⟩,
   -- PTN_MIRROR_SEM
   ⟨0x18, 0x4, 1, 0x4, 1, [⟨0, 10, .rw, .lk, 0, false⟩,
     ⟨16, 10, .rw, .lk, 0, false⟩]⟩,
   -- PTN_RNGr_A
   ⟨0x100, 0x10, 32, 0x4, 1, [⟨0, 6, .ro, .none, 0, false⟩,
     ⟨6, 2, .ro, .none, 0, false⟩,
     ⟨8, 16, .ro, .none, 0, false⟩]⟩,
   -- PTN_RNGr_B
   ⟨0x104, 0x10, 32, 0x4, 1, [⟨0, 17, .ro, .none, 0, false⟩]⟩]

/-- Every register of PTN. -/
def regsPtn : List RegDef := regsPtn0

/-- Registers of SAF, part 0 (spec register tables). -/
def regsSaf0 : List RegDef :=
  [
   -- SAF_ST
   ⟨0x0, 0x4, 1, 0x4, 1, [⟨0, 3, .ro, .none, 0, false⟩,
     ⟨3, 1, .ro, .none, 0, false⟩,
     ⟨4, 1, .ro, .none, 0, false⟩,
     ⟨5, 7, .ro, .none, 0, false⟩,
     ⟨12, 1, .ro, .none, 0, false⟩,
     ⟨13, 1, .ro, .none, 0, false⟩]⟩,
   -- SAF_CAUSE
   ⟨0x4, 0x4, 1, 0x4, 1, [⟨0, 8, .ro, .none, 0, false⟩,
     ⟨8, 7, .ro, .none, 127, false⟩,
     ⟨15, 1, .ro, .none, 0, false⟩,
     ⟨16, 16, .ro, .none, 0, false⟩]⟩,
   -- SAF_DEC_LO
   ⟨0x8, 0x4, 1, 0x4, 1, [⟨0, 32, .ro, .none, 0, false⟩]⟩,
   -- SAF_DEC_HI
   ⟨0xC, 0x4, 1, 0x4, 1, [⟨0, 32, .ro, .none, 0, false⟩]⟩,
   -- SAF_CTRL
   ⟨0x10, 0x4, 1, 0x4, 1, [⟨0, 1, .rw, .lv, 0, false⟩]⟩,
   -- SAF_CMD
   ⟨0x14, 0x4, 1, 0x4, 1, [⟨0, 1, .w1s, .row, 0, false⟩]⟩,
   -- SAF_ERR
   ⟨0x18, 0x4, 1, 0x4, 1, [⟨0, 1, .w1c, .none, 0, false⟩,
     ⟨1, 1, .w1c, .none, 0, false⟩,
     ⟨2, 1, .w1c, .none, 0, false⟩,
     ⟨3, 1, .w1c, .none, 0, false⟩,
     ⟨4, 1, .w1c, .none, 0, false⟩,
     ⟨5, 1, .w1c, .none, 0, false⟩]⟩,
   -- SAF_CAN
   ⟨0x20, 0x4, 1, 0x4, 1, [⟨0, 2, .rw, .sh, 0, false⟩,
     ⟨2, 11, .rw, .lk, 16, false⟩,
     ⟨13, 11, .rw, .lk, 272, false⟩,
     ⟨24, 1, .rw, .lv, 1, false⟩]⟩,
   -- SAF_TEST
   ⟨0x24, 0x4, 1, 0x4, 1, [⟨0, 2, .rw, .sh, 0, false⟩,
     ⟨16, 16, .rw, .sh, 4000, true⟩]⟩,
   -- SAF_COV
   ⟨0x28, 0x4, 1, 0x4, 1, [⟨0, 1, .ro, .none, 0, false⟩,
     ⟨1, 1, .ro, .none, 0, false⟩,
     ⟨2, 1, .ro, .none, 0, false⟩,
     ⟨3, 1, .ro, .none, 0, false⟩]⟩,
   -- SAF_STRs_ST
   ⟨0x1000, 0x20, 64, 0x4, 1, [⟨0, 3, .ro, .none, 0, false⟩,
     ⟨4, 6, .ro, .none, 0, false⟩,
     ⟨10, 6, .ro, .none, 0, false⟩,
     ⟨16, 16, .ro, .none, 0, false⟩]⟩,
   -- SAF_STRs_CNT0
   ⟨0x1004, 0x20, 64, 0x4, 1, [⟨0, 32, .ro, .none, 0, false⟩]⟩]

/-- Registers of SAF, part 1 (spec register tables). -/
def regsSaf1 : List RegDef :=
  [
   -- SAF_STRs_CNT1
   ⟨0x1008, 0x20, 64, 0x4, 1, [⟨0, 16, .ro, .none, 0, false⟩,
     ⟨16, 16, .ro, .none, 0, false⟩]⟩,
   -- SAF_STRs_CNT2
   ⟨0x100C, 0x20, 64, 0x4, 1, [⟨0, 16, .ro, .none, 0, false⟩,
     ⟨16, 8, .ro, .none, 0, false⟩,
     ⟨24, 8, .ro, .none, 0, false⟩]⟩]

/-- Every register of SAF. -/
def regsSaf : List RegDef := regsSaf0 ++ regsSaf1

/-- Registers of INJ, part 0 (spec register tables). -/
def regsInj0 : List RegDef :=
  [
   -- INJ_STATUS
   ⟨0x0, 0x4, 1, 0x4, 1, [⟨0, 8, .ro, .none, 46, false⟩,
     ⟨8, 1, .ro, .none, 0, false⟩,
     ⟨9, 1, .ro, .none, 0, false⟩]⟩,
   -- INJ_CTRL
   ⟨0x4, 0x4, 1, 0x4, 1, [⟨0, 1, .rw, .lv, 0, false⟩,
     ⟨1, 1, .rw, .lv, 0, false⟩,
     ⟨2, 2, .rw, .sh, 0, false⟩,
     ⟨16, 16, .rw, .sh, 100, true⟩]⟩,
   -- INJ_ERR
   ⟨0x8, 0x4, 1, 0x4, 1, [⟨0, 1, .w1c, .none, 0, false⟩,
     ⟨1, 1, .w1c, .none, 0, false⟩,
     ⟨2, 1, .w1c, .none, 0, false⟩,
     ⟨16, 16, .ro, .none, 0, false⟩]⟩,
   -- INJ_SEL
   ⟨0x10, 0x4, 1, 0x4, 1, [⟨0, 16, .rw, .lk, 0, false⟩,
     ⟨16, 8, .rw, .lk, 0, false⟩]⟩,
   -- INJ_ARG
   ⟨0x14, 0x4, 1, 0x4, 1, [⟨0, 32, .rw, .lk, 0, false⟩]⟩,
   -- INJ_FIRE
   ⟨0x18, 0x4, 1, 0x4, 1, [⟨0, 1, .w1s, .row, 0, false⟩]⟩,
   -- INJ_RES
   ⟨0x20, 0x4, 1, 0x4, 1, [⟨0, 31, .ro, .none, 0, false⟩,
     ⟨31, 1, .ro, .none, 0, false⟩]⟩,
   -- INJ_IDXi
   ⟨0x1000, 0x4, 64, 0x4, 1, [⟨0, 16, .ro, .none, 0, false⟩,
     ⟨16, 8, .ro, .none, 0, false⟩]⟩]

/-- Every register of INJ. -/
def regsInj : List RegDef := regsInj0

/-- Registers of SEC, part 0 (spec register tables). -/
def regsSec0 : List RegDef :=
  [
   -- SEC_STATUS
   ⟨0x0, 0x4, 1, 0x4, 1, [⟨0, 3, .ro, .none, 0, false⟩,
     ⟨3, 2, .ro, .none, 0, false⟩,
     ⟨5, 2, .ro, .none, 0, false⟩,
     ⟨7, 2, .ro, .none, 0, false⟩,
     ⟨16, 8, .ro, .none, 0, false⟩]⟩,
   -- SEC_ERR
   ⟨0x4, 0x4, 1, 0x4, 1, [⟨0, 1, .w1c, .none, 0, false⟩,
     ⟨1, 1, .w1c, .none, 0, false⟩,
     ⟨2, 1, .w1c, .none, 0, false⟩,
     ⟨3, 1, .w1c, .none, 0, false⟩,
     ⟨4, 1, .w1c, .none, 0, false⟩,
     ⟨8, 8, .ro, .none, 0, false⟩]⟩,
   -- SEC_RCV_CTRL
   ⟨0x10, 0x4, 1, 0x4, 1, [⟨0, 6, .rw, .lk, 0, false⟩,
     ⟨6, 1, .rw, .lk, 0, false⟩,
     ⟨7, 1, .rw, .lk, 0, false⟩,
     ⟨8, 1, .w1s, .row, 0, false⟩]⟩,
   -- SEC_RCV_ST
   ⟨0x14, 0x4, 1, 0x4, 1, [⟨0, 2, .ro, .none, 0, false⟩,
     ⟨8, 8, .ro, .none, 0, false⟩]⟩,
   -- recovery window
   ⟨0x80000, 0x4, 131072, 0x4, 1, [⟨0, 32, .rw, .lv, 0, false⟩]⟩]

/-- Every register of SEC. -/
def regsSec : List RegDef := regsSec0

/-- Registers of EVR, part 0 (spec register tables). -/
def regsEvr0 : List RegDef :=
  [
   -- EVR_STATUS
   ⟨0x0, 0x4, 1, 0x4, 1, [⟨0, 9, .ro, .none, 0, false⟩,
     ⟨9, 1, .ro, .none, 0, false⟩,
     ⟨10, 7, .ro, .none, 0, false⟩,
     ⟨17, 1, .ro, .none, 0, false⟩]⟩,
   -- EVR_CTRL
   ⟨0x4, 0x4, 1, 0x4, 1, [⟨0, 1, .rw, .lv, 0, false⟩]⟩,
   -- EVR_PROFILE
   ⟨0x8, 0x4, 1, 0x4, 1, [⟨0, 2, .rw, .sh, 0, false⟩]⟩,
   -- EVR_TUNE
   ⟨0xC, 0x4, 1, 0x4, 1, [⟨0, 3, .rw, .sh, 3, true⟩,
     ⟨3, 10, .rw, .sh, 64, true⟩]⟩,
   -- EVR_ERR
   ⟨0x10, 0x4, 1, 0x4, 1, [⟨0, 1, .w1c, .none, 0, false⟩,
     ⟨1, 1, .w1c, .none, 0, false⟩,
     ⟨2, 1, .w1c, .none, 0, false⟩,
     ⟨3, 1, .w1c, .none, 0, false⟩]⟩,
   -- EVR_HEAD
   ⟨0x14, 0x4, 1, 0x4, 1, [⟨0, 32, .ro, .none, 0, false⟩]⟩,
   -- EVR_CLR
   ⟨0x18, 0x4, 1, 0x4, 1, [⟨0, 1, .w1s, .row, 0, false⟩,
     ⟨1, 1, .w1s, .row, 0, false⟩]⟩,
   -- EVR_CURSOR
   ⟨0x100, 0x4, 1, 0x4, 1, [⟨0, 11, .rw, .row, 0, false⟩,
     ⟨16, 1, .ro, .none, 1, false⟩,
     ⟨17, 1, .ro, .none, 0, false⟩,
     ⟨18, 1, .ro, .none, 0, false⟩]⟩,
   -- EVR_SCURSOR
   ⟨0x200, 0x4, 1, 0x4, 1, [⟨0, 11, .rw, .row, 0, false⟩,
     ⟨16, 1, .ro, .none, 1, false⟩,
     ⟨17, 1, .ro, .none, 0, false⟩,
     ⟨18, 1, .ro, .none, 0, false⟩]⟩,
   -- EVR_WINi
   ⟨0x120, 0x4, 8, 0x4, 1, [⟨0, 32, .ro, .none, 0, false⟩]⟩,
   -- EVR_SWINi
   ⟨0x220, 0x4, 8, 0x4, 1, [⟨0, 32, .ro, .none, 0, false⟩]⟩]

/-- Every register of EVR. -/
def regsEvr : List RegDef := regsEvr0

/-- Registers of PWR, part 0 (spec register tables). -/
def regsPwr0 : List RegDef :=
  [
   -- PWR_STATUS
   ⟨0x0, 0x4, 1, 0x4, 1, [⟨0, 2, .ro, .none, 0, false⟩,
     ⟨2, 1, .ro, .none, 0, false⟩,
     ⟨3, 1, .ro, .none, 0, false⟩,
     ⟨4, 1, .ro, .none, 1, false⟩,
     ⟨5, 1, .ro, .none, 0, false⟩,
     ⟨6, 1, .ro, .none, 0, false⟩,
     ⟨7, 1, .ro, .none, 0, false⟩]⟩,
   -- PWR_CTRL
   ⟨0x4, 0x4, 1, 0x4, 1, [⟨0, 1, .rw, .lv, 0, false⟩]⟩,
   -- PWR_ERR
   ⟨0x8, 0x4, 1, 0x4, 1, [⟨0, 1, .w1c, .none, 0, false⟩,
     ⟨1, 1, .w1c, .none, 0, false⟩,
     ⟨2, 1, .w1c, .none, 0, false⟩,
     ⟨3, 1, .w1c, .none, 0, false⟩,
     ⟨4, 1, .w1c, .none, 0, false⟩]⟩,
   -- PWR_MODE
   ⟨0xC, 0x4, 1, 0x4, 1, [⟨0, 2, .rw, .row, 0, false⟩]⟩,
   -- PWR_CAP
   ⟨0x10, 0x4, 1, 0x4, 1, [⟨0, 2, .rw, .sh, 0, false⟩,
     ⟨16, 10, .rw, .sh, 450, true⟩]⟩,
   -- PWR_CMD
   ⟨0x14, 0x4, 1, 0x4, 1, [⟨0, 1, .w1s, .row, 0, false⟩,
     ⟨1, 1, .rw, .lv, 0, false⟩]⟩,
   -- PWR_DVFSd
   ⟨0x20, 0x4, 4, 0x4, 1, [⟨0, 3, .rw, .sh, 0, false⟩,
     ⟨4, 3, .ro, .none, 0, false⟩,
     ⟨8, 3, .ro, .none, 0, false⟩,
     ⟨11, 3, .ro, .none, 0, false⟩,
     ⟨14, 3, .ro, .none, 0, false⟩]⟩,
   -- PWR_PD0
   ⟨0x30, 0x4, 1, 0x4, 1, [⟨0, 20, .ro, .none, 0, false⟩]⟩,
   -- PWR_PD1
   ⟨0x34, 0x4, 1, 0x4, 1, [⟨0, 6, .ro, .none, 0, false⟩,
     ⟨6, 6, .ro, .none, 0, false⟩,
     ⟨12, 1, .ro, .none, 1, false⟩,
     ⟨13, 1, .ro, .none, 1, false⟩]⟩,
   -- PWR_TEMPs
   ⟨0x100, 0x4, 56, 0x4, 1, [⟨0, 16, .ro, .none, 0, false⟩,
     ⟨16, 1, .ro, .none, 0, false⟩]⟩,
   -- PWR_COOLh_ST
   ⟨0x200, 0x10, 2, 0x4, 1, [⟨0, 8, .ro, .none, 0, false⟩,
     ⟨8, 8, .ro, .none, 0, false⟩,
     ⟨16, 12, .ro, .none, 0, false⟩,
     ⟨28, 1, .ro, .none, 0, false⟩,
     ⟨29, 1, .ro, .none, 0, false⟩]⟩,
   -- PWR_COOLh_CFG
   ⟨0x204, 0x10, 2, 0x4, 1, [⟨0, 16, .rw, .sh, 1000, false⟩]⟩]

/-- Registers of PWR, part 1 (spec register tables). -/
def regsPwr1 : List RegDef :=
  [
   -- PWR_AGEx
   ⟨0x300, 0x4, 6, 0x4, 1, [⟨0, 10, .ro, .none, 0, false⟩,
     ⟨10, 2, .ro, .none, 0, false⟩]⟩,
   -- PWR_LIFEi
   ⟨0x400, 0x4, 8, 0x4, 1, [⟨0, 32, .ro, .none, 0, false⟩]⟩]

/-- Every register of PWR. -/
def regsPwr : List RegDef := regsPwr0 ++ regsPwr1

end Sys2Proof.Machine
end

