-- ==== Sys2Proof/Config.lean ====
section
/-!
DEFINITION. Config.lean: what the spec leaves open, and the cryptographic primitives it names by standard. Each is an
opaque constant: nothing in Lean can evaluate it, and a statement that mentions it holds whatever it is.
-/
namespace Sys2Proof.Config

/-- The `n`-th value that the spec leaves open (log entry 4). -/
opaque freeValue : Nat → Nat

/-- AES-256-XTS ciphertext of a 64-byte line under an owner's key of an epoch (IEEE 1619, R340). -/
opaque xtsLine : (owner epoch addr : Nat) → List Byte → List Byte

/-- The 48-bit line MAC, GMAC under NIST SP 800-38D (R340). -/
opaque lineMac : (owner epoch addr : Nat) → List Byte → List Byte

/-- AES-256-XTS decryption of one 4 KiB data unit: key pair, unit index, ciphertext (R441). -/
opaque xtsOpen : (key : List Byte) → (unit : Nat) → List Byte → List Byte

/-- AES-256-XTS encryption of one 4 KiB data unit (R447). -/
opaque xtsSeal : (key : List Byte) → (unit : Nat) → List Byte → List Byte

/-- Whether an ML-DSA signature verifies: public key, message, signature (FIPS 204, R430 and following). -/
opaque dsaVerify : (key msg sig : List Byte) → Bool

/-- An ML-DSA signature by the key a seed or secret names: secret, message (FIPS 204). -/
opaque dsaSign : (secret msg : List Byte) → List Byte

/-- The ML-DSA public key of a secret (FIPS 204). -/
opaque dsaPublic : (secret : List Byte) → List Byte

/-- KMAC256 key derivation: secret, label and context, length (NIST SP 800-185). -/
opaque kdf : (secret label : List Byte) → Nat → List Byte

/-- ML-KEM-768 decapsulation: secret, ciphertext (FIPS 203). -/
opaque kemDecap : (secret ct : List Byte) → List Byte

/-- ML-KEM-768 encapsulation key of a secret (FIPS 203). -/
opaque kemPublic : (secret : List Byte) → List Byte

/-- AES-256-GCM decryption: key, nonce, associated data, ciphertext, tag; none where the tag fails. -/
opaque gcmOpen : (key nonce aad ct tag : List Byte) → Option (List Byte)

/-- AES-256-GCM encryption: key, nonce, associated data, plaintext; ciphertext followed by tag. -/
opaque gcmSeal : (key nonce aad pt : List Byte) → List Byte

/-- The device secret held in the fuses of this part (spec/15). -/
opaque deviceSecret : List Byte

/-- The fused identifier of hub die `h`, 8 bytes (Table 12.7 dev_tag). -/
opaque devTag : (h : Nat) → List Byte

/-- The n-th draw of the part's random number generator, as bytes (spec/15). -/
opaque random : Nat → List Byte

/-- Codebook entry, BF16, that a seedling array holds for a CB4 or CB8 weight code: hub, entry, code. The job record
names no codebook (Table 7.3). -/
opaque sdlCodebook : (hub entry code : Nat) → Nat

/-- The staging half of a core's accumulators as a heel-in writes it while slots are in use: which slot holds which node
is the part's own (R130), 262,144 bytes; the `n`-th one written. -/
opaque stagingImage : (n : Nat) → List Byte

/-- The 64 bytes of an unstarted DMA queue entry (Table 3.5 gives no layout): number, source and destination descriptor. -/
opaque dmaImage : (num src dst : Nat) → List Byte

/-- Bytes of a diagnosis item (Table 12.8 names what an item holds, not where): item, its values in the table's order. -/
opaque diagImage : (item : Nat) → (values : List Nat) → List Byte

/-- The 8 metadata bytes kept for a line of a metadata row, which no rule describes (R338): hub, channel, bank, row,
column. -/
opaque metaMeta : (hub ch bank row col : Nat) → List Byte

/-- The OTP configuration bytes that M0 is extended with (Table 15.4): key hashes, then revoke bits, svn counters, port
mode, isl_split and debug level. The spec gives no layout. -/
opaque otpImage : (hashes : List (List Byte)) → (values : List Nat) → List Byte

/-- The bytes of a debug token, whose layout the spec does not give: level, DevID hash, nonce (R453). -/
opaque tokenBytes : (level : Nat) → (devid nonce : List Byte) → List Byte

/-- A DMTF SPDM 1.3 response: 0 ERROR UnsupportedRequest, else the request it answers; the values it reports (R451). -/
opaque spdmAnswer : (req : Nat) → (values : List Byte) → List Byte

/-- What a TAP instrument or test access returns (R453). -/
opaque tapAnswer : (instr : Nat) → List Byte

end Sys2Proof.Config
end

