-- ==== Sys2Proof/Machine/Tab.lean ====
section
/-!
DEFINITION. Tab.lean: reading and writing a sparse table in its one canonical form. `d k` is what an unlisted key
`k` holds. A write of that value removes the entry, so equal tables are equal data.
-/
namespace Sys2Proof.Machine

/-- What table `t` holds at key `k`. -/
def tabGet {α : Type} (d : Nat → α) : Tab α → Nat → α
  | [], k => d k
  | (j, v) :: r, k => if k = j then v else if k < j then d k else tabGet d r k

/-- One entry in front of a table, left out where it says what the default says. -/
def tabCons {α : Type} [DecidableEq α] (d : Nat → α) (k : Nat) (v : α) (r : Tab α) : Tab α :=
  if v = d k then r else (k, v) :: r

/-- Table `t` with key `k` holding `v`. -/
def tabSet {α : Type} [DecidableEq α] (d : Nat → α) : Tab α → Nat → α → Tab α
  | [], k, v => tabCons d k v []
  | (j, w) :: r, k, v =>
    if k < j then tabCons d k v ((j, w) :: r)
    else if k = j then tabCons d k v r
    else (j, w) :: tabSet d r k v

/-- Table `t` with the value at key `k` changed by `f`. -/
def tabMod {α : Type} [DecidableEq α] (d : Nat → α) (t : Tab α) (k : Nat) (f : α → α) : Tab α :=
  tabSet d t k (f (tabGet d t k))

/-- The part of a table whose keys lie in `[lo, lo + n)`. -/
def tabSlice {α : Type} (t : Tab α) (lo n : Nat) : Tab α :=
  t.filter fun e => lo ≤ e.1 && e.1 < lo + n

/-- A table without the keys `[lo, lo + n)`: they hold the default again. -/
def tabErase {α : Type} (t : Tab α) (lo n : Nat) : Tab α :=
  t.filter fun e => !(lo ≤ e.1 && e.1 < lo + n)

/-- Write the values `vs` at the keys `k`, `k + 1`, and so on. -/
def tabPut {α : Type} [DecidableEq α] (d : Nat → α) (t : Tab α) (k : Nat) : List α → Tab α
  | [] => t
  | v :: vs => tabPut d (tabSet d t k v) (k + 1) vs

/-- The values at keys `k` to `k + n - 1`. -/
def tabRange {α : Type} (d : Nat → α) (t : Tab α) (k : Nat) : Nat → List α
  | 0 => []
  | n + 1 => tabGet d t k :: tabRange d t (k + 1) n

/-- The keys rise strictly from above `lo`, and no entry says what the default says. -/
def tabWfFrom {α : Type} [DecidableEq α] (d : Nat → α) : Option Nat → Tab α → Bool
  | _, [] => true
  | lo, (j, v) :: r =>
    (match lo with | none => true | some l => decide (l < j)) && decide (v ≠ d j) && tabWfFrom d (some j) r

/-- The table is in its one canonical form. -/
def tabWf {α : Type} [DecidableEq α] (d : Nat → α) (t : Tab α) : Bool := tabWfFrom d none t

/-- Whether some key in `[lo, lo + n)` is listed. -/
def tabAny {α : Type} (t : Tab α) (lo n : Nat) : Bool := t.any fun e => lo ≤ e.1 && e.1 < lo + n

/-- Move the entries of a slice so that key `src` becomes key `dst`. -/
def tabShift {α : Type} (t : Tab α) (src dst : Nat) : Tab α := t.map fun e => (e.1 - src + dst, e.2)

/-- Two tables with disjoint key ranges joined: `lo` holds the keys below those of `hi`. -/
def tabInsertSlice {α : Type} (t : Tab α) (lo n : Nat) (sl : Tab α) : Tab α :=
  t.filter (fun e => e.1 < lo) ++ sl ++ t.filter (fun e => lo + n ≤ e.1)

/-- The entries of a run of bytes from key `k`: those that are not zero. -/
def byteRun : (k : Nat) → List Byte → Tab Byte
  | _, [] => []
  | k, b :: r => if b = 0 then byteRun (k + 1) r else (k, b) :: byteRun (k + 1) r

/-- A byte table with the bytes from key `k` replaced. -/
def putBytes (t : Tab Byte) (k : Nat) (bs : List Byte) : Tab Byte := tabInsertSlice t k bs.length (byteRun k bs)

/-- `n` bytes from key `k`, given the entries at or above `k`. -/
def spread : (k n : Nat) → Tab Byte → List Byte
  | _, 0, _ => []
  | k, n + 1, [] => 0 :: spread (k + 1) n []
  | k, n + 1, (j, v) :: r => if j = k then v :: spread (k + 1) n r else 0 :: spread (k + 1) n ((j, v) :: r)

/-- The bytes at keys `k` to `k + n - 1` of a byte table; unlisted ones are zero. -/
def getBytes (t : Tab Byte) (k n : Nat) : List Byte := spread k n (tabSlice t k n)

/-- Entries of `u` put over table `t`, key by key. -/
def tabOver {α : Type} [DecidableEq α] (d : Nat → α) (t u : Tab α) : Tab α :=
  u.foldl (fun t e => tabSet d t e.1 e.2) t

end Sys2Proof.Machine
end

