-- ==== Sys2Proof/Machine/StateCore.lean ====
section
/-!
DEFINITION. StateCore.lean: the state of one core (spec/04, spec/05, spec/07, spec/08). Every field names its rule; its
default is its value in `State.reset` and after a dispatch.
-/
namespace Sys2Proof.Machine

/-- CORE_STATUS.state. -/
inductive CoreRole where
  | off | free | placed | underTest | moving
  deriving DecidableEq, Repr

/-- How far a core has come after a stop request (R97). -/
inductive StopSt where
  | go | requested | stopped | saved
  deriving DecidableEq, Repr

/-- What a core's sequencer waits for, between instructions. -/
inductive CoreWait where
  | ready
  /-- a SEMA queued at PRT, result register (spec/05 R178) -/
  | sema (rd : Nat)
  /-- arrived at a BAR, with its die-local flag (spec/05 R179) -/
  | bar (dieLocal : Bool)
  /-- released from its BAR, holding lent tiles (spec/04 R134) -/
  | released
  | yielded
  | halted
  deriving DecidableEq, Repr

/-- An entry of the loop stack (R163). -/
structure LoopEnt where
  /-- index of the first instruction of the body (spec/05 R163) -/
  start : Nat
  /-- end, index of the ENDL (spec/05 R163) -/
  stop : Nat
  /-- iterations left (spec/05 R163) -/
  left : Nat
  deriving DecidableEq, Repr

/-- An entry of a DMA queue (R141, R174). -/
structure DmaEnt where
  /-- entry number modulo 2^16 (spec/05 R174) -/
  num : Nat
  /-- copies of its source and destination descriptors (spec/05 R174) -/
  src : DescWord
  dst : DescWord
  /-- the data read, once the entry has started (spec/04 R141) -/
  data : Option (List Byte)
  /-- index and opcode of the instruction that made it, for a fault it meets (spec/05 R161) -/
  maker : Nat × Nat := (0, 0)
  deriving DecidableEq, Repr

/-- Tile states (Table 4.4). -/
inductive TileSt where
  | queued | inEngine (e : Nat) | lent (taker : Nat) | waiting
  deriving DecidableEq, Repr

/-- A tile queue entry (Table 4.3). -/
structure Tile where
  /-- the tensor instruction it belongs to, the model's own number -/
  run : Nat
  /-- index in generation order (spec/04 Table 4.3) -/
  tile : Nat
  /-- output block in the order blocks are written (spec/04 R128) -/
  block : Nat
  /-- k-tile index (spec/04 Table 4.3) -/
  k : Nat
  /-- where it is (spec/04 Table 4.4) -/
  st : TileSt := .queued
  /-- the leaf, once an engine holds the tile: rows of 32 or 64 words, none where no product is present
  (spec/04 R125, spec/07 R223) -/
  leaf : List (Option Word) := []
  /-- conditions the leaf has raised, in the order of Table 6.8, counted when the leaf is combined (spec/06 R219) -/
  counts : List Nat := []
  /-- an enabled trap was among them (spec/05 R155) -/
  trap : Bool := false
  deriving DecidableEq, Repr

/-- An output block in the combine unit: leaves taken so far and the pending nodes, each with its level (R127). -/
structure Block where
  /-- the tensor instruction it belongs to, the model's own number -/
  run : Nat
  /-- output block in the order blocks are written (spec/04 R128) -/
  block : Nat
  /-- next k-tile to combine, counted over the passes (spec/04 R127) -/
  next : Nat := 0
  /-- pending nodes of the pass, newest first: (level, values) (spec/04 R127) -/
  nodes : List (Nat × List (Option Word)) := []
  /-- sum of the passes before it, in compatibility mode (spec/07 R232) -/
  sum : Option (List Word) := none
  deriving DecidableEq, Repr

/-- A tensor instruction that still generates or combines tiles (R131, R159, R184). -/
structure Run where
  /-- the model's own number -/
  id : Nat
  /-- the instruction word -/
  word : InstrWord
  /-- its index -/
  pc : Nat
  /-- copies of its descriptors (spec/05 R156) -/
  td : DescWord
  ta : DescWord
  tb : DescWord
  tc : DescWord
  /-- next tile to generate (spec/05 Table 5.11) -/
  next : Nat := 0
  /-- where the generator stands among all blocks and k-tiles, those it skips included (spec/07 R230) -/
  cur : Nat := 0
  /-- output blocks written (spec/05 Table 5.11) -/
  blocks : Nat := 0
  /-- the constant of pmode 0b01, read at issue (spec/05 R166) -/
  pad : DWord
  /-- seam slots current at issue, upper and lower (spec/07 R238) -/
  seamU : Option Nat
  seamL : Option Nat
  deriving DecidableEq, Repr

/-- One end of a credit stream (R180). -/
structure Cred where
  /-- opened by CRED (spec/05 R180) -/
  isOpen : Bool := false
  /-- it is the consumer's end (spec/05 R180) -/
  consumer : Bool := false
  /-- context-relative core of the other end (spec/05 R180) -/
  peer : Nat := 0
  /-- its depth, 1 to 65,536 (spec/05 R180) -/
  depth : Nat := 0
  /-- stream position acquired, u64 (spec/05 R180) -/
  acquired : Nat := 0
  /-- stream position released, u64 (spec/05 R180) -/
  released : Nat := 0
  deriving DecidableEq, Repr

/-- An ATTN or KVW between two of its steps (R256 to R260). -/
structure Walk where
  /-- the instruction word (spec/05 R169) -/
  word : InstrWord
  /-- copies of its descriptors (spec/05 R156) -/
  td : DescWord
  ta : DescWord
  tb : DescWord
  /-- list address and first token position, read at issue (spec/05 R169) -/
  list : Nat
  pos : Nat
  /-- KV head and m-block the walk is at (spec/08 R257) -/
  head : Nat := 0
  mblock : Nat := 0
  /-- walk step: first entry index and its first position (spec/08 R260) -/
  entry : Nat := 0
  first : Nat := 0
  /-- generation read at the step's start, kv_gen (spec/08 R259) -/
  gen : Nat := 0
  /-- committed length and entries read at the step's start (spec/08 R259) -/
  len : Nat := 0
  entries : Nat := 0
  /-- the step has started (spec/08 R259) -/
  started : Bool := false
  /-- replays taken in this step (spec/05 Table 5.11) -/
  replays : Nat := 0
  /-- walk step number, sub (spec/05 Table 5.11) -/
  sub : Nat := 0
  /-- running first flag, m, l, o of each row of the m-block (spec/08 R256) -/
  rows : List (Bool × Word × Word × List Word) := []
  deriving DecidableEq, Repr

/-- A core's part in gleaning (R134, R135). -/
structure Glean where
  /-- sibling asked, while a request is outstanding (spec/04 R135) -/
  asked : Option Nat := none
  /-- last sibling asked in this round (spec/04 R135) -/
  last : Option Nat := none
  /-- nones in this round (spec/04 R135) -/
  nones : Nat := 0
  /-- waits 256 cycles before a new round (spec/04 R135) -/
  backoff : Bool := false
  /-- glean_min and max_out taken at entry into BAR (spec/04 CDx_GLEAN); max_out 0 is off -/
  min : Nat := 0
  max : Nat := 0
  /-- lent tiles it holds: (owner core, run, tile) (spec/04 R135) -/
  held : List (Nat × Nat × Nat) := []
  deriving DecidableEq, Repr

/-- One core: its hardware state and the architectural state of the context placed on it. -/
structure Core where
  /-- CORE_STATUS.state (spec/04 R147) -/
  role : CoreRole := .off
  /-- failed its scan test, disabled until PORST_N (spec/14 R424) -/
  failed : Bool := false
  /-- partition of the placed context, 0 none (spec/04 CORE_STATUS) -/
  part : Nat := 0
  /-- its slot (spec/04 CORE_STATUS) -/
  slot : Nat := 0
  /-- context-relative index (spec/04 CORE_STATUS) -/
  idx : Nat := 0
  /-- stop request (spec/03 R97) -/
  stop : StopSt := .go
  /-- what the sequencer waits for (spec/05 R178, R179, R164) -/
  waits : CoreWait := .ready
  /-- instruction index (spec/05 R149) -/
  pc : Nat := 0
  /-- number of instructions of the program, from its header (spec/05 Table 5.1) -/
  count : Nat := 0
  /-- s0 to s31; s0 reads zero (spec/05 R153) -/
  s : Tab DWord := []
  /-- t0 to t15 (spec/05 R156) -/
  t : Tab DescWord := []
  /-- loop stack, innermost first, at most 16 (spec/05 R163) -/
  loops : List LoopEnt := []
  /-- call stack, innermost first, at most 32 (spec/05 R163) -/
  calls : List Nat := []
  /-- numctl, 4 bits used (spec/05 R155) -/
  numctl : Nat := 0
  /-- numstat: saturating fields, laid out in Table 6.7 (spec/06 R219) -/
  numstat : DWord := 0
  /-- sr_count of stochastic rounding (spec/06 R213) -/
  srCount : Nat := 0
  /-- running amax_t of SCALE, FP32 (spec/06 R211) -/
  amaxT : Word := 0
  /-- current seam slot of the upper side (spec/07 R237) -/
  seamU : Option Nat := none
  /-- current seam slot of the lower side (spec/07 R237) -/
  seamL : Option Nat := none
  /-- CBLD source of the core's engines (spec/05 R167) -/
  cblSrc : Option Nat := none
  /-- codebook store, 1,024 BF16 entries (spec/05 R167) -/
  code : Tab (BitVec 16) := []
  /-- scratchpad, 3 MiB; lines not valid hold zero (spec/04 R138) -/
  sp : Tab Byte := []
  /-- addressable accumulators, 256 KiB (spec/04 R130, R138) -/
  acc : Tab Byte := []
  /-- live bits of the 48 banks (spec/04 R138) -/
  live : BitVec 48 := 0
  /-- line-valid bits of the scratchpad, by line (spec/04 R138) -/
  spValid : Tab Bool := []
  /-- line-valid bits of the accumulators, by line (spec/04 R138, R139) -/
  accValid : Tab Bool := []
  /-- lines with a stored SRAM error: 1 single-bit, 2 double-bit; accumulator lines from 0x10000 (spec/04 R142) -/
  ecc : Tab Nat := []
  /-- credit streams 0 to 15 (spec/05 R180) -/
  creds : Tab Cred := []
  /-- DMA queue 0, oldest first (spec/04 R141) -/
  dma0 : List DmaEnt := []
  /-- DMA queue 1 (spec/04 R141) -/
  dma1 : List DmaEnt := []
  /-- next entry number of each queue, 16 bits (spec/05 R174) -/
  dmaNum0 : Nat := 0
  dmaNum1 : Nat := 0
  /-- tile queue, oldest first, at most 64 (spec/04 R131) -/
  tiles : List Tile := []
  /-- tensor instructions not retired, oldest first (spec/05 R159) -/
  runs : List Run := []
  /-- output blocks in the staging half (spec/04 R130) -/
  blocks : List Block := []
  /-- the model's own count of tensor instructions issued -/
  nextRun : Nat := 0
  /-- ATTN or KVW under way (spec/08 R259) -/
  walk : Option Walk := none
  /-- gleaning (spec/04 R135) -/
  glean : Glean := {}
  /-- counters of Table 4.6, 64 bits, per physical core (spec/04 R146) -/
  cnt : Tab Nat := []
  /-- instruction cache: instruction index to word (spec/05 R149) -/
  icache : Tab (Option InstrWord) := []
  /-- KV page-descriptor cache: tags (list, entry, generation) with the entry read (spec/08 R260) -/
  kvCache : List (Nat × Nat × Nat × BitVec 128) := []
  /-- when its last scan test ended (spec/14 R423) -/
  lastTest : Nat := 0
  deriving DecidableEq, Repr

end Sys2Proof.Machine
end

