-- ==== Sys2Proof/Machine/StateFus.lean ====
section
/-!
DEFINITION. StateFus.lean: the state of the fusion engines (spec/11). Every field names its rule; its default is its
value in `State.reset`.
-/
namespace Sys2Proof.Machine

/-- A calibration entry that waits for its first frame or list (R310). -/
structure NextCal where
  /-- valid_from; 0 is the next frame or list -/
  from_ : Nat
  /-- hub time of its CAL_LOAD -/
  loaded : Nat
  /-- its 4,288 bytes (spec/11 Table 11.2) -/
  raw : List Byte
  deriving DecidableEq, Repr

/-- A sensor: its calibration (R310) and its newest point (R326). -/
structure Sensor where
  /-- current entry, the 4,288 bytes (spec/11 Table 11.2) -/
  cur : Option (List Byte) := none
  /-- entry that waits for its first frame or list (spec/11 R310) -/
  next : Option NextCal := none
  /-- t_p of its newest point merged into a closed instant (spec/11 R326) -/
  newest : Option Int := none
  deriving DecidableEq, Repr

/-- A point list that has been read (R308). -/
structure PtList where
  /-- hub time at which the read ended -/
  read : Nat
  /-- the list's time (spec/11 R308) -/
  time : Nat
  /-- its points, 16 bytes each -/
  pts : List (List Byte)
  deriving DecidableEq, Repr

/-- A fusion source entry (R305). -/
structure FusSrc where
  /-- FUS_SRCi_STAT.active -/
  active : Bool := false
  /-- FUS_SRCi_STAT.err -/
  err : Nat := 0
  /-- FUS_SRCi_STAT.points -/
  points : Nat := 0
  /-- FUS_SRCi_CNT -/
  lateOut : Nat := 0
  /-- points discarded (spec/11 FUS_SRCi_CNT) -/
  discarded : Nat := 0
  /-- early points (spec/11 FUS_SRCi_CNT) -/
  early : Nat := 0
  /-- the source record in use (spec/11 Table 11.1) -/
  raw : List Byte := []
  /-- hub time at which it became active (spec/11 R326) -/
  since : Nat := 0
  /-- next point of the frame or list in work (spec/11 R329) -/
  pos : Nat := 0
  /-- sequence number of the list in work (spec/11 R316) -/
  seq : Nat := 0
  /-- the list in work (spec/11 R308) -/
  list : Option PtList := none
  /-- debt in ns (spec/03 R116) -/
  debt : Nat := 0
  deriving DecidableEq, Repr

/-- A transformed point of an instant (R312). -/
structure FusPt where
  /-- hit, not ground (spec/11 R312) -/
  hit : Bool
  /-- vehicle-frame x and y, FP32 -/
  x : Word
  y : Word
  /-- its time (spec/11 R312) -/
  tp : Int
  /-- its sensor (spec/11 R312) -/
  sensor : Nat
  /-- frame or list sequence and point index (spec/11 R316) -/
  seq : Nat
  idx : Nat
  /-- merged late (spec/11 R327) -/
  late : Bool
  /-- its source feeds ego-motion, gives free evidence (spec/11 Table 11.1) -/
  ego : Bool
  free : Bool
  /-- hit and miss evidence, and the sensor's origin in the vehicle frame (spec/11 Table 11.2, R314) -/
  occ : Nat
  miss : Nat
  ox : Word
  oy : Word
  deriving DecidableEq, Repr

/-- An open instant. -/
structure Instant where
  /-- points of its slot of the point area (spec/11 R312) -/
  pts : List FusPt := []
  /-- a point found its slot full (spec/11 R312) -/
  overflow : Bool := false
  /-- a write of the point area failed (spec/11 R332) -/
  failed : Bool := false
  /-- spec/11 R327 -/
  lateIn : Nat := 0
  lateOut : Nat := 0
  deriving DecidableEq, Repr

/-- The pose of an instant (R313). -/
structure Pose where
  /-- position in the world frame (spec/11 R313) -/
  x : Int
  y : Int
  /-- heading (spec/11 R313) -/
  yaw : Nat
  deriving DecidableEq, Repr

/-- A fusion engine. -/
structure Fus where
  /-- FUS_STATUS.enabled (spec/11 R331) -/
  on : Bool := false
  /-- the set-up record in use (spec/11 Table 11.5) -/
  setup : List Byte := []
  /-- time of validity of instant 0 (spec/11 R303, R331) -/
  t0 : Nat := 0
  /-- the instant that closes next (spec/11 R303) -/
  next : Nat := 0
  /-- hub time at which the last close finished (spec/11 R330) -/
  fin : Nat := 0
  /-- cutoffs of the last instants closed, newest first (spec/11 R327, R330) -/
  cuts : List Nat := []
  /-- FUS_INST_LO and FUS_INST_HI: the last instant closed -/
  closed : Nat := 0
  /-- FUS_STATUS.ego_last -/
  egoLast : Nat := 0
  /-- open instants by number (spec/11 R312) -/
  insts : Tab Instant := []
  /-- source entries 0 to 31 (spec/11 R305) -/
  srcs : Tab FusSrc := []
  /-- sensors 0 to 127 (spec/11 R310) -/
  sensors : Tab Sensor := []
  /-- grid words (spec/11 R317, Table 11.3) -/
  grid : Tab Nat := []
  /-- window origin (spec/11 R317) -/
  oi : Nat := 0
  oj : Nat := 0
  /-- poses of the last 16 instants, newest first (spec/11 R313) -/
  poses : List Pose := []
  /-- hits dropped outside the window (spec/11 R314) -/
  outside : Nat := 0
  /-- entry whose slice runs, with the slice's end (spec/11 R329) -/
  slice : Option (Nat × Nat) := none
  /-- end of the batch that ran last, ns (spec/11 R329) -/
  busy : Nat := 0
  /-- entry whose slice ran last (spec/11 R329) -/
  last : Nat := 31
  deriving DecidableEq, Repr

end Sys2Proof.Machine
end

