-- ==== Sys2Proof/Machine/StateSec.lean ====
section
/-!
DEFINITION. StateSec.lean: the state of the security controller and of the import slots and policies it keeps for
partitions (spec/15).
-/
namespace Sys2Proof.Machine

/-- A policy region (Table 15.6). -/
structure Region where
  /-- partition address (spec/15 Table 15.6) -/
  addr : Nat
  /-- length in bytes (spec/15 Table 15.6) -/
  len : Nat
  /-- Table 15.7 -/
  mode : Nat
  /-- import slot whose key it uses (spec/15 Table 15.7) -/
  keySlot : Nat
  /-- digest of its plaintext: that of the entry, or the one computed at import (spec/15 R448) -/
  digest : List Byte
  deriving DecidableEq, Repr

/-- An installed policy (R441). -/
structure Policy where
  /-- its regions (spec/15 Table 15.6) -/
  regions : List Region
  /-- flags bit 0 (spec/15 R446) -/
  allowSeal : Bool
  /-- the policy's bytes, for policy_digest (spec/15 Table 15.8) -/
  bytes : List Byte
  deriving DecidableEq, Repr

/-- What SEC keeps for a partition. -/
structure PartSec where
  /-- import slots 0 to 7: the key or seed placed (spec/15 R440) -/
  slots : Tab (List Byte) := []
  /-- owner_id of the first import of the partition's life (spec/15 R440) -/
  owner : Option (List Byte) := none
  /-- installed policy (spec/15 R441) -/
  policy : Option Policy := none
  /-- slot 0 import under way: descriptor and unwrapped payload (spec/15 R441) -/
  importing : Option (Nat × List Byte) := none
  /-- number of the draw that gave its keys (spec/15 R435) -/
  draw : Nat := 0
  /-- its keys exist (spec/15 R436) -/
  keyed : Bool := false
  deriving DecidableEq, Repr

/-- Scion of one hub (SEC_STATUS.scion_n, scion_s). -/
structure Scion where
  /-- 0 running, 1 restarting, 2 halted (spec/15 SEC_STATUS) -/
  st : Nat := 0
  /-- started: boot stage placed in the cluster's SRAM (spec/15 R437) -/
  started : Bool := false
  /-- the working copy is placed in the SEC-private granules (spec/15 R437) -/
  copied : Bool := false
  /-- last heartbeat (spec/15 R438) -/
  beat : Nat := 0
  /-- times of its restarts in the last 60 s (spec/15 R439) -/
  restarts : List Nat := []
  deriving DecidableEq, Repr

/-- The security controller. -/
structure Sec where
  /-- SEC_STATUS.stage: 0 ROM, 1 rootstock, 2 running, 3 recovery (spec/15) -/
  stage : Nat := 0
  /-- debug level (spec/15 R453) -/
  debug : Nat := 0
  /-- scion of HN and HS (spec/15 R438) -/
  scionN : Scion := {}
  scionS : Scion := {}
  /-- SEC_STATUS.restarts (spec/15) -/
  restarts : Nat := 0
  /-- M0 to M7, 32 bytes each, zero at PORST_N (spec/15 R434) -/
  meas : Tab (List Byte) := []
  /-- OTP: SHA3-256 of the four accepted public keys (spec/15 R431) -/
  keyHash : List (List Byte) := []
  /-- OTP: revoke bits (spec/15 R431) -/
  revoked : List Nat := []
  /-- OTP: svn counter of each kind (spec/15 R431) -/
  svn : Tab Nat := []
  /-- OTP: the UDS has been erased (spec/15 R453) -/
  udsErased : Bool := false
  /-- OTP: SHA3-256 of the keys that may sign field tokens and of Noxaorn's RMA key (spec/15 Table 15.9a) -/
  fieldKeys : List (List Byte) := []
  rmaKeys : List (List Byte) := []
  /-- body digest of the scion image accepted at boot (spec/15 R437) -/
  scionDigest : List Byte := []
  /-- this boot came from a recovery bundle (spec/15 Table 15.4 M5) -/
  recovered : Bool := false
  /-- SEC_RCV_ST.state: 0 idle, 1 busy, 2 accepted, 3 refused (spec/15) -/
  rcvSt : Nat := 0
  /-- SEC_RCV_ST.reason (spec/15) -/
  rcvReason : Nat := 0
  /-- recovery window, 512 KiB (spec/15 R433) -/
  window : Tab Byte := []
  /-- a KEY_EXCHANGE awaits its FINISH (spec/15 R451) -/
  session : Bool := false
  /-- chunks received, in order (spec/15 R433) -/
  chunks : List (List Byte) := []
  /-- nonces issued for debug tokens, with their times (spec/15 R453) -/
  nonces : List (Nat × List Byte) := []
  /-- draws taken from the deterministic random bit generator (spec/15 R435) -/
  draws : Nat := 0
  deriving DecidableEq, Repr

end Sys2Proof.Machine
end

