-- ==== Sys2Proof/Machine/StateHost.lean ====
section
/-!
DEFINITION. StateHost.lean: the state of the event recorder (spec/16), the host interface (spec/02) and the partition
manager (spec/03). Every field names its rule; its default is its value in `State.reset`.
-/
namespace Sys2Proof.Machine

/-- One record of the event store (Table 16.3). A record with code 0 is an empty slot (R465). -/
structure EvRec where
  /-- bytes 0-7, hub time of detection (spec/16 Table 16.3) -/
  time : Nat := 0
  /-- bytes 8-10, event code, the block in its high byte (spec/16 Table 16.3, R12) -/
  code : Nat := 0
  /-- byte 11, severity (spec/16 R467) -/
  sev : Nat := 0
  /-- bytes 12-13, occurrences merged (spec/16 R468) -/
  repeats : Nat := 0
  /-- byte 14, partition or 0 (spec/16 Table 16.3) -/
  part : Nat := 0
  /-- byte 15, slot or 0xFF (spec/16 Table 16.3) -/
  ctx : Nat := 0
  /-- bytes 16-31, the data items packed by R466 (spec/16 R466) -/
  data : List Byte := List.replicate 16 0
  /-- how many data bytes belong to the key, the leading run of identifiers and locations (spec/16 R466) -/
  keyLen : Nat := 0
  deriving DecidableEq, Repr

/-- One of the two cursor windows of the event store (R471). -/
structure Cursor where
  /-- EVR_CURSOR.index, 11 bits (spec/16 R471) -/
  index : Nat := 0
  /-- the record loaded into the window (spec/16 R471); reset empty -/
  win : EvRec := {}
  /-- EVR_CURSOR.ecc (spec/16 R473) -/
  ecc : Bool := false
  /-- EVR_CURSOR.empty (spec/16 R471) -/
  empty : Bool := false
  deriving DecidableEq, Repr

/-- The event recorder (spec/16). -/
structure Evr where
  /-- slots 0-255 kept, 256-1,279 circulating (spec/16 R465); empty only after loss of VDD_AON -/
  slots : Tab EvRec := []
  /-- EVR_HEAD, records written to the circulating area, 32 bits (spec/16 R468) -/
  head : Nat := 0
  /-- EVR_STATUS.kept_count (spec/16 R469) -/
  kept : Nat := 0
  /-- EVR_STATUS.kept_full (spec/16 R469, R472) -/
  keptFull : Bool := false
  /-- records HS holds while it has no route to HN, at most 64 (spec/16 R470) -/
  hsHeld : List EvRec := []
  /-- records HS discarded after the 64th (spec/16 R470) -/
  hsLost : Nat := 0
  /-- slots whose stored word has a double-bit error (spec/16 R473) -/
  badSlots : List Nat := []
  /-- EVR_CURSOR and its window, the management PF's (spec/16 R471) -/
  pfCur : Cursor := {}
  /-- EVR_SCURSOR and its window, scion's (spec/16 R471) -/
  scCur : Cursor := {}
  deriving DecidableEq, Repr

/-- State of a ring (HIF_RING_STATE.state, R48, R525). -/
inductive RingSt where
  | off | active | draining | error
  deriving DecidableEq, Repr

/-- HIF_RING_STATE.err. -/
inductive RingErr where
  | none | version | fetch | setup
  deriving DecidableEq, Repr

/-- A finished descriptor's completion, not yet written (Table 2.7). The phase, the head and the time are those of the
moment it is written or finished. -/
structure Cqe where
  /-- bytes of the completion entry, by its names (spec/02 Table 2.7) -/
  tag : Nat
  status : Nat
  ctx : Nat
  time : Nat
  sq : Nat
  opcode : Nat
  detail : Nat
  info : Nat
  aux : Nat
  /-- the descriptor had irq set (spec/02 R74) -/
  irq : Bool
  deriving DecidableEq, Repr

/-- One ring of a function: submission (0 to 3) or completion (4 to 7) (Table 2.4). -/
structure Ring where
  /-- HIF_RING_STATE.state (spec/02 R48, R49, R525) -/
  st : RingSt := .off
  /-- HIF_RING_STATE.err (spec/02 R48, R71) -/
  err : RingErr := .none
  /-- HIF_RING_STATE.ver_eff (spec/02 R71) -/
  verEff : Nat := 0
  /-- next index fetched or written (spec/02 R51, R66) -/
  head : Nat := 0
  /-- the device's copy of the doorbell: tail of a submission ring, released head of a completion ring (spec/02 R49) -/
  bell : Nat := 0
  /-- slots of a completion ring written and not released (spec/02 R53) -/
  fill : Nat := 0
  /-- phase bit of the current pass of a completion ring, inverted (spec/02 R52): false on the first pass -/
  lap : Bool := false
  /-- finished completions held for the ring, the pending ones after the 64th (spec/02 R53) -/
  held : List Cqe := []
  /-- entries counted since the last interrupt (spec/02 R74) -/
  count : Nat := 0
  /-- time the oldest counted entry was written (spec/02 R74) -/
  oldest : Nat := 0
  deriving DecidableEq, Repr

/-- A function: the management PF (0) or VF p (1 to 32). -/
structure Fn where
  /-- rings 0 to 7 (spec/02 Table 2.4) -/
  rings : Tab Ring := []
  /-- descriptors completed, u64 saturating (spec/02 Table 2.14) -/
  completed : Nat := 0
  /-- doorbells discarded, u32 saturating (spec/02 Table 2.14) -/
  dbDiscarded : Nat := 0
  /-- MSI-X messages sent, u32 saturating (spec/02 Table 2.14) -/
  msixSent : Nat := 0
  /-- completions and messages discarded on link loss (spec/02 R80, Table 2.14) -/
  linkLost : Nat := 0
  /-- MSI-X vectors not masked (spec/02 R74); none at reset, PRESUMED from PCI Express -/
  unmasked : List Nat := []
  /-- MSI-X vectors whose Pending Bit is set (spec/02 R74) -/
  pendingBits : List Nat := []
  deriving DecidableEq, Repr

/-- One PCIe link (N0, N1, S0, S1): HIF_LINK_ST and its PF's SR-IOV enable (R42, R44, R80). -/
structure PLink where
  /-- HIF_LINK_ST.up (spec/02) -/
  up : Bool := false
  /-- HIF_LINK_ST.speed (spec/02) -/
  speed : Nat := 0
  /-- HIF_LINK_ST.width (spec/02) -/
  width : Nat := 0
  /-- HIF_LINK_ST.flit (spec/02) -/
  flit : Bool := false
  /-- HIF_LINK_ST.l0p (spec/02) -/
  l0p : Bool := false
  /-- HIF_LINK_ST.ide (spec/02, spec/15 R451) -/
  ide : Bool := false
  /-- VF Enable of the link's PF (spec/02 R44, R79) -/
  vfEnable : Bool := false
  /-- NumVFs of the link's PF (spec/02 R44) -/
  numVfs : Nat := 0
  deriving DecidableEq, Repr

/-- How far a fetched descriptor has come. -/
inductive DescSt where
  /-- fetched and passed its checks, not started (R521) -/
  | waiting
  /-- started, not finished (R56) -/
  | running
  /-- refused at its checks: completes once its fences allow (R57, R61) -/
  | refused (status detail info : Nat)
  deriving DecidableEq, Repr

/-- A descriptor fetched from a ring and not yet completed. -/
structure Desc where
  /-- the model's own number for it, in order of fetch -/
  id : Nat
  /-- function whose ring it came from (spec/02 R51) -/
  fn : Nat
  /-- its submission ring, 0 to 3 (spec/02 R51) -/
  ring : Nat
  /-- its 64 bytes (spec/02 R63) -/
  raw : DescWord
  /-- how far it has come (spec/02 R521) -/
  st : DescSt
  /-- its ring went OFF at a link's return; its completion is discarded (spec/02 R80, R525) -/
  lost : Bool := false
  deriving DecidableEq, Repr

/-- The host interface (spec/02). -/
structure Hif where
  /-- the four PCIe links (spec/02 R42) -/
  links : Tab PLink := []
  /-- functions 0 to 32 (spec/02 R44) -/
  fns : Tab Fn := []
  /-- descriptors fetched and not completed, in order of fetch (spec/02 R51) -/
  inflight : List Desc := []
  /-- the model's own count of descriptors fetched -/
  nextId : Nat := 0
  /-- last ring served in each class of each hub's engine, for round robin (spec/02 R54) -/
  rr : Tab Nat := []
  /-- batch fetch mode of each hub's ring engine (spec/19 R515) -/
  batch : Tab Bool := []
  deriving DecidableEq, Repr

/-- Context states (Table 3.2). -/
inductive CtxSt where
  | free | idle | ready | running | blocked | heeling | heeled | replanting | held | faulted | destroying
  deriving DecidableEq, Repr

/-- Why a context is heeled in (Table 3.4 cause). -/
inductive HeelCause where
  | priority | quantum | blockedDemand | preempt | inheritance | coreMove
  deriving DecidableEq, Repr

/-- A REPLAY in progress (R463). -/
structure Replay where
  /-- rec_addr (spec/16 R462) -/
  addr : Nat
  /-- entries of the record (spec/16 Table 16.1) -/
  entries : Nat
  /-- entry being run or next to be looked at, and its offset (spec/16 R463) -/
  idx : Nat := 0
  off : Nat := 512
  /-- an entry is being run (spec/16 R463) -/
  running : Bool := false
  /-- running time of the entries before it, ns (spec/16 R463) -/
  total : Nat := 0
  deriving DecidableEq, Repr

/-- The LAUNCH or REPLAY in progress on a context. -/
structure Launch where
  /-- descriptor id in the host interface; none for a swatch LAUNCH (R420) -/
  desc : Option Nat
  /-- the descriptor's tag, opcode, flags and operands (spec/02 LAUNCH, REPLAY) -/
  tag : Nat := 0
  opcode : Nat := 0
  flags : Nat := 0
  prog : Nat := 0
  argsAddr : Nat := 0
  argsLen : Nat := 0
  entry : Nat := 0
  seed : Nat := 0
  resultAddr : Nat := 0
  digestAddr : Nat := 0
  /-- running time limit in µs, 0 none (spec/03 R96) -/
  budget : Nat := 0
  /-- time spent RUNNING and BLOCKED before `since`, ns (spec/03 R96) -/
  ran : Nat := 0
  /-- when the context last entered RUNNING (spec/03 R96) -/
  since : Nat := 0
  /-- KV walks replayed (spec/08 R259) -/
  replayed : Nat := 0
  /-- program has been dispatched once (spec/03 R91) -/
  dispatched : Bool := false
  /-- (island, stream) pairs the program named in EVT op 1 (spec/14 R414) -/
  evtStreams : List (Nat × Nat) := []
  /-- issued by an island as a swatch (spec/14 R420): (island, stream, channel) -/
  swatch : Option (Nat × Nat × Nat) := none
  /-- recorded entry being written: offset in the buffer and length (spec/16 R460) -/
  recOff : Option (Nat × Nat) := none
  /-- the REPLAY this is an entry of (spec/16 R463) -/
  replay : Option Replay := none
  /-- prog_digest taken at dispatch (spec/15 R448) -/
  progDigest : List Byte := []
  /-- weights_digest taken at dispatch (spec/15 R448) -/
  weightsDigest : List Byte := []
  /-- input_digest taken at dispatch (spec/15 R448) -/
  inputDigest : List Byte := []
  deriving DecidableEq, Repr

/-- One of the 16 context slots of a partition. -/
structure Ctx where
  /-- Table 3.2 (spec/03 R91) -/
  st : CtxSt := .free
  /-- own priority, fixed at creation (spec/03 R90) -/
  prio : Nat := 0
  /-- inherited priority (spec/03 R110) -/
  inherited : Option Nat := none
  /-- core count n (spec/03 R90) -/
  cores : Nat := 0
  /-- heel-in area (spec/03 R90) -/
  heelAddr : Nat := 0
  /-- global core of each context-relative index, while placed (spec/03 R92) -/
  place : List Nat := []
  /-- when it became READY (spec/03 R93) -/
  readyTime : Nat := 0
  /-- when it was last dispatched or replanted (spec/03 R93, R95) -/
  dispatchTime : Nat := 0
  /-- the LAUNCH or REPLAY in progress (spec/03 R91) -/
  launch : Option Launch := none
  /-- state before HELD: IDLE, READY or HEELED (spec/03 Table 3.2) -/
  before : CtxSt := .free
  /-- a PREEMPT holds it or will hold it (spec/02 R64) -/
  hold : Bool := false
  /-- PREEMPT descriptors that complete when the heel-in is written (spec/02 R64) -/
  preempts : List Nat := []
  /-- cause of the heel-in under way or held (spec/03 Table 3.4) -/
  cause : HeelCause := .priority
  /-- slot for which it is being heeled in, `coming` (spec/03 R93) -/
  heelFor : Option Nat := none
  /-- heel-in sequence number (spec/03 Table 3.4) -/
  seq : Nat := 0
  /-- heel-in state is held in memory (spec/03 R89) -/
  heelHeld : Bool := false
  /-- core blocks saved, by context-relative index: what of them the heel-in area's layout leaves to the part -/
  saved : List Core := []
  /-- a SEMA request kept queued has been served or timed out (spec/05 R182) -/
  served : Bool := false
  /-- outcomes to be written at replant: core index, register, value (spec/05 R182) -/
  kept : List (Nat × Nat × Nat) := []
  /-- core being moved to the spare: core left, spare (spec/03 R105) -/
  moving : Option (Nat × Nat) := none
  /-- bytes written in the heel-in under way (spec/03 Table 3.4) -/
  heelBytes : Nat := 0
  /-- when the heel-in or replant under way began (spec/03 Table 3.8) -/
  began : Nat := 0
  /-- status that tore it down (spec/02 R69) -/
  fault : Nat := 0
  /-- LAUNCH and REPLAY completed (spec/03 Table 3.8) -/
  launches : Nat := 0
  /-- heel-ins (spec/03 Table 3.8) -/
  heelIns : Nat := 0
  /-- replants (spec/03 Table 3.8) -/
  replants : Nat := 0
  /-- total heel-in time, ns (spec/03 Table 3.8) -/
  heelNs : Nat := 0
  /-- total replant time, ns (spec/03 Table 3.8) -/
  replantNs : Nat := 0
  /-- last heel-in time, ns (spec/03 Table 3.8) -/
  lastHeelNs : Nat := 0
  /-- when the hold budget of a mutex it owns runs out, with mutex and waiter slot (spec/03 R110, R111) -/
  holdEnds : Option (Nat × Nat × Nat) := none
  /-- active recording: (buffer address, length, entries, dropped, used) (spec/16 R459) -/
  recording : Option (Nat × Nat × Nat × Nat × Nat) := none
  /-- numeric status totals (spec/06 R220) -/
  numTotals : List Nat := []
  /-- CTX_DESTROY without force that waits for the slot's descriptors (spec/03 R115) -/
  destroyer : Option Nat := none
  deriving DecidableEq, Repr

/-- A granule of a partition's map: device granule and rights (R88). -/
structure Granule where
  /-- device granule (spec/03 R88) -/
  dev : Nat
  /-- read right (spec/03 R88) -/
  read : Bool
  /-- write right (spec/03 R88) -/
  write : Bool
  deriving DecidableEq, Repr

/-- What a queued waiter asks of a semaphore. -/
inductive SemWant where
  | atLeast (n : Nat) | equal (n : Nat) | bits (n : Nat)
  | take (n : Nat)
  | lock
  deriving DecidableEq, Repr

/-- Who waits. -/
inductive Waiter where
  /-- a WAIT descriptor -/
  | desc (id : Nat)
  /-- context-relative core `i` of slot `slot`, result register `rd` -/
  | core (slot i rd : Nat)
  deriving DecidableEq, Repr

/-- An entry of a semaphore's wait queue, oldest first (R108). -/
structure Waiting where
  /-- semaphore waited for (spec/03 R108) -/
  sem : Nat
  /-- who waits: a descriptor or a core's SEMA (spec/03 R108) -/
  who : Waiter
  /-- the operation asked for (spec/05 R178) -/
  want : SemWant
  /-- deadline, none without timeout (spec/02 WAIT) -/
  until_ : Option Nat
  deriving DecidableEq, Repr

/-- A mutex (R106, R109, R112). -/
structure Mutex where
  /-- slot that owns it, none while free (spec/03 R109) -/
  owner : Option Nat := none
  /-- its owner was torn down (spec/03 R112) -/
  abandoned : Bool := false
  deriving DecidableEq, Repr

/-- A partition (R83). -/
structure Part where
  /-- 0 not created, 1 created, 2 being destroyed (spec/03 PRT_PART_CFG) -/
  st : Nat := 0
  /-- spec/03 R85 -/
  hubLocal : Bool := false
  /-- spec/15 R444 -/
  confidential : Bool := false
  /-- spec/14 -/
  safety : Bool := false
  /-- spec/08 R262 -/
  privileged : Bool := false
  /-- hold budget in µs (spec/03 R85, R110) -/
  holdBudget : Nat := 0
  /-- cores on each die (spec/03 R83), lowered by R114 -/
  cores : List Nat := [0, 0, 0, 0]
  /-- granules reserved behind DRC_N (spec/03 R86) -/
  granN : Nat := 0
  /-- granules reserved behind DRC_S (spec/03 R86) -/
  granS : Nat := 0
  /-- DRAM share on HN in 1/256 (spec/03 R86) -/
  bwN : Nat := 0
  /-- DRAM share on HS in 1/256 (spec/03 R86) -/
  bwS : Nat := 0
  /-- granule map: partition granule to device granule and rights (spec/03 R88) -/
  gmap : Tab (Option Granule) := []
  /-- counting semaphores 0 to 959, u64 (spec/03 R106) -/
  sems : Tab DWord := []
  /-- mutexes 960 to 1,023 (spec/03 R106) -/
  mutexes : Tab Mutex := []
  /-- wait queues of all its semaphores, in order of arrival (spec/03 R108) -/
  waits : List Waiting := []
  /-- partition counters (spec/03 Table 3.9): contexts created -/
  nCreated : Nat := 0
  /-- heel-ins by priority pre-emption (spec/03 Table 3.9) -/
  nPrio : Nat := 0
  /-- heel-ins by quantum rotation (spec/03 Table 3.9) -/
  nQuantum : Nat := 0
  /-- priority inheritances (spec/03 Table 3.9) -/
  nInherit : Nat := 0
  /-- mutex revocations (spec/03 Table 3.9) -/
  nRevoked : Nat := 0
  /-- abandoned mutexes (spec/03 Table 3.9) -/
  nAbandoned : Nat := 0
  /-- teardowns (spec/03 Table 3.9) -/
  nTeardown : Nat := 0
  /-- completions and MSI-X messages discarded on link loss (spec/03 Table 3.9) -/
  nLinkLost : Nat := 0
  /-- heel-in bytes written (spec/03 Table 3.9) -/
  heelBytes : Nat := 0
  /-- import slots, owner and policy (spec/15) -/
  sec : PartSec := {}
  deriving DecidableEq, Repr

/-- The partition manager (spec/03). -/
structure Prt where
  /-- PRT_STATUS.role is HS acting for the south side (spec/03 R118) -/
  hsActs : Bool := false
  /-- PRT_STATUS.mirror_ok (spec/03 R117) -/
  mirrorOk : Bool := false
  /-- number of the last change of the tables, the model's own count of changes sent to HS (spec/03 R117) -/
  changes : Nat := 0
  /-- last change number HS has applied (spec/03 R117) -/
  applied : Nat := 0
  /-- partitions 1 to 32 (spec/03 R83) -/
  parts : Tab Part := []
  /-- contexts: slot s of partition p at key 16·p + s (spec/03 R83) -/
  ctxs : Tab Ctx := []
  /-- partitions whose scheduler is to run before the command ends (spec/03 R93); empty between commands -/
  resched : List Nat := []
  /-- PRT_SCHED quantum in effect, ns; 0 none (spec/03 R95) -/
  quantum : Nat := 0
  deriving DecidableEq, Repr

end Sys2Proof.Machine
end

