-- ==== Sys2Proof/Machine/StateIng.lean ====
section
/-!
DEFINITION. StateIng.lean: the state of sensor ingest (spec/10) and of the seedling engines (spec/07). Every field names
its rule; its default is its value in `State.reset`.
-/
namespace Sys2Proof.Machine

/-- A frame in progress or held in the ingest buffer (R290 to R293). -/
structure Frame where
  /-- sequence number since bind (spec/10 Table 10.4) -/
  seq : Nat
  /-- CSI-2 frame number, 0 for Ethernet (spec/10 Table 10.4) -/
  csiFn : Nat := 0
  /-- start-of-frame time (spec/10 R289) -/
  sof : Nat := 0
  /-- end-of-frame time, 0 when dropped (spec/10 R289) -/
  eof : Nat := 0
  /-- start time of its last packet (spec/10 R289) -/
  last : Nat := 0
  /-- admitted whole, or dropped whole (spec/10 R292) -/
  admitted : Bool := true
  /-- KiB it holds, and how many of them from its stream's reserve (spec/10 R291) -/
  size : Nat := 0
  fromRes : Nat := 0
  /-- lines stored, oldest first, cut at line_bytes (spec/10 R290) -/
  lines : List (List Byte) := []
  /-- lines received within the count (spec/10 Table 10.4) -/
  rx : Nat := 0
  /-- running CRC-32C of the 16 bands (spec/10 R297) -/
  crcs : List Nat := List.replicate 16 0xFFFFFFFF
  /-- first cause of damage (spec/10 R290, Table 10.7) -/
  damage : Option Nat := none
  /-- long packets with CRC failure (spec/10 Table 10.4) -/
  crcErr : Nat := 0
  /-- lines with an uncorrectable buffer error (spec/10 R301) -/
  eccErr : Nat := 0
  /-- its start lay outside the tolerance (spec/10 R299) -/
  late : Bool := false
  /-- hub time was free-running at its start (spec/10 Table 10.4) -/
  freeRun : Bool := false
  /-- it has ended (spec/10 R290) -/
  ended : Bool := false
  /-- seedling entries that have not finished with it (spec/10 R293) -/
  sdl : List Nat := []
  /-- fusion source entries that have not finished with it (spec/10 R293, spec/11 R306) -/
  fus : List Nat := []
  /-- fingerprints were forced equal by an injection (spec/14 Table 14.10, point 0x0704) -/
  forced : Bool := false
  deriving DecidableEq, Repr

/-- Binding state of a stream (R285). -/
inductive BindSt where
  | none | pending | bound | unbinding
  deriving DecidableEq, Repr

/-- A sensor stream of a hub. -/
structure Stream where
  /-- ING_STRs_BIND.bound, pending (spec/10 R285) -/
  st : BindSt := .none
  /-- partition it is bound to (spec/10 R285) -/
  part : Nat := 0
  /-- 0 CSI-2, 1 Ethernet (spec/02 Table 2.6) -/
  source : Nat := 0
  /-- port (spec/02 Table 2.6) -/
  port : Nat := 0
  /-- virtual channel (spec/02 Table 2.6) -/
  vc : Nat := 0
  /-- data type (spec/02 Table 2.6) -/
  dataType : Nat := 0
  /-- profile in effect (spec/02 Table 2.6) -/
  profile : Nat := 0
  /-- source MAC address, 48 bits (spec/02 Table 2.6) -/
  mac : Nat := 0
  /-- EtherType (spec/02 Table 2.6) -/
  etherType : Nat := 0
  /-- VLAN identifier (spec/02 Table 2.6) -/
  vlan : Nat := 0
  /-- bytes of a line (spec/02 Table 2.6) -/
  lineBytes : Nat := 0
  /-- lines of a frame (spec/02 Table 2.6) -/
  nLines : Nat := 0
  /-- reserve in KiB (spec/10 R284) -/
  reserve : Nat := 0
  /-- frame_sem (spec/10 R296) -/
  frameSem : Nat := 0
  /-- sequence number of the next start of frame (spec/10 Table 10.4) -/
  seq : Nat := 0
  /-- ING_STRs_CNT (spec/10 R294) -/
  drops : Nat := 0
  /-- ING_STRs_CNT.missing (spec/10) -/
  missing : Nat := 0
  /-- last start of frame (spec/10 R299) -/
  lastSof : Option Nat := none
  /-- start-of-frame intervals after bind, at most 3 (spec/10 R299) -/
  intervals : List Nat := []
  /-- deadline of the next start of frame (spec/10 R299) -/
  deadline : Option Nat := none
  /-- 0 INIT, 1 FRESH, 2 SUSPECT, 3 STALE (spec/10 Table 10.5) -/
  fresh : Nat := 0
  /-- frames frozen in a row (spec/10 R298) -/
  frozenRun : Nat := 0
  /-- frames missing in a row (spec/10 R299) -/
  missingRun : Nat := 0
  /-- good frames in a row (spec/10 Table 10.5) -/
  goodRun : Nat := 0
  /-- the reference frame's band fingerprints and frame number (spec/10 R297) -/
  ref : Option (List Nat × Nat) := none
  /-- the frame in progress (spec/10 R290) -/
  cur : Option Frame := none
  /-- frames ended and not released, oldest first (spec/10 R293) -/
  held : List Frame := []
  /-- unbind that waits for the last held frame (spec/10 R285) -/
  unbinder : Option Nat := none
  /-- the islands hold the stream number as STALE since an unbind (spec/10 R300) -/
  gone : Bool := false
  /-- the detection under way was brought about by an injection (spec/14 R427) -/
  injected : Bool := false
  /-- lines withheld of an Ethernet frame that an injection withholds (spec/14 Table 14.10) -/
  heldBack : Nat := 0
  deriving DecidableEq, Repr

/-- Ingest of a hub (spec/10). -/
structure Ing where
  /-- streams 0 to 47 (spec/10 R284) -/
  streams : Tab Stream := []
  /-- long packets discarded, by port (spec/10 R282) -/
  discards : Tab Nat := []
  /-- ING_TIME_ST.synced (spec/10 R286) -/
  synced : Bool := false
  /-- ING_TIME_ST.free_run (spec/10 R286) -/
  freeRun : Bool := true
  /-- ING_TIME_ST.gm_behind (spec/10 R287) -/
  gmBehind : Bool := false
  /-- ING_TIME_ST.following (spec/10 R288) -/
  following : Bool := false
  /-- grandmaster's time less the crystal's, once a Sync has been accepted (spec/10 R287) -/
  gm : Option Int := none
  /-- consecutive Sync messages with an offset below 100 ns, up to 16 (spec/10 R286) -/
  good : Nat := 0
  /-- when the servo last slewed (spec/10 R286) -/
  slewed : Nat := 0
  deriving DecidableEq, Repr

/-- A scale and offset slot of a block, and whether the block is constant, waiting for its record (R244). -/
structure SdlBlock where
  /-- scale slot (spec/07 R244) -/
  slot : Nat
  /-- offset slot (spec/07 R244) -/
  off : Nat
  /-- the block is constant (spec/07 R244) -/
  const : Bool
  deriving DecidableEq, Repr

/-- A seedling job: its record and what the weight store holds of it (R241, R242). -/
structure SdlJob where
  /-- the 256 bytes (spec/07 Table 7.3) -/
  raw : List Byte
  /-- weight codes, [cout][Kg] (spec/07 R242) -/
  weights : List Nat
  /-- scale slots of the weight blocks, one for each k-tile of each column -/
  wscales : List Nat
  /-- bias words (spec/07 R242) -/
  bias : List Nat
  /-- weight store bytes (spec/07 R241) -/
  used : Nat
  deriving DecidableEq, Repr

/-- Where a panel's output of a frame waits in the spill area (R244). -/
structure Spill where
  /-- context-relative core -/
  core : Nat
  /-- first and last image rows spilled -/
  first : Nat
  last : Nat
  /-- scale records spilled: first index and past the last -/
  recFrom : Nat := 0
  recTo : Nat := 0
  deriving DecidableEq, Repr

/-- An entry of a seedling engine (R241). -/
structure SdlEnt where
  /-- SDL_ENTe_STAT.active (spec/07 R241) -/
  active : Bool := false
  /-- SDL_ENTe_STAT.err (spec/07 R241) -/
  err : Nat := 0
  /-- debt in units of 1/11 ns (spec/03 R116) -/
  debt : Nat := 0
  /-- SDL_ENTe_STAT.sat (spec/07 R243) -/
  sat : Nat := 0
  /-- SDL_ENTe_STAT.frames (spec/07 R248) -/
  frames : Nat := 0
  /-- the job in the weight store (spec/07 R241) -/
  job : Option SdlJob := none
  /-- frame in work: its sequence number, once the gate has been taken (spec/07 R244) -/
  cur : Option Nat := none
  /-- next output row of the frame (spec/07 R246) -/
  row : Nat := 0
  /-- next input line to be converted (spec/07 R243) -/
  line : Nat := 0
  /-- blocks formed and not in a record yet, with the records written, of each panel (spec/07 R244) -/
  recs : Tab (Nat × List SdlBlock) := []
  /-- what the spill area holds for the context's next replant (spec/07 R244) -/
  spilled : List Spill := []
  /-- frame number the spill area holds, and whether its last row is among what was spilled (spec/07 R244) -/
  spillFrame : Nat := 0
  spillEnd : Bool := false
  deriving DecidableEq, Repr

/-- A seedling engine (spec/07 R247). -/
structure Sdl where
  /-- entries 0 to 63 (spec/07 R241) -/
  ents : Tab SdlEnt := []
  /-- entry whose slice runs, with the slice's end in units of 1/11 ns (spec/07 R247) -/
  slice : Option (Nat × Nat) := none
  /-- end of the band that ran last, in units of 1/11 ns (spec/07 R246) -/
  busy : Nat := 0
  /-- entry whose slice ran last (spec/07 R247) -/
  last : Nat := 63
  deriving DecidableEq, Repr

end Sys2Proof.Machine
end

