-- ==== Sys2Proof/Machine/StateLinks.lean ====
section
/-!
DEFINITION. StateLinks.lean: the state of the die links and partner ports (spec/13) and of the memory controllers
(spec/12).
-/
namespace Sys2Proof.Machine

/-- Link states (Table 13.2); a partner port has the same (R384). -/
inductive LinkSt where
  | off | training | up | down | fenced
  deriving DecidableEq, Repr

/-- A sideband message in flight on a link, towards one end (R365). `toB` is the end it travels to. -/
structure SbMsg where
  /-- it travels to end B (spec/13 R365) -/
  toB : Bool
  /-- its kind (spec/13 R365) -/
  kind : Nat
  /-- epoch, mask and further data it carries (spec/13 R368) -/
  epoch : Nat := 0
  mask : Nat := 0
  data : Nat := 0
  /-- how often it was sent again (spec/13 R365) -/
  repeats : Nat := 0
  deriving DecidableEq, Repr

/-- Where a training attempt stands (R368). -/
inductive TrainStep where
  | idle
  /-- TRAIN_REQ sent by an end, the answer awaited (step 1) -/
  | request
  /-- both requests seen, threads being trained (step 2) -/
  | threads
  /-- MASK sent by end A (step 3) -/
  | maskSent
  /-- CONFIRM sent by end B (step 4) -/
  | confirmB
  /-- CONFIRM sent by end A (step 5) -/
  | confirmA
  deriving DecidableEq, Repr

/-- Repair map of one bundle in one direction (R366). -/
structure RepairMap where
  /-- spares 0 to 3: the data thread carried, if any (spec/13 LNK_Lk_RP) -/
  spares : List (Option Nat) := [none, none, none, none]
  /-- spares that failed their test (spec/13 R366) -/
  badSpares : List Nat := []
  /-- leading entries from the assembly map, from OTP (spec/13 R366) -/
  asm : Nat := 0
  /-- data threads that failed and have no good spare (spec/13 R366) -/
  failed : List Nat := []
  deriving DecidableEq, Repr

/-- One end of a link: its epoch and its flit sequence numbers. -/
structure LinkEnd where
  /-- epoch held, 16 bits (spec/13 R372) -/
  epoch : Nat := 0
  /-- ingress fenced (spec/13 R377) -/
  fenced : Bool := false
  /-- usable-bundle mask of this end in the attempt under way (spec/13 R366) -/
  usable : Nat := 0
  /-- next sequence number sent (spec/13 R370) -/
  seqTx : Nat := 0
  /-- next sequence number expected (spec/13 R371) -/
  seqRx : Nat := 0
  /-- replay buffer: sequence numbers sent and not acknowledged, oldest first, at most 512 (spec/13 R371) -/
  replay : List Nat := []
  /-- a flit failed its check and its retransmission is awaited (spec/13 R371) -/
  discarding : Bool := false
  /-- a flit was refused for its epoch (spec/13 R373) -/
  refusing : Bool := false
  /-- when it last received a valid flit (spec/13 R374) -/
  heard : Nat := 0
  /-- when it last sent a heartbeat flit (spec/13 R374) -/
  beat : Nat := 0
  deriving DecidableEq, Repr

/-- A die link (k = 0 to 7) or a partner port (8 for N, 9 for S). -/
structure Link where
  /-- LNK_Lk_ST.state (spec/13 Table 13.2) -/
  st : LinkSt := .off
  /-- LNK_Lk_ST.sideband_ok (spec/13 R365) -/
  sbOk : Bool := false
  /-- agreed mask (spec/13 R368) -/
  mask : Nat := 0
  /-- epoch of the last seal (spec/13 LNK_Lk_ST) -/
  sealed : Nat := 0
  /-- end A and end B; a partner port has its own end as `a` -/
  a : LinkEnd := {}
  b : LinkEnd := {}
  /-- messages in flight on the sideband (spec/13 R365) -/
  wires : List SbMsg := []
  /-- message that awaits its answer, with the time it was last sent (spec/13 R365) -/
  await : Option (SbMsg × Nat) := none
  /-- where the attempt under way stands (spec/13 R368) -/
  step : TrainStep := .idle
  /-- end B sent the TRAIN_REQ that began the attempt (spec/13 R368 step 1) -/
  fromB : Bool := false
  /-- the training is one that R367 makes rethread (spec/13 R367, R524) -/
  auto : Bool := false
  /-- the training under way rethreads (spec/13 R367) -/
  rethread : Bool := false
  /-- attempts failed in this training (spec/13 Table 13.2) -/
  attempts : Nat := 0
  /-- when the attempt under way began (spec/13 R368) -/
  began : Nat := 0
  /-- epoch and mask proposed by end A (spec/13 R368) -/
  propE : Nat := 0
  propM : Nat := 0
  /-- repair maps: bundle b, direction d at key 2·b + d (spec/13 R366) -/
  maps : Tab RepairMap := []
  /-- LNK_Lk_CNT0.crc_err (spec/13) -/
  crcErr : Nat := 0
  /-- LNK_Lk_CNT0.replays (spec/13) -/
  replays : Nat := 0
  /-- LNK_Lk_CNT1.retrains (spec/13) -/
  retrains : Nat := 0
  /-- LNK_Lk_CNT1.refused (spec/13) -/
  refused : Nat := 0
  /-- LNK_Lk_CNT1.hb_lost (spec/13) -/
  hbLost : Nat := 0
  /-- sealed at least once (spec/13 LNK_Lk_CNT1) -/
  once : Bool := false
  /-- naks by bundle: times within the window (spec/13 R371) -/
  naks : Tab (List Nat) := []
  /-- naks on their way: towards end B, bundle that carried the bad flit, last good sequence number (spec/13 R371) -/
  nakOut : List (Bool × Nat × Nat) := []
  /-- LNK_POLICY in effect since the last seal (spec/13 LNK_POLICY) -/
  policy : Word := 0x03E80800
  /-- LINK_RETRAIN descriptors that complete when the training ends (spec/13 R524) -/
  waiters : List Nat := []
  deriving DecidableEq, Repr

/-- Packets of one source die for one destination die (R376): dies 0 to 3, 4 HN, 5 HS. -/
structure E2e where
  /-- sent over a third die and not acknowledged: the source's resend store (spec/13 R376) -/
  unacked : List Nat := []
  /-- last 1,024 sequence numbers delivered (spec/13 R376) -/
  seen : List Nat := []
  deriving DecidableEq, Repr

/-- A range mirrored to the partner (PTN_RNGr). -/
structure MirRange where
  /-- partition (spec/13 PTN_RNGr_A) -/
  part : Nat := 0
  /-- 0 idle, 1 waiting or copying, 2 in-sync, 3 diverged (spec/13 PTN_RNGr_A) -/
  st : Nat := 0
  /-- granules mirrored (spec/13 PTN_RNGr_A) -/
  granules : Nat := 0
  /-- first partition granule (spec/13 PTN_RNGr_B) -/
  gran : Nat := 0
  /-- MIRROR_CFG add that waits for it (spec/13 R385) -/
  desc : Option Nat := none
  deriving DecidableEq, Repr

/-- What a partner port sends, in the order the hub accepted it (R386). -/
inductive PtnItem where
  | write (part addr : Nat) (data : List Byte)
  | sem (part sem : Nat) (set : Bool) (operand : Nat)
  deriving DecidableEq, Repr

/-- A partner port's own state (spec/13 R384 to R388); its link state is link 8 or 9. -/
structure Ptn where
  /-- PTN_CFG.enable (spec/13) -/
  enable : Bool := false
  /-- lanes in use (spec/13 PTN_ST) -/
  lanes : Nat := 0
  /-- PTN_ST.partner_ok (spec/13 R384) -/
  ok : Bool := false
  /-- when the partner's heartbeat was last received (spec/13 R384) -/
  heard : Nat := 0
  /-- the 32 ranges (spec/13 R385) -/
  ranges : Tab MirRange := []
  /-- send queue, oldest first (spec/13 R386) -/
  queue : List PtnItem := []
  /-- writes waiting because the queue is full since (spec/13 R386) -/
  fullSince : Option Nat := none
  /-- PTN_CNT.wait_us (spec/13) -/
  waitUs : Nat := 0
  /-- AES-GCM link key agreed at the last seal, the model's name for it (spec/15 R452) -/
  key : Option Nat := none
  /-- packets refused for their tag since the last seal (spec/15 R452) -/
  badTags : Nat := 0
  deriving DecidableEq, Repr

/-- An entry of a bank's row activation table (R351). -/
structure RatEnt where
  /-- row it counts, none while empty (spec/12 R351) -/
  row : Option Nat := none
  /-- activates counted (spec/12 R351) -/
  count : Nat := 0
  /-- activates seen since the row entered the table (spec/12 R352) -/
  own : Nat := 0
  /-- requester of the last activate (spec/12 R351) -/
  req : Requester := .hub 0
  deriving DecidableEq, Repr

/-- A bank: open row and row activation table (R348, R351). -/
structure Bank where
  /-- row open in the bank (spec/12 R348) -/
  openRow : Option Nat := none
  /-- when the row was last hit (spec/12 R348) -/
  used : Nat := 0
  /-- the table's floor count (spec/12 R351) -/
  floor : Nat := 0
  /-- the 64 entries (spec/12 R351) -/
  ents : Tab RatEnt := []
  /-- throttled requesters with the time of their last activate (spec/12 R352) -/
  throttled : List (Requester × Nat) := []
  deriving DecidableEq, Repr

/-- One channel (R348). -/
structure Chan where
  /-- reads queued, oldest first (spec/12 R348) -/
  reads : List MemReq := []
  /-- writes queued, oldest first (spec/12 R348) -/
  writes : List MemReq := []
  /-- writes are being drained (spec/12 R348) -/
  draining : Bool := false
  /-- metadata cache: segments with their dirty flag, newest first, at most 256 (spec/12 R338) -/
  segs : List (Nat × Bool) := []
  /-- in blackout of a frequency change (spec/12 R355) -/
  blackout : Bool := false
  /-- DRC_SCHED and DRC_RAT in effect in the channel (spec/12 R350) -/
  sched : Word := 0x19218100
  rat : Word := 0x142000
  deriving DecidableEq, Repr

/-- An entry of the error log (Table 12.8 item 0). -/
structure ErrEnt where
  /-- hub time, line address, owner, key epoch, kind and requester (spec/12 Table 12.8) -/
  time : Nat
  addr : Nat
  owner : Nat
  epoch : Nat
  kind : Nat
  who : Requester
  deriving DecidableEq, Repr

/-- The diagnosis store (R360). -/
structure Capture where
  /-- hub time of the capture, and the log, banks and queues captured (spec/12 R360) -/
  time : Nat := 0
  log : List ErrEnt := []
  banks : Tab Bank := []
  chans : Tab Chan := []
  deriving DecidableEq, Repr

/-- A memory controller: DRC_N or DRC_S (spec/12). -/
structure Drc where
  /-- DRC_STATUS.state: 0 off, 1 training, 2 up, 3 changing, 4 hold, 5 failed (spec/12) -/
  st : Nat := 0
  /-- set in effect (spec/12 R353) -/
  set : Nat := 0
  /-- memory type: 0 none, 1 LPDDR4X, 2 LPDDR5X (spec/12 DRC_STATUS) -/
  type : Nat := 0
  /-- installed GiB (spec/12 DRC_STATUS) -/
  gib : Nat := 0
  /-- sets trained (spec/12 DRC_SETn_CFG.trained) -/
  trained : List Nat := []
  /-- DRC_TRN_CTRL.valid (spec/12 R357) -/
  valid : List Nat := []
  /-- DRC waits for go since this time (spec/12 R357) -/
  waiting : Option Nat := none
  /-- training window, 48 KiB (spec/12 Table 12.7) -/
  window : Tab Byte := []
  /-- a change under way: target set, next group, DRAM_FREQ descriptor (spec/12 R355) -/
  change : Option (Nat × Nat × Nat) := none
  /-- changes waiting: target set and descriptor (spec/12 R354) -/
  changes : List (Nat × Nat) := []
  /-- held (spec/12 R361) -/
  held : Bool := false
  /-- 16 channels (spec/12 R348) -/
  chans : Tab Chan := []
  /-- banks: bank b of channel c at key 16·c + b (spec/12 R351) -/
  banks : Tab Bank := []
  /-- error log, oldest first, at most 16 (spec/12 Table 12.8) -/
  log : List ErrEnt := []
  /-- diagnosis store (spec/12 R360) -/
  store : Option Capture := none
  /-- DRC_DIAG_DATA, the loaded item (spec/12 R362) -/
  diag : List Byte := []
  /-- corrected lines, saturating (spec/12 DRC_CE_CNT) -/
  ce : Nat := 0
  /-- uncorrectable reads (spec/12 DRC_UE_CNT) -/
  ue : Nat := 0
  /-- MAC failures (spec/12 DRC_UE_CNT) -/
  macf : Nat := 0
  /-- link ECC corrections (spec/12 DRC_LECC_CNT) -/
  lecc : Nat := 0
  /-- first failed line: address, owner, kind (spec/12 DRC_UE_ADDR) -/
  firstBad : Option (Nat × Nat × Nat) := none
  /-- key epoch of each owner (spec/12 R339) -/
  epochs : Tab Nat := []
  /-- crypto unit: turn served last (spec/12 R347) -/
  turn : Nat := 0
  /-- debt of each turn (spec/12 R347, spec/03 R116) -/
  debts : Tab Nat := []
  /-- share-0 partition served last (spec/12 R347) -/
  zeroLast : Nat := 0
  /-- next line patrol scrub reads (spec/12 R346) -/
  scrub : Nat := 0
  /-- partial-array self-refresh dropped these eighths (spec/12 R359) -/
  dropped : List Nat := []
  deriving DecidableEq, Repr

end Sys2Proof.Machine
end

