-- ==== Sys2Proof/Machine/StatePkg.lean ====
section
/-!
DEFINITION. StatePkg.lean: dies, fuses, GLB_ERR (spec/01) and what leaves the device.
-/
namespace Sys2Proof.Machine

/-- State of a compute die (GLB_DIE_STATE, R38). -/
inductive DieSt where
  | off | bringup | up | fenced | reset | rejoin
  deriving DecidableEq, Repr

/-- A compute die. -/
structure Die where
  /-- GLB_DIE_STATE (spec/01 R38) -/
  st : DieSt := .off
  /-- the die's rolling test spare, core c (spec/01 R1, R24) -/
  spare : Option Nat := none
  /-- it has no spare because its quadrants were gated (spec/17 R475) -/
  gated : Bool := false
  /-- when the last die heartbeat arrived at the declaring hub (spec/13 R375) -/
  heard : Nat := 0
  /-- u32 count of die heartbeats sent (spec/13 R375) -/
  beats : Nat := 0
  /-- PLL locked (spec/13 R375) -/
  pll : Bool := false
  /-- fence time Tf of the last fence (spec/13 R377) -/
  tf : Nat := 0
  /-- DIE_RESET descriptor that waits for the sequence of R382 (spec/02 R65) -/
  desc : Option Nat := none
  /-- when RESET began (spec/13 R382) -/
  since : Nat := 0
  /-- dies (0 to 3, 4 HN, 5 HS) that have still to fence it at ingress (spec/13 R377) -/
  toFence : List Nat := []
  /-- why it was declared lost: 0 heartbeat, 1 PLL, 2 forced (spec/13 0x0501) -/
  cause : Nat := 0
  /-- the descriptor that waits asks for no reset (spec/02 R65) -/
  noReset : Bool := false
  /-- its rail was outside its range at PORST_N release: OFF until the next PORST_N (spec/18 R506) -/
  noRail : Bool := false
  deriving DecidableEq, Repr

/-- A hub die. -/
structure Hub where
  /-- up (not OFF, not in reset) (spec/01 GLB_DIE_STATE) -/
  up : Bool := false
  /-- in reset (spec/01 GLB_DIE_STATE) -/
  inReset : Bool := false
  /-- GLB_ERR sticky bits as this hub holds them (spec/01 GLB_ERR) -/
  errBits : Nat := 0
  /-- GLB_ERR.first_block (spec/01 GLB_ERR) -/
  errBlock : Nat := 0
  /-- GLB_ERR_ADDR.first_offset (spec/01 GLB_ERR_ADDR) -/
  errOff : Nat := 0
  deriving DecidableEq, Repr

/-- What the fuses and OTP of the part hold. The spec gives no value for a particular part. -/
structure Fuse where
  /-- GLB_ID.grade: 0 grade A, 1 grade B (spec/01 GLB_ID) -/
  grade : Nat := 0
  /-- GLB_ID.step_major, step_minor (spec/01 GLB_ID) -/
  stepMajor : Nat := 0
  /-- GLB_ID.step_minor (spec/01 GLB_ID) -/
  stepMinor : Nat := 0
  /-- GLB_CORE_ENd (spec/01 R23) -/
  coreEn : List Word := [0xFFFFFFFF#32, 0xFFFFFFFF#32, 0xFFFFFFFF#32, 0xFFFFFFFF#32]
  /-- HIF_LINK_CFG port modes, OTP (spec/02 R42): ×4+×4 where true -/
  portNx4 : Bool := false
  /-- HIF_LINK_CFG mode of port S, OTP (spec/02 R42): ×4+×4 where true -/
  portSx4 : Bool := false
  /-- HIF_LINK_CFG.mpf_link, OTP (spec/02 R43) -/
  mpfLink : Nat := 0
  /-- subsystem identifiers, OTP (spec/02 R45): vendor, device -/
  subsystem : Nat × Nat := (0, 0)
  deriving DecidableEq, Repr

/-- A result record on its way to an island (R181, R401). -/
structure ResRec where
  /-- the island it goes to: 0 ISL_A, 1 ISL_B (spec/05 R181) -/
  island : Nat
  /-- monitored stream of that island (spec/14 R401) -/
  stream : Nat
  /-- partition that sent it (spec/14 R401) -/
  part : Nat
  /-- partition address it was written to -/
  addr : Nat
  /-- its bytes (spec/14 Table 14.3) -/
  data : List Byte
  deriving DecidableEq, Repr

/-- A message that leaves the device, or crosses to a part of it that this model has no other state for. -/
inductive Out where
  /-- a PCIe completion with Unsupported Request on a link (R5, R41) -/
  | unsupported (link : Nat)
  /-- a PCIe read completion with data (R35) -/
  | readReturn (link off : Nat) (val : Word)
  /-- an MSI-X message of a function (R73) -/
  | msix (fn vec : Nat)
  /-- an error reported through AER on a link (R81) -/
  | aer (link : Nat)
  /-- a bus error to a management cluster core (R31) -/
  | busError (hub core addr : Nat)
  /-- data read by a management cluster core (R344) -/
  | clusterData (hub core addr : Nat) (data : List Byte)
  /-- a CAN FD frame of an island: identifier, 16 data bytes (R417) -/
  | can (island ident : Nat) (data : List Byte)
  /-- a mirrored write to the partner package through a hub's port (R386) -/
  | partnerWrite (hub part addr : Nat) (data : List Byte)
  /-- a mirrored semaphore operation (R386) -/
  | partnerSem (hub part sem : Nat) (set : Bool) (operand : Nat)
  /-- a whole range copied to the partner (R385) -/
  | partnerCopy (hub part addr len : Nat)
  /-- an answer on the DOE mailbox of a link (R451) -/
  | doe (link : Nat) (data : List Byte)
  /-- a message of SEC or PWR to scion on a hub (spec/15, spec/17) -/
  | scionMsg (hub kind arg : Nat)
  /-- a TAP response (R453) -/
  | tap (data : List Byte)
  /-- a recovery bundle written to flash (R433) -/
  | bundle (data : List Byte)
  /-- lifetime counters written to flash (R493) -/
  | flash (data : List Byte)
  deriving DecidableEq, Repr

end Sys2Proof.Machine
end

