-- ==== Sys2Proof/Machine/StatePwr.lean ====
section
/-!
DEFINITION. StatePwr.lean: the state of the power, clock and thermal manager (spec/17). Every field names its rule; its
default is its value in `State.reset`.
-/
namespace Sys2Proof.Machine

/-- The thermal loop of a die: 0 to 3 the compute dies, 4 HN, 5 HS (R485). -/
structure Hot where
  /-- steps are being taken: the hottest sensor has been at 115 °C and not yet below 112 °C (spec/17 Table 17.4) -/
  stepping : Bool := false
  /-- when the last step was taken (spec/17 Table 17.4) -/
  stepped : Nat := 0
  /-- at or above 125 °C since (spec/17 Table 17.4) -/
  tripSince : Option Nat := none
  /-- below 110 °C since (spec/17 Table 17.4) -/
  coolSince : Option Nat := none
  /-- at or above 105 °C (spec/17 PWR_STATUS) -/
  warn : Bool := false
  deriving DecidableEq, Repr

/-- The loops of a compute die. -/
structure PwrDie where
  /-- thermal point (spec/17 R485) -/
  thermal : Nat := 0
  /-- cap point (spec/17 R483) -/
  cap : Nat := 0
  /-- ageing guard (spec/17 R494) -/
  guard : Nat := 0
  /-- point in effect (spec/17 R481) -/
  point : Nat := 0
  /-- VDD_CDx is being raised to this point's level (spec/17 R480) -/
  raising : Option Nat := none
  /-- CORE_CLK is halved (spec/17 R482) -/
  halved : Bool := false
  /-- current below 125 A since (spec/17 R482) -/
  calmSince : Option Nat := none
  deriving DecidableEq, Repr

/-- The coolant readings of a hub (R486): °C and 0.01 L/min. -/
structure Cool where
  /-- inlet temperature (spec/17 R486) -/
  inlet : Int := 0
  /-- outlet temperature (spec/17 R486) -/
  outlet : Int := 0
  /-- coolant flow (spec/17 R486) -/
  flow : Nat := 0
  /-- the inlet reading is invalid (spec/17 R486) -/
  inBad : Bool := false
  /-- the outlet reading is invalid (spec/17 R486) -/
  outBad : Bool := false
  /-- last flow pulse (spec/17 Table 17.5) -/
  pulse : Nat := 0
  deriving DecidableEq, Repr

/-- The ageing monitors of a die or hub (R494). -/
structure Age where
  /-- worst slowdown in 0.1 % (spec/17 PWR_AGEx) -/
  slow : Nat := 0
  /-- steps taken (spec/17 PWR_AGEx) -/
  steps : Nat := 0
  /-- last measured (spec/17 R494) -/
  at_ : Option Nat := none
  deriving DecidableEq, Repr

/-- PWR (spec/17). -/
structure Pwr where
  /-- PWR_STATUS.mode: 0 RUN, 1 PARKED, 2 HUBS, 3 STANDBY (spec/17 R476) -/
  mode : Nat := 0
  /-- mode change in progress: target and when it began (spec/17 R476) -/
  target : Option (Nat × Nat) := none
  /-- PWR_PD0.on (spec/17) -/
  cd : Nat := 0
  /-- PWR_PD1.hn and hs: CORE, DRAM, ING, SDL, FUS, SEC (spec/17) -/
  hn : Nat := 0
  hs : Nat := 0
  /-- loops of the compute dies (spec/17 R481) -/
  dies : Tab PwrDie := []
  /-- thermal loops of the dies (spec/17 R485) -/
  hot : Tab Hot := []
  /-- PWR_TEMPs: 1/16 °C and invalid (spec/17 R484) -/
  temps : Tab (Int × Bool) := []
  /-- PWR_COOLh_ST (spec/17 R486) -/
  cools : Tab Cool := []
  /-- row of Table 17.5 in force, 0 to 3 (spec/17 R487) -/
  row : Nat := 0
  /-- package power of the last tick, W (spec/17 R483) -/
  watts : Nat := 0
  /-- below 95 % of the limit since (spec/17 R483) -/
  lowSince : Option Nat := none
  /-- PWR_AGEx: CD0 to CD3, HN, HS (spec/17 R494) -/
  ages : Tab Age := []
  /-- PWR_LIFEi (spec/17 R493) -/
  life : Tab Nat := []
  /-- the counters as last copied to flash (spec/17 R493) -/
  flash : Tab Nat := []
  /-- the always-on copy of the counters has been lost (spec/17 R493) -/
  lifeLost : Bool := false
  /-- last copy to flash, or attempt (spec/17 R493) -/
  saved : Nat := 0
  /-- the thermal cycle under way: lowest and highest junction, 1/16 °C, and whether it has risen 40 °C (spec/17 R492) -/
  cycle : Option (Int × Int × Bool) := none
  /-- PERST_N_N and PERST_N_S are asserted (spec/17 R478) -/
  perst : Tab Bool := []
  deriving DecidableEq, Repr

end Sys2Proof.Machine
end

