-- ==== Sys2Proof/Machine/StateSaf.lean ====
section
/-!
DEFINITION. StateSaf.lean: the state of the safety islands and the injection fabric (spec/14).
-/
namespace Sys2Proof.Machine

/-- SAF_ST.state. -/
inductive IslSt where
  | reset | startup | run | safe | split
  deriving DecidableEq, Repr

/-- SAF_STRs_ST.state. -/
inductive StrSt where
  | off | init | run | degraded | safe
  deriving DecidableEq, Repr

/-- A result record that waits for its partner (R407). -/
structure Unmatched where
  /-- it is of channel B (spec/14 R407) -/
  chanB : Bool
  /-- its bytes (spec/14 Table 14.3) -/
  data : List Byte
  /-- its partition address (spec/14 R401) -/
  addr : Nat
  /-- arrival, island's hub time (spec/14 R407) -/
  at_ : Nat
  /-- an injection altered it (spec/14 R427) -/
  inj : Bool
  deriving DecidableEq, Repr

/-- The swatch of one channel of a stream (R419). -/
structure Swatch where
  /-- records received since the last swatch completed (spec/14 R419) -/
  records : Nat := 0
  /-- due (spec/14 R419) -/
  due : Bool := false
  /-- records since it became due (spec/14 R419) -/
  since : Nat := 0
  /-- deferrals (spec/14 R419) -/
  deferrals : Nat := 0
  /-- overdue detection raised for this due swatch (spec/14 R419) -/
  overdue : Bool := false
  /-- its swatch record, as read when it became due (spec/14 R418) -/
  data : List Byte := []
  /-- an injection flipped its expected digest, or deferred it (spec/14 R427) -/
  inj : Bool := false
  /-- status and output digest of its completed LAUNCH, until the island has judged it (spec/14 R421) -/
  result : Option (Nat × List Byte) := none
  deriving DecidableEq, Repr

/-- What SAFETY_CFG sets (R400). -/
structure SafCfg where
  /-- partition of channel A (spec/14 R400) -/
  partA : Nat := 0
  /-- partition of channel B (spec/14 R400) -/
  partB : Nat := 0
  /-- max_age in ms (spec/14 R400) -/
  maxAge : Nat := 0
  /-- period in ms (spec/14 R400) -/
  period : Nat := 0
  /-- tolerance program, the island's own copy (spec/14 R401) -/
  prog : List Byte := []
  /-- swatch interval n in records (spec/14 R419) -/
  swatchN : Nat := 64
  /-- swatch deferral limit m in records (spec/14 R419) -/
  swatchM : Nat := 8
  deriving DecidableEq, Repr

/-- A monitored stream of an island (R400). -/
structure SafStr where
  /-- SAF_STRs_ST.state (spec/14) -/
  st : StrSt := .off
  /-- its configuration (spec/14 R400) -/
  cfg : SafCfg := {}
  /-- configuration that applies from the next restart: set, or removed (spec/14 R400) -/
  next : Option (Option SafCfg) := none
  /-- unmatched records, oldest first, at most 4 per channel (spec/14 R407) -/
  waiting : List Unmatched := []
  /-- seq of the last pair given a verdict (spec/14 R407) -/
  lastSeq : Option Nat := none
  /-- consecutive mismatches (spec/14 R407) -/
  mism : Nat := 0
  /-- consecutive misses (spec/14 R408) -/
  misses : Nat := 0
  /-- deadline, hub time (spec/14 R408) -/
  deadline : Nat := 0
  /-- dependency streams STALE: (hub, ingest stream) (spec/14 R410) -/
  stale : List (Nat × Nat) := []
  /-- age of the last pair in ms (spec/14 SAF_STRs_ST) -/
  lastAge : Nat := 0
  /-- pairs given PASS, 32 bits (spec/14 SAF_STRs_CNT0) -/
  pass : Nat := 0
  /-- verdicts 1 to 3, 16 bits, saturating (spec/14 SAF_STRs_CNT1) -/
  nMism : Nat := 0
  /-- deadline expiries and UNMATCHED verdicts, 16 bits, saturating (spec/14 SAF_STRs_CNT1) -/
  nMiss : Nat := 0
  /-- swatches passed, 16 bits, saturating (spec/14 SAF_STRs_CNT2) -/
  runs : Nat := 0
  /-- overdue detections, 8 bits, saturating (spec/14 SAF_STRs_CNT2) -/
  nOverdue : Nat := 0
  /-- swatches of channels A and B (spec/14 R419) -/
  swA : Swatch := {}
  swB : Swatch := {}
  /-- quiet window: opens and ends, hub time (spec/14 R422) -/
  quietFrom : Nat := 0
  quietTo : Nat := 0
  /-- inside the quiet window (spec/14 R422) -/
  quiet : Bool := false
  deriving DecidableEq, Repr

/-- A safety island: 0 ISL_A, 1 ISL_B. -/
structure Island where
  /-- SAF_ST.state (spec/14) -/
  st : IslSt := .reset
  /-- halted by debug (spec/14 R394) -/
  halted : Bool := false
  /-- FAULT_x_N is high (spec/14 R398) -/
  faultHigh : Bool := false
  /-- ALIVE_x toggles (spec/14 R398) -/
  alive : Bool := false
  /-- isl_split of the OTP word (spec/14 R393) -/
  otpSplit : Bool := false
  /-- comparator test passed at this release (spec/14 R392) -/
  cmpOk : Bool := false
  /-- SAF_CAUSE.cause (spec/14 R412) -/
  cause : Nat := 0
  /-- SAF_CAUSE.stream (spec/14 R412) -/
  causeStr : Nat := 0x7F
  /-- SAF_CAUSE.injected (spec/14 R427) -/
  injected : Bool := false
  /-- decision time (spec/14 SAF_DEC) -/
  decision : Nat := 0
  /-- restarts since PORST_N (spec/14 SAF_CAUSE) -/
  restarts : Nat := 0
  /-- degraded detections outstanding: cause, its subject, injected (spec/14 R411) -/
  degraded : List (Nat × Nat × Bool) := []
  /-- detections since the safe state was entered, counted (spec/14 R412) -/
  later : Nat := 0
  /-- 64 monitored streams (spec/14 R400) -/
  strs : Tab SafStr := []
  /-- CAN frame counter, 16 bits (spec/14 R417) -/
  canCount : Nat := 0
  /-- last CAN frame sent, hub time (spec/14 R417) -/
  canLast : Nat := 0
  /-- CAN controller is bus-off (spec/14 R416) -/
  busOff : Bool := false
  /-- CAN transmit error counter (spec/14 Table 14.10) -/
  canErr : Nat := 0
  /-- last heartbeat sent on the island link (spec/14 R397) -/
  beat : Nat := 0
  /-- last heartbeat received from the other island (spec/14 R397) -/
  heard : Nat := 0
  /-- last periodic test (spec/14 R422) -/
  lastTest : Nat := 0
  /-- last rolling test start on each of its two dies (spec/14 R423) -/
  rollLo : Nat := 0
  rollHi : Nat := 0
  /-- core under scan test on each of its two dies, with the partition it held and the test's start (spec/14 R423) -/
  scanLo : Option (Nat × Nat × Nat) := none
  scanHi : Option (Nat × Nat × Nat) := none
  /-- STALE entries and exits on their way to it: hub, stream, entry, injected (spec/10 R300) -/
  inbox : List (Nat × Nat × Bool × Bool) := []
  /-- dependency streams reported STALE, whatever the streams set: hub, stream (spec/14 R410) -/
  staleAll : List (Nat × Nat) := []
  /-- notices on the island link to it: 1 safe state, 2 hub reset, 3 separation (spec/14 R397, R415) -/
  mail : List Nat := []
  /-- safe-state notices received (spec/14 R415) -/
  notices : Nat := 0
  /-- its clock is lost or its PLL unlocked (spec/14 R396) -/
  noClock : Bool := false
  /-- cores whose coverage detection was raised; 0xFF for the island test (spec/14 R425) -/
  covered : List Nat := []
  deriving DecidableEq, Repr

/-- An injection that waits for its occasion or its detection (R427). -/
structure Injection where
  /-- injection point (spec/14 Table 14.10) -/
  point : Nat
  /-- instance of the point (spec/14 Table 14.10) -/
  inst : Nat
  /-- its argument (spec/14 Table 14.10) -/
  arg : Nat
  /-- when it was fired (spec/14 R427) -/
  fired : Nat
  /-- when it took effect (spec/14 R427) -/
  effect : Option Nat
  /-- occasions left, for points whose arg counts -/
  left : Nat
  deriving DecidableEq, Repr

/-- The injection fabric (R426, R427). -/
structure Inj where
  /-- the injection under way (spec/14 R426) -/
  busy : Option Injection := none
  /-- INJ_RES.latency (spec/14) -/
  latency : Nat := 0
  /-- INJ_RES.detected (spec/14) -/
  detected : Bool := false
  /-- injections that have ended, detected or not, before their arg occasions were used up (spec/14 Table 14.10) -/
  rest : List Injection := []
  deriving DecidableEq, Repr

end Sys2Proof.Machine
end

