-- ==== Sys2Proof/Machine/State.lean ====
section
/-!
DEFINITION. State.lean: everything the spec gives the part, as plain data, with the queue of commands; the reasons a
step can stop; and the state at PORST_N release.
-/
namespace Sys2Proof.Machine

/-- The part. Tables of like things are sparse over their reset value. -/
structure State where
  /-- ns of the crystal since PORST_N release (spec/00 R4); hub time is this plus the hub's correction -/
  clk : Nat := 0
  /-- correction of HN's hub time, ns (spec/10 R286) -/
  corrN : Int := 0
  /-- correction of HS's hub time, ns (spec/10 R286) -/
  corrS : Int := 0
  /-- fuses and OTP (spec/01 R23) -/
  fuse : Fuse := {}
  /-- compute dies 0 to 3 (spec/01) -/
  dies : Tab Die := []
  /-- hubs 0 HN and 1 HS (spec/01) -/
  hubs : Tab Hub := []
  /-- the hubs are separated (spec/01 R21) -/
  sep : Bool := false
  /-- register fields written and sticky, by BAR0 offset (spec/00 R5): reset is the register table's -/
  regs : Tab Word := []
  /-- values in effect of the sh fields, by BAR0 offset (spec/00 R8) -/
  eff : Tab Word := []
  /-- high halves latched by reads of the low half, by BAR0 offset of the high half (spec/04 R146) -/
  latch : Tab Word := []
  /-- the event recorder (spec/16) -/
  evr : Evr := {}
  /-- the host interface (spec/02) -/
  hif : Hif := {}
  /-- the partition manager (spec/03) -/
  prt : Prt := {}
  /-- cores 0 to 127, core c of die d at 32·d + c (spec/01 Table 1.5) -/
  cores : Tab Core := []
  /-- die links 0 to 7 and partner ports 8 and 9 (spec/13) -/
  links : Tab Link := []
  /-- packets between dies: source 6·s plus destination (spec/13 R376) -/
  e2e : Tab E2e := []
  /-- partner ports of HN and HS (spec/13 R384) -/
  ptn : Tab Ptn := []
  /-- DRC_N and DRC_S (spec/12) -/
  drc : Tab Drc := []
  /-- ING_N and ING_S (spec/10) -/
  ing : Tab Ing := []
  /-- SDL_N and SDL_S (spec/07) -/
  sdl : Tab Sdl := []
  /-- FUS_N and FUS_S (spec/11) -/
  fus : Tab Fus := []
  /-- ISL_A and ISL_B (spec/14) -/
  isl : Tab Island := []
  /-- result records on their way to an island, oldest first (spec/05 R181) -/
  records : List ResRec := []
  /-- the injection fabric (spec/14 R427) -/
  inj : Inj := {}
  /-- the security controller (spec/15) -/
  sec : Sec := {}
  /-- the power, clock and thermal manager (spec/17) -/
  pwr : Pwr := {}
  /-- DRAM as its owners read it, by device address (spec/12 R340); an unlisted byte reads zero -/
  dram : Tab Byte := []
  /-- lines: 1 poisoned, 2 stored with a bad MAC, 3 written since their eighth was dropped (spec/12 R341, R359) -/
  lines : Tab Nat := []
  /-- granules zeroed under a partition's keys since PORST_N (spec/12 R345) -/
  zeroed : Tab Bool := []
  /-- host memory as the device has written it (spec/01 R32) -/
  hostMem : Tab Byte := []
  /-- messages that left the device, oldest first -/
  outbox : List Out := []
  /-- the model's own count of free values taken (log entry 4) -/
  frees : Nat := 0
  /-- commands that wait, first in first out -/
  pending : List Instr := []
  deriving DecidableEq, Repr

/-- Why a command stops the model. -/
inductive Fault where
  /-- raised by no meaning: every behaviour the spec gives is a next state. Safe. -/
  | unspecified (why : String)
  deriving DecidableEq, Repr

/-- Why a command has no meaning. -/
inductive Refusal where
  /-- the row is not modelled yet; raised by an arm of `exec` only. Safe. -/
  | notModelled (mnemonic : String)
  deriving DecidableEq, Repr

/-- The part at PORST_N release, before bring-up: every register at the reset value of its table, no domain
powered yet, no link, no partition, no command waiting. -/
def State.reset : State := {}

end Sys2Proof.Machine
end

