-- ==== Sys2Proof/Machine/Ops.lean ====
section
/-!
DEFINITION. Ops.lean: the named operations everything else is written with: time, bytes, registers and their sticky
errors, the tables of the state, the event recorder's store, and what leaves the device.
-/
namespace Sys2Proof.Machine

/-! ## Words and bytes -/

/-- Bits `lo` to `lo + w - 1` of a number. -/
def bits (n lo w : Nat) : Nat := (n >>> lo) % 2 ^ w

/-- Bit `i` of a number. -/
def bit (n i : Nat) : Bool := n.testBit i

/-- `n` with bits `lo` to `lo + w - 1` replaced by `v`. -/
def setBits (n lo w v : Nat) : Nat := n - bits n lo w * 2 ^ lo + (v % 2 ^ w) * 2 ^ lo

/-- One where the condition holds. -/
def b2n (b : Bool) : Nat := if b then 1 else 0

/-- The low `k` bytes of a number, little-endian (R5, R63). -/
def toBytes : (k n : Nat) → List Byte
  | 0, _ => []
  | k + 1, n => BitVec.ofNat 8 n :: toBytes k (n / 256)

/-- The number a little-endian byte string spells. -/
def ofBytes : List Byte → Nat
  | [] => 0
  | b :: r => b.toNat + 256 * ofBytes r

/-- `n` bytes of a string from offset `k`, as a number. -/
def leAt (b : List Byte) (k n : Nat) : Nat := ofBytes ((b.drop k).take n)

/-- `n` zero bytes. -/
def zeros (n : Nat) : List Byte := List.replicate n 0

/-- A byte string cut or filled with zeros to length `n`. -/
def fit (n : Nat) (b : List Byte) : List Byte := (b ++ zeros (n - b.length)).take n

/-- A byte string with the bytes from offset `k` replaced by `v`. -/
def patch (b : List Byte) (k : Nat) (v : List Byte) : List Byte :=
  b.take k ++ v ++ b.drop (k + v.length)

/-- A number read as two's complement of `w` bits. -/
def sext (w n : Nat) : Int := if bit n (w - 1) then (n : Int) - 2 ^ w else n

/-- The two's complement of `w` bits of an integer. -/
def wrap (w : Nat) (i : Int) : Nat := (i % (2 ^ w : Int)).toNat

/-- Saturating sum at `2^w - 1`. -/
def satAdd (w a b : Nat) : Nat := min (a + b) (2 ^ w - 1)

/-- The bits set in a number below `w`, rising. -/
def bitList (w n : Nat) : List Nat := (List.range w).filter (bit n)

/-- The number with the bits of a list set. -/
def ofBits (l : List Nat) : Nat := l.eraseDups.foldl (fun a i => a + 2 ^ i) 0

/-! ## Time (R4) -/

/-- The crystal has reached at least `t`. -/
def advance (t : Nat) (s : State) : State := { s with clk := max s.clk t }

/-- Correction of hub `h`'s time. -/
def corrOf (s : State) (h : Nat) : Int := if h = 0 then s.corrN else s.corrS

/-- Hub time of hub `h`, a 64-bit count in ns (R4). -/
def hubTime (s : State) (h : Nat) : Nat := wrap 64 ((s.clk : Int) + corrOf s h)

/-! ## The tables of the state -/

def dDie (_ : Nat) : Die := {}
def dHub (_ : Nat) : Hub := {}
def dFn (_ : Nat) : Fn := {}
def dRing (_ : Nat) : Ring := {}
def dPLink (_ : Nat) : PLink := {}
def dPart (_ : Nat) : Part := {}
def dCtx (_ : Nat) : Ctx := {}
def dCore (_ : Nat) : Core := {}
def dLink (_ : Nat) : Link := {}
def dPtn (_ : Nat) : Ptn := {}
def dDrc (_ : Nat) : Drc := {}
def dIsl (_ : Nat) : Island := {}
def dIng (_ : Nat) : Ing := {}
def dSdl (_ : Nat) : Sdl := {}
def dFus (_ : Nat) : Fus := {}
def dByte (_ : Nat) : Byte := 0
def dNat (_ : Nat) : Nat := 0
def dBool (_ : Nat) : Bool := false
def dWord (_ : Nat) : Word := 0

def getDie (s : State) (d : Nat) : Die := tabGet dDie s.dies d
def modDie (d : Nat) (f : Die → Die) (s : State) : State := { s with dies := tabMod dDie s.dies d f }
def getHub (s : State) (h : Nat) : Hub := tabGet dHub s.hubs h
def modHub (h : Nat) (f : Hub → Hub) (s : State) : State := { s with hubs := tabMod dHub s.hubs h f }
def getFn (s : State) (i : Nat) : Fn := tabGet dFn s.hif.fns i
def modFn (i : Nat) (f : Fn → Fn) (s : State) : State :=
  { s with hif := { s.hif with fns := tabMod dFn s.hif.fns i f } }
def getRing (s : State) (i r : Nat) : Ring := tabGet dRing (getFn s i).rings r
def modRing (i r : Nat) (f : Ring → Ring) (s : State) : State :=
  modFn i (fun x => { x with rings := tabMod dRing x.rings r f }) s
def getPLink (s : State) (n : Nat) : PLink := tabGet dPLink s.hif.links n
def modPLink (n : Nat) (f : PLink → PLink) (s : State) : State :=
  { s with hif := { s.hif with links := tabMod dPLink s.hif.links n f } }
def getPart (s : State) (p : Nat) : Part := tabGet dPart s.prt.parts p
def modPart (p : Nat) (f : Part → Part) (s : State) : State :=
  { s with prt := { s.prt with parts := tabMod dPart s.prt.parts p f } }
def ctxKey (p slot : Nat) : Nat := 16 * p + slot
def getCtx (s : State) (p slot : Nat) : Ctx := tabGet dCtx s.prt.ctxs (ctxKey p slot)
def modCtx (p slot : Nat) (f : Ctx → Ctx) (s : State) : State :=
  { s with prt := { s.prt with ctxs := tabMod dCtx s.prt.ctxs (ctxKey p slot) f } }
def getCore (s : State) (g : Nat) : Core := tabGet dCore s.cores g
def modCore (g : Nat) (f : Core → Core) (s : State) : State := { s with cores := tabMod dCore s.cores g f }
def setCore (g : Nat) (c : Core) (s : State) : State := { s with cores := tabSet dCore s.cores g c }
def getLink (s : State) (k : Nat) : Link := tabGet dLink s.links k
def modLink (k : Nat) (f : Link → Link) (s : State) : State := { s with links := tabMod dLink s.links k f }
def getPtn (s : State) (h : Nat) : Ptn := tabGet dPtn s.ptn h
def modPtn (h : Nat) (f : Ptn → Ptn) (s : State) : State := { s with ptn := tabMod dPtn s.ptn h f }
def getDrc (s : State) (h : Nat) : Drc := tabGet dDrc s.drc h
def modDrc (h : Nat) (f : Drc → Drc) (s : State) : State := { s with drc := tabMod dDrc s.drc h f }
def getIsl (s : State) (i : Nat) : Island := tabGet dIsl s.isl i
def modIsl (i : Nat) (f : Island → Island) (s : State) : State := { s with isl := tabMod dIsl s.isl i f }

def getIng (s : State) (h : Nat) : Ing := tabGet dIng s.ing h
def modIng (h : Nat) (f : Ing → Ing) (s : State) : State := { s with ing := tabMod dIng s.ing h f }
def getSdl (s : State) (h : Nat) : Sdl := tabGet dSdl s.sdl h
def modSdl (h : Nat) (f : Sdl → Sdl) (s : State) : State := { s with sdl := tabMod dSdl s.sdl h f }
def getFus (s : State) (h : Nat) : Fus := tabGet dFus s.fus h
def modFus (h : Nat) (f : Fus → Fus) (s : State) : State := { s with fus := tabMod dFus s.fus h f }

/-- Put a message into the outbox. -/
def send (o : Out) (s : State) : State := { s with outbox := s.outbox ++ [o] }

/-- Take a value the spec leaves open (log entry 4). -/
def takeFree (s : State) : Nat × State := (Config.freeValue s.frees, { s with frees := s.frees + 1 })

/-! ## Registers -/

/-- A register block and its instance (Table 1.10). -/
inductive Blk where
  | glb | hif | fn (p : Nat) | prt | core (g : Nat) | die (d : Nat) | lnk | drc (h : Nat) | ing (h : Nat)
  | sdl (h : Nat) | fus (h : Nat) | sec | saf (i : Nat) | evr | pwr | ptn (h : Nat) | inj
  deriving DecidableEq, Repr

/-- Where a block instance starts in BAR0 (Table 1.10, and each block's register section). -/
def Blk.base : Blk → Nat
  | .glb => 0
  | .hif => 0x100000
  | .fn p => if p = 0 then 0x104000 else 0x180000 + (p - 1) * 0x4000
  | .prt => 0x200000
  | .core g => 0x1000000 + (g / 32) * 0x400000 + (g % 32) * 0x10000
  | .die d => 0x1000000 + d * 0x400000 + 0x200000
  | .lnk => 0x2000000
  | .drc h => 0x2100000 + h * 0x80000
  | .ing h => 0x2200000 + h * 0x80000
  | .sdl h => 0x2300000 + h * 0x80000
  | .fus h => 0x2400000 + h * 0x80000
  | .sec => 0x2500000
  | .saf i => 0x2600000 + i * 0x80000
  | .evr => 0x2700000
  | .pwr => 0x2800000
  | .ptn h => 0x2900000 + h * 0x80000
  | .inj => 0x2A00000

/-- The block instance that a BAR0 offset of the management PF lies in; none in the reserved ranges (R34). -/
def blkOf (off : Nat) : Option Blk :=
  if off < 0x100000 then some .glb
  else if off < 0x104000 then some .hif
  else if off < 0x108000 then some (.fn 0)
  else if off < 0x180000 then some .hif
  else if off < 0x200000 then some (.fn ((off - 0x180000) / 0x4000 + 1))
  else if off < 0x300000 then some .prt
  else if off < 0x1000000 then none
  else if off < 0x2000000 then
    if (off - 0x1000000) % 0x400000 < 0x200000 then
      some (.core ((off - 0x1000000) / 0x400000 * 32 + (off - 0x1000000) % 0x400000 / 0x10000))
    else some (.die ((off - 0x1000000) / 0x400000))
  else if off < 0x2100000 then some .lnk
  else if off < 0x2200000 then some (.drc ((off - 0x2100000) / 0x80000))
  else if off < 0x2300000 then some (.ing ((off - 0x2200000) / 0x80000))
  else if off < 0x2400000 then some (.sdl ((off - 0x2300000) / 0x80000))
  else if off < 0x2500000 then some (.fus ((off - 0x2400000) / 0x80000))
  else if off < 0x2600000 then some .sec
  else if off < 0x2700000 then some (.saf ((off - 0x2600000) / 0x80000))
  else if off < 0x2800000 then some .evr
  else if off < 0x2900000 then some .pwr
  else if off < 0x2A00000 then some (.ptn ((off - 0x2900000) / 0x80000))
  else if off < 0x2B00000 then some .inj
  else none

/-- The identifier of a block (Table 0.6). -/
def Blk.ident : Blk → Nat
  | .glb => 1 | .hif => 2 | .fn _ => 2 | .prt => 3 | .core _ => 4 | .die _ => 4 | .lnk => 5 | .drc _ => 6
  | .ing _ => 7 | .sdl _ => 8 | .fus _ => 9 | .sec => 10 | .saf _ => 11 | .evr => 12 | .pwr => 13 | .ptn _ => 14
  | .inj => 15

/-- The register table of a block. -/
def Blk.regs : Blk → List RegDef
  | .glb => regsGlb | .hif => regsHif | .fn _ => regsFn | .prt => regsPrt | .core _ => regsCore | .die _ => regsDie
  | .lnk => regsLnk | .drc _ => regsDrc | .ing _ => regsIng | .sdl _ => regsSdl | .fus _ => regsFus | .sec => regsSec
  | .saf _ => regsSaf | .evr => regsEvr | .pwr => regsPwr | .ptn _ => regsPtn | .inj => regsInj

/-- Whether a register definition covers an offset of its block. -/
def RegDef.covers (r : RegDef) (rel : Nat) : Bool :=
  r.off ≤ rel && (rel - r.off) / r.s1 < r.n1 && (rel - r.off) % r.s1 / r.s2 < r.n2 && (rel - r.off) % r.s1 % r.s2 == 0

/-- The fields of the register at a BAR0 offset; none where no table defines one (R34). -/
def fieldsAt (off : Nat) : List RegField :=
  match blkOf off with
  | none => []
  | some b =>
    match b.regs.find? (·.covers (off - b.base)) with
    | none => []
    | some r => r.fields

/-- Reset values that differ between instances of one table: the default timing sets (Table 12.5, LPDDR5X), follow of HS,
and the CAN identifiers of ISL_B. -/
def regOverride (off : Nat) : Option Nat :=
  if off = 0x2100020 ∨ off = 0x2180020 then some (9600 + 2 ^ 14 + 2 ^ 15 + 2 ^ 17)
  else if off = 0x2100024 ∨ off = 0x2180024 then some (6400 + 2 ^ 15 + 2 ^ 17)
  else if off = 0x2100028 ∨ off = 0x2180028 then some (3200 + 2 ^ 16 + 2 ^ 17)
  else if off = 0x228001C then some 8
  else if off = 0x2680020 then some (0x011 * 4 + 0x111 * 2 ^ 13 + 2 ^ 24)
  else none

/-- What a register holds at reset (its table). -/
def regDefault (off : Nat) : Word :=
  match regOverride off with
  | some v => BitVec.ofNat 32 v
  | none => BitVec.ofNat 32 ((fieldsAt off).foldl (fun a f => a + f.reset * 2 ^ f.lo) 0)

/-- The stored value of a register: fields written, shadow values, sticky bits. -/
def regGet (s : State) (off : Nat) : Word := tabGet regDefault s.regs off

/-- Store a register. -/
def regSet (off : Nat) (v : Word) (s : State) : State := { s with regs := tabSet regDefault s.regs off v }

/-- The value in effect of a register with sh fields (R8). -/
def effGet (s : State) (off : Nat) : Word := tabGet regDefault s.eff off

/-- A stored field of a register. -/
def fld (s : State) (off lo w : Nat) : Nat := bits (regGet s off).toNat lo w

/-- A field in effect of a register (R8). -/
def eff (s : State) (off lo w : Nat) : Nat := bits (effGet s off).toNat lo w

/-- Store one field of a register. -/
def fldSet (off lo w v : Nat) (s : State) : State :=
  regSet off (BitVec.ofNat 32 (setBits (regGet s off).toNat lo w v)) s

/-- The sh fields of the register at `off` take effect (R8). -/
def commit (off : Nat) (s : State) : State := { s with eff := tabSet regDefault s.eff off (regGet s off) }

/-- Set sticky error bit `b` of the register at `off`; `n` sticky bits stand from bit 0. Where all were clear, the field
`first` (low bit, width, value) keeps the first error. -/
def stick (off b n : Nat) (first : Option (Nat × Nat × Nat)) (s : State) : State :=
  let s := match first with
    | none => s
    | some (lo, w, v) => if fld s off 0 n = 0 then fldSet off lo w v s else s
  fldSet off b 1 1 s

/-! ## Dies, links and routes (R16, R17, R25) -/

/-- Link `k` is UP. -/
def linkUp (s : State) (k : Nat) : Bool := (getLink s k).st = .up

/-- The hub that declares compute die `d` lost while both hubs stand (R25). -/
def homeHub (d : Nat) : Nat := d / 2

/-- West path: links 0, 6 and 2 are UP (R16). -/
def westUp (s : State) : Bool := linkUp s 0 && linkUp s 6 && linkUp s 2

/-- East path: links 1, 7 and 3 are UP (R16). -/
def eastUp (s : State) : Bool := linkUp s 1 && linkUp s 7 && linkUp s 3

/-- A hub-to-hub path is usable (R21). -/
def hubsJoined (s : State) : Bool := westUp s || eastUp s

/-- The H link of compute die `d` (Table 1.3). -/
def hLink (d : Nat) : Nat := d

/-- The X link of compute die `d`. -/
def xLink (d : Nat) : Nat := 4 + d / 2

/-- The Y link of compute die `d`. -/
def yLink (d : Nat) : Nat := 6 + d % 2

/-- The neighbour of die `d` along its row and along its column. -/
def xPeer (d : Nat) : Nat := if d % 2 = 0 then d + 1 else d - 1
def yPeer (d : Nat) : Nat := (d + 2) % 4

/-- Compute die `d` reaches hub `h` by its primary or alternative route (Table 1.4). -/
def dieReaches (s : State) (d h : Nat) : Bool :=
  if homeHub d = h then linkUp s (hLink d) || (linkUp s (xLink d) && linkUp s (hLink (xPeer d)))
  else (linkUp s (yLink d) && linkUp s (hLink (yPeer d))) ||
    (linkUp s (xLink d) && linkUp s (yLink (xPeer d)) && linkUp s (hLink (yPeer (xPeer d))))

/-- The hub that declares die `d`: its own, or the other while its own is in reset or beyond a separation and the
other reaches the die (R25). -/
def declHub (s : State) (d : Nat) : Nat :=
  let h := homeHub d
  if (getHub s h).inReset || (s.sep && !dieReaches s d h && dieReaches s d (1 - h)) then 1 - h else h

/-! ## The injection fabric's view of detections (R427) -/

/-- The injection of point `pt` on `inst` is in effect. -/
def injLive (s : State) (pt inst : Nat) : Bool :=
  match s.inj.busy with
  | some i => i.point = pt && i.inst = inst && i.effect.isSome && 0 < i.left
  | none => false

/-- The injection of point `pt` on `inst` has taken effect and awaits its detection. -/
def injActive (s : State) (pt inst : Nat) : Bool :=
  s.inj.busy.any fun i => i.point = pt && i.inst = inst && i.effect.isSome

/-- One occasion of the injection is used up. -/
def injUse (s : State) : State :=
  match s.inj.busy with
  | some i => { s with inj := { s.inj with busy := some { i with left := i.left - 1 } } }
  | none => s

/-- Points of Table 14.10 whose arg counts the occasions. -/
def injCounted (pt : Nat) : Bool := [0x0502, 0x0706, 0x0B09, 0x0B0A, 0x0B0D].elem pt

/-- The next occasion of counted point `pt` is struck: by the injection in effect, or by one that has ended with
occasions left. -/
def injStrikes (s : State) (pt inst : Nat) : Bool :=
  injLive s pt inst || s.inj.rest.any fun i => i.point = pt && i.inst = inst

/-- One occasion of counted point `pt` is used up. -/
def injSpend (pt inst : Nat) (s : State) : State :=
  if injLive s pt inst then injUse s
  else { s with inj := { s.inj with rest := (s.inj.rest.map fun i =>
    if i.point = pt ∧ i.inst = inst then { i with left := i.left - 1 } else i).filter fun i => 0 < i.left } }

/-- The injections that strike on once `i` has ended. -/
def injAfter (s : State) (i : Injection) : List Injection :=
  if injCounted i.point ∧ 0 < i.left then i :: s.inj.rest else s.inj.rest

/-- The injection's argument. -/
def injArg (s : State) : Nat := match s.inj.busy with | some i => i.arg | none => 0

/-- The detector of point `pt` has raised its event: the latency is reported and the injection ends (R427). -/
def injDetected (pt : Nat) (s : State) : State :=
  match s.inj.busy with
  | some i =>
    match i.effect with
    | some e =>
      if i.point = pt then
        { s with inj := { busy := none, latency := min (hubTime s 0 - e) (2 ^ 31 - 1), detected := true,
                          rest := injAfter s i } }
      else s
    | none => s
  | none => s

/-- The points of Table 14.10 whose detection is an event, with that event. -/
def injEvent : List (Nat × Nat) :=
  [(0x0201, 0x0204), (0x0301, 0x0304), (0x0302, 0x0305), (0x0401, 0x0401), (0x0402, 0x0402), (0x0403, 0x0403),
   (0x0404, 0x0404), (0x0405, 0x0B09), (0x0501, 0x0501), (0x0502, 0x0503), (0x0503, 0x0504), (0x0504, 0x0505),
   (0x0601, 0x0601), (0x0602, 0x0602), (0x0603, 0x0603), (0x0604, 0x0604), (0x0606, 0x0606), (0x0701, 0x0701),
   (0x0702, 0x0702), (0x0703, 0x0702), (0x0704, 0x0704), (0x0705, 0x0702), (0x0706, 0x0704), (0x0707, 0x0708),
   (0x0901, 0x0906), (0x0A01, 0x0A03), (0x0B01, 0x0B01), (0x0B02, 0x0B01), (0x0B03, 0x0B01), (0x0B04, 0x0B0D),
   (0x0B05, 0x0B02), (0x0B06, 0x0B03), (0x0B07, 0x0B06), (0x0B08, 0x0B01), (0x0B09, 0x0B04), (0x0B0A, 0x0B07),
   (0x0B0B, 0x0B08), (0x0B0C, 0x0B01), (0x0B0D, 0x0B0B), (0x0B0E, 0x0B01), (0x0C01, 0x0C01), (0x0D01, 0x0D01),
   (0x0D02, 0x0D04), (0x0D03, 0x0D05), (0x0E01, 0x0E01), (0x0E02, 0x0A09)]

/-- An event of code `c` is recorded: where it is the one the injection waits for, the injection is detected. -/
def injOnEvent (c : Nat) (s : State) : State :=
  match s.inj.busy with
  | some i => if injEvent.any (fun e => e.1 = i.point && e.2 = c) then injDetected i.point s else s
  | none => s

/-! ## The event recorder (R465 to R470) -/

/-- A data item of an event, by the class and width of Table 16.4. -/
inductive Item where
  /-- identifier, 1 byte -/
  | id1 (n : Nat)
  /-- identifier, 2 bytes -/
  | id2 (n : Nat)
  /-- location, 4 bytes -/
  | loc4 (n : Nat)
  /-- location, 8 bytes -/
  | loc8 (n : Nat)
  /-- code, 1 byte -/
  | code1 (n : Nat)
  /-- value, 2 bytes -/
  | val2 (n : Nat)
  /-- value, 4 bytes -/
  | val4 (n : Nat)
  /-- value, 8 bytes -/
  | val8 (n : Nat)
  deriving DecidableEq, Repr

def Item.bytes : Item → List Byte
  | .id1 n => toBytes 1 n | .id2 n => toBytes 2 n | .loc4 n => toBytes 4 n | .loc8 n => toBytes 8 n
  | .code1 n => toBytes 1 n | .val2 n => toBytes 2 n | .val4 n => toBytes 4 n | .val8 n => toBytes 8 n

/-- Identifier and location items make the key (R466). -/
def Item.inKey : Item → Bool
  | .id1 _ => true | .id2 _ => true | .loc4 _ => true | .loc8 _ => true
  | _ => false

/-- Length of the leading run of key items, cut at 16 bytes (R466). -/
def keyLen (l : List Item) : Nat := min 16 (((l.takeWhile Item.inKey).map (fun i => i.bytes.length)).sum)

/-- Severity of each code: the first row of Table 16.5 that describes the event (R121, R302, R363, R428, R454, R467, log
entry 9). -/
def evSeverity (c : Nat) : Nat :=
  if [0x0501, 0x0A01, 0x0A04, 0x0B01, 0x0B09].elem c then 4
  else if [0x0205, 0x0301, 0x0302, 0x0305, 0x0402, 0x0404, 0x0406, 0x0602, 0x0603, 0x0701, 0x0702, 0x0703, 0x0705,
    0x0708, 0x0802, 0x0902, 0x0903, 0x0906, 0x0B02, 0x0B03, 0x0B04, 0x0B05, 0x0B06, 0x0B0D, 0x0C01, 0x0C02,
    0x0E01].elem c then 3
  else if [0x0101, 0x0102, 0x0103, 0x0201, 0x0202, 0x0203, 0x0204, 0x0207, 0x0304, 0x0307, 0x0405, 0x0407, 0x0502,
    0x0504, 0x0505, 0x0506, 0x0507, 0x0508, 0x0606, 0x0608, 0x0707, 0x0801, 0x0804, 0x0901, 0x0904, 0x0907, 0x0908,
    0x0A05, 0x0A07, 0x0A09, 0x0A0A, 0x0B0B, 0x0B0C, 0x0C03, 0x0D03, 0x0D05, 0x0D07, 0x0D09, 0x0D0A, 0x0E03, 0x0F02,
    0x1001].elem c then 2
  else if [0x0401, 0x0403, 0x0408, 0x0503, 0x0601, 0x0604, 0x0A03, 0x0B07, 0x0B08, 0x0B0A, 0x0D02, 0x0D06,
    0x0D0B].elem c then 1
  else 0

/-- Codes that their chapters record with repeat counting (R39, R468). -/
def evRepeats (c : Nat) : Bool :=
  [0x0101, 0x0102, 0x0103, 0x0401, 0x0408, 0x0507, 0x0601, 0x0703, 0x0902, 0x0903, 0x0905, 0x0D06].elem c

/-- kept_thr and rep_win in effect (EVR_PROFILE, EVR_TUNE, R11). -/
def evTune (s : State) : Nat × Nat :=
  if fld s 0x2700004 0 1 = 1 then (eff s 0x270000C 0 3, eff s 0x270000C 3 10)
  else match eff s 0x2700008 0 2 with
    | 1 => (4, 64)
    | 2 => (3, 256)
    | _ => (3, 64)

def dEv (_ : Nat) : EvRec := {}

/-- The slot of circulating record `n` (R468). -/
def circSlot (n : Nat) : Nat := 256 + n % 1024

/-- Two records have the same key (R466). -/
def sameKey (a b : EvRec) : Bool :=
  a.code = b.code && a.part = b.part && a.ctx = b.ctx && a.keyLen = b.keyLen &&
    a.data.take a.keyLen = b.data.take b.keyLen

/-- The newest of the last `k` records before record `n` that `r` merges into (R468). -/
def findMerge (e : Evr) (r : EvRec) : (k n : Nat) → Option Nat
  | 0, _ => none
  | _, 0 => none
  | k + 1, n + 1 =>
    let o := tabGet dEv e.slots (circSlot n)
    if o.code ≠ 0 && sameKey o r && o.repeats < 0xFFFF then some (circSlot n) else findMerge e r k n

/-- Write a record to the store: merged, or to the next circulating slot and, where its severity says so, to the next
kept slot (R468, R469). Answers whether the kept area was found full for the first time. -/
def storeEvent (keptThr win : Nat) (e : Evr) (r : EvRec) : Evr × Bool :=
  match (if evRepeats r.code then findMerge e r (min win 1024) e.head else none) with
  | some k =>
    let o := tabGet dEv e.slots k
    let o := { o with repeats := o.repeats + 1, data := o.data.take o.keyLen ++ r.data.drop o.keyLen }
    ({ e with slots := tabSet dEv e.slots k o }, false)
  | none =>
    let e := { e with slots := tabSet dEv e.slots (circSlot e.head) r, head := (e.head + 1) % 2 ^ 32,
                      badSlots := e.badSlots.filter (· ≠ circSlot e.head) }
    if keptThr ≤ r.sev && keptThr ≤ 4 then
      if e.kept < 256 then ({ e with slots := tabSet dEv e.slots e.kept r, kept := e.kept + 1 }, false)
      else ({ e with keptFull := true }, !e.keptFull)
    else (e, false)

/-- Store a record on HN: the sh fields of EVR commit, and a kept area found full is recorded once (R469). -/
def recordAtHn (r : EvRec) (s : State) : State :=
  let s := commit 0x270000C (commit 0x2700008 s)
  let (e, full) := storeEvent (evTune s).1 (evTune s).2 s.evr r
  let s := { s with evr := e }
  if full then
    let s := fldSet 0x2700010 2 1 1 s
    let r' : EvRec := { time := r.time, code := 0x0C03, sev := 2, repeats := 1, ctx := 0xFF,
                        data := fit 16 (toBytes 2 r.code) }
    { s with evr := (storeEvent (evTune s).1 (evTune s).2 s.evr r').1 }
  else s

/-- Whether what is detected at a site reaches HN: HN itself, HS, or compute die `site - 2` (R470). -/
def reachesHn (s : State) (site : Nat) : Bool :=
  if site = 0 then true
  else if site = 1 then hubsJoined s
  else dieReaches s (site - 2) 0 || (dieReaches s (site - 2) 1 && hubsJoined s)

/-- The hub whose time a site stamps with (R470). -/
def siteHub (s : State) (site : Nat) : Nat := if site < 2 then site else declHub s (site - 2)

/-- Record an event detected at a site (0 HN, 1 HS, 2 + d die d): stored on HN, or held by HS while it has no route,
at most 64 (R466 to R470). -/
def record (site code : Nat) (items : List Item) (part ctx : Nat) (s : State) : State :=
  let r : EvRec := { time := hubTime s (siteHub s site), code, sev := evSeverity code, repeats := 1, part, ctx,
                     data := fit 16 (items.flatMap Item.bytes), keyLen := keyLen items }
  let s :=
    if reachesHn s site then recordAtHn r s
    else if s.evr.hsHeld.length < 64 then { s with evr := { s.evr with hsHeld := s.evr.hsHeld ++ [r] } }
    else { s with evr := { s.evr with hsLost := s.evr.hsLost + 1 } }
  injOnEvent code s

/-- Record an event of no partition and no context. -/
def event (site code : Nat) (items : List Item) (s : State) : State := record site code items 0 0xFF s

/-- Record an event that concerns partition `p`, or none where `p` is 0 (Table 16.3). -/
def eventFor (p site code : Nat) (items : List Item) (s : State) : State := record site code items p 0xFF s

/-- HS forwards the records it holds and records how many it discarded (R470). -/
def forwardHeld (s : State) : State :=
  let held := s.evr.hsHeld
  let lost := s.evr.hsLost
  let s := { s with evr := { s.evr with hsHeld := [], hsLost := 0 } }
  let s := held.foldl (fun s r => recordAtHn r s) s
  if held.isEmpty && lost = 0 then s
  else event 1 0x0C02 [.val4 lost] (fldSet 0x2700010 1 1 1 s)

end Sys2Proof.Machine
end

