-- ==== Sys2Proof/Machine/Hif.lean ====
section
/-!
DEFINITION. Hif.lean: rings, doorbells, completions, interrupts and PCIe links of the host interface (spec/02), and the
meanings of their rows. Fetching and checking descriptors is in Desc.lean.
-/
namespace Sys2Proof.Machine

/-! ## Functions and links -/

/-- The link that carries a function, coded as mpf_link (R43, R44). -/
def fnLink (s : State) (fn : Nat) : Nat :=
  if fn = 0 then s.fuse.mpfLink else fld s (0x100040 + 4 * ((fn - 1) / 16)) (2 * ((fn - 1) % 16)) 2

/-- The hub of a link. -/
def linkHub (n : Nat) : Nat := n / 2

/-- The hub whose ring engine serves a function. -/
def fnHub (s : State) (fn : Nat) : Nat := linkHub (fnLink s fn)

/-- A link exists in its port's mode (R42). -/
def linkExists (s : State) (n : Nat) : Bool :=
  n = 0 || n = 2 || (n = 1 && s.fuse.portNx4) || (n = 3 && s.fuse.portSx4)

/-- The partitions mapped to a link, rising (R44). -/
def mappedTo (s : State) (n : Nat) : List Nat := ((List.range 32).map (· + 1)).filter fun p => fnLink s p = n

/-- The function is present on its link: the management PF, or a VF shown by VF Enable and NumVFs (R44). -/
def fnPresent (s : State) (fn : Nat) : Bool :=
  let n := fnLink s fn
  linkExists s n && (getPLink s n).up &&
    (fn = 0 || ((getPLink s n).vfEnable && ((mappedTo s n).take (getPLink s n).numVfs).elem fn))

/-! What a function's configuration space shows (R43, R45, R46). No command reads it. -/

/-- The PF of a link is the management PF, or a carrier PF: the first data byte of its DVSEC (R43). -/
def dvsecByte (s : State) (link : Nat) : Nat := if s.fuse.mpfLink = link then 1 else 2

/-- Vendor, device, class code, revision and subsystem identifiers of a PF (`vf` false) or a VF (Table 2.2). -/
def pciIds (s : State) (vf : Bool) : Nat × Nat × Nat × Nat × (Nat × Nat) :=
  (0x2B7C, if vf then 0x2401 else 0x2400, 0x120000, s.fuse.stepMajor % 16 * 16 + s.fuse.stepMinor % 16, s.fuse.subsystem)

/-- Sizes of BAR0, BAR2 and BAR4 of the PF of a link (R43, Table 2.3). -/
def pfBars (s : State) (link : Nat) : Nat × Nat × Nat :=
  if s.fuse.mpfLink = link then (2 ^ 26, 2 ^ 12, 2 ^ 12) else (0, 0, 0)

/-- Sizes of BAR0, BAR2 and BAR4 of a VF (Table 2.3). -/
def vfBars : Nat × Nat × Nat := (2 ^ 16, 2 ^ 12, 2 ^ 12)

/-- TotalVFs of a link's PF (R44). -/
def totalVfs (s : State) (link : Nat) : Nat := (mappedTo s link).length

/-- BAR0 offset of a register of a function's window. -/
def winReg (fn rel : Nat) : Nat := (Blk.fn fn).base + rel

/-- Entries of ring `r` of a function (HIF_RING_CFG.size_log2). -/
def ringSize (s : State) (fn r : Nat) : Nat := 2 ^ fld s (winReg fn (0x108 + 0x20 * r)) 0 5

/-- Base address of ring `r` (HIF_RING_BASE). -/
def ringBase (s : State) (fn r : Nat) : Nat :=
  (regGet s (winReg fn (0x100 + 0x20 * r))).toNat + 2 ^ 32 * (regGet s (winReg fn (0x104 + 0x20 * r))).toNat

/-- Bytes the device writes to host memory. -/
def hostWrite (addr : Nat) (b : List Byte) (s : State) : State :=
  { s with hostMem := putBytes s.hostMem addr b }

/-! ## Interrupts (R73 to R77) -/

/-- `n` completions or messages of a function are discarded with its link (R80). -/
def countLost (fn n : Nat) (s : State) : State :=
  modPart fn (fun p => { p with nLinkLost := satAdd 32 p.nLinkLost n })
    (modFn fn (fun f => { f with linkLost := satAdd 32 f.linkLost n }) s)

/-- Send MSI-X vector `vec` of a function: lost with its link, pending while masked, else sent (R74, R80). -/
def sendMsix (fn vec : Nat) (s : State) : State :=
  if !(getPLink s (fnLink s fn)).up then countLost fn 1 s
  else if (getFn s fn).unmasked.elem vec then
    send (.msix fn vec) (modFn fn (fun f => { f with msixSent := satAdd 32 f.msixSent 1 }) s)
  else modFn fn (fun f => { f with pendingBits := if f.pendingBits.elem vec then f.pendingBits else f.pendingBits ++ [vec] }) s

/-- Set an error bit of HIF_FN_ERR; a bit newly set raises vector 0 (R73). -/
def fnErr (fn b ring : Nat) (s : State) : State :=
  let fresh := fld s (winReg fn 8) b 1 = 0
  let s := stick (winReg fn 8) b 6 (some (8, 3, ring)) s
  if fresh then sendMsix fn 0 s else s

/-- Count and time thresholds (units of 4 µs) in force on completion ring `r` (R75, R76, Table 2.11). -/
def irqThr (s : State) (fn r : Nat) : Nat × Nat :=
  let off := winReg fn (0x110 + 0x20 * r)
  if r = 4 then (1, 1)
  else if fld s (winReg fn 4) 0 1 = 1 then (max 1 (eff s off 16 8), max 1 (eff s off 24 8))
  else match eff s off 0 2 with
    | 0 => (1, 1)
    | 1 => (4, 2)
    | 2 => (16, 12)
    | _ => (64, 50)

/-- The vector completion ring `r` raises, if any (HIF_IRQ_CFG.vector). -/
def irqVector (s : State) (fn r : Nat) : Option Nat :=
  let v := fld s (winReg fn (0x110 + 0x20 * r)) 8 6
  if 1 ≤ v ∧ v ≤ (if fn = 0 then 2 else 4) then some v else none

/-- The count and the timer of a completion ring are reset, its sh fields commit, and its vector is sent (R74, R75). -/
def signalRing (fn r : Nat) (s : State) : State :=
  let s := modRing fn r (fun x => { x with count := 0, oldest := 0 }) s
  let s := commit (winReg fn (0x110 + 0x20 * r)) s
  match irqVector s fn r with
  | some v => sendMsix fn v s
  | none => s

/-! ## Completions (R52, R53, R66) -/

/-- The 32 bytes of a completion entry (Table 2.7). -/
def cqeBytes (e : Cqe) (phase : Bool) (sqHead : Nat) : List Byte :=
  toBytes 2 e.tag ++ toBytes 2 e.status ++ toBytes 1 (b2n phase) ++ toBytes 1 e.ctx ++ toBytes 2 sqHead ++
    toBytes 8 e.time ++ toBytes 1 e.sq ++ toBytes 1 e.opcode ++ toBytes 2 e.detail ++ toBytes 4 e.info ++
    toBytes 8 e.aux

/-- Write a completion entry into the next slot of its ring and count it for the interrupt (R52, R66, R74). -/
def writeCqe (fn : Nat) (e : Cqe) (s : State) : State :=
  let r := e.sq + 4
  let x := getRing s fn r
  let s := hostWrite (ringBase s fn r + 32 * x.head) (cqeBytes e (!x.lap) (getRing s fn e.sq).head) s
  let wraps := x.head + 1 = ringSize s fn r
  let s := modRing fn r (fun y =>
    { y with head := if wraps then 0 else y.head + 1, lap := if wraps then !y.lap else y.lap, fill := y.fill + 1 }) s
  if e.irq || 0x0100 ≤ e.status then
    let s := modRing fn r (fun y => { y with count := y.count + 1, oldest := if y.count = 0 then s.clk else y.oldest }) s
    if (irqThr s fn r).1 ≤ (getRing s fn r).count then signalRing fn r s else s
  else s

/-- Write held completions while the host has released slots (R53); `n` bounds how many. -/
def drainHeld (fn r : Nat) : (n : Nat) → State → State
  | 0, s => s
  | n + 1, s =>
    match (getRing s fn r).held with
    | [] => s
    | e :: rest =>
      if (getRing s fn r).fill < ringSize s fn r then
        drainHeld fn r n (writeCqe fn e (modRing fn r (fun y => { y with held := rest }) s))
      else s

/-- Deliver a completion: discarded with a lost link or a ring that is not ACTIVE, written, or held; the 64th held
stalls the submission ring (R53, R80). -/
def postCqe (fn : Nat) (e : Cqe) (s : State) : State :=
  let r := e.sq + 4
  if !(getPLink s (fnLink s fn)).up then countLost fn 1 s
  else if (getRing s fn r).st ≠ .active then s
  else
    let x := getRing s fn r
    if x.held.isEmpty && x.fill < ringSize s fn r then writeCqe fn e s
    else
      let s := modRing fn r (fun y => { y with held := y.held ++ [e] }) s
      if x.held.length = 63 then eventFor fn (fnHub s fn) 0x0203 [.id1 fn, .id1 e.sq] (fnErr fn 3 e.sq s) else s

/-! ## Descriptors in flight -/


/-- Byte `k` of a descriptor, `n` bytes little-endian. -/
def rawAt (d : DescWord) (k n : Nat) : Nat := bits d.toNat (8 * k) (8 * n)


def Desc.u (d : Desc) (k n : Nat) : Nat := rawAt d.raw k n
def Desc.opcode (d : Desc) : Nat := d.u 0 1
def Desc.tag (d : Desc) : Nat := d.u 2 2
def Desc.flags (d : Desc) : Nat := d.u 4 1
def Desc.slot (d : Desc) : Nat := d.u 5 1
def Desc.fenceBefore (d : Desc) : Bool := bit d.flags 0
def Desc.fenceAfter (d : Desc) : Bool := bit d.flags 1
def Desc.irq (d : Desc) : Bool := bit d.flags 2

/-- The partition whose work a descriptor is. -/
def Desc.part (d : Desc) : Nat := if d.fn = 0 then d.u 8 1 else d.fn

/-- The context slot a descriptor names, if any (R55, R62). -/
def Desc.ctx? (d : Desc) : Option Nat := if d.slot = 0xFF then none else some d.slot

def findDesc (s : State) (i : Nat) : Option Desc := s.hif.inflight.find? (·.id = i)

def setInflight (l : List Desc) (s : State) : State := { s with hif := { s.hif with inflight := l } }

/-- Descriptor `i` has started. -/
def startDesc (i : Nat) (s : State) : State :=
  setInflight (s.hif.inflight.map fun d => if d.id = i then { d with st := .running } else d) s

/-- A descriptor is finished: it leaves the engine and its completion entry is posted, or discarded where its ring went
OFF with a link (R59, R66, R80). -/
def finish (i status detail info aux : Nat) (s : State) : State :=
  match findDesc s i with
  | none => s
  | some d =>
    let s := setInflight (s.hif.inflight.filter (·.id ≠ i)) s
    let s := modFn d.fn (fun f => { f with completed := satAdd 64 f.completed 1 }) s
    if d.lost then countLost d.fn 1 s
    else postCqe d.fn { tag := d.tag, status, ctx := d.slot, time := hubTime s (fnHub s d.fn), sq := d.ring,
                        opcode := d.opcode, detail, info, aux, irq := d.irq } s

/-- Finish with status OK and nothing to report. -/
def finishOk (i : Nat) (s : State) : State := finish i 0 0 0 0 s

/-- Earlier descriptors of the same ring have gone as far as the fences ask (R57); PREEMPT and RESUME honour only their
own fence flags (R58). -/
def fencesOk (s : State) (d : Desc) : Bool :=
  let earlier := s.hif.inflight.filter fun e => e.fn = d.fn && e.ring = d.ring && e.id < d.id
  (!d.fenceBefore || earlier.isEmpty) &&
    (d.opcode = 0x06 || d.opcode = 0x07 || earlier.all fun e => !e.fenceAfter)

/-- Dispatch from a submission ring has stopped (R53). -/
def stalled (s : State) (fn ring : Nat) : Bool := 64 ≤ (getRing s fn (ring + 4)).held.length

/-- Descriptors of one context slot run in order of fetch; PREEMPT, RESUME and CTX_DESTROY do not wait (R55, R58, R115).
Partition-level ones start in order within their ring (R56). -/
def orderOk (s : State) (d : Desc) : Bool :=
  if d.opcode = 0x06 || d.opcode = 0x07 || d.opcode = 0x13 then true
  else match d.ctx? with
    | some k => !(s.hif.inflight.any fun e =>
        e.id < d.id && e.part = d.part && e.ctx? = some k && e.opcode ≠ 0x06 && e.opcode ≠ 0x07)
    | none => !(s.hif.inflight.any fun e =>
        e.id < d.id && e.fn = d.fn && e.ring = d.ring && e.ctx? = none && e.st = .waiting)

/-- Descriptor `d` may start now. -/
def mayStart (s : State) (d : Desc) : Bool :=
  d.st = .waiting && fencesOk s d && orderOk s d && !stalled s d.fn d.ring

/-- Refused descriptors complete once their fences allow (R57, R61); `n` bounds how many. -/
def flushRefused : (n : Nat) → State → State
  | 0, s => s
  | n + 1, s =>
    match s.hif.inflight.find? (fun d => (match d.st with | .refused _ _ _ => true | _ => false) && fencesOk s d) with
    | none => s
    | some d =>
      match d.st with
      | .refused st de info => flushRefused n (finish d.id st de info 0 s)
      | _ => s

/-- Every refused descriptor that may complete has completed. -/
def settleHif (s : State) : State := flushRefused s.hif.inflight.length s

/-! ## Rings -/

/-- A doorbell that is discarded (R49): counted, and flagged where the link stands. -/
def dropBell (fn : Nat) (s : State) : State := modFn fn (fun f => { f with dbDiscarded := satAdd 32 f.dbDiscarded 1 }) s

/-- A doorbell arrives (R49, R81): its value is taken, or it is discarded and flagged. -/
def doorbell (fn ring val : Nat) (take : State → State) (s : State) : State :=
  if !fnPresent s fn then dropBell fn s
  else if (getRing s fn ring).st ≠ .active then
    eventFor fn (fnHub s fn) 0x0202 [.id1 fn, .id1 ring, .val4 val] (fnErr fn 1 ring (dropBell fn s))
  else if ringSize s fn ring ≤ val then
    eventFor fn (fnHub s fn) 0x0201 [.id1 fn, .id1 ring, .val4 val] (fnErr fn 0 ring (dropBell fn s))
  else take s

/-- What a read of ring `ring`'s doorbell returns: the device's copy of its tail or head (R49). -/
def bellRead (s : State) (fn ring : Nat) : Nat := (getRing s fn ring).bell

/-- The Pending Bit Array of a function (R46, R74). -/
def pendingArray (s : State) (fn : Nat) : Nat := ofBits (getFn s fn).pendingBits

/-- Rings the function has (Table 2.4). -/
def hasRing (fn ring : Nat) : Bool := ring < 8 && (fn ≠ 0 || ring < 2 || ring = 4 || ring = 5)

def doSqDoorbell (t fn ring val : Nat) (s : State) : State :=
  let s := advance t s
  if fn ≤ 32 && ring < 4 && hasRing fn ring then
    doorbell fn ring val (modRing fn ring fun x => { x with bell := val }) s
  else s

/-- SQ_DOORBELL (R49): the new tail. -/
def execSqDoorbell (t fn ring val : Nat) (s : State) : Host.Outcome State Fault Refusal :=
  .next (doSqDoorbell t fn ring val s)

/-- Release the slots up to a head doorbell's value and write what is held (R49, R53). -/
def releaseTo (fn ring val : Nat) (s : State) : State :=
  let x := getRing s fn ring
  let n := ringSize s fn ring
  let s := modRing fn ring (fun y => { y with bell := val, fill := y.fill - (val + n - x.bell) % n }) s
  drainHeld fn ring x.held.length s

def doCqDoorbell (t fn ring val : Nat) (s : State) : State :=
  let s := advance t s
  if fn ≤ 32 && 4 ≤ ring && hasRing fn ring then doorbell fn ring val (releaseTo fn ring val) s else s

/-- CQ_DOORBELL (R49, R53): slots released; held completions are written in finishing order. -/
def execCqDoorbell (t fn ring val : Nat) (s : State) : Host.Outcome State Fault Refusal :=
  .next (doCqDoorbell t fn ring val s)

/-- desc_ver_mask of GLB_ARCH accepts version 1 only (R71, R72). -/
def verOk (v : Nat) : Bool := v = 1

/-- A ring enters ERROR: vector 0 tells of it (R73). -/
def ringError (fn ring : Nat) (e : RingErr) (s : State) : State :=
  sendMsix fn 0 (modRing fn ring (fun x => { x with st := .error, err := e }) s)

/-- Enabling a ring in OFF: the set-up checks, then the version (R48, R71). -/
def enableRing (fn ring : Nat) (s : State) : State :=
  let size := fld s (winReg fn (0x108 + 0x20 * ring)) 0 5
  let ver := fld s (winReg fn (0x108 + 0x20 * ring)) 8 4
  let s := fldSet (winReg fn (0x108 + 0x20 * ring)) 16 1 1 s
  if ringBase s fn ring % 4096 ≠ 0 ∨ size < 6 ∨ 16 < size ∨ (ring < 4 ∧ (getRing s fn (ring + 4)).st ≠ .active) then
    ringError fn ring .setup s
  else if ring < 4 then
    if verOk ver then
      let s := modRing fn (ring + 4) (fun x => { x with verEff := ver }) s
      modRing fn ring (fun _ => { st := .active, verEff := ver }) s
    else ringError fn ring .version s
  else modRing fn ring (fun _ => { st := .active, verEff := (getRing s fn (ring - 4)).verEff }) s

def doRingEnable (t fn ring : Nat) (s : State) : State :=
  let s := advance t s
  if fn ≤ 32 && hasRing fn ring && fnPresent s fn && (getRing s fn ring).st = .off then enableRing fn ring s else s

/-- RING_ENABLE (R48, R71). -/
def execRingEnable (t fn ring : Nat) (s : State) : Host.Outcome State Fault Refusal := .next (doRingEnable t fn ring s)

/-- Writing enable = 0 (R525, HIF_RING_CFG.enable, HIF_RING_STATE.err). -/
def disableRing (fn ring : Nat) (s : State) : State :=
  let cfg := winReg fn (0x108 + 0x20 * ring)
  if ring < 4 then
    match (getRing s fn ring).st with
    | .active => modRing fn ring (fun x => { x with st := .draining }) (fldSet cfg 16 1 0 s)
    | .error => modRing fn ring (fun x => { x with st := if x.err = .fetch then .draining else .off, err := .none })
        (fldSet cfg 16 1 0 s)
    | _ => s
  else if (getRing s fn (ring - 4)).st = .off then
    modRing fn ring (fun x => { x with st := .off, err := .none }) (fldSet cfg 16 1 0 s)
  else s

def doRingDisable (t fn ring : Nat) (s : State) : State :=
  let s := advance t s
  if fn ≤ 32 && hasRing fn ring && fnPresent s fn then disableRing fn ring s else s

/-- RING_DISABLE (R525): DRAINING, or OFF for a completion ring whose submission ring is OFF. -/
def execRingDisable (t fn ring : Nat) (s : State) : Host.Outcome State Fault Refusal :=
  .next (doRingDisable t fn ring s)

/-- Nothing fetched from a submission ring is still to complete or to be written (R525). -/
def ringDrained (s : State) (fn ring : Nat) : Bool :=
  (s.hif.inflight.all fun d => !(d.fn = fn && d.ring = ring && !d.lost)) && (getRing s fn (ring + 4)).held.isEmpty

def doRingDrainDone (t fn ring : Nat) (s : State) : State :=
  let s := advance t s
  if ring < 4 && (getRing s fn ring).st = .draining && ringDrained s fn ring then
    modRing fn ring (fun x => { x with st := .off }) s
  else s

/-- RING_DRAIN_DONE (R525). -/
def execRingDrainDone (t fn ring : Nat) (s : State) : Host.Outcome State Fault Refusal :=
  .next (doRingDrainDone t fn ring s)

def doRingFetchError (t fn ring addr : Nat) (s : State) : State :=
  let s := advance t s
  if ring < 4 && (getRing s fn ring).st = .active then
    let s := fnErr fn 2 ring s
    let s := ringError fn ring .fetch s
    let s := eventFor fn (fnHub s fn) 0x0204 [.id1 fn, .id1 ring, .loc8 addr] s
    send (.aer (fnLink s fn)) s
  else s

/-- RING_FETCH_ERROR (R81, Table 2.12): the ring goes to ERROR with err FETCH; the error is reported through AER. -/
def execRingFetchError (t fn ring addr : Nat) (s : State) : Host.Outcome State Fault Refusal :=
  .next (doRingFetchError t fn ring addr s)

def doCoalesceTimeout (t fn ring : Nat) (s : State) : State :=
  let s := advance t s
  let x := getRing s fn ring
  if 4 ≤ ring && ring < 8 && 0 < x.count && x.oldest + (irqThr s fn ring).2 * 4000 ≤ s.clk then signalRing fn ring s
  else s

/-- COALESCE_TIMEOUT (R74). -/
def execCoalesceTimeout (t fn ring : Nat) (s : State) : Host.Outcome State Fault Refusal :=
  .next (doCoalesceTimeout t fn ring s)

/-- Vectors of the MSI-X table of a function (Table 2.3). -/
def vectors (fn : Nat) : Nat := if fn = 0 then 64 else 62

def doMsixUnmask (t fn vec : Nat) (s : State) : State :=
  let s := advance t s
  if fn ≤ 32 && vec < vectors fn then
    let due := (getFn s fn).pendingBits.elem vec
    let s := modFn fn (fun f =>
      { f with unmasked := if f.unmasked.elem vec then f.unmasked else f.unmasked ++ [vec],
               pendingBits := f.pendingBits.filter (· ≠ vec) }) s
    if due then sendMsix fn vec s else s
  else s

/-- MSIX_UNMASK (R74): a pending vector is sent when unmasked. -/
def execMsixUnmask (t fn vec : Nat) (s : State) : Host.Outcome State Fault Refusal := .next (doMsixUnmask t fn vec s)

/-! ## PCIe links (R80) -/

/-- Functions on a link. -/
def fnsOn (s : State) (n : Nat) : List Nat := (if s.fuse.mpfLink = n then [0] else []) ++ mappedTo s n

def doPcieLinkDown (t link : Nat) (s : State) : State :=
  let s := advance t s
  if link < 4 && (getPLink s link).up then
    let s := modPLink link (fun l => { l with up := false, speed := 0, width := 0, flit := false, l0p := false, ide := false }) s
    let s := (fnsOn s link).foldl (fun s fn => fnErr fn 5 0 s) s
    event (linkHub link) 0x0205 [.id1 link] s
  else s

/-- PCIE_LINK_DOWN (R80): fetching stops for the link's functions, link_down is set in each, event 0x0205. -/
def execPcieLinkDown (t link : Nat) (s : State) : Host.Outcome State Fault Refusal := .next (doPcieLinkDown t link s)

/-- Every ring of a function is OFF; held completions are discarded with it (R78, R80). -/
def ringsOff (fn : Nat) (s : State) : State :=
  let s := (List.range 8).foldl (fun s r => fldSet (winReg fn (0x108 + 0x20 * r)) 16 1 0 s) s
  modFn fn (fun f => { f with rings := [] }) s

/-- A function's link is back: its rings are OFF, and what was held or fetched for them is discarded (R80, R525). -/
def ringsLost (fn : Nat) (s : State) : State :=
  let s := countLost fn ((List.range 8).foldl (fun n r => n + (getRing s fn r).held.length) 0) s
  ringsOff fn (setInflight (s.hif.inflight.map fun d => if d.fn = fn then { d with lost := true } else d) s)

def doPcieLinkReturn (t link speed width : Nat) (flit : Bool) (s : State) : State :=
  let s := advance t s
  if link < 4 && linkExists s link && !(getPLink s link).up && !(getHub s (linkHub link)).inReset &&
      !tabGet dBool s.pwr.perst (linkHub link) then
    let s := modPLink link (fun l => { l with up := true, speed := speed % 8, width := width % 16, flit }) s
    (fnsOn s link).foldl (fun s fn => ringsLost fn s) s
  else s

/-- PCIE_LINK_RETURN (R80): the link is up again and every ring of its functions is OFF. -/
def execPcieLinkReturn (t link speed width : Nat) (flit : Bool) (s : State) : Host.Outcome State Fault Refusal :=
  .next (doPcieLinkReturn t link speed width flit s)

/-- UNSUPPORTED_REQUEST (R41): completes with Unsupported Request, and has no effect. -/
def execUnsupportedRequest (t link : Nat) (posted : Bool) (s : State) : Host.Outcome State Fault Refusal :=
  .next (if posted then advance t s else send (.unsupported link) (advance t s))

end Sys2Proof.Machine
end

