-- ==== Sys2Proof/Machine/Memory.lean ====
section
/-!
DEFINITION. Memory.lean: partition addresses (R88, R89), DRAM lines and their errors (R341, R342), policy regions
(R442), and the copy of mirrored writes for the partner (R386). Every access to partition memory goes through
`readPart` and `writePart`.
-/
namespace Sys2Proof.Machine

/-- Bytes of a granule (R83). -/
def granuleBytes : Nat := 2 ^ 21

/-- Bytes of a partition's address space (R88). -/
def partSpace : Nat := 2 ^ 38

/-- Why an access fails: outside the partition or its rights, at the first address refused (R88); a line that is
uncorrectable or fails its MAC, behind a hub (Table 12.2). -/
inductive MemErr where
  | violation (addr : Nat)
  | uncorrectable (hub : Nat)
  | mac (hub : Nat)
  deriving DecidableEq, Repr

/-- The granule that partition granule `g` of partition `p` maps to. -/
def granAt (s : State) (p g : Nat) : Option Granule := tabGet (fun _ => none) (getPart s p).gmap g

/-- The hub behind which a DRAM address lies (Table 1.9). -/
def devHub (dev : Nat) : Nat := if dev < 2 ^ 36 then 0 else 1

/-- The pieces of a partition range, granule by granule: start and length. -/
def pieces (a n : Nat) : List (Nat × Nat) :=
  if n = 0 then []
  else (List.range ((a + n - 1) / granuleBytes - a / granuleBytes + 1)).map fun i =>
    let g := a / granuleBytes + i
    let lo := max a (granuleBytes * g)
    (lo, min (a + n) (granuleBytes * (g + 1)) - lo)

/-- The right a granule gives. -/
def Granule.allows (x : Granule) (wr : Bool) : Bool := if wr then x.write else x.read

/-- First partition address of a range that is unmapped or lacks the right (R88). -/
def refusedAt (s : State) (p a n : Nat) (wr : Bool) : Option Nat :=
  ((pieces a n).find? fun x =>
    match granAt s p (x.1 / granuleBytes) with
    | none => true
    | some g => !g.allows wr).map (·.1)

/-- The whole range is mapped, with both rights where `both`. -/
def mapped (s : State) (p a n : Nat) (both : Bool) : Bool :=
  (pieces a n).all fun x =>
    match granAt s p (x.1 / granuleBytes) with
    | none => false
    | some g => !both || (g.read && g.write)

/-- Device address of a mapped partition address. -/
def devOf (s : State) (p a : Nat) : Nat :=
  match granAt s p (a / granuleBytes) with
  | none => 0
  | some g => granuleBytes * g.dev + a % granuleBytes

/-! ## Lines (R340 to R343) -/

def dLine (_ : Nat) : Nat := 0

/-- Installed bytes behind a hub. -/
def installed (s : State) (h : Nat) : Nat := 2 ^ 30 * (getDrc s h).gib

/-- The address eighth of a device address (R337). -/
def eighthOf (s : State) (dev : Nat) : Nat := dev % 2 ^ 36 * 8 / max 1 (installed s (devHub dev))

/-- State of the line at a device address: 0 sound, 1 uncorrectable, 2 failing its MAC. A dropped eighth reads as
poisoned until written (R359), and everything does while the hub's memory is held (R361). -/
def lineState (s : State) (line : Nat) : Nat :=
  let d := getDrc s (devHub (line * 64))
  if d.held then 1
  else match tabGet dLine s.lines line with
    | 1 => 1
    | 2 => 2
    | 3 => 0
    | _ => if d.dropped.elem (eighthOf s (line * 64)) then 1 else 0

/-- First line of a device range that cannot be read, with its state. Lines not listed are sound unless their eighth was
dropped or the hub is held. -/
def badLine (s : State) (dev n : Nat) : Option (Nat × Nat) :=
  if n = 0 then none
  else
    let l0 := dev / 64
    let cnt := (dev + n - 1) / 64 - l0 + 1
    let d := getDrc s (devHub dev)
    let cands := if d.held || !d.dropped.isEmpty then (List.range cnt).map (l0 + ·)
      else (tabSlice s.lines l0 cnt).map (·.1)
    (cands.find? fun l => lineState s l ≠ 0).map fun l => (l, lineState s l)

/-- Channel of an address in the hub window (R337). -/
def channelOf (a : Nat) : Nat := bits a 8 4 ^^^ bits a 12 4 ^^^ bits a 16 4 ^^^ bits a 20 4

/-- Owner of a device granule: 0 the hub, or a partition (R339). -/
def ownerOf (s : State) (dev : Nat) : Nat :=
  match s.prt.parts.find? (fun x => x.2.gmap.any fun e =>
    match e.2 with | some g => g.dev = dev / granuleBytes | none => false) with
  | some x => x.1
  | none => 0

/-- Number by which a requester is reported: partition·256 + slot, or 0x10000 + class of the hub requester
(log entry 12). -/
def reqCode : Requester → Nat
  | .ctx p slot => p * 256 + slot
  | .hub c => 0x10000 + c

/-- Base of DRC's registers on a hub. -/
def drcBase (h : Nat) : Nat := (Blk.drc h).base

/-- Set a sticky error of DRC with the channel of the first error (DRC_ERR). -/
def drcErr (h b ch : Nat) (s : State) : State := stick (drcBase h + 8) b 6 (some (8, 4, ch)) s

/-- Copy the channel state into the diagnosis store unless it holds a capture (R360). -/
def capture (h cause : Nat) (s : State) : State :=
  if fld s (drcBase h + 0x60) 3 1 = 1 then s
  else
    let s := modDrc h (fun d => { d with store := some { time := s.clk, log := d.log, banks := d.banks, chans := d.chans } }) s
    event h 0x0607 [.id1 h, .code1 cause] (fldSet (drcBase h + 0x60) 3 1 1 s)

/-- A read that fails its checks: counted, logged, reported and, where uncorrectable, poisoned (R341, R360). -/
def failedRead (line : Nat) (isMac : Bool) (who : Requester) (s : State) : State :=
  let dev := line * 64
  let h := devHub dev
  let owner := ownerOf s dev
  let ep := tabGet dNat (getDrc s h).epochs owner
  let ch := channelOf (dev % 2 ^ 36)
  let fresh := fld s (drcBase h + 8) 1 2 = 0
  let held := (getDrc s h).held
  let ent : ErrEnt := { time := hubTime s h, addr := dev, owner, epoch := ep, kind := if isMac then 2 else 1, who }
  let s := modDrc h (fun d =>
    { d with ue := if isMac then d.ue else satAdd 16 d.ue 1, macf := if isMac then satAdd 16 d.macf 1 else d.macf,
             firstBad := if fresh then some (dev, owner, b2n isMac) else d.firstBad,
             log := (d.log ++ [ent]).drop (d.log.length + 1 - 16) }) s
  let s := if isMac || held then s else { s with lines := tabSet dLine s.lines line 1 }
  let s := drcErr h (if isMac then 2 else 1) ch s
  let s := if isMac then eventFor (if owner ≤ 32 then owner else 0) h 0x0603 [.id1 h, .loc8 dev, .id1 owner, .val4 ep] s
    else eventFor (if owner ≤ 32 then owner else 0) h 0x0602 [.id1 h, .loc8 dev, .id1 owner, .val4 (reqCode who)] s
  if fld s (drcBase h + 0x60) 2 1 = 1 then capture h 1 s else s

/-- Check the lines of a device range for reading. -/
def checkLines (dev n : Nat) (who : Requester) (s : State) : Option MemErr × State :=
  match badLine s dev n with
  | none => (none, s)
  | some (l, 2) => (some (.mac (devHub dev)), failedRead l true who s)
  | some (l, _) => (some (.uncorrectable (devHub dev)), failedRead l false who s)

/-- Bytes of DRAM by device address. -/
def readDev (s : State) (dev n : Nat) : List Byte := getBytes s.dram dev n

/-- Lines wholly inside a device range are sound again once written; in a dropped eighth they are marked as written
(R342, R359). -/
def healLines (dev n : Nat) (s : State) : State :=
  let l0 := (dev + 63) / 64
  let cnt := (dev + n) / 64 - l0
  let d := getDrc s (devHub dev)
  let t := tabErase s.lines l0 cnt
  let t := if d.dropped.isEmpty then t
    else ((List.range cnt).map (l0 + ·)).foldl
      (fun t l => if d.dropped.elem (eighthOf s (l * 64)) then tabSet dLine t l 3 else t) t
  { s with lines := t }

/-- Store bytes at a device address: whole lines always, a line covered in part only where it can be read (R342). -/
def writeDev (dev : Nat) (bs : List Byte) (who : Requester) (s : State) : Option MemErr × State :=
  let n := bs.length
  if n = 0 then (none, s)
  else if (getDrc s (devHub dev)).held then (some (.uncorrectable (devHub dev)), failedRead (dev / 64) false who s)
  else
    let firstPart := dev % 64 ≠ 0 || n < 64
    let lastPart := (dev + n) % 64 ≠ 0
    let lead := if firstPart then min n (64 - dev % 64) else 0
    let tail := if lastPart && (dev + n) / 64 ≠ dev / 64 then (dev + n) % 64 else 0
    let (e1, s) := if firstPart then checkLines dev lead who s else (none, s)
    let (e2, s) := if 0 < tail then checkLines (dev + n - tail) tail who s else (none, s)
    let lo := if e1.isSome then lead else 0
    let hi := if e2.isSome then n - tail else n
    let s := { s with dram := putBytes s.dram (dev + lo) ((bs.take hi).drop lo) }
    (e1.or e2, healLines dev n s)

/-! ## Mirrored writes (R386) -/

/-- Base of a partner port's registers. -/
def ptnBase (h : Nat) : Nat := (Blk.ptn h).base

/-- Send queue limit in bytes (PTN_LAG). -/
def lagLimit (s : State) (h : Nat) : Nat :=
  let o := ptnBase h + 0xC
  if fld s (ptnBase h + 8) 0 1 = 1 then (max 64 (min 4096 (eff s o 16 13))) * 1024
  else match eff s o 0 2 with
    | 1 => 256 * 1024
    | 2 => 4096 * 1024
    | _ => 1024 * 1024

/-- Bytes of the data in a send queue. -/
def queueBytes (q : List PtnItem) : Nat :=
  q.foldl (fun a i => match i with | .write _ _ b => a + b.length | .sem _ _ _ _ => a + 16) 0

/-- A partition granule lies in a range of this port that is in-sync. -/
def inSync (s : State) (h p g : Nat) : Bool :=
  (getPtn s h).ranges.any fun e => e.2.st = 2 && e.2.part = p && e.2.gran ≤ g && g < e.2.gran + e.2.granules

/-- Put an item into a hub's send queue; at its limit the wait begins and is reported (R386, event 0x0E03). -/
def enqueue (h p : Nat) (it : PtnItem) (s : State) : State :=
  let s := if (getPtn s h).queue.isEmpty then commit (ptnBase h + 0xC) s else s
  let s := modPtn h (fun x => { x with queue := x.queue ++ [it] }) s
  if lagLimit s h ≤ queueBytes (getPtn s h).queue && (getPtn s h).fullSince.isNone then
    eventFor p h 0x0E03 [.id1 h, .id1 p] (stick (ptnBase h + 0x10) 2 3 none (modPtn h (fun x => { x with fullSince := some s.clk }) s))
  else s

/-- A write accepted for partition `p` is copied to the partner where its range is in-sync (R386). -/
def mirrorWrite (p a : Nat) (bs : List Byte) (s : State) : State :=
  if s.ptn.isEmpty then s
  else (pieces a bs.length).foldl (fun s x =>
    let h := devHub (devOf s p x.1)
    if inSync s h p (x.1 / granuleBytes) then enqueue h p (.write p x.1 ((bs.drop (x.1 - a)).take x.2)) s else s) s

/-- A semaphore operation of a partition with an in-sync range is sent behind the writes where PTN_MIRROR_SEM of the
port names the semaphore: `count` from `first`, at most 64 (R386). -/
def mirrorSem (p sem : Nat) (set : Bool) (operand : Nat) (s : State) : State :=
  [0, 1].foldl (fun s h =>
    let first := fld s (ptnBase h + 0x18) 0 10
    let count := min 64 (fld s (ptnBase h + 0x18) 16 10)
    if first ≤ sem && sem < first + count && (getPtn s h).ranges.any (fun e => e.2.st = 2 && e.2.part = p) then
      enqueue h p (.sem p sem set operand) s
    else s) s

/-! ## Partition memory -/

/-- Read `n` bytes at a partition address: rights first, then the lines in order (R88, R341). -/
def readPart (p a n : Nat) (who : Requester) (s : State) : Except MemErr (List Byte) × State :=
  match refusedAt s p a n false with
  | some x => (.error (.violation x), s)
  | none =>
    (pieces a n).foldl (fun (acc : Except MemErr (List Byte) × State) x =>
      match acc.1 with
      | .error _ => acc
      | .ok bs =>
        let dev := devOf acc.2 p x.1
        match checkLines dev x.2 who acc.2 with
        | (some e, s) => (.error e, s)
        | (none, s) => (.ok (bs ++ readDev s dev x.2), s)) (.ok [], s)

/-- Write bytes at a partition address: rights first, then every line; the first failure is reported (R88, R342). -/
def writePart (p a : Nat) (bs : List Byte) (who : Requester) (s : State) : Option MemErr × State :=
  match refusedAt s p a bs.length true with
  | some x => (some (.violation x), s)
  | none =>
    let (e, s) := (pieces a bs.length).foldl (fun (acc : Option MemErr × State) x =>
      let (e, s) := writeDev (devOf acc.2 p x.1) ((bs.drop (x.1 - a)).take x.2) who acc.2
      (acc.1.or e, s)) (none, s)
    (e, mirrorWrite p a bs s)

/-- Modes whose region a context or a host descriptor may not write once the policy stands (Table 15.7, R442). -/
def Region.readOnly (r : Region) : Bool := r.mode = 0 || r.mode = 1 || r.mode = 5

/-- The range overlaps the region. -/
def Region.meets (r : Region) (a n : Nat) : Bool := a < r.addr + r.len && r.addr < a + n

/-- First address of a range inside a read-only policy region (R442). -/
def policyStop (s : State) (p a n : Nat) : Option Nat :=
  match (getPart s p).sec.policy with
  | none => none
  | some pol => (pol.regions.find? fun r => r.readOnly && r.meets a n).map fun r => max a r.addr

/-- A context's write: a write into a read-only policy region is an access violation (R442). -/
def writeCtx (p slot a : Nat) (bs : List Byte) (s : State) : Option MemErr × State :=
  match policyStop s p a bs.length with
  | some x => (some (.violation x), s)
  | none => writePart p a bs (.ctx p slot) s

/-- The bytes a partition holds at an address, where it is mapped; zeros elsewhere. -/
def peek (s : State) (p a n : Nat) : List Byte := (pieces a n).flatMap fun x =>
  match granAt s p (x.1 / granuleBytes) with
  | none => zeros x.2
  | some _ => readDev s (devOf s p x.1) x.2

/-- Fill a device granule with zeros under fresh metadata (R89, R345). -/
def zeroGranule (g : Nat) (s : State) : State :=
  { s with dram := tabErase s.dram (granuleBytes * g) granuleBytes,
           lines := let t := tabErase s.lines (32768 * g) 32768
             let d := getDrc s (devHub (granuleBytes * g))
             if d.dropped.elem (eighthOf s (granuleBytes * g)) then
               ((List.range 32768).map (32768 * g + ·)).foldl (fun t l => tabSet dLine t l 3) t
             else t }

end Sys2Proof.Machine
end

