-- ==== Sys2Proof/Machine/Record.lean ====
section
/-!
DEFINITION. Record.lean: the digests of a run (R448) and the recording of LAUNCHes (R459 to R461).
-/
namespace Sys2Proof.Machine

/-! ## Digests (R448) -/

/-- Regions of the installed policy with one of the modes, in entry order. -/
def regionsOf (s : State) (p : Nat) (modes : List Nat) : List Region :=
  match (getPart s p).sec.policy with
  | none => []
  | some pol => pol.regions.filter fun r => modes.elem r.mode

/-- prog_digest: the program region's, or that of the program as it stands. -/
def progDigest (s : State) (p prog : Nat) : List Byte :=
  match (regionsOf s p [0]).head? with
  | some r => r.digest
  | none => sha3 (peek s p prog (64 + 16 * leAt (peek s p (prog + 8) 4) 0 4))

/-- weights_digest, as verified or computed at import. -/
def weightsDigest (s : State) (p : Nat) : List Byte := sha3 ((regionsOf s p [1, 5]).flatMap (·.digest))

/-- input_digest, read at dispatch. -/
def inputDigest (s : State) (p seed : Nat) (args : List Byte) : List Byte :=
  sha3 (toBytes 8 seed ++ args ++ (regionsOf s p [2]).flatMap fun r => peek s p r.addr r.len)

/-- output_digest, read after every core has halted. -/
def outputDigest (s : State) (p result : Nat) : List Byte :=
  sha3 (((regionsOf s p [3, 4]).flatMap fun r => peek s p r.addr r.len) ++
    if result = 0 then [] else peek s p result 64)

/-! ## Recording (R459 to R461) -/

/-- PRT, SEC and the recorder write partition memory through DRC; what cannot be written is dropped. -/
def poke (p a : Nat) (bs : List Byte) (s : State) : State := (writePart p a bs (.hub 1) s).2

/-- A region of a record header: address, length, kind (Table 16.1). -/
def recRegion (hdr : List Byte) (i : Nat) : Nat × Nat × Nat :=
  (leAt hdr (64 + 16 * i) 8, leAt hdr (72 + 16 * i) 4, leAt hdr (76 + 16 * i) 1)

/-- Regions of a kind, in region order: 0 snapshot, 1 check, 2 output. -/
def recRegions (hdr : List Byte) (kind : Nat) : List (Nat × Nat) :=
  ((List.range (min 16 (leAt hdr 12 1))).map (recRegion hdr)).filterMap fun x =>
    if x.2.2 = kind then some (x.1, x.2.1) else none

/-- Rounded up to a multiple of 64. -/
def up64 (n : Nat) : Nat := (n + 63) / 64 * 64

/-- Where the checks, the args and the snapshots of an entry lie, and its length (Table 16.2). -/
def entryArgsOff (nChecks : Nat) : Nat := up64 (192 + 32 * nChecks)

/-- Length of an entry (R460). -/
def entryLen (hdr : List Byte) (argsLen : Nat) : Nat :=
  entryArgsOff (recRegions hdr 1).length + up64 argsLen + ((recRegions hdr 0).map fun r => up64 r.2).sum

/-- At the dispatch of a recorded LAUNCH: the entry's dispatch fields, or one more dropped (R460). -/
def recDispatch (p slot : Nat) (raw : DescWord) (prog : List Byte) (args : List Byte) (argsLen : Nat) (s : State) :
    State × Option (Nat × Nat) :=
  match (getCtx s p slot).recording with
  | none => (s, none)
  | some (buf, len, entries, dropped, used) =>
    let hdr := peek s p buf 512
    let n := entryLen hdr argsLen
    if len < used + n then
      let s := modCtx p slot (fun c => { c with recording := some (buf, len, entries, min (dropped + 1) 0xFFFFFFFF, used) }) s
      (poke p (buf + 20) (toBytes 4 (min (dropped + 1) 0xFFFFFFFF)) s, none)
    else
      let checks := (recRegions hdr 1).map fun r => sha3 (peek s p r.1 r.2)
      let snaps := (recRegions hdr 0).flatMap fun r => fit (up64 r.2) (peek s p r.1 r.2)
      let head := toBytes 4 n ++ toBytes 4 entries ++ toBytes 8 (hubTime s 0) ++ toBytes 64 raw.toNat ++ prog ++
        zeros 64 ++ [0xFF#8, 0] ++ toBytes 2 0 ++ toBytes 4 argsLen ++ zeros 8
      let body := fit (entryArgsOff checks.length) (head ++ checks.flatten) ++ fit (up64 argsLen) args ++ snaps
      (poke p (buf + used) body s, some (used, n))

/-- After every core has halted, or at a teardown: out_digest and status, then used and entries advance (R460). -/
def recFinish (p slot status : Nat) (outDigest : List Byte) (s : State) : State :=
  let c := getCtx s p slot
  match c.recording, c.launch with
  | some (buf, len, entries, dropped, used), some l =>
    match l.recOff with
    | some (off, n) =>
      let s := poke p (buf + off + 112) outDigest s
      let s := poke p (buf + off + 178) (toBytes 2 status) s
      let s := poke p (buf + 16) (toBytes 4 (entries + 1) ++ toBytes 4 dropped ++ toBytes 8 (used + n)) s
      modCtx p slot (fun c => { c with recording := some (buf, len, entries + 1, dropped, used + n) }) s
    | none => s
  | _, _ => s

/-- out_digest of the recording's output regions (Table 16.2). -/
def recOutDigest (s : State) (p buf result : Nat) : List Byte :=
  sha3 (((recRegions (peek s p buf 512) 2).flatMap fun r => peek s p r.1 r.2) ++
    if result = 0 then [] else peek s p result 64)

/-- An active recording ends with a state and t_stop: 2 complete, 3 aborted (R461). -/
def recStop (p slot st : Nat) (s : State) : State :=
  match (getCtx s p slot).recording with
  | none => s
  | some (buf, _, _, _, _) =>
    let s := poke p (buf + 7) (toBytes 1 st) s
    let s := poke p (buf + 40) (toBytes 8 (hubTime s 0)) s
    modCtx p slot (fun c => { c with recording := none }) s

/-! ## Digest records (R70) -/

/-- The digest record of the run in progress, signed where slot 7 holds a seed (Table 2.10, R449). -/
def digestRecord (s : State) (p slot : Nat) (l : Launch) : List Byte :=
  let sec := (getPart s p).sec
  let seed := tabGet (fun _ => []) sec.slots 7
  let signed := !seed.isEmpty
  let tov := if l.resultAddr = 0 then 0 else leAt (peek s p l.resultAddr 8) 0 8
  let head := toBytes 2 1 ++ toBytes 2 (if signed then 2624 else 192) ++
    toBytes 1 (b2n signed + 2 * b2n (getPart s p).confidential) ++ toBytes 1 p ++ toBytes 1 slot ++ [0] ++
    toBytes 2 l.tag ++ zeros 6 ++ toBytes 8 tov ++ toBytes 8 (hubTime s (fnHub s p)) ++ l.progDigest ++
    l.weightsDigest ++ l.inputDigest ++ outputDigest s p l.resultAddr
  let full := head ++ sha3 head
  if signed then fit 2624 (full ++ fit 2420 (Config.dsaSign seed full)) else full

/-- With digest set, the record goes to digest_addr before the completion entry (R59, R70); a swatch's goes to its island
(R420). -/
def writeDigest (p slot : Nat) (l : Launch) (s : State) : State :=
  if bit l.flags 3 && l.swatch.isNone && (getPLink s (fnLink s p)).up then hostWrite l.digestAddr (digestRecord s p slot l) s else s

end Sys2Proof.Machine
end

