-- ==== Sys2Proof/Machine/Prt.lean ====
section
/-!
DEFINITION. Prt.lean: the partition manager (spec/03): placement and the scheduler of R93, dispatch, heel-in and
replant starts, semaphores and mutexes, teardown. The state area of a core block and the end of a heel-in are in
Heel.lean.
-/
namespace Sys2Proof.Machine

/-! ## Small things -/

/-- Insert into a list kept in order of `lt`; equal elements stay in order of arrival. -/
def insBy {α : Type} (lt : α → α → Bool) (x : α) : List α → List α
  | [] => [x]
  | y :: r => if lt x y then x :: y :: r else y :: insBy lt x r

/-- Insertion sort, stable. -/
def isort {α : Type} (lt : α → α → Bool) (l : List α) : List α := l.foldl (fun a x => insBy lt x a) []

/-- Lexicographic order of two pairs of numbers. -/
def lt2 (a b : Nat × Nat) : Bool := a.1 < b.1 || (a.1 = b.1 && a.2 < b.2)

/-- Code of a context state (Table 3.2). -/
def CtxSt.code : CtxSt → Nat
  | .free => 0 | .idle => 1 | .ready => 2 | .running => 3 | .blocked => 4 | .heeling => 5 | .heeled => 6
  | .replanting => 7 | .held => 8 | .faulted => 9 | .destroying => 10

/-- Code of a heel-in cause (Table 3.4). -/
def HeelCause.code : HeelCause → Nat
  | .priority => 0 | .quantum => 1 | .blockedDemand => 2 | .preempt => 3 | .inheritance => 4 | .coreMove => 5

/-- Effective priority: own or inherited, whichever is higher; 0 is highest (R93). -/
def Ctx.eff (c : Ctx) : Nat := match c.inherited with | some q => min q c.prio | none => c.prio

/-- The context holds cores. -/
def Ctx.resident (c : Ctx) : Bool := c.st = .running || c.st = .blocked

/-- Partition `p`'s scheduler is to run (R93). -/
def wake (p : Nat) (s : State) : State :=
  { s with prt := { s.prt with resched := if s.prt.resched.elem p then s.prt.resched else s.prt.resched ++ [p] } }

/-- One change of PRT's tables is on its way to HS (R117). -/
def changed (s : State) : State := { s with prt := { s.prt with changes := s.prt.changes + 1 } }

/-- The slots of a partition. -/
def slots : List Nat := List.range 16

/-- Set sticky error `b` of PRT_ERR. -/
def prtErr (b p : Nat) (s : State) : State := stick 0x200010 b 3 (some (8, 8, p)) s

/-! ## Cores -/

/-- The core can take a context: powered, free and not the spare (R24, R83). -/
def coreFree (s : State) (g : Nat) : Bool :=
  (getCore s g).role = .free && (getDie s (g / 32)).spare ≠ some (g % 32)

/-- Cores of a die that a partition may hold or holds: the spare and the core under test are not among them (R83). -/
def allocatable (s : State) (d : Nat) : Nat :=
  ((List.range 32).filter fun c =>
    let k := getCore s (32 * d + c)
    (k.role = .free || k.role = .placed || k.role = .moving) && (getDie s d).spare ≠ some c).length

/-- Cores a partition has on die `d` (R83, R114). -/
def partCores (s : State) (p d : Nat) : Nat := (getPart s p).cores.getD d 0

/-- Partitions created or being destroyed. -/
def created (s : State) : List Nat := ((List.range 33).filter fun p => (getPart s p).st ≠ 0)

/-- PRT_FREE: allocatable cores of a die that no partition has. -/
def freeAlloc (s : State) (d : Nat) : Nat := allocatable s d - ((created s).map fun p => partCores s p d).sum

/-- Cores of partition `p` on die `d` that a context holds. -/
def placedOn (s : State) (p d : Nat) : Nat :=
  (slots.map fun k => ((getCtx s p k).place.filter fun g => g / 32 = d).length).sum

/-- Free cores of the partition on a die, ascending. -/
def freeCores (s : State) (p d : Nat) : List Nat :=
  (((List.range 32).map (32 * d + ·)).filter (coreFree s)).take (partCores s p d - placedOn s p d)

/-- Free cores of a partition. -/
def freeCount (s : State) (p : Nat) : Nat := ((List.range 4).map fun d => (freeCores s p d).length).sum

/-- Cores of a partition on every die. -/
def partTotal (s : State) (p : Nat) : Nat := ((List.range 4).map (partCores s p)).sum

/-- The cores a context of `n` cores is placed on: dies with the most free partition cores first, then by number; cores
of a die ascending (R92). -/
def chooseCores (s : State) (p n : Nat) : List Nat :=
  let dies := isort (fun a b => lt2 (32 - (freeCores s p a).length, a) (32 - (freeCores s p b).length, b)) (List.range 4)
  (dies.flatMap (freeCores s p)).take n

/-- A core with nothing of a context in it: live and line-valid bits cleared (R113, R138). -/
def Core.cleared (c : Core) : Core :=
  { role := c.role, failed := c.failed, cnt := c.cnt, lastTest := c.lastTest }

/-- The core is free again. -/
def freeCore (g : Nat) (s : State) : State := modCore g (fun c => { c.cleared with role := .free }) s

/-- A context gives its cores back. -/
def releaseCores (p slot : Nat) (s : State) : State :=
  let s := (getCtx s p slot).place.foldl (fun s g => freeCore g s) s
  wake p (modCtx p slot (fun c => { c with place := [] }) s)

/-! ## Time -/

/-- Running time of the LAUNCH in progress, ns (R96). -/
def runNs (s : State) (c : Ctx) : Nat :=
  match c.launch with
  | none => 0
  | some l => l.ran + if c.resident then s.clk - l.since else 0

/-- The context stops running: its time is taken down (R96). -/
def stopClock (p slot : Nat) (s : State) : State :=
  modCtx p slot (fun c => { c with launch := c.launch.map fun l => { l with ran := runNs s c } }) s

/-- The context's launch runs from now. -/
def startClock (p slot : Nat) (s : State) : State :=
  modCtx p slot (fun c => { c with launch := c.launch.map fun l => { l with since := s.clk } }) s

/-! ## Mutexes and semaphores (R106 to R112) -/

def dMutex (_ : Nat) : Mutex := {}
def dDWord (_ : Nat) : DWord := 0

def semVal (s : State) (p n : Nat) : Nat := (tabGet dDWord (getPart s p).sems n).toNat
def setSem (p n v : Nat) (s : State) : State :=
  modPart p (fun x => { x with sems := tabSet dDWord x.sems n (BitVec.ofNat 64 v) }) s
def getMutex (s : State) (p m : Nat) : Mutex := tabGet dMutex (getPart s p).mutexes m
def setMutex (p m : Nat) (v : Mutex) (s : State) : State :=
  modPart p (fun x => { x with mutexes := tabSet dMutex x.mutexes m v }) s

/-- Mutexes a context owns, 0 to 63 for 960 to 1,023. -/
def owned (s : State) (p slot : Nat) : List Nat :=
  (List.range 64).filter fun k => (getMutex s p (960 + k)).owner = some slot

/-- HEELING, HEELED or HELD: a mutex its owner holds is parked (R110). -/
def Ctx.parks (c : Ctx) : Bool := c.st = .heeling || c.st = .heeled || c.st = .held

/-- Priority at which a waiter waits (R108). -/
def waiterPrio (s : State) (p : Nat) (w : Waiter) : Nat :=
  match w with
  | .core slot _ _ => (getCtx s p slot).eff
  | .desc id =>
    match findDesc s id with
    | none => 3
    | some d => match d.ctx? with | some k => (getCtx s p k).eff | none => d.ring

/-- The waiter's context, if it has one. -/
def Waiter.slot? (s : State) : Waiter → Option Nat
  | .core slot _ _ => some slot
  | .desc id => (findDesc s id).bind Desc.ctx?

/-- Waiters of one semaphore by effective priority, then arrival (R108). -/
def waitersOf (s : State) (p sem : Nat) : List Waiting :=
  isort (fun a b => waiterPrio s p a.who < waiterPrio s p b.who) ((getPart s p).waits.filter (·.sem = sem))

/-- A waiting condition holds of a counting value. -/
def SemWant.holds (v : Nat) : SemWant → Bool
  | .atLeast n => n ≤ v
  | .equal n => v = n
  | .bits n => v &&& n = n
  | .take n => n ≤ v
  | .lock => false

/-- Remove the first entry equal to `w`. -/
def dropWaiting (p : Nat) (w : Waiting) (s : State) : State :=
  modPart p (fun x => { x with waits := x.waits.erase w }) s

/-- Every core of the context waits, at least one of them in SEMA (R178). -/
def blockedNow (s : State) (p slot : Nat) : Bool :=
  let ws := (getCtx s p slot).place.map fun g => (getCore s g).waits
  (ws.any fun w => match w with | .sema _ => true | _ => false) && ws.all fun w => w ≠ .ready

/-- BLOCKED or RUNNING, as its cores wait (R91, R178). -/
def refreshBlocked (p slot : Nat) (s : State) : State :=
  if (getCtx s p slot).resident then
    modCtx p slot (fun c => { c with st := if blockedNow s p slot then .blocked else .running }) s
  else s

/-- Write a scalar register of a core; s0 discards it (R153). -/
def Core.setS (c : Core) (r : Nat) (v : DWord) : Core :=
  if r = 0 then c else { c with s := tabSet dDWord c.s r v }

/-- A scalar register; s0 reads zero (R153). -/
def Core.getS (c : Core) (r : Nat) : DWord := if r = 0 then 0 else tabGet dDWord c.s r

/-- The SEMA of a core retires with s[rd] (R178). -/
def Core.retireSema (c : Core) (rd v : Nat) : Core :=
  { c.setS rd (BitVec.ofNat 64 v) with waits := .ready, pc := c.pc + 1 }

/-- A queued SEMA is answered: on the core while it holds the state, else kept with the heel-in state (R182). -/
def answerCore (p slot i rd v : Nat) (s : State) : State :=
  let c := getCtx s p slot
  match c.place[i]? with
  | some g =>
    if (getCore s g).stop = .saved then modCtx p slot (fun c => { c with kept := c.kept ++ [(i, rd, v)], served := true }) s
    else refreshBlocked p slot (modCtx p slot (fun c => { c with served := true })
      (modCore g (fun k => k.retireSema rd v) s))
  | none =>
    let s := modCtx p slot (fun c => { c with kept := c.kept ++ [(i, rd, v)], served := true }) s
    if c.st = .heeled && !c.served then wake p (modCtx p slot (fun c => { c with readyTime := s.clk }) s) else s

/-- A waiter is served or times out: `code` for a core (0 done, 1 timed out, 3 abandoned), `tmo` for a WAIT. -/
def answer (p : Nat) (w : Waiting) (code : Nat) (s : State) : State :=
  match w.who with
  | .core slot i rd => answerCore p slot i rd code s
  | .desc id => finish id 0 0 (if code = 1 then 1 else 0) (semVal s p w.sem) s

/-- The first waiter that may be served: an unsatisfied take holds back those behind it (R108). -/
def nextServed (v : Nat) : List Waiting → Option Waiting
  | [] => none
  | w :: r => if w.want.holds v then some w else match w.want with | .take _ => none | _ => nextServed v r

/-- Serve the waiters of a counting semaphore; `n` bounds how many. -/
def serveSem (p sem : Nat) : (n : Nat) → State → State
  | 0, s => s
  | n + 1, s =>
    match nextServed (semVal s p sem) (waitersOf s p sem) with
    | none => s
    | some w =>
      let s := dropWaiting p w s
      let s := match w.want with | .take k => setSem p sem (semVal s p sem - k) s | _ => s
      serveSem p sem n (answer p w 0 s)

/-- A counting semaphore takes a value, its waiters are served and the operation is mirrored (R107, R386). -/
def semOp (p sem : Nat) (set : Bool) (operand : Nat) (s : State) : State :=
  let v := if set then operand % 2 ^ 64 else (semVal s p sem + operand) % 2 ^ 64
  let s := changed (setSem p sem v s)
  mirrorSem p sem set operand (serveSem p sem (getPart s p).waits.length s)

/-- Where nobody owns a mutex, its first waiter does (R109, R112). -/
def serveMutex (p m : Nat) (s : State) : State :=
  let x := getMutex s p m
  if x.owner.isSome then s
  else
    match waitersOf s p m with
    | [] => s
    | w :: _ =>
      match w.who with
      | .core slot _ _ =>
        let s := setMutex p m { owner := some slot, abandoned := false } (dropWaiting p w s)
        answer p w (if x.abandoned then 3 else 0) s
      | .desc _ => s

/-- A mutex is released, abandoned or not. -/
def releaseMutex (p m : Nat) (abandoned : Bool) (s : State) : State :=
  let s := setMutex p m { owner := none, abandoned } s
  let s := if abandoned then modPart p (fun x => { x with nAbandoned := satAdd 32 x.nAbandoned 1 }) s else s
  changed (serveMutex p m s)

/-- Mutexes of a context that halts, is torn down or destroyed are released as abandoned (R112). -/
def abandonAll (p slot : Nat) (s : State) : State :=
  (owned s p slot).foldl (fun s k => releaseMutex p (960 + k) true s) s

/-! ## Heel-in start (R97) -/

/-- The context is to be heeled in: every core gets a stop request. -/
def heelIn (p slot : Nat) (cause : HeelCause) (heelFor : Option Nat) (s : State) : State :=
  let c := getCtx s p slot
  if c.resident then
    let s := stopClock p slot s
    let s := modCtx p slot (fun c =>
      { c with st := .heeling, cause, heelFor, began := s.clk, served := false, kept := [], heelBytes := 0, saved := [] }) s
    changed (c.place.foldl (fun s g => modCore g (fun k => { k with stop := .requested }) s) s)
  else s

/-- Holding time of a parked mutex, in ns (R85, R110). -/
def holdNs (s : State) (p : Nat) : Nat := (getPart s p).holdBudget * 1000

/-- One waiter of one parked mutex passes its priority on (R110). -/
def inheritOne (p m waiter : Nat) (s : State) : State :=
  match (getMutex s p m).owner with
  | none => s
  | some o =>
    let w := getCtx s p waiter
    let c := getCtx s p o
    if c.parks && w.eff < c.eff then
      let s := modCtx p o (fun c =>
        { c with inherited := some w.eff,
                 holdEnds := match c.holdEnds with | some h => some h | none => some (s.clk + holdNs s p, m, waiter) }) s
      let s := modPart p (fun x => { x with nInherit := satAdd 64 x.nInherit 1 }) s
      let s := record 0 0x0303 [.id1 p, .val4 m, .id1 o, .code1 w.eff] p o s
      wake p (heelIn p waiter .inheritance (some o) s)
    else s

/-- Every waiter of every parked mutex of a partition passes its priority on (R110). -/
def inheritAll (p : Nat) (s : State) : State :=
  ((getPart s p).waits.filter fun w => 960 ≤ w.sem).foldl (fun s w =>
    match w.who with
    | .core slot _ _ => inheritOne p w.sem slot s
    | .desc _ => s) s

/-- The context is heeled in for no waiting one: the mutexes it holds are parked from now on (R97, R110). -/
def heelNow (p slot : Nat) (cause : HeelCause) (s : State) : State := inheritAll p (heelIn p slot cause none s)

/-! ## Teardown (R113) -/

/-- Descriptors that name a context and have passed their checks; CTX_CREATE, CTX_DESTROY and QUERY go their own way
(R69, R90, R115). -/
def descsOf (s : State) (p slot : Nat) : List Desc :=
  s.hif.inflight.filter fun d =>
    d.part = p && d.ctx? = some slot && d.opcode ≠ 0x12 && d.opcode ≠ 0x13 && d.opcode ≠ 0x0C &&
      (match d.st with | .refused _ _ _ => false | _ => true)

/-- Steps 1 to 5 of R113: cores stopped and cleared, mutexes and queue places given up. -/
def stopContext (p slot : Nat) (s : State) : State :=
  let s := modPart p (fun x => { x with waits := x.waits.filter fun w => w.who.slot? s ≠ some slot }) s
  let s := abandonAll p slot s
  let s := (getCtx s p slot).place.foldl (fun s g => freeCore g s) s
  wake p (modCtx p slot (fun c =>
    { c with place := [], saved := [], kept := [], served := false, heelFor := none, holdEnds := none,
             inherited := none, moving := none, heelHeld := false }) s)

/-- The result of a swatch LAUNCH waits for its island (R421). -/
def swatchResult (w : Nat × Nat × Nat) (status : Nat) (digest : List Byte) (s : State) : State :=
  let put (x : Swatch) : Swatch := { x with result := some (status, digest) }
  modIsl w.1 (fun i =>
    { i with strs := tabMod (fun _ => ({} : SafStr)) i.strs w.2.1 fun st =>
        if w.2.2 = 0 then { st with swA := put st.swA } else { st with swB := put st.swB } }) s

/-- A context is torn down (R113): completions by R68 and R69, event 0x0301. `first` is the descriptor that met the
fault; it, or else the LAUNCH or REPLAY in progress, carries the detail. -/
def teardown (p slot status detail info aux : Nat) (first : Option Nat) (s : State) : State :=
  let c := getCtx s p slot
  if c.st = .free ∨ c.st = .faulted then s
  else
    let pc := match c.place.head? with | some g => (getCore s g).pc | none => 0
    let s := stopClock p slot s
    let s := stopContext p slot s
    let s := recFinish p slot status (zeros 32) s
    let s := recStop p slot 3 s
    let lead := match first with | some i => some i | none => c.launch.bind (·.desc)
    let s := match lead with
      | some i => finish i status detail info aux s
      | none => s
    let s := match c.launch.bind (·.swatch) with
      | some w => swatchResult w status [] s
      | none => s
    let s := modCtx p slot (fun c => { c with st := .faulted, fault := status, launch := none, hold := false, preempts := [] }) s
    let s := (descsOf s p slot).foldl (fun s d => finish d.id status 0 0 0 s) s
    let s := c.preempts.foldl (fun s i => finish i status 0 0 0 s) s
    let s := modPart p (fun x => { x with nTeardown := satAdd 32 x.nTeardown 1 }) s
    let idx := if 0x200 ≤ status ∧ status ≤ 0x208 then info else pc
    changed (record 0 0x0301 [.id1 p, .id1 slot, .val2 status, .val4 idx] p slot s)

/-- Status, detail, info and aux of a failed memory access of a core (Table 2.8). -/
def memStatus (s : State) (idx pc : Nat) : MemErr → Nat × Nat × Nat × Nat
  | .violation a => (0x0204, idx, pc, a)
  | .uncorrectable h => (0x0300, h, 0, hubTime s h)
  | .mac _ => (0x0401, 0, 0, 0)

/-- Status of an instruction fault cause (Table 5.7). -/
def causeStatus (c : Nat) : Nat :=
  match c with
  | 0x09 => 0x0204 | 0x20 => 0x0206 | 0x21 => 0x0207 | 0x22 => 0x0201 | 0x23 => 0x0208 | 0x24 => 0x0202
  | 0x25 => 0x0205 | 0x26 => 0x0204 | 0x27 => 0x0300
  | _ => 0x0200

/-- Opcode of an instruction word (Table 5.2). -/
def opOf (w : InstrWord) : Nat := bits w.toNat 122 6

/-- The word a core's sequencer stands at, if its cache holds it. -/
def Core.word (c : Core) : Option InstrWord := tabGet (fun _ => none) c.icache c.pc

/-- Index and opcode of the instruction a core's sequencer stands at. -/
def Core.here (c : Core) : Nat × Nat := (c.pc, match c.word with | some w => opOf w | none => 0)

/-- A core faults with a cause at an instruction, its index and opcode given: event 0x0406, then its context is torn
down (R161). -/
def coreFaultAt (g cause trap aux : Nat) (i : Nat × Nat) (s : State) : State :=
  let c := getCore s g
  let s := record (2 + g / 32) 0x0406
    [.id1 (g / 32), .id1 (g % 32), .code1 cause, .val4 i.1, .code1 i.2, .val2 trap] c.part c.slot s
  teardown c.part c.slot (causeStatus cause) c.idx i.1 aux none s

/-- A core faults with a cause at the instruction its sequencer stands at (R161). -/
def coreFault (g cause trap aux : Nat) (s : State) : State := coreFaultAt g cause trap aux (getCore s g).here s

/-- An access of a core to partition memory fails, for the instruction given (Table 12.2, causes 0x26 and 0x27). -/
def coreMemErrAt (g : Nat) (e : MemErr) (i : Nat × Nat) (s : State) : State :=
  let c := getCore s g
  match e with
  | .violation a => coreFaultAt g 0x26 0 a i s
  | .uncorrectable h =>
    let s := record (2 + g / 32) 0x0406
      [.id1 (g / 32), .id1 (g % 32), .code1 0x27, .val4 i.1, .code1 i.2, .val2 0] c.part c.slot s
    teardown c.part c.slot 0x0300 h 0 (hubTime s h) none s
  | .mac _ => teardown c.part c.slot 0x0401 0 0 0 none s

/-- An access fails for the instruction the core's sequencer stands at. -/
def coreMemErr (g : Nat) (e : MemErr) (s : State) : State := coreMemErrAt g e (getCore s g).here s

/-! ## Dispatch (R91, R150) -/

/-- A core of a newly placed context (R150). -/
def Core.start (c : Core) (p slot idx entry count : Nat) : Core :=
  { c.cleared with role := .placed, part := p, slot, idx, pc := entry, count }

/-- Store bytes in a core's scratchpad: the bank becomes live and the lines valid (R138). -/
def Core.putSp (c : Core) (off : Nat) (bs : List Byte) : Core :=
  if bs.isEmpty then c
  else
    let l0 := off / 64
    let lines := (List.range ((off + bs.length - 1) / 64 - l0 + 1)).map (l0 + ·)
    let banks := (List.range ((off + bs.length - 1) / 0x10000 - off / 0x10000 + 1)).map (off / 0x10000 + ·)
    { c with sp := putBytes c.sp off bs,
             live := banks.foldl (fun v b => v ||| BitVec.ofNat 48 (2 ^ b)) c.live,
             spValid := lines.foldl (fun t l => tabSet dBool t l true) c.spValid,
             ecc := c.ecc.filter fun e => !(l0 ≤ e.1 && e.1 < l0 + lines.length) }

/-- The header of a program is acceptable; causes 0x0E and 0x03 (R149, R150). -/
def headerCause (s : State) (h : List Byte) (entry : Nat) : Option Nat :=
  let count := leAt h 8 4
  if leAt h 0 4 ≠ 0x57414C50 ∨ leAt h 4 1 ≠ 1 ∨ 1 < leAt h 5 1 ∨ leAt h 6 2 ≠ 0 ∨ count = 0 ∨ 16777216 < count ∨
      leAt h 12 4 &&& (regGet s 0x10).toNat ≠ leAt h 12 4 ∨ (h.drop 16).any (· ≠ 0) then some 0x0E
  else if count ≤ entry then some 0x03
  else none

/-- A program starts on the cores its context holds: header checked, registers cleared, args copied (R150). -/
def startProgram (p slot : Nat) (l : Launch) (args : List Byte) (s : State) : State :=
  let place := (getCtx s p slot).place
  let (r, s) := readPart p l.prog 64 (.ctx p slot) s
  match r with
  | .error e =>
    match place.head? with
    | none => s
    | some g => coreMemErr g e s
  | .ok h =>
    let s := (place.zip (List.range place.length)).foldl (fun s x =>
      modCore x.1 (fun c =>
        let c := c.start p slot x.2 l.entry (leAt h 8 4)
        if args.isEmpty then c else c.putSp 0x2F0000 args) s) s
    match headerCause s h l.entry, place.head? with
    | some cause, some g => coreFault g cause 0 0 s
    | _, _ => s

/-- What a LAUNCH takes in at dispatch: args, digests where asked for, the recording's entry (R150, R448, R460). -/
def dispatchLaunch (p slot : Nat) (l : Launch) (s : State) : State :=
  let (r, s) := if l.argsAddr = 0 then (Except.ok [], s) else readPart p l.argsAddr l.argsLen (.ctx p slot) s
  match r with
  | .error e =>
    match (getCtx s p slot).place.head? with
    | none => s
    | some g => coreMemErr g e s
  | .ok args =>
    let dig := bit l.flags 3
    let rcd := bit l.flags 4 && (getCtx s p slot).recording.isSome
    let pd := if dig || rcd then progDigest s p l.prog else []
    let l := { l with progDigest := pd, weightsDigest := if dig then weightsDigest s p else [],
                      inputDigest := if dig then inputDigest s p l.seed args else [] }
    let raw := match l.desc.bind (findDesc s) with | some d => d.raw | none => 0
    let (s, off) := if rcd then recDispatch p slot raw pd args args.length s else (s, none)
    let l := { l with recOff := off, dispatched := true, since := s.clk }
    startProgram p slot l args (modCtx p slot (fun c => { c with launch := some l }) s)

/-! ## REPLAY entries (R463) -/

/-- Complete a REPLAY with every entry dealt with: the cores are released and the context is IDLE. -/
def replayFinish (p slot : Nat) (s : State) : State :=
  let c := getCtx s p slot
  match c.launch with
  | none => s
  | some l =>
    let tot := (match l.replay with | some r => r.total | none => 0) / 1000
    let s := writeDigest p slot l s
    let s := releaseCores p slot (abandonAll p slot s)
    let s := modCtx p slot (fun c => { c with st := .idle, launch := none, launches := satAdd 64 c.launches 1 }) s
    match l.desc with
    | some i => changed (finish i (if l.replayed = 0 then 0 else 1) (min l.replayed 0xFFFF) (min tot 0xFFFFFFFF) 0 s)
    | none => changed s

/-- Look at the entries of a record from the next one on; the first that runs is started (R463). `n` bounds them. -/
def replayNext (p slot : Nat) : (n : Nat) → State → State
  | 0, s => replayFinish p slot s
  | n + 1, s =>
    match (getCtx s p slot).launch with
    | none => s
    | some l =>
      match l.replay with
      | none => s
      | some r =>
        if r.entries ≤ r.idx then replayFinish p slot s
        else
          let a := r.addr + r.off
          let e := peek s p a 192
          let st := leAt e 178 2
          let hdr := peek s p r.addr 512
          let next : Replay := { r with idx := r.idx + 1, off := r.off + max 64 (leAt e 0 4) }
          let put (r : Replay) (s : State) : State :=
            modCtx p slot (fun c => { c with launch := c.launch.map fun l => { l with replay := some r } }) s
          let checks := recRegions hdr 1
          let prog := leAt e 24 8
          if (0x200 ≤ st ∧ st < 0x400) ∨ st = 0x401 then replayNext p slot n (put next s)
          else if progDigest s p prog ≠ (e.drop 80).take 32 then
            replayNext p slot n (put next (poke p (a + 176) [3#8] s))
          else if (checks.zip (List.range checks.length)).any (fun x =>
              sha3 (peek s p x.1.1 x.1.2) ≠ peek s p (a + 192 + 32 * x.2) 32) then
            replayNext p slot n (put next (poke p (a + 176) [2#8] s))
          else
            let argsLen := leAt e 180 4
            let argsOff := a + entryArgsOff checks.length
            let snaps := recRegions hdr 0
            let (s, _) := snaps.foldl (fun (acc : State × Nat) g =>
              (poke p g.1 (peek acc.1 p acc.2 g.2) acc.1, acc.2 + up64 g.2)) (s, argsOff + up64 argsLen)
            let args := peek s p argsOff argsLen
            let l := { l with prog, entry := leAt e 44 4, seed := leAt e 48 8, resultAddr := leAt e 56 8,
                              budget := leAt e 72 4, argsAddr := argsOff, argsLen, ran := 0, since := s.clk,
                              replay := some { r with running := true },
                              progDigest := progDigest s p prog, weightsDigest := weightsDigest s p,
                              inputDigest := inputDigest s p (leAt e 48 8) args, dispatched := true }
            startProgram p slot l args (modCtx p slot (fun c => { c with launch := some l, st := .running }) s)

/-! ## The scheduler (R93) -/

/-- A context is granted cores: dispatched, or its replant starts (R91, R102). -/
def place (p slot : Nat) (s : State) : State :=
  let c := getCtx s p slot
  let gs := chooseCores s p c.cores
  let s := gs.foldl (fun s g => modCore g (fun k => { k.cleared with role := .placed, part := p, slot }) s) s
  let s := modCtx p slot (fun c => { c with place := gs, dispatchTime := s.clk, heelFor := none }) s
  if c.st = .heeled then
    changed (modCtx p slot (fun c => { c with st := .replanting, began := s.clk }) s)
  else
    let s := modCtx p slot (fun c => { c with st := .running }) s
    match c.launch with
    | none => s
    | some l =>
      match l.replay with
      | some r => changed (replayNext p slot (r.entries + 1) (startClock p slot s))
      | none => changed (dispatchLaunch p slot l s)

/-- READY, or HEELED with its wait satisfied (R93, R182). -/
def isReady (s : State) (p slot : Nat) : Bool :=
  let c := getCtx s p slot
  c.st = .ready || (c.st = .heeled &&
    (c.served || !((getPart s p).waits.any fun w => match w.who with | .core k _ _ => k = slot | .desc _ => false)))

/-- The context runs a swatch (R420). -/
def Ctx.swatching (c : Ctx) : Bool := (c.launch.bind (·.swatch)).isSome

/-- Effective priority, a swatch behind every other context of its priority (R93, R420). -/
def rank (c : Ctx) : Nat := 2 * c.eff + b2n c.swatching

/-- Ready contexts by effective priority, then by when they became ready (R93). -/
def readyList (s : State) (p : Nat) : List Nat :=
  isort (fun a b => lt2 (rank (getCtx s p a), (getCtx s p a).readyTime) (rank (getCtx s p b), (getCtx s p b).readyTime))
    (slots.filter (isReady s p))

/-- Residents, lowest priority and latest dispatch first (R93). -/
def residents (s : State) (p : Nat) : List Nat :=
  isort (fun a b => lt2 (4 - (getCtx s p a).eff, s.clk - (getCtx s p a).dispatchTime)
      (4 - (getCtx s p b).eff, s.clk - (getCtx s p b).dispatchTime))
    (slots.filter fun k => (getCtx s p k).resident)

/-- Cores that come free for waiting context `slot` (R93). -/
def coming (s : State) (p slot : Nat) : Nat :=
  (slots.map fun k => let c := getCtx s p k
    if c.st = .heeling && c.heelFor = some slot then c.place.length else 0).sum

/-- Context `x` gives way to waiting context `c`: lower priority, BLOCKED at P2 or P3, or a swatch before any other P0
context (R93, R420). -/
def yields (c x : Ctx) : Bool :=
  c.eff < x.eff || (x.st = .blocked && 2 ≤ x.prio) || (c.eff = 0 && !c.swatching && x.swatching)

/-- Victims for context `slot`, in order, until `need` is covered from `have_` (R93, R94). -/
def victims (s : State) (p slot need : Nat) : (have_ : Nat) → List Nat → List Nat
  | _, [] => []
  | h, v :: r =>
    if need ≤ h then []
    else
      let x := getCtx s p v
      if yields (getCtx s p slot) x then
        v :: victims s p slot need (h + x.place.length) r
      else victims s p slot need h r

/-- Cause of the heel-in of a victim (Table 3.4). -/
def victimCause (s : State) (p slot v : Nat) : HeelCause :=
  if rank (getCtx s p slot) < rank (getCtx s p v) then .priority else .blockedDemand

/-- The procedure of R93 over the ready contexts, in order. -/
def schedLoop (p : Nat) : List Nat → State → State
  | [], s => s
  | c :: r, s =>
    let need := (getCtx s p c).cores
    if need ≤ freeCount s p then schedLoop p r (place p c s)
    else
      let have_ := freeCount s p + coming s p c
      let vs := victims s p c need have_ (residents s p)
      if need ≤ have_ + (vs.map fun v => (getCtx s p v).place.length).sum then
        vs.foldl (fun s v => heelIn p v (victimCause s p c v) (some c) s) s
      else s

/-- The quantum in effect, ns; 0 none (PRT_SCHED). -/
def quantumNs (s : State) : Nat :=
  if fld s 0x200008 0 1 = 1 then 10000 * eff s 0x20000C 8 16
  else match eff s 0x20000C 0 2 with
    | 1 => 50000000 | 2 => 10000000 | 3 => 2000000
    | _ => 0

/-- R93 runs in a partition; PRT_SCHED commits, and waiters of parked mutexes pass their priority on. -/
def schedule (p : Nat) (s : State) : State :=
  let s := commit 0x20000C s
  let s := inheritAll p s
  let s := schedLoop p (readyList s p) s
  inheritAll p s

/-- Schedulers run until none is due; `n` bounds how often. -/
def settlePrt : (n : Nat) → State → State
  | 0, s => s
  | n + 1, s =>
    match s.prt.resched with
    | [] => s
    | p :: r => settlePrt n (schedule p { s with prt := { s.prt with resched := r } })

/-! ## Freeing a slot (R115) -/

/-- A slot is freed; its counters stay until PART_DESTROY (R120). -/
def freeSlot (p slot : Nat) (s : State) : State :=
  changed (modCtx p slot (fun c =>
    { launches := c.launches, heelIns := c.heelIns, replants := c.replants, heelNs := c.heelNs,
      replantNs := c.replantNs, lastHeelNs := c.lastHeelNs }) s)

/-- Descriptors of the slot fetched before `i` are still to complete (R115). -/
def earlierOpen (s : State) (p slot i : Nat) : Bool :=
  s.hif.inflight.any fun e => e.id < i && e.part = p && e.ctx? = some slot

/-- CTX_DESTROYs without force whose earlier descriptors are done free their slots; `n` bounds how many. -/
def settleDestroy : (n : Nat) → State → State
  | 0, s => s
  | n + 1, s =>
    match s.prt.ctxs.find? (fun e => match e.2.destroyer with
        | some i => !earlierOpen s (e.1 / 16) (e.1 % 16) i || e.2.st = .faulted
        | none => false) with
    | none => s
    | some e =>
      match e.2.destroyer with
      | none => s
      | some i =>
        let p := e.1 / 16
        let k := e.1 % 16
        let s := recStop p k 3 (stopContext p k s)
        settleDestroy n (finishOk i (freeSlot p k s))

/-- Everything that follows at once from a command: refused descriptors whose fences allow, CTX_DESTROYs whose slots are
done, schedulers. -/
def settle (s : State) : State :=
  let round := fun s => settlePrt 64 (settleDestroy 64 (settleHif s))
  settleHif (round (round s))

end Sys2Proof.Machine
end

