-- ==== Sys2Proof/Machine/Desc.lean ====
section
/-!
DEFINITION. Desc.lean: how a fetched descriptor starts (R55 to R62, R521), and the meanings of NOP, LAUNCH, COPY, FILL,
WAIT, SIGNAL, PREEMPT, RESUME, DIGEST, RECORD and REPLAY (spec/02, spec/03, spec/15, spec/16).
-/
namespace Sys2Proof.Machine

/-- A completion that ends a descriptor at a check: status, detail, info. -/
abbrev Refused := Nat × Nat × Nat

/-- BAD_DESCRIPTOR with the offset of the offending field (R67, R68). -/
def bad (detail : Nat) : Refused := (0x0100, detail, 0)

/-- SECURITY_DENIED with a reason (Table 15.9). -/
def denied (reason : Nat) : Refused := (0x0400, 0, reason)

/-- The first refusal of a list of conditions. -/
def firstOf (l : List (Bool × Refused)) : Option Refused := (l.find? (·.1)).map (·.2)

/-- Opcodes that may be submitted on any ring of the function (R55). -/
def anyRing (op : Nat) : Bool := op = 0x06 || op = 0x07 || op = 0x0C || op = 0x12 || op = 0x13

/-- What is decided only when a descriptor reaches the front of its slot's descriptors (R521, R69). -/
def frontCheck (s : State) (d : Desc) : Option Refused :=
  match d.ctx? with
  | none => none
  | some k =>
    let c := getCtx s d.part k
    if d.opcode = 0x12 then none
    else if c.st = .free then some (bad 5)
    else if c.st = .faulted && d.opcode ≠ 0x13 && d.opcode ≠ 0x0C then some (c.fault, 0, 0)
    else if !anyRing d.opcode && d.ring ≠ c.prio then some (bad 5)
    else if d.opcode = 0x01 && bit d.flags 4 && c.recording.isNone then some (bad 4)
    else none

/-- A LAUNCH or REPLAY fetched after a slot 0 import waits for the import to finish (R441). -/
def importHolds (s : State) (d : Desc) : Bool :=
  match (getPart s d.part).sec.importing with
  | some (i, _) => (d.opcode = 0x01 || d.opcode = 0x0E) && i < d.id
  | none => false

/-- A descriptor of opcode `op` starts: its checks, then its effect. Nothing happens where it may not start yet. -/
def runDesc (t id op : Nat) (check : State → Desc → Option Refused) (body : Desc → State → State) (s : State) : State :=
  let s := advance t s
  match findDesc s id with
  | none => s
  | some d =>
    if d.opcode = op && mayStart s d && !importHolds s d then
      settle (match frontCheck s d with
        | some (st, de, info) => finish id st de info 0 s
        | none =>
          match check s d with
          | some (st, de, info) => finish id st de info 0 s
          | none => body d (startDesc id s))
    else s

/-- No further check at the start. -/
def noCheck (_ : State) (_ : Desc) : Option Refused := none

/-- A partition-level descriptor, or one that names a context, meets a memory error (R68, R522, Table 12.2). -/
def descMemErr (d : Desc) (e : MemErr) (s : State) : State :=
  let idx := if d.ctx?.isNone then 0xFFFF else 0
  let (st, de, info, aux) := memStatus s idx 0 e
  match d.ctx? with
  | none => finish d.id st de info aux s
  | some k => teardown d.part k st de info aux (some d.id) s

/-! ## NOP (R63) -/

def doNop (t id : Nat) (s : State) : State := runDesc t id 0x00 noCheck (fun d s => finishOk d.id s) s

/-- NOP (R63): completes OK. -/
def execNop (t id : Nat) (s : State) : Host.Outcome State Fault Refusal := .next (doNop t id s)

/-! ## LAUNCH and REPLAY (R91, R444, R463) -/

/-- Field checks of LAUNCH (Table 2.6). -/
def launchCheck (_ : State) (d : Desc) : Option Refused :=
  firstOf [(d.u 8 8 % 4096 ≠ 0 || partSpace ≤ d.u 8 8, bad 8), (d.u 16 8 % 64 ≠ 0 || partSpace ≤ d.u 16 8, bad 16),
    (d.u 24 4 % 8 ≠ 0 || 65536 < d.u 24 4, bad 24), (d.u 40 8 % 64 ≠ 0 || partSpace ≤ d.u 40 8, bad 40),
    (bit d.flags 3 && d.u 48 8 % 64 ≠ 0, bad 48)]

/-- A confidential partition runs only the program of its policy (R444). -/
def confidentialRun (s : State) (p prog : Nat) : Option Refused :=
  if !(getPart s p).confidential then none
  else
    match (getPart s p).sec.policy with
    | none => some (denied 0x08)
    | some _ => if (regionsOf s p [0]).any (·.addr = prog) then none else some (denied 0x09)

/-- A context becomes READY with a launch (R91). -/
def makeReady (p slot : Nat) (l : Launch) (s : State) : State :=
  wake p (changed (modCtx p slot (fun c => { c with st := .ready, readyTime := s.clk, launch := some l }) s))

/-- The launch a LAUNCH descriptor asks for. -/
def Desc.launch (d : Desc) : Launch :=
  { desc := some d.id, tag := d.tag, opcode := 1, flags := d.flags, prog := d.u 8 8, argsAddr := d.u 16 8,
    argsLen := d.u 24 4, entry := d.u 28 4, seed := d.u 32 8, resultAddr := d.u 40 8, digestAddr := d.u 48 8,
    budget := d.u 56 4 }

/-- The context of a LAUNCH or REPLAY is IDLE; while it is HELD the descriptor waits (Table 3.2). -/
def slotIdle (s : State) (id : Nat) : Bool :=
  match findDesc s id with
  | none => false
  | some d =>
    match d.ctx? with
    | none => false
    | some k => let st := (getCtx s d.part k).st; st ≠ .held && st ≠ .destroying

def doLaunch (t id : Nat) (s : State) : State :=
  if slotIdle s id then
    runDesc t id 0x01 (fun s d => (launchCheck s d).or (confidentialRun s d.part (d.u 8 8)))
      (fun d s => match d.ctx? with | some k => makeReady d.part k d.launch s | none => s) s
  else advance t s

/-- LAUNCH (R91): at the front of its slot's descriptors the context becomes READY, and R93 runs. -/
def execLaunch (t id : Nat) (s : State) : Host.Outcome State Fault Refusal := .next (doLaunch t id s)

/-- Refusals of REPLAY (R462): the record, its state, its cores, and every address it names. -/
def replayCheck (s : State) (d : Desc) : Option Refused :=
  let p := d.part
  let a := d.u 16 8
  let rec_ := d.u 8 8
  let hdr := peek s p rec_ 512
  let used := leAt hdr 24 8
  let ok := (refusedAt s p rec_ 512 false).isNone && (refusedAt s p rec_ used false).isNone &&
    (refusedAt s p rec_ used true).isNone && leAt hdr 0 4 = 0x52454331 && leAt hdr 4 2 = 1 && leAt hdr 6 1 = 1 &&
    (leAt hdr 7 1 = 2 || leAt hdr 7 1 = 3) && used ≤ a &&
    (match d.ctx? with
     | none => false
     | some k => (getCtx s p k).st = .free || leAt hdr 10 2 = (getCtx s p k).cores) &&
    (recRegions hdr 0).all (fun r => (refusedAt s p r.1 r.2 true).isNone) &&
    (recRegions hdr 1).all (fun r => (refusedAt s p r.1 r.2 false).isNone) &&
    (recRegions hdr 2).all (fun r => (refusedAt s p r.1 r.2 false).isNone)
  firstOf [(!ok, bad 8), (bit d.flags 3 && d.u 24 8 % 64 ≠ 0, bad 24)]

def doReplay (t id : Nat) (s : State) : State :=
  if slotIdle s id then
    runDesc t id 0x0E (fun s d =>
        (replayCheck s d).or (confidentialRun s d.part (leAt (peek s d.part (d.u 8 8 + 512 + 24) 8) 0 8)))
      (fun d s =>
        match d.ctx? with
        | none => s
        | some k =>
          let hdr := peek s d.part (d.u 8 8) 512
          makeReady d.part k
            { desc := some d.id, tag := d.tag, opcode := 0x0E, flags := d.flags, digestAddr := d.u 24 8,
              replay := some { addr := d.u 8 8, entries := leAt hdr 16 4 } } s) s
  else advance t s

/-- REPLAY (R462, R463): the context becomes READY; its entries run one after the other once it is dispatched. -/
def execReplay (t id : Nat) (s : State) : Host.Outcome State Fault Refusal := .next (doReplay t id s)

/-! ## COPY and FILL (R442, R444, R447, R522, R523) -/

/-- Field checks of COPY (Table 2.6). -/
def copyCheck (_ : State) (d : Desc) : Option Refused :=
  let f := d.u 32 1
  let n := d.u 24 8
  firstOf [(!bit f 0 && partSpace < d.u 8 8 + n, bad 8), (!bit f 1 && partSpace < d.u 16 8 + n, bad 16),
    (n = 0 || 2 ^ 32 < n, bad 24), (bit f 0 && bit f 1, bad 32)]

/-- ASCII bytes of a label. -/
def label (t : String) : List Byte := t.toList.map fun c => BitVec.ofNat 8 c.toNat

/-- The seal root (R435). -/
def sealRoot (s : State) : List Byte := Config.kdf Config.deviceSecret (toBytes 1 s.sec.debug ++ label "WALELO-SEAL") 32

/-- The seal key of a partition whose program region has digest `prog` (R446). -/
def sealKeyFor (s : State) (p : Nat) (prog : List Byte) : List Byte :=
  let owner := match (getPart s p).sec.owner with | some o => o | none => []
  Config.kdf (sealRoot s) (owner ++ prog ++ label "WALELO-SEAL-KEY") 64

/-- The seal key of a partition under its policy (R446). -/
def sealKey (s : State) (p : Nat) : List Byte :=
  sealKeyFor s p (match (regionsOf s p [0]).head? with | some r => r.digest | none => zeros 32)

/-- 4 KiB units of a byte string, with the index of the first. -/
def units (first : Nat) (f : Nat → List Byte → List Byte) : (n : Nat) → List Byte → List Byte
  | 0, _ => []
  | n + 1, b => if b.isEmpty then [] else f first (b.take 4096) ++ units (first + 1) f n (b.drop 4096)

/-- Range `[a, a + n)` lies in the region. -/
def Region.holds (r : Region) (a n : Nat) : Bool := r.addr ≤ a && a + n ≤ r.addr + r.len

/-- Refusals of a COPY by the partition's policy (R442, R444, R447, log entry 21). -/
def copyPolicy (s : State) (d : Desc) : Option Refused :=
  let p := d.part
  let n := d.u 24 8
  let src := d.u 8 8
  let dst := d.u 16 8
  let conf := (getPart s p).confidential
  let toHost := bit (d.u 32 1) 1
  let fromHost := bit (d.u 32 1) 0
  let whole := src % 4096 = 0 && n % 4096 = 0
  let in4 := (regionsOf s p [4]).any (·.holds src n)
  let meets4 := (regionsOf s p [4]).any (·.meets src n)
  firstOf
    [(toHost && in4 && !whole, denied 0x0D),
     (toHost && conf && !(whole && (regionsOf s p [3, 4]).any (·.holds src n)), denied 0x0A),
     (toHost && meets4 && !in4, denied 0x0D),
     (fromHost && conf && (regionsOf s p [0, 1, 3, 4, 5]).any (·.meets dst n), denied 0x0B),
     (!toHost && (policyStop s p dst n).isSome, denied 0x0E)]

/-- Partition ranges of a partition-level descriptor are checked before anything is read or written (R522). -/
def copyRights (s : State) (d : Desc) : Option Nat :=
  let p := d.part
  let n := d.u 24 8
  let f := d.u 32 1
  let a := if bit f 0 then none else refusedAt s p (d.u 8 8) n false
  match a with
  | some x => some x
  | none => if bit f 1 then none else refusedAt s p (d.u 16 8) n true

/-- The move itself: the whole source is read first (R523). -/
def copyBody (src : List Byte) (d : Desc) (s : State) : State :=
  let p := d.part
  let n := d.u 24 8
  let f := d.u 32 1
  match copyPolicy s d with
  | some (st, de, info) => finish d.id st de info 0 s
  | none =>
    match copyRights s d with
    | some a => descMemErr d (.violation a) s
    | none =>
      let (r, s) := if bit f 0 then (Except.ok (fit n src), s) else readPart p (d.u 8 8) n (.hub 2) s
      match r with
      | .error e => descMemErr d e s
      | .ok data =>
        if bit f 1 then
          let data := match (regionsOf s p [4]).find? (·.holds (d.u 8 8) n) with
            | none => data
            | some r =>
              units ((d.u 8 8 - r.addr) / 4096) (Config.xtsSeal (sealKey s p)) (n / 4096 + 1) data
          let s := if (getPLink s (fnLink s d.fn)).up then hostWrite (d.u 16 8) data s else s
          finish d.id 0 0 (min n 0xFFFFFFFF) 0 s
        else
          match writePart p (d.u 16 8) data (.hub 2) s with
          | (some e, s) => descMemErr d e s
          | (none, s) => finish d.id 0 0 (min n 0xFFFFFFFF) 0 s

def doCopy (t id : Nat) (src : List Byte) (s : State) : State := runDesc t id 0x02 copyCheck (copyBody src) s

/-- COPY (R523): `src` is what the host's memory holds at the source, where the source is in the host. -/
def execCopy (t id : Nat) (src : List Byte) (s : State) : Host.Outcome State Fault Refusal := .next (doCopy t id src s)

/-- Field checks of FILL (Table 2.6). -/
def fillCheck (_ : State) (d : Desc) : Option Refused :=
  firstOf [(d.u 8 8 % 8 ≠ 0 || partSpace < d.u 8 8 + d.u 16 8, bad 8), (d.u 16 8 % 8 ≠ 0, bad 16)]

/-- `n` copies of a byte string. -/
def repeatBytes (b : List Byte) (n : Nat) : List Byte := (List.replicate n b).flatten

def doFill (t id : Nat) (s : State) : State :=
  runDesc t id 0x03 fillCheck (fun d s =>
    let n := d.u 16 8
    if (policyStop s d.part (d.u 8 8) n).isSome then finish d.id 0x0400 0 0x0E 0 s
    else
      match refusedAt s d.part (d.u 8 8) n true with
      | some a => descMemErr d (.violation a) s
      | none =>
        match writePart d.part (d.u 8 8) (repeatBytes (toBytes 8 (d.u 24 8)) (n / 8)) (.hub 2) s with
        | (some e, s) => descMemErr d e s
        | (none, s) => finish d.id 0 0 (min n 0xFFFFFFFF) 0 s) s

/-- FILL (R523): the pattern over the whole range. -/
def execFill (t id : Nat) (s : State) : Host.Outcome State Fault Refusal := .next (doFill t id s)

/-! ## WAIT and SIGNAL (R106 to R108) -/

/-- Field checks of WAIT (Table 2.6, R106). -/
def waitCheck (_ : State) (d : Desc) : Option Refused := firstOf [(960 ≤ d.u 8 2, bad 8), (2 < d.u 10 1, bad 10)]

/-- The condition a WAIT names. -/
def Desc.want (d : Desc) : SemWant :=
  match d.u 10 1 with
  | 0 => .atLeast (d.u 16 8)
  | 1 => .equal (d.u 16 8)
  | _ => .bits (d.u 16 8)

def doWait (t id : Nat) (s : State) : State :=
  runDesc t id 0x04 waitCheck (fun d s =>
    let v := semVal s d.part (d.u 8 2)
    if d.want.holds v then finish d.id 0 0 0 v s
    else
      modPart d.part (fun x => { x with waits := x.waits ++ [
        { sem := d.u 8 2, who := .desc d.id, want := d.want,
          until_ := if d.u 24 4 = 0 then none else some (s.clk + d.u 24 4 * 1000) }] }) s) s

/-- WAIT (R107, R108): done at once, or queued. -/
def execWait (t id : Nat) (s : State) : Host.Outcome State Fault Refusal := .next (doWait t id s)

/-- Field checks of SIGNAL (Table 2.6, R106). -/
def signalCheck (_ : State) (d : Desc) : Option Refused := firstOf [(960 ≤ d.u 8 2, bad 8), (1 < d.u 10 1, bad 10)]

def doSignal (t id : Nat) (s : State) : State :=
  runDesc t id 0x05 signalCheck (fun d s =>
    finishOk d.id (semOp d.part (d.u 8 2) (d.u 10 1 = 0) (d.u 16 8) s)) s

/-- SIGNAL (R107): set or add, then the waiters it satisfies. -/
def execSignal (t id : Nat) (s : State) : Host.Outcome State Fault Refusal := .next (doSignal t id s)

/-! ## PREEMPT and RESUME (R64) -/

/-- The context is HELD from now on, remembering what it was (Table 3.2). -/
def hold (p slot : Nat) (s : State) : State :=
  changed (modCtx p slot (fun c => { c with before := c.st, st := .held, hold := true }) s)

def preemptBody (d : Desc) (s : State) : State :=
  match d.ctx? with
  | none => s
  | some k =>
    let p := d.part
    match (getCtx s p k).st with
    | .idle | .ready | .heeled => finishOk d.id (wake p (hold p k s))
    | .running | .blocked =>
      heelNow p k .preempt (modCtx p k (fun c => { c with hold := true, preempts := c.preempts ++ [d.id] }) s)
    | .heeling | .replanting => modCtx p k (fun c => { c with hold := true, preempts := c.preempts ++ [d.id] }) s
    | _ => finishOk d.id s

def doPreempt (t id : Nat) (s : State) : State := runDesc t id 0x06 noCheck preemptBody s

/-- PREEMPT (R64). -/
def execPreempt (t id : Nat) (s : State) : Host.Outcome State Fault Refusal := .next (doPreempt t id s)

def resumeBody (d : Desc) (s : State) : State :=
  match d.ctx? with
  | none => s
  | some k =>
    let p := d.part
    if (getCtx s p k).st = .held then
      finishOk d.id (wake p (changed (modCtx p k (fun c =>
        { c with st := c.before, hold := false, readyTime := s.clk }) s)))
    else finishOk d.id s

def doResume (t id : Nat) (s : State) : State := runDesc t id 0x07 noCheck resumeBody s

/-- RESUME (R64): back to the state before the hold. -/
def execResume (t id : Nat) (s : State) : Host.Outcome State Fault Refusal := .next (doResume t id s)

/-! ## DIGEST (R444, R522) -/

/-- Field checks of DIGEST (Table 2.6). -/
def digestCheck (_ : State) (d : Desc) : Option Refused :=
  firstOf [(partSpace < d.u 8 8 + d.u 16 8, bad 8), (d.u 24 8 % 32 ≠ 0, bad 24)]

def doDigest (t id : Nat) (s : State) : State :=
  runDesc t id 0x0B digestCheck (fun d s =>
    let p := d.part
    let a := d.u 8 8
    let n := d.u 16 8
    if (getPart s p).confidential && !((regionsOf s p [2, 3, 4]).any fun r => r.addr = a && r.len = n) then
      finish d.id 0x0400 0 0x0C 0 s
    else
      match readPart p a n (.hub 2) s with
      | (.error e, s) => descMemErr d e s
      | (.ok b, s) =>
        let s := if (getPLink s (fnLink s d.fn)).up then hostWrite (d.u 24 8) (sha3 b) s else s
        finish d.id 0 0 32 0 s) s

/-- DIGEST: SHA3-256 of a partition range goes to host memory. -/
def execDigest (t id : Nat) (s : State) : Host.Outcome State Fault Refusal := .next (doDigest t id s)

/-! ## RECORD (R459, R461) -/

/-- No two of the ranges overlap. -/
def disjoint : List (Nat × Nat) → Bool
  | [] => true
  | x :: r => r.all (fun y => x.1 + x.2 ≤ y.1 || y.1 + y.2 ≤ x.1) && disjoint r

/-- Refusals of RECORD start (R459), of RECORD stop (R459), and of the mode field. -/
def recordCheck (s : State) (d : Desc) : Option Refused :=
  let p := d.part
  let a := d.u 16 8
  let n := d.u 24 8
  let hdr := peek s p a 512
  let regs := (List.range (min 16 (leAt hdr 12 1))).map fun i => (recRegion hdr i, leAt hdr (77 + 16 * i) 3)
  let badRegion := regs.any (fun x => x.1.1 % 64 ≠ 0 || x.1.2.1 % 64 ≠ 0 || x.1.2.1 < 64 || 2 ^ 30 < x.1.2.1 ||
      2 < x.1.2.2 || x.2 ≠ 0 || (refusedAt s p x.1.1 x.1.2.1 false).isSome || !disjoint [(x.1.1, x.1.2.1), (a, n)]) ||
    !disjoint (recRegions hdr 0)
  let active := match d.ctx? with | none => true | some k => (getCtx s p k).recording.isSome
  if 1 < d.u 8 1 then some (bad 8)
  else if d.u 8 1 = 1 then none
  else firstOf [(active, bad 5), (a % 4096 ≠ 0, bad 16), (n % 4096 ≠ 0 || n < 4096, bad 24), (!mapped s p a n true, bad 16),
    (leAt hdr 0 4 ≠ 0x52454331 || leAt hdr 4 2 ≠ 1 || leAt hdr 6 1 ≠ 1 || leAt hdr 7 1 ≠ 0 || 16 < leAt hdr 12 1, bad 16),
    (badRegion, bad 16)]

/-- A partner port of the package is up (GLB_CAP3.ptn_n_up, ptn_s_up). -/
def ptnUp (s : State) (h : Nat) : Bool := linkUp s (8 + h) && (getPtn s h).ok

/-- RECORD start writes its header fields (R459). -/
def recordStart (d : Desc) (s : State) : State :=
  match d.ctx? with
  | none => s
  | some k =>
    let p := d.part
    let a := d.u 16 8
    let n := (getCtx s p k).cores
    let s := poke p (a + 7) ([1#8] ++ toBytes 1 p ++ toBytes 1 k ++ toBytes 2 n) s
    let s := poke p (a + 13) (toBytes 1 (if ptnUp s 0 || ptnUp s 1 then 2 else 1)) s
    let s := poke p (a + 16) (toBytes 4 0 ++ toBytes 4 0 ++ toBytes 8 512 ++ toBytes 8 (hubTime s 0)) s
    finishOk d.id (modCtx p k (fun c => { c with recording := some (a, d.u 24 8, 0, 0, 512) }) s)

/-- The descriptor's mode is `m`. -/
def recordMode (s : State) (id m : Nat) : Bool :=
  match findDesc s id with | none => false | some d => if m = 1 then d.u 8 1 = 1 else d.u 8 1 ≠ 1

def doRecordStart (t id : Nat) (s : State) : State :=
  if recordMode s id 0 then runDesc t id 0x0D recordCheck recordStart s else advance t s

/-- RECORD start (R459). -/
def execRecordStart (t id : Nat) (s : State) : Host.Outcome State Fault Refusal := .next (doRecordStart t id s)

/-- RECORD stop needs an active recording (R459). -/
def recordStopCheck (s : State) (d : Desc) : Option Refused :=
  match d.ctx? with
  | none => some (bad 5)
  | some k => if (getCtx s d.part k).recording.isNone then some (bad 8) else none

def doRecordStop (t id : Nat) (s : State) : State :=
  if recordMode s id 1 then
    runDesc t id 0x0D recordStopCheck
      (fun d s => match d.ctx? with | none => s | some k => finishOk d.id (recStop d.part k 2 s)) s
  else advance t s

/-- RECORD stop (R461): state complete and t_stop. -/
def execRecordStop (t id : Nat) (s : State) : Host.Outcome State Fault Refusal := .next (doRecordStop t id s)

end Sys2Proof.Machine
end

