-- ==== Sys2Proof/Machine/Flags.lean ====
section
/-!
DEFINITION. Flags.lean: the numeric conditions of a core (R155, R219, R220): how an instruction counts them and where
an enabled trap stops the count.
-/
namespace Sys2Proof.Machine

/-- A numeric condition of R155 or R219, in the order of Table 6.8. -/
inductive Cond where
  | sat | const | invalid | overflow | divzero | stochastic | delayed
  deriving DecidableEq, Repr

/-- The numctl bit that traps a condition, if any (R155). -/
def Cond.trapBit : Cond → Option Nat
  | .invalid => some 0 | .overflow => some 1 | .sat => some 2 | .divzero => some 3
  | _ => none

/-- What one instruction has counted so far, under the trap enables of numctl. -/
structure Tally where
  ctl : Nat
  sat : Nat := 0
  const : Nat := 0
  invalid : Nat := 0
  overflow : Nat := 0
  divzero : Nat := 0
  stochastic : Nat := 0
  delayed : Nat := 0
  /-- an enabled condition has been met: nothing after it counts -/
  trapped : Bool := false
  deriving DecidableEq, Repr

/-- Arithmetic that counts conditions. -/
abbrev Num (α : Type) := StateM Tally α

/-- Count a condition; where its trap is enabled, it is the last one counted (R155, R220). -/
def Tally.add (t : Tally) (c : Cond) : Tally :=
  if t.trapped then t
  else
    let t := match c with
      | .sat => { t with sat := t.sat + 1 }
      | .const => { t with const := t.const + 1 }
      | .invalid => { t with invalid := t.invalid + 1 }
      | .overflow => { t with overflow := t.overflow + 1 }
      | .divzero => { t with divzero := t.divzero + 1 }
      | .stochastic => { t with stochastic := t.stochastic + 1 }
      | .delayed => { t with delayed := t.delayed + 1 }
    match c.trapBit with
    | some b => { t with trapped := bit t.ctl b }
    | none => t

/-- Raise a condition. -/
def raise (c : Cond) : Num Unit := modify (·.add c)

/-- A saturating field of numstat with `n` more (R219). -/
def bumpField (v lo w n : Nat) : Nat := setBits v lo w (min (bits v lo w + n) (2 ^ w - 1))

/-- numstat after an instruction (Table 6.7). -/
def Tally.numstat (t : Tally) (v : DWord) : DWord :=
  let v := bumpField v.toNat 0 16 t.sat
  let v := bumpField v 16 16 t.const
  let v := bumpField v 32 16 t.invalid
  let v := bumpField v 48 8 t.overflow
  BitVec.ofNat 64 (bumpField v 56 8 t.divzero)

/-- The counts in the order of Table 6.8. -/
def Tally.counts (t : Tally) : List Nat := [t.sat, t.const, t.invalid, t.overflow, t.divzero, t.stochastic, t.delayed]

/-- Add counts kept with a leaf; they were cut at their trap already. -/
def Tally.join (t : Tally) (l : List Nat) (trap : Bool) : Tally :=
  if t.trapped then t
  else
    { t with sat := t.sat + l.getD 0 0, const := t.const + l.getD 1 0, invalid := t.invalid + l.getD 2 0,
             overflow := t.overflow + l.getD 3 0, divzero := t.divzero + l.getD 4 0,
             stochastic := t.stochastic + l.getD 5 0, delayed := t.delayed + l.getD 6 0, trapped := trap }

/-- A context's totals after an instruction (R220). -/
def Tally.totals (t : Tally) (l : List Nat) : List Nat :=
  (List.range 7).map fun i => satAdd 64 (l.getD i 0) (t.counts.getD i 0)

/-- Put an instruction's counts into numstat of core `g` and the totals of its context; answers whether a trap fires. -/
def applyTally (g : Nat) (t : Tally) (s : State) : Bool × State :=
  let c := getCore s g
  let s := modCore g (fun k => { k with numstat := t.numstat k.numstat }) s
  (t.trapped, modCtx c.part c.slot (fun x => { x with numTotals := t.totals x.numTotals }) s)

end Sys2Proof.Machine
end

