-- ==== Sys2Proof/Machine/Numerics.lean ====
section
/-!
DEFINITION. Numerics.lean: element formats (R186), the one rounding of R189, conversions (R190), FP32 arithmetic and the
special functions of R216 and R217. A finite value is carried exactly, as a sign and a quotient of natural numbers.
-/
namespace Sys2Proof.Machine

/-! ## Exact values -/

/-- A value before its rounding: a NaN, an infinity, or (-1)^neg · n / d with d > 0. -/
inductive Ex where
  | nan
  | inf (neg : Bool)
  | fin (neg : Bool) (n d : Nat)
  deriving DecidableEq, Repr

/-- A floating-point format: mantissa bits, exponent of its smallest subnormal, largest finite code, code of infinity (if
any), canonical NaN, total bits (Table 6.1). -/
structure Fpf where
  man : Nat
  sub : Nat
  maxCode : Nat
  inf : Option Nat
  nan : Nat
  bits : Nat
  deriving DecidableEq, Repr

/-- `sub` is the negated exponent of the smallest subnormal. -/
def e4m3 : Fpf := { man := 3, sub := 9, maxCode := 0x7E, inf := none, nan := 0x7F, bits := 8 }
def e5m2 : Fpf := { man := 2, sub := 16, maxCode := 0x7B, inf := some 0x7C, nan := 0x7E, bits := 8 }
def bf16 : Fpf := { man := 7, sub := 133, maxCode := 0x7F7F, inf := some 0x7F80, nan := 0x7FC0, bits := 16 }
def fp16 : Fpf := { man := 10, sub := 24, maxCode := 0x7BFF, inf := some 0x7C00, nan := 0x7E00, bits := 16 }
def fp32 : Fpf := { man := 23, sub := 149, maxCode := 0x7F7FFFFF, inf := some 0x7F800000, nan := 0x7FC00000, bits := 32 }

/-- n · 2^(a - b) as a quotient. -/
def shiftQ (n a b : Nat) : Nat × Nat := if b ≤ a then (n * 2 ^ (a - b), 1) else (n, 2 ^ (b - a))

/-- The value of a magnitude code of a format. -/
def Fpf.magnitude (f : Fpf) (k : Nat) : Nat × Nat :=
  let e := k / 2 ^ f.man
  let m := k % 2 ^ f.man
  if e = 0 then shiftQ m 0 f.sub else shiftQ (2 ^ f.man + m) (e - 1) f.sub

/-- Decode a code of a floating-point format (R186, R187). -/
def Fpf.decode (f : Fpf) (code : Nat) : Ex :=
  let neg := bit code (f.bits - 1)
  let k := code % 2 ^ (f.bits - 1)
  if f.maxCode < k then
    if f.inf = some k then .inf neg else .nan
  else
    let (n, d) := f.magnitude k
    .fin neg n d

/-- n / d to the nearest integer, ties to even. -/
def roundNE (n d : Nat) : Nat :=
  let q := n / d
  let r := n % d
  if 2 * r < d then q else if d < 2 * r then q + 1 else q + q % 2

/-- floor(log2(n / d)) + `off`, at least 0, for n > 0; `off` is large enough to keep it natural. -/
def log2Q (n d off : Nat) : Nat :=
  let e := Nat.log2 n + off - Nat.log2 d
  -- n / d lies in (2^(e - off - 1), 2^(e - off + 1))
  let (a, b) := if off ≤ e then (n, d * 2 ^ (e - off)) else (n * 2 ^ (off - e), d)
  if a < b then e - 1 else e

/-- Exponent of the grid step above 2^-sub that holds n / d, counted from 0 (R189 step 1). -/
def Fpf.step (f : Fpf) (n d : Nat) : Nat :=
  if n = 0 then 0 else log2Q n d (f.sub + 2048) - (2048 + f.man)

/-- n / d over the grid step `q`. -/
def Fpf.scaled (f : Fpf) (n d q : Nat) : Nat × Nat :=
  let (a, b) := shiftQ 1 f.sub q
  (n * a, d * b)

/-- Magnitude code of n / d rounded to nearest even with no upper limit (R189 step 1). Consecutive grid points have
consecutive codes. -/
def Fpf.roundMag (f : Fpf) (n d : Nat) : Nat :=
  let q := f.step n d
  let (a, b) := f.scaled n d q
  q * 2 ^ f.man + roundNE a b

/-- The magnitude code at or below n / d, and whether n / d is on the grid. -/
def Fpf.floorMag (f : Fpf) (n d : Nat) : Nat × Bool :=
  let q := f.step n d
  let (a, b) := f.scaled n d q
  (q * 2 ^ f.man + a / b, a % b = 0)

def signBit (f : Fpf) (neg : Bool) : Nat := if neg then 2 ^ (f.bits - 1) else 0

/-- A magnitude code after step 1 becomes a code of the format (R189 steps 2 and 3). -/
def Fpf.limit (f : Fpf) (neg : Bool) (k : Nat) : Num Nat :=
  if k ≤ f.maxCode then pure (signBit f neg + k)
  else if f.bits = 32 then do
    raise .overflow
    pure (signBit f neg + 0x7F800000)
  else do
    raise .sat
    pure (signBit f neg + f.maxCode)

/-- Infinity in a format: itself, or the largest finite value with a saturation (Table 6.2). -/
def Fpf.infinity (f : Fpf) (neg : Bool) : Num Nat :=
  match f.inf with
  | some k => pure (signBit f neg + k)
  | none => do
    raise .sat
    pure (signBit f neg + f.maxCode)

/-- Convert an exact value into a floating-point format, nearest even (R189, Table 6.2). -/
def Fpf.encode (f : Fpf) : Ex → Num Nat
  | .nan => pure f.nan
  | .inf neg => f.infinity neg
  | .fin neg n d => f.limit neg (f.roundMag n d)

/-- Convert with a 24-bit random word (R215). -/
def Fpf.encodeSr (f : Fpf) (r : Nat) : Ex → Num Nat
  | .nan => pure f.nan
  | .inf neg => f.infinity neg
  | .fin neg n d =>
    let (k, exact) := f.floorMag n d
    if exact then f.limit neg k
    else
      let (ln, ld) := f.magnitude k
      let (hn, hd) := f.magnitude (k + 1)
      -- r · (hi - lo) < (v - lo) · 2^24, over the common denominator d · ld · hd
      if r * ((hn * ld - ln * hd) * d) < (n * ld - ln * d) * hd * 2 ^ 24 then f.limit neg (k + 1)
      else f.limit neg k

/-- Round to an integer with bounds: clamped, counting a saturation (Table 6.2). -/
def toInt (lo hi : Int) (x : Ex) : Num Int :=
  match x with
  | .nan => do
    raise .sat
    pure 0
  | .inf neg => do
    raise .sat
    pure (if neg then lo else hi)
  | .fin neg n d =>
    let k : Int := if neg then -(roundNE n d : Int) else (roundNE n d : Int)
    if k < lo then do
      raise .sat
      pure lo
    else if hi < k then do
      raise .sat
      pure hi
    else pure k

/-- As `toInt`, with a 24-bit random word (R215). -/
def toIntSr (lo hi : Int) (r : Nat) (x : Ex) : Num Int :=
  match x with
  | .fin neg n d =>
    let q := n / d
    let k := if n % d ≠ 0 && r * d < (n % d) * 2 ^ 24 then q + 1 else q
    toInt lo hi (.fin neg k 1)
  | x => toInt lo hi x

/-! ## Element formats (R186) -/

/-- Bits of an element. -/
def elemBits (fmt : Nat) : Nat :=
  match fmt with
  | 0 => 8 | 1 => 8 | 2 => 4 | 3 => 8 | 4 => 8 | 5 => 16 | 6 => 16 | 7 => 32 | 8 => 4 | 9 => 8 | 10 => 32
  | _ => 8

/-- The floating-point format of a format code. -/
def fpOf (fmt : Nat) : Option Fpf :=
  match fmt with
  | 3 => some e4m3 | 4 => some e5m2 | 5 => some bf16 | 6 => some fp16 | 7 => some fp32
  | _ => none

/-- An exact integer. -/
def Ex.ofInt (i : Int) : Ex := .fin (i < 0) i.natAbs 1

/-- The value of an element code; CB4 and CB8 codes are looked up before (R193). -/
def elemVal (fmt code : Nat) : Ex :=
  match fmt with
  | 0 => .ofInt (sext 8 code)
  | 1 => .ofInt code
  | 2 => .ofInt (sext 4 code)
  | 10 => .ofInt (sext 32 code)
  | _ => match fpOf fmt with | some f => f.decode code | none => bf16.decode code

/-- Bounds of an integer format. -/
def intRange (fmt : Nat) : Int × Int :=
  match fmt with
  | 0 => (-128, 127) | 1 => (0, 255) | 2 => (-8, 7)
  | _ => (-2147483648, 2147483647)

/-- Convert an exact value into an element code (R190); `r` is the random word where rounding is stochastic. -/
def toElem (fmt : Nat) (r : Option Nat) (x : Ex) : Num Nat :=
  match fpOf fmt, r with
  | some f, none => f.encode x
  | some f, some r => f.encodeSr r x
  | none, none => do
    let k ← toInt (intRange fmt).1 (intRange fmt).2 x
    pure (wrap (elemBits fmt) k)
  | none, some r => do
    let k ← toIntSr (intRange fmt).1 (intRange fmt).2 r x
    pure (wrap (elemBits fmt) k)

/-- An FP32 word as an exact value. -/
def f32 (w : Word) : Ex := fp32.decode w.toNat

/-- Round an exact value to FP32 (R189). -/
def round32 (x : Ex) : Num Word := do
  let k ← fp32.encode x
  pure (BitVec.ofNat 32 k)

/-- The canonical FP32 NaN and other constants. -/
def nan32 : Word := 0x7FC00000
def one32 : Word := 0x3F800000
def half32 : Word := 0x3F000000

/-! ## Exact arithmetic -/

/-- Signed numerator of a finite value. -/
def sgn (neg : Bool) (n : Nat) : Int := if neg then -(n : Int) else (n : Int)

/-- Exact sum; the sign of an exact zero is that of IEEE 754, nearest even. None where it is invalid. -/
def Ex.add : Ex → Ex → Option Ex
  | .nan, _ => some .nan
  | _, .nan => some .nan
  | .inf a, .inf b => if a = b then some (.inf a) else none
  | .inf a, _ => some (.inf a)
  | _, .inf b => some (.inf b)
  | .fin a n d, .fin b m e =>
    let v := sgn a (n * e) + sgn b (m * d)
    if v = 0 then some (.fin (a && b) 0 1) else some (.fin (v < 0) v.natAbs (d * e))

/-- Exact product. None where it is invalid (0 · ∞). -/
def Ex.mul : Ex → Ex → Option Ex
  | .nan, _ => some .nan
  | _, .nan => some .nan
  | .inf a, .inf b => some (.inf (a != b))
  | .inf a, .fin b m _ => if m = 0 then none else some (.inf (a != b))
  | .fin a n _, .inf b => if n = 0 then none else some (.inf (a != b))
  | .fin a n d, .fin b m e => some (.fin (a != b) (n * m) (d * e))

def Ex.neg : Ex → Ex
  | .nan => .nan
  | .inf a => .inf (!a)
  | .fin a n d => .fin (!a) n d

def Ex.abs : Ex → Ex
  | .nan => .nan
  | .inf _ => .inf false
  | .fin _ n d => .fin false n d

def Ex.isNan : Ex → Bool
  | .nan => true
  | _ => false

def Ex.finite : Ex → Bool
  | .fin _ _ _ => true
  | _ => false

def Ex.isZero : Ex → Bool
  | .fin _ 0 _ => true
  | _ => false

/-- Exact order of two values that are not NaN; the zeros are equal. -/
def Ex.lt : Ex → Ex → Bool
  | .nan, _ => false
  | _, .nan => false
  | .inf a, .inf b => a && !b
  | .inf a, _ => a
  | _, .inf b => !b
  | .fin a n d, .fin b m e => sgn a (n * e) < sgn b (m * d)

/-- Round an operation's result to FP32; an invalid one gives the canonical NaN. -/
def finish32 (x : Option Ex) : Num Word :=
  match x with
  | some v => round32 v
  | none => do
    raise .invalid
    pure nan32

/-! ## FP32 operations (R170, R189) -/

def addF (a b : Word) : Num Word := finish32 ((f32 a).add (f32 b))
def subF (a b : Word) : Num Word := finish32 ((f32 a).add (f32 b).neg)
def mulF (a b : Word) : Num Word := finish32 ((f32 a).mul (f32 b))

/-- a · b + c, rounded once. -/
def fmaF (a b c : Word) : Num Word :=
  finish32 (match (f32 a).mul (f32 b) with
    | none => if (f32 c).isNan then some .nan else none
    | some p => p.add (f32 c))

/-- Exact quotient; conditions of R155 are raised. -/
def divEx (a b : Ex) : Num (Option Ex) :=
  match a, b with
  | .nan, _ => pure (some .nan)
  | _, .nan => pure (some .nan)
  | .inf _, .inf _ => pure none
  | .inf x, .fin y _ _ => pure (some (.inf (x != y)))
  | .fin x _ _, .inf y => pure (some (.fin (x != y) 0 1))
  | .fin x n d, .fin y m e =>
    if m = 0 then
      if n = 0 then pure none
      else do
        raise .divzero
        pure (some (.inf (x != y)))
    else pure (some (.fin (x != y) (n * e) (d * m)))

def divF (a b : Word) : Num Word := do
  let q ← divEx (f32 a) (f32 b)
  finish32 q

/-- Magnitude and sign changes do not round. -/
def absF (a : Word) : Word := if (f32 a).isNan then nan32 else a &&& 0x7FFFFFFF
def negF (a : Word) : Word := if (f32 a).isNan then nan32 else a ^^^ 0x80000000

/-- Maximum and minimum by R218. -/
def maxF (a b : Word) : Word :=
  if (f32 a).isNan || (f32 b).isNan then nan32
  else if (f32 a).isZero && (f32 b).isZero then a &&& b
  else if (f32 a).lt (f32 b) then b else a

def minF (a b : Word) : Word :=
  if (f32 a).isNan || (f32 b).isNan then nan32
  else if (f32 a).isZero && (f32 b).isZero then a ||| b
  else if (f32 b).lt (f32 a) then b else a

/-! ## Enclosures of the special functions (R216) -/

/-- Lower and upper bound in units of 2^-p. -/
abbrev Encl := Nat × Nat

/-- Ceiling of a quotient. -/
def ceilDiv (a b : Nat) : Nat := (a + b - 1) / b

/-- Taylor sum of exp at y = [ylo, yhi] / 2^p, y ≤ 1/2: the sum, the last term, and the terms left. -/
def expTaylor (p ylo yhi : Nat) : (n k tlo thi slo shi : Nat) → Encl
  | 0, _, _, thi, slo, shi => (slo, shi + 2 * thi + 2)
  | n + 1, k, tlo, thi, slo, shi =>
    let tlo := tlo * ylo / (k * 2 ^ p)
    let thi := ceilDiv (thi * yhi) (k * 2 ^ p)
    expTaylor p ylo yhi n (k + 1) tlo thi (slo + tlo) (shi + thi)

/-- Square an enclosure `n` times. -/
def squares (p : Nat) : (n : Nat) → Encl → Encl
  | 0, e => e
  | n + 1, (lo, hi) => squares p n (lo * lo / 2 ^ p, ceilDiv (hi * hi) (2 ^ p))

/-- exp(n / d) for 0 ≤ n / d ≤ 256, in units of 2^-p. -/
def expEncl (p n d : Nat) : Encl :=
  let ylo := n * 2 ^ p / (d * 2 ^ 9)
  let yhi := ceilDiv (n * 2 ^ p) (d * 2 ^ 9)
  squares p 9 (expTaylor p ylo yhi (p / 4) 1 (2 ^ p) (2 ^ p) (2 ^ p) (2 ^ p))

/-- Sum of z^(2k+1) / (2k+1) for z = [zlo, zhi] / 2^p, z ≤ 1/3. -/
def atanhSum (p zlo zhi : Nat) : (n k tlo thi slo shi : Nat) → Encl
  | 0, _, _, thi, slo, shi => (slo, shi + thi + 2)
  | n + 1, k, tlo, thi, slo, shi =>
    let slo := slo + tlo / k
    let shi := shi + ceilDiv thi k
    let tlo := tlo * zlo / 2 ^ p * zlo / 2 ^ p
    let thi := ceilDiv (ceilDiv (thi * zhi) (2 ^ p) * zhi) (2 ^ p)
    atanhSum p zlo zhi n (k + 2) tlo thi slo shi

/-- log(n / d) for 1 ≤ n / d ≤ 2, in units of 2^-p. -/
def logEncl (p n d : Nat) : Encl :=
  let zlo := (n - d) * 2 ^ p / (n + d)
  let zhi := ceilDiv ((n - d) * 2 ^ p) (n + d)
  let (lo, hi) := atanhSum p zlo zhi (p / 3 + 2) 1 zlo zhi 0 0
  (2 * lo, 2 * hi)

/-- A signed quotient. -/
structure SQ where
  n : Int
  d : Nat
  deriving DecidableEq, Repr

def SQ.ex (x : SQ) : Ex := .fin (x.n < 0) x.n.natAbs x.d

/-- Round between bounds: at precisions 96, 192 and so on, the first at which both bounds round alike. -/
def settleEncl (f : Fpf) (encl : Nat → SQ × SQ) : (fuel p : Nat) → Ex
  | 0, p => (encl p).1.ex
  | n + 1, p =>
    let (lo, hi) := encl p
    let ok := (lo.n < 0) = (hi.n < 0) && f.roundMag lo.n.natAbs lo.d = f.roundMag hi.n.natAbs hi.d
    if ok then lo.ex else settleEncl f encl n (2 * p)

/-- exp of a finite value between bounds. -/
def expBounds (neg : Bool) (n d p : Nat) : SQ × SQ :=
  let (lo, hi) := expEncl p n d
  if neg then (⟨2 ^ p, hi⟩, ⟨2 ^ p, lo⟩) else (⟨lo, 2 ^ p⟩, ⟨hi, 2 ^ p⟩)

/-- The exact exp of a finite value, as a value that rounds to FP32 as it does. -/
def expEx (neg : Bool) (n d : Nat) : Ex :=
  if 128 * d < n then (if neg then .fin false 1 (2 ^ 200) else .fin false (2 ^ 200) 1)
  else settleEncl fp32 (expBounds neg n d) 5 96

/-- log of a positive finite value between bounds. -/
def logBounds (n d p : Nat) : SQ × SQ :=
  let e : Int := (log2Q n d 400 : Int) - 400
  let (a, b) := if 0 ≤ e then (n, d * 2 ^ e.toNat) else (n * 2 ^ (-e).toNat, d)
  let (lo, hi) := logEncl p a b
  let (l2, h2) := logEncl p 2 1
  if 0 ≤ e then (⟨lo + e * l2, 2 ^ p⟩, ⟨hi + e * h2, 2 ^ p⟩)
  else (⟨lo + e * h2, 2 ^ p⟩, ⟨hi + e * l2, 2 ^ p⟩)

/-- sigmoid of a finite value between bounds. -/
def sigBounds (neg : Bool) (n d p : Nat) : SQ × SQ :=
  let (lo, hi) := expEncl p n d
  if neg then (⟨2 ^ p, hi + 2 ^ p⟩, ⟨2 ^ p, lo + 2 ^ p⟩) else (⟨lo, lo + 2 ^ p⟩, ⟨hi, hi + 2 ^ p⟩)

/-- tanh of a finite value between bounds, by exp of twice its magnitude. -/
def tanhBounds (neg : Bool) (n d p : Nat) : SQ × SQ :=
  let (lo, hi) := expEncl p (2 * n) d
  let a : SQ := ⟨lo - 2 ^ p, lo + 2 ^ p⟩
  let b : SQ := ⟨hi - 2 ^ p, hi + 2 ^ p⟩
  if neg then (⟨-b.n, b.d⟩, ⟨-a.n, a.d⟩) else (a, b)

/-- Integer square root by `n` bits from the top. -/
def isqrtGo (v : Nat) : (n r : Nat) → Nat
  | 0, r => r
  | n + 1, r => let c := r + 2 ^ n; isqrtGo v n (if c * c ≤ v then c else r)

/-- Integer square root. -/
def isqrt (v : Nat) : Nat := isqrtGo v (Nat.log2 v / 2 + 1) 0

/-- A value that rounds to FP32 (or with up to 60 bits) as the square root of n / d does. -/
def sqrtEx (n d : Nat) : Ex :=
  let v := n * 2 ^ 800 / d
  let r := isqrt v
  let exact := r * r * d = n * 2 ^ 800
  .fin false (2 * r + if exact then 0 else 1) (2 ^ 401)

/-! ## The special functions -/

def expF (x : Word) : Num Word :=
  match f32 x with
  | .nan => pure nan32
  | .inf neg => pure (if neg then 0 else 0x7F800000)
  | .fin neg n d => round32 (expEx neg n d)

def logF (x : Word) : Num Word :=
  match f32 x with
  | .nan => pure nan32
  | .inf false => pure 0x7F800000
  | .inf true => finish32 none
  | .fin neg n d =>
    if n = 0 then do
      raise .divzero
      pure 0xFF800000
    else if neg then finish32 none
    else if n = d then pure 0
    else round32 (settleEncl fp32 (logBounds n d) 5 96)

def recipF (x : Word) : Num Word := divF one32 x

def rsqrtF (x : Word) : Num Word :=
  match f32 x with
  | .nan => pure nan32
  | .inf false => pure 0
  | .inf true => finish32 none
  | .fin neg n d =>
    if n = 0 then do
      raise .divzero
      pure (if neg then 0xFF800000 else 0x7F800000)
    else if neg then finish32 none
    else round32 (sqrtEx d n)

def sigmoidF (x : Word) : Num Word :=
  match f32 x with
  | .nan => pure nan32
  | .inf neg => pure (if neg then 0 else one32)
  | .fin neg n d =>
    if 128 * d < n then round32 (if neg then .fin false 1 (2 ^ 200) else .fin false 1 1)
    else round32 (settleEncl fp32 (sigBounds neg n d) 5 96)

def tanhF (x : Word) : Num Word :=
  match f32 x with
  | .nan => pure nan32
  | .inf neg => pure (if neg then 0xBF800000 else one32)
  | .fin neg n d =>
    if n = 0 then pure x
    else if 64 * d < n then pure (if neg then 0xBF800000 else one32)
    else round32 (settleEncl fp32 (tanhBounds neg n d) 5 96)

/-- gelu in the tanh form (R217). -/
def geluF (x : Word) : Num Word := do
  let x2 ← mulF x x
  let x3 ← mulF x2 x
  let u ← fmaF 0x3D372713 x3 x
  let cu ← mulF 0x3F4C422A u
  let t ← tanhF cu
  let h ← mulF half32 x
  let o ← addF one32 t
  mulF h o

/-- silu (R217). -/
def siluF (x : Word) : Num Word := do
  let g ← sigmoidF x
  mulF x g

/-! ## Stochastic words (R213) -/

def u64 (n : Nat) : Nat := n % 2 ^ 64

def mix64 (z : Nat) : Nat :=
  let z := u64 ((z ^^^ (z >>> 30)) * 0xBF58476D1CE4E5B9)
  let z := u64 ((z ^^^ (z >>> 27)) * 0x94D049BB133111EB)
  z ^^^ (z >>> 31)

/-- The 24-bit random word of an element (R213, R214). -/
def srWord (seed coreIdx out srCount index : Nat) : Nat :=
  let stream := u64 (coreIdx * 2 ^ 48) ||| u64 (out * 2 ^ 40) ||| srCount
  mix64 (u64 (mix64 (seed ^^^ mix64 stream) + index)) >>> 40

/-! ## Trees (R127, R171) -/

/-- One level of pairing; an element without a partner passes up unchanged. -/
def pairUp {α : Type} (f : α → α → Num α) : List α → Num (List α)
  | a :: b :: r => do
    let x ← f a b
    let rest ← pairUp f r
    pure (x :: rest)
  | l => pure l

/-- The fixed binary tree over leaves in order: combine of R127. `n` bounds the levels. -/
def tree {α : Type} (f : α → α → Num α) (d : α) : (n : Nat) → List α → Num α
  | _, [] => pure d
  | _, [x] => pure x
  | 0, x :: _ => pure x
  | n + 1, l => do
    let l ← pairUp f l
    tree f d n l

/-- The tree over up to 2^20 leaves. -/
def treeOf (f : Word → Word → Num Word) (l : List Word) : Num Word := tree f 0 20 l

end Sys2Proof.Machine
end

