-- ==== Sys2Proof/Machine/Operands.lean ====
section
/-!
DEFINITION. Operands.lean: what an instruction of a core reads and writes: instruction fields (Table 5.4), tensor
descriptors (R156 to R158), scratchpad and accumulators with their error checking (R138, R142), scale records (R197 to
R202), and tensor elements as values (R203, R204).
-/
namespace Sys2Proof.Machine

/-! ## Instruction fields -/

/-- A field of an instruction word. -/
def wf (w : InstrWord) (lo n : Nat) : Nat := bits w.toNat lo n

/-- Flag `i` (Table 5.2). -/
def flag (w : InstrWord) (i : Nat) : Bool := bit w.toNat (111 + i)

/-- No bit outside `fields` is set; opcode and predicate are given to every instruction (R151). -/
def onlyBits (w : InstrWord) (fields : List (Nat × Nat)) : Bool :=
  let m := ([(122, 6), (117, 5), (116, 1)] ++ fields).foldl (fun a (f : Nat × Nat) => a ||| ((2 ^ f.2 - 1) <<< f.1)) 0
  w.toNat &&& m = w.toNat

/-! ## Faults of an instruction -/

/-- Why an instruction stops. -/
inductive XErr where
  /-- a cause of Table 5.7, with the address for aux -/
  | cause (c aux : Nat)
  /-- partition memory (Table 12.2) -/
  | mem (e : MemErr)
  /-- a double-bit error in the SRAM of a core: global core and SRAM offset (R142) -/
  | sram (g off : Nat)
  deriving DecidableEq, Repr

/-- The machine and the conditions counted, while an instruction runs. -/
structure Vst where
  s : State
  t : Tally

/-- What an instruction computes with. -/
abbrev Xm (α : Type) := ExceptT XErr (StateM Vst) α

/-- Stop with a cause. -/
def stopX {α : Type} (c : Nat) (aux : Nat := 0) : Xm α := throw (.cause c aux)

/-- Stop with a cause unless the condition holds. -/
def need (c : Nat) (ok : Bool) : Xm Unit := if ok then pure () else stopX c

/-- Run arithmetic that counts conditions. -/
def num {α : Type} (m : Num α) : Xm α := do
  let v ← get
  let (a, t) := m.run v.t
  set { v with t := t }
  pure a

/-- Read the machine. -/
def peekX {α : Type} (f : State → α) : Xm α := do
  let v ← get
  pure (f v.s)

/-- Change the machine. -/
def actX (f : State → State) : Xm Unit := modify fun v => { v with s := f v.s }

/-- Do a thing for each element of a list, in order. -/
def eachX {α : Type} (f : α → Xm Unit) : List α → Xm Unit
  | [] => pure ()
  | a :: r => do
    f a
    eachX f r

/-- Compute a thing for each element of a list, in order. -/
def mapX {α β : Type} (f : α → Xm β) : List α → Xm (List β)
  | [] => pure []
  | a :: r => do
    let b ← f a
    let bs ← mapX f r
    pure (b :: bs)

/-- Compute with conditions for each element of a list, in order. -/
def mapN {α β : Type} (f : α → Num β) : List α → Num (List β)
  | [] => pure []
  | a :: r => do
    let b ← f a
    let bs ← mapN f r
    pure (b :: bs)

/-! ## Scratchpad and accumulators -/

/-- Count one more in counter `i` of a core unless frozen (R146). -/
def countCore (g i n : Nat) (s : State) : State :=
  if fld s ((Blk.core g).base + 0x20) 1 1 = 1 then s
  else modCore g (fun c => { c with cnt := tabMod dNat c.cnt i fun v => satAdd 64 v n }) s

/-- Accumulator lines are numbered from here in a core's error table. -/
def accLine0 : Nat := 0x10000

/-- An injection flips one or two bits of the next word read (Table 14.10). -/
def injSram (g line : Nat) (s : State) : State :=
  let flip (v : Nat) (s : State) : State := modCore g (fun k => { k with ecc := tabSet dNat k.ecc line v }) s
  if injLive s 0x0401 g then injUse (flip 1 s)
  else if injLive s 0x0402 g then injUse (flip 2 s)
  else s

/-- Read-time correction of the lines of a range: single-bit errors are corrected, counted and recorded; the first
double-bit error stops (R142). -/
def eccCheck (g off n : Nat) (acc : Bool) : Xm Unit := do
  let l0 := off / 64 + if acc then accLine0 else 0
  actX fun s => if n = 0 then s else injSram g l0 s
  let c ← peekX fun s => getCore s g
  let cnt := if n = 0 then 0 else (off + n - 1) / 64 - off / 64 + 1
  eachX (fun e => do
    let at_ := if acc then 0x300000 + (e.1 - accLine0) * 64 else e.1 * 64
    if e.2 = 2 then throw (.sram g at_)
    else actX fun s =>
      let s := modCore g (fun k => { k with ecc := tabErase k.ecc e.1 1 }) s
      record (2 + g / 32) 0x0401 [.id1 (g / 32), .id1 (g % 32), .loc4 at_] c.part c.slot (countCore g 11 1 s))
    (tabSlice c.ecc l0 cnt)

/-- Bytes of a core's scratchpad; a line never written reads as zeros (R138). -/
def spRead (g off n : Nat) : Xm (List Byte) := do
  eccCheck g off n false
  peekX fun s => getBytes (getCore s g).sp off n

/-- Bytes of a core's accumulators. -/
def accRead (g off n : Nat) : Xm (List Byte) := do
  eccCheck g off n true
  peekX fun s => getBytes (getCore s g).acc off n

/-- Store bytes in a core's accumulators. -/
def Core.putAcc (c : Core) (off : Nat) (bs : List Byte) : Core :=
  if bs.isEmpty then c
  else
    let l0 := off / 64
    let lines := (List.range ((off + bs.length - 1) / 64 - l0 + 1)).map (l0 + ·)
    { c with acc := putBytes c.acc off bs,
             accValid := lines.foldl (fun t l => tabSet dBool t l true) c.accValid,
             ecc := c.ecc.filter fun e => !(accLine0 + l0 ≤ e.1 && e.1 < accLine0 + l0 + lines.length) }

def spWrite (g off : Nat) (bs : List Byte) : Xm Unit := actX (modCore g fun c => c.putSp off bs)
def accWrite (g off : Nat) (bs : List Byte) : Xm Unit := actX (modCore g fun c => c.putAcc off bs)

/-! ## Tensor descriptors (R156 to R158) -/

/-- A tensor descriptor taken apart (Table 5.6a). -/
structure Td where
  raw : List Byte
  base : Nat
  space : Nat
  peer : Nat
  fmt : Nat
  sf : Nat
  rank : Nat
  cb : Nat
  perTile : Bool
  /-- dim0 to dim4 -/
  dims : List Nat
  /-- strides of dims 1 to 4 -/
  strides : List Nat
  scaleOff : Nat
  block0 : Nat
  deriving DecidableEq, Repr

/-- The fields of a descriptor register. -/
def Td.of (d : DescWord) : Td :=
  let b := toBytes 64 d.toNat
  { raw := b, base := leAt b 0 8, space := leAt b 8 1 % 16, peer := leAt b 9 1, fmt := leAt b 10 1 % 16,
    sf := bits (leAt b 10 1) 4 2, rank := leAt b 11 1, cb := leAt b 13 1 % 64, perTile := bit (leAt b 13 1) 6,
    dims := (List.range 5).map fun i => leAt b (16 + 4 * i) 4,
    strides := (List.range 4).map fun i => leAt b (36 + 4 * i) 4,
    scaleOff := leAt b 52 4, block0 := leAt b 56 2 }

def Td.dim (t : Td) (i : Nat) : Nat := t.dims.getD i 1
def Td.stride (t : Td) (i : Nat) : Nat := t.strides.getD (i - 1) 0

/-- Bits of an element. -/
def Td.ebits (t : Td) : Nat := elemBits t.fmt

/-- Bytes of dim0. -/
def Td.rowBytes (t : Td) : Nat := t.dim 0 * t.ebits / 8

/-- Byte extent of dims 0 to `i`. -/
def Td.extent (t : Td) : (i : Nat) → Nat
  | 0 => t.rowBytes
  | i + 1 => (t.dim (i + 1) - 1) * t.stride (i + 1) + t.extent i

/-- Bytes from base to the end of the span (R158). -/
def Td.span (t : Td) : Nat := t.extent 4

/-- INT32 or FP32 in the accumulators, where they belong (R157). -/
def Td.isInt32 (t : Td) : Bool := t.fmt = 10

/-- The descriptor passes R157; `dst` for a destination. -/
def Td.ok (t : Td) (dst : Bool) : Bool :=
  let b := t.raw
  leAt b 12 1 = 1 && leAt b 8 1 < 4 && (t.space = 3 || t.peer = 0) && leAt b 10 1 < 0x30 && t.fmt ≤ 10 &&
    leAt b 13 1 < 128 && leAt b 14 2 = 0 && (b.drop 58).all (· = 0) && (t.sf ≠ 0 || t.scaleOff = 0) &&
    1 ≤ t.rank && t.rank ≤ 5 &&
    (List.range 5).all (fun i => if i < t.rank then t.dim i ≠ 0 else t.dim i = 1) &&
    (t.fmt ≠ 10 || t.space = 1) && (t.space ≠ 1 || t.fmt = 7 || t.fmt = 10) &&
    t.base % max 1 (t.ebits / 8) = 0 && (t.ebits ≠ 4 || t.dim 0 % 2 = 0) &&
    (!dst || (List.range (t.rank - 1)).all fun i => t.stride (i + 1) ≠ 0 && t.extent i ≤ t.stride (i + 1)) &&
    t.scaleOff % 64 = 0 && (t.fmt ≠ 9 || t.cb ≤ 3)

/-- The span lies in its space (R158): the cause and aux where it does not. -/
def Td.spanErr (s : State) (g : Nat) (t : Td) (wr : Bool) : Option (Nat × Nat) :=
  let c := getCore s g
  match t.space with
  | 0 => if t.base + t.span ≤ 0x300000 then none else some (0x09, 0)
  | 1 => if t.base + t.span ≤ 0x40000 then none else some (0x09, 0)
  | 2 =>
    if t.base + t.span ≤ partSpace then (refusedAt s c.part t.base t.span wr).map fun a => (0x09, a)
    else some (0x09, max t.base partSpace)
  | _ =>
    if (getCtx s c.part c.slot).cores ≤ t.peer then some (0x10, 0)
    else if t.base + t.span ≤ 0x300000 then none else some (0x09, 0)

/-- Check step 8 of Table 5.6 for a descriptor. -/
def needSpan (g : Nat) (t : Td) (wr : Bool) : Xm Unit := do
  let e ← peekX fun s => t.spanErr s g wr
  match e with
  | none => pure ()
  | some (c, a) => stopX c a

/-- The core a space refers to: the own core, or a peer of its context. -/
def Td.core (s : State) (g : Nat) (t : Td) : Nat :=
  if t.space = 3 then
    let c := getCore s g
    (getCtx s c.part c.slot).place.getD t.peer g
  else g

/-- Bytes of a tensor's space. -/
def spaceRead (g : Nat) (t : Td) (a n : Nat) : Xm (List Byte) := do
  match t.space with
  | 1 => accRead g a n
  | 2 => do
    let v ← get
    let c := getCore v.s g
    let (r, s) := readPart c.part a n (.ctx c.part c.slot) v.s
    set { v with s := s }
    match r with
    | .ok bs => pure bs
    | .error e => throw (.mem e)
  | _ => do
    let k ← peekX fun s => t.core s g
    spRead k a n

/-- Store bytes in a tensor's space. -/
def spaceWrite (g : Nat) (t : Td) (a : Nat) (bs : List Byte) : Xm Unit := do
  match t.space with
  | 1 => accWrite g a bs
  | 2 => do
    let v ← get
    let c := getCore v.s g
    let (e, s) := writeCtx c.part c.slot a bs v.s
    set { v with s := s }
    match e with
    | none => pure ()
    | some e => throw (.mem e)
  | _ => do
    let k ← peekX fun s => t.core s g
    spWrite k a bs

/-! ## Elements -/

/-- The multi-indices of dims 1 to 4 in order, lower dimension inner. -/
def rowIdx (dims : List Nat) : List (List Nat) :=
  let d (i : Nat) := List.range (dims.getD i 1)
  (d 4).flatMap fun l => (d 3).flatMap fun k => (d 2).flatMap fun j => (d 1).map fun i => [i, j, k, l]

/-- Byte offset of a row. -/
def Td.rowOff (t : Td) (ix : List Nat) : Nat :=
  ((List.range 4).map fun i => ix.getD i 0 * t.stride (i + 1)).sum

/-- Number of a row over all dimensions above dim0 (R196). -/
def Td.rowNo (t : Td) (ix : List Nat) : Nat :=
  ix.getD 0 0 + t.dim 1 * (ix.getD 1 0 + t.dim 2 * (ix.getD 2 0 + t.dim 3 * ix.getD 3 0))

/-- Take a byte string apart into element codes (R186). -/
def unpack (ebits : Nat) (bs : List Byte) : List Nat :=
  if ebits = 4 then bs.flatMap fun b => [b.toNat % 16, b.toNat / 16]
  else
    let n := max 1 (ebits / 8)
    (List.range (bs.length / n)).map fun i => leAt bs (i * n) n

/-- Pairs of 4-bit codes to bytes. -/
def packNibbles : List Nat → List Byte
  | a :: b :: r => BitVec.ofNat 8 (a % 16 + b % 16 * 16) :: packNibbles r
  | [a] => [BitVec.ofNat 8 (a % 16)]
  | [] => []

/-- Element codes to bytes (R186). -/
def pack (ebits : Nat) (codes : List Nat) : List Byte :=
  if ebits = 4 then packNibbles codes else codes.flatMap fun c => toBytes (ebits / 8) c

/-- The element codes of a row. -/
def rowCodes (g : Nat) (t : Td) (ix : List Nat) : Xm (List Nat) := do
  let bs ← spaceRead g t (t.base + t.rowOff ix) t.rowBytes
  pure (unpack t.ebits bs)

/-- Store a row of element codes. -/
def putCodes (g : Nat) (t : Td) (ix : List Nat) (codes : List Nat) : Xm Unit :=
  spaceWrite g t (t.base + t.rowOff ix) (pack t.ebits codes)

/-- Code of one element. -/
def elemCode (g : Nat) (t : Td) (i0 : Nat) (ix : List Nat) : Xm Nat := do
  let a := t.base + t.rowOff ix + i0 * t.ebits / 8
  let bs ← spaceRead g t a (max 1 (t.ebits / 8))
  let n := ofBytes bs
  pure (if t.ebits = 4 then (if i0 % 2 = 0 then n % 16 else n / 16) else n)

/-! ## Codebooks (R157, R193) -/

def dCode (_ : Nat) : BitVec 16 := 0

/-- The value of an element code, through the codebook of n-tile `tile` for CB4 and CB8. -/
def codeVal (s : State) (g : Nat) (t : Td) (tile code : Nat) : Ex :=
  let store := (getCore s g).code
  if t.fmt = 8 then
    bf16.decode (tabGet dCode store (16 * (if t.perTile then (t.cb + tile) % 64 else t.cb) + code)).toNat
  else if t.fmt = 9 then
    bf16.decode (tabGet dCode store (256 * (if t.perTile then (t.cb + tile) % 4 else t.cb) + code)).toNat
  else elemVal t.fmt code

/-- The n-tile whose codebook a vector instruction uses at index i1 (R157). -/
def Td.tileAt (t : Td) (ix : List Nat) : Nat := ix.getD 0 0 / (if t.fmt = 8 then 64 else 32)

/-! ## Scale records (R197 to R202) -/

/-- The scaled tensor is asymmetric (R202). -/
def Td.asym (t : Td) : Bool := t.fmt = 1 && t.sf ≠ 0

/-- Offset of the record of block `x`. -/
def Td.recOff (t : Td) (x : Nat) : Nat := t.scaleOff + (if t.asym then 128 else 64) * (x / 30)

/-- The slot of a sound record holds block `x` (R199). -/
def recOk (r : List Byte) (block0 x sf : Nat) (offset : Bool) : Bool :=
  let n := leAt r 2 1
  leAt r 0 2 = (block0 + 30 * (x / 30)) % 65536 && x % 30 < n % 32 && bit n 6 = offset &&
    (leAt r 3 1 = crc8 (r.take 3 ++ r.drop 4)) && (offset || sf ≠ 2 || leAt r (4 + 2 * (x % 30)) 2 < 256)

/-- Value of a scale slot (R200). -/
def slotScale (sf v : Nat) : Ex :=
  if sf = 2 then
    if v % 256 = 255 then .nan else let (n, d) := shiftQ 1 (v % 256) 127; .fin false n d
  else bf16.decode v

/-- A slot of a record of core `g`'s scratchpad, checked. -/
def recSlot (g off block0 x sf : Nat) (offset : Bool) : Xm Nat := do
  if 0x300000 < off + 64 then stopX 0x09
  else do
    let r ← spRead g off 64
    if recOk r block0 x sf offset then pure (leAt r (4 + 2 * (x % 30)) 2) else stopX 0x22

/-- Scale and offset of block `x` of a scaled tensor. -/
def scaleOf (g : Nat) (t : Td) (x : Nat) : Xm (Ex × Ex) := do
  let v ← recSlot g (t.recOff x) t.block0 x t.sf false
  if t.asym then do
    let o ← recSlot g (t.recOff x + 64) t.block0 x t.sf true
    pure (slotScale t.sf v, bf16.decode o)
  else pure (slotScale t.sf v, .fin false 0 1)

/-- Dequantised value of an element (R203). -/
def dequant (t : Td) (v : Ex) (sc : Ex × Ex) : Num Word :=
  if t.sf = 0 then round32 v
  else if t.asym then
    finish32 (match v.mul sc.1 with
      | none => if sc.2.isNan then some .nan else none
      | some p => p.add sc.2)
  else finish32 (v.mul sc.1)

/-- Cut a list into pieces of `k`; `n` bounds how many. -/
def chunks {α : Type} (k : Nat) : (n : Nat) → List α → List (List α)
  | _, [] => []
  | 0, l => [l]
  | n + 1, l => l.take k :: chunks k n (l.drop k)

/-- Blocks of 32 along dim0. -/
def Td.blocks (t : Td) : Nat := (t.dim 0 + 31) / 32

/-- FP32 values of a row as a vector instruction reads it (R203). INT32 rows keep their words. -/
def rowVals (g : Nat) (t : Td) (ix : List Nat) : Xm (List Word) := do
  let codes ← rowCodes g t ix
  if t.isInt32 then pure (codes.map (BitVec.ofNat 32))
  else do
    let s ← peekX id
    let vals := codes.map (codeVal s g t (t.tileAt ix))
    if t.sf = 0 then num (mapN round32 vals)
    else do
      let bl := chunks 32 vals.length vals
      let rows ← mapX (fun b => do
        let sc ← scaleOf g t (t.rowNo ix * t.blocks + b.2)
        num (mapN (fun v => dequant t v sc) b.1)) (bl.zip (List.range bl.length))
      pure rows.flatten

/-- Quotient of an exact value by a block's scale, as it is before its rounding (R204). -/
def quotient (t : Td) (sc : Ex × Ex) (x : Ex) : Num Ex := do
  let d ← (match (if t.asym then x.add sc.2.neg else some x) with
    | some d => pure d
    | none => do
      raise .invalid
      pure .nan)
  let q ← divEx d sc.1
  match q with
  | some q => pure q
  | none => do
    raise .invalid
    pure .nan

/-- Code of a result in a destination that is not CB4 or CB8 (R190, R204); `r` where the rounding is stochastic. -/
def quantise (t : Td) (sc : Ex × Ex) (r : Option Nat) (x : Ex) : Num Nat := do
  match r with
  | none => pure ()
  | some _ => raise .stochastic
  if t.sf = 0 then toElem t.fmt r x
  else do
    let q ← quotient t sc x
    toElem t.fmt r q

/-- Store a row of exact results with the records that stand (R204); `sr` gives the random word of a linear index. -/
def putRow (g : Nat) (t : Td) (ix : List Nat) (sr : Option (Nat → Nat)) (xs : List Ex) : Xm Unit := do
  let bl := chunks 32 xs.length xs
  let rows ← mapX (fun b => do
    let sc ← if t.sf = 0 then pure (Ex.nan, Ex.nan) else scaleOf g t (t.rowNo ix * t.blocks + b.2)
    num (mapN (fun x => quantise t sc (sr.map fun f => f (t.rowNo ix * t.dim 0 + 32 * b.2 + x.2)) x.1)
      (b.1.zip (List.range b.1.length)))) (bl.zip (List.range bl.length))
  putCodes g t ix rows.flatten

/-! ## Fresh scales (R205 to R208) -/

/-- Largest finite value of a format, by which fresh scales are formed. -/
def qMax (fmt : Nat) : Ex :=
  match fmt with
  | 0 => .fin false 127 1
  | 1 => .fin false 255 1
  | 2 => .fin false 7 1
  | _ => match fpOf fmt with
    | some f => let (n, d) := f.magnitude f.maxCode; .fin false n d
    | none => .fin false 1 1

/-- A positive value rounded toward +infinity to BF16, clamped to its maximum. -/
def upBf16 (n d : Nat) : Nat :=
  let (k, exact) := bf16.floorMag n d
  min 0x7F7F (if exact then k else k + 1)

/-- The smallest power of two at or above a positive value, as an E8M0 code between 0 and 254. -/
def upE8 (n d : Nat) : Nat :=
  let e := log2Q n d 400
  let (a, b) := shiftQ 1 e 400
  let e := if n * b = a * d then e else e + 1
  min 254 (e - 273)

/-- A positive value as a scale slot of a scale format. -/
def upSlot (sf n d : Nat) : Nat := if sf = 2 then upE8 n d else upBf16 n d

/-- The slot of scale 1.0. -/
def oneSlot (sf : Nat) : Nat := if sf = 2 then 0x7F else 0x3F80

/-- Largest magnitude among finite values. -/
def amaxEx (xs : List Ex) : Ex :=
  xs.foldl (fun a x => if x.finite && a.lt x.abs then x.abs else a) (.fin false 0 1)

def minEx (xs : List Ex) : Option Ex :=
  (xs.filter Ex.finite).foldl (fun a x => match a with | none => some x | some y => if x.lt y then some x else a) none
def maxEx (xs : List Ex) : Option Ex :=
  (xs.filter Ex.finite).foldl (fun a x => match a with | none => some x | some y => if y.lt x then some x else a) none

/-- BF16 code of a value rounded toward -infinity. -/
def downBf16 : Ex → Nat
  | .fin false n d => (bf16.floorMag n d).1
  | .fin true n d =>
    let (k, exact) := bf16.floorMag n d
    0x8000 + min 0x7F7F (if exact then k else k + 1)
  | _ => 0

/-- A fresh block: scale slot, offset slot, constant (R205 to R208). -/
structure Fresh where
  slot : Nat
  off : Nat := 0
  const : Bool := false
  deriving DecidableEq, Repr

/-- BF16 nearest even of a finite value, without conditions. -/
def nearBf16 (x : Ex) : Nat := ((bf16.encode x).run { ctl := 0 }).1

/-- The scale (and offset) of a block with elements `xs`. -/
def freshOf (t : Td) (xs : List Ex) : Fresh :=
  if t.asym then
    match minEx xs, maxEx xs with
    | some mn, some mx =>
      if mn.lt mx then
        let o := downBf16 mn
        match mx.add (bf16.decode o).neg with
        | some (.fin _ n d) => { slot := upSlot t.sf n (d * 255), off := o }
        | _ => { slot := oneSlot t.sf, off := o }
      else { slot := oneSlot t.sf, off := nearBf16 mn, const := true }
    | _, _ => { slot := oneSlot t.sf }
  else if xs.all (fun x => !x.finite) then { slot := oneSlot t.sf }
  else
    match amaxEx xs, qMax t.fmt with
    | .fin _ n d, .fin _ qn qd =>
      if n = 0 then { slot := oneSlot t.sf, const := true } else { slot := upSlot t.sf (n * qd) (d * qn) }
    | _, _ => { slot := oneSlot t.sf }

/-- A whole scale record (Table 6.4). -/
def scaleRecord (first : Nat) (offset const : Bool) (slots : List Nat) : List Byte :=
  let head := toBytes 2 first ++ [BitVec.ofNat 8 (slots.length + 64 * b2n offset + 128 * b2n const)]
  let body := fit 60 (slots.flatMap (toBytes 2))
  head ++ toBytes 1 (crc8 (head ++ body)) ++ body

/-- Write the records of all blocks of a tensor (R201). -/
def putRecords (g : Nat) (t : Td) (fs : List Fresh) : Xm Unit := do
  let gs := chunks 30 fs.length fs
  eachX (fun r => do
    let first := (t.block0 + 30 * r.2) % 65536
    let const := r.1.any Fresh.const
    let o := t.scaleOff + (if t.asym then 128 else 64) * r.2
    spWrite g o (scaleRecord first false const (r.1.map Fresh.slot))
    if t.asym then spWrite g (o + 64) (scaleRecord first true const (r.1.map Fresh.off)) else pure ())
    (gs.zip (List.range gs.length))

/-- Bytes of the records of a tensor with `n` blocks. -/
def Td.recBytes (t : Td) (n : Nat) : Nat := (if t.asym then 128 else 64) * ((n + 29) / 30)

/-- Code of an element of a freshly scaled block (R204, R207, R208): finite elements of a constant block get code 0. -/
def freshCode (t : Td) (f : Fresh) (r : Option Nat) (x : Ex) : Num Nat :=
  if f.const && x.finite then pure 0
  else quantise t (slotScale t.sf f.slot, bf16.decode f.off) r x

/-- Store rows of exact results with fresh scales (R205 to R208): records, then the codes; constant blocks count. -/
def putFresh (g : Nat) (t : Td) (sr : Option (Nat → Nat)) (rows : List (List Nat × List Ex)) : Xm Unit := do
  let all := rows.map fun r => (r.1, (chunks 32 r.2.length r.2).map fun b => (freshOf t b, b))
  putRecords g t (all.flatMap fun r => r.2.map (·.1))
  eachX (fun r => do
    let codes ← mapX (fun b => do
      if b.1.1.const then num (raise .const) else pure ()
      num (mapN (fun x => freshCode t b.1.1 (sr.map fun f => f (t.rowNo r.1 * t.dim 0 + 32 * b.2 + x.2)) x.1)
        (b.1.2.zip (List.range b.1.2.length)))) (r.2.zip (List.range r.2.length))
    putCodes g t r.1 codes.flatten) all

/-! ## The end of an instruction -/

/-- A core faults with a cause, and what follows at once. -/
def stopCore (g cause aux : Nat) (s : State) : State := settle (coreFault g cause 0 aux s)

/-- The step an error takes, for the instruction given: the fault of R161, or the teardown of R142 and Table 12.2. -/
def failXAt (g : Nat) (e : XErr) (i : Nat × Nat) (s : State) : State :=
  match e with
  | .cause c a => settle (coreFaultAt g c 0 a i s)
  | .mem e => settle (coreMemErrAt g e i s)
  | .sram h off =>
    let c := getCore s g
    let s := stick ((Blk.core h).base + 0x10) 0 3 none s
    let s := record (2 + h / 32) 0x0402 [.id1 (h / 32), .id1 (h % 32), .loc4 off, .id1 c.part, .id1 c.slot] c.part c.slot s
    settle (teardown c.part c.slot 0x0300 (0x100 + (getCore s h).idx) 0 (hubTime s (declHub s (h / 32))) none s)

/-- The step an error takes for the instruction the core's sequencer stands at. -/
def failX (g : Nat) (e : XErr) (s : State) : State := failXAt g e (getCore s g).here s

/-- Run work of core `g` for the instruction given: its conditions are counted; an error or an enabled trap stops the
context; else `fin` follows. -/
def runXAt (g : Nat) (i : Nat × Nat) (m : Xm Unit) (fin : State → State) (s : State) : State :=
  let (r, v) := m.run { s, t := { ctl := (getCore s g).numctl } }
  let (trap, s') := applyTally g v.t v.s
  if trap then settle (coreFaultAt g 0x25 0 0 i s')
  else match r with
    | .error e => failXAt g e i s'
    | .ok _ => fin s'

/-- Run the instruction core `g`'s sequencer stands at. -/
def runX (g : Nat) (m : Xm Unit) (fin : State → State) (s : State) : State := runXAt g (getCore s g).here m fin s

/-- The core goes on to the next instruction. -/
def nextPc (g : Nat) (s : State) : State := modCore g (fun c => { c with pc := c.pc + 1 }) s

end Sys2Proof.Machine
end

