-- ==== Sys2Proof/Machine/Issue.lean ====
section
/-!
DEFINITION. Issue.lean: how a core issues an instruction (R151, R159, R160), the scoreboard (R140), and the end of a
run when every core has halted (R91, R164).
-/
namespace Sys2Proof.Machine

/-- The core's sequencer may issue: a context holds it, no stop is requested, nothing is waited for. -/
def mayIssue (s : State) (g : Nat) : Bool :=
  let c := getCore s g
  c.role = .placed && c.stop = .go && c.waits = .ready && (getCtx s c.part c.slot).resident

/-- ATTN and KVW hold the sequencer until they retire. -/
def walkHolds (c : Core) (op : Nat) : Bool := match c.walk with | none => false | some w => opOf w.word ≠ op

/-- The predicate of a word holds (R151). -/
def predHolds (c : Core) (w : InstrWord) : Bool :=
  let p := wf w 117 5
  p = 0 || (if bit w.toNat 116 then c.getS p = 0 else c.getS p ≠ 0)

/-- Checks 2 and 3 of Table 5.6, then the instruction: `ok` is its own part of check 2. -/
def checked (g : Nat) (ok : Bool) (w : InstrWord) (body : State → State) (s : State) : State :=
  let c := getCore s g
  if !ok || (wf w 117 5 = 0 && bit w.toNat 116) then stopCore g 0x02 0 s
  else if predHolds c w then body s
  else nextPc g s

/-- Core `g` issues the word at its pc where that word has opcode `op` (R160). -/
def issue (g op : Nat) (ok : InstrWord → Bool) (body : InstrWord → State → State) (s : State) : State :=
  let c := getCore s g
  match c.word with
  | some w =>
    if mayIssue s g && opOf w = op && !walkHolds c op then checked g (ok w) w (body w) s else s
  | none => s

/-! ## The scoreboard (R140, R159) -/

/-- The context-relative index a DMA destination names, as a core of the part. -/
def dmaCore (s : State) (g : Nat) (t : Td) : Nat := t.core s g

/-- A destination descriptor covers part of a range of core `g`. -/
def Td.covers (s : State) (g : Nat) (t : Td) (acc : Bool) (off n : Nat) : Bool :=
  t.core s g = g && t.space ≠ 2 && (t.space = 1) = acc && t.base < off + n && off < t.base + t.span

/-- A range of the core is still to be written by its own DMA entries or a tensor instruction. -/
def hazard (s : State) (g : Nat) (acc : Bool) (off n : Nat) : Bool :=
  let c := getCore s g
  (c.dma0 ++ c.dma1).any (fun e => (Td.of e.dst).covers s g acc off n) ||
    c.runs.any (fun r => (Td.of r.td).covers s g acc off n)

/-- A tensor operand lies in a range still to be written. -/
def tdHazard (s : State) (g : Nat) (t : Td) : Bool :=
  t.space ≠ 2 && t.core s g = g && hazard s g (t.space = 1) t.base t.span

/-- The scale records of an operand lie in such a range. -/
def recHazard (s : State) (g : Nat) (t : Td) (n : Nat) : Bool := t.sf ≠ 0 && hazard s g false t.scaleOff (t.recBytes n)

/-! ## Every core has halted -/

/-- An island stream in the safe state that the program fed (R414). -/
def safeFed (s : State) (l : Launch) : Option (Nat × Nat) := l.evtStreams.find? fun x => (getIsl s x.1).st = .safe

/-- The completion of a LAUNCH whose cores have all halted (R67, R414). -/
def launchComplete (id ns : Nat) (l : Launch) (s : State) : State :=
  let us := min (ns / 1000) 0xFFFFFFFF
  match safeFed s l with
  | some (i, n) =>
    if l.replayed = 0 then finish id 0x0500 i n (getIsl s i).decision s
    else finish id 1 (min l.replayed 0xFFFF) us 0 s
  | none => finish id (b2n (l.replayed ≠ 0)) (min l.replayed 0xFFFF) us 0 s

/-- A LAUNCH ends: digests and recording written, mutexes abandoned, cores released, the context IDLE (R91, R112). -/
def launchEnd (p slot : Nat) (l : Launch) (s : State) : State :=
  let ns := runNs s (getCtx s p slot)
  let s := writeDigest p slot l s
  let s := match (getCtx s p slot).recording with
    | some (buf, _, _, _, _) =>
      let st := match safeFed s l with
        | some _ => if l.replayed = 0 then 0x0500 else 1
        | none => b2n (l.replayed ≠ 0)
      recFinish p slot st (recOutDigest s p buf l.resultAddr) s
    | none => s
  let out := match l.swatch with | some _ => outputDigest s p l.resultAddr | none => []
  let s := releaseCores p slot (abandonAll p slot s)
  let s := modCtx p slot (fun c => { c with st := .idle, launch := none, launches := satAdd 64 c.launches 1 }) s
  let s := match l.desc with | some i => launchComplete i ns l s | none => s
  let s := match l.swatch with | some w => swatchResult w (b2n (l.replayed ≠ 0)) out s | none => s
  changed s

/-- An entry of a REPLAY ends: replay_digest and match are written and the next entry is looked at (R463 step 5). -/
def replayEntryEnd (p slot : Nat) (l : Launch) (r : Replay) (s : State) : State :=
  let ns := runNs s (getCtx s p slot)
  let a := r.addr + r.off
  let d := recOutDigest s p r.addr l.resultAddr
  let same := d = peek s p (a + 112) 32
  let s := poke p (a + 176) [if same then 0 else 1] (poke p (a + 144) d s)
  let s := abandonAll p slot s
  let r := { r with idx := r.idx + 1, off := r.off + max 64 (leAt (peek s p a 4) 0 4), running := false,
                    total := r.total + ns }
  let s := modCtx p slot (fun c => { c with launch := c.launch.map fun l => { l with replay := some r } }) s
  replayNext p slot (r.entries + 1) s

/-- When every core of the context has halted, its run ends (R164). -/
def haltCheck (p slot : Nat) (s : State) : State :=
  let c := getCtx s p slot
  if c.resident && c.place.all fun g => (getCore s g).waits = .halted then
    match c.launch with
    | none => s
    | some l =>
      match l.replay with
      | some r => replayEntryEnd p slot l r s
      | none => launchEnd p slot l s
  else s

/-- REPLAY is under way in the context (R464). -/
def inReplay (s : State) (p slot : Nat) : Bool :=
  match (getCtx s p slot).launch with
  | some l => l.replay.isSome
  | none => false

/-! ## Barriers (R179, R164) -/

/-- Release the cores of a list from a barrier: a core that holds lent tiles leaves when they are delivered (R134). -/
def resume (gs : List Nat) (s : State) : State :=
  gs.foldl (fun s g => modCore g (fun c =>
    if c.glean.held.isEmpty then { c with waits := .ready, pc := c.pc + 1, glean := {} }
    else { c with waits := .released }) s) s

/-- A barrier of the context's cores is released when the last has arrived (R179). -/
def barCheck (p slot : Nat) (s : State) : State :=
  let place := (getCtx s p slot).place
  let at_ (loc : Bool) (g : Nat) : Bool := (getCore s g).waits = .bar loc
  let s := if !place.isEmpty && place.all (at_ false) then resume place s else s
  (List.range 4).foldl (fun s d =>
    let gs := place.filter fun g => g / 32 = d
    if !gs.isEmpty && gs.all (at_ true) then resume gs s else s) s

end Sys2Proof.Machine
end

