-- ==== Sys2Proof/Machine/Scalar.lean ====
section
/-!
DEFINITION. Scalar.lean: control and scalar instructions (R162 to R164), LD, ST and the special registers (R154, R155),
TDLD and TDST, NOP, TRAP, reserved opcodes (R152), and instruction cache fills (R149).
-/
namespace Sys2Proof.Machine

/-! ## Fields of format A -/

def fRd : Nat × Nat := (106, 5)
def fRa : Nat × Nat := (101, 5)
def fRb : Nat × Nat := (96, 5)
def fImm : Nat × Nat := (0, 64)
def rdOf (w : InstrWord) : Nat := wf w 106 5
def raOf (w : InstrWord) : Nat := wf w 101 5
def rbOf (w : InstrWord) : Nat := wf w 96 5
def immOf (w : InstrWord) : Nat := wf w 0 64

/-- Operand b: imm where fl0 is set, else s[rb] (R162). -/
def opB (c : Core) (w : InstrWord) : DWord := if flag w 0 then BitVec.ofNat 64 (immOf w) else c.getS (rbOf w)

/-- Fields of an instruction with rd, ra and b; further flags as given. -/
def okB (w : InstrWord) (flags : List (Nat × Nat)) : Bool :=
  onlyBits w ([fRd, fRa, fImm, (111, 1)] ++ flags ++ if flag w 0 then [] else [fRb])

/-- Condition code c of R162; none for 6 and 7. -/
def condHolds (c : Nat) (a b : DWord) : Option Bool :=
  match c with
  | 0 => some (a == b)
  | 1 => some (a != b)
  | 2 => some (a.slt b)
  | 3 => some (!a.slt b)
  | 4 => some (a.ult b)
  | 5 => some (!a.ult b)
  | _ => none

/-- Write s[rd] and go on. -/
def retireS (g rd : Nat) (v : DWord) (s : State) : State :=
  modCore g (fun c => { c.setS rd v with pc := c.pc + 1 }) s

/-- A taken branch: a target at or above count faults (cause 0x03). -/
def jump (g target : Nat) (s : State) : State :=
  if (getCore s g).count ≤ target then stopCore g 0x03 0 s else modCore g (fun c => { c with pc := target }) s

/-- An ALU instruction. -/
def alu (g op : Nat) (flags : List (Nat × Nat)) (f : InstrWord → DWord → DWord → DWord) (s : State) : State :=
  issue g op (fun w => okB w flags) (fun w s =>
    let c := getCore s g
    retireS g (rdOf w) (f w (c.getS (raOf w)) (opB c w)) s) s

/-! ## Arithmetic -/

def doAdd (g : Nat) (s : State) : State := alu g 0x10 [] (fun _ a b => a + b) s
def doSub (g : Nat) (s : State) : State := alu g 0x11 [] (fun _ a b => a - b) s
def doMul (g : Nat) (s : State) : State := alu g 0x12 [] (fun _ a b => a * b) s
def doAnd (g : Nat) (s : State) : State := alu g 0x13 [] (fun _ a b => a &&& b) s
def doOr (g : Nat) (s : State) : State := alu g 0x14 [] (fun _ a b => a ||| b) s
def doXor (g : Nat) (s : State) : State := alu g 0x15 [] (fun _ a b => a ^^^ b) s
def doShl (g : Nat) (s : State) : State := alu g 0x16 [] (fun _ a b => a <<< (b.toNat % 64)) s
def doShr (g : Nat) (s : State) : State :=
  alu g 0x17 [(112, 1)] (fun w a b => if flag w 1 then a.sshiftRight (b.toNat % 64) else a >>> (b.toNat % 64)) s
def doMin (g : Nat) (s : State) : State :=
  alu g 0x1C [(112, 1)] (fun w a b => if (if flag w 1 then a.slt b else a.ult b) then a else b) s
def doMax (g : Nat) (s : State) : State :=
  alu g 0x1D [(112, 1)] (fun w a b => if (if flag w 1 then a.slt b else a.ult b) then b else a) s

def execAddI (g : Nat) (s : State) : Host.Outcome State Fault Refusal := .next (doAdd g s)
def execSubI (g : Nat) (s : State) : Host.Outcome State Fault Refusal := .next (doSub g s)
def execMulI (g : Nat) (s : State) : Host.Outcome State Fault Refusal := .next (doMul g s)
def execAndI (g : Nat) (s : State) : Host.Outcome State Fault Refusal := .next (doAnd g s)
def execOrI (g : Nat) (s : State) : Host.Outcome State Fault Refusal := .next (doOr g s)
def execXorI (g : Nat) (s : State) : Host.Outcome State Fault Refusal := .next (doXor g s)
def execShlI (g : Nat) (s : State) : Host.Outcome State Fault Refusal := .next (doShl g s)
def execShrI (g : Nat) (s : State) : Host.Outcome State Fault Refusal := .next (doShr g s)
def execMinI (g : Nat) (s : State) : Host.Outcome State Fault Refusal := .next (doMin g s)
def execMaxI (g : Nat) (s : State) : Host.Outcome State Fault Refusal := .next (doMax g s)

/-- LI (R162). -/
def doLi (g : Nat) (s : State) : State :=
  issue g 0x18 (fun w => onlyBits w [fRd, fImm]) (fun w s => retireS g (rdOf w) (BitVec.ofNat 64 (immOf w)) s) s

def execLi (g : Nat) (s : State) : Host.Outcome State Fault Refusal := .next (doLi g s)

/-- CMP (R162). -/
def doCmp (g : Nat) (s : State) : State :=
  issue g 0x1B (fun w => okB w [(113, 3)]) (fun w s =>
    let c := getCore s g
    match condHolds (wf w 113 3) (c.getS (raOf w)) (opB c w) with
    | none => stopCore g 0x13 0 s
    | some r => retireS g (rdOf w) (BitVec.ofNat 64 (b2n r)) s) s

def execCmpI (g : Nat) (s : State) : Host.Outcome State Fault Refusal := .next (doCmp g s)

/-! ## Control -/

/-- The instruction NOP (R162). -/
def doInstructionNop (g : Nat) (s : State) : State :=
  issue g 0x00 (fun w => onlyBits w [fImm]) (fun _ s => nextPc g s) s

def execInstructionNop (g : Nat) (s : State) : Host.Outcome State Fault Refusal := .next (doInstructionNop g s)

def doBr (g : Nat) (s : State) : State :=
  issue g 0x01 (fun w => onlyBits w [(0, 32)]) (fun w s => jump g (wf w 0 32) s) s

def execBr (g : Nat) (s : State) : Host.Outcome State Fault Refusal := .next (doBr g s)

def doBrc (g : Nat) (s : State) : State :=
  issue g 0x02 (fun w => onlyBits w [(0, 32), fRa, fRb, (111, 3)]) (fun w s =>
    let c := getCore s g
    match condHolds (wf w 111 3) (c.getS (raOf w)) (c.getS (rbOf w)) with
    | none => stopCore g 0x13 0 s
    | some true => jump g (wf w 0 32) s
    | some false => nextPc g s) s

def execBrc (g : Nat) (s : State) : Host.Outcome State Fault Refusal := .next (doBrc g s)

/-- LOOP (R163); the ENDL index must exceed pc. -/
def doLoop (g : Nat) (s : State) : State :=
  issue g 0x03 (fun w => onlyBits w ([fImm, (111, 1)] ++ if flag w 0 then [fRa] else []) && wf w 116 6 = 0) (fun w s =>
    let c := getCore s g
    let n := if flag w 0 then (c.getS (raOf w)).toNat else wf w 32 32
    let e := wf w 0 32
    if e ≤ c.pc then stopCore g 0x13 0 s
    else if n = 0 then modCore g (fun c => { c with pc := e + 1 }) s
    else if 16 ≤ c.loops.length then stopCore g 0x04 0 s
    else modCore g (fun c => { c with loops := { start := c.pc + 1, stop := e, left := n } :: c.loops, pc := c.pc + 1 }) s) s

def execLoopI (g : Nat) (s : State) : Host.Outcome State Fault Refusal := .next (doLoop g s)

/-- ENDL (R163). -/
def doEndl (g : Nat) (s : State) : State :=
  issue g 0x04 (fun w => onlyBits w [fImm] && wf w 116 6 = 0) (fun _ s =>
    let c := getCore s g
    match c.loops with
    | [] => stopCore g 0x04 0 s
    | l :: r =>
      if l.stop ≠ c.pc then stopCore g 0x04 0 s
      else if l.left = 1 then modCore g (fun c => { c with loops := r, pc := c.pc + 1 }) s
      else modCore g (fun c => { c with loops := { l with left := l.left - 1 } :: r, pc := l.start }) s) s

def execEndlI (g : Nat) (s : State) : Host.Outcome State Fault Refusal := .next (doEndl g s)

def doCall (g : Nat) (s : State) : State :=
  issue g 0x05 (fun w => onlyBits w [(0, 32)]) (fun w s =>
    let c := getCore s g
    if 32 ≤ c.calls.length then stopCore g 0x04 0 s
    else if c.count ≤ wf w 0 32 then stopCore g 0x03 0 s
    else modCore g (fun c => { c with calls := (c.pc + 1) :: c.calls, pc := wf w 0 32 }) s) s

def execCallI (g : Nat) (s : State) : Host.Outcome State Fault Refusal := .next (doCall g s)

def doRet (g : Nat) (s : State) : State :=
  issue g 0x06 (fun w => onlyBits w [fImm]) (fun _ s =>
    match (getCore s g).calls with
    | [] => stopCore g 0x04 0 s
    | a :: r => modCore g (fun c => { c with calls := r, pc := a }) s) s

def execRetI (g : Nat) (s : State) : Host.Outcome State Fault Refusal := .next (doRet g s)

/-- HALT waits for the core's DMA queues and tensor instructions, then stops the core (R164). -/
def doHalt (g : Nat) (s : State) : State :=
  issue g 0x07 (fun w => onlyBits w [fImm]) (fun _ s =>
    let c := getCore s g
    if c.dma0.isEmpty && c.dma1.isEmpty && c.runs.isEmpty then
      let s := modCore g (fun k => { k with waits := .halted }) s
      settle (haltCheck c.part c.slot (refreshBlocked c.part c.slot s))
    else s) s

def execHaltI (g : Nat) (s : State) : Host.Outcome State Fault Refusal := .next (doHalt g s)

/-- A context of equal effective priority waits for cores (R164). -/
def equalReady (s : State) (p slot : Nat) : Bool :=
  slots.any fun k => k ≠ slot && isReady s p k && (getCtx s p k).eff = (getCtx s p slot).eff

/-- YIELD is a barrier; where a context of equal priority waits for cores, this one is heeled in with cause 1 (R164). -/
def doYield (g : Nat) (s : State) : State :=
  issue g 0x08 (fun w => onlyBits w [fImm]) (fun _ s =>
    let p := (getCore s g).part
    let k := (getCore s g).slot
    let s := refreshBlocked p k (modCore g (fun c => { c with waits := .yielded }) s)
    let place := (getCtx s p k).place
    if place.all fun g => (getCore s g).waits = .yielded then
      let s := refreshBlocked p k (resume place s)
      settle (if equalReady s p k then heelNow p k .quantum s else s)
    else s) s

def execYieldI (g : Nat) (s : State) : Host.Outcome State Fault Refusal := .next (doYield g s)

def doTrap (g : Nat) (s : State) : State :=
  issue g 0x09 (fun w => onlyBits w [fImm]) (fun w s => settle (coreFault g 0x0D (wf w 0 16) 0 s)) s

def execTrapI (g : Nat) (s : State) : Host.Outcome State Fault Refusal := .next (doTrap g s)

/-- Opcodes a generation 1 core refuses (R152). -/
def reservedOp (op : Nat) : Bool :=
  (0x0A ≤ op && op ≤ 0x0F) || op = 0x26 || (0x2A ≤ op && op ≤ 0x2F)

/-- A reserved opcode or an EXT word faults whatever its predicate (R152, check 1). -/
def doIllegalOpcode (g : Nat) (s : State) : State :=
  match (getCore s g).word with
  | some w => if mayIssue s g && reservedOp (opOf w) then stopCore g 0x01 0 s else s
  | none => s

def execIllegalOpcode (g : Nat) (s : State) : Host.Outcome State Fault Refusal := .next (doIllegalOpcode g s)

/-! ## Loads and stores (R154, R155) -/

/-- The hub whose time a core reads. -/
def coreHub (s : State) (g : Nat) : Nat := declHub s (g / 32)

/-- A special register (Table 5.5); cycles is a value the spec leaves to timing. -/
def special (g i : Nat) (s : State) : Nat × State :=
  let c := getCore s g
  let x := getCtx s c.part c.slot
  let l (f : Launch → Nat) : Nat := match x.launch with | some l => f l | none => 0
  match i with
  | 0x00 => (c.idx, s)
  | 0x01 => (x.cores, s)
  | 0x02 => (c.part, s)
  | 0x03 => (c.slot, s)
  | 0x04 => (l (·.seed), s)
  | 0x05 => (l fun x => if x.argsAddr = 0 then 0 else x.argsLen, s)
  | 0x06 => (l (·.resultAddr), s)
  | 0x08 => (c.numctl, s)
  | 0x09 => (c.numstat.toNat, s)
  | 0x0A => (hubTime s (coreHub s g), s)
  | 0x0B => takeFree s
  | 0x0C => (1, s)
  | _ => (0, s)

/-- Bytes of an access. -/
def accSize (w : InstrWord) : Nat := 2 ^ wf w 111 2

/-- The address of a scalar access, or its cause (R162, check 8). -/
def scalarAddr (c : Core) (w : InstrWord) (acc : Bool) (size : Nat) : Except Nat Nat :=
  let a := (c.getS (raOf w)).toNat + immOf w
  let a := a % 2 ^ 64
  if (if acc then 0x40000 else 0x300000) < a + size then .error 0x09
  else if a % size ≠ 0 then .error 0x0A
  else .ok a

/-- Check 2 of LD and ST. -/
def okLdSt (w : InstrWord) (reg : Nat × Nat) (signExt : Bool) : Bool :=
  if flag w 3 then onlyBits w [reg, (0, 8), (114, 1)]
  else onlyBits w ([reg, fRa, fImm, (111, 2), (115, 1)] ++ if signExt then [(113, 1)] else [])

def doLd (g : Nat) (s : State) : State :=
  issue g 0x19 (fun w => okLdSt w fRd true) (fun w s =>
    if flag w 3 then
      let (v, s) := special g (wf w 0 8) s
      retireS g (rdOf w) (BitVec.ofNat 64 v) s
    else
      let n := accSize w
      match scalarAddr (getCore s g) w (flag w 4) n with
      | .error c => stopCore g c 0 s
      | .ok a =>
        if hazard s g (flag w 4) a n then s
        else
          let (r, v) := (if flag w 4 then accRead g a n else spRead g a n).run { s, t := { ctl := 0 } }
          match r with
          | .error e => failX g e v.s
          | .ok bs =>
            let x := ofBytes bs
            let x := if flag w 2 then wrap 64 (sext (8 * n) x) else x
            retireS g (rdOf w) (BitVec.ofNat 64 x) v.s) s

def execLd (g : Nat) (s : State) : Host.Outcome State Fault Refusal := .next (doLd g s)

def doSt (g : Nat) (s : State) : State :=
  issue g 0x1A (fun w => okLdSt w fRb false) (fun w s =>
    let v := (getCore s g).getS (rbOf w)
    if flag w 3 then
      if wf w 0 8 ≠ 0x08 then stopCore g 0x0B 0 s
      else if 16 ≤ v.toNat then stopCore g 0x02 0 s
      else nextPc g (modCore g (fun c => { c with numctl := v.toNat }) s)
    else
      let n := accSize w
      match scalarAddr (getCore s g) w (flag w 4) n with
      | .error c => stopCore g c 0 s
      | .ok a =>
        if hazard s g (flag w 4) a n then s
        else
          let bs := toBytes n v.toNat
          nextPc g (modCore g (fun c => if flag w 4 then c.putAcc a bs else c.putSp a bs) s)) s

def execSt (g : Nat) (s : State) : Host.Outcome State Fault Refusal := .next (doSt g s)

/-- The scratchpad address of TDLD and TDST. -/
def tdAddr (c : Core) (w : InstrWord) : Except Nat Nat := scalarAddr c w false 64

def doTdld (g : Nat) (s : State) : State :=
  issue g 0x1E (fun w => onlyBits w [(106, 4), fRa, fImm]) (fun w s =>
    match tdAddr (getCore s g) w with
    | .error c => stopCore g c 0 s
    | .ok a =>
      if hazard s g false a 64 then s
      else
        let (r, v) := (spRead g a 64).run { s, t := { ctl := 0 } }
        match r with
        | .error e => failX g e v.s
        | .ok bs =>
          nextPc g (modCore g (fun c =>
            { c with t := tabSet (fun _ => 0) c.t (wf w 106 4) (BitVec.ofNat 512 (ofBytes bs)) }) v.s)) s

def execTdldI (g : Nat) (s : State) : Host.Outcome State Fault Refusal := .next (doTdld g s)

/-- A tensor descriptor register. -/
def Core.getT (c : Core) (i : Nat) : DescWord := tabGet (fun _ => 0) c.t i

def doTdst (g : Nat) (s : State) : State :=
  issue g 0x1F (fun w => onlyBits w [(96, 4), fRa, fImm]) (fun w s =>
    match tdAddr (getCore s g) w with
    | .error c => stopCore g c 0 s
    | .ok a =>
      if hazard s g false a 64 then s
      else nextPc g (modCore g (fun c => c.putSp a (toBytes 64 (c.getT (wf w 96 4)).toNat)) s)) s

def execTdstI (g : Nat) (s : State) : Host.Outcome State Fault Refusal := .next (doTdst g s)

/-! ## Instruction cache (R149, R142) -/

def dIc (_ : Nat) : Option InstrWord := none

/-- Lines a cache holds. -/
def Core.icLines (c : Core) : List Nat := (c.icache.map fun e => e.1 / 16).eraseDups

/-- Drop a line from the cache. -/
def Core.icDrop (c : Core) (line : Nat) : Core := { c with icache := tabErase c.icache (16 * line) 16 }

/-- Bring a 256-byte line into the cache: of the four of its set, one that the spec does not name makes room. -/
def icFill (g line : Nat) (bs : List Byte) (s : State) : State :=
  let c := getCore s g
  let set := c.icLines.filter fun l => l % 64 = line % 64 && l ≠ line
  let (s, c) :=
    if set.length < 4 then (s, c)
    else
      let (n, s) := takeFree s
      (s, c.icDrop (set.getD (n % set.length) 0))
  let ws := (List.range 16).filterMap fun i =>
    if 16 * line + i < c.count then some (some (BitVec.ofNat 128 (leAt bs (16 * i) 16))) else none
  countCore g 9 1 (setCore g { c with icache := tabPut dIc (c.icDrop line).icache (16 * line) ws } s)

/-- Bytes of a line, up to the end of the instructions. -/
def lineBytes (c : Core) (line : Nat) : Nat := 16 * min 16 (c.count - 16 * line)

/-- The line at the core's pc is fetched from partition memory; past the end of the program it faults (R143, R149). A stored
parity error of the line is repaired by the refetch and reported (R142). -/
def doIcacheFill (t g line : Nat) (s : State) : State :=
  let s := advance t s
  let c := getCore s g
  if mayIssue s g && line = c.pc / 16 then
    if c.count ≤ c.pc then stopCore g 0x03 0 s
    else
      let prog := match (getCtx s c.part c.slot).launch with | some l => l.prog | none => 0
      let parity := injLive s 0x0403 g && c.word.isSome
      if c.word.isSome && !parity then s
      else
        let s := if parity then
            injUse (record (2 + g / 32) 0x0403 [.id1 (g / 32), .id1 (g % 32), .loc8 (prog + 64 + 256 * line)] c.part c.slot
              (stick ((Blk.core g).base + 0x10) 1 3 none s))
          else s
        let (r, s) := readPart c.part (prog + 64 + 256 * line) (lineBytes c line) (.ctx c.part c.slot) s
        match r with
        | .ok bs => icFill g line bs s
        | .error e => settle (coreMemErr g e s)
  else s

def execIcacheFill (t g line : Nat) (s : State) : Host.Outcome State Fault Refusal := .next (doIcacheFill t g line s)

end Sys2Proof.Machine
end

