-- ==== Sys2Proof/Machine/Sync.lean ====
section
/-!
DEFINITION. Sync.lean: SEMA, BAR, CRED and EVT (R178 to R181), with replay mode (R464).
-/
namespace Sys2Proof.Machine

/-! ## SEMA (R178) -/

def semOf (w : InstrWord) : Nat := wf w 86 10
def semaOp (w : InstrWord) : Nat := wf w 111 3
def semaCond (w : InstrWord) : Nat := wf w 114 2

/-- Check 2 of SEMA. DEDUCED (log entry 39): a register field is used by the instruction, whichever op it names. -/
def okSema (w : InstrWord) : Bool := onlyBits w [fRd, fRa, fRb, (86, 10), (111, 5)]

/-- The timeout of a request: µs in s[rb], 0 none. -/
def semaUntil (s : State) (c : Core) (w : InstrWord) : Option Nat :=
  let us := (c.getS (rbOf w)).toNat
  if us = 0 then none else some (s.clk + us * 1000)

/-- The core waits at PRT. -/
def queueSema (g p : Nat) (want : SemWant) (w : InstrWord) (s : State) : State :=
  let c := getCore s g
  let e : Waiting := { sem := semOf w, who := .core c.slot c.idx (rdOf w), want, until_ := semaUntil s c w }
  let s := modCore g (fun k => { k with waits := .sema (rdOf w) }) s
  refreshBlocked p c.slot (modPart p (fun x => { x with waits := x.waits ++ [e] }) s)

/-- A mutex op (R109, R110). -/
def semaMutex (g : Nat) (w : InstrWord) (s : State) : State :=
  let c := getCore s g
  let p := c.part
  let m := semOf w
  let x := getMutex s p m
  match semaOp w with
  | 4 =>
    if x.owner = some c.slot then stopCore g 0x0C 0 s
    else settle (wake p (serveMutex p m (queueSema g p .lock w s)))
  | 5 =>
    match x.owner with
    | some o => if o = c.slot then stopCore g 0x0C 0 s else retireS g (rdOf w) 2 s
    | none =>
      let s := changed (setMutex p m { owner := some c.slot, abandoned := false } s)
      retireS g (rdOf w) (if x.abandoned then 3 else 0) s
  | _ =>
    if x.owner ≠ some c.slot then stopCore g 0x0C 0 s
    else
      let own : Bool := match (getCtx s p c.slot).holdEnds with | some h => h.2.1 == m | none => true
      let s := if own then modCtx p c.slot (fun k => { k with inherited := none, holdEnds := none }) s else s
      settle (wake p (retireS g (rdOf w) 0 (releaseMutex p m false s)))

/-- A counting op (R107); in replay mode set and add are discarded, wait and take complete at once (R464). -/
def semaCount (g : Nat) (w : InstrWord) (s : State) : State :=
  let c := getCore s g
  let p := c.part
  let v := (c.getS (raOf w)).toNat
  if inReplay s p c.slot then retireS g (rdOf w) 0 s
  else match semaOp w with
  | 0 => settle (semOp p (semOf w) true v (retireS g (rdOf w) 0 s))
  | 1 => settle (semOp p (semOf w) false v (retireS g (rdOf w) 0 s))
  | 2 =>
    let want := match semaCond w with | 0 => SemWant.atLeast v | 1 => .equal v | _ => .bits v
    settle (changed (serveSem p (semOf w) (getPart s p).waits.length.succ (queueSema g p want w s)))
  | _ => settle (changed (serveSem p (semOf w) (getPart s p).waits.length.succ (queueSema g p (.take v) w s)))

def doSema (g : Nat) (s : State) : State :=
  issue g 0x3C okSema (fun w s =>
    if semaOp w = 7 ∨ semaCond w = 3 then stopCore g 0x13 0 s
    else if (semaOp w < 4) = (960 ≤ semOf w) then stopCore g 0x0C 0 s
    else if semaOp w < 4 then semaCount g w s
    else semaMutex g w s) s

def execSemaI (g : Nat) (s : State) : Host.Outcome State Fault Refusal := .next (doSema g s)

/-! ## BAR (R179, R134) -/

/-- Gleaning as it stands for a core that enters BAR: profile, or the expert fields (CDx_GLEAN). -/
def gleanSet (s : State) (d : Nat) : Nat × Nat :=
  let b := (Blk.die d).base
  if fld s b 0 1 = 1 then (max 1 (eff s (b + 4) 8 4), min 4 (eff s (b + 4) 12 3))
  else match eff s (b + 4) 0 2 with
    | 0 => (1, 0)
    | 2 => (1, 4)
    | _ => (2, 2)

/-- A core arrives at BAR: the die's gleaning settings commit and are taken (CDx_GLEAN). -/
def doBar (g : Nat) (s : State) : State :=
  issue g 0x3D (fun w => onlyBits w [(111, 1)]) (fun w s =>
    let c := getCore s g
    let s := commit ((Blk.die (g / 32)).base + 4) s
    let gl := gleanSet s (g / 32)
    let s := modCore g (fun k => { k with waits := .bar (flag w 0), glean := { min := gl.1, max := gl.2 } }) s
    refreshBlocked c.part c.slot (barCheck c.part c.slot (refreshBlocked c.part c.slot s))) s

def execBarI (g : Nat) (s : State) : Host.Outcome State Fault Refusal := .next (doBar g s)

/-! ## CRED (R180) -/

def dCred (_ : Nat) : Cred := {}
def Core.getCred (c : Core) (q : Nat) : Cred := tabGet dCred c.creds q
def Core.modCred (c : Core) (q : Nat) (f : Cred → Cred) : Core := { c with creds := tabMod dCred c.creds q f }

/-- The other end of stream `q` of core `g`, where it is open to this core. -/
def credPeer (s : State) (g q : Nat) : Option Nat :=
  let c := getCore s g
  match (getCtx s c.part c.slot).place[(c.getCred q).peer]? with
  | none => none
  | some h =>
    let e := (getCore s h).getCred q
    if e.isOpen && e.peer = c.idx then some h else none

/-- Change the positions of both ends. -/
def credBoth (g q : Nat) (f : Cred → Cred) (s : State) : State :=
  let o := credPeer s g q
  let s := modCore g (fun c => c.modCred q f) s
  match o with
  | none => s
  | some h => if h = g then s else modCore h (fun c => c.modCred q f) s

/-- Open end `q`; positions are those of the other end where it is open already (R180). -/
def credOpen (g q peer count : Nat) (consumer : Bool) (s : State) : State :=
  let c := getCore s g
  if (c.getCred q).isOpen || (!consumer && count = 0) then stopCore g 0x13 0 s
  else
    let e : Cred := { isOpen := true, consumer, peer, depth := count }
    let s := modCore g (fun c => c.modCred q fun _ => e) s
    let s := match credPeer s g q with
      | none => s
      | some h =>
        let o := (getCore s h).getCred q
        modCore g (fun c => c.modCred q fun e => { e with acquired := o.acquired, released := o.released }) s
    nextPc g s

def credStep (g : Nat) (w : InstrWord) (s : State) : State :=
  let q := wf w 107 4
  let n := wf w 84 16
  let e := (getCore s g).getCred q
  match wf w 111 2 with
  | 0 => credOpen g q (wf w 100 7) n (flag w 2) s
  | 1 =>
    if !e.isOpen || e.consumer then stopCore g 0x13 0 s
    else if e.acquired + n ≤ e.depth + e.released then
      nextPc g (credBoth g q (fun e => { e with acquired := (e.acquired + n) % 2 ^ 64 }) s)
    else s
  | 2 =>
    if !e.isOpen || !e.consumer then stopCore g 0x13 0 s
    else nextPc g (credBoth g q (fun e => { e with released := (e.released + n) % 2 ^ 64 }) s)
  | _ =>
    if !e.isOpen then stopCore g 0x13 0 s
    else if e.acquired = e.released then nextPc g (modCore g (fun c => c.modCred q fun _ => {}) s)
    else s

def doCred (g : Nat) (s : State) : State :=
  issue g 0x3E (fun w => onlyBits w [(107, 4), (100, 7), (84, 16), (111, 3)]) (fun w s =>
    let c := getCore s g
    if (getCtx s c.part c.slot).cores ≤ wf w 100 7 then stopCore g 0x10 0 s else credStep g w s) s

def execCredI (g : Nat) (s : State) : Host.Outcome State Fault Refusal := .next (doCred g s)

/-! ## EVT (R181) -/

/-- The island that holds stream `n` of partition `p` (R401). -/
def islandOf (s : State) (p n : Nat) : Option Nat :=
  [0, 1].find? fun i =>
    let st := tabGet (fun _ => ({} : SafStr)) (getIsl s i).strs n
    st.st ≠ .off && (st.cfg.partA = p || st.cfg.partB = p)

/-- A copy of a result record goes to the island that holds the stream; with none, event 0x0407 (R181, R401). A swatch
LAUNCH and a replayed one send none. -/
def sendRecord (g n addr : Nat) (bs : List Byte) (s : State) : State :=
  let c := getCore s g
  let p := c.part
  match (getCtx s p c.slot).launch with
  | none => s
  | some l =>
    if l.replay.isSome || l.swatch.isSome then s
    else match islandOf s p n with
      | none => record (2 + g / 32) 0x0407 [.id1 (g / 32), .id1 (g % 32), .id1 p, .id1 n] p c.slot s
      | some i =>
        let s := { s with records := s.records ++ [{ island := i, stream := n, part := p, addr, data := bs }] }
        modCtx p c.slot (fun x => { x with launch := x.launch.map fun l =>
          { l with evtStreams := if l.evtStreams.elem (i, n) then l.evtStreams else l.evtStreams ++ [(i, n)] } }) s

/-- EVT op 1: 64 bytes of the scratchpad to partition memory, and the copy (R181). Memory the partition may not write is
outside the space (Table 5.6 check 8; cause 0x26 is of DMA and fetch). -/
def evtWrite (g n a b : Nat) : Xm Unit := do
  need 0x09 (a + 64 ≤ 0x300000)
  let v ← get
  let p := (getCore v.s g).part
  match (policyStop v.s p b 64).or (refusedAt v.s p b 64 true) with
  | some x => throw (.cause 0x09 x)
  | none => pure ()
  need 0x0A (a % 64 = 0 && b % 64 = 0)
  let bs ← spRead g a 64
  let v ← get
  let c := getCore v.s g
  let (e, s) := writeCtx c.part c.slot b bs v.s
  set { v with s := s }
  match e with
  | some e => throw (.mem e)
  | none => if n = 0xFF then pure () else actX (sendRecord g n b bs)

def doEvt (g : Nat) (s : State) : State :=
  issue g 0x3F (fun w => onlyBits w ([(88, 8), (111, 1)] ++ if flag w 0 then [fRa, fRb] else [])) (fun w s =>
    let c := getCore s g
    let n := wf w 88 8
    if flag w 0 then
      if 63 < n && n < 0xFF then stopCore g 0x0F 0 s
      else if c.dma0.isEmpty && c.dma1.isEmpty && !hazard s g false (c.getS (raOf w)).toNat 64 then
        runX g (evtWrite g n (c.getS (raOf w)).toNat (c.getS (rbOf w)).toNat) (nextPc g) s
      else s
    else if n < 5 || 61 < n then stopCore g 0x0F 0 s
    else if inReplay s c.part c.slot then nextPc g s
    else nextPc g (sendMsix c.part n s)) s

def execEvtI (g : Nat) (s : State) : Host.Outcome State Fault Refusal := .next (doEvt g s)

end Sys2Proof.Machine
end

