-- ==== Sys2Proof/Machine/Data.lean ====
section
/-!
DEFINITION. Data.lean: DMA, DMAW, PREF and HALO (R174 to R177, R235 to R238), the progress of DMA entries (R141), and a
packet lost on the mesh (R142, R148).
-/
namespace Sys2Proof.Machine

/-- A descriptor register of core `g`, checked under R157 (check 5). -/
def tdArg (g i : Nat) (dst : Bool) : Xm Td := do
  let d ← peekX fun s => (getCore s g).getT i
  let t := Td.of d
  need 0x05 (t.ok dst)
  pure t

/-! ## DMA (R174, R141) -/

def Core.dma (c : Core) (q : Nat) : List DmaEnt := if q = 0 then c.dma0 else c.dma1
def Core.setDma (c : Core) (q : Nat) (l : List DmaEnt) : Core :=
  if q = 0 then { c with dma0 := l } else { c with dma1 := l }
def Core.dmaNum (c : Core) (q : Nat) : Nat := if q = 0 then c.dmaNum0 else c.dmaNum1
def Core.bumpDma (c : Core) (q : Nat) : Core :=
  if q = 0 then { c with dmaNum0 := (c.dmaNum0 + 1) % 65536 } else { c with dmaNum1 := (c.dmaNum1 + 1) % 65536 }

/-- Checks 5, 7 and 8 of DMA; partition addresses are looked at when the entry runs. -/
def dmaChecks (g src dst : Nat) : Xm Unit := do
  let a ← tdArg g src false
  let b ← tdArg g dst true
  need 0x07 (a.fmt = b.fmt && a.dims = b.dims)
  if a.space = 2 then pure () else needSpan g a false
  if b.space = 2 then pure () else needSpan g b true

/-- A new entry, unstarted, and its number in s[rd]. -/
def dmaPut (g q rd : Nat) (src dst : DescWord) (s : State) : State :=
  modCore g (fun c =>
    let n := c.dmaNum q
    let c := (c.setDma q (c.dma q ++ [{ num := n, src, dst, data := none, maker := c.here }])).bumpDma q
    { c.setS rd (BitVec.ofNat 64 n) with pc := c.pc + 1 }) s

def doDma (g : Nat) (s : State) : State :=
  issue g 0x38 (fun w => onlyBits w [fRd, (102, 4), (98, 4), (111, 1)]) (fun w s =>
    let c := getCore s g
    let q := b2n (flag w 0)
    if 16 ≤ ((c.dma q).filter fun e => e.data.isNone).length || tdHazard s g (Td.of (c.getT (wf w 102 4))) ||
        tdHazard s g (Td.of (c.getT (wf w 98 4))) then s
    else runX g (dmaChecks g (wf w 102 4) (wf w 98 4))
      (dmaPut g q (rdOf w) (c.getT (wf w 102 4)) (c.getT (wf w 98 4))) s) s

def execDmaI (g : Nat) (s : State) : Host.Outcome State Fault Refusal := .next (doDma g s)

/-- DMAW's condition: the queue is empty, or every entry up to number `n` has completed (R175). -/
def dmaDone (l : List DmaEnt) (all : Bool) (n : Nat) : Bool :=
  if all then l.isEmpty else l.all fun e => 32767 < (n + 65536 - e.num) % 65536

def doDmaw (g : Nat) (s : State) : State :=
  issue g 0x3A (fun w => onlyBits w ([fImm, (111, 2)] ++ if flag w 1 then [] else [fRa])) (fun w s =>
    let c := getCore s g
    if dmaDone (c.dma (b2n (flag w 0))) (flag w 1) ((c.getS (raOf w)).toNat % 65536) then nextPc g s else s) s

def execDmawI (g : Nat) (s : State) : Host.Outcome State Fault Refusal := .next (doDmaw g s)

/-- Everything a source descriptor names, row by row. -/
def dmaRead (g : Nat) (t : Td) : Xm (List (List Byte)) :=
  mapX (fun ix => spaceRead g t (t.base + t.rowOff ix) t.rowBytes) (rowIdx t.dims)

/-- Replace the entry at position `i` of a queue. -/
def dmaSet (g q i : Nat) (e : DmaEnt) (s : State) : State :=
  modCore g (fun c => c.setDma q ((c.dma q).set i e)) s

/-- The oldest unstarted entry of a queue starts: its source is read (R141). -/
def dmaStart (g q : Nat) (s : State) : State :=
  let c := getCore s g
  if c.role = .placed && c.stop = .go && (getCtx s c.part c.slot).resident then
    match (c.dma q).findIdx? fun e => e.data.isNone with
    | none => s
    | some i =>
      match (c.dma q)[i]? with
      | none => s
      | some e =>
        let (r, v) := (dmaRead g (Td.of e.src)).run { s, t := { ctl := 0 } }
        match r with
        | .error x => failXAt g x e.maker v.s
        | .ok rows => dmaSet g q i { e with data := some rows.flatten } v.s
  else s

def doDmaEntryStart (t g q : Nat) (s : State) : State := dmaStart g q (advance t s)

def execDmaEntryStart (t g q : Nat) (s : State) : Host.Outcome State Fault Refusal := .next (doDmaEntryStart t g q s)

/-- Write the data of an entry to its destination. -/
def dmaWrite (g : Nat) (t : Td) (data : List Byte) : Xm Unit :=
  eachX (fun x => spaceWrite g t (t.base + t.rowOff x.2) x.1)
    ((chunks t.rowBytes data.length data).zip (rowIdx t.dims))

/-- The oldest entry of a queue, once started, completes: its writes are visible (R141). -/
def dmaFinish (g q : Nat) (s : State) : State :=
  let c := getCore s g
  if c.role = .placed && c.stop ≠ .saved then
    match c.dma q with
    | [] => s
    | e :: r =>
      match e.data with
      | none => s
      | some d =>
        let (x, v) := (dmaWrite g (Td.of e.dst) d).run { s, t := { ctl := 0 } }
        match x with
        | .error x => failXAt g x e.maker v.s
        | .ok _ => modCore g (fun c => c.setDma q r) v.s
  else s

def doDmaEntryDone (t g q : Nat) (s : State) : State := dmaFinish g q (advance t s)

def execDmaEntryDone (t g q : Nat) (s : State) : Host.Outcome State Fault Refusal := .next (doDmaEntryDone t g q s)

/-! ## PREF (R176) -/

/-- Clear a bank: live bit, line-valid bits and stored errors (R138). -/
def Core.killBank (c : Core) (b : Nat) : Core :=
  { c with live := c.live &&& ~~~(BitVec.ofNat 48 (2 ^ b)), sp := tabErase c.sp (b * 0x10000) 0x10000,
           spValid := tabErase c.spValid (b * 1024) 1024,
           ecc := c.ecc.filter fun e => !(b * 1024 ≤ e.1 && e.1 < (b + 1) * 1024) }

/-- Fill one line ahead of its fetch; an address that cannot be read fetches nothing. -/
def prefLine (g : Nat) (s : State) (line : Nat) : State :=
  let c := getCore s g
  if c.count ≤ 16 * line || c.icLines.elem line then s
  else
    let prog := match (getCtx s c.part c.slot).launch with | some l => l.prog | none => 0
    let a := prog + 64 + 256 * line
    if (refusedAt s c.part a (lineBytes c line) false).isSome then s
    else match readPart c.part a (lineBytes c line) (.ctx c.part c.slot) s with
      | (.ok bs, s) => icFill g line bs s
      | (.error _, s) => s

def doPref (g : Nat) (s : State) : State :=
  issue g 0x3B (fun w => onlyBits w (if flag w 0 then [(0, 48), (111, 1)] else [fRa, fImm])) (fun w s =>
    if flag w 0 then
      let banks := bitList 48 (wf w 0 48)
      if banks.any fun b => hazard s g false (b * 0x10000) 0x10000 then s
      else nextPc g (modCore g (fun c => banks.foldl Core.killBank c) s)
    else
      let n := wf w 32 16
      if n = 0 ∨ 4096 < n then stopCore g 0x13 0 s
      else
        let first := ((getCore s g).getS (raOf w)).toNat + wf w 0 32
        nextPc g (((List.range ((first + n - 1) / 16 - first / 16 + 1)).map (first / 16 + ·)).foldl (prefLine g) s)) s

def execPrefI (g : Nat) (s : State) : Host.Outcome State Fault Refusal := .next (doPref g s)

/-! ## HALO (R177, R235 to R239) -/

/-- Scratchpad offset of a seam slot: side 0 upper, 1 lower (R236). -/
def seamBase (side slot : Nat) : Nat := (40 + 2 * side + slot) * 0x10000

/-- A field of a slot's header. -/
def seamField (s : State) (g base k n : Nat) : Nat := ofBytes (getBytes (getCore s g).sp (base + k) n)

/-- A slot is full and holds a tag. -/
def seamHolds (s : State) (g base tag row : Nat) : Bool :=
  seamField s g base 4 1 = 1 && seamField s g base 0 2 = tag && seamField s g base 2 2 = row

/-- Scale blocks of a row-set and the records they take. -/
def Td.blockCount (t : Td) : Nat := t.blocks * t.dim 1 * t.dim 2 * t.dim 3 * t.dim 4
def Td.recCount (t : Td) (n : Nat) : Nat := if t.sf = 0 then 0 else t.recBytes n / 64

/-- Read a row-set, records checked as a vector reader does, and write it into a seam slot, header last (R237). -/
def haloSend (g h t side tag row : Nat) : Xm Unit := do
  let d ← tdArg g t false
  need 0x05 (d.rank = 3 && d.space = 0)
  let n := d.blockCount
  let bytes := d.rowBytes * d.dim 1 * d.dim 2
  need 0x07 (bytes ≤ 61376 && (d.sf = 0 || n ≤ 1920) && d.recCount n ≤ 64)
  needSpan g d false
  if d.sf = 0 then pure () else eachX (fun x => do let _ ← scaleOf g d x; pure ()) (List.range n)
  let rows ← dmaRead g d
  let recs ← if d.sf = 0 then pure [] else spRead g d.scaleOff (d.recBytes n)
  let b := seamBase side (row % 2)
  spWrite h (b + 0x40) rows.flatten
  spWrite h (b + 0xF000) recs
  spWrite h b (toBytes 2 tag ++ toBytes 2 row ++ [1] ++ toBytes 1 (leAt d.raw 10 1) ++ toBytes 2 (d.dim 2) ++
    toBytes 4 (d.dim 0) ++ toBytes 4 (d.dim 1) ++ toBytes 2 d.block0 ++ toBytes 2 (d.recCount n) ++
    toBytes 4 bytes ++ zeros 40)

/-- The neighbour an op and a side must name (R235), if there is one. -/
def haloPeer (idx op side : Nat) : Option Nat :=
  if (op = 0) = (side = 0) then some (idx + 1) else if idx = 0 then none else some (idx - 1)

/-- HALO wait: the slot holds the tag and becomes current (R237). -/
def haloWait (g side tag row : Nat) (s : State) : State :=
  if seamHolds s g (seamBase side (row % 2)) tag row then
    nextPc g (modCore g (fun c =>
      if side = 0 then { c with seamU := some (row % 2) } else { c with seamL := some (row % 2) }) s)
  else s

/-- HALO release (R237). -/
def haloRelease (g side tag row : Nat) (s : State) : State :=
  let b := seamBase side (row % 2)
  if !seamHolds s g b tag row then stopCore g 0x13 0 s
  else if (getCore s g).runs.any fun r => (if side = 0 then r.seamU else r.seamL) = some (row % 2) then s
  else nextPc g (modCore g (fun c => c.putSp (b + 4) [0]) s)

def doHalo (g : Nat) (s : State) : State :=
  issue g 0x39 (fun w => onlyBits w ([(100, 7), (84, 16), (68, 16), (111, 3)] ++
      if wf w 111 2 = 0 ∨ wf w 111 2 = 3 then [(107, 4)] else [])) (fun w s =>
    let c := getCore s g
    let op := wf w 111 2
    let side := b2n (flag w 2)
    let peer := wf w 100 7
    let tag := wf w 84 16
    let row := wf w 68 16
    if op = 3 then stopCore g 0x13 0 s
    else if haloPeer c.idx op side ≠ some peer ∨ (getCtx s c.part c.slot).cores ≤ peer then stopCore g 0x10 0 s
    else match op with
      | 0 =>
        match (getCtx s c.part c.slot).place[peer]? with
        | none => s
        | some h =>
          let t := Td.of (c.getT (wf w 107 4))
          if seamField s h (seamBase side (row % 2)) 4 1 = 1 || tdHazard s g t then s
          else runX g (haloSend g h (wf w 107 4) side tag row) (nextPc g) s
      | 1 => haloWait g side tag row s
      | _ => haloRelease g side tag row s) s

def execHaloI (g : Nat) (s : State) : Host.Outcome State Fault Refusal := .next (doHalo g s)

/-! ## The mesh (R142, R148) -/

/-- A packet of a context is lost after retransmission at the router of core `c` of a die (CDx_MESH_ERR, event 0x0404). -/
def doMeshPacketLost (t die c vc p slot : Nat) (s : State) : State :=
  let s := advance t s
  let g := 32 * die + c
  let k := getCore s g
  let s := stick ((Blk.core g).base + 0x10) 2 3 none s
  let s := stick ((Blk.die die).base + 0x10) 1 3 (some (8, 5, c)) s
  let s := record (2 + die) 0x0404 [.id1 die, .id1 c, .code1 vc] p slot s
  let mine := k.role = .placed && k.part = p && k.slot = slot
  if (getCtx s p slot).st = .free then s
  else settle (teardown p slot 0x0200 (if mine then k.idx else 0) (if mine then k.pc else 0) 0 none s)

def execMeshPacketLost (t die c vc p slot : Nat) (s : State) : Host.Outcome State Fault Refusal :=
  .next (doMeshPacketLost t die c vc p slot s)

end Sys2Proof.Machine
end

