-- ==== Sys2Proof/Machine/Window.lean ====
section
/-!
DEFINITION. Window.lean: the geometry of windowed instructions: format W fields (R166), output sizes (R225), borders
(R227, R228), transposed taps (R230), and rows taken from the seam buffer (R238).
-/
namespace Sys2Proof.Machine

/-- The window fields of format W. -/
structure Win where
  kh : Nat
  kw : Nat
  sh : Nat
  sw : Nat
  dh : Nat
  dw : Nat
  pt : Nat
  pb : Nat
  pl : Nat
  pr : Nat
  pmode : Nat
  spad : Nat
  /-- 0 means 1 -/
  groups : Nat
  deriving DecidableEq, Repr

def Win.of (w : InstrWord) : Win :=
  { kh := wf w 89 6, kw := wf w 83 6, sh := wf w 79 4, sw := wf w 75 4, dh := wf w 71 4, dw := wf w 67 4,
    pt := wf w 61 6, pb := wf w 55 6, pl := wf w 49 6, pr := wf w 43 6, pmode := wf w 41 2, spad := wf w 36 5,
    groups := wf w 24 12 }

/-- Fields of format W that every windowed instruction uses. -/
def winFields : List (Nat × Nat) := [(107, 4), (103, 4), (24, 71)]

/-- The window's own ranges (R166): a zero size, stride or dilation, or a spad without pmode constant. -/
def Win.ok (w : Win) : Bool :=
  w.kh ≠ 0 && w.kw ≠ 0 && w.sh ≠ 0 && w.sw ≠ 0 && w.dh ≠ 0 && w.dw ≠ 0 && (w.pmode = 1 || w.spad = 0)

/-- Groups (0 means 1). -/
def Win.g (w : Win) : Nat := max 1 w.groups

/-- Output size of a window over `n` (R225). -/
def outSize (n lo hi k s d : Nat) : Int := ((n : Int) + lo + hi - d * (k - 1 : Nat) - 1) / s + 1

/-- Output size of a transposed window (R225). -/
def outSizeT (n lo hi k s d : Nat) : Int := ((n : Int) - 1) * s + d * (k - 1 : Nat) + 1 - lo - hi

def Win.outH (w : Win) (tr : Bool) (h : Nat) : Int :=
  if tr then outSizeT h w.pt w.pb w.kh w.sh w.dh else outSize h w.pt w.pb w.kh w.sh w.dh
def Win.outW (w : Win) (tr : Bool) (x : Nat) : Int :=
  if tr then outSizeT x w.pl w.pr w.kw w.sw w.dw else outSize x w.pl w.pr w.kw w.sw w.dw

/-- Where a tap reads. -/
inductive Tap where
  | absent
  | pad
  | pix (y x : Nat)
  | seam (side row x : Nat)
  deriving DecidableEq, Repr

/-- A coordinate brought inside 0 to n - 1, or none for a zero or constant tap (R227). -/
def border (pmode : Nat) (i : Int) (n : Nat) : Option Nat :=
  if 0 ≤ i ∧ i < n then some i.toNat
  else match pmode with
    | 2 => some (if i < 0 then 0 else n - 1)
    | 3 => some (if i < 0 then (-i).toNat else (2 * ((n : Int) - 1) - i).toNat)
    | _ => none

/-- A transposed coordinate, where the tap is present (R230). -/
def transTap (o p k d s n : Nat) : Option Nat :=
  let q : Int := (o : Int) + p - k * d
  if 0 ≤ q ∧ q.toNat % s = 0 ∧ q.toNat / s < n then some (q.toNat / s) else none

/-- A seamed side's slot: its scratchpad base. -/
structure Seams where
  up : Option Nat := none
  low : Option Nat := none
  /-- rows of the upper slot -/
  upRows : Nat := 0
  deriving DecidableEq, Repr

/-- The tap (ky, kx) of output (y, x) over an image of `h` by `wd` (R227, R230, R238). -/
def Win.tap (w : Win) (tr : Bool) (sm : Seams) (h wd y x ky kx : Nat) : Tap :=
  if tr then
    match transTap y w.pt ky w.dh w.sh h, transTap x w.pl kx w.dw w.sw wd with
    | some iy, some ix => .pix iy ix
    | _, _ => .absent
  else
    let iy : Int := (y * w.sh : Nat) - w.pt + (ky * w.dh : Nat)
    let ix : Int := (x * w.sw : Nat) - w.pl + (kx * w.dw : Nat)
    match border w.pmode ix wd with
    | none => .pad
    | some cx =>
      if iy < 0 ∧ sm.up.isSome then .seam 0 (sm.upRows - (-iy).toNat) cx
      else if (h : Int) ≤ iy ∧ sm.low.isSome then .seam 1 (iy - h).toNat cx
      else match border w.pmode iy h with
        | none => .pad
        | some cy => .pix cy cx

/-- The scratchpad base of the slot on a side. -/
def Seams.base (sm : Seams) (side : Nat) : Nat :=
  match (if side = 0 then sm.up else sm.low) with
  | some slot => seamBase side slot
  | none => 0

/-- The seams of an instruction: a seamed side without a current slot faults (R238). -/
def seamsFor (g : Nat) (up low : Bool) : Xm Seams := do
  let c ← peekX fun s => getCore s g
  need 0x13 ((!up || c.seamU.isSome) && (!low || c.seamL.isSome))
  let rows ← peekX fun s => match c.seamU with | some k => seamField s g (seamBase 0 k) 6 2 | none => 0
  pure { up := if up then c.seamU else none, low := if low then c.seamL else none, upRows := rows }

/-- A slot's format and dimensions agree with ta, and it holds the pad's rows (R238). -/
def seamFits (g : Nat) (ta : Td) (side : Nat) (slot : Option Nat) (pad : Nat) : Xm Unit :=
  match slot with
  | none => pure ()
  | some k => do
    let b := seamBase side k
    let ok ← peekX fun s => seamField s g b 5 1 = leAt ta.raw 10 1 && seamField s g b 8 4 = ta.dim 0 &&
      seamField s g b 12 4 = ta.dim 1 && pad ≤ seamField s g b 6 2
    need 0x07 ok

/-- Check 7 of R226 from the window on: sizes, reflect pads, seams, then `dims`. -/
def winShape (g : Nat) (w : Win) (tr : Bool) (sm : Seams) (ta : Td) (dims : Bool) : Xm Unit := do
  need 0x20 (1 ≤ w.outH tr (ta.dim 2))
  need 0x20 (1 ≤ w.outW tr (ta.dim 1))
  let top := sm.up.isSome || w.pt < ta.dim 2
  let bot := sm.low.isSome || w.pb < ta.dim 2
  need 0x21 (w.pmode ≠ 3 || (top && bot && w.pl < ta.dim 1 && w.pr < ta.dim 1))
  need 0x07 dims
  seamFits g ta 0 sm.up w.pt
  seamFits g ta 1 sm.low w.pb

/-- Code of element `c` of a pixel in the seam buffer: dense rows of the slot (Table 7.1). -/
def seamCode (g : Nat) (ta : Td) (base row x c : Nat) : Xm Nat := do
  let i := (row * ta.dim 1 + x) * ta.dim 0 + c
  let bs ← spRead g (base + 0x40 + i * ta.ebits / 8) (max 1 (ta.ebits / 8))
  let n := ofBytes bs
  pure (if ta.ebits = 4 then (if i % 2 = 0 then n % 16 else n / 16) else n)

/-- Scale and offset of a block of a pixel in the seam buffer, checked with the slot's block0 (R238). -/
def seamScale (g : Nat) (ta : Td) (base row x b : Nat) : Xm (Ex × Ex) := do
  let b0 ← peekX fun s => seamField s g base 0x10 2
  let k := (row * ta.dim 1 + x) * ta.blocks + b
  let o := base + 0xF000 + (if ta.asym then 128 else 64) * (k / 30)
  let v ← recSlot g o b0 k ta.sf false
  if ta.asym then do
    let f ← recSlot g (o + 64) b0 k ta.sf true
    pure (slotScale ta.sf v, bf16.decode f)
  else pure (slotScale ta.sf v, .fin false 0 1)

/-- The value of an out-of-image tap (R227). -/
def padVal (ta : Td) (pmode : Nat) (pad : DWord) : Ex :=
  if pmode = 1 then elemVal ta.fmt (pad.toNat % 2 ^ ta.ebits) else .fin false 0 1

/-- Value of channel `c` at a tap before its scale; none where the tap is absent. `nb` is the batch index. -/
def tapVal (g : Nat) (ta : Td) (sm : Seams) (pmode : Nat) (pad : DWord) (nb c : Nat) (t : Tap) : Xm (Option Ex) := do
  let s ← peekX id
  match t with
  | .absent => pure none
  | .pad => pure (some (padVal ta pmode pad))
  | .pix y x => do
    let k ← elemCode g ta c [x, y, nb, 0]
    pure (some (codeVal s g ta (Td.tileAt ta [x, y, nb, 0]) k))
  | .seam side row x => do
    let k ← seamCode g ta (sm.base side) row x c
    pure (some (codeVal s g ta (Td.tileAt ta [x, row, nb, 0]) k))

/-- Scale and offset that go with a tap's channel block (R222, R227). -/
def tapScale (g : Nat) (ta : Td) (sm : Seams) (nb b : Nat) (t : Tap) : Xm (Ex × Ex) :=
  match t with
  | .pix y x => scaleOf g ta (ta.rowNo [x, y, nb, 0] * ta.blocks + b)
  | .seam side row x => seamScale g ta (sm.base side) row x b
  | _ => pure (.fin false 1 1, .fin false 0 1)

end Sys2Proof.Machine
end

