-- ==== Sys2Proof/Machine/Tensor.lean ====
section
/-!
DEFINITION. Tensor.lean: MMT, MMA, CONV, CONVT and CBLD (R165 to R167, R221 to R232): their checks, the tiles they make
(R131, R224), the leaf of a tile (R125, R126), the combination of leaves (R127, R128), and gleaning (R132 to R137).
-/
namespace Sys2Proof.Machine

/-! ## Pairs (Table 4.2, R194) -/

/-- The engines take this pair of activation and weight format. -/
def pairOk (a b : Nat) : Bool :=
  ((a = 0 || a = 1) && (b = 0 || b = 2)) || ((a = 3 || a = 4) && (b = 3 || b = 4)) ||
    ((a = 0 || a = 1 || a = 3 || a = 4) && (b = 8 || b = 9)) || ((a = 5 || a = 6) && (b = 5 || b = 6))

/-- An integer pair. -/
def pairInt (a b : Nat) : Bool := (a = 0 || a = 1) && (b = 0 || b = 2)

/-- Check 6 of an engine pair and its accumulators (R123, R165, R194). -/
def pairFits (td ta tb : Td) : Bool :=
  pairOk ta.fmt tb.fmt && td.sf = 0 && (td.fmt = if pairInt ta.fmt tb.fmt then 10 else 7) &&
    (!pairInt ta.fmt tb.fmt || (ta.sf = 0 && tb.sf = 0)) && !(ta.fmt = 1 && ta.sf ≠ 0)

/-! ## What an instruction multiplies -/

/-- A tensor instruction laid out for its tiles. -/
structure Plan where
  td : Td
  ta : Td
  tb : Td
  tc : Td
  /-- CONV or CONVT -/
  conv : Bool
  tr : Bool
  transA : Bool
  transB : Bool
  bias : Bool
  accum : Bool
  w : Win
  /-- integer pair -/
  int : Bool
  /-- rows of a batch, or all output pixels -/
  rows : Nat
  /-- output columns -/
  cols : Nat
  batch : Nat
  /-- reduction length of a matrix product -/
  k : Nat
  /-- channels of a group, and positions a tap takes (R222) -/
  cg : Nat
  cgp : Nat
  aligned : Bool
  /-- taps of each pass, in order (R232) -/
  passes : List (List (Nat × Nat))
  deriving DecidableEq, Repr

/-- All taps in order. -/
def allTaps (w : Win) : List (Nat × Nat) :=
  (List.range w.kh).flatMap fun y => (List.range w.kw).map fun x => (y, x)

/-- Taps by 7 by 7 sub-windows (R232). -/
def passTaps (w : Win) : List (List (Nat × Nat)) :=
  (List.range ((w.kh + 6) / 7)).flatMap fun py => (List.range ((w.kw + 6) / 7)).map fun px =>
    (allTaps w).filter fun t => t.1 / 7 = py && t.2 / 7 = px

/-- The plan of an instruction word over its descriptors. -/
def planOf (w : InstrWord) (td ta tb tc : Td) : Plan :=
  let op := opOf w
  let conv := op = 0x22 || op = 0x23
  let win := Win.of w
  let transA := !conv && flag w 0
  let transB := !conv && flag w 1
  let cg := ta.dim 0 / win.g
  let aligned := ta.sf ≠ 0
  { td, ta, tb, tc, conv, tr := op = 0x23, transA, transB, bias := conv && flag w 0,
    accum := if conv then flag w 1 else op = 0x21, w := win, int := pairInt ta.fmt tb.fmt,
    rows := if conv then td.dim 1 * td.dim 2 * td.dim 3 else td.dim 1,
    cols := td.dim 0, batch := if conv then 1 else td.dim 2, k := if transA then ta.dim 1 else ta.dim 0,
    cg, cgp := if aligned then 32 * ((cg + 31) / 32) else cg, aligned,
    passes := if conv then (if op = 0x22 && flag w 4 then passTaps win else [allTaps win]) else [[]] }

/-- Reduction length of a pass, and its k-tiles. -/
def Plan.len (p : Plan) (taps : List (Nat × Nat)) : Nat := if p.conv then taps.length * p.cgp else p.k
def Plan.tiles (p : Plan) (taps : List (Nat × Nat)) : Nat := (p.len taps + 31) / 32

/-- The (pass, k-tile) pairs of an output block, in order. -/
def Plan.seq (p : Plan) : List (Nat × Nat) :=
  (p.passes.zip (List.range p.passes.length)).flatMap fun x => (List.range (p.tiles x.1)).map fun j => (x.2, j)

/-- n-tile width (Table 4.2). -/
def Plan.width (p : Plan) : Nat := if p.tb.fmt = 8 then 64 else 32
def Plan.nTiles (p : Plan) : Nat := (p.cols + p.width - 1) / p.width
def Plan.mBlocks (p : Plan) : Nat := (p.rows + 63) / 64

/-- Output blocks: batch outermost, then m-block, then n-tile (R165, R224). -/
def Plan.blocks (p : Plan) : Nat := p.batch * p.mBlocks * p.nTiles

/-- Batch, m-block and n-tile of a block. -/
def Plan.at_ (p : Plan) (b : Nat) : Nat × Nat × Nat :=
  (b / (p.mBlocks * p.nTiles), b / p.nTiles % p.mBlocks, b % p.nTiles)

/-- Rows and columns of a block. -/
def Plan.rowsOf (p : Plan) (b : Nat) : List Nat :=
  let m := (p.at_ b).2.1
  (List.range (min 64 (p.rows - 64 * m))).map (64 * m + ·)
def Plan.colsOf (p : Plan) (b : Nat) : List Nat :=
  let n := (p.at_ b).2.2
  (List.range (min p.width (p.cols - p.width * n))).map (p.width * n + ·)

/-- Output pixel of row `m`: batch, y, x (R224). -/
def Plan.pixel (p : Plan) (m : Nat) : Nat × Nat × Nat :=
  (m / (p.td.dim 1 * p.td.dim 2), m / p.td.dim 1 % p.td.dim 2, m % p.td.dim 1)

/-- Staging slots a tile or node of the plan takes (R130). -/
def Plan.slots (p : Plan) : Nat := if p.tb.fmt = 8 then 2 else 1

/-- Position `i` of k-tile `j` of a pass: its tap and channel, where it lies inside the reduction and the group. -/
def Plan.place (p : Plan) (taps : List (Nat × Nat)) (j i : Nat) : Option ((Nat × Nat) × Nat) :=
  let pos := 32 * j + i
  if p.len taps ≤ pos then none
  else if p.cg ≤ pos % p.cgp then none
  else (taps[pos / p.cgp]?).map fun t => (t, pos % p.cgp)

/-- Index of a position along dim0 of the weights (R222). -/
def Plan.wIndex (p : Plan) (tap : Nat × Nat) (c : Nat) : Nat := (tap.1 * p.w.kw + tap.2) * p.cgp + c

/-! ## Reading operands of a leaf -/

/-- Activations of row `m` at k-tile `j` of a pass, with their scale. -/
def actRow (g : Nat) (p : Plan) (sm : Seams) (pad : DWord) (b : Nat) (grp : Nat) (taps : List (Nat × Nat)) (j m : Nat) :
    Xm (List (Option Ex) × Ex) := do
  if p.conv then do
    let (nb, y, x) := p.pixel m
    let tapAt (t : Nat × Nat) : Tap := p.w.tap p.tr sm (p.ta.dim 2) (p.ta.dim 1) y x t.1 t.2
    let vals ← mapX (fun i => match p.place taps j i with
      | none => pure none
      | some (t, c) => tapVal g p.ta sm p.w.pmode pad nb (grp * p.cg + c) (tapAt t)) (List.range 32)
    let sc ← (match p.aligned, p.place taps j 0 with
      | true, some (t, c) => do
        let r ← tapScale g p.ta sm nb ((grp * p.cg + c) / 32) (tapAt t)
        pure r.1
      | _, _ => pure (Ex.fin false 1 1))
    pure (vals, sc)
  else do
    let batch := (p.at_ b).1
    let s ← peekX id
    let vals ← mapX (fun i =>
      let k := 32 * j + i
      if p.k ≤ k then pure none
      else do
        let code ← if p.transA then elemCode g p.ta m [k, batch, 0, 0] else elemCode g p.ta k [m, batch, 0, 0]
        pure (some (codeVal s g p.ta 0 code))) (List.range 32)
    let sc ← if p.ta.sf = 0 then pure (Ex.fin false 1 1) else do
      let r ← scaleOf g p.ta ((m + p.rows * batch) * ((p.k + 31) / 32) + j)
      pure r.1
    pure (vals, sc)

/-- Weights of column `n` at k-tile `j` of a pass, with their scale. -/
def wtCol (g : Nat) (p : Plan) (b : Nat) (taps : List (Nat × Nat)) (j n : Nat) : Xm (List (Option Ex) × Ex) := do
  let s ← peekX id
  let batch := (p.at_ b).1
  let nt := (p.at_ b).2.2
  if p.conv then do
    let vals ← mapX (fun i => match p.place taps j i with
      | none => pure none
      | some (t, c) => do
        let code ← elemCode g p.tb (p.wIndex t c) [n, 0, 0, 0]
        pure (some (codeVal s g p.tb nt code))) (List.range 32)
    let sc ← (match p.tb.sf == 0, p.place taps j 0 with
      | false, some (t, c) => do
        let r ← scaleOf g p.tb (n * p.tb.blocks + p.wIndex t c / 32)
        pure r.1
      | _, _ => pure (Ex.fin false 1 1))
    pure (vals, sc)
  else do
    let vals ← mapX (fun i =>
      let k := 32 * j + i
      if p.k ≤ k then pure none
      else do
        let code ← if p.transB then elemCode g p.tb n [k, batch, 0, 0] else elemCode g p.tb k [n, batch, 0, 0]
        pure (some (codeVal s g p.tb nt code))) (List.range 32)
    let sc ← if p.tb.sf = 0 then pure (Ex.fin false 1 1) else do
      let r ← scaleOf g p.tb ((n + p.cols * batch) * ((p.k + 31) / 32) + j)
      pure r.1
    pure (vals, sc)

/-! ## The leaf (R124 to R126, R191, R192, R195) -/

/-- An addition with an absent operand passes the other on (R125, R127). -/
def addOpt (f : Word → Word → Num Word) : Option Word → Option Word → Num (Option Word)
  | some a, some b => do
    let x ← f a b
    pure (some x)
  | some a, none => pure (some a)
  | none, b => pure b

/-- Node addition: modulo 2^32 for integers, else FP32 (R125). -/
def nodeAdd (int : Bool) (a b : Word) : Num Word := if int then pure (a + b) else addF a b

/-- Product of two elements (R125). -/
def nodeMul (int : Bool) (a b : Ex) : Num Word :=
  if int then
    match a, b with
    | .fin x n _, .fin y m _ => pure (BitVec.ofInt 32 (sgn x n * sgn y m))
    | _, _ => pure 0
  else finish32 (a.mul b)

/-- Products of one output column at the positions where both are present. -/
def products (int : Bool) (a b : List (Option Ex)) : Num (List (Option Word)) :=
  mapN (fun x => match x.1, x.2 with
    | some u, some v => do
      let z ← nodeMul int u v
      pure (some z)
    | _, _ => pure none) (a.zip b)

/-- Sum over the 32 positions of a k-tile (R125). -/
def columnSum (int : Bool) (l : List (Option Word)) : Num (Option Word) := tree (addOpt (nodeAdd int)) none 5 l

/-- Leaf of one output element: the column sum under its scales (R195). -/
def leafOf (int scaled : Bool) (a : List (Option Ex) × Ex) (b : List (Option Ex) × Ex) : Num (Option Word) := do
  let ps ← products int a.1 b.1
  let cs ← columnSum int ps
  match cs with
  | none => pure none
  | some c =>
    if scaled then do
      let sc ← finish32 (a.2.mul b.2)
      let l ← mulF c sc
      pure (some l)
    else pure (some c)

/-- Leaf of a whole tile, row by row. -/
def tileLeaf (g : Nat) (p : Plan) (sm : Seams) (pad : DWord) (b q : Nat) : Xm (List (Option Word)) := do
  let (pass, j) := p.seq.getD q (0, 0)
  let taps := p.passes.getD pass []
  let ns := p.colsOf b
  let per := p.cols / p.w.g
  let cols ← mapX (fun n => do
    let c ← wtCol g p b taps j n
    pure (n, c)) ns
  let rows ← mapX (fun m => do
    let first ← actRow g p sm pad b (ns.headD 0 / max 1 per) taps j m
    mapX (fun c => do
      let a ← if p.conv && 1 < p.w.g && c.1 / max 1 per ≠ ns.headD 0 / max 1 per then
          actRow g p sm pad b (c.1 / max 1 per) taps j m
        else pure first
      num (leafOf p.int (p.ta.sf ≠ 0 || p.tb.sf ≠ 0) a c.2)) cols) (p.rowsOf b)
  pure rows.flatten

/-! ## Generation (R131, R230) -/

/-- A k-tile of a transposed convolution that no row of the block reaches is not generated. -/
def Plan.generated (p : Plan) (b q : Nat) : Bool :=
  if p.tr then
    let (pass, j) := p.seq.getD q (0, 0)
    let taps := p.passes.getD pass []
    (p.rowsOf b).any fun m =>
      let (_, y, x) := p.pixel m
      (List.range 32).any fun i => match p.place taps j i with
        | none => false
        | some (t, _) => p.w.tap true {} (p.ta.dim 2) (p.ta.dim 1) y x t.1 t.2 ≠ .absent
  else true

def Run.plan (r : Run) : Plan := planOf r.word (Td.of r.td) (Td.of r.ta) (Td.of r.tb) (Td.of r.tc)

/-- Every tile has been generated. -/
def Run.expanded (r : Run) : Bool := r.plan.blocks * r.plan.seq.length ≤ r.cur

/-- Put tiles of the last tensor instruction into the queue while entries are free; `n` bounds the positions looked at. -/
def generate : (n : Nat) → Core → Core
  | 0, c => c
  | n + 1, c =>
    match c.runs.getLast? with
    | none => c
    | some r =>
      let len := r.plan.seq.length
      if 64 ≤ c.tiles.length || r.expanded then c
      else
        let b := r.cur / len
        let q := r.cur % len
        let mk := r.plan.generated b q
        let r' := { r with cur := r.cur + 1, next := if mk then r.next + 1 else r.next }
        generate n { c with runs := c.runs.dropLast ++ [r'],
                            tiles := if mk then c.tiles ++ [{ run := r.id, tile := r.next, block := b, k := q }] else c.tiles }

/-- How many positions the last instruction still has. -/
def Core.leftToMake (c : Core) : Nat :=
  match c.runs.getLast? with | none => 0 | some r => r.plan.blocks * r.plan.seq.length - r.cur

def Core.refill (c : Core) : Core := generate c.leftToMake c

/-- The tensor instruction a tile belongs to. -/
def Core.run? (c : Core) (id : Nat) : Option Run := c.runs.find? (·.id = id)

/-- Index and opcode of a tensor instruction, for a fault its tiles meet (R161). -/
def Run.maker (r : Run) : Nat × Nat := (r.pc, opOf r.word)

/-- Staging slots in use: tiles taken, lent or waiting, and pending nodes (R130). -/
def Core.staged (c : Core) : Nat :=
  let per (id : Nat) : Nat := match c.run? id with | some r => r.plan.slots | none => 1
  (c.tiles.map fun t => if t.st = .queued then 0 else per t.run).sum +
    (c.blocks.map fun b => (b.nodes.length + b2n b.sum.isSome) * per b.run).sum

/-! ## Combination (R127, R128, R232) -/

/-- Add two leaves element by element. -/
def addLeaves (int : Bool) (a b : List (Option Word)) : Num (List (Option Word)) :=
  mapN (fun x => addOpt (nodeAdd int) x.1 x.2) (a.zip b)

/-- A new leaf meets the pending nodes: two of one level make one of the next (R127); `n` bounds the levels. -/
def pushNode (int : Bool) : (n : Nat) → (level : Nat) → List (Option Word) → List (Nat × List (Option Word)) →
    Num (List (Nat × List (Option Word)))
  | 0, l, v, r => pure ((l, v) :: r)
  | _ + 1, l, v, [] => pure [(l, v)]
  | n + 1, l, v, (k, u) :: r =>
    if k = l then do
      let x ← addLeaves int u v
      pushNode int n (l + 1) x r
    else pure ((l, v) :: (k, u) :: r)

/-- The root over the pending nodes (R127). -/
def foldNodes (int : Bool) : List (Nat × List (Option Word)) → Num (List (Option Word))
  | [] => pure []
  | (_, v) :: r => r.foldlM (fun acc x => addLeaves int x.2 acc) v

/-- Block of a run as the combine unit holds it. -/
def Core.block (c : Core) (run b : Nat) : Block :=
  (c.blocks.find? fun x => x.run = run && x.block = b).getD { run, block := b }

def Core.setBlock (c : Core) (x : Block) : Core :=
  { c with blocks := c.blocks.filter (fun y => !(y.run = x.run && y.block = x.block)) ++ [x] }

/-- The position is the last of its pass. -/
def Plan.endsPass (p : Plan) (q : Nat) : Bool :=
  match p.seq[q]?, p.seq[q + 1]? with
  | some a, some b => a.1 != b.1
  | _, _ => true

/-- The root of a pass joins the sum of the passes before it (R232); the bias joins the first pass's root, root as left
operand (R224). -/
def joinPass (p : Plan) (bias : List Word) (sum : Option (List Word)) (root : List Word) : Num (List Word) :=
  match sum with
  | some a => mapN (fun y => nodeAdd p.int y.1 y.2) (a.zip root)
  | none => if p.bias then mapN (fun y => nodeAdd p.int y.1 y.2) (root.zip bias) else pure root

/-- A leaf of a block is taken at its turn; at the end of its pass the pass's root is formed. -/
def takeLeaf (p : Plan) (bias : List Word) (x : Block) (v : List (Option Word)) : Num Block := do
  let nodes ← pushNode p.int 13 0 v x.nodes
  if p.endsPass x.next then do
    let r ← foldNodes p.int nodes
    let sum ← joinPass p bias x.sum (r.map fun o => o.getD 0)
    pure { x with next := x.next + 1, nodes := [], sum := some sum }
  else pure { x with next := x.next + 1, nodes }

/-- Values of the bias along a block, repeated for each row. -/
def biasOf (g : Nat) (p : Plan) (b : Nat) : Xm (List Word) := do
  if p.bias then do
    let l ← mapX (fun n => do
      let c ← elemCode g p.tc n [0, 0, 0, 0]
      pure (BitVec.ofNat 32 c)) (p.colsOf b)
    pure ((p.rowsOf b).flatMap fun _ => l)
  else pure []

/-- Address of the first column of a block in row `m` of D. -/
def Plan.dAddr (p : Plan) (b m : Nat) : Nat :=
  let n0 := (p.colsOf b).headD 0
  if p.conv then
    let (nb, y, x) := p.pixel m
    p.td.base + p.td.rowOff [x, y, nb, 0] + 4 * n0
  else p.td.base + p.td.rowOff [m, (p.at_ b).1, 0, 0] + 4 * n0

/-- The root of a block is written, added to the accumulator value where the instruction accumulates (R128). -/
def writeRoot (g : Nat) (p : Plan) (b : Nat) (root : List Word) : Xm Unit := do
  let w := (p.colsOf b).length
  eachX (fun x => do
    let a := p.dAddr b x.2
    let v ← if p.accum then do
        let old ← accRead g a (4 * w)
        num (mapN (fun y => nodeAdd p.int y.1 y.2) (((unpack 32 old).map (BitVec.ofNat 32)).zip x.1))
      else pure x.1
    accWrite g a (v.flatMap fun y => toBytes 4 y.toNat)) ((chunks w root.length root).zip (p.rowsOf b))

/-- What the combine unit does next for core `c`: a waiting leaf at its block's turn, or an absent one. -/
inductive Turn where
  | leaf (run : Run) (x : Block) (t : Tile)
  | skip (run : Run) (x : Block)
  | root (run : Run) (x : Block) (v : List Word)
  deriving DecidableEq, Repr

/-- The next turn of the combine unit. Blocks of the oldest instruction are written in order (R128). -/
def Core.turn (c : Core) : Option Turn :=
  match c.runs with
  | [] => none
  | r :: _ =>
    let p := r.plan
    let x := c.block r.id r.blocks
    let len := p.seq.length
    match x.sum with
    | some v => if len ≤ x.next then some (.root r x v) else go c r x
    | none => go c r x
where
  /-- A block of the oldest instruction may skip; any block takes its next leaf. -/
  go (c : Core) (r : Run) (x : Block) : Option Turn :=
    if x.next < r.plan.seq.length && !r.plan.generated r.blocks x.next then some (.skip r x)
    else c.tiles.findSome? fun t =>
      if t.st = .waiting then
        match c.run? t.run with
        | none => none
        | some r' =>
          let y := c.block t.run t.block
          if y.next = t.k then some (.leaf r' y t)
          else if y.next < t.k && !r'.plan.generated t.block y.next then some (.skip r' y)
          else none
      else none

/-- One turn of the combine unit. -/
def combineTurn (g : Nat) (tn : Turn) : Xm Unit := do
  match tn with
  | .leaf r x t => do
    modify fun v => { v with t := v.t.join t.counts t.trap }
    let bias ← biasOf g r.plan x.block
    let x ← num (takeLeaf r.plan bias x t.leaf)
    actX (modCore g fun c => ({ c with tiles := c.tiles.erase t }).setBlock x)
  | .skip r x => do
    let bias ← biasOf g r.plan x.block
    let n := (r.plan.rowsOf x.block).length * (r.plan.colsOf x.block).length
    let x ← num (takeLeaf r.plan bias x (List.replicate n none))
    actX (modCore g fun c => c.setBlock x)
  | .root r x v => do
    writeRoot g r.plan x.block v
    actX (modCore g fun c =>
      { c with blocks := c.blocks.filter (fun y => !(y.run = x.run && y.block = x.block)),
               runs := if r.blocks + 1 = r.plan.blocks then c.runs.filter (·.id ≠ r.id)
                 else c.runs.map fun y => if y.id = r.id then { y with blocks := y.blocks + 1 } else y })

/-- The combine unit works until nothing is to be done; `n` bounds its turns. -/
def combineAll (g : Nat) : (n : Nat) → Xm Unit
  | 0 => pure ()
  | n + 1 => do
    let t ← peekX fun s => (getCore s g).turn
    match t with
    | none => pure ()
    | some t => do
      combineTurn g t
      actX (modCore g Core.refill)
      combineAll g n

/-- Turns that can be due: one for every k-tile and every block of the instructions held. -/
def Core.turns (c : Core) : Nat := (c.runs.map fun r => r.plan.blocks * (r.plan.seq.length + 1)).sum + 1

/-- Generate and combine what can be. -/
def pump (g : Nat) : Xm Unit := do
  actX (modCore g Core.refill)
  let n ← peekX fun s => (getCore s g).turns
  combineAll g n

/-! ## Issue -/

/-- A tensor instruction has generated its last tile (R159). -/
def expandedAll (c : Core) : Bool := match c.runs.getLast? with | none => true | some r => r.expanded

/-- The instruction joins those that generate and combine. -/
def startRun (g : Nat) (w : InstrWord) (sm : Seams) : Xm Unit := do
  actX (modCore g fun c =>
    let r : Run := { id := c.nextRun, word := w, pc := c.pc, td := c.getT (wf w 107 4), ta := c.getT (wf w 103 4),
                     tb := c.getT (wf w 99 4), tc := c.getT (wf w 95 4), pad := c.getS (wf w 36 5),
                     seamU := sm.up, seamL := sm.low }
    { c with runs := c.runs ++ [r], nextRun := c.nextRun + 1 })
  pump g

/-- Operands are free of writes still to come (R140). -/
def operandsFree (s : State) (g : Nat) (l : List Td) : Bool := l.all fun t => !tdHazard s g t && !recHazard s g t t.blockCount

/-- Checks 5 to 8 of MMT and MMA (R129, R165). -/
def mmCheck (g : Nat) (w : InstrWord) : Xm Unit := do
  let td ← tdArg g (wf w 107 4) true
  let ta ← tdArg g (wf w 103 4) false
  let tb ← tdArg g (wf w 99 4) false
  need 0x05 (td.space = 1 && (ta.space = 0 || ta.space = 3) && (tb.space = 0 || tb.space = 3))
  need 0x05 (2 ≤ td.rank && td.rank ≤ 3 && 2 ≤ ta.rank && ta.rank ≤ 3 && 2 ≤ tb.rank && tb.rank ≤ 3)
  need 0x06 (pairFits td ta tb)
  let ka := if flag w 0 then ta.dim 1 else ta.dim 0
  let ma := if flag w 0 then ta.dim 0 else ta.dim 1
  let kb := if flag w 1 then tb.dim 1 else tb.dim 0
  let nb := if flag w 1 then tb.dim 0 else tb.dim 1
  need 0x08 (ka ≤ 131072)
  need 0x07 (ka = kb && ma = td.dim 1 && nb = td.dim 0 && ta.dim 2 = td.dim 2 && tb.dim 2 = td.dim 2)
  needSpan g td true
  needSpan g ta false
  needSpan g tb false

/-- MMT or MMA. -/
def doMm (g op : Nat) (s : State) : State :=
  issue g op (fun w => onlyBits w [(107, 4), (103, 4), (99, 4), (111, 2)]) (fun w s =>
    let c := getCore s g
    let l := [wf w 107 4, wf w 103 4, wf w 99 4].map fun i => Td.of (c.getT i)
    if expandedAll c && operandsFree s g l then
      runX g (do
        mmCheck g w
        startRun g w {}) (nextPc g) s
    else s) s

def execMmtI (g : Nat) (s : State) : Host.Outcome State Fault Refusal := .next (doMm g 0x20 s)
def execMmaI (g : Nat) (s : State) : Host.Outcome State Fault Refusal := .next (doMm g 0x21 s)

/-- Checks 4 to 8 of CONV and CONVT (R166, R221 to R232). -/
def convCheck (g : Nat) (w : InstrWord) (tr : Bool) : Xm Seams := do
  let win := Win.of w
  need 0x13 (win.ok && (!tr || (win.pmode = 0 && win.spad = 0)))
  let sm ← if tr then pure {} else seamsFor g (flag w 2) (flag w 3)
  let td ← tdArg g (wf w 107 4) true
  let ta ← tdArg g (wf w 103 4) false
  let tb ← tdArg g (wf w 99 4) false
  need 0x05 (td.space = 1 && (ta.space = 0 || ta.space = 3) && (tb.space = 0 || tb.space = 3))
  need 0x05 ((ta.rank = 3 || ta.rank = 4) && td.rank = ta.rank && tb.rank = 2)
  let tc ← if flag w 0 then tdArg g (wf w 95 4) false else pure td
  need 0x06 (pairFits td ta tb)
  let biasOk := tc.rank = 1 && tc.dim 0 = td.dim 0 && tc.sf = 0 &&
    (if td.fmt = 10 then tc.fmt = 10 && tc.space = 1 else tc.fmt = 7 && tc.space ≤ 1)
  need 0x06 (!flag w 0 || biasOk)
  let p := planOf w td ta tb tc
  need 0x08 (p.passes.all fun t => p.tiles t ≤ 4096)
  let dims := ta.dim 0 % win.g = 0 && td.dim 0 % win.g = 0 && (!p.aligned || win.g = 1 || p.cg % 32 = 0) &&
    tb.dim 0 = win.kh * win.kw * p.cgp && tb.dim 1 = td.dim 0 && (td.dim 2 : Int) = win.outH tr (ta.dim 2) &&
    (td.dim 1 : Int) = win.outW tr (ta.dim 1) && td.dim 3 = ta.dim 3
  winShape g win tr sm ta dims
  needSpan g td true
  needSpan g ta false
  needSpan g tb false
  if flag w 0 then needSpan g tc false else pure ()
  pure sm

/-- CONV or CONVT. -/
def doConvOp (g op : Nat) (tr : Bool) (s : State) : State :=
  issue g op (fun w => onlyBits w (winFields ++ [(99, 4), (111, 2)] ++ (if flag w 0 then [(95, 4)] else []) ++
      if tr then [] else [(113, 3)])) (fun w s =>
    let c := getCore s g
    let l := ([wf w 107 4, wf w 103 4, wf w 99 4] ++ if flag w 0 then [wf w 95 4] else []).map fun i => Td.of (c.getT i)
    if expandedAll c && operandsFree s g l then
      runX g (do
        let sm ← convCheck g w tr
        startRun g w sm) (nextPc g) s
    else s) s

def execConvI (g : Nat) (s : State) : Host.Outcome State Fault Refusal := .next (doConvOp g 0x22 false s)
def execConvtI (g : Nat) (s : State) : Host.Outcome State Fault Refusal := .next (doConvOp g 0x23 true s)

/-- CBLD (R167) issues when no tile is queued, in an engine or lent (R159). -/
def doCbld (g : Nat) (s : State) : State :=
  issue g 0x28 (fun w => onlyBits w [(90, 5)]) (fun w s =>
    let c := getCore s g
    let a := (c.getS (wf w 90 5)).toNat
    if c.tiles.all (fun t => t.st = .waiting) && expandedAll c && !hazard s g false a 2048 then
      runX g (do
        need 0x09 (a + 2048 ≤ 0x300000)
        need 0x0A (a % 64 = 0)
        let bs ← spRead g a 2048
        actX (modCore g fun k =>
          { k with cblSrc := some a, code := tabPut dCode [] 0 ((unpack 16 bs).map (BitVec.ofNat 16)) })) (nextPc g) s
    else s) s

def execCbldI (g : Nat) (s : State) : Host.Outcome State Fault Refusal := .next (doCbld g s)

/-! ## Tiles (Table 4.4, R130, R132) -/

/-- Position of the oldest queued entry. -/
def Core.oldest (c : Core) : Option (Nat × Tile) :=
  ((List.range c.tiles.length).zip c.tiles).find? fun x => x.2.st = .queued

/-- Seams of a run. -/
def runSeams (s : State) (g : Nat) (r : Run) : Seams :=
  { up := r.seamU, low := r.seamL,
    upRows := match r.seamU with | some k => seamField s g (seamBase 0 k) 6 2 | none => 0 }

/-- The leaf of a tile of core `g`, with the conditions it raises kept beside it. -/
def computeLeaf (g i : Nat) (t : Tile) (st : TileSt) (s : State) : State :=
  let c := getCore s g
  match c.run? t.run with
  | none => s
  | some r =>
    let (x, v) := (tileLeaf g r.plan (runSeams s g r) r.pad t.block t.k).run { s, t := { ctl := c.numctl } }
    match x with
    | .error e => failXAt g e r.maker v.s
    | .ok leaf =>
      modCore g (fun c => { c with tiles := c.tiles.set i { t with st, leaf, counts := v.t.counts, trap := v.t.trapped } }) v.s

/-- Engine `e` takes the oldest queued tile once its staging slots are free. -/
def doTileIssue (t g e : Nat) (s : State) : State :=
  let s := advance t s
  let c := getCore s g
  match c.oldest with
  | none => s
  | some (i, x) =>
    let n := match c.run? x.run with | some r => r.plan.slots | none => 1
    if c.role = .placed && c.stop = .go && e < 8 && (c.tiles.filter fun y => y.st = .inEngine e).length < 2 &&
        c.staged + n ≤ 32 then
      computeLeaf g i x (.inEngine e) s
    else s

def execTileIssue (t g engine : Nat) (s : State) : Host.Outcome State Fault Refusal := .next (doTileIssue t g engine s)

/-- A core that held a lent tile gives it up; released from its BAR it goes on once it holds none (R134). -/
def dropLent (taker : Nat) (x : Nat × Nat × Nat) (s : State) : State :=
  modCore taker (fun c =>
    let c := { c with glean := { c.glean with held := c.glean.held.erase x } }
    if c.waits = .released && c.glean.held.isEmpty then { c with waits := .ready, pc := c.pc + 1, glean := {} } else c) s

/-- Global core of a context-relative index of the context on core `g`. -/
def siblingCore (s : State) (g i : Nat) : Nat :=
  let c := getCore s g
  (getCtx s c.part c.slot).place.getD i g

/-- A tile's leaf reaches its reserved slots, and the combine unit works (Table 4.4). -/
def deliver (g i : Nat) (x : Tile) (by_ : Nat) (s : State) : State :=
  let s := countCore by_ 2 1 s
  let m := match (getCore s g).run? x.run with | some r => r.maker | none => (getCore s g).here
  runXAt g m (do
    actX (modCore g fun c => { c with tiles := c.tiles.set i { x with st := .waiting } })
    pump g) id s

/-- The leaf of tile `tile` of core `g` arrives, from an engine or from the sibling it was lent to. -/
def doLeafDeliver (t g tile : Nat) (s : State) : State :=
  let s := advance t s
  let c := getCore s g
  match ((List.range c.tiles.length).zip c.tiles).find? fun x =>
      x.2.tile = tile && x.2.st ≠ .queued && x.2.st ≠ .waiting with
  | none => s
  | some (i, x) =>
    if c.role ≠ .placed then s
    else match x.st with
      | .inEngine _ => deliver g i x g s
      | .lent k =>
        let h := siblingCore s g k
        let s := computeLeaf g i x (.lent k) s
        let s := dropLent h (c.idx, x.run, x.tile) s
        match (getCore s g).tiles[i]? with
        | none => s
        | some x => refreshBlocked c.part c.slot (deliver g i x h (countCore h 4 1 s))
      | _ => s

def execLeafDeliver (t g tile : Nat) (s : State) : Host.Outcome State Fault Refusal := .next (doLeafDeliver t g tile s)

/-! ## Gleaning (R134, R135) -/

/-- Siblings of a core on its die, ascending from the one after it (R135 step 1). -/
def siblings (s : State) (g : Nat) : List Nat :=
  let c := getCore s g
  let pl := (getCtx s c.part c.slot).place
  let ok (i : Nat) : Bool := match pl[i]? with | some h => h ≠ g && h / 32 = g / 32 | none => false
  ((List.range pl.length).filter fun i => c.idx < i && ok i) ++ (List.range pl.length).filter fun i => i < c.idx && ok i

/-- The sibling asked after `last`. -/
def nextSibling (l : List Nat) (last : Option Nat) : Option Nat :=
  match last with
  | none => l.head?
  | some k =>
    match (l.dropWhile (· ≠ k)).drop 1 with
    | [] => l.head?
    | x :: _ => some x

/-- The core may glean (R134). -/
def mayGlean (c : Core) : Bool :=
  c.role = .placed && c.stop = .go && (match c.waits with | .bar _ => true | _ => false) && 0 < c.glean.max &&
    c.tiles.all (fun t => t.st ≠ .queued && (match t.st with | .inEngine _ => false | _ => true)) &&
    c.glean.asked.isNone && !c.glean.backoff && c.glean.held.length < c.glean.max

def doGleanRequest (t g : Nat) (s : State) : State :=
  let s := advance t s
  let c := getCore s g
  if mayGlean c then
    match nextSibling (siblings s g) c.glean.last with
    | none => s
    | some k => modCore g (fun c => { c with glean := { c.glean with asked := some k, last := some k } }) s
  else s

def execGleanRequest (t g : Nat) (s : State) : Host.Outcome State Fault Refusal := .next (doGleanRequest t g s)

/-- The sibling answers: it lends its oldest queued tile, or none (R135 step 2). -/
def doGleanGrant (t g : Nat) (s : State) : State :=
  let s := advance t s
  let c := getCore s g
  match c.glean.asked with
  | none => s
  | some k =>
    let h := siblingCore s g k
    let o := getCore s h
    let queued := (o.tiles.filter fun t => t.st = .queued).length
    let lend : Option (Nat × Tile) := match o.oldest with
      | none => none
      | some (i, x) =>
        let n := match o.run? x.run with | some r => r.plan.slots | none => 1
        if c.glean.min ≤ queued && o.staged + n ≤ 32 && o.stop = .go then some (i, x) else none
    match lend with
    | some (i, x) =>
      let s := modCore h (fun o => { o with tiles := o.tiles.set i { x with st := .lent c.idx } }) s
      let s := countCore h 3 1 s
      modCore g (fun c => { c with glean := { c.glean with asked := none, nones := 0,
                                                           held := c.glean.held ++ [(k, x.run, x.tile)] } }) s
    | none =>
      let s := countCore g 5 1 s
      let n := c.glean.nones + 1
      let all := (siblings s g).length ≤ n
      modCore g (fun c => { c with glean := { c.glean with asked := none, nones := if all then 0 else n,
                                                           last := if all then none else c.glean.last, backoff := all } }) s

def execGleanGrant (t g : Nat) (s : State) : Host.Outcome State Fault Refusal := .next (doGleanGrant t g s)

/-- 256 cycles after a round of nones a new round begins (R135 step 5). -/
def doGleanBackoffExpiry (t g : Nat) (s : State) : State :=
  let s := advance t s
  if (getCore s g).glean.backoff then
    modCore g (fun c => { c with glean := { c.glean with backoff := false } }) s
  else s

def execGleanBackoffExpiry (t g : Nat) (s : State) : Host.Outcome State Fault Refusal := .next (doGleanBackoffExpiry t g s)

end Sys2Proof.Machine
end

