-- ==== Sys2Proof/Machine/Vector.lean ====
section
/-!
DEFINITION. Vector.lean: the vector unit: VOP, VRED, VSFN, VNORM, VCVT, VGATHER (R170 to R173), SCALE (R168, R205 to
R211), POOL and VDW (R233, R234).
-/
namespace Sys2Proof.Machine

/-! ## Fields and operands -/

def vTd (w : InstrWord) : Nat := wf w 107 4
def vTa (w : InstrWord) : Nat := wf w 103 4
def vTb (w : InstrWord) : Nat := wf w 99 4
def vTc (w : InstrWord) : Nat := wf w 95 4
def vSa (w : InstrWord) : Nat := wf w 90 5
def vSb (w : InstrWord) : Nat := wf w 85 5
def vSub (w : InstrWord) : Nat := wf w 77 8
def vAxis (w : InstrWord) : Nat := wf w 74 3

def fTd : Nat × Nat := (107, 4)
def fTa : Nat × Nat := (103, 4)
def fTb : Nat × Nat := (99, 4)
def fTc : Nat × Nat := (95, 4)
def fSa : Nat × Nat := (90, 5)
def fSb : Nat × Nat := (85, 5)
/-- sub and axis -/
def fSub : Nat × Nat := (74, 11)

/-- axis lies below the rank of ta (R170, check 4). -/
def axisOk (g : Nat) (w : InstrWord) : Xm Unit := do
  let r ← peekX fun s => (Td.of ((getCore s g).getT (vTa w))).rank
  need 0x13 (vAxis w < r)

/-- A value the spec leaves open (log entry 4). -/
def freeX : Xm Nat := do
  let v ← get
  let (n, s) := takeFree v.s
  set { v with s := s }
  pure n

/-- All rows of a tensor with their indices, as a vector instruction reads them. -/
def tensorVals (g : Nat) (t : Td) : Xm (List (List Nat × List Word)) :=
  mapX (fun ix => do
    let v ← rowVals g t ix
    pure (ix, v)) (rowIdx t.dims)

/-- Value at an index of a tensor read whole. -/
def valAt (t : Td) (vals : List (List Nat × List Word)) (i0 : Nat) (ix : List Nat) : Word :=
  (vals.getD (t.rowNo ix) ([], [])).2.getD i0 0

/-- Exact value of a word of a tensor: INT32 or FP32. -/
def wordEx (int : Bool) (w : Word) : Ex := if int then .ofInt w.toInt else f32 w

/-- A destination of the vector unit: no codebook format, no scales on FP32 or INT32 (R190, R194). -/
def dstFmt (t : Td) : Bool := t.fmt ≠ 8 && t.fmt ≠ 9 && scaledOk t
where
  /-- Scale formats stand on the formats of R194 only. -/
  scaledOk (t : Td) : Bool := t.sf = 0 || (t.fmt ≠ 7 && t.fmt ≠ 10)

/-- A source of the vector unit (R194). -/
def srcFmt (t : Td) : Bool := t.sf = 0 || (t.fmt ≠ 7 && t.fmt ≠ 10)

/-- Equal dimensions (R170). -/
def sameDims (l : List Td) : Bool := match l with | [] => true | a :: r => r.all fun b => b.dims = a.dims

/-- Issue of a vector instruction: `tds` are the descriptor fields it uses. -/
def vecIssue (g op : Nat) (ok : InstrWord → Bool) (tds : InstrWord → List Nat) (body : InstrWord → Xm Unit) (s : State) : State :=
  issue g op ok (fun w s =>
    let c := getCore s g
    if operandsFree s g ((tds w).map fun i => Td.of (c.getT i)) then runX g (body w) (nextPc g) s else s) s

/-! ## VOP (R170) -/

/-- Operands of a VOP: ta, b, tc. -/
def vopUses (sub : Nat) : Bool × Bool × Bool :=
  match sub with
  | 3 => (true, true, true)
  | 9 => (true, true, true)
  | 6 => (true, false, false) | 7 => (true, false, false) | 8 => (true, false, false) | 10 => (true, false, false)
  | _ => (true, true, false)

/-- Check 2 of VOP. DEDUCED (log entry 39): a register field is used by the instruction, whichever sub-operation it
names. -/
def okVop (w : InstrWord) : Bool := onlyBits w [fTd, fTa, fTb, fTc, fSa, fSub, (111, 1)]

/-- A VOP on FP32 values. -/
def vopF (sub : Nat) (a b c : Word) : Num Word :=
  match sub with
  | 0 => addF a b
  | 1 => subF a b
  | 2 => mulF a b
  | 3 => fmaF a b c
  | 4 => pure (maxF a b)
  | 5 => pure (minF a b)
  | 6 => pure (maxF a 0)
  | 7 => pure (absF a)
  | 8 => pure (negF a)
  | 9 => pure (if (f32 c).isZero then b else a)
  | _ => pure a

/-- A VOP on INT32 values, modulo 2^32. -/
def vopI (sub : Nat) (a b c : Word) : Word :=
  match sub with
  | 0 => a + b
  | 1 => a - b
  | 2 => a * b
  | 3 => a * b + c
  | 4 => if a.slt b then b else a
  | 5 => if b.slt a then b else a
  | 6 => if a.slt 0 then 0 else a
  | 7 => if a.slt 0 then 0 - a else a
  | 8 => 0 - a
  | 9 => if c = 0 then b else a
  | _ => a

def vopBody (g : Nat) (w : InstrWord) : Xm Unit := do
  let sub := vSub w
  let u := vopUses sub
  need 0x13 (sub ≤ 10)
  axisOk g w
  let td ← tdArg g (vTd w) true
  let ta ← tdArg g (vTa w) false
  let tb ← if u.2.1 && !flag w 0 then tdArg g (vTb w) false else pure ta
  let tc ← if u.2.2 then tdArg g (vTc w) false else pure ta
  let used := [td, ta, tb, tc]
  let int := used.all Td.isInt32
  need 0x06 ((int && !(u.2.1 && flag w 0) || used.all fun t => !t.isInt32) && dstFmt td && used.all srcFmt)
  need 0x07 (sameDims used)
  needSpan g td true
  eachX (fun t => needSpan g t false) [ta, tb, tc]
  let sb ← peekX fun s => ((getCore s g).getS (vSa w)).setWidth 32
  eachX (fun ix => do
    let a ← rowVals g ta ix
    let b ← if u.2.1 then (if flag w 0 then pure (a.map fun _ => sb) else rowVals g tb ix) else pure a
    let c ← if u.2.2 then rowVals g tc ix else pure a
    let z := a.zip (b.zip c)
    if int then putCodes g td ix (z.map fun x => (vopI sub x.1 x.2.1 x.2.2).toNat)
    else do
      let r ← num (mapN (fun x => vopF sub x.1 x.2.1 x.2.2) z)
      putRow g td ix none (r.map f32)) (rowIdx td.dims)

/-- Descriptor fields a VOP uses. -/
def vopTds (w : InstrWord) : List Nat :=
  let u := vopUses (vSub w)
  [vTd w, vTa w] ++ (if u.2.1 && !flag w 0 then [vTb w] else []) ++ if u.2.2 then [vTc w] else []

def doVop (g : Nat) (s : State) : State := vecIssue g 0x30 okVop vopTds (vopBody g) s

def execVopI (g : Nat) (s : State) : Host.Outcome State Fault Refusal := .next (doVop g s)

/-! ## VRED (R171) -/

/-- An index with dimension `axis` replaced: dim0 index and the others. -/
def atAxis (axis k i0 : Nat) (ix : List Nat) : Nat × List Nat :=
  if axis = 0 then (k, ix) else (i0, ix.set (axis - 1) k)

/-- Values along an axis at an index. -/
def along (t : Td) (vals : List (List Nat × List Word)) (axis i0 : Nat) (ix : List Nat) : List Word :=
  (List.range (t.dim axis)).map fun k =>
    let j := atAxis axis k i0 ix
    valAt t vals j.1 j.2

/-- The sum tree over FP32 leaves (R171). -/
def sumTree (l : List Word) : Num Word := treeOf addF l

/-- The max tree. -/
def maxTree (l : List Word) : Num Word := treeOf (fun a b => pure (maxF a b)) l

def minTree (l : List Word) : Num Word := treeOf (fun a b => pure (minF a b)) l

/-- A reduction of FP32 values. -/
def redF (sub : Nat) (l : List Word) : Num Word := do
  match sub with
  | 0 => sumTree l
  | 1 => maxTree l
  | 2 => minTree l
  | 3 => maxTree (l.map absF)
  | _ => do
    let q ← mapN (fun x => mulF x x) l
    sumTree q

/-- A reduction of INT32 values; a largest magnitude of 2^31 has no INT32 value, and the spec states none. -/
def redI (sub : Nat) (l : List Word) : Xm Word :=
  match sub with
  | 0 => pure (l.foldl (· + ·) 0)
  | 1 => pure ((l.drop 1).foldl (fun a b => if a.slt b then b else a) (l.headD 0))
  | 2 => pure ((l.drop 1).foldl (fun a b => if b.slt a then b else a) (l.headD 0))
  | 3 => do
    let m := l.foldl (fun a b => max a b.toInt.natAbs) 0
    if m < 2 ^ 31 then pure (BitVec.ofNat 32 m) else do
      let f ← freeX
      pure (BitVec.ofNat 32 f)
  | _ => do
    let q ← num (mapN (fun x => finish32 (some (.ofInt (x.toInt * x.toInt)))) l)
    num (sumTree q)

def okVred (w : InstrWord) : Bool := onlyBits w [fTd, fTa, fSub]

def vredBody (g : Nat) (w : InstrWord) : Xm Unit := do
  let sub := vSub w
  let ax := vAxis w
  need 0x13 (sub ≤ 4)
  axisOk g w
  let td ← tdArg g (vTd w) true
  let ta ← tdArg g (vTa w) false
  let int := ta.isInt32
  need 0x06 (dstFmt td && srcFmt ta && (td.isInt32 = (int && sub ≤ 3)))
  need 0x08 (ta.dim ax ≤ 65536)
  need 0x07 (td.dims = ta.dims.set ax 1)
  needSpan g td true
  needSpan g ta false
  let vals ← tensorVals g ta
  eachX (fun ix => do
    let r ← mapX (fun i0 => do
      let l := along ta vals ax i0 ix
      if int then redI sub l else num (redF sub l)) (List.range (td.dim 0))
    if td.isInt32 then putCodes g td ix (r.map BitVec.toNat) else putRow g td ix none (r.map f32)) (rowIdx td.dims)

def doVred (g : Nat) (s : State) : State := vecIssue g 0x31 okVred (fun w => [vTd w, vTa w]) (vredBody g) s

def execVredI (g : Nat) (s : State) : Host.Outcome State Fault Refusal := .next (doVred g s)

/-! ## VSFN (R172, R216, R217) -/

/-- A single-operand function. -/
def sfn (sub : Nat) (x : Word) : Num Word :=
  match sub with
  | 0 => expF x
  | 1 => logF x
  | 2 => recipF x
  | 3 => rsqrtF x
  | 4 => sigmoidF x
  | 5 => tanhF x
  | 6 => geluF x
  | _ => siluF x

/-- softmax of a row (R172). -/
def softmax (l : List Word) : Num (List Word) := do
  let m ← maxTree l
  let e ← mapN (fun x => do
    let d ← subF x m
    expF d) l
  let s ← sumTree e
  mapN (fun x => divF x s) e

/-- log-softmax of a row (R172). -/
def logSoftmax (l : List Word) : Num (List Word) := do
  let m ← maxTree l
  let d ← mapN (fun x => subF x m) l
  let e ← mapN expF d
  let s ← sumTree e
  let ls ← logF s
  mapN (fun x => subF x ls) d

/-- Apply a row function along an axis of a tensor: results in the order of `rowIdx` and dim0. -/
def mapAxis (td ta : Td) (vals : List (List Nat × List Word)) (ax : Nat)
    (f : (i0 : Nat) → (ix : List Nat) → List Word → Num (List Word)) : Num (List (List Nat × List Word)) := do
  -- one application for each index with 0 at the axis
  let bases := (rowIdx td.dims).filter fun ix => ax = 0 || ix.getD (ax - 1) 0 = 0
  let i0s := if ax = 0 then [0] else List.range (td.dim 0)
  let res ← mapN (fun ix => mapN (fun i0 => do
    let r ← f i0 ix (along ta vals ax i0 ix)
    pure ((i0, ix), r)) i0s) bases
  let all := res.flatten
  let pick (i0 : Nat) (ix : List Nat) : Word :=
    let key := atAxis ax 0 i0 ix
    let k := if ax = 0 then i0 else ix.getD (ax - 1) 0
    match all.find? fun e => e.1 = key with
    | some e => e.2.getD k 0
    | none => 0
  pure ((rowIdx td.dims).map fun ix => (ix, (List.range (td.dim 0)).map fun i0 => pick i0 ix))

def vsfnBody (g : Nat) (w : InstrWord) : Xm Unit := do
  let sub := vSub w
  let ax := vAxis w
  need 0x13 (sub ≤ 7 || sub = 0x10 || sub = 0x11)
  axisOk g w
  let td ← tdArg g (vTd w) true
  let ta ← tdArg g (vTa w) false
  need 0x06 (dstFmt td && srcFmt ta && !td.isInt32 && !ta.isInt32)
  need 0x08 (sub ≤ 7 || ta.dim ax ≤ 65536)
  need 0x07 (sameDims [td, ta])
  needSpan g td true
  needSpan g ta false
  if sub ≤ 7 then
    eachX (fun ix => do
      let a ← rowVals g ta ix
      let r ← num (mapN (sfn sub) a)
      putRow g td ix none (r.map f32)) (rowIdx td.dims)
  else do
    let vals ← tensorVals g ta
    let rows ← num (mapAxis td ta vals ax fun _ _ l => if sub = 0x10 then softmax l else logSoftmax l)
    eachX (fun r => putRow g td r.1 none (r.2.map f32)) rows

def doVsfn (g : Nat) (s : State) : State := vecIssue g 0x33 okVred (fun w => [vTd w, vTa w]) (vsfnBody g) s

def execVsfnI (g : Nat) (s : State) : Host.Outcome State Fault Refusal := .next (doVsfn g s)

/-! ## VNORM (R172) -/

/-- FP32 of a natural number. -/
def natF (n : Nat) : Word := (round32 (.fin false n 1)).run { ctl := 0 } |>.1

/-- Layer norm of a row. -/
def layerNorm (eps : Word) (x gamma beta : List Word) : Num (List Word) := do
  let t := natF x.length
  let sx ← sumTree x
  let mu ← divF sx t
  let d ← mapN (fun a => subF a mu) x
  let q ← mapN (fun a => mulF a a) d
  let sq ← sumTree q
  let v ← divF sq t
  let ve ← addF v eps
  let r ← rsqrtF ve
  mapN (fun z => do
    let p ← mulF z.1 r
    fmaF p z.2.1 z.2.2) (d.zip (gamma.zip beta))

/-- RMS norm of a row. -/
def rmsNorm (eps : Word) (x gamma : List Word) : Num (List Word) := do
  let q ← mapN (fun a => mulF a a) x
  let sq ← sumTree q
  let v ← divF sq (natF x.length)
  let ve ← addF v eps
  let r ← rsqrtF ve
  mapN (fun z => do
    let p ← mulF z.1 r
    mulF p z.2) (x.zip gamma)

/-- Check 2 of VNORM. DEDUCED (log entry 39): fl0 and tc are used by the instruction, also where RMS norm has no β. -/
def okVnorm (w : InstrWord) : Bool :=
  onlyBits w [fTd, fTa, fTb, fTc, fSa, fSub, (111, 1)]

/-- A layer norm with β. -/
def vnormBeta (w : InstrWord) : Bool := flag w 0 && vSub w ≠ 1

def vnormBody (g : Nat) (w : InstrWord) : Xm Unit := do
  let sub := vSub w
  let ax := vAxis w
  need 0x13 (sub ≤ 1)
  axisOk g w
  let td ← tdArg g (vTd w) true
  let ta ← tdArg g (vTa w) false
  let tb ← tdArg g (vTb w) false
  let tc ← if vnormBeta w then tdArg g (vTc w) false else pure tb
  let l := [td, ta, tb, tc]
  need 0x06 (dstFmt td && l.all srcFmt && l.all fun t => !t.isInt32)
  need 0x08 (ta.dim ax ≤ 65536)
  need 0x07 (sameDims l)
  needSpan g td true
  eachX (fun t => needSpan g t false) [ta, tb, tc]
  let eps ← peekX fun s => ((getCore s g).getS (vSa w)).setWidth 32
  let va ← tensorVals g ta
  let vb ← tensorVals g tb
  let vc ← if vnormBeta w then tensorVals g tc else pure (vb.map fun r => (r.1, r.2.map fun _ => 0))
  let rows ← num (mapAxis td ta va ax fun i0 ix x =>
    let ga := along tb vb ax i0 ix
    if sub = 0 then layerNorm eps x ga (along tc vc ax i0 ix) else rmsNorm eps x ga)
  eachX (fun r => putRow g td r.1 none (r.2.map f32)) rows

def doVnorm (g : Nat) (s : State) : State :=
  vecIssue g 0x34 okVnorm (fun w => [vTd w, vTa w, vTb w] ++ if vnormBeta w then [vTc w] else []) (vnormBody g) s

def execVnormI (g : Nat) (s : State) : Host.Outcome State Fault Refusal := .next (doVnorm g s)

/-! ## VCVT (R170, R190, R214) -/

/-- Seed of the running LAUNCH or REPLAY. -/
def seedOf (s : State) (g : Nat) : Nat :=
  let c := getCore s g
  match (getCtx s c.part c.slot).launch with | some l => l.seed | none => 0

/-- The random words of output `out` of the running instruction (R214). -/
def srWords (s : State) (g out : Nat) (index : Nat) : Nat :=
  let c := getCore s g
  srWord (seedOf s g) c.idx out c.srCount index

/-- One more stochastic instruction has retired (R214). -/
def srRetire (g : Nat) : Xm Unit := actX (modCore g fun c => { c with srCount := (c.srCount + 1) % 2 ^ 32 })

/-- fl0 on an unscaled td forms no scale; R206 refuses it for UINT8 alone (log entry 38). -/
def vcvtBody (g : Nat) (w : InstrWord) : Xm Unit := do
  need 0x13 (vSub w = 0)
  axisOk g w
  let td ← tdArg g (vTd w) true
  let ta ← tdArg g (vTa w) false
  need 0x06 (dstFmt td && srcFmt ta && (!flag w 0 || td.sf ≠ 0 || td.fmt ≠ 1))
  need 0x07 (sameDims [td, ta])
  needSpan g td true
  needSpan g ta false
  let s ← peekX id
  let sr := if flag w 1 then some (srWords s g 0) else none
  let rows ← mapX (fun ix => do
    let a ← rowVals g ta ix
    pure (ix, a.map (wordEx ta.isInt32))) (rowIdx td.dims)
  if flag w 0 && td.sf ≠ 0 then do
    need 0x09 (td.scaleOff + td.recBytes td.blockCount ≤ 0x300000)
    putFresh g td sr rows
  else eachX (fun r => putRow g td r.1 sr r.2) rows
  if flag w 1 then srRetire g else pure ()

def doVcvt (g : Nat) (s : State) : State :=
  vecIssue g 0x36 (fun w => onlyBits w [fTd, fTa, fSub, (111, 2)]) (fun w => [vTd w, vTa w]) (vcvtBody g) s

def execVcvtI (g : Nat) (s : State) : Host.Outcome State Fault Refusal := .next (doVcvt g s)

/-! ## VGATHER (R173) -/

/-- Rows of a tensor. -/
def Td.rowCount (t : Td) : Nat := t.dim 1 * t.dim 2 * t.dim 3 * t.dim 4

/-- The index of row number `r`. -/
def Td.rowAt (t : Td) (r : Nat) : List Nat :=
  [r % t.dim 1, r / t.dim 1 % t.dim 2, r / (t.dim 1 * t.dim 2) % t.dim 3, r / (t.dim 1 * t.dim 2 * t.dim 3)]

def vgatherBody (g : Nat) (w : InstrWord) : Xm Unit := do
  need 0x13 (vSub w = 0)
  axisOk g w
  let td ← tdArg g (vTd w) true
  let ta ← tdArg g (vTa w) false
  let tb ← tdArg g (vTb w) false
  need 0x06 (tb.fmt = 10 && tb.space = 1 && td.fmt = ta.fmt)
  need 0x07 (tb.rank = 1 && tb.dim 0 = td.rowCount && td.dim 0 = ta.dim 0 && ta.rowBytes ≤ 65536)
  needSpan g td true
  needSpan g ta false
  needSpan g tb false
  let idx ← rowVals g tb [0, 0, 0, 0]
  need 0x12 (idx.all fun i => 0 ≤ i.toInt && i.toInt < ta.rowCount)
  eachX (fun x => do
    let bs ← spaceRead g ta (ta.base + ta.rowOff (ta.rowAt x.1.toNat)) ta.rowBytes
    spaceWrite g td (td.base + td.rowOff (td.rowAt x.2)) bs) (idx.zip (List.range idx.length))

def doVgather (g : Nat) (s : State) : State :=
  vecIssue g 0x37 (fun w => onlyBits w [fTd, fTa, fTb, fSub]) (fun w => [vTd w, vTa w, vTb w]) (vgatherBody g) s

def execVgatherI (g : Nat) (s : State) : Host.Outcome State Fault Refusal := .next (doVgather g s)

/-! ## SCALE (R168, R205 to R211) -/

/-- The history record's own fields (Table 6.5). -/
def histOk (b : List Byte) : Bool :=
  leAt b 0 2 = 1 && 1 ≤ leAt b 2 1 && leAt b 2 1 ≤ 12 && leAt b 3 1 < leAt b 2 1 &&
    (let m := sext 8 (leAt b 4 1); -8 ≤ m && m ≤ 8) && leAt b 5 1 < 2 && leAt b 6 2 = 0 &&
    (b.drop (16 + 4 * leAt b 2 1)).all (· = 0)

/-- A scale slot from an FP32 scale: rounded up, or itself where representable; for a scale that is no positive number
the spec states none (R210). -/
def useSlot (sf : Nat) (w : Word) : Xm Nat :=
  match f32 w with
  | .fin false n d =>
    if n = 0 then (if sf = 1 then pure 0 else freeX) else pure (upSlot sf n d)
  | _ => if sf = 1 && w.toNat % 65536 = 0 then pure (w.toNat / 65536) else freeX

/-- An exact value as FP32, which holds it. -/
def exactF (x : Ex) : Word := ((round32 x).run { ctl := 0 }).1

/-- The scale of the next step from the largest of the history (R210). -/
def nextScale (t : Td) (margin : Int) (m : Word) : Xm Word :=
  match f32 m, qMax t.fmt with
  | .fin false n d, .fin _ qn qd =>
    let (a, b) := shiftQ 1 (margin + 8).toNat 8
    pure (exactF (slotScale t.sf (upSlot t.sf (n * a * qd) (d * b * qn))))
  | .inf false, _ => pure (exactF (slotScale t.sf (if t.sf = 2 then 254 else 0x7F7F)))
  | _, _ => do
    let f ← freeX
    pure (BitVec.ofNat 32 f)

/-- Delayed scaling (R210). -/
def scaleDelayed (g off : Nat) (td : Td) (blocks : List (List Ex)) : Xm Unit := do
  let b ← spRead g off 64
  need 0x13 (histOk b)
  let use ← useSlot td.sf (BitVec.ofNat 32 (leAt b 8 4))
  let am := blocks.map amaxEx
  let fs := am.map fun a => if a.isZero then { slot := oneSlot td.sf, const := true : Fresh } else { slot := use }
  putRecords g td fs
  eachX (fun f => if f.const then num (raise .const) else pure ()) fs
  let h := leAt b 2 1
  let head := leAt b 3 1
  let amt := exactF (amaxEx am)
  let hist := (((List.range h).map fun i => BitVec.ofNat 32 (leAt b (16 + 4 * i) 4)).set head amt)
  let m := (hist.drop 1).foldl maxF (hist.headD 0)
  let zero := (f32 m).isZero
  let sc ← if zero then pure one32 else nextScale td (sext 8 (leAt b 4 1)) m
  num (raise .delayed)
  spWrite g off (b.take 3 ++ toBytes 1 ((head + 1) % h) ++ (b.drop 4).take 1 ++ toBytes 1 (b2n zero) ++ toBytes 2 0 ++
    toBytes 4 sc.toNat ++ toBytes 4 (leAt b 12 4 + 1) ++ fit 48 (hist.flatMap fun x => toBytes 4 x.toNat))

/-- SCALE (R168): td gives the target formats and the records; none of its elements is written (log entry 38). -/
def scaleBody (g : Nat) (w : InstrWord) : Xm Unit := do
  let td ← tdArg g (vTd w) false
  let ta ← tdArg g (vTa w) false
  need 0x06 (td.sf ≠ 0 && dstFmt td && srcFmt ta && !(flag w 0 && td.asym))
  needSpan g ta false
  need 0x09 (td.scaleOff + td.recBytes ta.blockCount ≤ 0x300000)
  let off ← peekX fun s => ((getCore s g).getS (vSa w)).toNat
  if flag w 0 then do
    need 0x09 (off + 64 ≤ 0x300000)
    need 0x0A (off % 64 = 0)
  else pure ()
  let rows ← mapX (fun ix => do
    let a ← rowVals g ta ix
    pure (chunks 32 a.length (a.map (wordEx ta.isInt32)))) (rowIdx ta.dims)
  if flag w 0 then scaleDelayed g off td rows.flatten
  else do
    let fs := rows.flatten.map (freshOf td)
    putRecords g td fs
    eachX (fun f => if f.const then num (raise .const) else pure ()) fs

def doScale (g : Nat) (s : State) : State :=
  issue g 0x29 (fun w => onlyBits w ([fTd, fTa, (111, 1)] ++ if flag w 0 then [fSa] else [])) (fun w s =>
    let c := getCore s g
    let td := Td.of (c.getT (vTd w))
    let ta := Td.of (c.getT (vTa w))
    let off := (c.getS (vSa w)).toNat
    if tdHazard s g ta || recHazard s g td ta.blockCount || (flag w 0 && hazard s g false off 64) then s
    else runX g (scaleBody g w) (nextPc g) s) s

def execScaleI (g : Nat) (s : State) : Host.Outcome State Fault Refusal := .next (doScale g s)

/-! ## POOL and VDW (R233, R234) -/

/-- The tap reads a row and column of the image or of a seam, not a border (R233). -/
def insideTap (w : Win) (sm : Seams) (h wd y x : Nat) (t : Nat × Nat) : Bool :=
  let iy : Int := (y * w.sh : Nat) - w.pt + (t.1 * w.dh : Nat)
  let ix : Int := (x * w.sw : Nat) - w.pl + (t.2 * w.dw : Nat)
  0 ≤ ix && ix < wd && ((0 ≤ iy && iy < h) || (iy < 0 && sm.up.isSome) || ((h : Int) ≤ iy && sm.low.isSome))

/-- Dequantised value of a tap (R203, R227). -/
def tapWord (g : Nat) (ta : Td) (sm : Seams) (pmode : Nat) (pad : DWord) (nb c : Nat) (t : Tap) : Xm Word := do
  let v ← tapVal g ta sm pmode pad nb c t
  let v := v.getD (.fin false 0 1)
  match t with
  | .pad => num (round32 v)
  | _ => do
    let sc ← if ta.sf = 0 then pure (Ex.nan, Ex.nan) else tapScale g ta sm nb (c / 32) t
    num (dequant ta v sc)

/-- The sum tree over leaves of which some are absent (R223). -/
def sumOpt (l : List (Option Word)) : Num (Option Word) := tree (addOpt addF) none 20 l

/-- One output of POOL: `op` is fl[3:2]. -/
def poolOne (op : Nat) (vals : List (Bool × Word)) : Num Word := do
  match op with
  | 0 => maxTree (vals.map (·.2))
  | 1 => do
    let s ← sumTree (vals.map (·.2))
    divF s (natF vals.length)
  | 2 => do
    let r ← sumOpt (vals.map fun v => if v.1 then some v.2 else none)
    match r with
    | none => pure 0
    | some s => divF s (natF (vals.filter (·.1)).length)
  | _ => sumTree (vals.map (·.2))

/-- Descriptors and ranks of POOL and VDW (R221). -/
def windowArgs (g : Nat) (w : InstrWord) : Xm (Td × Td) := do
  let td ← tdArg g (vTd w) true
  let ta ← tdArg g (vTa w) false
  need 0x05 ((ta.space = 0 || ta.space = 3) && (ta.rank = 3 || ta.rank = 4) && td.rank = ta.rank)
  pure (td, ta)

/-- td has the computed output's dimensions (R226). -/
def outDims (win : Win) (td ta : Td) : Bool :=
  td.dim 0 = ta.dim 0 && (td.dim 1 : Int) = win.outW false (ta.dim 1) && (td.dim 2 : Int) = win.outH false (ta.dim 2) &&
    td.dim 3 = ta.dim 3

/-- POOL (R166, R233): with fl1 the result is added to td's value, td the left operand (log entry 37). -/
def poolBody (g : Nat) (w : InstrWord) : Xm Unit := do
  let win := Win.of w
  need 0x13 (win.ok && win.groups = 0 && vTb w = 0 && vTc w = 0)
  let sm ← seamsFor g (flag w 0) (flag w 0)
  let (td, ta) ← windowArgs g w
  need 0x06 (dstFmt td && srcFmt ta && !td.isInt32)
  winShape g win false sm ta (outDims win td ta)
  needSpan g td true
  needSpan g ta false
  let pad ← peekX fun s => (getCore s g).getS win.spad
  eachX (fun ix => do
    let x := ix.getD 0 0
    let y := ix.getD 1 0
    let nb := ix.getD 2 0
    let old ← if flag w 1 then rowVals g td ix else pure []
    let r ← mapX (fun c => do
      let vs ← mapX (fun t => do
        let v ← tapWord g ta sm win.pmode pad nb c (win.tap false sm (ta.dim 2) (ta.dim 1) y x t.1 t.2)
        pure (insideTap win sm (ta.dim 2) (ta.dim 1) y x t, v)) (allTaps win)
      let r ← num (poolOne (wf w 113 2) vs)
      if flag w 1 then num (addF (old.getD c 0) r) else pure r) (List.range (td.dim 0))
    putRow g td ix none (r.map f32)) (rowIdx td.dims)

def doPool (g : Nat) (s : State) : State :=
  vecIssue g 0x24 (fun w => onlyBits w (winFields ++ [fTb, fTc, (111, 4)])) (fun w => [vTd w, vTa w]) (poolBody g) s

def execPoolI (g : Nat) (s : State) : Host.Outcome State Fault Refusal := .next (doPool g s)

def vdwBody (g : Nat) (w : InstrWord) : Xm Unit := do
  let win := Win.of w
  need 0x13 (win.ok && win.groups = 0)
  let sm ← seamsFor g (flag w 2) (flag w 3)
  let (td, ta) ← windowArgs g w
  let tb ← tdArg g (vTb w) false
  need 0x05 ((tb.space = 0 || tb.space = 3) && tb.rank = 3)
  let tc ← if flag w 0 then tdArg g (vTc w) false else pure tb
  need 0x06 (dstFmt td && srcFmt ta && srcFmt tb && !td.isInt32 && (!flag w 1 || td.fmt = 7))
  need 0x06 (!flag w 0 || (tc.rank = 1 && tc.fmt = 7 && tc.sf = 0 && tc.dim 0 = td.dim 0))
  winShape g win false sm ta (outDims win td ta && tb.dim 0 = ta.dim 0 && tb.dim 1 = win.kw && tb.dim 2 = win.kh)
  needSpan g td true
  needSpan g ta false
  needSpan g tb false
  if flag w 0 then needSpan g tc false else pure ()
  let pad ← peekX fun s => (getCore s g).getS win.spad
  let wv ← tensorVals g tb
  let bias ← if flag w 0 then rowVals g tc [0, 0, 0, 0] else pure []
  eachX (fun ix => do
    let x := ix.getD 0 0
    let y := ix.getD 1 0
    let nb := ix.getD 2 0
    let old ← if flag w 1 then rowVals g td ix else pure []
    let r ← mapX (fun c => do
      let vs ← mapX (fun t => do
        let v ← tapWord g ta sm win.pmode pad nb c (win.tap false sm (ta.dim 2) (ta.dim 1) y x t.1 t.2)
        num (mulF v (valAt tb wv c [t.2, t.1, 0, 0]))) (allTaps win)
      let r ← num (sumTree vs)
      let r ← if flag w 0 then num (addF r (bias.getD c 0)) else pure r
      if flag w 1 then num (addF (old.getD c 0) r) else pure r) (List.range (td.dim 0))
    putRow g td ix none (r.map f32)) (rowIdx td.dims)

def doVdw (g : Nat) (s : State) : State :=
  vecIssue g 0x32 (fun w => onlyBits w (winFields ++ [fTb, (111, 4)] ++ if flag w 0 then [fTc] else []))
    (fun w => [vTd w, vTa w, vTb w] ++ if flag w 0 then [vTc w] else []) (vdwBody g) s

def execVdwI (g : Nat) (s : State) : Host.Outcome State Fault Refusal := .next (doVdw g s)

end Sys2Proof.Machine
end

