-- ==== Sys2Proof/Machine/Training.lean ====
section
/-!
DEFINITION. Training.lean: VOPT (R267 to R276): the optimiser block, SGD and AdamW, GCHK and LSUPD.
-/
namespace Sys2Proof.Machine

/-! ## The optimiser block -/

/-- An FP32 field. -/
def w32 (b : List Byte) (k : Nat) : Word := BitVec.ofNat 32 (leAt b k 4)

/-- The hyper-parameter record is sound (R267). -/
def hyperOk (b : List Byte) : Bool :=
  leAt b 0 2 = 1 && leAt b 2 1 < 32 && leAt b 3 1 < 16 && ((b.drop 36).take 28).all (· = 0)

/-- The loss-scale record is sound (R274). -/
def lossOk (b : List Byte) : Bool :=
  leAt b 64 2 = 1 && leAt b 67 1 < 2 && leAt b 68 1 ≤ leAt b 66 1 && leAt b 66 1 ≤ leAt b 69 1 && leAt b 69 1 ≤ 24 &&
    1 ≤ leAt b 70 2 && leAt b 74 2 = 0 && ((b.drop 88).take 40).all (· = 0)

/-- The forward copy's descriptor; all zeros mean none. -/
def fwdOf (b : List Byte) : Option Td :=
  let d := (b.drop 128).take 64
  if d.all (· = 0) then none else some (Td.of (BitVec.ofNat 512 (ofBytes d)))

/-- Formats of Table 9.4. -/
def paramFmt (t : Td) : Bool := (t.fmt = 7 || t.fmt = 5) && t.sf = 0
def gradFmt (t : Td) : Bool := if t.fmt = 3 || t.fmt = 4 then t.sf ≠ 0 else (t.fmt = 5 || t.fmt = 7) && t.sf = 0
def momFmt (t : Td) : Bool :=
  if t.fmt = 3 || t.fmt = 4 then t.sf ≠ 0
  else if t.fmt = 9 then t.sf = 1
  else (t.fmt = 5 || t.fmt = 7) && t.sf = 0
def copyFmt (t : Td) : Bool := if t.fmt = 3 || t.fmt = 4 || t.fmt = 0 then t.sf ≠ 0 else t.fmt = 5 && t.sf = 0

/-! ## CB8 moments (R273) -/

/-- Entries of 256-entry codebook `b` of core `g`. -/
def codebook (s : State) (g b : Nat) : List Ex :=
  (List.range 256).map fun i => bf16.decode (tabGet dCode (getCore s g).code (256 * b + i)).toNat

/-- Finite, strictly ascending, +0 among them. -/
def rising : List Ex → Bool
  | a :: b :: r => a.lt b && rising (b :: r)
  | _ => true
def codebookOk (l : List Ex) : Bool :=
  l.all Ex.finite && rising l && l.any fun x => match x with | .fin false 0 _ => true | _ => false

/-- Emax of R273. -/
def codeEmax (l : List Ex) : Ex :=
  let lo := l.headD .nan
  let hi := l.getLastD .nan
  if lo.lt (.fin false 0 1) then (if lo.abs.lt hi then lo.abs else hi) else hi

/-- Index of +0. -/
def zeroIndex (l : List Ex) : Nat := (l.findIdx? fun x => match x with | .fin false 0 _ => true | _ => false).getD 0

/-- Code of x ÷ s in a codebook: the closer of the two entries around it, a tie to the lower, or by the random word. -/
def codeIndex (l : List Ex) (r : Option Nat) (x : Ex) : Num Nat := do
  match r with
  | none => pure ()
  | some _ => raise .stochastic
  match x with
  | .nan => do
    raise .sat
    pure (zeroIndex l)
  | _ => do
    let lo0 := l.headD .nan
    let hi0 := l.getLastD .nan
    if x.lt lo0 then do
      raise .sat
      pure 0
    else if hi0.lt x then do
      raise .sat
      pure 255
    else
      let k := (l.filter fun e => !x.lt e).length - 1
      match x, l[k]?, l[k + 1]? with
      | .fin nx dx xd, some (.fin a n d), some (.fin b m e) =>
        -- x - lo and hi - x over the common denominator
        let xv := sgn nx dx * (d * e : Nat)
        let lo := sgn a n * (xd * e : Nat)
        let hi := sgn b m * (xd * d : Nat)
        match r with
        | none => pure (if hi - xv < xv - lo then k + 1 else k)
        | some w => pure (if (w : Int) * (hi - lo) < (xv - lo) * 2 ^ 24 then k + 1 else k)
      | _, _, _ => pure k

/-- Store rows into a CB8 moment with fresh scales (R272, R273). -/
def putCoded (g : Nat) (t : Td) (cb : List Ex) (sr : Option (Nat → Nat)) (rows : List (List Nat × List Ex)) : Xm Unit := do
  let fresh (b : List Ex) : Fresh :=
    if b.all (fun x => !x.finite) then { slot := oneSlot t.sf }
    else match amaxEx b, codeEmax cb with
      | .fin _ n d, .fin _ m e =>
        if n = 0 then { slot := oneSlot t.sf, const := true } else { slot := upSlot t.sf (n * e) (d * m) }
      | _, _ => { slot := oneSlot t.sf }
  let all := rows.map fun r => (r.1, (chunks 32 r.2.length r.2).map fun b => (fresh b, b))
  putRecords g t (all.flatMap fun r => r.2.map (·.1))
  eachX (fun r => do
    let codes ← mapX (fun b => do
      if b.1.1.const then num (raise .const) else pure ()
      num (mapN (fun x => do
        if b.1.1.const && x.1.finite then pure (zeroIndex cb)
        else do
          let q ← divEx x.1 (slotScale t.sf b.1.1.slot)
          codeIndex cb (sr.map fun f => f (t.rowNo r.1 * t.dim 0 + 32 * b.2 + x.2)) (q.getD .nan))
        (b.1.2.zip (List.range b.1.2.length)))) (r.2.zip (List.range r.2.length))
    putCodes g t r.1 codes.flatten) all

/-- Store an output of VOPT (R272). -/
def putOutput (g : Nat) (t : Td) (cb : List Ex) (sr : Option (Nat → Nat)) (rows : List (List Nat × List Word)) : Xm Unit :=
  let ex := rows.map fun r => (r.1, r.2.map f32)
  if t.fmt = 9 then putCoded g t cb sr ex
  else if t.sf = 0 then eachX (fun r => putRow g t r.1 sr r.2) ex
  else putFresh g t sr ex

/-! ## The update (R270, R271) -/

/-- Constants of R271. -/
structure Hyper where
  lr : Word
  beta1 : Word
  beta2 : Word
  eps2 : Word
  invS : Word
  dw : Word
  omb1 : Word
  omb2 : Word
  bc1 : Word
  bc2 : Word
  deriving DecidableEq, Repr

def hyperOf (b : List Byte) (pow1 pow2 : Word) : Num Hyper := do
  let lr := w32 b 4
  let dw ← if bit (leAt b 2 1) 4 then mulF lr (w32 b 20) else pure 0
  let omb1 ← subF one32 (w32 b 8)
  let omb2 ← subF one32 (w32 b 12)
  let bc1 ← subF one32 pow1
  let bc2 ← subF one32 pow2
  pure { lr, beta1 := w32 b 8, beta2 := w32 b 12, eps2 := w32 b 16, dw, omb1, omb2, bc1, bc2,
         invS := exactF (.fin false 1 (2 ^ leAt b 66 1)) }

/-- SGD of one element: p, gradient, momentum to pn and m. -/
def sgdOne (h : Hyper) (p gd mo : Word) : Num (Word × Word × Word) := do
  let g ← mulF gd h.invS
  let p1 ← fmaF (negF h.dw) p p
  let m ← fmaF h.beta1 mo g
  let pn ← fmaF (negF h.lr) m p1
  pure (pn, m, 0)

/-- AdamW of one element: pn, m, v. -/
def adamOne (h : Hyper) (p gd mo vo : Word) : Num (Word × Word × Word) := do
  let g ← mulF gd h.invS
  let p1 ← fmaF (negF h.dw) p p
  let g1 ← mulF h.omb1 g
  let m ← fmaF h.beta1 mo g1
  let gg ← mulF g g
  let g2 ← mulF h.omb2 gg
  let v ← fmaF h.beta2 vo g2
  let mh ← divF m h.bc1
  let vh ← divF v h.bc2
  let ve ← addF vh h.eps2
  let r ← rsqrtF ve
  let u ← mulF mh r
  let pn ← fmaF (negF h.lr) u p1
  pure (pn, m, v)

/-- The rows of results of SGD or AdamW. -/
def optRows (g : Nat) (adam : Bool) (h : Hyper) (td ta tb tc : Td) :
    Xm (List (List Nat × List (Word × Word × Word))) :=
  mapX (fun ix => do
    let p ← rowVals g td ix
    let gr ← rowVals g ta ix
    let m ← rowVals g tb ix
    let v ← if adam then rowVals g tc ix else pure m
    let r ← num (mapN (fun z =>
      if adam then adamOne h z.1 z.2.1 z.2.2.1 z.2.2.2 else sgdOne h z.1 z.2.1 z.2.2.1) (p.zip (gr.zip (m.zip v))))
    pure (ix, r)) (rowIdx td.dims)

/-- Sub 0x00 and 0x01. -/
def voptUpdate (g : Nat) (w : InstrWord) (off : Nat) (b : List Byte) : Xm Unit := do
  let adam := vSub w = 1
  let td ← tdArg g (vTd w) true
  let ta ← tdArg g (vTa w) false
  let tb ← tdArg g (vTb w) true
  let tc ← if adam then tdArg g (vTc w) true else pure tb
  let fwd := fwdOf b
  need 0x05 (match fwd with | none => true | some f => f.ok true)
  need 0x06 (paramFmt td && gradFmt ta && momFmt tb && momFmt tc && match fwd with | none => true | some f => copyFmt f)
  need 0x07 (sameDims ([td, ta, tb, tc] ++ fwd.toList))
  needSpan g ta false
  eachX (fun t => do
    needSpan g t true
    need 0x09 (t.sf = 0 || t.scaleOff + t.recBytes t.blockCount ≤ 0x300000)) ([td, tb, tc] ++ fwd.toList)
  let s ← peekX id
  let cb1 := codebook s g (leAt b 3 1 % 4)
  let cb2 := codebook s g (bits (leAt b 3 1) 2 2)
  need 0x13 ((tb.fmt ≠ 9 || codebookOk cb1) && (!adam || tc.fmt ≠ 9 || codebookOk cb2))
  -- skip: nothing is written (R270)
  if bit (leAt b 67 1) 0 then srRetire g
  else do
    let t := ((getCore s g).getS (vSb w)).toNat
    let rec_ := leAt b 32 4
    let adv := t = rec_ + 1
    need 0x13 (t = rec_ || adv)
    let pow1 ← if adam && adv then num (mulF (w32 b 24) (w32 b 8)) else pure (w32 b 24)
    let pow2 ← if adam && adv then num (mulF (w32 b 28) (w32 b 12)) else pure (w32 b 28)
    let h ← num (hyperOf b pow1 pow2)
    let rows ← optRows g adam h td ta tb tc
    let fl := leAt b 2 1
    let sr (i : Nat) : Option (Nat → Nat) := if bit fl i then some (srWords s g i) else none
    let pick (f : Word × Word × Word → Word) := rows.map fun r => (r.1, r.2.map f)
    putOutput g td [] (sr 0) (pick (·.1))
    putOutput g tb cb1 (sr 1) (pick (·.2.1))
    if adam then putOutput g tc cb2 (sr 2) (pick (·.2.2)) else pure ()
    match fwd with
    | none => pure ()
    | some f => putOutput g f [] (sr 3) (pick (·.1))
    if adam then
      spWrite g (off + 24) (toBytes 4 pow1.toNat ++ toBytes 4 pow2.toNat ++ toBytes 4 (if adv then t else rec_))
    else pure ()
    srRetire g

/-- GCHK counts the non-finite gradients and raises amax (R275). -/
def voptCheck (g : Nat) (w : InstrWord) (off : Nat) (b : List Byte) : Xm Unit := do
  let ta ← tdArg g (vTa w) false
  need 0x06 (gradFmt ta)
  needSpan g ta false
  let v0 ← get
  let vals ← tensorVals g ta
  -- GCHK counts no condition
  modify fun v => { v with t := v0.t }
  let xs := vals.flatMap fun r => r.2.map f32
  let n := (xs.filter fun x => !x.finite).length
  let a := maxF (w32 b 80) (exactF (amaxEx xs))
  spWrite g (off + 76) (toBytes 4 (satAdd 32 (leAt b 76 4) n) ++ toBytes 4 a.toNat)
  srRetire g

/-- LSUPD adapts the loss scale (R276). -/
def voptLoss (g : Nat) (n off : Nat) (b : List Byte) : Xm Unit := do
  let good := leAt b 72 2 + 1
  let up := good = leAt b 70 2
  let ls := leAt b 66 1
  let (ls, good, skipped) :=
    if n ≠ 0 then (max (ls - 1) (leAt b 68 1), 0, leAt b 84 4 + 1)
    else (if up then min (ls + 1) (leAt b 69 1) else ls, if up then 0 else good, leAt b 84 4)
  spWrite g (off + 66) (toBytes 1 ls ++ toBytes 1 (b2n (n ≠ 0)))
  spWrite g (off + 72) (toBytes 2 good)
  spWrite g (off + 76) (zeros 8 ++ toBytes 4 skipped)
  srRetire g

/-- Check 2 of VOPT: fields a sub-operation does not use are zero (Table 9.3). -/
def okVopt (w : InstrWord) : Bool :=
  match vSub w with
  | 0x00 => onlyBits w [fTd, fTa, fTb, fSa, fSub]
  | 0x01 => onlyBits w [fTd, fTa, fTb, fTc, fSa, fSb, fSub]
  | 0x10 => onlyBits w [fTa, fSa, fSub]
  | 0x11 => onlyBits w [fSa, fSb, fSub]
  | _ => onlyBits w [fTd, fTa, fTb, fTc, fSa, fSb, fSub]

def voptBody (g : Nat) (w : InstrWord) : Xm Unit := do
  let sub := vSub w
  need 0x13 ((sub = 0 || sub = 1 || sub = 0x10 || sub = 0x11) && vAxis w = 0)
  let off ← peekX fun s => ((getCore s g).getS (vSa w)).toNat
  need 0x13 (off + 192 ≤ 0x300000)
  need 0x0A (off % 64 = 0)
  let b ← spRead g off 192
  need 0x13 (hyperOk b && lossOk b)
  match sub with
  | 0x10 => voptCheck g w off b
  | 0x11 => do
    let n ← peekX fun s => ((getCore s g).getS (vSb w)).toNat
    voptLoss g n off b
  | _ => voptUpdate g w off b

def doVopt (g : Nat) (s : State) : State :=
  issue g 0x35 okVopt (fun w s =>
    let c := getCore s g
    let l := (match vSub w with
      | 0x00 => [vTd w, vTa w, vTb w]
      | 0x01 => [vTd w, vTa w, vTb w, vTc w]
      | 0x10 => [vTa w]
      | _ => []).map fun i => Td.of (c.getT i)
    if operandsFree s g l && !hazard s g false (c.getS (vSa w)).toNat 192 then runX g (voptBody g w) (nextPc g) s
    else s) s

def execVoptI (g : Nat) (s : State) : Host.Outcome State Fault Refusal := .next (doVopt g s)

end Sys2Proof.Machine
end

