-- ==== Sys2Proof/Machine/Attention.lean ====
section
/-!
DEFINITION. Attention.lean: page lists and pages (R249 to R252), ATTN (R253 to R257), the walk with its generation rule
(R258 to R260), KVW (R261) and KV_MAP (R262). One command takes an ATTN or KVW from one of its points to the next: issue,
the start of a walk step (header and entries read), the end of that step (data read, generation read again).
-/
namespace Sys2Proof.Machine

/-! ## Page lists (Table 8.1, Table 8.2) -/

/-- A page list header taken apart. -/
structure KvHead where
  gen : Nat
  entries : Nat
  len : Nat
  heads : Nat
  dim : Nat
  kf : Nat
  vf : Nat
  scale : Word
  deriving DecidableEq, Repr

/-- The header of 64 bytes, where it passes R249. -/
def kvHead (b : List Byte) : Option KvHead :=
  let h : KvHead := { gen := leAt b 4 2, entries := leAt b 6 2, len := leAt b 8 4, heads := leAt b 12 2, dim := leAt b 14 2,
                      kf := leAt b 16 1, vf := leAt b 17 1, scale := BitVec.ofNat 32 (leAt b 20 4) }
  if leAt b 0 4 = 0x4B564C31 && leAt b 18 2 = 1 && h.entries ≤ 4096 && 1 ≤ h.heads && h.heads ≤ 64 && 32 ≤ h.dim &&
      h.dim ≤ 512 && h.dim % 32 = 0 && h.kf < 64 && h.vf < 64 && (b.drop 24).all (· = 0) then some h else none

/-- A page entry taken apart. -/
structure KvEnt where
  valid : Bool
  size : Nat
  kFmt : Nat
  vFmt : Nat
  kSf : Nat
  vSf : Nat
  tokens : Nat
  addr : Nat
  gen : Nat
  kCb : Nat
  vCb : Nat
  seg : Nat
  zero : Bool
  deriving DecidableEq, Repr

def kvEnt (w : BitVec 128) : KvEnt :=
  let n := w.toNat
  { valid := bit n 0, size := bits n 1 4, kFmt := bits n 5 4, vFmt := bits n 9 4, kSf := bits n 13 2, vSf := bits n 15 2,
    tokens := bits n 17 13, addr := 4096 * bits n 32 36, gen := bits n 80 16, kCb := bits n 96 6, vCb := bits n 102 6,
    seg := bits n 108 16, zero := bits n 30 2 = 0 && bits n 68 12 = 0 && bits n 124 4 = 0 }

/-- Positions a page holds (R250). -/
def KvEnt.pos (e : KvEnt) : Nat := if e.size = 0 then 256 else 2 ^ (e.size + 3)

/-- A format pair of Table 8.3. -/
def kvFmtOk (fmt sf : Nat) : Bool :=
  match fmt with
  | 3 => sf < 3 | 4 => sf < 3 | 0 => sf = 1 || sf = 2 | 8 => sf < 3 | 5 => sf = 0
  | _ => false

/-- An entry outside Tables 8.2 and 8.3 (cause 0x23). -/
def entOk (s : State) (part : Nat) (h : KvHead) (exactFmt : Bool) (e : KvEnt) : Bool :=
  e.zero && e.size ≤ 9 && e.tokens ≤ e.pos &&
    (!e.valid || (kvFmtOk e.kFmt e.kSf && kvFmtOk e.vFmt e.vSf &&
      (e.size = 0 || ((getPart s part).privileged && bit (regGet s 0x10).toNat 4)) &&
      (!exactFmt || (e.kFmt + 16 * e.kSf = h.kf && e.vFmt + 16 * e.vSf = h.vf))))

/-- One of a page's two regions as a tensor laid out over (head, position, dim), with its first byte and its records. -/
structure KvReg where
  addr : Nat
  fmt : Nat
  sf : Nat
  cb : Nat
  recs : Nat
  block0 : Nat
  deriving DecidableEq, Repr

/-- Blocks of a page's region. -/
def kvBlocks (h : KvHead) (e : KvEnt) : Nat := h.heads * e.pos * h.dim / 32

/-- Data bytes and record bytes of a region. -/
def kvBytes (h : KvHead) (e : KvEnt) (fmt : Nat) : Nat := h.heads * e.pos * h.dim * elemBits fmt / 8
def kvRecBytes (h : KvHead) (e : KvEnt) (sf : Nat) : Nat := if sf = 0 then 0 else 64 * ((kvBlocks h e + 29) / 30)

/-- The key region, the value region, and the end of the page's span (R251). -/
def kvRegs (h : KvHead) (e : KvEnt) : KvReg × KvReg × Nat :=
  let kr := up64 (e.addr + kvBytes h e e.kFmt)
  let v := up64 (if e.kSf = 0 then e.addr + kvBytes h e e.kFmt else kr + kvRecBytes h e e.kSf)
  let vr := up64 (v + kvBytes h e e.vFmt)
  ({ addr := e.addr, fmt := e.kFmt, sf := e.kSf, cb := e.kCb, recs := kr, block0 := 0 },
   { addr := v, fmt := e.vFmt, sf := e.vSf, cb := e.vCb, recs := vr, block0 := 0x8000 },
   if e.vSf = 0 then v + kvBytes h e e.vFmt else vr + kvRecBytes h e e.vSf)

/-- Partition memory as a core's KV unit reads it. -/
def kvRead (g a n : Nat) : Xm (List Byte) := do
  let v ← get
  let c := getCore v.s g
  let (r, s) := readPart c.part a n (.ctx c.part c.slot) v.s
  set { v with s := s }
  match r with
  | .ok b => pure b
  | .error e => throw (.mem e)

def kvWrite (g a : Nat) (bs : List Byte) : Xm Unit := do
  let v ← get
  let c := getCore v.s g
  let (e, s) := writeCtx c.part c.slot a bs v.s
  set { v with s := s }
  match e with
  | none => pure ()
  | some e => throw (.mem e)

/-- Read and check a header. -/
def kvHeader (g list : Nat) : Xm KvHead := do
  let b ← kvRead g list 64
  match kvHead b with
  | some h => pure h
  | none => stopX 0x23

/-- Entry `i` as the step with generation `gen` reads it: the cached copy of that generation, else memory (R260). -/
def kvEntry (g list gen i : Nat) : Xm KvEnt := do
  let c ← peekX fun s => getCore s g
  match c.kvCache.find? fun e => e.1 = list && e.2.1 = i && e.2.2.1 = gen with
  | some e => pure (kvEnt e.2.2.2)
  | none => do
    let b ← kvRead g (list + 64 + 16 * i) 16
    let w : BitVec 128 := BitVec.ofNat 128 (ofBytes b)
    actX (modCore g fun c => { c with kvCache := (c.kvCache ++ [(list, i, gen, w)]).drop (c.kvCache.length + 1 - 4096) })
    pure (kvEnt w)

/-- The entries of a walk step. -/
def kvStep (g : Nat) (k : Walk) : Xm (List KvEnt) :=
  mapX (fun i => kvEntry g k.list k.gen (k.entry + i)) (List.range (min 64 (k.entries - k.entry)))

/-- An entry's page lies in the mapped granules (R251). -/
def kvMapped (g : Nat) (h : KvHead) (e : KvEnt) (wr : Bool) : Xm Unit := do
  let n := (kvRegs h e).2.2 - e.addr
  let r ← peekX fun s => if partSpace < e.addr + n then some e.addr else refusedAt s (getCore s g).part e.addr n wr
  match r with
  | some a => if e.valid then stopX 0x26 a else pure ()
  | none => pure ()

/-- Value of an element of a region. -/
def kvVal (s : State) (g : Nat) (r : KvReg) (code : Nat) : Ex :=
  if r.fmt = 8 then bf16.decode (tabGet dCode (getCore s g).code (16 * r.cb + code)).toNat else elemVal r.fmt code

/-- Codes of a vector of D elements of (head, position). -/
def kvCodes (g : Nat) (h : KvHead) (e : KvEnt) (r : KvReg) (head t : Nat) : Xm (List Nat) := do
  let i := (head * e.pos + t) * h.dim
  let bs ← kvRead g (r.addr + i * elemBits r.fmt / 8) (h.dim * elemBits r.fmt / 8)
  pure (unpack (elemBits r.fmt) bs)

/-- Scale of block `b` of a vector, checked (R199, R251). -/
def kvScale (g : Nat) (h : KvHead) (e : KvEnt) (r : KvReg) (head t b : Nat) : Xm Ex := do
  if r.sf = 0 then pure (.fin false 1 1)
  else do
    let x := (head * e.pos + t) * h.dim / 32 + b
    let rec_ ← kvRead g (r.recs + 64 * (x / 30)) 64
    need 0x22 (recOk rec_ r.block0 x r.sf false)
    pure (slotScale r.sf (leAt rec_ (4 + 2 * (x % 30)) 2))

/-! ## ATTN: issue (R252 to R255) -/

/-- Mask or segment element of a query (R253). -/
def maskOf (g : Nat) (tb : Td) : Xm (List Nat) := do
  let l ← rowCodes g tb [0, 0, 0, 0]
  pure l

/-- Checks of ATTN at issue. -/
def attnCheck (g : Nat) (w : InstrWord) : Xm Unit := do
  let tree ← peekX fun s => bit (regGet s 0x10).toNat 3
  need 0x13 (!(flag w 2 && flag w 3) && (!flag w 2 || (flag w 1 && tree)))
  let td ← tdArg g (vTd w) true
  let ta ← tdArg g (vTa w) false
  let masked := flag w 2 || flag w 3
  let tb ← if masked then tdArg g (vTb w) false else pure ta
  let q := ta.dim 2
  need 0x13 (!flag w 2 || q ≤ 16)
  need 0x06 ((ta.fmt = 5 && ta.sf = 0) || ta.fmt = 3 || ta.fmt = 4)
  need 0x06 (dstFmt td && !td.isInt32)
  need 0x07 (ta.rank = 3 && sameDims [td, ta] && q ≤ 4096)
  need 0x07 (!masked || (tb.fmt = 10 && tb.rank = 1 && tb.dim 0 = q && tb.space = 1))
  needSpan g td true
  needSpan g ta false
  if masked then do
    needSpan g tb false
    let m ← maskOf g tb
    need 0x13 (if flag w 2 then (m.zip (List.range q)).all fun x => bit x.1 x.2 && x.1 < 2 ^ (x.2 + 1)
      else m.all fun x => x < 65536)
  else pure ()

/-- A walk begins at its first step (R257). -/
def startWalk (g : Nat) (w : InstrWord) : Xm Unit :=
  actX (modCore g fun c =>
    { c with walk := some { word := w, td := c.getT (vTd w), ta := c.getT (vTa w), tb := c.getT (vTb w),
                            list := (c.getS (vSa w)).toNat, pos := (c.getS (vSb w)).toNat } })

/-- Change the walk. -/
def setWalk (g : Nat) (k : Option Walk) : Xm Unit := actX (modCore g fun c => { c with walk := k })

/-- A step starts: header and entries are read (R259 steps 1 and 2). -/
def walkStart (g : Nat) (k : Walk) (fit_ : KvHead → Bool) : Xm Unit := do
  need 0x23 (k.list % 16 = 0)
  let h ← kvHeader g k.list
  need 0x07 (fit_ h)
  let k := { k with gen := h.gen, len := h.len, entries := h.entries, started := true }
  let _ ← kvStep g k
  setWalk g (some k)

/-- An entry generation is newer than a header generation (R258). -/
def newer (e h : Nat) : Bool := let d := (e + 65536 - h) % 65536; 1 ≤ d && d ≤ 32767

/-- The step disagrees with itself (R259): the generation read again differs, or an entry is newer. -/
def walkMismatch (g : Nat) (k : Walk) (es : List KvEnt) : Xm (Bool × Nat) := do
  let b ← kvRead g k.list 16
  let g1 := leAt b 4 2
  pure (g1 ≠ k.gen || es.any fun e => newer e.gen k.gen, g1)

/-- The step is taken again, once; a second mismatch faults (R259). -/
def walkReplay (g : Nat) (k : Walk) (g1 : Nat) : Xm Unit := do
  if k.replays ≠ 0 then stopX 0x24
  else do
    setWalk g (some { k with started := false, replays := 1 })
    actX fun s =>
      let c := getCore s g
      let s := modCtx c.part c.slot (fun x => { x with launch := x.launch.map fun l => { l with replayed := l.replayed + 1 } }) s
      record (2 + g / 32) 0x0408
        [.id1 (g / 32), .id1 (g % 32), .id1 c.part, .loc8 k.list, .val2 k.gen, .val2 g1] c.part c.slot s

/-! ## ATTN: a step (R256) -/

/-- One query row as the engines read it: elements and block scales. -/
structure QRow where
  q : Nat
  elems : List Ex
  scales : List Ex
  mask : Nat
  deriving DecidableEq, Repr

/-- Block scales of a query row; none where it is unscaled. -/
def queryScales (g : Nat) (ta : Td) (ix : List Nat) : Xm (List Ex) :=
  if ta.sf = 0 then pure []
  else mapX (fun b => Prod.fst <$> scaleOf g ta (ta.rowNo ix * ta.blocks + b)) (List.range ta.blocks)

/-- Query rows of an m-block: numbered r = q·g + i over the pairs of KV head `head` (R255). -/
def queryRows (g : Nat) (ta : Td) (heads head mb : Nat) (mask : List Nat) : Xm (List (QRow × Nat)) := do
  let grp := ta.dim 1 / heads
  let mr := min 64 (8192 / ta.dim 0)
  let rs := (List.range (min mr (grp * ta.dim 2 - mb * mr))).map (mb * mr + ·)
  mapX (fun r => do
    let q := r / grp
    let hq := head * grp + r % grp
    let ix := [hq, q, 0, 0]
    let codes ← rowCodes g ta ix
    let sc ← queryScales g ta ix
    pure ({ q, elems := codes.map (elemVal ta.fmt), scales := sc, mask := mask.getD q 0 }, hq)) rs

/-- The key at position `p` is present for a query (R253). -/
def present (w : InstrWord) (k : Walk) (nq : Nat) (e : KvEnt) (row : QRow) (p : Nat) : Bool :=
  let own := k.pos ≤ p && p < k.pos + nq
  e.valid && (p < k.len || own) &&
    (!(own && k.len ≤ p) ||
      (if flag w 2 then bit row.mask (p - k.pos) else if flag w 1 then p ≤ k.pos + row.q else true)) &&
    (!flag w 3 || e.seg = row.mask)

/-- Score of a row against a key (R256). -/
def score (h : KvHead) (scaled : Bool) (row : QRow) (key : List Ex) (ks : List Ex) : Num Word := do
  let leaves ← mapN (fun b => do
    let a := ((row.elems.drop (32 * b)).take 32).map some
    let kk := ((key.drop (32 * b)).take 32).map some
    leafOf false scaled (a, row.scales.getD b (.fin false 1 1)) (kk, ks.getD b (.fin false 1 1))) (List.range (h.dim / 32))
  let r ← tree (addOpt addF) none 5 leaves
  mulF (r.getD 0) h.scale

/-- Running first, m, l and o of a row. -/
abbrev RunRow := Bool × Word × Word × List Word

/-- One chunk for one row: `sv` holds score and dequantised value row of each of its 32 indices, where present. -/
def chunkRow (st : RunRow) (sv : List (Option (Word × List Word))) (dim : Nat) : Num RunRow := do
  let ps := sv.filterMap id
  if ps.isEmpty then pure st
  else do
    let (first, m, l, o) := st
    let mc ← tree (fun a b => match a, b with
      | some x, some y => pure (some (maxF x y))
      | some x, none => pure (some x)
      | none, y => pure y) none 5 (sv.map fun x => x.map (·.1))
    let mc := mc.getD 0
    let mn := if first then mc else maxF m mc
    let a ← if first then pure 0 else do
      let d ← subF m mn
      expF d
    let pr ← mapN (fun x => match x with
      | none => pure none
      | some (sc, v) => do
        let d ← subF sc mn
        let e ← expF d
        pure (some (e, v))) sv
    let sum ← tree (addOpt addF) none 5 (pr.map fun x => x.map (·.1))
    let l ← fmaF l a (sum.getD 0)
    let o ← mapN (fun e => do
      let ts ← mapN (fun x => match x with
        | none => pure none
        | some (p, v) => do
          let z ← mulF p (v.getD e 0)
          pure (some z)) pr
      let pv ← columnSum false ts
      fmaF (o.getD e 0) a (pv.getD 0)) (List.range dim)
    pure (false, mn, l, o)

/-- Keys and values of a chunk: for each index of 32, key elements, key scales and dequantised values. -/
def chunkData (g : Nat) (h : KvHead) (e : KvEnt) (head c : Nat) (need_ : Nat → Bool) :
    Xm (List (Option (List Ex × List Ex × List Word))) := do
  let (kr, vr, _) := kvRegs h e
  let s ← peekX id
  mapX (fun i =>
    let t := 32 * c + i
    if e.tokens ≤ t || !need_ t then pure none
    else do
      let kc ← kvCodes g h e kr head t
      let ks ← mapX (kvScale g h e kr head t) (List.range (h.dim / 32))
      let vc ← kvCodes g h e vr head t
      let vs ← mapX (kvScale g h e vr head t) (List.range (h.dim / 32))
      let v ← num (mapN (fun b => mapN (fun x => if vr.sf = 0 then round32 x else finish32 (x.mul (vs.getD b.2 (.fin false 1 1))))
        b.1) ((chunks 32 h.dim (vc.map (kvVal s g vr))).zip (List.range (h.dim / 32))))
      pure (some (kc.map (kvVal s g kr), ks, v.flatten))) (List.range 32)

/-- One entry of a step over the rows of the m-block. `first` is its first position. -/
def attnEntry (g : Nat) (w : InstrWord) (h : KvHead) (k : Walk) (qscaled : Bool) (nq : Nat) (rows : List QRow)
    (e : KvEnt) (first : Nat) (st : List RunRow) : Xm (List RunRow) :=
  (List.range ((e.tokens + 31) / 32)).foldlM (fun st c => do
    let any (t : Nat) : Bool := rows.any fun r => present w k nq e r (first + t)
    let data ← chunkData g h e k.head c any
    mapX (fun x => do
      let (r, acc) := x
      num (do
        let sv ← mapN (fun d => match d.1 with
          | none => pure none
          | some (key, ks, v) =>
            if present w k nq e r (first + 32 * c + d.2) then do
              let sc ← score h (qscaled || e.kSf ≠ 0) r key ks
              pure (some (sc, v))
            else pure none) (data.zip (List.range 32))
        chunkRow acc sv h.dim)) (rows.zip st)) st

/-- The data of a step: its entries are checked in order and its chunks taken in (R256, R263). -/
def attnStep (g : Nat) (h : KvHead) (k : Walk) (ta : Td) (rows : List QRow) (st : List RunRow) (es : List KvEnt) :
    Xm (List RunRow × Nat) :=
  es.foldlM (fun (acc : List RunRow × Nat) e => do
    let c ← peekX fun s => getCore s g
    let ok ← peekX fun s => entOk s c.part h (flag k.word 0) e
    need 0x23 ok
    kvMapped g h e false
    let r ← if e.valid then attnEntry g k.word h k (ta.sf ≠ 0) (ta.dim 2) rows e acc.2 acc.1 else pure acc.1
    pure (r, acc.2 + e.tokens)) (st, k.first)

/-- The rows of an m-block are written (R256, R257). -/
def attnWrite (g : Nat) (td : Td) (rows : List (QRow × Nat)) (st : List RunRow) : Xm Unit :=
  eachX (fun x => do
    let ((r, hq), (first, _, l, o)) := x
    let y ← if first then pure (List.replicate (td.dim 0) 0) else num (mapN (fun e => divF e l) o)
    putRow g td [hq, r.q, 0, 0] none (y.map f32)) (rows.zip st)

/-- The end of an ATTN step: data, the second reading of the generation, then the next step, m-block or head. -/
def attnEnd (g : Nat) (k : Walk) : Xm Unit := do
  let td := Td.of k.td
  let ta := Td.of k.ta
  let h ← kvHeader g k.list
  let v0 ← get
  let mask ← if flag k.word 2 || flag k.word 3 then maskOf g (Td.of k.tb) else pure []
  let rows ← queryRows g ta h.heads k.head k.mblock mask
  let st := if k.rows.isEmpty then rows.map fun _ => (true, (0 : Word), (0 : Word), List.replicate (ta.dim 0) (0 : Word)) else k.rows
  let es ← kvStep g k
  let (st', covered) ← attnStep g h k ta (rows.map (·.1)) st es
  let (bad_, g1) ← walkMismatch g k es
  if bad_ then do
    -- the dropped pass leaves no condition
    modify fun v => { v with t := v0.t }
    walkReplay g k g1
  else if k.entry + 64 < k.entries then
    setWalk g (some { k with entry := k.entry + 64, first := covered, started := false, replays := 0, sub := k.sub + 1, rows := st' })
  else do
    need 0x07 (k.pos + ta.dim 2 ≤ covered)
    attnWrite g td rows st'
    let grp := ta.dim 1 / h.heads
    let mr := min 64 (8192 / ta.dim 0)
    let base := { k with entry := 0, first := 0, started := false, replays := 0, sub := 0, rows := [] }
    if (k.mblock + 1) * mr < grp * ta.dim 2 then setWalk g (some { base with mblock := k.mblock + 1 })
    else if k.head + 1 < h.heads then setWalk g (some { base with head := k.head + 1, mblock := 0 })
    else do
      setWalk g none
      actX (nextPc g)

/-- The query agrees with the header (R255). -/
def attnFits (ta : Td) (h : KvHead) : Bool := ta.dim 0 = h.dim && ta.dim 1 % h.heads = 0

/-- Stage of a walk: issue, start of a step, end of a step. -/
def walkStage (g : Nat) (w : InstrWord) (check : Xm Unit) (fits : Walk → KvHead → Bool) (fin : Walk → Xm Unit)
    (s : State) : State :=
  match (getCore s g).walk with
  | none =>
    runX g (do
      check
      startWalk g w) id s
  | some k => if k.started then runX g (fin k) id s else runX g (walkStart g k (fits k)) id s

def okAttn (w : InstrWord) : Bool :=
  onlyBits w ([fTd, fTa, fSa, fSb, (111, 4)] ++ if flag w 2 || flag w 3 then [fTb] else [])

def doAttn (g : Nat) (s : State) : State :=
  issue g 0x25 okAttn (fun w s =>
    let c := getCore s g
    let l := ([vTd w, vTa w] ++ if flag w 2 || flag w 3 then [vTb w] else []).map fun i => Td.of (c.getT i)
    if c.walk.isSome || (expandedAll c && operandsFree s g l) then
      walkStage g w (attnCheck g w) (fun k => attnFits (Td.of k.ta)) (attnEnd g) s
    else s) s

def execAttnI (g : Nat) (s : State) : Host.Outcome State Fault Refusal := .next (doAttn g s)

/-! ## KVW (R261) -/

/-- Update header bytes 0 to 15: length and generation, and the entries in use (R258). -/
def headerBytes (b : List Byte) (gen entries len : Nat) : List Byte :=
  b.take 4 ++ toBytes 2 gen ++ toBytes 2 entries ++ toBytes 4 len ++ (b.drop 12).take 4

/-- A slot of a scale record is replaced; the record is written whole (R261). -/
def putSlot (g : Nat) (h : KvHead) (e : KvEnt) (r : KvReg) (x slot : Nat) (const : Bool) : Xm Unit := do
  let a := r.recs + 64 * (x / 30)
  let old ← kvRead g a 64
  let n := min 30 (kvBlocks h e - 30 * (x / 30))
  let slots := ((List.range n).map fun i => leAt old (4 + 2 * i) 2).set (x % 30) slot
  kvWrite g a (scaleRecord ((r.block0 + 30 * (x / 30)) % 65536) false (const || bit (leAt old 2 1) 7) slots)

/-- Write a vector of D values at (head, position) of a region, with fresh block scales where it is scaled. -/
def kvPut (g : Nat) (h : KvHead) (e : KvEnt) (r : KvReg) (head t : Nat) (xs : List Word) : Xm Unit := do
  let i := (head * e.pos + t) * h.dim
  let td : Td := { Td.of 0 with fmt := r.fmt, sf := r.sf }
  let codes ← mapX (fun b => do
    let ex := b.1.map f32
    if r.sf = 0 then num (mapN (fun x => toElem r.fmt none x) ex)
    else do
      let f := freshOf td ex
      if f.const then num (raise .const) else pure ()
      putSlot g h e r (i / 32 + b.2) f.slot f.const
      num (mapN (fun x => freshCode td f none x) ex)) ((chunks 32 xs.length xs).zip (List.range (h.dim / 32)))
  kvWrite g (r.addr + i * elemBits r.fmt / 8) (pack (elemBits r.fmt) codes.flatten)

/-- Checks of KVW at issue. -/
def kvwCheck (g : Nat) (w : InstrWord) : Xm Unit := do
  need 0x13 (!(flag w 0 && flag w 1))
  if flag w 1 then pure ()
  else do
    let ta ← tdArg g (vTa w) false
    if flag w 0 then do
      need 0x07 (ta.fmt = 10 && ta.rank = 1 && ta.space = 1 && ta.dim 0 ≤ 16)
      needSpan g ta false
    else do
      let tb ← tdArg g (vTb w) false
      need 0x06 (srcFmt ta && srcFmt tb && !ta.isInt32 && !tb.isInt32)
      need 0x07 (ta.rank = 3 && sameDims [ta, tb])
      needSpan g ta false
      needSpan g tb false

/-- Entry and page-local index of a position among entries with their first positions. -/
def findPos (es : List (Nat × KvEnt)) (p : Nat) : Option (KvEnt × Nat) :=
  (es.find? fun x => x.1 ≤ p && p < x.1 + x.2.tokens).map fun x => (x.2, p - x.1)

/-- Entries with their first positions. -/
def withFirst : (first : Nat) → List KvEnt → List (Nat × KvEnt)
  | _, [] => []
  | f, e :: r => (f, e) :: withFirst (f + e.tokens) r

/-- The entries of a step pass their checks, and those with a page are mapped for writing. -/
def kvwEntries (g : Nat) (h : KvHead) (es : List KvEnt) : Xm Unit :=
  eachX (fun e => do
    let c ← peekX fun s => getCore s g
    let ok ← peekX fun s => entOk s c.part h false e
    need 0x23 ok) es

/-- One step of an append: the tokens of its entries are written. -/
def kvwAppend (g : Nat) (k : Walk) : Xm Unit := do
  let ta := Td.of k.ta
  let tb := Td.of k.tb
  let h ← kvHeader g k.list
  need 0x07 (k.len ≤ k.pos)
  let v0 ← get
  let es ← kvStep g k
  kvwEntries g h es
  let fs := withFirst k.first es
  eachX (fun q => match findPos fs (k.pos + q) with
    | none => pure ()
    | some (e, t) => do
      need 0x07 e.valid
      need 0x23 (e.kFmt ≠ 8 && e.vFmt ≠ 8)
      kvMapped g h e true
      let (kr, vr, _) := kvRegs h e
      eachX (fun head => do
        let kv ← rowVals g ta [head, q, 0, 0]
        kvPut g h e kr head t kv
        let vv ← rowVals g tb [head, q, 0, 0]
        kvPut g h e vr head t vv) (List.range h.heads)) (List.range (ta.dim 2))
  let (bad_, g1) ← walkMismatch g k es
  let covered := k.first + (es.map KvEnt.tokens).sum
  if bad_ then do
    modify fun v => { v with t := v0.t }
    walkReplay g k g1
  else if k.entry + 64 < k.entries then
    setWalk g (some { k with entry := k.entry + 64, first := covered, started := false, replays := 0, sub := k.sub + 1 })
  else do
    need 0x07 (k.pos + ta.dim 2 ≤ covered)
    setWalk g none
    actX (nextPc g)

/-- Copy a vector and its scale slots from one position to another, in one region. -/
def kvCopy (g : Nat) (h : KvHead) (a : KvEnt × Nat) (b : KvEnt × Nat) (val : Bool) (head : Nat) : Xm Unit := do
  let reg (e : KvEnt) : KvReg := if val then (kvRegs h e).2.1 else (kvRegs h e).1
  let ra := reg a.1
  let rb := reg b.1
  need 0x23 (ra.fmt = rb.fmt && ra.sf = rb.sf)
  let n := h.dim * elemBits ra.fmt / 8
  let bs ← kvRead g (ra.addr + (head * a.1.pos + a.2) * n) n
  if ra.sf = 0 then pure ()
  else eachX (fun i => do
    let x := (head * a.1.pos + a.2) * h.dim / 32 + i
    let r ← kvRead g (ra.recs + 64 * (x / 30)) 64
    need 0x22 (recOk r ra.block0 x ra.sf false)
    putSlot g h b.1 rb ((head * b.1.pos + b.2) * h.dim / 32 + i) (leAt r (4 + 2 * (x % 30)) 2) false) (List.range (h.dim / 32))
  kvWrite g (rb.addr + (head * b.1.pos + b.2) * n) bs

/-- The commit form: accepted tokens move down and the header advances (R261). -/
def kvwCommit (g : Nat) (k : Walk) : Xm Unit := do
  let h ← kvHeader g k.list
  let offs ← rowCodes g (Td.of k.ta) [0, 0, 0, 0]
  let asc := (offs.zip (offs.drop 1)).all fun x => x.1 < x.2
  need 0x07 (k.pos = k.len && asc && offs.all (· < 16))
  let es ← mapX (fun i => kvEntry g k.list k.gen i) (List.range k.entries)
  kvwEntries g h es
  let fs := withFirst 0 es
  eachX (fun x => match findPos fs (k.len + x.1), findPos fs (k.len + x.2) with
    | some a, some b => do
      need 0x07 (a.1.valid && b.1.valid)
      kvMapped g h a.1 true
      kvMapped g h b.1 true
      if x.1 = x.2 then pure ()
      else eachX (fun head => do
        kvCopy g h a b false head
        kvCopy g h a b true head) (List.range h.heads)
    | _, _ => stopX 0x07) (offs.zip (List.range offs.length))
  let (bad_, g1) ← walkMismatch g k es
  if bad_ then walkReplay g k g1
  else do
    let b ← kvRead g k.list 16
    kvWrite g k.list (headerBytes b (leAt b 4 2 + 1) (leAt b 6 2) (k.len + offs.length))
    setWalk g none
    actX (nextPc g)

/-- The rewind form (R261). -/
def kvwRewind (g : Nat) (k : Walk) : Xm Unit := do
  need 0x07 (k.pos ≤ k.len)
  let b ← kvRead g k.list 16
  kvWrite g k.list (headerBytes b (leAt b 4 2 + 1) (leAt b 6 2) k.pos)
  setWalk g none
  actX (nextPc g)

def kvwEnd (g : Nat) (k : Walk) : Xm Unit :=
  if flag k.word 1 then kvwRewind g k else if flag k.word 0 then kvwCommit g k else kvwAppend g k

/-- Keys and values agree with the header (R261). -/
def kvwFits (k : Walk) (h : KvHead) : Bool :=
  let ta := Td.of k.ta
  flag k.word 0 || flag k.word 1 || (ta.dim 0 = h.dim && ta.dim 1 = h.heads)

def okKvw (w : InstrWord) : Bool :=
  onlyBits w ([fSa, fSb, (111, 2)] ++ (if flag w 1 && !flag w 0 then [] else [fTa]) ++
    if flag w 0 || flag w 1 then [] else [fTb])

def doKvw (g : Nat) (s : State) : State :=
  issue g 0x27 okKvw (fun w s =>
    let c := getCore s g
    let l := ((if flag w 1 then [] else [vTa w]) ++ if flag w 0 || flag w 1 then [] else [vTb w]).map fun i => Td.of (c.getT i)
    if c.walk.isSome || operandsFree s g l then walkStage g w (kvwCheck g w) kvwFits (kvwEnd g) s else s) s

def execKvwI (g : Nat) (s : State) : Host.Outcome State Fault Refusal := .next (doKvw g s)

/-! ## KV_MAP (R262) -/

/-- Check 6 at fetch of KV_MAP. -/
def kvMapCheck (_ : State) (d : Desc) : Option Refused :=
  firstOf [(d.u 8 8 % 16 ≠ 0, bad 8), (d.u 20 4 = 0 || 4096 < d.u 20 4, bad 20), (d.u 24 8 % 16 ≠ 0, bad 24),
    (4096 < d.u 16 4 + d.u 20 4, bad 16)]

/-- Check 6 on the memory as it stands: the ranges and the header. -/
def kvMapReady (s : State) (d : Desc) : Option Refused :=
  let list := d.u 8 8
  let n := d.u 20 4
  let okRange (a k : Nat) : Bool := a + k ≤ partSpace && mapped s d.part a k true
  let ok := okRange list 64 && okRange (list + 64 + 16 * d.u 16 4) (16 * n) && okRange (d.u 24 8) (16 * n) &&
    (kvHead (peek s d.part list 64)).isSome
  if ok then none else some (bad 16)

/-- A descriptor's write, under the policy (R442). -/
def writeDesc (d : Desc) (a : Nat) (bs : List Byte) (s : State) : Option MemErr × State :=
  match policyStop s d.part a bs.length with
  | some x => (some (.violation x), s)
  | none => writePart d.part a bs (.hub 2) s

/-- Entries as copied: with gen_bump their gen field holds the next generation. -/
def bumpEntries (gen : Option Nat) (b : List Byte) : List Byte :=
  match gen with
  | none => b
  | some n => (chunks 16 b.length b).flatMap fun e => e.take 10 ++ toBytes 2 n ++ e.drop 12

def doKvMap (t id : Nat) (s : State) : State :=
  runDesc t id 0x08 (fun s d => (kvMapCheck s d).or (kvMapReady s d)) (fun d s =>
    let list := d.u 8 8
    let n := d.u 20 4
    let bump := bit (d.u 32 1) 0
    match readPart d.part (d.u 24 8) (16 * n) (.hub 2) s with
    | (.error e, s) => descMemErr d e s
    | (.ok src, s) =>
      let hb := peek s d.part list 16
      let g1 := leAt hb 4 2 + 1
      let (e, s) := writeDesc d (list + 64 + 16 * d.u 16 4) (bumpEntries (if bump then some g1 else none) src) s
      match e with
      | some e => descMemErr d e s
      | none =>
        if bump then
          let (e, s) := writeDesc d list (headerBytes hb g1 (max (leAt hb 6 2) (d.u 16 4 + n)) (leAt hb 8 4)) s
          match e with
          | some e => descMemErr d e s
          | none => finishOk d.id s
        else finishOk d.id s) s

def execKvMap (t id : Nat) (s : State) : Host.Outcome State Fault Refusal := .next (doKvMap t id s)

end Sys2Proof.Machine
end

