-- ==== Sys2Proof/Machine/Access.lean ====
section
/-!
DEFINITION. Access.lean: who reaches which register (R23, R33 to R35, R147, and the "reachable through" sentence of each
block), and which dies and domains are there to answer.
-/
namespace Sys2Proof.Machine

/-- Bit `i` of a hub's power domains is on: CORE, DRAM, ING, SDL, FUS, SEC (PWR_PD1). -/
def hubDomain (s : State) (h i : Nat) : Bool := bit (if h = 0 then s.pwr.hn else s.pwr.hs) i

/-- PD_CDd_Qq is on (PWR_PD0). -/
def quadOn (s : State) (d q : Nat) : Bool := bit s.pwr.cd (5 * d + q)

/-- PD_CDd_MESH is on (PWR_PD0). -/
def meshOn (s : State) (d : Nat) : Bool := bit s.pwr.cd (5 * d + 4)

/-- Quadrant of a core of its die (R22). -/
def quadOf (c : Nat) : Nat := 2 * (c / 8 / 2) + c % 8 / 4

/-- The hub is up and not in reset. -/
def hubUp (s : State) (h : Nat) : Bool := (getHub s h).up && !(getHub s h).inReset

/-- The answering hub of an access (R33). -/
def answerHub (s : State) : Agent → Nat
  | .pf => linkHub s.fuse.mpfLink
  | .vf p => fnHub s p
  | .scion h => h

/-- Where a block is held: a hub, a compute die, or wherever the access arrives (Table 1.10). -/
inductive Home where
  | here | hub (h : Nat) | die (d : Nat)
  deriving DecidableEq, Repr

def Blk.home : Blk → Home
  | .glb => .here | .hif => .here | .lnk => .here | .prt => .here
  | .fn _ => .here
  | .core g => .die (g / 32)
  | .die d => .die d
  | .drc h => .hub h | .ing h => .hub h | .sdl h => .hub h | .fus h => .hub h | .ptn h => .hub h
  | .saf i => .hub i
  | .sec => .hub 0 | .evr => .hub 0 | .pwr => .hub 0 | .inj => .hub 0

/-- Whether the domain of a block is powered (R35, Table 1.2). -/
def blkPowered (s : State) : Blk → Bool
  | .core g => meshOn s (g / 32) && quadOn s (g / 32) (quadOf (g % 32))
  | .die d => meshOn s d
  | .drc h => hubDomain s h 1
  | .ing h => hubDomain s h 2
  | .sdl h => hubDomain s h 3
  | .fus h => hubDomain s h 4
  | .sec => hubDomain s 0 5
  | _ => true

/-- Whether the block's die answers an access that arrives at hub `h` (R35). -/
def blkThere (s : State) (h : Nat) (b : Blk) : Bool :=
  match b.home with
  | .here => true
  | .hub k => k = h || (hubsJoined s && hubUp s k)
  | .die d => (getDie s d).st = .up && dieReaches s d h

/-- How an access ends: it reaches the block, or it is answered by R35. -/
inductive Reach where
  | reached | pdOff | unreachable
  deriving DecidableEq, Repr

def reach (s : State) (h : Nat) (b : Blk) : Reach :=
  if !blkPowered s b then .pdOff else if blkThere s h b then .reached else .unreachable

/-- The BAR0 offset of the management PF's map that an access names: a VF sees its own function window (Table 2.2). -/
def absOff : Agent → Nat → Option Nat
  | .pf, off => if off < 0x4000000 then some off else none
  | .scion _, off => if off < 0x4000000 then some off else none
  | .vf p, off => if off < 0x4000 then some ((Blk.fn p).base + off) else none

/-- Writes of the PF or of scion to the VFs' window copies are ignored; PWR_CMD takes the management PF's alone, and SEC
takes scion's into nothing (spec/02, spec/15, spec/17). -/
def writeAllowed (acc : Agent) (off : Nat) : Bool :=
  match acc, blkOf off with
  | .vf _, some (.fn _) => true
  | .vf _, _ => false
  | _, some (.fn p) => p = 0
  | .scion _, some .sec => !(off = 0x2500010 || (0x2580000 ≤ off && off < 0x2600000))
  | .scion _, some .pwr => off ≠ 0x2800014
  | _, _ => true

/-- A write access takes effect at its register: it is allowed and reaches the block; a disabled core ignores it (R23). -/
def writeReaches (s : State) (acc : Agent) (off : Nat) : Bool :=
  match blkOf off with
  | none => false
  | some b =>
    writeAllowed acc off && reach s (answerHub s acc) b = .reached &&
      (match b with
       | .core g => bit ((s.fuse.coreEn.getD (g / 32) 0).toNat) (g % 32) && !(getCore s g).failed
       | _ => true)

end Sys2Proof.Machine
end

