-- ==== Sys2Proof/Machine/Locks.lean ====
section
/-!
DEFINITION. Locks.lean: a write to an lk field while its block runs (R9), where each block reports it.
-/
namespace Sys2Proof.Machine

/-- ERR_LOCKED_WRITE of a block that names the subject of its first error, where a locked register has none: what the
register then names is a free value. -/
def markFree (off n lo w : Nat) (s : State) : State :=
  let (v, s) := takeFree s
  stick off 0 n (some (lo, w, v)) s

/-- ERR_LOCKED_WRITE of the block at `off`, and its event with the offset in the block. HIF reports it in the function's
HIF_FN_ERR, a register of HIF itself in the management PF's. INJ has no event of its own. -/
def lockedWrite (off : Nat) (s : State) : State :=
  match blkOf off with
  | none => s
  | some b =>
    let o := off - b.base
    let mark (reg bit_ : Nat) (s : State) : State := fldSet (b.base + reg) bit_ 1 1 s
    match b with
    | .glb => s
    | .evr => s
    | .hif => event (fnHub s 0) 0x0207 [.id1 0, .loc4 o] (fnErr 0 4 0 s)
    | .fn p => eventFor p (fnHub s p) 0x0207 [.id1 p, .loc4 o] (fnErr p 4 ((o - 0x100) / 0x20) s)
    | .prt => event 0 0x0307 [.loc4 o] (stick (b.base + 0x10) 0 3 (some (8, 8, 0)) s)
    | .core g => event (2 + g / 32) 0x0405 [.id1 (g / 32), .loc4 o] (fldSet ((Blk.die (g / 32)).base + 0x10) 2 1 1 s)
    | .die d => event (2 + d) 0x0405 [.id1 d, .loc4 o] (mark 0x10 2 s)
    | .lnk => event 0 0x0508 [.loc4 o] (mark 8 0 s)
    | .drc h => event h 0x0608 [.id1 h, .loc4 o] (markFree (b.base + 8) 6 8 4 s)
    | .ing h => event h 0x0707 [.id1 h, .loc4 o] (markFree (b.base + 8) 7 8 6 s)
    | .sdl h => event h 0x0804 [.id1 h, .loc4 o] (stick (b.base + 0x10) 0 3 (some (8, 6, (o - 0x1000) / 0x20)) s)
    | .fus h => event h 0x0907 [.id1 h, .loc4 o] (mark 8 0 s)
    | .sec => event 0 0x0A0A [.loc4 o] (mark 4 0 s)
    | .saf i => event i 0x0B0C [.id1 i, .loc4 o] (mark 0x18 0 s)
    | .pwr => event 0 0x0D0A [.loc4 o] (mark 8 0 s)
    | .ptn h => event h 0x0508 [.loc4 o] (mark 0x10 0 s)
    | .inj => stick (b.base + 8) 0 3 (some (16, 16, fld s (b.base + 0x10) 0 16)) s

end Sys2Proof.Machine
end

