-- ==== Sys2Proof/Machine/Part.lean ====
section
/-!
DEFINITION. Part.lean: partitions, contexts and granule maps as descriptors change them (R84 to R91, R115, R443), and
the timed rows of the partition manager (R95, R96, R108, R111, R117). PART_DESTROY is in Destroy.lean.
-/
namespace Sys2Proof.Machine

/-! ## Descriptors that wait for scion (R438, R439) -/

def getScion (s : State) (h : Nat) : Scion := if h = 0 then s.sec.scionN else s.sec.scionS
def modScion (h : Nat) (f : Scion → Scion) (s : State) : State :=
  { s with sec := if h = 0 then { s.sec with scionN := f s.sec.scionN } else { s.sec with scionS := f s.sec.scionS } }

/-- A PF descriptor that needs scion: it waits while scion restarts, and completes NOT_PERMITTED once it is halted. -/
def runScion (t id op : Nat) (check : State → Desc → Option Refused) (body : Desc → State → State) (s : State) : State :=
  match (getScion s (fnHub s 0)).st with
  | 1 => advance t s
  | 2 => runDesc t id op (fun _ _ => some (0x0103, 0, 0)) body s
  | _ => runDesc t id op check body s

/-! ## PART_CREATE (R84 to R86) -/

/-- Granules of a hub that partitions may reserve (R30, R86). -/
def reservable (s : State) (h : Nat) : Nat := (getDrc s h).gib * 448 - 256

/-- Reserved granules and bandwidth of a hub over the created partitions (R86). -/
def reserved (s : State) (h : Nat) : Nat :=
  ((created s).map fun p => if h = 0 then (getPart s p).granN else (getPart s p).granS).sum
def shares (s : State) (h : Nat) : Nat :=
  ((created s).map fun p => if h = 0 then (getPart s p).bwN else (getPart s p).bwS).sum

/-- The die can give cores: it is UP (Table 3.1). -/
def dieUp (s : State) (d : Nat) : Bool := (getDie s d).st = .up

/-- The checks of Table 3.1, then that of R444. -/
def partCreateCheck (s : State) (d : Desc) : Option Refused :=
  let p := d.u 8 1
  let c (k : Nat) := d.u (12 + k) 1
  let gn := d.u 16 4
  let gs := d.u 20 4
  let north := c 2 = 0 && c 3 = 0 && gs = 0
  let south := c 0 = 0 && c 1 = 0 && gn = 0
  let die (k : Nat) : Bool × Refused := (c k ≠ 0 && (freeAlloc s k < c k || !dieUp s k), (0x0100, 12 + k, freeAlloc s k))
  firstOf [(p = 0 || 32 < p || (getPart s p).st ≠ 0, bad 8), (c 0 + c 1 + c 2 + c 3 = 0, bad 12),
    die 0, die 1, die 2, die 3, (bit (d.u 9 1) 0 && !north && !south, bad 9),
    (reservable s 0 - reserved s 0 < gn, bad 16), (reservable s 1 - reserved s 1 < gs, bad 20),
    (224 < shares s 0 + d.u 24 1, bad 24), (224 < shares s 1 + d.u 25 1, bad 25),
    (bit (d.u 9 1) 1 && s.sec.debug ≠ 0, denied 0x11)]

/-- New keys of an owner: its epoch rises on both hubs (R339). -/
def newEpoch (p : Nat) (s : State) : State :=
  [0, 1].foldl (fun s h => modDrc h (fun d => { d with epochs := tabMod dNat d.epochs p fun e => (e + 1) % 2 ^ 32 }) s) s

def partCreateBody (d : Desc) (s : State) : State :=
  let p := d.u 8 1
  let fl := d.u 9 1
  let part : Part :=
    { st := 1, hubLocal := bit fl 0, confidential := bit fl 1, safety := bit fl 2, privileged := bit fl 3,
      holdBudget := if d.u 10 2 = 0 then 500 else d.u 10 2,
      cores := (List.range 4).map fun k => d.u (12 + k) 1, granN := d.u 16 4, granS := d.u 20 4, bwN := d.u 24 1,
      bwS := d.u 25 1, sec := { draw := s.sec.draws, keyed := true } }
  let s := modPart p (fun _ => part) { s with sec := { s.sec with draws := s.sec.draws + 1 } }
  let s := newEpoch p s
  finishOk d.id (changed (record 0 0x0306 [.id1 p, .code1 0] p 0xFF s))

def doPartCreate (t id : Nat) (s : State) : State := runScion t id 0x10 partCreateCheck partCreateBody s

/-- PART_CREATE (R84): cores, granules and shares are set aside, keys drawn, the slots FREE. -/
def execPartCreate (t id : Nat) (s : State) : Host.Outcome State Fault Refusal := .next (doPartCreate t id s)

/-! ## CTX_CREATE and CTX_DESTROY (R90, R115) -/

/-- Slots not FREE in the package. -/
def contexts (s : State) : Nat := (s.prt.ctxs.filter fun e => e.2.st ≠ .free).length

/-- Length of a heel-in area for `n` cores (R90). -/
def heelLen (n : Nat) : Nat := 4096 + 3678208 * n

/-- Core count a CTX_CREATE asks for. -/
def ctxCores (s : State) (d : Desc) : Nat := if d.u 10 2 = 0 then partTotal s d.part else d.u 10 2

/-- The partition a PF descriptor names in byte 8 exists; on a VF byte 8 is 0 (Table 2.6). -/
def partNamed (s : State) (d : Desc) : Bool :=
  if d.fn = 0 then 1 ≤ d.u 8 1 && d.u 8 1 ≤ 32 && (getPart s (d.u 8 1)).st ≠ 0 else d.u 8 1 = 0

/-- The part of CTX_CREATE's checks made at fetch (R90, R521). -/
def ctxCreateStatic (s : State) (d : Desc) : Option Refused :=
  firstOf [(!partNamed s d, bad 8), (256 ≤ contexts s, bad 5), (3 < d.u 9 1, bad 9), (partTotal s d.part < ctxCores s d, bad 10),
    (d.u 16 8 % 4096 ≠ 0 || !mapped s d.part (d.u 16 8) (heelLen (ctxCores s d)) true, bad 16)]

/-- The checks of CTX_CREATE (R90). -/
def ctxCreateCheck (s : State) (d : Desc) : Option Refused :=
  firstOf [(!partNamed s d, bad 8), ((getCtx s d.part d.slot).st ≠ .free, bad 5)] |>.or (ctxCreateStatic s d)

def doCtxCreate (t id : Nat) (s : State) : State :=
  runDesc t id 0x12 ctxCreateCheck (fun d s =>
    let s := freeSlot d.part d.slot s
    let s := modCtx d.part d.slot (fun c =>
      { c with st := .idle, prio := d.u 9 1, cores := ctxCores s d, heelAddr := d.u 16 8 }) s
    finishOk d.id (modPart d.part (fun x => { x with nCreated := satAdd 64 x.nCreated 1 }) s)) s

/-- CTX_CREATE (R90): the slot is IDLE. -/
def execCtxCreate (t id : Nat) (s : State) : Host.Outcome State Fault Refusal := .next (doCtxCreate t id s)

/-- A context is destroyed by force: R113 steps 1 to 5, its descriptors complete as for a slot that does not exist
(R115). `self` is not one of them. -/
def destroyForced (p slot : Nat) (self : Option Nat) (s : State) : State :=
  let c := getCtx s p slot
  if c.st = .free then s
  else
    let s := stopClock p slot s
    let s := stopContext p slot s
    let s := recStop p slot 3 (recFinish p slot 0x0100 (zeros 32) s)
    let s := match c.launch.bind (·.swatch) with | some w => swatchResult w 0x0100 [] s | none => s
    let s := freeSlot p slot s
    let ds := s.hif.inflight.filter fun e =>
      e.part = p && e.ctx? = some slot && e.opcode ≠ 0x12 && some e.id ≠ self &&
        (match e.st with | .refused _ _ _ => false | _ => true)
    ds.foldl (fun s e => finish e.id 0x0100 5 0 0 s) s

def ctxDestroyBody (d : Desc) (s : State) : State :=
  let p := d.part
  let k := d.slot
  if (getCtx s p k).st = .faulted then finishOk d.id (freeSlot p k s)
  else if bit (d.u 9 1) 0 then finishOk d.id (destroyForced p k (some d.id) s)
  else settleDestroy 1 (modCtx p k (fun c => { c with destroyer := some d.id }) s)

def doCtxDestroy (t id : Nat) (s : State) : State :=
  runDesc t id 0x13 (fun s d => if partNamed s d then none else some (bad 8)) ctxDestroyBody s

/-- CTX_DESTROY (R115): at once by force or on a FAULTED slot, else once its earlier descriptors are done. -/
def execCtxDestroy (t id : Nat) (s : State) : Host.Outcome State Fault Refusal := .next (doCtxDestroy t id s)

/-! ## MEM_MAP (R88, R89, R345, R443) -/

/-- Granules of the partition mapped behind a hub. -/
def mappedBehind (s : State) (p h : Nat) : Nat :=
  ((getPart s p).gmap.filter fun e => match e.2 with
    | some g => devHub (granuleBytes * g.dev) = h
    | none => false).length

/-- The device granules `[g, g + n)` may be mapped for partition `p` (R88). -/
def devGranulesOk (s : State) (p g n : Nat) : Bool :=
  let h := g / 32768
  h < 2 && (g + n - 1) / 32768 = h && 256 ≤ g % 32768 && g % 32768 + n ≤ (getDrc s h).gib * 448 &&
    s.prt.parts.all fun x => x.1 = p || x.2.gmap.all fun e => match e.2 with
      | some y => y.dev < g || g + n ≤ y.dev
      | none => true

/-- Refusals of MEM_MAP with unmap = 0 (R88). -/
def memMapCheck (s : State) (d : Desc) : Option Refused :=
  let p := d.u 8 1
  let a := d.u 16 8
  let g := d.u 24 8 / granuleBytes
  let n := d.u 32 4
  let h := g / 32768
  firstOf [(p = 0 || 32 < p || (getPart s p).st ≠ 1, bad 8), (a % granuleBytes ≠ 0, bad 16), (d.u 24 8 % granuleBytes ≠ 0, bad 24),
    (n = 0, bad 32), (partSpace < a + granuleBytes * n, bad 16),
    (tabAny (getPart s p).gmap (a / granuleBytes) n, bad 16), (!devGranulesOk s p g n, bad 24),
    ((if h = 0 then (getPart s p).granN else (getPart s p).granS) < mappedBehind s p h + n, bad 32)]

/-- A granule mapped for the first time since PORST_N is zeroed under its owner's keys (R345). -/
def firstZero (g : Nat) (s : State) : State :=
  if tabGet dBool s.zeroed g then s else { zeroGranule g s with zeroed := tabSet dBool s.zeroed g true }

/-- Partition granule `i` is mapped onto device granule `g`. -/
def mapOne (p i g : Nat) (read write : Bool) (s : State) : State :=
  firstZero g (modPart p (fun x => { x with gmap := tabSet (fun _ => none) x.gmap i (some { dev := g, read, write }) }) s)

def memMapBody (d : Desc) (s : State) : State :=
  let p := d.u 8 1
  let a := d.u 16 8 / granuleBytes
  let g := d.u 24 8 / granuleBytes
  let n := d.u 32 4
  let fl := d.u 9 1
  finishOk d.id (changed ((List.range n).foldl (fun s i => mapOne p (a + i) (g + i) (bit fl 0) (bit fl 1) s) s))

/-- The descriptor's unmap bit. -/
def unmapBit (s : State) (id : Nat) : Option Bool := (findDesc s id).map fun d => bit (d.u 9 1) 2

def doMemMap (t id : Nat) (s : State) : State :=
  if unmapBit s id = some false then runScion t id 0x14 memMapCheck memMapBody s else advance t s

/-- MEM_MAP with unmap = 0 (R88). -/
def execMemMap (t id : Nat) (s : State) : Host.Outcome State Fault Refusal := .next (doMemMap t id s)

/-- Refusals of MEM_MAP with unmap = 1 (R89): the whole range must be mapped. -/
def memUnmapCheck (s : State) (d : Desc) : Option Refused :=
  let p := d.u 8 1
  let a := d.u 16 8
  let n := d.u 32 4
  firstOf [(p = 0 || 32 < p || (getPart s p).st ≠ 1, bad 8), (a % granuleBytes ≠ 0, bad 16), (n = 0, bad 32),
    (partSpace < a + granuleBytes * n || !mapped s p a (granuleBytes * n) false, bad 16)]

/-- Contexts whose heel-in area an unmap overlaps are torn down (R89). -/
def unmapHeels (p a n : Nat) (s : State) : State :=
  slots.foldl (fun s k =>
    let c := getCtx s p k
    let hit := c.heelAddr < a + n && a < c.heelAddr + heelLen c.cores
    if hit && (c.heelHeld || c.st = .heeling || c.st = .replanting) then teardown p k 0x0204 0 0 (max a c.heelAddr) none s
    else s) s

/-- A policy that an unmap overlaps is removed first, with import slots 0 to 6 (R443). -/
def unmapPolicy (p a n : Nat) (s : State) : State :=
  match (getPart s p).sec.policy with
  | none => s
  | some pol =>
    if pol.regions.any (·.meets a n) then
      record 0 0x0A08 [.id1 p] p 0xFF (modPart p (fun x =>
        { x with sec := { x.sec with policy := none, slots := tabErase x.sec.slots 0 7 } }) s)
    else s

/-- Granules leave a partition: filled with zeros under fresh metadata (R89). -/
def unmapGranules (p g n : Nat) (s : State) : State :=
  let devs := (tabSlice (getPart s p).gmap g n).filterMap fun e => e.2.map (·.dev)
  let s := modPart p (fun x => { x with gmap := tabErase x.gmap g n }) s
  devs.foldl (fun s d => zeroGranule d s) s

def memUnmapBody (d : Desc) (s : State) : State :=
  let p := d.u 8 1
  let a := d.u 16 8
  let n := d.u 32 4
  let s := unmapHeels p a (granuleBytes * n) s
  let s := unmapPolicy p a (granuleBytes * n) s
  finishOk d.id (changed (unmapGranules p (a / granuleBytes) n s))

def doMemUnmap (t id : Nat) (s : State) : State :=
  if unmapBit s id = some true then runScion t id 0x14 memUnmapCheck memUnmapBody s else advance t s

/-- MEM_MAP with unmap = 1 (R89, R443). -/
def execMemUnmap (t id : Nat) (s : State) : Host.Outcome State Fault Refusal := .next (doMemUnmap t id s)

/-! ## Timed rows -/

/-- Another context of equal effective priority is ready and short of cores. -/
def equalWaits (s : State) (p slot : Nat) : Bool :=
  (readyList s p).any fun k => (getCtx s p k).eff = (getCtx s p slot).eff && freeCount s p < (getCtx s p k).cores

/-- No running context of its priority was dispatched before it (R95). -/
def longestRunning (s : State) (p slot : Nat) : Bool :=
  let c := getCtx s p slot
  slots.all fun k => let x := getCtx s p k
    !(x.st = .running && x.eff = c.eff) || c.dispatchTime ≤ x.dispatchTime

def doQuantumExpiry (t p slot : Nat) (s : State) : State :=
  let s := advance t s
  let c := getCtx s p slot
  if c.st = .running && 0 < quantumNs s && c.dispatchTime + quantumNs s ≤ s.clk && equalWaits s p slot &&
      longestRunning s p slot then
    settle (heelNow p slot .quantum s)
  else s

/-- QUANTUM_EXPIRY (R95). -/
def execQuantumExpiry (t p slot : Nat) (s : State) : Host.Outcome State Fault Refusal := .next (doQuantumExpiry t p slot s)

def doBudgetExpiry (t p slot : Nat) (s : State) : State :=
  let s := advance t s
  let c := getCtx s p slot
  match c.launch, c.place.head? with
  | some l, some g =>
    if c.resident && l.budget ≠ 0 && l.budget * 1000 < runNs s c then settle (coreFault g 0x11 0 0 s) else s
  | _, _ => s

/-- BUDGET_EXPIRY (R96): cause BUDGET. -/
def execBudgetExpiry (t p slot : Nat) (s : State) : Host.Outcome State Fault Refusal := .next (doBudgetExpiry t p slot s)

def doSemaphoreTimeout (t p idx : Nat) (s : State) : State :=
  let s := advance t s
  match (getPart s p).waits[idx]? with
  | none => s
  | some w =>
    match w.until_ with
    | none => s
    | some u =>
      if u ≤ s.clk then
        let s := answer p w 1 (dropWaiting p w s)
        settle (if w.sem < 960 then serveSem p w.sem (getPart s p).waits.length s else s)
      else s

/-- SEMAPHORE_TIMEOUT (R108): the `idx`-th waiter of the partition leaves the queue unserved. -/
def execSemaphoreTimeout (t p idx : Nat) (s : State) : Host.Outcome State Fault Refusal :=
  .next (doSemaphoreTimeout t p idx s)

def doHoldBudgetExpiry (t p slot : Nat) (s : State) : State :=
  let s := advance t s
  match (getCtx s p slot).holdEnds with
  | none => s
  | some (e, m, w) =>
    if e ≤ s.clk && (getMutex s p m).owner = some slot then
      let s := record 0 0x0302 [.id1 p, .val4 m, .id1 slot, .id1 w] p slot s
      let s := modPart p (fun x => { x with nRevoked := satAdd 32 x.nRevoked 1 }) s
      settle (teardown p slot 0x0203 0 0 0 none s)
    else s

/-- HOLD_BUDGET_EXPIRY (R111): the mutex is revoked and its owner torn down. -/
def execHoldBudgetExpiry (t p slot : Nat) (s : State) : Host.Outcome State Fault Refusal :=
  .next (doHoldBudgetExpiry t p slot s)

/-- The mirror falls behind or its route fails: mirror_ok clears (R117). -/
def mirrorLost (s : State) : State :=
  if s.prt.mirrorOk then
    event 0 0x0304 [.val4 s.prt.applied] (prtErr 1 0 { s with prt := { s.prt with mirrorOk := false } })
  else s

def doMirrorApply (t : Nat) (s : State) : State :=
  let s := advance t s
  if (getHub s 0).up && (getHub s 1).up && hubsJoined s then
    if injLive s 0x0301 0 then mirrorLost (injUse s)
    else
      let a := min s.prt.changes (s.prt.applied + 1)
      { s with prt := { s.prt with applied := a, mirrorOk := a = s.prt.changes } }
  else s

/-- MIRROR_APPLY (R117): HS applies the next change; the mirror is current once it has applied the last. An injection drops
the change. -/
def execMirrorApply (t : Nat) (s : State) : Host.Outcome State Fault Refusal := .next (doMirrorApply t s)

def doMirrorLost (t : Nat) (s : State) : State :=
  let s := advance t s
  if !hubsJoined s || s.prt.applied < s.prt.changes then mirrorLost s else s

/-- MIRROR_LOST (R117). -/
def execMirrorLost (t : Nat) (s : State) : Host.Outcome State Fault Refusal := .next (doMirrorLost t s)

end Sys2Proof.Machine
end

