-- ==== Sys2Proof/Machine/Ingest.lean ====
section
/-!
DEFINITION. Ingest.lean: sensor ingest (spec/10): STREAM_BIND, frames from CSI-2 and Ethernet, admission, records,
freshness, and the discipline of hub time.
-/
namespace Sys2Proof.Machine

def dStream (_ : Nat) : Stream := {}
def getStr (s : State) (h n : Nat) : Stream := tabGet dStream (getIng s h).streams n
def modStr (h n : Nat) (f : Stream → Stream) (s : State) : State :=
  modIng h (fun i => { i with streams := tabMod dStream i.streams n f }) s

/-- BAR0 offset of ingest's registers on a hub. -/
def ingBase (h : Nat) : Nat := (Blk.ing h).base

/-- BAR0 offset of a register of stream `n`. -/
def strReg (h n rel : Nat) : Nat := ingBase h + 0x1000 + 0x40 * n + rel

/-- Set a sticky error of ING with the stream of the first (ING_ERR). -/
def ingErr (h b n : Nat) (s : State) : State := stick (ingBase h + 8) b 7 (some (8, 6, n)) s

/-! ## Parameters in force (Table 10.6, R11, R299) -/

/-- match_bands, frozen_n, missing_n, recover_n, tol_pct and gap_us of a profile. -/
def freshProfile (p : Nat) : Nat × Nat × Nat × Nat × Nat × Nat :=
  match p with
  | 0 => (16, 2, 2, 4, 25, 2000)
  | 1 => (12, 1, 1, 8, 10, 1000)
  | 2 => (16, 3, 3, 4, 50, 500)
  | _ => (16, 2, 2, 4, 25, 2000)

/-- The parameters in force on a stream. -/
structure FreshPar where
  bands : Nat
  frozen : Nat
  missing : Nat
  recover : Nat
  tol : Nat
  /-- ns -/
  gap : Nat
  deriving DecidableEq, Repr

def freshPar (s : State) (h n : Nat) : FreshPar :=
  if fld s (ingBase h + 4) 0 1 = 1 then
    let r := strReg h n 0x10
    let mb := eff s r 0 5
    { bands := if mb = 0 ∨ 16 < mb then 16 else mb, frozen := max 1 (eff s r 5 3), missing := max 1 (eff s r 8 3),
      recover := max 1 (eff s r 11 4), tol := eff s r 15 8, gap := 10000 * max 1 (eff s (strReg h n 0x14) 20 12) }
  else
    let (a, b, c, d, e, g) := freshProfile (getStr s h n).profile
    { bands := a, frozen := b, missing := c, recover := d, tol := e, gap := g * 1000 }

/-- The middle of three numbers. -/
def median3 (l : List Nat) : Nat := (isort (fun a b => decide (a < b)) l).getD 1 0

/-- Period in effect in ns, 0 while unknown (R299). -/
def periodNs (s : State) (h n : Nat) : Nat :=
  let p := eff s (strReg h n 0x14) 0 20
  if fld s (ingBase h + 4) 0 1 = 1 ∧ p ≠ 0 then p * 1000
  else if (getStr s h n).intervals.length = 3 then median3 (getStr s h n).intervals else 0

/-! ## The buffer (R284, R291) -/

/-- Whole KiB of a number of bytes. -/
def kib (n : Nat) : Nat := (n + 1023) / 1024

/-- Frame size of a stream in KiB. -/
def Stream.size (x : Stream) : Nat := kib (x.lineBytes * x.nLines)

/-- Frames that hold buffer space. -/
def Stream.frames (x : Stream) : List Frame := x.held ++ x.cur.toList.filter (·.admitted)

/-- KiB held, and KiB of the reserve in use. -/
def Stream.used (x : Stream) : Nat := (x.frames.map (·.size)).sum
def Stream.resUsed (x : Stream) : Nat := (x.frames.map (·.fromRes)).sum

/-- Bound or pending streams of a hub, those being unbound included: number and stream. -/
def boundOn (s : State) (h : Nat) : Tab Stream := (getIng s h).streams.filter fun e => e.2.st ≠ .none

/-- Sum of the reserves (ING_POOL.reserved). -/
def reserves (s : State) (h : Nat) : Nat := ((boundOn s h).map fun e => e.2.reserve).sum

/-- Free pool (ING_POOL.pool_free). -/
def poolFree (s : State) (h : Nat) : Nat := 24576 - ((boundOn s h).map fun e => e.2.reserve + (e.2.used - e.2.resUsed)).sum

/-! ## Freshness (R297 to R300) -/

/-- Tell both islands of a STALE entry or exit (R300). -/
def tellIslands (h n : Nat) (stale inj : Bool) (s : State) : State :=
  [0, 1].foldl (fun s i => modIsl i (fun x => { x with inbox := x.inbox ++ [(h, n, stale, inj)] }) s) s

/-- What a frame or a deadline tells the detector. -/
inductive FreshEv where
  | good | frozen | missing | other
  deriving DecidableEq, Repr

/-- Next freshness state (Table 10.5). -/
def nextFresh (p : FreshPar) (x : Stream) (ev : FreshEv) (known : Bool) : Nat :=
  if x.fresh ≠ 3 ∧ (p.frozen ≤ x.frozenRun ∨ p.missing ≤ x.missingRun) then 3
  else match x.fresh with
    | 0 => if ev = .good ∧ known then 1 else 0
    | 1 => if ev = .good then 1 else 2
    | 2 => if ev = .good then 1 else 2
    | _ => if p.recover ≤ x.goodRun then 1 else 3

/-- The runs after an event of the detector (R298). -/
def Stream.runs (x : Stream) (ev : FreshEv) : Stream :=
  if ev = .good then { x with frozenRun := 0, missingRun := 0, goodRun := x.goodRun + 1, injected := false }
  else { x with goodRun := 0, frozenRun := x.frozenRun + b2n (ev = .frozen), missingRun := x.missingRun + b2n (ev = .missing) }

/-- The detector of a stream takes an event for sequence number `seq`; profile 3 has none (Table 10.5, R300). -/
def freshen (h n seq : Nat) (ev : FreshEv) (s : State) : State :=
  let x := getStr s h n
  if x.profile = 3 ∨ (x.st ≠ .bound ∧ x.st ≠ .pending) then s
  else
    let y := x.runs ev
    let nx := nextFresh (freshPar s h n) y ev (periodNs s h n ≠ 0)
    let s := modStr h n (fun _ => { y with fresh := nx, gone := y.gone && nx ≠ 1 }) s
    if nx = x.fresh then s
    else if x.fresh = 0 ∧ nx = 1 then (if x.gone then tellIslands h n false x.injected s else s)
    else
      let s := eventFor x.part h 0x0704 [.id1 h, .id1 n, .code1 x.fresh, .code1 nx, .val4 seq] s
      if nx = 3 then tellIslands h n true y.injected s
      else if x.fresh = 3 then tellIslands h n false y.injected s else s

/-! ## Records (R295, R296) -/

/-- Requester class of ingest, seedling and fusion writes (log entry 12). -/
def ingReq : Requester := .hub 5

/-- Fingerprints of the bands (R297). -/
def Frame.prints (f : Frame) : List Nat := f.crcs.map fun c => c ^^^ 0xFFFFFFFF

/-- Lines of band `b` of `n` lines: first and past the last. -/
def bandLines (n b : Nat) : Nat × Nat := (b * n / 16, (b + 1) * n / 16)

/-- The bands that have lines. -/
def fullBands (n : Nat) : List Nat := (List.range 16).filter fun b => (bandLines n b).1 < (bandLines n b).2

/-- The 64 bytes of a frame record (Table 10.4). -/
def recordBytes (f : Frame) (x : Stream) (h n flags mtch period : Nat) (prints : List Nat) : List Byte :=
  fit 64 (toBytes 4 f.seq ++ toBytes 2 f.csiFn ++ toBytes 1 flags ++ toBytes 1 x.fresh ++ toBytes 8 f.sof ++
    toBytes 8 f.eof ++ toBytes 2 f.rx ++ toBytes 2 mtch ++ toBytes 4 (crc32c (prints.flatMap (toBytes 4))) ++
    toBytes 4 (min x.drops 0xFFFFFFFF) ++ toBytes 4 (min x.missing 0xFFFFFFFF) ++ toBytes 2 f.crcErr ++
    toBytes 2 f.eccErr ++ toBytes 4 (period / 1000) ++ toBytes 1 n ++ toBytes 1 h)

/-- The image of a frame's lines, missing ones as zeros (R290, R295). -/
def Frame.image (f : Frame) (x : Stream) : List Byte :=
  fit (x.lineBytes * x.nLines) (f.lines.flatMap (fit x.lineBytes))

/-- The copy of a frame's image behind the stream's records, where copying is on (R295). -/
def writeCopy (h n : Nat) (f : Frame) (s : State) : Option MemErr × State :=
  let x := getStr s h n
  let base := eff s (strReg h n 8) 6 26 * 64 + 2 ^ 32 * eff s (strReg h n 0xC) 0 6
  let d := 2 ^ min 12 (eff s (strReg h n 0xC) 8 4)
  let len := 4096 * ((x.lineBytes * x.nLines + 4095) / 4096)
  if f.admitted && eff s (strReg h n 0xC) 12 1 = 1 then
    writePart x.part (base + 4096 * ((64 * d + 4095) / 4096) + f.seq % d * len) (f.image x) ingReq s
  else (none, s)

/-- What a failed record or copy of a frame is told by: event 0x0705. -/
def slotDone (h n seq : Nat) (copied : Option MemErr) (r : Option MemErr × State) : State :=
  if copied.isSome || r.1.isSome then
    eventFor (getStr r.2 h n).part h 0x0705 [.id1 h, .id1 n, .val4 seq] (ingErr h 4 n r.2)
  else r.2

/-- The record of a frame; `copied` says how its copy went (R295, R296). -/
def writeSlot (h n : Nat) (f : Frame) (flags mtch : Nat) (prints : List Nat) (copied : Option MemErr) (s : State) : State :=
  let x := getStr s h n
  let base := eff s (strReg h n 8) 6 26 * 64 + 2 ^ 32 * eff s (strReg h n 0xC) 0 6
  let d := 2 ^ min 12 (eff s (strReg h n 0xC) 8 4)
  let copy := f.admitted && eff s (strReg h n 0xC) 12 1 = 1
  let flags := flags + if copy && copied.isNone then 64 else 0
  slotDone h n f.seq copied
    (writePart x.part (base + 64 * (f.seq % d)) (recordBytes f x h n flags mtch (periodNs s h n) prints) ingReq s)

/-- Record, copy and frame semaphore of a start of frame (R295, R296). -/
def writeRecord (h n : Nat) (f : Frame) (flags mtch : Nat) (prints : List Nat) (s : State) : State :=
  let x := getStr s h n
  let s :=
    if eff s (strReg h n 0xC) 8 4 = 0 then s
    else
      let r := writeCopy h n f s
      writeSlot h n f flags mtch prints r.1 r.2
  settle (semOp x.part x.frameSem false 1 s)

/-! ## The end of a frame (R290) -/

/-- The first cause of damage stays. -/
def Frame.hurt (f : Frame) (cause : Nat) : Frame := { f with damage := f.damage.or (some cause) }

def dFusSrc (_ : Nat) : FusSrc := {}
def modSrc (h e : Nat) (f : FusSrc → FusSrc) (s : State) : State :=
  modFus h (fun x => { x with srcs := tabMod dFusSrc x.srcs e f }) s

/-- At frame end fusion discards the points of a frozen frame, or of a stream in STALE, and counts the frame (R307). -/
def fusDiscard (h n seq : Nat) (frozen : Bool) (s : State) : State :=
  let x := getStr s h n
  if frozen || x.fresh = 3 then
    let es := (x.held.filter (·.seq = seq)).flatMap (·.fus)
    let s := es.foldl (fun s e => modSrc h e (fun y => { y with discarded := satAdd 12 y.discarded 1 }) s) s
    modStr h n (fun x => { x with held := x.held.map fun f => if f.seq = seq then { f with fus := [] } else f }) s
  else s

/-- The frame in progress of a stream ends, by event 1 or with a cause (Table 10.7), at hub time `eof`. -/
def endFrame (h n : Nat) (cause : Option Nat) (eof : Nat) (s : State) : State :=
  let x := getStr s h n
  match x.cur with
  | none => s
  | some f =>
    let s := modStr h n (fun x => { x with cur := none }) s
    if !f.admitted then s
    else
      let f := { f with eof, ended := true, damage := cause.or f.damage }
      let hurt := f.damage.isSome
      let s := match f.damage with
        | some c => eventFor x.part h 0x0702 [.id1 h, .id1 n, .val4 f.seq, .code1 c] (ingErr h 2 n s)
        | none => s
      let full := fullBands x.nLines
      let prints := match x.ref with
        | some r => if f.forced && !hurt then r.1 else f.prints
        | none => f.prints
      let same := match x.ref with
        | some r => if hurt then [] else full.filter fun b => prints.getD b 0 = r.1.getD b 0
        | none => []
      let frozen := !hurt && x.ref.isSome && min (freshPar s h n).bands full.length ≤ same.length
      let repeated := match x.ref with | some r => !hurt && f.csiFn ≠ 0 && f.csiFn = r.2 | none => false
      let s := modStr h n (fun x =>
        { x with ref := if hurt then x.ref else some (prints, f.csiFn), injected := x.injected || f.forced,
                 held := x.held ++ [f] }) s
      let ev := if hurt then FreshEv.other else if frozen || repeated then .frozen else if f.late then .other else .good
      let s := freshen h n f.seq ev s
      let s := fusDiscard h n f.seq (x.profile ≠ 3 && ev = .frozen) s
      writeRecord h n f (1 + 2 * b2n hurt + 4 * b2n frozen + 8 * b2n repeated + 16 * b2n f.late + 32 * b2n f.freeRun)
        (ofBits same) prints s

/-! ## The start of a frame (R285, R289, R292) -/

/-- The seedling entries that will read a frame of the stream (R241, R293). -/
def sdlReaders (s : State) (h n : Nat) : List Nat :=
  ((getSdl s h).ents.filter fun e =>
    e.2.active && eff s ((Blk.sdl h).base + 0x1000 + 0x20 * e.1) 1 1 = 0 &&
      eff s ((Blk.sdl h).base + 0x1000 + 0x20 * e.1) 2 6 = n).map (·.1)

/-- The interval from the last start of frame lies outside the tolerance (R299). -/
def outOfTime (p : FreshPar) (period interval : Nat) : Bool :=
  interval * 100 < period * (100 - p.tol) || period * (100 + p.tol) < interval * 100

/-- The fusion source entries that will read a frame of the stream: active ingest sources of an enabled engine
(R293, R306, R331). -/
def fusReaders (s : State) (h n : Nat) : List Nat :=
  if (getFus s h).on then
    ((getFus s h).srcs.filter fun e => e.2.active && leAt e.2.raw 2 1 = 0 && leAt e.2.raw 5 1 = n).map (·.1)
  else []

/-- A stream's next frame starts: stamped, then admitted whole or dropped whole (R285, R289, R292, R294). -/
def startFrame (h n csiFn : Nat) (s : State) : State :=
  let now := hubTime s h
  let s := endFrame h n (some 2) now s
  let s := [0x8, 0xC, 0x10, 0x14].foldl (fun s r => commit (strReg h n r) s) s
  let x := getStr s h n
  let per := periodNs s h n
  let par := freshPar s h n
  let late := match x.lastSof with
    | none => false
    | some l => x.profile ≠ 3 && per ≠ 0 && outOfTime par per (now - l)
  let ivs := match x.lastSof with
    | none => x.intervals
    | some l => if x.intervals.length < 3 then x.intervals ++ [now - l] else x.intervals
  let unused := x.reserve - x.resUsed
  let pool := poolFree s h
  let size := x.size
  let ok := size ≤ unused + pool
  let f : Frame := { seq := x.seq, csiFn, sof := now, last := now, admitted := ok, late, freeRun := (getIng s h).freeRun,
                     size := if ok then size else 0, fromRes := if ok then min size unused else 0,
                     sdl := if ok then sdlReaders s h n else [], fus := if ok then fusReaders s h n else [],
                     forced := ok && injLive s 0x0704 (48 * h + n) }
  let s := if f.forced then injUse s else s
  let s := modStr h n (fun x =>
    { x with st := .bound, seq := (x.seq + 1) % 2 ^ 32, lastSof := some now, intervals := ivs, cur := some f }) s
  let per := periodNs s h n
  let s := modStr h n (fun x =>
    { x with deadline := if per = 0 ∨ x.profile = 3 then none else some (now + per * (100 + par.tol) / 100) }) s
  if ok then s
  else
    let s := modStr h n (fun x => { x with drops := satAdd 32 x.drops 1, missing := satAdd 32 x.missing 1 }) s
    let s := eventFor x.part h 0x0703 [.id1 h, .id1 n, .val4 f.seq, .val4 unused, .val4 pool] (ingErr h 3 n s)
    let s := freshen h n f.seq .missing s
    writeRecord h n f (16 * b2n late + 32 * b2n f.freeRun) 0 (List.replicate 16 0) s

/-! ## Lines -/

/-- A line's bytes join the running fingerprint of its band. -/
def Frame.hash (f : Frame) (n i : Nat) (bs : List Byte) : Frame :=
  match (fullBands n).find? fun b => (bandLines n b).1 ≤ i && i < (bandLines n b).2 with
  | none => f
  | some b => { f with crcs := f.crcs.set b (crc32cFrom (f.crcs.getD b 0) bs) }

/-- A line of a stream arrives: stored, cut and checked, or the frame ends as too long (R282, R290, R301). -/
def addLine (h n : Nat) (data : List Byte) (crcOk ecc : Bool) (read : List Byte) (s : State) : State :=
  let x := getStr s h n
  match x.cur with
  | none => s
  | some f =>
    let now := hubTime s h
    if x.nLines ≤ f.rx then endFrame h n (some 4) now s
    else
      let cut := data.take x.lineBytes
      let f' := { f with rx := f.rx + 1, last := now }
      let f' := if f.admitted then
          let f' := f'.hash x.nLines f.rx cut
          let f' := { f' with lines := f'.lines ++ [if ecc then read.take x.lineBytes else cut],
                              crcErr := f'.crcErr + b2n (!crcOk), eccErr := f'.eccErr + b2n ecc }
          let f' := if crcOk then f' else f'.hurt 0
          let f' := if x.lineBytes < data.length then f'.hurt 4 else f'
          if ecc then f'.hurt 5 else f'
        else f'
      let s := if ecc && f.admitted then ingErr h 5 n s else s
      modStr h n (fun x => { x with cur := some f' }) s

/-- The CSI-2 stream of a port and virtual channel. -/
def csiStream (s : State) (h port vc : Nat) : Option Nat :=
  ((boundOn s h).find? fun e => e.2.source = 0 && e.2.port = port && e.2.vc = vc).map (·.1)

/-- A CSI-2 port is on (R281, ING_PORTp_CFG). -/
def portOn (s : State) (h port : Nat) : Bool :=
  let c := ingBase h + 0x100 + 4 * port
  port < 12 && (fld s c 0 2 = 1 || fld s c 0 2 = 2) && fld s c 2 2 ≠ 3

/-- One line is withheld by an injection of point 0x0705 (Table 14.10). -/
def withheld (s : State) (h n : Nat) : Bool :=
  injLive s 0x0705 (48 * h + n) &&
    (injArg s = 0 || match (getStr s h n).cur with | some f => f.rx + 1 = (getStr s h n).nLines | none => false)

def csiLine (h port vc dt : Nat) (crcOk : Bool) (data : List Byte) (ecc : Bool) (read : List Byte) (s : State) : State :=
  match csiStream s h port vc with
  | none => modIng h (fun i => { i with discards := tabMod dNat i.discards port (· + 1) }) s
  | some n =>
    if (getStr s h n).dataType ≠ dt then
      modIng h (fun i => { i with discards := tabMod dNat i.discards port (· + 1) }) s
    else if withheld s h n then (if injArg s = 0 then s else injUse s)
    else
      let flip := injLive s 0x0702 (12 * h + port)
      let ecc' := injLive s 0x0703 h
      let s := if flip || ecc' then injUse s else s
      addLine h n data (crcOk && !flip) (ecc || ecc') read s

def doCsiLongPacket (t h port vc dt hdr : Nat) (crcOk : Bool) (data : List Byte) (ecc : Bool) (read : List Byte)
    (s : State) : State :=
  let s := advance t s
  if h < 2 && (getHub s h).up && portOn s h port then
    let inj := injLive s 0x0701 (12 * h + port)
    if hdr = 2 || inj then
      let s := if inj then injUse s else s
      event h 0x0701 [.id1 h, .id1 port, .id1 vc] (ingErr h 1 0 s)
    else csiLine h port vc dt crcOk data ecc read s
  else s

/-- CSI_LONG_PACKET (R282, R290): `hdr` 2 is an uncorrectable header; `read` is the line as its readers find it where
a double-bit error strikes the buffer (`ecc`). -/
def execCsiLongPacket (t h port vc dt hdr : Nat) (crcOk : Bool) (data : List Byte) (ecc : Bool) (read : List Byte)
    (s : State) : Host.Outcome State Fault Refusal := .next (doCsiLongPacket t h port vc dt hdr crcOk data ecc read s)

def doFrameStart (t h port vc fn : Nat) (s : State) : State :=
  let s := advance t s
  if h < 2 && (getHub s h).up && portOn s h port then
    match csiStream s h port vc with
    | none => s
    | some n =>
      if injStrikes s 0x0706 (48 * h + n) then
        injSpend 0x0706 (48 * h + n) (modStr h n (fun x => { x with injected := true }) s)
      else if (getStr s h n).st = .unbinding then endFrame h n (some 2) (hubTime s h) s
      else startFrame h n (fn % 65536) s
  else s

/-- FRAME_START (R285, R289, R292): the Frame Start of a CSI-2 frame; its number is `fn`. -/
def execFrameStart (t h port vc fn : Nat) (s : State) : Host.Outcome State Fault Refusal :=
  .next (doFrameStart t h port vc fn s)

def doFrameEnd (t h port vc : Nat) (s : State) : State :=
  let s := advance t s
  if h < 2 && (getHub s h).up && portOn s h port then
    match csiStream s h port vc with
    | none => s
    | some n =>
      let x := getStr s h n
      if withheld s h n && injArg s = 0 then s
      else match x.cur with
        | none => s
        | some f => endFrame h n (if f.rx < x.nLines then some 1 else none) (hubTime s h) s
  else s

/-- FRAME_END (R290): the Frame End of a CSI-2 frame. -/
def execFrameEnd (t h port vc : Nat) (s : State) : Host.Outcome State Fault Refusal := .next (doFrameEnd t h port vc s)

/-- The Ethernet stream a frame matches (R283). -/
def ethStream (s : State) (h mac dst etype vlan : Nat) : Option Nat :=
  ((boundOn s h).find? fun e =>
    e.2.source = 1 && e.2.port = mac && e.2.mac = dst && e.2.etherType = etype && e.2.vlan = vlan).map (·.1)

/-- Designated MAC of the hub's time discipline (ING_TIME_CFG). -/
def gptpMac (s : State) (h : Nat) : Nat := fld s (ingBase h + 0x1C) 1 2
def gptpOn (s : State) (h : Nat) : Bool := fld s (ingBase h + 0x1C) 0 1 = 1

/-- A matched frame is a line; the first of a frame starts it and the last ends it (R283, R285, R290). -/
def ethTake (h n : Nat) (data : List Byte) (ecc : Bool) (read : List Byte) (s : State) : State :=
  let s := match (getStr s h n).cur with
    | some _ => s
    | none => if (getStr s h n).st = .unbinding then s else startFrame h n 0 s
  let s := addLine h n data true ecc read s
  match (getStr s h n).cur with
  | some f => if f.rx = (getStr s h n).nLines then endFrame h n none (hubTime s h) s else s
  | none => s

/-- A line of an Ethernet stream comes to its frame, unless an injection withholds the line or its whole frame. -/
def ethLine (h n : Nat) (data : List Byte) (ecc : Bool) (read : List Byte) (s : State) : State :=
  let x := getStr s h n
  if x.cur.isSome && withheld s h n then (if injArg s = 0 then s else injUse s)
  else if x.cur.isNone && injStrikes s 0x0706 (48 * h + n) then
    if x.nLines ≤ x.heldBack + 1 then
      injSpend 0x0706 (48 * h + n) (modStr h n (fun x => { x with heldBack := 0, injected := true }) s)
    else modStr h n (fun x => { x with heldBack := x.heldBack + 1 }) s
  else ethTake h n data ecc read s

def doEthFrame (t h mac dst etype vlan len : Nat) (fcsOk isAs : Bool) (data : List Byte) (ecc : Bool) (read : List Byte)
    (s : State) : State :=
  let s := advance t s
  if h < 2 && (getHub s h).up && mac < 4 && fld s (ingBase h + 0x140 + 4 * mac) 0 1 = 1 then
    let inj := injLive s 0x0707 (4 * h + mac)
    let s := if inj then injUse s else s
    let drop (kind : Nat) (s : State) : State := event h 0x0708 [.id1 h, .id1 mac, .code1 kind] s
    if !fcsOk || inj then drop 0 s
    else if 9216 < len then drop 1 s
    else match ethStream s h mac dst etype vlan with
      | some n =>
        let ecc' := injLive s 0x0703 h
        ethLine h n data (ecc || ecc') read (if ecc' then injUse s else s)
      | none => if isAs && gptpOn s h && gptpMac s h = mac then s else drop 2 s
  else s

/-- ETH_FRAME (R283): `len` counts from the destination address to the FCS; `data` is what follows the EtherType. -/
def execEthFrame (t h mac dst etype vlan len : Nat) (fcsOk isAs : Bool) (data : List Byte) (ecc : Bool)
    (read : List Byte) (s : State) : Host.Outcome State Fault Refusal :=
  .next (doEthFrame t h mac dst etype vlan len fcsOk isAs data ecc read s)

def doFrameGapExpiry (t h n : Nat) (s : State) : State :=
  let s := advance t s
  match (getStr s h n).cur with
  | none => s
  | some f =>
    let e := f.last + (freshPar s h n).gap
    if e ≤ hubTime s h then
      let s := if withheld s h n then injUse s else s
      endFrame h n (some 3) e s
    else s

/-- FRAME_GAP_EXPIRY (R290): no packet of the frame for gap_us. -/
def execFrameGapExpiry (t h n : Nat) (s : State) : Host.Outcome State Fault Refusal := .next (doFrameGapExpiry t h n s)

def doMissingDeadline (t h n : Nat) (s : State) : State :=
  let s := advance t s
  let x := getStr s h n
  match x.deadline with
  | none => s
  | some d =>
    if x.st = .bound ∧ d < hubTime s h then
      let s := modStr h n (fun x => { x with missing := satAdd 32 x.missing 1, deadline := some (d + periodNs s h n) }) s
      freshen h n x.seq .missing s
    else s

/-- MISSING_DEADLINE (R299): after its instant, one missing frame, and the deadline restarts one period later. -/
def execMissingDeadline (t h n : Nat) (s : State) : Host.Outcome State Fault Refusal := .next (doMissingDeadline t h n s)

/-! ## Release and binding (R284, R285, R293) -/

/-- The stream number is free again; the islands may still hold it STALE. -/
def clearStream (h n : Nat) (s : State) : State := modStr h n (fun x => { gone := x.gone }) s

/-- An unbind completes once the last held frame is released (R285). -/
def unbindDone (h n : Nat) (s : State) : State :=
  let x := getStr s h n
  if x.st = .unbinding ∧ x.cur = none ∧ x.held.isEmpty then
    let s := clearStream h n s
    match x.unbinder with
    | some i => settle (finishOk i s)
    | none => s
  else s

def doFrameRelease (t h n seq : Nat) (s : State) : State :=
  let s := advance t s
  match (getStr s h n).held.find? (·.seq = seq) with
  | none => s
  | some f =>
    if f.sdl.isEmpty && f.fus.isEmpty then
      unbindDone h n (modStr h n (fun x => { x with held := x.held.filter (·.seq ≠ seq) }) s)
    else s

/-- FRAME_RELEASE (R293, R285). -/
def execFrameRelease (t h n seq : Nat) (s : State) : Host.Outcome State Fault Refusal := .next (doFrameRelease t h n seq s)

/-- Bytes of a CSI-2 data type's group, none for a type not in Table 10.1. -/
def csiGroup (dt : Nat) : Option Nat :=
  match dt with
  | 0x2A => some 1 | 0x2B => some 5 | 0x2C => some 3 | 0x2D => some 7 | 0x2E => some 2 | 0x2F => some 5 | 0x1E => some 4
  | d => if 0x30 ≤ d ∧ d ≤ 0x37 then some 1 else none

/-- STREAM_BIND's binding as a stream. -/
def Desc.stream (d : Desc) : Stream :=
  let src := bits (d.u 9 1) 1 2
  { st := .pending, part := d.part, source := src, port := d.u 10 1, vc := if src = 0 then d.u 11 1 else 0,
    dataType := if src = 0 then d.u 12 1 else 0, profile := d.u 34 1, mac := d.u 16 6, etherType := d.u 22 2,
    vlan := d.u 14 2 % 4096, lineBytes := d.u 24 2, nLines := d.u 26 2, reserve := kib (d.u 24 2 * d.u 28 4),
    frameSem := d.u 32 2 }

/-- The checks of Table 10.2, in its order. -/
def bindCheck (s : State) (d : Desc) : Option Refused :=
  let h := d.u 9 1 % 2
  let n := d.u 8 1
  let x := getStr s h n
  let un := bit (d.u 9 1) 3
  let b := d.stream
  let others := boundOn s h
  if 47 < n || (un && (x.st = .none || x.st = .unbinding || x.part ≠ d.part)) || (!un && x.st ≠ .none) then some (bad 8)
  else if un then none
  else firstOf
    [(1 < b.source, bad 9),
     ((if b.source = 0 then !portOn s h b.port || 4 ≤ (others.filter fun e => e.2.source = 0 && e.2.port = b.port).length
       else 3 < b.port || fld s (ingBase h + 0x140 + 4 * b.port) 0 1 = 0), bad 10),
     (b.source = 0 && (15 < b.vc || (csiStream s h b.port b.vc).isSome), bad 11),
     (b.source = 0 && (csiGroup b.dataType).isNone, bad 12),
     (b.source = 1 && (ethStream s h b.port b.mac b.etherType b.vlan).isSome, bad 16),
     (b.lineBytes = 0 || (b.source = 0 && b.lineBytes % (csiGroup b.dataType).getD 1 ≠ 0) ||
        (b.source = 1 && 9194 < b.lineBytes), bad 24),
     (b.nLines = 0 || 16384 < b.nLines || 24576 - reserves s h < b.size, bad 26),
     (24576 < reserves s h + b.reserve, bad 28),
     (959 < b.frameSem, bad 32), (3 < b.profile, bad 34)]

/-- An unbind executes: admission stops, and the islands take the stream as STALE (R285, R298, R300). -/
def unbind (h n : Nat) (s : State) : State :=
  let x := getStr s h n
  let s := if x.profile = 3 then s
    else if x.fresh = 3 then s
    else tellIslands h n true false
      (eventFor x.part h 0x0704 [.id1 h, .id1 n, .code1 x.fresh, .code1 3, .val4 x.seq] s)
  modStr h n (fun x =>
    { x with st := .unbinding, gone := x.gone || x.profile ≠ 3, fresh := 0, deadline := none,
             cur := x.cur.filter (·.admitted) }) s

def doStreamBind (t id : Nat) (s : State) : State :=
  runDesc t id 0x09 bindCheck (fun d s =>
    let h := d.u 9 1 % 2
    let n := d.u 8 1
    if bit (d.u 9 1) 3 then unbindDone h n (modStr h n (fun x => { x with unbinder := some d.id }) (unbind h n s))
    else finishOk d.id (modStr h n (fun x => { d.stream with gone := x.gone }) s)) s

/-- STREAM_BIND (R284, R285): bind, pending its first frame; or unbind. -/
def execStreamBind (t id : Nat) (s : State) : Host.Outcome State Fault Refusal := .next (doStreamBind t id s)

/-- Every stream of a partition is unbound at once and its held frames are given up (R87). -/
def unbindPart (p : Nat) (s : State) : State :=
  [0, 1].foldl (fun s h => (boundOn s h).foldl (fun s e =>
    if e.2.part = p then
      let x := getStr s h e.1
      let s := if x.st = .unbinding then s else unbind h e.1 s
      let s := clearStream h e.1 s
      match x.unbinder with | some i => finishOk i s | none => s
    else s) s) s

/-! ## Hub time (R286 to R288) -/

/-- Put hub `h`'s correction. -/
def setCorr (h : Nat) (c : Int) (s : State) : State := if h = 0 then { s with corrN := c } else { s with corrS := c }

/-- The slew a servo may have made since its last: towards `off`, at most 500 ppm of the time passed, and never past the
crystal time since the command before (R286, R287). -/
def slewBound (off adj : Int) (elapsed sinceLast : Nat) : Int :=
  let b := min (elapsed * 500 / 1000000) off.natAbs
  let m := min adj.natAbs b
  if 0 < off then (if 0 < adj then m else 0)
  else if adj < 0 then -(min m sinceLast : Nat) else 0

/-- Slew hub `h`'s time by `adj` as far as the rules let it. -/
def slew (h : Nat) (off adj : Int) (sinceLast : Nat) (s : State) : State :=
  let d := slewBound off adj (s.clk - (getIng s h).slewed) sinceLast
  modIng h (fun i => { i with slewed := s.clk }) (setCorr h (corrOf s h + d) s)

/-- Event 0x0706 with its kind and offset. -/
def timeEvent (h kind : Nat) (off : Int) (s : State) : State := event h 0x0706 [.id1 h, .code1 kind, .val4 (wrap 32 off)] s

/-- HS takes HN's time (R288). -/
def follows (s : State) : Bool :=
  fld s (ingBase 1 + 0x1C) 3 1 = 1 && (getHub s 0).up && !(getHub s 0).inReset && hubsJoined s

def doSyncReceived (t h gm : Nat) (adj : Int) (s : State) : State :=
  let gap := t - s.clk
  let s := advance t s
  if h < 2 && (getHub s h).up && gptpOn s h && !(h = 1 && follows s) then
    let off : Int := (gm : Int) - hubTime s h
    let behind := off < -1000000000
    let was := (getIng s h).gmBehind
    let s := if behind then s else slew h off adj gap s
    let s := if behind && !was then timeEvent h 3 off s else s
    let i := getIng s h
    let good := if off.natAbs < 100 then min 16 (i.good + 1) else 0
    let sync := if 1000 < off.natAbs then false else i.synced || good = 16
    let s := modIng h (fun i =>
      { i with freeRun := false, gmBehind := behind, gm := some ((gm : Int) - s.clk), good, synced := sync }) s
    if sync && !i.synced then timeEvent h 0 off s else if !sync && i.synced then timeEvent h 1 off s else s
  else s

/-- SYNC_RECEIVED (R286, R287): the grandmaster's time is `gm`; the servo has slewed by `adj` since its last Sync. -/
def execSyncReceived (t h gm : Nat) (adj : Int) (s : State) : Host.Outcome State Fault Refusal :=
  .next (doSyncReceived t h gm adj s)

def doSyncTimeout (t h : Nat) (s : State) : State :=
  let s := advance t s
  if h < 2 && gptpOn s h then modIng h (fun i => { i with freeRun := true, good := 0 }) s else s

/-- SYNC_TIMEOUT (R286): no Sync within the timeout; the hub free-runs. -/
def execSyncTimeout (t h : Nat) (s : State) : Host.Outcome State Fault Refusal := .next (doSyncTimeout t h s)

def doTimeFollow (t : Nat) (adj : Int) (s : State) : State :=
  let gap := t - s.clk
  let s := advance t s
  if (getHub s 1).up && follows s then
    modIng 1 (fun i => { i with following := true, freeRun := (getIng s 0).freeRun }) (slew 1 (s.corrN - s.corrS) adj gap s)
  else modIng 1 (fun i => { i with following := false }) s

/-- TIME_FOLLOW (R288): HS slews towards HN's time, or disciplines itself while it cannot. -/
def execTimeFollow (t : Nat) (adj : Int) (s : State) : Host.Outcome State Fault Refusal := .next (doTimeFollow t adj s)

def doTimeStep (t h : Nat) (s : State) : State :=
  let s := advance t s
  if h < 2 && (getHub s h).up then
    match (getIng s h).gm with
    | some g =>
      if (boundOn s h).isEmpty && gptpOn s h then
        let off := g - corrOf s h
        timeEvent h 2 off (fldSet (ingBase h + 0x18) 4 1 1 (setCorr h g s))
      else ingErr h 6 0 s
    | none => ingErr h 6 0 s
  else s

/-- TIME_STEP (R287): a step to the grandmaster's time is honoured or refused. -/
def execTimeStep (t h : Nat) (s : State) : Host.Outcome State Fault Refusal := .next (doTimeStep t h s)

end Sys2Proof.Machine
end

