-- ==== Sys2Proof/Machine/Seedling.lean ====
section
/-!
DEFINITION. Seedling.lean: the seedling engines (spec/07 R240 to R248): job records and their checks, the layer itself
with the arithmetic of the cores, delivery to cores or to the spill area, and slices.
-/
namespace Sys2Proof.Machine

def dSdlEnt (_ : Nat) : SdlEnt := {}
def getEnt (s : State) (h e : Nat) : SdlEnt := tabGet dSdlEnt (getSdl s h).ents e
def modEnt (h e : Nat) (f : SdlEnt → SdlEnt) (s : State) : State :=
  modSdl h (fun x => { x with ents := tabMod dSdlEnt x.ents e f }) s

/-- BAR0 offset of a register of entry `e`. -/
def entReg (h e rel : Nat) : Nat := (Blk.sdl h).base + 0x1000 + 0x20 * e + rel

/-- Fields in effect of an entry (SDL_ENTe_CFG). -/
def entStream (s : State) (h e : Nat) : Nat := eff s (entReg h e 0) 2 6
def entPart (s : State) (h e : Nat) : Nat := eff s (entReg h e 0) 8 6
def entSlot (s : State) (h e : Nat) : Nat := eff s (entReg h e 0) 14 4
def entLast (s : State) (h e : Nat) : Bool := eff s (entReg h e 0) 1 1 = 1

/-- Set a sticky error of SDL with the entry of the first (SDL_ERR). -/
def sdlErr (h b e : Nat) (s : State) : State := stick ((Blk.sdl h).base + 0x10) b 3 (some (8, 6, e)) s

/-! ## The job record (Table 7.3) -/

/-- A field of a job record. -/
abbrev JobRec := List Byte

def jobWin (r : JobRec) : Win :=
  { kh := leAt r 4 1, kw := leAt r 5 1, sh := leAt r 6 1, sw := leAt r 7 1, dh := leAt r 8 1, dw := leAt r 9 1,
    pt := leAt r 10 1, pb := leAt r 11 1, pl := leAt r 12 1, pr := leAt r 13 1, pmode := leAt r 14 1, spad := 0,
    groups := 0 }
def jobCin (r : JobRec) : Nat := leAt r 22 2
def jobCout (r : JobRec) : Nat := leAt r 24 2
def jobIn (r : JobRec) : Nat := leAt r 18 1
def jobW (r : JobRec) : Nat := leAt r 19 1
def jobOut (r : JobRec) : Nat := leAt r 21 1
def jobScaled (r : JobRec) : Bool := bit (leAt r 3 1) 1

/-- The output as a tensor descriptor: what its format and scales ask of a conversion. -/
def jobTd (r : JobRec) : Td :=
  { raw := [], base := 0, space := 0, peer := 0, fmt := jobOut r, sf := b2n (jobScaled r), rank := 1, cb := 0,
    perTile := false, dims := [jobCout r], strides := [], scaleOff := leAt r 80 4, block0 := 0 }

/-- Reduction length and k-tiles (R222, packed). -/
def jobKg (r : JobRec) : Nat := leAt r 4 1 * leAt r 5 1 * jobCin r
def jobT (r : JobRec) : Nat := (jobKg r + 31) / 32

/-- Blocks of 32 output channels (R244). -/
def jobCb (r : JobRec) : Nat := (jobCout r + 31) / 32

/-- Output size for an input of `h` by `w` (R225). -/
def jobHout (r : JobRec) (h : Nat) : Nat := ((jobWin r).outH false h).toNat
def jobWout (r : JobRec) (w : Nat) : Nat := ((jobWin r).outW false w).toNat

/-- Bytes of an output row. -/
def jobRowBytes (r : JobRec) (w : Nat) : Nat := (jobWout r w * jobCout r * elemBits (jobOut r) + 7) / 8

/-- Rows of a panel, R and both seam allowances. -/
def panelRows (r : JobRec) : Nat := leAt r 66 2 + leAt r 68 1 + leAt r 69 1

/-- Bytes of a record of the output's scales, and of a panel's records. -/
def recStep (r : JobRec) : Nat := if (jobTd r).asym then 128 else 64
def panelRecs (r : JobRec) (w : Nat) : Nat :=
  if jobScaled r then (panelRows r * jobWout r w * jobCb r + 29) / 30 * recStep r else 0

/-- Bytes of a core's part of the spill area (R244). -/
def spillStep (r : JobRec) (w : Nat) : Nat := 64 + panelRows r * leAt r 76 4 + panelRecs r w

/-- SDL_CLK cycles of an output row (R246). -/
def jobCyc (r : JobRec) (w : Nat) : Nat :=
  let c := if jobIn r = 5 ∨ jobIn r = 6 then 4 else 1
  ((jobWout r w + 63) / 64 * ((jobCout r + 31) / 32) * jobT r + 3) / 4 * max (64 * c) 32

/-- Output rows of a band (R246). -/
def jobBand (r : JobRec) (h w : Nat) : Nat := min (jobHout r h) (13200 / max 1 (jobCyc r w))

/-- Reflect padding is legal (R228). -/
def jobReflect (r : JobRec) (h w : Nat) : Bool :=
  let x := jobWin r
  x.pmode ≠ 3 || (x.pt < h && x.pb < h && x.pl < w && x.pr < w)

/-- A number lies in a range. -/
def within (n lo hi : Nat) : Bool := lo ≤ n && n ≤ hi

/-- Field ranges of Table 7.2 and Table 7.3. -/
def jobFields (r : JobRec) : Bool :=
  let last := leAt r 2 1 = 1
  let out := jobOut r
  within (leAt r 4 1) 1 15 && within (leAt r 5 1) 1 15 && within (leAt r 6 1) 1 8 && within (leAt r 7 1) 1 8 &&
    within (leAt r 8 1) 1 4 && within (leAt r 9 1) 1 4 && leAt r 14 1 < 4 && leAt r 3 1 < (if last then 2 else 4) &&
    leAt r 15 1 = 0 && pairOk (jobIn r) (jobW r) && leAt r 20 1 < 3 &&
    (!pairInt (jobIn r) (jobW r) || leAt r 20 1 = 0) && out ≤ 7 && (!jobScaled r || out ≠ 7) && leAt r 36 4 = 0 &&
    (r.drop 128).all (· = 0) &&
    if last then
      within (jobCin r) 1 512 && within (jobCout r) 1 16 && ((r.drop 64).take 32).all (· = 0) &&
        within (leAt r 96 2) 1 8192 && within (leAt r 98 2) 1 8192 && leAt r 120 2 < 960 && leAt r 122 2 < 960 &&
        1 ≤ leAt r 124 4
    else
      (jobCin r = 1 || jobCin r = 3) && within (jobCout r) 1 128 && (jobIn r = 3 || jobIn r = 5) &&
        ((r.drop 96).take 32).all (· = 0) && leAt r 64 1 < 16 && within (leAt r 65 1) 1 32 && 1 ≤ leAt r 66 2 &&
        leAt r 68 1 < 16 && leAt r 69 1 < 16 && (leAt r 70 2 < 960 || leAt r 70 2 = 0xFFFF) &&
        leAt r 72 4 % 64 = 0 && leAt r 76 4 % 64 = 0 && (!jobScaled r || leAt r 80 4 % 64 = 0) && leAt r 84 2 < 960 &&
        leAt r 86 2 = 0

/-- Output size, padding and spans for an input of `h` by `w` (R241 err 2). -/
def jobGeometry (s : State) (p : Nat) (r : JobRec) (h w : Nat) : Bool :=
  1 ≤ (jobWin r).outH false h && 1 ≤ (jobWin r).outW false w && within h 1 8192 && within w 1 8192 &&
    jobReflect r h w &&
    if leAt r 2 1 = 1 then
      mapped s p (leAt r 112 8) ((jobHout r h * jobWout r w * jobCout r * elemBits (jobOut r) + 7) / 8) false
    else
      jobRowBytes r w ≤ leAt r 76 4 && jobHout r h ≤ leAt r 65 1 * leAt r 66 2 &&
        leAt r 72 4 + panelRows r * leAt r 76 4 ≤ 0x300000 &&
        (!jobScaled r || leAt r 80 4 + panelRecs r w ≤ 0x300000) &&
        (leAt r 88 8 = 0 || mapped s p (leAt r 88 8) (leAt r 65 1 * spillStep r w) false)

/-- Pixels of a line of a CSI-2 data type (R284's groups). -/
def linePixels (dt bytes : Nat) : Nat :=
  match dt with
  | 0x2B => bytes / 5 * 4 | 0x2C => bytes / 3 * 2 | 0x2D => bytes / 7 * 4 | 0x2E => bytes / 2
  | 0x2F => bytes / 5 * 2 | 0x1E => bytes / 4 * 2
  | _ => bytes

/-- Input height and width of an entry's job. -/
def jobInput (s : State) (h e : Nat) (r : JobRec) : Nat × Nat :=
  if leAt r 2 1 = 1 then (leAt r 96 2, leAt r 98 2)
  else
    let x := getStr s h (entStream s h e)
    (x.nLines, linePixels x.dataType x.lineBytes)

/-- The stream is bound to the entry's partition, with the record's channels (R241 err 5). -/
def streamFits (s : State) (h e : Nat) (r : JobRec) : Bool :=
  let x := getStr s h (entStream s h e)
  leAt r 2 1 = 1 ||
    ((x.st = .bound || x.st = .pending) && x.part = entPart s h e && x.source = 0 &&
      jobCin r = (if x.dataType = 0x1E then 3 else 1))

/-- Weight store bytes a job takes (R241). -/
def jobUsed (r : JobRec) : Nat :=
  (jobCout r * jobKg r * elemBits (jobW r) + 7) / 8 +
    if leAt r 20 1 = 0 then 0 else (jobCout r * jobT r + 29) / 30 * 64

/-- Weight store in use by the other active entries. -/
def storeUsed (s : State) (h e : Nat) : Nat :=
  ((getSdl s h).ents.map fun x => if x.1 = e then 0 else match x.2.job with | some j => j.used | none => 0).sum

/-- The first `n` codes of a packed byte string. -/
def codesOf (ebits n : Nat) (bs : List Byte) : List Nat := (unpack ebits bs).take n

/-- Read a range for an entry; none where it cannot be read. -/
def sdlRead (p a n : Nat) (s : State) : Option (List Byte) × State :=
  match readPart p a n ingReq s with
  | (.ok b, s) => (some b, s)
  | (.error _, s) => (none, s)

/-- Scale slots of `n` blocks from their records; an unsound record gives a value the spec leaves open. -/
def loadScales (recs : List Byte) (sf : Nat) : (n x : Nat) → State → List Nat × State
  | 0, _, s => ([], s)
  | n + 1, x, s =>
    let r := (recs.drop (64 * (x / 30))).take 64
    let (v, s) := if recOk r 0 x sf false then (leAt r (4 + 2 * (x % 30)) 2, s)
      else let (f, s) := takeFree s; (f % 65536, s)
    let (l, s) := loadScales recs sf n (x + 1) s
    (v :: l, s)

/-- Weights, scales and bias of a record (R241); none where they cannot be read. -/
def loadJob (p : Nat) (r : JobRec) (s : State) : Option SdlJob × State :=
  let nw := jobCout r * jobKg r
  let nb := jobCout r * jobT r
  match sdlRead p (leAt r 40 8) ((nw * elemBits (jobW r) + 7) / 8) s with
  | (none, s) => (none, s)
  | (some w, s) =>
    match (if leAt r 20 1 = 0 then (some [], s) else sdlRead p (leAt r 48 8) ((nb + 29) / 30 * 64) s) with
    | (none, s) => (none, s)
    | (some sc, s) =>
      match (if bit (leAt r 3 1) 0 then sdlRead p (leAt r 56 8) (4 * jobCout r) s else (some [], s)) with
      | (none, s) => (none, s)
      | (some b, s) =>
        let (scales, s) := if leAt r 20 1 = 0 then ([], s) else loadScales sc (leAt r 20 1) nb 0 s
        (some { raw := r, weights := codesOf (elemBits (jobW r)) nw w, wscales := scales,
                bias := unpack 32 b, used := jobUsed r }, s)

/-! ## Commit (R241) -/

/-- The frames of a hub keep entry `e` as a reader only where it is active and names their stream. -/
def dropReader (h e : Nat) (keep : Option Nat) (s : State) : State :=
  let f (n : Nat) (x : Frame) : Frame := if keep = some n then x else { x with sdl := x.sdl.filter (· ≠ e) }
  (getIng s h).streams.foldl (fun s st =>
    modStr h st.1 (fun x => { x with cur := x.cur.map (f st.1), held := x.held.map (f st.1) }) s) s

/-- Entry `e` has finished with a frame of its stream. -/
def frameRead (h e seq : Nat) (s : State) : State :=
  let f (x : Frame) : Frame := if x.seq = seq then { x with sdl := x.sdl.filter (· ≠ e) } else x
  modStr h (entStream s h e) (fun x => { x with cur := x.cur.map f, held := x.held.map f }) s

/-- The entry stands without a job. -/
def idleEnt (x : SdlEnt) : SdlEnt := { err := x.err, sat := x.sat, frames := x.frames }

/-- The entry is refused with an error (Table 7.5). -/
def refuseEnt (h e err : Nat) (s : State) : State :=
  let s := dropReader h e none (modEnt h e (fun x => { idleEnt x with err }) s)
  record h 0x0801 [.id1 h, .id1 e, .code1 err] (entPart s h e) (entSlot s h e) (sdlErr h 1 e s)

/-- An enabled entry reads and checks its record and loads its weights. -/
def commitEnt (h e : Nat) (s : State) : State :=
  let p := entPart s h e
  let (r, s) := sdlRead p (eff s (entReg h e 4) 6 26 * 64 + 2 ^ 32 * eff s (entReg h e 8) 0 6) 256 s
  match r with
  | none => refuseEnt h e 1 s
  | some r =>
    if leAt r 0 2 ≠ 1 ∨ leAt r 2 1 ≠ eff s (entReg h e 0) 1 1 then refuseEnt h e 1 s
    else if !jobFields r then refuseEnt h e 2 s
    else if !streamFits s h e r then refuseEnt h e 5 s
    else if !jobGeometry s p r (jobInput s h e r).1 (jobInput s h e r).2 then refuseEnt h e 2 s
    else if 262144 < storeUsed s h e + jobUsed r then refuseEnt h e 3 s
    else if 13200 < jobCyc r (jobInput s h e r).2 then refuseEnt h e 4 s
    else
      match loadJob p r s with
      | (none, s) => refuseEnt h e 1 s
      | (some j, s) =>
        let cur := (getEnt s h e).cur
        let s := modEnt h e (fun x => { idleEnt x with active := true, err := 0, debt := x.debt, job := some j }) s
        let s := dropReader h e (if leAt r 2 1 = 1 then none else some (entStream s h e)) s
        match cur with | some q => frameRead h e q s | none => s

def doSdlEntryCommit (t h e : Nat) (s : State) : State :=
  let s := advance t s
  if h < 2 && e < 64 && (getHub s h).up && (getSdl s h).slice = none then
    let s := [0, 4, 8, 0xC].foldl (fun s r => commit (entReg h e r) s) s
    if eff s (entReg h e 0) 0 1 = 1 then commitEnt h e s else dropReader h e none (modEnt h e idleEnt s)
  else s

/-- SDL_ENTRY_COMMIT (R241): between slices the fields of an entry take effect; enabled, it reads its job record. -/
def execSdlEntryCommit (t h e : Nat) (s : State) : Host.Outcome State Fault Refusal := .next (doSdlEntryCommit t h e s)

/-! ## The layer (R240, R243) -/

/-- Pixels of a packed CSI-2 line, channel by channel (MIPI CSI-2; log entry 30). -/
def csiUnpack (dt : Nat) (line : List Byte) : List (List Nat) :=
  let at_ (b : List Byte) (i : Nat) : Nat := leAt b i 1
  let group (n : Nat) (f : List Byte → List (List Nat)) : List (List Nat) :=
    (chunks n (line.length / n) line).flatMap fun b => if b.length = n then f b else []
  let raw10 (b : List Byte) : List Nat := (List.range 4).map fun i => at_ b i * 4 + bits (at_ b 4) (2 * i) 2
  match dt with
  | 0x2B => group 5 fun b => (raw10 b).map fun q => [q]
  | 0x2C => group 3 fun b => [[at_ b 0 * 16 + at_ b 2 % 16], [at_ b 1 * 16 + at_ b 2 / 16]]
  | 0x2D => group 7 fun b =>
      let low := leAt b 4 3
      (List.range 4).map fun i => [at_ b i * 64 + bits low (6 * i) 6]
  | 0x2E => group 2 fun b => [[at_ b 0 * 256 + at_ b 1]]
  | 0x2F => group 5 fun b =>
      let w := raw10 b
      [[w.getD 0 0 * 1024 + w.getD 1 0], [w.getD 2 0 * 1024 + w.getD 3 0]]
  | 0x1E => group 4 fun b => [[at_ b 1, at_ b 0, at_ b 2], [at_ b 3, at_ b 0, at_ b 2]]
  | _ => line.map fun b => [b.toNat]

/-- A pixel code as a code of the input format (R243). -/
def convertPixel (r : JobRec) (c q : Nat) : Num Nat :=
  let d := Ex.ofInt ((q : Int) - (leAt r (26 + 2 * c) 2 : Nat))
  toElem (jobIn r) none (((d.mul (f32 (BitVec.ofNat 32 (leAt r 32 4)))).getD .nan))

/-- A line of the stream as codes of the input format; counts its saturations. -/
def convertLine (r : JobRec) (dt : Nat) (line : List Byte) : Num (List (List Nat)) :=
  mapN (fun px => mapN (fun x => convertPixel r x.2 x.1) (px.zip (List.range px.length))) (csiUnpack dt line)

/-- Input rows as codes, by row number. -/
abbrev SdlRows := List (Nat × List (List Nat))

/-- Value of channel `c` of pixel (y, x). -/
def sdlPix (r : JobRec) (rows : SdlRows) (y x c : Nat) : Ex :=
  match rows.find? (·.1 = y) with
  | none => elemVal (jobIn r) 0
  | some l => elemVal (jobIn r) ((l.2.getD x []).getD c 0)

/-- Value of a weight code. -/
def sdlWeight (h e : Nat) (r : JobRec) (code : Nat) : Ex :=
  if jobW r = 8 ∨ jobW r = 9 then bf16.decode (Config.sdlCodebook h e code % 65536) else elemVal (jobW r) code

/-- Weights of output channel `n`, k-tile by k-tile, with their scales. -/
def sdlColumn (h e : Nat) (j : SdlJob) (n : Nat) : List (List (Option Ex) × Ex) :=
  let kg := jobKg j.raw
  let t := jobT j.raw
  let ws := (j.weights.drop (n * kg)).take kg
  (List.range t).map fun k =>
    ((List.range 32).map fun i => (ws[32 * k + i]?).map (sdlWeight h e j.raw),
     if leAt j.raw 20 1 = 0 then Ex.fin false 1 1 else slotScale (leAt j.raw 20 1) (j.wscales.getD (n * t + k) 0))

/-- Activations of output pixel (y, x), k-tile by k-tile (R222, R227). -/
def sdlActs (r : JobRec) (rows : SdlRows) (h w y x : Nat) : List (List (Option Ex) × Ex) :=
  let win := jobWin r
  let cin := jobCin r
  (List.range (jobT r)).map fun k =>
    ((List.range 32).map fun i =>
      let p := 32 * k + i
      if jobKg r ≤ p then none
      else
        let t := p / cin
        match win.tap false {} h w y x (t / win.kw) (t % win.kw) with
        | .pix iy ix => some (sdlPix r rows iy ix (p % cin))
        | _ => some (if win.pmode = 1 then elemVal (jobIn r) (leAt r 16 2 % 2 ^ elemBits (jobIn r)) else .fin false 0 1),
     Ex.fin false 1 1)

/-- One output element: its leaves, their tree, and the bias (R125, R127, R224). -/
def sdlElement (j : SdlJob) (n : Nat) (acts col : List (List (Option Ex) × Ex)) : Num Word := do
  let int := pairInt (jobIn j.raw) (jobW j.raw)
  let nodes ← (acts.zip col).foldlM (fun nodes x => do
    let l ← leafOf int (leAt j.raw 20 1 ≠ 0) x.1 x.2
    pushNode int 13 0 [l] nodes) []
  let root ← foldNodes int nodes
  let v := (root.headD none).getD 0
  if bit (leAt j.raw 3 1) 0 then nodeAdd int v (BitVec.ofNat 32 (j.bias.getD n 0)) else pure v

/-- An output row as codes of the output format, with its fresh blocks pixel by pixel (R189, R205, R208, R240). -/
def sdlRow (h e : Nat) (j : SdlJob) (rows : SdlRows) (inH inW y : Nat) : List Nat × List SdlBlock :=
  let int := pairInt (jobIn j.raw) (jobW j.raw)
  let td := jobTd j.raw
  let cols := (List.range (jobCout j.raw)).map (sdlColumn h e j)
  let run {α : Type} (m : Num α) : α := (m.run { ctl := 0 }).1
  let px := (List.range (jobWout j.raw inW)).map fun x =>
    let acts := sdlActs j.raw rows inH inW y x
    let ws := (cols.zip (List.range cols.length)).map fun c => run (sdlElement j c.2 acts c.1)
    let xs := ws.map fun v => if int then Ex.ofInt v.toInt else f32 v
    if jobScaled j.raw then
      (chunks 32 xs.length xs).map fun b =>
        let f := freshOf td b
        (run (mapN (freshCode td f none) b), [{ slot := f.slot, off := f.off, const := f.const : SdlBlock }])
    else [(run (mapN (toElem td.fmt none) xs), [])]
  let all := px.flatten
  (all.flatMap (·.1), all.flatMap (·.2))

/-! ## Delivery (R244) -/

/-- The context of a first-layer entry holds its cores: not from step 3 of a heel-in until replant, and not in replay mode
(R244, R464). -/
def sdlHolds (s : State) (p slot : Nat) : Bool :=
  let c := getCtx s p slot
  !inReplay s p slot && !c.place.isEmpty && (c.resident ||
    (c.st = .heeling && c.place.all fun g => (getCore s g).stop = .requested || (getCore s g).stop = .go))

/-- Rows of panel `i` that exist: first and past the last. -/
def panelSpan (r : JobRec) (i hout : Nat) : Nat × Nat :=
  (i * leAt r 66 2 - leAt r 68 1, min hout ((i + 1) * leAt r 66 2 + leAt r 69 1))

/-- Row of panel `i` that output row `y` is. -/
def localRow (r : JobRec) (i y : Nat) : Nat := y + leAt r 68 1 - i * leAt r 66 2

/-- Where delivery writes: a core's scratchpad, or its part of the spill area. -/
def sdlPut (p slot i : Nat) (direct : Bool) (r : JobRec) (w off : Nat) (bs : List Byte) (s : State) : Bool × State :=
  if direct then
    match (getCtx s p slot).place[i]? with
    | none => (false, s)
    | some g => (true, modCore g (fun c => c.putSp off bs) s)
  else
    let img := leAt r 88 8 + i * spillStep r w + 64
    let scales := jobScaled r && leAt r 80 4 ≤ off && !(leAt r 72 4 ≤ off && off < leAt r 72 4 + panelRows r * leAt r 76 4)
    let a := if scales then img + panelRows r * leAt r 76 4 + (off - leAt r 80 4) else img + (off - leAt r 72 4)
    let (e, s) := writePart p a bs ingReq s
    (e.isNone, s)

/-- Whole records of a panel are written; `n` bounds how many (R244). -/
def putRecs (p slot i : Nat) (direct : Bool) (r : JobRec) (w : Nat) (final : Bool) :
    (n : Nat) → (Nat × List SdlBlock) → Bool × State → (Nat × List SdlBlock) × (Bool × State)
  | 0, q, a => (q, a)
  | n + 1, (k, bl), (ok, s) =>
    if bl.length < 30 && !(final && !bl.isEmpty) then ((k, bl), (ok, s))
    else
      let b := bl.take 30
      let const := b.any (·.const)
      let rec1 := scaleRecord (30 * k % 65536) false const (b.map (·.slot))
      let bytes := if (jobTd r).asym then rec1 ++ scaleRecord (30 * k % 65536) true const (b.map (·.off)) else rec1
      let (o, s) := sdlPut p slot i direct r w (leAt r 80 4 + k * recStep r) bytes s
      putRecs p slot i direct r w final n (k + 1, bl.drop 30) (ok && o, s)

/-- Blocks of rows that a panel does not have come first and hold no scale (R244): those in a record that is written are
open values. -/
def firstBlocks (r : JobRec) (w i : Nat) (s : State) : (Nat × List SdlBlock) × State :=
  let a := (leAt r 68 1 - i * leAt r 66 2) * jobWout r w * jobCb r
  let (l, s) := (List.range (a % 30)).foldl (fun (x : List SdlBlock × State) _ =>
    let (v, s) := takeFree x.2
    (x.1 ++ [{ slot := v % 65536, off := 0, const := false }], s)) ([], s)
  ((a / 30, l), s)

/-- One output row goes to every panel that has it. -/
def deliverRow (h e p slot : Nat) (direct : Bool) (j : SdlJob) (hout w y : Nat) (codes : List Nat)
    (blocks : List SdlBlock) (s : State) : Bool × State :=
  let r := j.raw
  let bytes := pack (elemBits (jobOut r)) codes
  (List.range (leAt r 65 1)).foldl (fun (a : Bool × State) i =>
    let (lo, hi) := panelSpan r i hout
    if y < lo || hi ≤ y then a
    else
      let (ok, s) := sdlPut p slot i direct r w (leAt r 72 4 + localRow r i y * leAt r 76 4) bytes a.2
      if jobScaled r then
        let (q, s) := if y = lo then firstBlocks r w i s else (tabGet (fun _ => (0, [])) (getEnt s h e).recs i, s)
        let (q', ok', s) := putRecs p slot i direct r w (y + 1 = hi) (blocks.length + 1) (q.1, q.2 ++ blocks) (ok, s)
        let s := modEnt h e (fun x => { x with
          recs := tabSet (fun _ => (0, [])) x.recs i q',
          spilled := if direct || q'.1 = q.1 then x.spilled else x.spilled.map fun p =>
            if p.core = i then { p with recFrom := if p.recTo = 0 then q.1 else p.recFrom, recTo := q'.1 } else p }) s
        (a.1 && ok && ok', s)
      else (a.1 && ok, s)) (true, s)

/-- The spill area's headers take in rows `y0` to `y1` (R244). -/
def noteSpill (h e p : Nat) (j : SdlJob) (hout w seq y0 y1 : Nat) (s : State) : Bool × State :=
  let r := j.raw
  (List.range (leAt r 65 1)).foldl (fun (a : Bool × State) i =>
    let (lo, hi) := panelSpan r i hout
    let f := max lo y0
    let l := min (hi - 1) y1
    if hi ≤ f || l < f then a
    else
      let old := (getEnt a.2 h e).spilled.find? (·.core = i)
      let n : Spill := match old with
        | none => { core := i, first := f, last := l }
        | some o => { o with first := min o.first f, last := max o.last l }
      let s := modEnt h e (fun x => { x with spilled := x.spilled.filter (·.core ≠ i) ++ [n] }) a.2
      let (er, s) := writePart p (leAt r 88 8 + i * spillStep r w)
        (fit 64 (toBytes 4 seq ++ toBytes 2 n.first ++ toBytes 2 n.last)) ingReq s
      (a.1 && er.isNone, s)) (true, s)

/-- The frame's output is dropped (R244, event 0x0802). -/
def sdlDrop (h e seq p slot : Nat) (s : State) : State :=
  let s := frameRead h e seq (modEnt h e (fun x => { x with cur := none, row := 0, line := 0, recs := [] }) s)
  record h 0x0802 [.id1 h, .id1 e, .val4 seq, .id1 p, .id1 slot] p slot (sdlErr h 2 e s)

/-- The last row has reached every panel: 1 is added to out_sem (R244). -/
def sdlDelivered (h e p : Nat) (j : SdlJob) (s : State) : State :=
  settle (semOp p (leAt j.raw 84 2) false 1 (modEnt h e (fun x => { x with frames := (x.frames + 1) % 256 }) s))

/-! ## Work and slices (R246, R247, R116) -/

/-- Now in units of 1/11 ns, in which a cycle of SDL_CLK is 10. -/
def now11 (s : State) : Nat := s.clk * 11

/-- The frame an entry reads: the one in work, or the oldest it has not read. -/
def entFrame (s : State) (h e : Nat) : Option Frame :=
  let x := getStr s h (entStream s h e)
  (x.held ++ x.cur.toList).find? fun f => f.admitted && f.sdl.elem e &&
    (match (getEnt s h e).cur with | some q => f.seq = q | none => true)

/-- Last input line a band's rows reference, plus one (R227, R246). -/
def linesNeeded (r : JobRec) (inH y0 y1 : Nat) : Nat :=
  let w := jobWin r
  ((List.range (y1 - y0)).flatMap fun k => (List.range w.kh).map fun ky =>
    match border w.pmode (((y0 + k) * w.sh : Nat) - w.pt + (ky * w.dh : Nat)) inH with
    | some i => i + 1
    | none => 0).foldl max 0

/-- The gate of a frame: taken, absent, or to be had (R244). -/
def gateOpen (s : State) (h e : Nat) (j : SdlJob) : Bool :=
  (getEnt s h e).cur.isSome || leAt j.raw 70 2 = 0xFFFF || 1 ≤ semVal s (entPart s h e) (leAt j.raw 70 2)

/-- The entry has work (R247). -/
def hasWork (s : State) (h e : Nat) : Bool :=
  match (getEnt s h e).job with
  | none => false
  | some j =>
    if leAt j.raw 2 1 = 1 then leAt j.raw 124 4 ≤ semVal s (entPart s h e) (leAt j.raw 120 2)
    else match entFrame s h e with
      | none => false
      | some f =>
        let (ih, iw) := jobInput s h e j.raw
        let y0 := (getEnt s h e).row
        let y1 := min (jobHout j.raw ih) (y0 + jobBand j.raw ih iw)
        gateOpen s h e j && (f.ended || linesNeeded j.raw ih y0 y1 ≤ f.lines.length)

/-- The next entry in cyclic order that has work. -/
def nextEnt (s : State) (h : Nat) : Option Nat :=
  ((List.range 64).map fun i => ((getSdl s h).last + 1 + i) % 64).find? (hasWork s h)

/-- Slice length of an entry in ns (SDL_SLICE, SDL_ENTe_SLICE). -/
def sliceNs (s : State) (h e : Nat) : Nat :=
  if fld s ((Blk.sdl h).base + 4) 0 1 = 1 then max 24 (eff s (entReg h e 0xC) 0 16) * 1000
  else match eff s ((Blk.sdl h).base + 8) 0 2 with
    | 0 => 100000 | 1 => 200000 | 2 => 400000
    | _ => 50000

/-- The engine may begin a grain of entry `e` now: its slice runs and has not ended, or it is next. -/
def mayRun (s : State) (h e : Nat) : Bool :=
  (getHub s h).up && (getEnt s h e).active && (getSdl s h).busy ≤ now11 s && hasWork s h e &&
    match (getSdl s h).slice with
    | some (k, fin) => k = e && max (getSdl s h).busy (now11 s) < fin
    | none => nextEnt s h = some e

/-- The entry's slice begins, shortened by its debt (R116). -/
def beginSlice (h e : Nat) (s : State) : State :=
  match (getSdl s h).slice with
  | some _ => s
  | none =>
    let len := sliceNs s h e * 11 - (getEnt s h e).debt
    modEnt h e (fun x => { x with debt := 0 }) (modSdl h (fun x => { x with slice := some (e, now11 s + len) }) s)

/-- The engine is busy for a number of SDL_CLK cycles. -/
def spend (h cyc : Nat) (s : State) : State := modSdl h (fun x => { x with busy := now11 s + 10 * cyc }) s

/-- A frame's first band takes its gate; the spill area is given up to the new frame (R244). -/
def openFrame (h e : Nat) (j : SdlJob) (f : Frame) (s : State) : State :=
  if (getEnt s h e).cur.isSome then s
  else
    let g := leAt j.raw 70 2
    let p := entPart s h e
    let s := if g = 0xFFFF then s else changed (setSem p g (semVal s p g - 1) s)
    modEnt h e (fun x => { x with cur := some f.seq, row := 0, line := 0, recs := [], spilled := [], spillFrame := f.seq,
                                  spillEnd := false }) s

/-- Compute rows `y0` to `y1 - 1` of the frame and deliver them. -/
def runBand (h e : Nat) (j : SdlJob) (f : Frame) (y0 y1 : Nat) (s : State) : State :=
  let r := j.raw
  let p := entPart s h e
  let slot := leAt r 64 1
  let x := getStr s h (entStream s h e)
  let (ih, iw) := jobInput s h e r
  let hout := jobHout r ih
  let c := getCtx s p slot
  let first := y0 = 0
  let s := openFrame h e j f s
  let direct := sdlHolds s p slot
  if c.st = .free || c.st = .faulted || c.st = .destroying || (first && c.cores < leAt r 65 1) ||
      (!direct && leAt r 88 8 = 0) then sdlDrop h e f.seq p slot s
  else
    let need := linesNeeded r ih y0 y1
    let from_ := (getEnt s h e).line
    let conv (i : Nat) : List (List Nat) × Tally :=
      (convertLine r x.dataType (fit x.lineBytes (f.lines.getD i []))).run { ctl := 0 }
    let lowest := if (jobWin r).pmode = 3 then 0 else y0 * (jobWin r).sh - (jobWin r).pt
    let rows : SdlRows := ((List.range (need - lowest)).map (lowest + ·)).map fun i => (i, (conv i).1)
    let sats := ((List.range (need - from_)).map fun k => (conv (from_ + k)).2.sat).sum
    let s := modEnt h e (fun x => { x with sat := satAdd 8 x.sat sats, line := max x.line need }) s
    let fresh := (getEnt s h e).spilled.isEmpty
    let (ok1, s) := if direct then (true, s) else noteSpill h e p j hout iw f.seq y0 (y1 - 1) s
    let s := if direct || !fresh then s
      else
        let cs := (getEnt s h e).spilled.map (·.core)
        record h 0x0803 [.id1 h, .id1 e, .val4 f.seq, .id1 (cs.foldl min 255), .id1 (cs.foldl max 0)] p slot s
    let (ok2, s) := (List.range (y1 - y0)).foldl (fun (a : Bool × State) k =>
      let (codes, blocks) := sdlRow h e j rows ih iw (y0 + k)
      let (o, s) := deliverRow h e p slot direct j hout iw (y0 + k) codes blocks a.2
      (a.1 && o, s)) (true, s)
    if !(ok1 && ok2) then sdlDrop h e f.seq p slot s
    else if y1 < hout then modEnt h e (fun x => { x with row := y1 }) s
    else
      let s := frameRead h e f.seq (modEnt h e (fun x => { x with cur := none, row := 0, line := 0, recs := [] }) s)
      if (getEnt s h e).spilled.isEmpty then sdlDelivered h e p j s
      else modEnt h e (fun x => { x with spillEnd := true }) s

def doSdlBand (t h e : Nat) (s : State) : State :=
  let s := advance t s
  if h < 2 && mayRun s h e && !entLast s h e then
    match (getEnt s h e).job, entFrame s h e with
    | some j, some f =>
      let (ih, iw) := jobInput s h e j.raw
      let y0 := (getEnt s h e).row
      let y1 := min (jobHout j.raw ih) (y0 + jobBand j.raw ih iw)
      runBand h e j f y0 y1 (spend h ((y1 - y0) * jobCyc j.raw iw) (beginSlice h e s))
    | _, _ => s
  else s

/-- SDL_BAND (R240, R243, R244, R246): the next band of a first-layer entry whose lines have arrived. -/
def execSdlBand (t h e : Nat) (s : State) : Host.Outcome State Fault Refusal := .next (doSdlBand t h e s)

/-- Input rows of a last-layer job as codes; none where they cannot be read. -/
def lastRows (p : Nat) (r : JobRec) : (n i : Nat) → State → Option SdlRows × State
  | 0, _, s => (some [], s)
  | n + 1, i, s =>
    let w := leAt r 98 2
    let eb := elemBits (jobIn r)
    match sdlRead p (leAt r 104 8 + i * leAt r 100 4) ((w * jobCin r * eb + 7) / 8) s with
    | (none, s) => (none, s)
    | (some b, s) =>
      match lastRows p r n (i + 1) s with
      | (none, s) => (none, s)
      | (some l, s) => (some ((i, chunks (jobCin r) w (codesOf eb (w * jobCin r) b)) :: l), s)

/-- The output of a last-layer job is lost: its input cannot be read or its output not written (log entry 31). -/
def lastDrop (h e : Nat) (s : State) : State :=
  record h 0x0802 [.id1 h, .id1 e, .val4 (getEnt s h e).frames, .id1 (entPart s h e), .id1 (entSlot s h e)] (entPart s h e)
    (entSlot s h e) (sdlErr h 2 e s)

def runJob (h e : Nat) (j : SdlJob) (s : State) : State :=
  let r := j.raw
  let p := entPart s h e
  let ih := leAt r 96 2
  let iw := leAt r 98 2
  let s := changed (setSem p (leAt r 120 2) (semVal s p (leAt r 120 2) - leAt r 124 4) s)
  match lastRows p r ih 0 s with
  | (none, s) => lastDrop h e s
  | (some rows, s) =>
    let codes := (List.range (jobHout r ih)).flatMap fun y => (sdlRow h e j rows ih iw y).1
    match writePart p (leAt r 112 8) (pack (elemBits (jobOut r)) codes) ingReq s with
    | (some _, s) => lastDrop h e s
    | (none, s) =>
      settle (semOp p (leAt r 122 2) false 1 (modEnt h e (fun x => { x with frames := (x.frames + 1) % 256 }) s))

def doSdlJobStart (t h e : Nat) (s : State) : State :=
  let s := advance t s
  if h < 2 && mayRun s h e && entLast s h e then
    match (getEnt s h e).job with
    | none => s
    | some j => runJob h e j (spend h (jobHout j.raw (leAt j.raw 96 2) * jobCyc j.raw (leAt j.raw 98 2)) (beginSlice h e s))
  else s

/-- SDL_JOB_START (R245): a ready last-layer job takes its trigger, runs, and signals. -/
def execSdlJobStart (t h e : Nat) (s : State) : Host.Outcome State Fault Refusal := .next (doSdlJobStart t h e s)

/-- A slice of the seedling engine ends at a grain boundary: at or after its end, or with the entry's work (R116, R247). -/
def sdlSliceEnd (h : Nat) (s : State) : State :=
  let x := getSdl s h
  match x.slice with
  | none => s
  | some (e, fin) =>
    if x.busy ≤ now11 s && (fin ≤ max x.busy (now11 s) || !hasWork s h e) then
      let s := commit ((Blk.sdl h).base + 8) (modSdl h (fun x => { x with slice := none, last := e }) s)
      modEnt h e (fun y => { y with debt := if y.active then x.busy - fin else 0 }) s
    else s

/-! ## Replant (R244) -/

/-- Spilled rows and records of one panel go to its core. -/
def unspill (p : Nat) (j : SdlJob) (w : Nat) (place : List Nat) (x : Spill) (s : State) : State :=
  match place[x.core]? with
  | none => s
  | some g =>
    let r := j.raw
    let img := leAt r 88 8 + x.core * spillStep r w + 64
    let s := (List.range (x.last + 1 - x.first)).foldl (fun s k =>
      let o := localRow r x.core (x.first + k) * leAt r 76 4
      modCore g (fun c => c.putSp (leAt r 72 4 + o) (peek s p (img + o) (jobRowBytes r w))) s) s
    (List.range (x.recTo - x.recFrom)).foldl (fun s k =>
      let o := (x.recFrom + k) * recStep r
      modCore g (fun c => c.putSp (leAt r 80 4 + o) (peek s p (img + panelRows r * leAt r 76 4 + o) (recStep r))) s) s

/-- Replant copies what the seedling engines spilled for a context into its scratchpads; a frame complete by it is
signalled (R244). -/
def replantSpills (p slot : Nat) (s : State) : State :=
  [0, 1].foldl (fun s h => (getSdl s h).ents.foldl (fun s e =>
    match e.2.job with
    | none => s
    | some j =>
      if entPart s h e.1 = p && leAt j.raw 2 1 = 0 && leAt j.raw 64 1 = slot && !e.2.spilled.isEmpty then
        let w := (jobInput s h e.1 j.raw).2
        let s := e.2.spilled.foldl (fun s x => unspill p j w (getCtx s p slot).place x s) s
        let s := modEnt h e.1 (fun x => { x with spilled := [], spillEnd := false }) s
        if e.2.spillEnd then sdlDelivered h e.1 p j s else s
      else s) s) s

end Sys2Proof.Machine
end

