-- ==== Sys2Proof/Machine/Fusion.lean ====
section
/-!
DEFINITION. Fusion.lean: alignment and fusion (spec/11): calibration, sources, the point area, ego-motion, the evidence
grid, instants and their results.
-/
namespace Sys2Proof.Machine

def dSensor (_ : Nat) : Sensor := {}
def dInstant (_ : Nat) : Instant := {}

def getSrc (s : State) (h e : Nat) : FusSrc := tabGet dFusSrc (getFus s h).srcs e
def getSensor (s : State) (h n : Nat) : Sensor := tabGet dSensor (getFus s h).sensors n
def modSensor (h n : Nat) (f : Sensor → Sensor) (s : State) : State :=
  modFus h (fun x => { x with sensors := tabMod dSensor x.sensors n f }) s
def getInst (s : State) (h k : Nat) : Instant := tabGet dInstant (getFus s h).insts k
def modInst (h k : Nat) (f : Instant → Instant) (s : State) : State :=
  modFus h (fun x => { x with insts := tabMod dInstant x.insts k f }) s

/-- BAR0 offset of a register of FUS, and of one of source `e`. -/
def fusReg (h rel : Nat) : Nat := (Blk.fus h).base + rel
def srcReg (h e rel : Nat) : Nat := fusReg h (0x1000 + 0x20 * e + rel)

/-- Set a sticky error (FUS_ERR). -/
def fusErr (h b : Nat) (s : State) : State := stick (fusReg h 8) b 5 none s

/-- The fusion partition (FUS_CFG.part). -/
def fusPart (s : State) (h : Nat) : Nat := fld s (fusReg h 0x10) 1 6

/-- An event of the engine; it concerns the fusion partition. -/
def fusEvent (h code : Nat) (items : List Item) (s : State) : State := eventFor (fusPart s h) h code items s

/-- The value of arithmetic whose conditions nobody counts. -/
def ev {α : Type} (m : Num α) : α := (m.run { ctl := 0 }).1

/-- An FP32 field of a record. -/
def fpAt (r : List Byte) (k : Nat) : Word := BitVec.ofNat 32 (leAt r k 4)

/-- The range reads without a refusal, a bad MAC or an uncorrectable error. -/
def readable (s : State) (p a n : Nat) : Bool :=
  (refusedAt s p a n false).isNone && (pieces a n).all fun x => (badLine s (devOf s p x.1) x.2).isNone

/-- Every byte outside the listed (first, length) ranges is zero. -/
def restZero (r : List Byte) (fields : List (Nat × Nat)) : Bool :=
  (List.range r.length).all fun i => fields.any (fun f => f.1 ≤ i && i < f.1 + f.2) || r.getD i 0 = 0

/-! ## Parameters in force (FUS_PROFILE, FUS_TUNE0, FUS_TUNE1, R11) -/

/-- half_life, conf_thr, S, Y and min_score. -/
structure FusPar where
  half : Nat
  conf : Nat
  sxy : Nat
  syaw : Nat
  score : Nat
  deriving DecidableEq, Repr

def fusPar (s : State) (h : Nat) : FusPar :=
  if fld s (fusReg h 4) 0 1 = 1 then
    { half := max 1 (eff s (fusReg h 0x20) 0 16), conf := max 1 (eff s (fusReg h 0x20) 16 12),
      sxy := min 16 (eff s (fusReg h 0x24) 0 5), syaw := min 16 (eff s (fusReg h 0x24) 5 5),
      score := eff s (fusReg h 0x24) 10 16 }
  else match eff s (fusReg h 0x1C) 0 2 with
    | 0 => ⟨256, 1024, 8, 8, 64⟩
    | 1 => ⟨128, 1024, 16, 4, 64⟩
    | 2 => ⟨1024, 2048, 4, 16, 32⟩
    | _ => ⟨256, 1024, 0, 0, 0⟩

/-! ## The set-up record (Table 11.5) -/

def Fus.edge (x : Fus) : Nat := leAt x.setup 4 2
def Fus.period (x : Fus) : Nat := leAt x.setup 16 4 * 1000
def Fus.lag (x : Fus) : Nat := leAt x.setup 20 4 * 1000
def Fus.perSlot (x : Fus) : Nat := leAt x.setup 32 4
def Fus.ptAddr (x : Fus) : Nat := leAt x.setup 40 8
def Fus.snapAddr (x : Fus) : Nat := leAt x.setup 48 8
def Fus.snapDepth (x : Fus) : Nat := leAt x.setup 56 1
def Fus.digest (x : Fus) : Bool := bit (leAt x.setup 2 1) 0
def Fus.copy (x : Fus) : Bool := bit (leAt x.setup 2 1) 1

/-- Time of validity of an instant (R303). -/
def Fus.tov (x : Fus) (k : Nat) : Nat := x.t0 + k * x.period

/-- The cutoff of the instant that closes next: its time, or the end of the close before (R303, R304, R330). -/
def Fus.cutoff (x : Fus) : Nat := max (x.tov x.next + x.lag) x.fin

/-- A set-up record within Table 11.5. -/
def setupOk (s : State) (p : Nat) (r : List Byte) : Bool :=
  let depth := leAt r 56 1
  leAt r 0 2 = 1 && leAt r 2 1 < 4 && leAt r 3 1 < 64 && leAt r 4 2 % 2 = 0 && 100 ≤ leAt r 4 2 && leAt r 4 2 ≤ 800 &&
    (f32 (fpAt r 8)).finite && (f32 (fpAt r 12)).finite && (f32 (fpAt r 8)).lt (f32 (fpAt r 12)) &&
    10000 ≤ leAt r 16 4 && leAt r 16 4 ≤ 1000000 && leAt r 20 4 ≤ 100000 && 1 ≤ leAt r 32 4 && leAt r 32 4 ≤ 2 ^ 22 &&
    leAt r 40 8 % 4096 = 0 && (refusedAt s p (leAt r 40 8) (64 * leAt r 32 4) true).isNone && depth ≤ 16 &&
    (depth = 0 || (leAt r 48 8 % 2 ^ 21 = 0 && (refusedAt s p (leAt r 48 8) (2 ^ 23 * depth) true).isNone)) &&
    leAt r 58 2 < 960 && leAt r 64 8 % 64 = 0 && 1 ≤ leAt r 72 1 &&
    (refusedAt s p (leAt r 64 8) (64 * leAt r 72 1) true).isNone &&
    (leAt r 80 8 = 0 || (leAt r 80 8 % 64 = 0 && (refusedAt s p (leAt r 80 8) 64 false).isNone)) &&
    restZero r [(0, 6), (8, 28), (40, 17), (58, 2), (64, 9), (80, 16)]

/-! ## CAL_LOAD (R309, R310) -/

/-- A calibration entry within Table 11.2. -/
def calOk (r : List Byte) : Bool :=
  let fin (k : Nat) : Bool := (f32 (fpAt r k)).finite
  let pos (k : Nat) : Bool := (Ex.fin false 0 1).lt (f32 (fpAt r k))
  leAt r 0 2 = 1 && leAt r 2 1 < 2 && leAt r 3 1 < 2 && leAt r 8 2 < 4096 && leAt r 10 2 < 4096 &&
    fin 12 && fin 16 && !(f32 (fpAt r 12)).lt (.fin false 0 1) && (f32 (fpAt r 12)).lt (f32 (fpAt r 16)) &&
    (List.range 16).all (fun i => fin (64 + 4 * i)) &&
    [112, 116, 120].all (fun k => (f32 (fpAt r k)).isZero) && fpAt r 124 = one32 &&
    restZero (r.take 192) [(0, 20), (64, 100)] &&
    (leAt r 2 1 = 0 ||
      ((List.range 9).all (fun i => fin (128 + 4 * i)) && [128, 132, 148, 160].all pos &&
        (List.range 1024).all (fun i => fin (192 + 4 * i))))

def calCheck (s : State) (d : Desc) : Option Refused :=
  let h := d.u 8 1 % 2
  firstOf [(127 < d.u 9 1, bad 9), (fusPart s h ≠ d.part, bad 8),
    (!readable s d.part (d.u 16 8) 4288 || !calOk (peek s d.part (d.u 16 8) 4288), bad 16)]

def calBody (d : Desc) (s : State) : State :=
  let h := d.u 8 1 % 2
  let raw := peek s d.part (d.u 16 8) 4288
  let s := modSensor h (d.u 9 1) (fun x =>
    match x.cur with
    | none => { x with cur := some raw, next := none }
    | some _ => { x with next := some { from_ := d.u 24 8, loaded := hubTime s h, raw } }) s
  finishOk d.id s

def doCalLoad (t id : Nat) (s : State) : State := runDesc t id 0x0A calCheck calBody s

/-- CAL_LOAD (R309, R310): the next entry of a sensor, or its current one where that is empty. -/
def execCalLoad (t id : Nat) (s : State) : Host.Outcome State Fault Refusal := .next (doCalLoad t id s)

/-- A frame or list that starts at `start` switches its sensor to the next entry (R310). -/
def calSwitch (h n : Nat) (start : Nat) (isList : Bool) (s : State) : State :=
  modSensor h n (fun x =>
    match x.next with
    | none => x
    | some c =>
      if (if c.from_ = 0 then isList || c.loaded ≤ start else c.from_ ≤ start) then
        { x with cur := some c.raw, next := none }
      else x) s

/-! ## Enable and disable (R331, R333) -/

/-- No frame waits for the sources `es` of the hub's engine any more. -/
def dropFrames (h : Nat) (es : List Nat) (s : State) : State :=
  modIng h (fun i => { i with streams := i.streams.map fun e =>
    (e.1, { e.2 with cur := e.2.cur.map (fun f => { f with fus := f.fus.filter fun x => !es.elem x }),
                     held := e.2.held.map fun f => { f with fus := f.fus.filter fun x => !es.elem x } }) }) s

/-- The engine stops: open instants and work in hand are discarded. -/
def fusStop (h : Nat) (s : State) : State :=
  let s := dropFrames h (List.range 32) s
  modFus h (fun x => { x with on := false, insts := [], slice := none,
                              srcs := x.srcs.map fun e => (e.1, { e.2 with pos := 0, list := none, debt := 0 }) }) s

/-- The engine reads its set-up record and starts, or stays disabled. -/
def fusStart (h : Nat) (s : State) : State :=
  let p := fusPart s h
  let a := fld s (fusReg h 0x14) 7 25 * 128 + 2 ^ 32 * fld s (fusReg h 0x18) 0 6
  let (r, s) := readPart p a 128 ingReq s
  match r with
  | .error _ => fusErr h 1 s
  | .ok r =>
    if setupOk s p r && (!bit (leAt r 2 1) 0 || (refusedAt s p (leAt r 88 8) (32 * leAt r 56 1) true).isNone) then
      let now := hubTime s h
      let per := leAt r 16 4 * 1000
      let t0 := if leAt r 24 8 = 0 then (now / per + 1) * per else leAt r 24 8
      modFus h (fun x =>
        { x with on := true, setup := r, t0, next := 0, fin := 0, cuts := [], insts := [], grid := [], oi := 0, oj := 0, poses := [],
                 slice := none, outside := 0 }) s
    else fusErr h 1 s

def doFusionEnable (t h : Nat) (s : State) : State :=
  let s := advance t s
  if h < 2 && (getHub s h).up && fld s (fusReg h 0x10) 0 1 = 0 then fusStart h (fldSet (fusReg h 0x10) 0 1 1 s) else s

/-- FUSION_ENABLE (R331): FUS_CFG.enable changes to 1. -/
def execFusionEnable (t h : Nat) (s : State) : Host.Outcome State Fault Refusal := .next (doFusionEnable t h s)

def doFusionDisable (t h : Nat) (s : State) : State :=
  let s := advance t s
  if h < 2 && (getHub s h).up && fld s (fusReg h 0x10) 0 1 = 1 then fusStop h (fldSet (fusReg h 0x10) 0 1 0 s) else s

/-- FUSION_DISABLE (R331): FUS_CFG.enable changes to 0. -/
def execFusionDisable (t h : Nat) (s : State) : Host.Outcome State Fault Refusal := .next (doFusionDisable t h s)

/-- PART_DESTROY of the fusion partition: the engine is disabled and its calibration cleared (R87, R333). -/
def fusDestroy (p : Nat) (s : State) : State :=
  [0, 1].foldl (fun s h =>
    if fusPart s h = p then modFus h (fun x => { x with sensors := [] }) (fusStop h (fldSet (fusReg h 0x10) 0 1 0 s))
    else s) s

/-! ## Sources (R305) -/

/-- Fields of a source record within Table 11.1. -/
def srcFields (r : List Byte) : Bool :=
  let pb := leAt r 12 2
  let w := if leAt r 6 1 = 1 then 2 else 4
  leAt r 2 1 < 2 && leAt r 3 1 < 8 && leAt r 4 1 < 128 && leAt r 28 2 ≤ 100 &&
    restZero r [(0, 11), (12, 6), (20, 14), (40, 8)] &&
    if leAt r 2 1 = 0 then
      leAt r 5 1 < 48 && leAt r 6 1 < 3 && 4 ≤ pb && pb ≤ 64 && [7, 8, 9].all (fun k => leAt r k 1 + w ≤ pb) &&
        (!bit (leAt r 3 1) 1 || leAt r 10 1 + 4 ≤ pb) && 1 ≤ leAt r 16 2 && leAt r 16 2 ≤ 4096
    else leAt r 30 2 < 960 && leAt r 32 2 < 960 && leAt r 40 8 % 64 = 0

/-- What is wrong with a source record; none where it stands. -/
def srcErr (s : State) (h e : Nat) (r : List Byte) : Option Nat :=
  let x := getStr s h (leAt r 5 1)
  let bound := (x.st = .bound || x.st = .pending) && x.part = fusPart s h
  if leAt r 0 2 ≠ 1 then some 1
  else if !srcFields r then some 2
  else if leAt r 2 1 = 0 && bound && x.lineBytes < leAt r 14 2 + leAt r 16 2 * leAt r 12 2 then some 2
  else if (leAt r 2 1 = 0 && !bound) ||
      (getFus s h).srcs.any (fun y => y.1 ≠ e && y.2.active && leAt y.2.raw 4 1 = leAt r 4 1) then some 3
  else if (getSensor s h (leAt r 4 1)).cur.isNone then some 4
  else none

/-- A source entry's fields take effect: it becomes active, is refused, or leaves the fusion set (R305). -/
def srcCommit (h e : Nat) (s : State) : State :=
  let was := eff s (srcReg h e 0) 0 1
  let s := [0, 4, 8].foldl (fun s r => commit (srcReg h e r) s) s
  let on := eff s (srcReg h e 0) 0 1
  if on = was then s
  else if on = 0 then
    dropFrames h [e] (modSrc h e (fun x => { x with active := false, pos := 0, list := none, debt := 0 }) s)
  else
    let (r, s) := readPart (fusPart s h) (eff s (srcReg h e 4) 6 26 * 64 + 2 ^ 32 * eff s (srcReg h e 8) 0 6) 64 ingReq s
    let refuse (c : Nat) (s : State) : State :=
      fusEvent h 0x0901 [.id1 h, .id1 e, .code1 c] (modSrc h e (fun x => { x with active := false, err := c }) s)
    match r with
    | .error _ => refuse 1 s
    | .ok r =>
      match srcErr s h e r with
      | some c => refuse c s
      | none =>
        modSrc h e (fun x => { x with active := true, err := 0, raw := r, since := hubTime s h, pos := 0, list := none }) s

/-- The commit boundary has come: the engine is at step 1 of a close (R304, R334). -/
def atBoundary (s : State) (h : Nat) : Bool :=
  (getHub s h).up && (getFus s h).on && (getFus s h).cutoff ≤ hubTime s h

def doFusionSourceCommit (t h e : Nat) (s : State) : State :=
  let s := advance t s
  if h < 2 && e < 32 && atBoundary s h then srcCommit h e s else s

/-- FUSION_SOURCE_COMMIT (R305). -/
def execFusionSourceCommit (t h e : Nat) (s : State) : Host.Outcome State Fault Refusal :=
  .next (doFusionSourceCommit t h e s)

/-- A list's header stands: version and count (R308). -/
def listHdrOk (b : List Byte) : Bool := leAt b 0 2 = 1 && leAt b 4 4 ≤ 65536

def doPointListRead (t h e : Nat) (s : State) : State :=
  let s := advance t s
  let x := getSrc s h e
  let r := x.raw
  let p := fusPart s h
  if h < 2 && e < 32 && (getHub s h).up && (getFus s h).on && x.active && leAt r 2 1 = 1 && x.list.isNone &&
      1 ≤ semVal s p (leAt r 30 2) then
    let s := changed (setSem p (leAt r 30 2) (semVal s p (leAt r 30 2) - 1) s)
    let a := leAt r 40 8
    let (hd, s) := readPart p a 64 ingReq s
    let (l, s) : Option (List Byte × List Byte) × State := match hd with
      | .error _ => (none, s)
      | .ok b =>
        if listHdrOk b then
          match readPart p (a + 64) (16 * leAt b 4 4) ingReq s with
          | (.error _, s) => (none, s)
          | (.ok ps, s) => (some (b, ps), s)
        else (none, s)
    let s := match l with
      | none => fusEvent h 0x0906 [.id1 h, .val8 (getFus s h).next, .code1 1] s
      | some (b, ps) =>
        let s := calSwitch h (leAt r 4 1) (leAt b 8 8) true s
        modSrc h e (fun x =>
          { x with pos := 0, seq := x.seq + 1,
                   list := some { read := hubTime s h, time := leAt b 8 8, pts := chunks 16 (leAt b 4 4) ps } }) s
    settle (semOp p (leAt r 32 2) false 1 s)
  else s

/-- POINT_LIST_READ (R308). -/
def execPointListRead (t h e : Nat) (s : State) : Host.Outcome State Fault Refusal := .next (doPointListRead t h e s)

/-! ## Transform (R306, R311) -/

/-- A signed integer as FP32. -/
def intF (i : Int) : Word := ev (round32 (.ofInt i))

/-- A raw point: its bytes of x, y and z, and its sensor time without t_off_ns. -/
structure RawPt where
  x : Nat
  y : Nat
  z : Nat
  /-- 0 FP32 metres, 1 i16 counts, 2 i32 counts -/
  fmt : Nat
  t : Int
  deriving DecidableEq, Repr

/-- Point `i` of a frame read by record `r` (R306). -/
def framePt (r : List Byte) (lineBytes : Nat) (f : Frame) (i : Nat) : RawPt :=
  let per := leAt r 16 2
  let ln := i / per
  let b := ((fit lineBytes (f.lines.getD ln [])).drop (leAt r 14 2 + i % per * leAt r 12 2)).take (leAt r 12 2)
  let w := if leAt r 6 1 = 1 then 2 else 4
  let off := if bit (leAt r 3 1) 1 then leAt b (leAt r 10 1) 4 else ln * leAt r 24 4
  { x := leAt b (leAt r 7 1) w, y := leAt b (leAt r 8 1) w, z := leAt b (leAt r 9 1) w, fmt := leAt r 6 1,
    t := (f.sof : Int) + off }

/-- Point `i` of a list (R308). -/
def listPt (l : PtList) (i : Nat) : RawPt :=
  let b := l.pts.getD i []
  { x := leAt b 0 4, y := leAt b 4 4, z := leAt b 8 4, fmt := 0, t := (l.time : Int) + sext 32 (leAt b 12 4) }

/-- A coordinate in metres, or the camera's u, v and depth. -/
def coord (fmt : Nat) (unit : Word) (v : Nat) : Word :=
  match fmt with
  | 0 => BitVec.ofNat 32 v
  | 1 => ev (mulF (intF (sext 16 v)) unit)
  | _ => ev (mulF (intF (sext 32 v)) unit)

def sqrtW (x : Word) : Word :=
  match f32 x with
  | .fin false n d => if n = 0 then 0 else ev (round32 (sqrtEx n d))
  | .fin true 0 _ => x
  | .fin true _ _ => nan32
  | .inf false => x
  | _ => nan32

/-- a ≤ b on FP32 values; false with a NaN. -/
def leF (a b : Word) : Bool := !(f32 a).isNan && !(f32 b).isNan && !(f32 b).lt (f32 a)
def ltF (a b : Word) : Bool := !(f32 a).isNan && !(f32 b).isNan && (f32 a).lt (f32 b)

/-- 1,023 as FP32. -/
def w1023 : Word := 0x447FC000

/-- The radial factor at `pos`, in 0 to 1,023; entry 1,024 does not exist, so at its end the factor is free (log entry
4). -/
def lerpDist (cal : List Byte) (pos free : Word) : Word :=
  match f32 pos with
  | .fin false n d =>
    let i := n / d
    if 1023 ≤ i then free
    else
      let e0 := fpAt cal (192 + 4 * i)
      let e1 := fpAt cal (196 + 4 * i)
      ev (do fmaF (← subF pos (intF i)) (← subF e1 e0) e0)
  | _ => free

/-- A Cartesian point in range (R311). -/
def cartPt (cal : List Byte) (x y z : Word) : Option (Word × Word × Word) :=
  let rng := sqrtW (ev (do addF (← addF (← mulF x x) (← mulF y y)) (← mulF z z)))
  if leF (fpAt cal 12) rng && leF rng (fpAt cal 16) then some (x, y, z) else none

/-- A camera point of (u, v, depth) (R311). -/
def camPt (cal : List Byte) (u v d free : Word) : Option (Word × Word × Word) :=
  let k (i : Nat) : Word := fpAt cal (128 + 4 * i)
  let yd := ev (do divF (← subF v (k 3)) (k 1))
  let xd := ev (do divF (← subF (← subF u (k 2)) (← mulF (k 4) yd)) (k 0))
  let r := sqrtW (ev (do addF (← mulF xd xd) (← mulF yd yd)))
  if ltF (k 5) r || ltF u 0 || ltF v 0 || leF (k 6) u || leF (k 7) v then none
  else
    let f := if bit (leAt cal 3 1) 0 then lerpDist cal (ev (do mulF (← divF r (k 5)) w1023)) free else one32
    let z := ev (mulF d (k 8))
    if leF (fpAt cal 12) z && leF z (fpAt cal 16) then
      some (ev (do mulF (← mulF xd f) z), ev (do mulF (← mulF yd f) z), z)
    else none

/-- Row `r` of T applied to a point (R311). -/
def rowT (cal : List Byte) (r : Nat) (q : Word × Word × Word) : Word :=
  let t (c : Nat) : Word := fpAt cal (64 + 16 * r + 4 * c)
  ev (do fmaF (t 2) q.2.2 (← fmaF (t 1) q.2.1 (← fmaF (t 0) q.1 (t 3))))

/-- The vehicle-frame point of a raw one; none where it is discarded (R306, R311). -/
def transform (cal : List Byte) (unit free : Word) (p : RawPt) : Option (Word × Word × Word) :=
  let x := coord p.fmt unit p.x
  let y := coord p.fmt unit p.y
  let z := coord p.fmt unit p.z
  if (p.x = 0 && p.y = 0 && p.z = 0) || !((f32 x).finite && (f32 y).finite && (f32 z).finite) then none
  else
    (if leAt cal 2 1 = 1 then camPt cal x y z free else cartPt cal x y z).map fun q =>
      (rowT cal 0 q, rowT cal 1 q, rowT cal 2 q)

/-! ## The point area and late points (R312, R327) -/

/-- The 16 bytes of a stored point: x, y, dt, sensor and class (R312; the last four bytes' order is log entry 32). -/
def ptBytes (q : FusPt) (tov : Nat) : List Byte :=
  toBytes 4 q.x.toNat ++ toBytes 4 q.y.toNat ++ toBytes 4 (wrap 32 (q.tp - tov)) ++
    [BitVec.ofNat 8 q.sensor, BitVec.ofNat 8 (b2n q.hit), 0, 0]

/-- A write of the fusion partition failed (R332). -/
def fusWriteErr (h k : Nat) (s : State) : State :=
  fusEvent h 0x0906 [.id1 h, .val8 k, .code1 0] (fusErr h 2 (modInst h k (fun x => { x with failed := true }) s))

/-- A point enters the slot of instant `k` (R312). -/
def enterPt (h e k : Nat) (q : FusPt) (s : State) : State :=
  let f := getFus s h
  let n := (getInst s h k).pts.length
  if f.perSlot ≤ n then fusEvent h 0x0903 [.id1 h, .val8 k] (modInst h k (fun x => { x with overflow := true }) s)
  else
    let (err, s) := writePart (fusPart s h) (f.ptAddr + 16 * (f.perSlot * (k % 4) + n)) (ptBytes q (f.tov k)) ingReq s
    let s := modInst h k (fun x => { x with pts := x.pts ++ [q], lateIn := satAdd 16 x.lateIn (b2n q.late) }) s
    let s := modSrc h e (fun x => { x with points := (x.points + 1) % 2 ^ 24 }) s
    if err.isSome then fusWriteErr h k s else s

/-- The instant a time belongs to; none before instant 0 (R303). -/
def Fus.instOf (x : Fus) (tp : Int) : Option Nat :=
  if tp < x.t0 then none else some (((tp - x.t0).toNat + x.period - 1) / x.period)

/-- The cutoff an instant had, or is to have (R304, R330). -/
def Fus.cutOf (x : Fus) (j : Nat) : Nat :=
  if j = x.next then x.cutoff
  else if j < x.next then x.cuts.getD (x.next - 1 - j) (x.tov j + x.lag)
  else x.tov j + x.lag

/-- The open instant that closes next for a point that became eligible at `el`. -/
def Fus.oldestOpen (x : Fus) (el : Nat) : Nat :=
  if el ≤ x.cutoff then x.next else x.next + max 1 ((el - x.lag - x.t0 + x.period - 1) / x.period - x.next)

/-- A late point is dropped (R327). -/
def dropLate (h e k : Nat) (lateness : Int) (s : State) : State :=
  let s := modInst h k (fun x => { x with lateOut := satAdd 16 x.lateOut 1 }) s
  let s := modSrc h e (fun x => { x with lateOut := satAdd 12 x.lateOut 1 }) s
  fusEvent h 0x0902 [.id1 h, .id1 e, .val4 (min (lateness / 1000).toNat 0xFFFFFFFF)] s

/-- An eligible point goes to its instant, joins a later one, or is dropped (R312, R313, R327). -/
def admitPt (h e el : Nat) (q : FusPt) (s : State) : State :=
  let f := getFus s h
  let m := f.oldestOpen el
  match f.instOf q.tp with
  | none => dropLate h e m (el - (f.t0 + f.lag : Int)) s
  | some j =>
    if m + 2 < j then modSrc h e (fun x => { x with early := satAdd 8 x.early 1 }) s
    else if m ≤ j then enterPt h e j q s
    else
      let lateness := (el : Int) - f.cutOf j
      if lateness ≤ (leAt (getSrc s h e).raw 28 2 * 1000000 : Nat) && m ≤ j + 15 then enterPt h e m { q with late := true } s
      else dropLate h e m lateness s

/-- One raw point of a source: transformed, classed and admitted (R306, R311, R312). -/
def runPt (h e el seq i : Nat) (cal : List Byte) (p : RawPt) (s : State) : State :=
  let r := (getSrc s h e).raw
  let (fv, s) := takeFree s
  match transform cal (fpAt r 20) (BitVec.ofNat 32 fv) p with
  | none => s
  | some (x, y, z) =>
    let su := (getFus s h).setup
    if leF z (fpAt su 12) then
      admitPt h e el
        { hit := leF (fpAt su 8) z, x, y, tp := p.t + sext 32 (leAt cal 4 4), sensor := leAt r 4 1, seq, idx := i,
          late := false, ego := bit (leAt r 3 1) 0, free := bit (leAt r 3 1) 2, occ := leAt cal 8 2, miss := leAt cal 10 2,
          ox := fpAt cal 76, oy := fpAt cal 92 } s
    else s

/-! ## Batches and slices (R329, R116) -/

/-- The oldest ended frame a source has not finished. -/
def srcFrame (s : State) (h e : Nat) : Option Frame :=
  (getStr s h (leAt (getSrc s h e).raw 5 1)).held.find? fun f => f.fus.elem e

/-- Eligible points of an entry: their number, the time they became eligible, and the sequence number. -/
def srcWork (s : State) (h e : Nat) : Option (Nat × Nat × Nat) :=
  let x := getSrc s h e
  if !x.active then none
  else if leAt x.raw 2 1 = 1 then x.list.map fun l => (l.pts.length, l.read, x.seq)
  else (srcFrame s h e).map fun f => (f.lines.length * leAt x.raw 16 2, f.eof, f.seq)

/-- The next entry with eligible points, in ascending order from the last. -/
def nextSrc (s : State) (h : Nat) : Option Nat :=
  ((List.range 32).map fun i => ((getFus s h).last + 1 + i) % 32).find? fun e => (srcWork s h e).isSome

/-- The engine may begin a batch of entry `e` now. -/
def fusMayRun (s : State) (h e : Nat) : Bool :=
  (getHub s h).up && (getFus s h).on && (getFus s h).busy ≤ s.clk && (srcWork s h e).isSome &&
    match (getFus s h).slice with
    | some (k, fin) => k = e && s.clk < fin
    | none => nextSrc s h = some e

/-- The entry's slice of 100 µs begins, shortened by its debt. -/
def fusSlice (h e : Nat) (s : State) : State :=
  match (getFus s h).slice with
  | some _ => s
  | none =>
    let len := 100000 - (getSrc s h e).debt
    modSrc h e (fun x => { x with debt := 0 }) (modFus h (fun x => { x with slice := some (e, s.clk + len) }) s)

/-- The entry's frame or list has been read to its end. -/
def srcDone (h e seq : Nat) (s : State) : State :=
  let x := getSrc s h e
  let s := modSrc h e (fun x => { x with pos := 0, list := none }) s
  if leAt x.raw 2 1 = 1 then s
  else modStr h (leAt x.raw 5 1) (fun y => { y with held := y.held.map fun f =>
    if f.seq = seq then { f with fus := f.fus.filter (· ≠ e) } else f }) s

def fusBatch (h e : Nat) (s : State) : State :=
  match srcWork s h e with
  | none => s
  | some (total, el, seq) =>
    let s := fusSlice h e s
    let x := getSrc s h e
    let isList := leAt x.raw 2 1 = 1
    let fr := srcFrame s h e
    let s := match fr with
      | some f => if !isList && x.pos = 0 then calSwitch h (leAt x.raw 4 1) f.sof false s else s
      | none => s
    let cal := ((getSensor s h (leAt x.raw 4 1)).cur).getD []
    let n := min 320 (total - x.pos)
    let lineBytes := (getStr s h (leAt x.raw 5 1)).lineBytes
    let pt (i : Nat) : Option RawPt :=
      if isList then x.list.map fun l => listPt l i else fr.map fun f => framePt x.raw lineBytes f i
    let s := modFus h (fun y => { y with busy := s.clk + 25 * n }) s
    let s := (List.range n).foldl (fun s k =>
      match pt (x.pos + k) with
      | some p => runPt h e el seq (x.pos + k) cal p s
      | none => s) s
    if total ≤ x.pos + n then srcDone h e seq s else modSrc h e (fun y => { y with pos := x.pos + n }) s

def doFusionPointBatch (t h e : Nat) (s : State) : State :=
  let s := advance t s
  if h < 2 && e < 32 && fusMayRun s h e then fusBatch h e s else s

/-- FUSION_POINT_BATCH (R306, R307, R310 to R312, R327, R329): the next batch of at most 320 eligible points. -/
def execFusionPointBatch (t h e : Nat) (s : State) : Host.Outcome State Fault Refusal :=
  .next (doFusionPointBatch t h e s)

/-- A slice of the fusion engine ends at a grain boundary, at or after its end or with the entry's work (R116, R329). -/
def fusSliceEnd (h : Nat) (s : State) : State :=
  let x := getFus s h
  match x.slice with
  | none => s
  | some (e, fin) =>
    if x.busy ≤ s.clk && (fin ≤ s.clk || (srcWork s h e).isNone) then
      let s := modFus h (fun x => { x with slice := none, last := e }) s
      modSrc h e (fun y => { y with debt := if y.active then x.busy - fin else 0 }) s
    else s

/-! ## Pose and placement (R313, R314) -/

/-- ⌊(2a + b) / 2b⌋. -/
def rdiv (a b : Int) : Int := (2 * a + b) / (2 * b)

/-- 100 decimals of π: it lies between this and one more, in units of 10^-100. -/
def pi100 : Nat :=
  31415926535897932384626433832795028841971693993751058209749445923078164062862089986280348253421170679

/-- Partial sum of sin (`k` = 1) or cos (`k` = 0) at n / d, `terms` terms: exact numerator over d^(k + 2·terms)
· (k + 2·terms)!. -/
def trigSum (n d : Nat) : (terms k : Nat) → (acc : SQ) → (t : Nat × Nat) → (neg : Bool) → SQ
  | 0, _, acc, _, _ => acc
  | m + 1, k, acc, t, neg =>
    let a : SQ := ⟨acc.n * t.2 + (if neg then -1 else 1) * (t.1 * acc.d : Nat), acc.d * t.2⟩
    trigSum n d m (k + 2) a (t.1 * n * n, t.2 * d * d * ((k + 1) * (k + 2))) (!neg)

/-- FP32 nearest the sine or cosine of 2π·a / 65,536 for a up to 8,192 (k = 1 or 0). -/
def octant (k a : Nat) : Word :=
  if a = 0 then (if k = 0 then one32 else 0)
  else
    let lo := pi100 * a
    let hi := (pi100 + 1) * a
    let d := 10 ^ 100 * 32768
    let at_ (x : Nat) (terms : Nat) : SQ := trigSum x d terms k ⟨0, 1⟩ (if k = 0 then (1, 1) else (x, d)) false
    let b := if k = 0 then (at_ hi 16, at_ lo 17) else (at_ lo 16, at_ hi 17)
    ev (round32 (settleEncl fp32 (fun _ => b) 1 96))

/-- cos_t and sin_t (R314). -/
def cosSin (a : Nat) : Word × Word :=
  let r := a % 16384
  let c := if r ≤ 8192 then octant 0 r else octant 1 (16384 - r)
  let n := if r ≤ 8192 then octant 1 r else octant 0 (16384 - r)
  let m (w : Word) : Word := if w = 0 then 0 else negF w
  match a / 16384 % 4 with
  | 0 => (c, n) | 1 => (m n, c) | 2 => (m c, m n)
  | _ => (n, m c)

/-- A finite value rounded to the nearest integer, ties to even. -/
def rneInt (x : Ex) : Option Int :=
  match x with
  | .fin neg n d => some (sgn neg (roundNE n d))
  | _ => none

/-- An offset (x, y) turned through `yaw`, in metres or any unit (R314). -/
def turned (yaw : Nat) (x y : Word) : Word × Word :=
  let (c, n) := cosSin ((yaw + 0x8000) / 65536 % 65536)
  (ev (do subF (← mulF c x) (← mulF n y)), ev (do addF (← mulF n x) (← mulF c y)))

/-- A window cell of a vehicle-frame point at a pose; none where its place is no finite number. -/
def cellAt (edge : Nat) (p : Pose) (x y : Word) : Option (Int × Int) :=
  let (gx, gy) := turned p.yaw x y
  match (f32 gx).mul (.ofInt 10000), (f32 gy).mul (.ofInt 10000) with
  | some a, some b =>
    match rneInt a, rneInt b with
    | some ux, some uy => some ((p.x + ux) / (10 * edge : Nat), (p.y + uy) / (10 * edge : Nat))
    | _, _ => none
  | _, _ => none

/-- The pose at a time, with the poses newest first and the newest that of instant `k` (R313). -/
def poseAt (f : Fus) (k : Nat) (poses : List Pose) (tp : Int) : Option Pose :=
  match f.instOf tp with
  | none => none
  | some j =>
    if k < j then none
    else
      match poses[k - j]?, poses[k - j + 1]? with
      | some b, some a =>
        let n := tp - f.tov (j - 1)
        let d : Int := f.period
        some { x := a.x + rdiv ((b.x - a.x) * n) d, y := a.y + rdiv ((b.y - a.y) * n) d,
               yaw := wrap 32 (a.yaw + rdiv (sext 32 (wrap 32 ((b.yaw : Int) - a.yaw)) * n) d) }
      | some b, none => if tp = f.tov j then some b else none
      | _, _ => none

def inWindow (c : Int × Int) : Bool := 0 ≤ c.1 && c.1 < 1024 && 0 ≤ c.2 && c.2 < 1024

/-- Grid word of a window cell (R317). -/
def Fus.word (f : Fus) (c : Int × Int) : Nat :=
  (f.oi + c.1.toNat) % 1024 * 1024 + (f.oj + c.2.toNat) % 1024

/-! ## Cells (R318, R319, R321) -/

/-- Decay to instant time `t` (R319). -/
def decay (half t cell : Nat) : Nat :=
  let u := t / 2 ^ 20 % 2 ^ 24
  let m := (u + 2 ^ 24 - bits cell 32 24) % 2 ^ 24
  let sh := m / half
  let cut (lo w : Nat) : Nat := if 12 ≤ sh then 0 else bits cell lo w / 2 ^ sh
  let c := setBits (setBits (setBits cell 0 12 (cut 0 12)) 12 12 (cut 12 12)) 24 4 (cut 24 4)
  setBits c 32 24 (bits cell 32 24 + sh * half)

/-- Evidence added to a decayed cell, and whether it entered conflict (R320, R321). -/
def addEv (conf cell occ free : Nat) : Nat × Bool :=
  let o := min 4095 (bits cell 0 12 + occ)
  let f := min 4095 (bits cell 12 12 + free)
  let was := conf ≤ bits cell 0 12 && conf ≤ bits cell 12 12
  let new := !was && conf ≤ o && conf ≤ f
  let c := setBits (setBits cell 0 12 o) 12 12 f
  (setBits (setBits c 24 4 (min 15 (bits c 24 4 + b2n new))) 63 1 1, new)

def gridAt (f : Fus) (w : Nat) : Nat := tabGet dNat f.grid w

/-- An update of one cell in an instant: the engine, and the conflicts counted so far. -/
def touch (p : FusPar) (t occ free : Nat) (a : Fus × Nat) (c : Int × Int) : Fus × Nat :=
  if inWindow c then
    let w := a.1.word c
    let (v, new) := addEv p.conf (decay p.half t (gridAt a.1 w)) occ free
    ({ a.1 with grid := tabSet dNat a.1.grid w v }, a.2 + b2n new)
  else a

/-- Cells of the integer Bresenham line from `a` on, `n` of them (R320, log entry 33). -/
def bresenham (dx dy sx sy : Int) : (n : Nat) → (err x y : Int) → List (Int × Int)
  | 0, _, _, _ => []
  | n + 1, err, x, y =>
    let e2 := 2 * err
    let (err1, x1) := if -dy ≤ e2 then (err - dy, x + sx) else (err, x)
    let (err2, y1) := if e2 ≤ dx then (err1 + dx, y + sy) else (err1, y)
    (x, y) :: bresenham dx dy sx sy n err2 x1 y1

/-- Cells crossed from `a` to `b`, `b` excluded. -/
def crossed (a b : Int × Int) : List (Int × Int) :=
  let dx := (b.1 - a.1).natAbs
  let dy := (b.2 - a.2).natAbs
  bresenham dx dy (if a.1 < b.1 then 1 else -1) (if a.2 < b.2 then 1 else -1) (max dx dy) ((dx : Int) - dy) a.1 a.2

/-! ## Ego-motion (R315, R316) -/

/-- The prior of instant `k`, and whether it comes from the record (R315). -/
def priorOf (f : Fus) (k : Nat) (rec_ : Option (List Byte)) : Pose × Bool :=
  let a := f.poses.getD 0 ⟨0, 0, 0⟩
  let byRecord := match rec_ with
    | some r => leAt r 0 2 = 1 && leAt r 8 8 = f.tov k
    | none => false
  if byRecord then
    let r := rec_.getD []
    let (gx, gy) := turned a.yaw (intF (sext 32 (leAt r 16 4))) (intF (sext 32 (leAt r 20 4)))
    (⟨a.x + (rneInt (f32 gx)).getD 0, a.y + (rneInt (f32 gy)).getD 0, (a.yaw + leAt r 24 4) % 2 ^ 32⟩, true)
  else match f.poses[1]? with
    | some b => (⟨2 * a.x - b.x, 2 * a.y - b.y, wrap 32 (2 * (a.yaw : Int) - b.yaw)⟩, false)
    | none => (a, false)

/-- Order of keypoints (R316). -/
def ptLt (a b : FusPt) : Bool :=
  a.sensor < b.sensor || (a.sensor = b.sensor && (a.seq < b.seq || (a.seq = b.seq && a.idx < b.idx)))

/-- The keypoints among an instant's points, of rank ⌊i·n/4,096⌋ whatever n is, and n (R316). -/
def keypoints (pts : List FusPt) : List FusPt × Nat :=
  let l := isort ptLt (pts.filter fun q => q.hit && q.ego && !q.late)
  let n := l.length
  (((List.range (min n 4096)).map fun i => (l[i * n / 4096]?).toList).flatten, n)

/-- Score of a candidate: decayed occ of the cells the keypoints are placed in (R316). -/
def poseScore (par : FusPar) (f : Fus) (k : Nat) (keys : List FusPt) (cand : Pose) : Nat :=
  (keys.map fun q =>
    match poseAt f k (cand :: f.poses) q.tp with
    | none => 0
    | some p =>
      match cellAt f.edge p q.x q.y with
      | none => 0
      | some c => if inWindow c then bits (decay par.half (f.tov k) (gridAt f (f.word c))) 0 12 else 0).sum

/-- A candidate: its pose, steps and score. -/
structure Cand where
  pose : Pose
  di : Int
  dj : Int
  dq : Int
  score : Nat
  deriving DecidableEq, Repr

/-- The integers from -n to n. -/
def span (n : Nat) : List Int := (List.range (2 * n + 1)).map fun i : Nat => (i : Int) - n

/-- The better of two candidates, the first in loop order on a full tie. -/
def better (a b : Cand) : Cand :=
  if a.score ≠ b.score then (if a.score < b.score then b else a)
  else if a.dq.natAbs ≠ b.dq.natAbs then (if b.dq.natAbs < a.dq.natAbs then b else a)
  else if b.di.natAbs + b.dj.natAbs < a.di.natAbs + a.dj.natAbs then b else a

/-- pose_k, its status, score and whether the prior is from the record (R315, R316). -/
def estimate (par : FusPar) (f : Fus) (k : Nat) (rec_ : Option (List Byte)) (pts : List FusPt) (egoOn : Bool) :
    Pose × Nat × Nat × Bool :=
  if k = 0 then (⟨5120 * f.edge, 5120 * f.edge, 0⟩, 0, 0, false)
  else
    let (pr, byRec) := priorOf f k rec_
    let (keys, n) := keypoints pts
    let step : Int := 5 * f.edge / 2
    let cand (q j i : Int) : Cand :=
      let pose : Pose := ⟨pr.x + i * step, pr.y + j * step, wrap 32 (pr.yaw + 2 ^ 19 * q)⟩
      { pose, di := i, dj := j, dq := q, score := poseScore par f k keys pose }
    let prior := cand 0 0 0
    if par.sxy = 0 ∧ par.syaw = 0 then (pr, 0, prior.score, byRec)
    else
      let all := (span par.syaw).flatMap fun q => (span par.sxy).flatMap fun j => (span par.sxy).map fun i => cand q j i
      let best := all.tail.foldl better (all.headD prior)
      if n < 256 || !egoOn then (pr, 1, prior.score, byRec)
      else if best.score < par.score * 256 then (pr, 2, prior.score, byRec)
      else if (0 < par.sxy && (best.di.natAbs = par.sxy || best.dj.natAbs = par.sxy)) ||
          (0 < par.syaw && best.dq.natAbs = par.syaw) then (pr, 3, prior.score, byRec)
      else (best.pose, 0, best.score, byRec)

/-! ## Recentring, sweep, insertion (R317, R320, R322) -/

/-- Cells the window shifts by on one axis. -/
def shiftOf (edge : Nat) (x : Int) : Int :=
  let c := x / (10 * edge : Nat)
  if 128 < (c - 512).natAbs then c - 512 else 0

/-- The window moves by (di, dj) cells; the cells that enter are zero (R317). -/
def recentre (f : Fus) (di dj : Int) : Fus :=
  let oi := wrap 32 (f.oi + di)
  let oj := wrap 32 (f.oj + dj)
  let keeps (w : Nat) : Bool :=
    inWindow ((((w / 1024 + 1024 - oi % 1024) % 1024 : Nat) : Int) + di, (((w % 1024 + 1024 - oj % 1024) % 1024 : Nat) : Int) + dj)
  { f with oi, oj, grid := f.grid.filter fun e => keeps e.1,
           poses := f.poses.map fun p => { p with x := p.x - di * (10 * f.edge : Nat), y := p.y - dj * (10 * f.edge : Nat) } }

/-- Decay a run of grid words. -/
def decayRun (par : FusPar) (t first n : Nat) (f : Fus) : Fus :=
  { f with grid := (List.range n).foldl (fun g i => tabSet dNat g (first + i) (decay par.half t (tabGet dNat g (first + i)))) f.grid }

/-- What insertion has counted: the engine, points inserted and conflicts. -/
structure Inserted where
  f : Fus
  points : Nat := 0
  conflicts : Nat := 0
  deriving DecidableEq, Repr

/-- One point of instant `k` is inserted (R320). -/
def insertPt (par : FusPar) (k : Nat) (a : Inserted) (q : FusPt) : Inserted :=
  let t := a.f.tov k
  match poseAt a.f k a.f.poses q.tp with
  | none => a
  | some p =>
    match cellAt a.f.edge p q.x q.y with
    | none => { a with f := { a.f with outside := a.f.outside + b2n q.hit } }
    | some c =>
      let ray := if q.free then (match cellAt a.f.edge p q.ox q.oy with | some o => crossed o c | none => []) else []
      let own := if q.hit then touch par t q.occ 0 (a.f, a.conflicts) c else touch par t 0 q.miss (a.f, a.conflicts) c
      let (f, n) := ray.foldl (touch par t 0 q.miss) own
      { f := if inWindow c then f else { f with outside := f.outside + b2n q.hit },
        points := a.points + b2n (inWindow c), conflicts := n }

/-! ## The close (R304, R323 to R326, R330) -/

/-- Age of the oldest contribution in µs (R326). -/
def oldestAge (s : State) (h k : Nat) (pts : List FusPt) : Nat :=
  let f := getFus s h
  let ages := (f.srcs.filter (·.2.active)).map fun e =>
    let n := leAt e.2.raw 4 1
    match ((pts.filter (·.sensor = n)).map (·.tp)) with
    | t :: ts => ts.foldl min t
    | [] => ((getSensor s h n).newest).getD e.2.since
  match ages with
  | [] => 0xFFFFFFFF
  | t :: ts => min 0xFFFFFFFF (((f.tov k : Int) - ts.foldl min t) / 1000).toNat

/-- Step 6: the snapshot and its digest; the flags they set (R323). -/
def snapshot (h k : Nat) (par : FusPar) (s : State) : Nat × State :=
  let f := getFus s h
  if f.snapDepth = 0 then (0, s)
  else
    let s := modFus h (decayRun par (f.tov k) 0 (2 ^ 20)) s
    let slot := k % f.snapDepth
    let img := (List.range (2 ^ 20)).flatMap fun w => toBytes 8 (gridAt (getFus s h) w)
    let (e1, s) := writePart (fusPart s h) (f.snapAddr + 2 ^ 23 * slot) img ingReq s
    let s := if e1.isSome then fusWriteErr h k s else s
    let fl := if e1.isSome then 0 else 8
    if f.digest then
      let (e2, s) := writePart (fusPart s h) (leAt f.setup 88 8 + 32 * slot) (sha3 img) ingReq s
      (fl + (if e2.isSome then 0 else 16), if e2.isSome then fusWriteErr h k s else s)
    else (fl, s)

/-- Table 11.4. -/
structure FusRec where
  age : Nat
  flags : Nat
  ego : Nat
  conflicts : Nat
  digestPtr : Nat
  score : Nat
  points : Nat
  deriving DecidableEq, Repr

def FusRec.bytes (r : FusRec) (f : Fus) (k : Nat) (i : Instant) (p : Pose) : List Byte :=
  toBytes 8 (f.tov k) ++ toBytes 4 r.age ++ toBytes 1 r.flags ++ toBytes 1 r.ego ++ toBytes 2 (min r.conflicts 0xFFFF) ++
    toBytes 8 r.digestPtr ++ toBytes 8 k ++ toBytes 4 (wrap 32 p.x) ++ toBytes 4 (wrap 32 p.y) ++ toBytes 4 p.yaw ++
    toBytes 4 r.score ++ toBytes 4 r.points ++ toBytes 2 i.lateIn ++ toBytes 2 i.lateOut ++ toBytes 4 f.oi ++ toBytes 4 f.oj

/-- Step 7: the record, its semaphore and the island copy (R325, R332). -/
def writeResult (h k : Nat) (b : List Byte) (s : State) : State :=
  let f := getFus s h
  let p := fusPart s h
  let a := leAt f.setup 64 8 + 64 * (k % leAt f.setup 72 1)
  let (e, s) := writePart p a b ingReq s
  let s := if e.isSome then fusWriteErr h k s else s
  let s := semOp p (leAt f.setup 58 2) false 1 s
  let n := leAt f.setup 3 1
  let s := if f.copy then
      match islandOf s p n with
      | none => fusEvent h 0x0908 [.id1 h, .val8 k, .id1 n] s
      | some i => { s with records := s.records ++ [{ island := i, stream := n, part := p, addr := a, data := b }] }
    else s
  settle s

/-- The prior record, where the set-up names one and it can be read (R315). -/
def readPrior (h : Nat) (s : State) : Option (List Byte) × State :=
  let a := leAt (getFus s h).setup 80 8
  if a = 0 then (none, s)
  else match readPart (fusPart s h) a 64 ingReq s with
    | (.ok b, s) => (some b, s)
    | (.error _, s) => (none, s)

/-- A double-bit error of the grid: the cell is zero (R332). -/
def gridEcc (h k w : Nat) (s : State) : State :=
  fusEvent h 0x0906 [.id1 h, .val8 k, .code1 2] (fusErr h 3 (modFus h (fun f => { f with grid := tabSet dNat f.grid w 0 }) s))

/-- Step 1: the sh fields take effect. -/
def fusBoundary (h : Nat) (s : State) : State :=
  (List.range 32).foldl (fun s e => srcCommit h e s) ([0x1C, 0x20, 0x24].foldl (fun s r => commit (fusReg h r) s) s)

/-- The close of the instant that is next, `struck` being grid words with a double-bit error. -/
def closeInstant (h : Nat) (struck : List Nat) (s : State) : State :=
  let s := fusBoundary h s
  let k := (getFus s h).next
  let s := if injLive s 0x0901 h then gridEcc h k 0 (injUse s) else s
  let s := struck.foldl (fun s w => gridEcc h k (w % 2 ^ 20) s) s
  let par := fusPar s h
  let i := getInst s h k
  let egoOn := (getFus s h).srcs.any fun e => e.2.active && bit (leAt e.2.raw 3 1) 0
  let (rec_, s) := readPrior h s
  let (pose, status, sc, byRec) := estimate par (getFus s h) k rec_ i.pts egoOn
  let s := if status = 0 then s else fusEvent h 0x0905 [.id1 h, .val8 k, .code1 status] s
  let s := modFus h (fun f => { f with poses := (pose :: f.poses).take 17, egoLast := status }) s
  let di := shiftOf (getFus s h).edge pose.x
  let dj := shiftOf (getFus s h).edge pose.y
  let moved := !(di == 0 && dj == 0)
  let s := if moved then modFus h (fun f => recentre f di dj) s else s
  let f := decayRun par ((getFus s h).tov k) (k % 1024 * 1024) 1024 (getFus s h)
  let ins := i.pts.foldl (insertPt par k) { f }
  let s := modFus h (fun _ => { ins.f with poses := ins.f.poses.take 16 }) s
  let (sf, s) := snapshot h k par s
  let i := getInst s h k
  let f := getFus s h
  let r : FusRec :=
    { age := oldestAge s h k i.pts, conflicts := ins.conflicts, score := sc, points := ins.points,
      flags := b2n (!i.failed) + 2 * b2n moved + 4 * b2n i.overflow + sf, ego := status + 4 * b2n byRec,
      digestPtr := if bit sf 4 then leAt f.setup 88 8 + 32 * (k % f.snapDepth) else 0 }
  let s := writeResult h k (r.bytes f k i (f.poses.headD pose)) s
  let s := i.pts.foldl (fun s q => modSensor h q.sensor (fun x =>
    { x with newest := some (match x.newest with | some t => max t q.tp | none => q.tp) }) s) s
  let now := hubTime s h
  let late := (getFus s h).tov (k + 1) + (getFus s h).lag < now
  let s := modFus h (fun f => { f with next := k + 1, closed := k, fin := now, cuts := (f.cutoff :: f.cuts).take 16, insts := f.insts.filter (k < ·.1) }) s
  if late then fusEvent h 0x0904 [.id1 h, .val8 k] (fusErr h 4 s) else s

def doInstantClose (t h : Nat) (struck : List Nat) (s : State) : State :=
  let s := advance t s
  if h < 2 && atBoundary s h then closeInstant h struck s else s

/-- INSTANT_CLOSE (R304): the close of the next instant, from its cutoff to its record, done at `t`; grid words that the
close finds with a double-bit error are `struck`. -/
def execInstantClose (t h : Nat) (struck : List Nat) (s : State) : Host.Outcome State Fault Refusal :=
  .next (doInstantClose t h struck s)

/-! ## Slices of the shared engines (R116) -/

def doSliceEnd (t eng h : Nat) (s : State) : State :=
  let s := advance t s
  if h < 2 then (if eng = 0 then sdlSliceEnd h s else if eng = 1 then fusSliceEnd h s else s) else s

/-- SLICE_END (R116): a slice of the hub's seedling engine (0) or fusion engine (1) ends. The crypto unit's turns end
within CRYPTO_TURN. -/
def execSliceEnd (t eng h : Nat) (s : State) : Host.Outcome State Fault Refusal := .next (doSliceEnd t eng h s)

end Sys2Proof.Machine
end

