-- ==== Sys2Proof/Machine/Heel.lean ====
section
/-!
DEFINITION. Heel.lean: the steps of a heel-in and of a replant after their start (R97 to R105, R182 to R184), and core
moves (R105, R423).
-/
namespace Sys2Proof.Machine

/-! ## The heel-in area (Tables 3.3 to 3.5) -/

/-- Offset of core block `i`. -/
def blockOff (i : Nat) : Nat := 0x1000 + i * 0x382000

/-- A byte whose bits are given lowest first. -/
def byteOf (l : List Bool) : Byte := BitVec.ofNat 8 (l.foldr (fun b a => 2 * a + b2n b) 0)

/-- A number as a little-endian bit string of `n` bytes, bit `i` set where `f i`. -/
def bitBytes (n : Nat) (f : Nat → Bool) : List Byte :=
  (List.range n).map fun i => byteOf ((List.range 8).map fun b => f (8 * i + b))

/-- The tensor instruction that still generates tiles. -/
def Core.generating (c : Core) : Option Run := c.runs.getLast?.filter fun r => !r.expanded

/-- Progress record of an instruction stopped inside (Table 5.11), and its opcode. -/
def Core.progress (c : Core) : Option (Nat × List Byte) :=
  match c.walk with
  | some w =>
    let op := opOf w.word
    some (op, fit 64 (toBytes 1 op ++ [1] ++ zeros 2 ++ toBytes 4 0 ++ toBytes 4 0 ++ toBytes 4 w.sub ++ toBytes 2 w.gen ++
      toBytes 1 w.replays ++ [0] ++ toBytes 4 w.entry ++ toBytes 4 w.first))
  | none =>
    match c.runs.getLast? with
    | some r =>
      let op := opOf r.word
      some (op, fit 64 (toBytes 1 op ++ [1] ++ zeros 2 ++ toBytes 4 r.next ++ toBytes 4 r.blocks))
    | none => none

/-- Current seam slot of a side as a byte of the state area. -/
def seamByte : Option Nat → List Byte
  | some k => toBytes 1 (0x80 + k % 2)
  | none => [0]

/-- A tile queue entry (Table 4.3). The slot of a waiting leaf is the part's own: `free`. -/
def tileBytes (c : Core) (t : Tile) (free : Nat) : List Byte :=
  match c.run? t.run with
  | none => zeros 32
  | some r =>
    let p := r.plan
    let b := t.block
    let m0 := (p.rowsOf b).headD 0
    let n0 := (p.colsOf b).headD 0
    let (_, j) := p.seq.getD t.k (0, 0)
    let act := if p.conv then p.ta.base else p.ta.base + p.ta.rowOff [if p.transA then 32 * j else m0, (p.at_ b).1, 0, 0] +
      (if p.transA then m0 else 32 * j) * p.ta.ebits / 8
    let wt := if p.transB then p.tb.base + p.tb.rowOff [32 * j, (p.at_ b).1, 0, 0] + n0 * p.tb.ebits / 8
      else p.tb.base + p.tb.rowOff [n0, (p.at_ b).1, 0, 0] + 32 * j * p.tb.ebits / 8
    let sc := if p.ta.sf ≠ 0 then p.ta.scaleOff else if p.tb.sf ≠ 0 then p.tb.scaleOff else 0
    toBytes 4 t.tile ++ toBytes 2 ((p.at_ b).2.1) ++ toBytes 2 ((p.at_ b).2.2) ++ toBytes 2 j ++
      toBytes 1 (p.rowsOf b).length ++ toBytes 1 (p.tb.fmt + 16 * p.ta.fmt) ++ toBytes 1 c.idx ++
      toBytes 1 (if t.st = .waiting then 4 else 1) ++ [0] ++ toBytes 1 (if t.st = .waiting then free % 32 else 0) ++
      toBytes 4 act ++ toBytes 4 wt ++ toBytes 4 sc ++ toBytes 4 (p.dAddr b m0)

/-- The state area of a core block, 8 KiB (Table 3.5). -/
def stateArea (c : Core) (free : Nat) : List Byte :=
  let (op, rec_) := match c.progress with | some x => x | none => (0, zeros 64)
  let valid := c.progress.isSome
  let td (n : Nat) : List Byte := toBytes 64 (tabGet (fun _ => (0 : DescWord)) c.t n).toNat
  let d (x : DescWord) : List Byte := toBytes 64 x.toNat
  let copies := match c.walk, c.generating with
    | some w, _ => if opOf w.word = 0x25 then fit 512 (d w.td ++ d w.ta ++ d w.tb)
        else fit 512 (zeros 256 ++ d w.td ++ d w.ta ++ d w.tb)
    | none, some r => fit 512 (d r.td ++ d r.ta ++ d r.tb ++ d r.tc)
    | none, none => zeros 512
  let dma (l : List DmaEnt) : List Byte :=
    fit 1024 ((l.filter (·.data.isNone)).flatMap fun e => fit 64 (Config.dmaImage e.num e.src.toNat e.dst.toNat))
  fit 64 (toBytes 6 c.live.toNat ++ zeros 2 ++ toBytes 4 c.pc ++ toBytes 1 op ++ toBytes 1 (b2n valid)) ++ rec_ ++
    ((List.range 32).flatMap fun r => toBytes 8 (c.getS r).toNat) ++
    fit 128 (fit 64 (toBytes 8 c.numctl ++ toBytes 8 c.numstat.toNat ++ toBytes 4 c.srCount ++ toBytes 4 c.amaxT.toNat ++
      seamByte c.seamU ++ seamByte c.seamL) ++
      ((List.range 8).flatMap fun _ => toBytes 8 (c.cblSrc.getD 0))) ++
    ((List.range 16).flatMap td) ++ copies ++ dma c.dma0 ++ dma c.dma1 ++
    fit 2048 (c.tiles.flatMap fun t => tileBytes c t free) ++
    fit 256 (c.loops.reverse.flatMap fun l => toBytes 4 l.start ++ toBytes 4 l.stop ++ toBytes 8 l.left) ++
    fit 128 (c.calls.reverse.flatMap fun a => toBytes 4 a) ++
    ((List.range 16).flatMap fun q =>
      let x := c.getCred q
      toBytes 8 x.acquired ++ toBytes 8 x.released ++ toBytes 2 x.depth ++ toBytes 1 x.peer ++
        toBytes 1 (b2n x.isOpen + 2 * b2n x.consumer) ++ zeros 4) ++
    zeros 256 ++ bitBytes 1024 (fun i => tabGet dBool c.accValid i)

/-- Live banks, rising. -/
def Core.liveBanks (c : Core) : List Nat := (List.range 48).filter fun b => c.live.getLsbD b

/-- Bytes a core block writes (R100). -/
def Core.blockBytes (c : Core) : Nat := 0x82000 + 0x10000 * c.liveBanks.length

/-- The core writes its block at `a` (R100); the error of the first line that cannot be written. -/
def writeBlock (p a : Nat) (c : Core) (s : State) : Option MemErr × State :=
  let (free, s) := takeFree s
  let staging := if c.blocks.isEmpty && c.tiles.all (·.st = .queued) then zeros 0x40000
    else fit 0x40000 (Config.stagingImage free)
  let (e, s) := writePart p a (stateArea c free ++ getBytes c.acc 0 0x40000 ++ staging) (.hub 1) s
  c.liveBanks.foldl (fun (x : Option MemErr × State) b =>
    let (e, s) := writePart p (a + 0x82000 + 0x10000 * b) (getBytes c.sp (0x10000 * b) 0x10000) (.hub 1) x.2
    (x.1.or e, s)) (e, s)

/-! ## Stop points (R98, R133, R137, R182) -/

/-- Tiles in an engine or lent are queued again; their leaves are dropped (Table 4.4). -/
def Tile.requeue (t : Tile) : Tile :=
  match t.st with
  | .inEngine _ => { t with st := .queued, leaf := [], counts := [], trap := false }
  | .lent _ => { t with st := .queued, leaf := [], counts := [], trap := false }
  | _ => t

/-- A core stops: instructions that wait are withdrawn, and its own tiles are queued again (R182). -/
def Core.stopNow (c : Core) : Core :=
  let c := { c with stop := .stopped, tiles := c.tiles.map Tile.requeue, glean := {} }
  match c.waits with
  | .bar _ => { c with waits := .ready }
  | .yielded => { c with waits := .ready }
  | .released => { c with waits := .ready, pc := c.pc + 1 }
  | _ => c

/-- Tiles a gleaning core holds go back to their owners' queues; work on this core's tiles elsewhere is discarded. -/
def giveBack (g : Nat) (s : State) : State :=
  let s := (getCore s g).glean.held.foldl (fun s x =>
    modCore x.1 (fun c => { c with tiles := c.tiles.map fun t => if t.run = x.2.1 && t.tile = x.2.2 then t.requeue else t }) s) s
  let c := getCore s g
  (getCtx s c.part c.slot).place.foldl (fun s o =>
    modCore o (fun k => { k with glean := { k.glean with held := k.glean.held.filter (·.1 ≠ g),
                                                         asked := k.glean.asked.filter (· ≠ g) } }) s) s

def doStopPointReached (t g : Nat) (s : State) : State :=
  let s := advance t s
  if (getCore s g).role ≠ .free ∧ (getCore s g).stop = .requested then
    modCore g Core.stopNow (giveBack g s)
  else s

/-- STOP_POINT_REACHED (R98, R182): the core stops; what waits in it is withdrawn. -/
def execStopPointReached (t g : Nat) (s : State) : Host.Outcome State Fault Refusal := .next (doStopPointReached t g s)

/-! ## Draining (R97) -/

/-- A started DMA entry of core `o` moves data into or out of core `g`. -/
def dmaTouches (s : State) (o g : Nat) : Bool :=
  let c := getCore s o
  (c.dma0 ++ c.dma1).any fun e => e.data.isSome &&
    (o = g || dmaCore s o (Td.of e.src) = g || dmaCore s o (Td.of e.dst) = g)

/-- No transfer into or out of the core is in flight. -/
def drained (s : State) (g : Nat) : Bool :=
  let c := getCore s g
  (getCtx s c.part c.slot).place.all fun o => !dmaTouches s o g

def doDrainDone (t g : Nat) (s : State) : State :=
  let s := advance t s
  let c := getCore s g
  if c.stop = .stopped && drained s g then
    let x := getCtx s c.part c.slot
    if x.cause = .coreMove then modCore g (fun k => { k with stop := .saved }) s
    else
      let (e, s) := writeBlock c.part (x.heelAddr + blockOff c.idx) c s
      match e with
      | some e => settle (coreMemErr g e s)
      | none =>
        modCtx c.part c.slot (fun y => { y with heelBytes := y.heelBytes + c.blockBytes })
          (modCore g (fun k => { k with stop := .saved }) s)
  else s

/-- DRAIN_DONE (R97 steps 3 and 4): the core's transfers have completed; it writes its core block. -/
def execDrainDone (t g : Nat) (s : State) : Host.Outcome State Fault Refusal := .next (doDrainDone t g s)

/-! ## The header and the end of a heel-in -/

/-- SEMA requests kept queued: the lowest-indexed core's, as the header shows it (Table 3.4). -/
def waitField (s : State) (c : Ctx) : Nat :=
  match c.place.findSome? fun g => match (getCore s g).waits, (getCore s g).word with
      | .sema _, some w => some (semOf w + 2 ^ 10 * semaOp w + 2 ^ 13 * semaCond w)
      | _, _ => none with
  | some v => v
  | none => 2 ^ 64 - 1

/-- The heel-in header (Table 3.4). -/
def heelHeader (s : State) (p slot : Nat) : List Byte :=
  let c := getCtx s p slot
  let l := match c.launch with
    | none => zeros 64
    | some l =>
      let left := if l.budget = 0 then 0xFFFFFFFF else l.budget - l.ran / 1000
      fit 64 (toBytes 2 l.tag ++ toBytes 1 l.opcode ++ toBytes 1 (b2n (bit l.flags 4)) ++ toBytes 4 left ++
        toBytes 8 l.seed ++ toBytes 8 l.resultAddr ++ toBytes 8 l.digestAddr)
  fit 4096 (fit 64 (toBytes 4 0x48454C31 ++ toBytes 2 1 ++ toBytes 1 p ++ toBytes 1 slot ++ toBytes 1 c.prio ++
    toBytes 1 c.cause.code ++ toBytes 2 c.cores ++ zeros 4 ++ toBytes 8 (c.seq + 1) ++ toBytes 8 (hubTime s 0) ++
    toBytes 8 (c.heelBytes + 4096)) ++ l ++ toBytes 8 (ofBits (owned s p slot)) ++ toBytes 8 (waitField s c))

/-- The context is out of its cores: HEELED, or HELD where a PREEMPT holds it; its PREEMPTs complete (R64, R97). -/
def heelEnd (p slot : Nat) (s : State) : State :=
  let c := getCtx s p slot
  let ns := s.clk - c.began
  let bytes := c.heelBytes + 4096
  let snap := c.place.map (getCore s)
  let s := releaseCores p slot s
  let s := modCtx p slot (fun c =>
    { c with st := if c.hold then .held else .heeled, before := .heeled, saved := snap, heelHeld := true,
             seq := c.seq + 1, readyTime := s.clk, heelIns := satAdd 64 c.heelIns 1, heelNs := satAdd 64 c.heelNs ns,
             lastHeelNs := min ns (2 ^ 32 - 1), preempts := [], heelFor := none }) s
  let s := modPart p (fun x =>
    { x with nPrio := satAdd 64 x.nPrio (b2n (c.cause = .priority)),
             nQuantum := satAdd 64 x.nQuantum (b2n (c.cause = .quantum)), heelBytes := satAdd 64 x.heelBytes bytes }) s
  let s := c.preempts.foldl (fun s i => finish i 0x0002 0 (min ns 0xFFFFFFFF) 0 s) s
  settle (changed s)

def doHeelInDone (t p slot : Nat) (s : State) : State :=
  let s := advance t s
  let c := getCtx s p slot
  if c.st = .heeling && c.cause ≠ .coreMove && c.place.all fun g => (getCore s g).stop = .saved then
    let (e, s) := writePart p c.heelAddr (heelHeader s p slot) (.hub 1) s
    match e, c.place.head? with
    | some e, some g => settle (coreMemErr g e s)
    | _, _ => heelEnd p slot s
  else s

/-- HEEL_IN_DONE (R97 steps 5 and 6): the header is written last; the cores are released. -/
def execHeelInDone (t p slot : Nat) (s : State) : Host.Outcome State Fault Refusal := .next (doHeelInDone t p slot s)

/-! ## Replant (R102, R103, R139, R184) -/

/-- A core with a restored state area, accumulators and banks: `k` is the physical core, `c` what was saved with it. -/
def restoreCore (k c : Core) (p slot idx : Nat) (area acc : List Byte) (banks : List (Nat × List Byte)) : Core :=
  let live := leAt area 0 6
  let at8 (o : Nat) : DWord := BitVec.ofNat 64 (leAt area o 8)
  let seam (o : Nat) : Option Nat := if bit (leAt area o 1) 7 then some (leAt area o 1 % 2) else none
  let treg : Tab DescWord := (List.range 16).foldl (fun t r =>
    tabSet (fun _ => (0 : DescWord)) t r (BitVec.ofNat 512 (leAt area (0x200 + 64 * r) 64))) []
  let bankValid : Tab Bool := banks.foldl (fun t b =>
    (List.range 1024).foldl (fun t l => tabSet dBool t (1024 * b.1 + l) true) t) []
  let blkValid : Tab Bool := (List.range 4096).foldl (fun t i =>
    if bit (leAt area (0x1C00 + i / 8) 1) (i % 8) then tabSet dBool t i true else t) []
  { c with
    role := .placed, failed := k.failed, cnt := k.cnt, lastTest := k.lastTest, part := p, slot, idx, stop := .go,
    pc := leAt area 8 4,
    s := (List.range 31).foldl (fun t r => tabSet dDWord t (r + 1) (at8 (0x80 + 8 * (r + 1)))) [],
    t := treg,
    numctl := leAt area 0x180 8 % 16, numstat := at8 0x188, srCount := leAt area 0x190 4,
    amaxT := BitVec.ofNat 32 (leAt area 0x194 4), seamU := seam 0x198, seamL := seam 0x199,
    loops := (List.range c.loops.length).reverse.map fun i =>
      { start := leAt area (0x1800 + 16 * i) 4, stop := leAt area (0x1804 + 16 * i) 4, left := leAt area (0x1808 + 16 * i) 8 },
    calls := (List.range c.calls.length).reverse.map fun i => leAt area (0x1900 + 4 * i) 4,
    live := BitVec.ofNat 48 live, ecc := [],
    sp := banks.foldl (fun t b => putBytes t (0x10000 * b.1) b.2) [],
    spValid := bankValid,
    acc := putBytes [] 0 acc,
    accValid := blkValid,
    icache := [], kvCache := [], glean := {} }

/-- The codebook store comes back from the recorded source (R100, R184). -/
def Core.reloadCode (c : Core) : Core :=
  match c.cblSrc with
  | none => c
  | some a =>
    let code := ((unpack 16 (getBytes c.sp a 2048)).zip (List.range 1024)).foldl
      (fun t x => tabSet dCode t x.2 (BitVec.ofNat 16 x.1)) []
    { c with code }

/-- One live bank joins those read so far. -/
def addBank (k : Nat) (l : List (Nat × List Byte)) (r : Except MemErr (List Byte) × State) :
    Except MemErr (List (Nat × List Byte)) × State :=
  (match r.1 with
    | .error e => .error e
    | .ok bs => .ok (l ++ [(k, bs)]), r.2)

/-- The live banks of a core's block, each 64 KiB, read in rising order. -/
def readBanks (p a : Nat) (live : List Nat) (s : State) : Except MemErr (List (Nat × List Byte)) × State :=
  live.foldl (fun acc k => match acc.1 with
    | .error _ => acc
    | .ok l => addBank k l (readPart p (0x82000 + 0x10000 * k + a) 0x10000 (.hub 1) acc.2)) (.ok [], s)

/-- The core takes the state area, the accumulators and the banks read. -/
def seatCore (p slot i g : Nat) (b : List Byte) (r : Except MemErr (List (Nat × List Byte)) × State) :
    Option MemErr × State :=
  match r.1 with
  | .error e => (some e, r.2)
  | .ok banks =>
    let c := (getCtx r.2 p slot).saved.getD i {}
    (none, modCore g (fun k =>
      (restoreCore k c p slot i (b.take 0x2000) ((b.drop 0x2000).take 0x40000) banks).reloadCode) r.2)

/-- The first part of the block, read: the state area and the accumulators; the live banks follow. -/
def seatBlock (p slot i g a : Nat) (r : Except MemErr (List Byte) × State) : Option MemErr × State :=
  match r.1 with
  | .error e => (some e, r.2)
  | .ok b => seatCore p slot i g b (readBanks p a ((List.range 48).filter (bit (leAt b 0 6))) r.2)

/-- One core block is read back onto core `g`. -/
def replantCore (p slot i g : Nat) (s : State) : Option MemErr × State :=
  let a := (getCtx s p slot).heelAddr + blockOff i
  seatBlock p slot i g a (readPart p a 0x82000 (.hub 1) s)

/-- The header agrees with PRT's own table (R102); an injection may have altered the sequence number read. -/
def headerOk (s : State) (p slot : Nat) (h : List Byte) (seq : Nat) : Bool :=
  leAt h 0 4 = 0x48454C31 && leAt h 4 2 = 1 && leAt h 6 1 = p && leAt h 7 1 = slot && seq = (getCtx s p slot).seq

/-- A replant meets an uncorrectable line or a failed MAC (R114), or a refused access. -/
def replantErr (p slot : Nat) (e : MemErr) (s : State) : State :=
  let (st, de, info, aux) := memStatus s 0 0 e
  settle (teardown p slot st de info aux none s)

/-- Outcomes kept by PRT retire the cores' SEMA (R182). -/
def applyKept (p slot : Nat) (s : State) : State :=
  let c := getCtx s p slot
  let s := c.kept.foldl (fun s k => match c.place[k.1]? with
    | some g => modCore g (fun x => x.retireSema k.2.1 k.2.2) s
    | none => s) s
  modCtx p slot (fun c => { c with kept := [], served := false }) s

/-- The context runs again; a hold that came meanwhile heels it in (Table 3.2). -/
def runAgain (p slot : Nat) (s : State) : State :=
  let s := refreshBlocked p slot (startClock p slot (modCtx p slot (fun c => { c with st := .running }) s))
  settle (changed (if (getCtx s p slot).hold then heelNow p slot .preempt s else s))

/-- Every core of the context is restored, in context-relative order, until one meets an error. -/
def replantCores (p slot : Nat) (s : State) : Option MemErr × State :=
  let l := (getCtx s p slot).place
  (l.zip (List.range l.length)).foldl (fun (x : Option MemErr × State) g =>
    match x.1 with
    | some _ => x
    | none => replantCore p slot g.2 g.1 x.2) (none, s)

def replantDone (p slot : Nat) (s : State) : State :=
  let c := getCtx s p slot
  match readPart p c.heelAddr 4096 (.hub 1) s with
  | (.error e, s) => replantErr p slot e s
  | (.ok h, s) =>
    let inj := injLive s 0x0302 p
    let seq := if inj then (leAt h 16 8 + 1) % 2 ^ 64 else leAt h 16 8
    let s := if inj then injUse s else s
    if !headerOk s p slot h seq then
      let s := record 0 0x0305 [.id1 p, .id1 slot, .val4 seq, .val4 c.seq] p slot (prtErr 2 p s)
      settle (teardown p slot 0x0200 0 0 c.heelAddr none s)
    else
      match replantCores p slot s with
      | (some e, s) => replantErr p slot e s
      | (none, s) =>
        let s := applyKept p slot (replantSpills p slot s)
        let s := modCtx p slot (fun c =>
          { c with saved := [], heelHeld := false, replants := satAdd 64 c.replants 1,
                   replantNs := satAdd 64 c.replantNs (s.clk - c.began) }) s
        runAgain p slot s

def doReplantDone (t p slot : Nat) (s : State) : State :=
  let s := advance t s
  if (getCtx s p slot).st = .replanting then replantDone p slot s else s

/-- REPLANT_DONE (R102, R103, R139, R184): header checked, blocks restored, and the context goes on. -/
def execReplantDone (t p slot : Nat) (s : State) : Host.Outcome State Fault Refusal := .next (doReplantDone t p slot s)

/-! ## Core moves (R105, R423) -/

/-- A core is the spare of its die. -/
def isSpare (s : State) (g : Nat) : Bool := (getDie s (g / 32)).spare = some (g % 32)

/-- The stopped core's state passes to core `sp`; the context restarts with `sp` in its place (R105). The core freed is
the spare and under test where `sp` was the spare, and free where it was not (R279). -/
def coreMove (g sp p slot : Nat) (s : State) : State :=
  let c := getCore s g
  let s := modCore sp (fun k =>
    { c with failed := k.failed, cnt := k.cnt, lastTest := k.lastTest, role := .placed, icache := [], kvCache := [] }) s
  let test := isSpare s sp
  let s := modCore g (fun k => { k.cleared with role := if test then .underTest else .free }) s
  let s := if test then modDie (g / 32) (fun d => { d with spare := some (g % 32) }) s else s
  let s := modCtx p slot (fun x =>
    { x with place := x.place.map fun k => if k = g then sp else k, moving := none,
             heelIns := satAdd 64 x.heelIns 1, heelNs := satAdd 64 x.heelNs (s.clk - x.began),
             lastHeelNs := min (s.clk - x.began) (2 ^ 32 - 1) }) s
  let s := (getCtx s p slot).place.foldl (fun s k => modCore k (fun k => { k with stop := .go }) s) s
  runAgain p slot (applyKept p slot s)

/-- A core under scan test begins its 1.8 ms (R423). -/
def beginScan (g part : Nat) (s : State) : State :=
  let d := g / 32
  modIsl (d / 2) (fun i =>
    if d % 2 = 0 then { i with scanLo := some (g, part, s.clk) } else { i with scanHi := some (g, part, s.clk) }) s

def doCoreMove (t g : Nat) (s : State) : State :=
  let s := advance t s
  let p := (getCore s g).part
  let slot := (getCore s g).slot
  let c := getCtx s p slot
  match c.moving with
  | none => s
  | some (k, sp) =>
    if k = g && c.st = .heeling && c.cause = .coreMove && c.place.all fun o => (getCore s o).stop = .saved then
      coreMove g sp p slot (if isSpare s sp then beginScan g p s else s)
    else s

/-- CORE_MOVE (R105, R279): a core of a stopped context passes to the die's spare, and its scan test begins; in a change to
PARKED it passes to a free core of CD0 quadrant 0. -/
def execCoreMove (t g : Nat) (s : State) : Host.Outcome State Fault Refusal := .next (doCoreMove t g s)

end Sys2Proof.Machine
end

