-- ==== Sys2Proof/Machine/HostReset.lean ====
section
/-!
DEFINITION. HostReset.lean: function level resets, port resets and SR-IOV enables (R44, R78, R79).
-/
namespace Sys2Proof.Machine

/-- PERST_N of a hub's port, as sampled. -/
def setPerst (hub : Nat) (v : Bool) (s : State) : State :=
  { s with pwr := { s.pwr with perst := tabSet dBool s.pwr.perst hub v } }

/-- No wait and no import of a partition is of an abandoned descriptor any more. -/
def dropWaits (ids : List Nat) (p : Part) : Part :=
  let importing := match p.sec.importing with
    | some (i, b) => if ids.elem i then none else some (i, b)
    | none => none
  { p with waits := p.waits.filter (fun w => match w.who with | .desc i => !ids.elem i | _ => true),
           sec := { p.sec with importing } }

/-- The descriptors of a function are abandoned: no completion is written for them, and none of them waits on (R78). -/
def abandon (fn : Nat) (s : State) : State :=
  let ids := (s.hif.inflight.filter (·.fn = fn)).map (·.id)
  let keys := s.prt.parts.map (·.1)
  keys.foldl (fun s p => modPart p (dropWaits ids) s) (setInflight (s.hif.inflight.filter (·.fn ≠ fn)) s)

/-- Every register of a range holds its reset value again. -/
def resetRegs (base len : Nat) (s : State) : State :=
  { s with regs := tabErase s.regs base len, eff := tabErase s.eff base len, latch := tabErase s.latch base len }

/-- R78 on a VF: rings off, descriptors abandoned, contexts destroyed by force, its window as after reset and the
counters of its QUERY answer cleared (R82). -/
def vfReset (p : Nat) (s : State) : State :=
  let s := ringsOff p (abandon p s)
  let s := slots.foldl (fun s k => destroyForced p k none s) s
  modFn p (fun _ => {}) (resetRegs (Blk.fn p).base 0x4000 s)

def doVfFlr (t p : Nat) (s : State) : State :=
  let s := advance t s
  if 1 ≤ p ∧ p ≤ 32 then settle (eventFor p (fnHub s p) 0x0206 [.id1 p] (vfReset p s)) else s

/-- VF_FLR (R78): event 0x0206. -/
def execVfFlr (t p : Nat) (s : State) : Host.Outcome State Fault Refusal := .next (doVfFlr t p s)

/-- The PF of a link clears VF Enable: R78 on every VF of the link (R79). -/
def clearVfs (link : Nat) (s : State) : State :=
  let s := modPLink link (fun l => { l with vfEnable := false }) s
  (mappedTo s link).foldl (fun s p => vfReset p s) s

/-- R79 on the PF of a link: the management PF's admin rings are disabled and their completions abandoned. -/
def pfReset (link : Nat) (s : State) : State :=
  clearVfs link (if s.fuse.mpfLink = link then ringsOff 0 (abandon 0 s) else s)

/-- The counters of a function's QUERY answer are cleared (R82). -/
def clearCounts (fn : Nat) (s : State) : State :=
  modFn fn (fun f => { f with completed := 0, dbDiscarded := 0, msixSent := 0, linkLost := 0 }) s

def doPfFlr (t link : Nat) (s : State) : State :=
  let s := advance t s
  if linkExists s link then
    let s := pfReset link s
    if s.fuse.mpfLink = link then settle (event (linkHub link) 0x0206 [.id1 0] (clearCounts 0 s))
    else
      let (v, s) := takeFree s
      settle (event (linkHub link) 0x0206 [.id1 (v % 256)] s)
  else s

/-- PF_FLR (R79): event 0x0206; a carrier PF has no function number, and what the event carries for it is a free value. -/
def execPfFlr (t link : Nat) (s : State) : Host.Outcome State Fault Refusal := .next (doPfFlr t link s)

/-- R79 on every link of a port, which retrains. -/
def portReset (hub : Nat) (s : State) : State :=
  [2 * hub, 2 * hub + 1].foldl (fun s n =>
    if linkExists s n then
      modPLink n (fun l => { l with up := false, speed := 0, width := 0, flit := false, l0p := false, ide := false }) (pfReset n s)
    else s) s

def doPortReset (t hub : Nat) (perst : Bool) (s : State) : State :=
  let s := portReset hub (advance t s)
  settle (if perst then setPerst hub true s else s)

/-- PORT_RESET (R79): a hot reset, or with `perst` the assertion of the port's PERST_N. -/
def execPortReset (t hub : Nat) (perst : Bool) (s : State) : Host.Outcome State Fault Refusal :=
  .next (doPortReset t hub perst s)

def doVfEnableWrite (t link : Nat) (en : Bool) (num : Nat) (s : State) : State :=
  let s := advance t s
  if linkExists s link then
    let s := modPLink link (fun l => { l with numVfs := num }) s
    if en then modPLink link (fun l => { l with vfEnable := true }) s
    else if (getPLink s link).vfEnable then settle (clearVfs link s)
    else s
  else s

/-- VF_ENABLE_WRITE (R44, R79): VF Enable and NumVFs of a link's PF; clearing VF Enable applies R78. -/
def execVfEnableWrite (t link : Nat) (en : Bool) (num : Nat) (s : State) : Host.Outcome State Fault Refusal :=
  .next (doVfEnableWrite t link en num s)

end Sys2Proof.Machine
end

