-- ==== Sys2Proof/Machine/Islands.lean ====
section
/-!
DEFINITION. Islands.lean: the safety islands (spec/14): monitored streams and their verdicts, detections and the safe
state, the CAN FD controller, swatches, the rolling test and the island's own tests.
-/
namespace Sys2Proof.Machine

/-! ## Registers and tables -/

def safReg (i rel : Nat) : Nat := (Blk.saf i).base + rel
def islErr (i b : Nat) (s : State) : State := stick (safReg i 0x18) b 6 none s

def dSs (_ : Nat) : SafStr := {}
def getSs (s : State) (i n : Nat) : SafStr := tabGet dSs (getIsl s i).strs n
def modSs (i n : Nat) (f : SafStr → SafStr) (s : State) : State :=
  modIsl i (fun x => { x with strs := tabMod dSs x.strs n f }) s

/-- The island runs: RUN, with its clock. -/
def islRuns (s : State) (i : Nat) : Bool := (getIsl s i).st = .run && !(getIsl s i).noClock

/-- A stream that is set names partition `p` (R401). -/
def SafStr.names (x : SafStr) (p : Nat) : Bool := x.st ≠ .off && (x.cfg.partA = p || (x.cfg.partB ≠ 0 && x.cfg.partB = p))

/-- The island has a stream that names the partition. -/
def islNames (s : State) (i p : Nat) : Bool := (getIsl s i).strs.any fun e => e.2.names p

/-- Partition of a stream's channel: 0 A, 1 B. -/
def SafCfg.part (c : SafCfg) (ch : Nat) : Nat := if ch = 0 then c.partA else c.partB

/-- An event of a stream carries its channel A partition. -/
def ssEvent (i n code : Nat) (items : List Item) (s : State) : State :=
  record i code items (getSs s i n).cfg.partA 0xFF s

/-! ## Tolerance programs (R404, R405) -/

def nOps (prog : List Byte) : Nat := leAt prog 6 1
def safGrace (prog : List Byte) : Nat := leAt prog 7 1
def missLimit (prog : List Byte) : Nat := leAt prog 8 1
def depAction (prog : List Byte) : Nat := leAt prog 9 1
/-- Ingest stream `n` of hub `h` is a dependency. -/
def dependsOn (prog : List Byte) (h n : Nat) : Bool := bit (leAt prog (if h = 0 then 12 else 18) 6) n
def quietOff (prog : List Byte) : Nat := leAt prog 24 4 * 1000
def quietLen (prog : List Byte) : Nat := leAt prog 28 4 * 1000
def swatchSlot (prog : List Byte) (ch : Nat) : Nat := leAt prog (32 + ch) 1
def swatchAddr (prog : List Byte) (ch : Nat) : Nat := leAt prog (40 + 8 * ch) 8

/-- Field `f` of a record (R405). -/
def recField (r : List Byte) (f : Nat) : Nat :=
  if f < 8 then leAt r (32 + 4 * f) 4
  else match f with
    | 8 => leAt r 8 4
    | 9 => leAt r 14 2
    | 10 => leAt r 16 4
    | _ => leAt r 20 4

/-- `x ≤ y`, false where either is a NaN. -/
def exLe (x y : Ex) : Bool := !x.isNan && !y.isNan && !y.lt x

/-- The greater of two values; a NaN where either is one. -/
def exMax (x y : Ex) : Ex := if x.isNan || y.isNan then .nan else if x.lt y then y else x

/-- |a − b|, exact. -/
def exDist (a b : Ex) : Ex := match a.add b.neg with | some v => v.abs | none => .nan

/-- An FP32 code as an ordered integer; the zeros are equal. -/
def ordInt (c : Nat) : Int := if bit c 31 then -((c % 2 ^ 31 : Nat) : Int) else (c : Int)

/-- An operation passes on fields `a` and `b` (Table 14.5); on a single channel `b` is `a`. -/
def opPasses (kind p0 p1 a b : Nat) : Bool :=
  let fp (n : Nat) : Ex := f32 (BitVec.ofNat 32 n)
  let fin := (fp a).finite && (fp b).finite
  match kind with
  | 1 => a = b
  | 2 => (a ^^^ b) &&& p0 = 0
  | 3 => ((sext 32 a - sext 32 b).natAbs : Int) ≤ sext 32 p0
  | 4 => fin && exLe (exDist (fp a) (fp b)) (fp p0)
  | 5 =>
    let rel := match (fp p0).mul (exMax (fp a).abs (fp b).abs) with | some v => v | none => .nan
    fin && exLe (exDist (fp a) (fp b)) (exMax (fp p1) rel)
  | 6 => fin && [a, b].all fun x => exLe (fp p0) (fp x) && exLe (fp x) (fp p1)
  | 7 => [a, b].all fun x => sext 32 p0 ≤ sext 32 x && sext 32 x ≤ sext 32 p1
  | _ => !(fp a).isNan && !(fp b).isNan && (ordInt a - ordInt b).natAbs ≤ p0

/-- An operation of a program is well formed (R405). -/
def opOk (o : List Byte) (single : Bool) : Bool :=
  let k := leAt o 0 1
  let fp (n : Nat) : Ex := f32 (BitVec.ofNat 32 n)
  1 ≤ k && k ≤ 8 && leAt o 1 1 ≤ 11 && restZero o [(0, 2), (4, 8)] && (!single || k = 6 || k = 7) &&
    !(k = 6 && (fp (leAt o 8 4)).lt (fp (leAt o 4 4))) && !(k = 7 && sext 32 (leAt o 8 4) < sext 32 (leAt o 4 4))

/-- Operation `i` of a program. -/
def opAt (prog : List Byte) (i : Nat) : List Byte := (prog.drop (64 + 16 * i)).take 16

/-- A program is readable and well formed (Table 14.4, Table 14.5). -/
def progOk (prog : List Byte) (single : Bool) : Bool :=
  let slotOk (v : Nat) : Bool := v < 16 || v = 0xFF
  64 + 16 * nOps prog ≤ prog.length && leAt prog 0 4 = 0x53414631 && leAt prog 4 2 = 1 && nOps prog ≤ 60 &&
    safGrace prog ≤ 3 && missLimit prog ≤ 15 && depAction prog ≤ 1 && slotOk (swatchSlot prog 0) && slotOk (swatchSlot prog 1) &&
    restZero (prog.take 64) [(0, 10), (12, 12), (24, 10), (40, 16)] &&
    (List.range (nOps prog)).all fun i => opOk (opAt prog i) single

/-- The first operation that fails on a pair, or on a single record twice over. -/
def failingOp (prog a b : List Byte) : Option Nat :=
  (List.range (nOps prog)).find? fun i =>
    let o := opAt prog i
    !opPasses (leAt o 0 1) (leAt o 4 4) (leAt o 8 4) (recField a (leAt o 1 1)) (recField b (leAt o 1 1))

/-! ## CAN FD (R416, R417) -/

/-- The data of a frame (Table 14.9). -/
def canData (s : State) (i : Nat) : List Byte :=
  let x := getIsl s i
  let safe := x.st = .safe
  let inj := (safe && x.injected) || x.degraded.any (·.2.2)
  let b := toBytes 1 i ++ toBytes 1 (if safe then x.cause else 0) ++
    toBytes 1 (if safe && x.causeStr ≠ 0x7F then x.causeStr else 0xFF) ++
    toBytes 1 (b2n inj + 2 * b2n (!x.degraded.isEmpty) + 4 * b2n safe) ++
    toBytes 8 (if safe then x.decision else hubTime s i) ++ toBytes 2 x.canCount ++ toBytes 1 (min x.restarts 255)
  b ++ toBytes 1 (crc8 b)

/-- The controller goes bus-off: event 0x0B0B, a CAN_BUSOFF detection (R416). -/
def goBusOff (i : Nat) (s : State) : State :=
  event i 0x0B0B [.id1 i] (islErr i 1 (modIsl i (fun x => { x with busOff := true }) s))

/-- A frame is sent, or spoilt by an injection; the profile commits between frames (R417, SAF_CAN). -/
def canSend (i : Nat) (s : State) : State :=
  let s := commit (safReg i 0x20) s
  let x := getIsl s i
  if fld s (safReg i 0x20) 24 1 = 0 ∨ x.busOff then s
  else if injStrikes s 0x0B0D i then
    let s := injSpend 0x0B0D i (modIsl i (fun x => { x with canErr := x.canErr + 8 }) s)
    if 256 ≤ (getIsl s i).canErr then goBusOff i s else s
  else
    let ident := if x.st = .safe then fld s (safReg i 0x20) 2 11 else fld s (safReg i 0x20) 13 11
    let s := send (.can i ident (canData s i)) s
    modIsl i (fun x => { x with canCount := (x.canCount + 1) % 65536, canLast := s.clk, canErr := x.canErr - 1 }) s

def doCanStatusFrame (t i : Nat) (s : State) : State :=
  let s := advance t s
  let x := getIsl s i
  if (x.st = .run || x.st = .safe) && x.canLast + 10000000 ≤ s.clk then canSend i s else s

/-- CAN_STATUS_FRAME (R417): every 10 ms a status frame, or the safe-state frame in its place. -/
def execCanStatusFrame (t i : Nat) (s : State) : Host.Outcome State Fault Refusal := .next (doCanStatusFrame t i s)

def doCanBusoff (t i : Nat) (s : State) : State :=
  let s := advance t s
  if fld s (safReg i 0x20) 24 1 = 1 ∧ !(getIsl s i).busOff then goBusOff i s else s

/-- CAN_BUSOFF (R416). FAULT_x_N is not released by it. -/
def execCanBusoff (t i : Nat) (s : State) : Host.Outcome State Fault Refusal := .next (doCanBusoff t i s)

def doCanBusoffRecovery (t i : Nat) (s : State) : State :=
  modIsl i (fun x => { x with busOff := false, canErr := if x.busOff then 0 else x.canErr }) (advance t s)

/-- CAN_BUSOFF_RECOVERY (R416): the controller joins the bus again. -/
def execCanBusoffRecovery (t i : Nat) (s : State) : Host.Outcome State Fault Refusal := .next (doCanBusoffRecovery t i s)

/-- CAN_RECEIVE (R416): a received frame is acknowledged and otherwise ignored. -/
def execCanReceive (t _i : Nat) (s : State) : Host.Outcome State Fault Refusal := .next (advance t s)

/-! ## Detections and the safe state (R411, R412) -/

/-- After a verdict the island writes bytes 12 and 13 of a record through the partition's key (R403). -/
def markRecord (part addr verdict : Nat) (s : State) : State :=
  let flags := if verdict = 0 then 0b011 else 0b100
  (writePart part (addr + 12) [BitVec.ofNat 8 flags, BitVec.ofNat 8 verdict] (.hub 1) s).2

/-- SAFE_STATE_ENTER: first cause, pins low, SAFE in every unmatched record, the safe-state frame, the other island told,
event 0x0B01 (R412). -/
def enterSafe (i cause n : Nat) (inj : Bool) (s : State) : State :=
  let now := hubTime s i
  let s := (getIsl s i).strs.foldl (fun s e => e.2.waiting.foldl (fun s w =>
    markRecord (e.2.cfg.part (b2n w.chanB)) w.addr 6 s) s) s
  let s := modIsl i (fun x =>
    { x with st := .safe, faultHigh := false, alive := false, cause, causeStr := n, injected := inj, decision := now,
             later := 0,
             strs := x.strs.map fun e => (e.1, if e.2.st = .off then e.2 else { e.2 with st := .safe, waiting := [] }) }) s
  let s := canSend i s
  let s := modIsl (1 - i) (fun x => { x with mail := x.mail ++ [1] }) s
  event i 0x0B01 [.id1 i, .code1 cause, .id1 n, .code1 (b2n inj)] s

/-- A detection whose action is "safe": the first enters the safe state, later ones are counted (R411, R412). An island
in reset or split detects nothing. -/
def detect (i cause n : Nat) (inj : Bool) (s : State) : State :=
  match (getIsl s i).st with
  | .run => enterSafe i cause n inj s
  | .startup => enterSafe i cause n inj s
  | .safe => modIsl i (fun x => { x with later := x.later + 1 }) s
  | .reset => s
  | .split => s

/-- A degraded detection is outstanding from now on (R411). -/
def degrade (i cause subject : Nat) (inj : Bool) (s : State) : State :=
  modIsl i (fun x =>
    { x with degraded := if x.degraded.any (fun e => e.1 = cause && e.2.1 = subject) then x.degraded
                         else x.degraded ++ [(cause, subject, inj)] }) s

/-- A degraded detection is settled. -/
def restore (i cause subject : Nat) (s : State) : State :=
  modIsl i (fun x => { x with degraded := x.degraded.filter fun e => !(e.1 = cause && e.2.1 = subject) }) s

/-- Both islands. -/
def eachIsland (f : Nat → State → State) (s : State) : State := f 1 (f 0 s)

/-! ## SAFETY_CFG (R400, R401) -/

/-- A stream as SAFETY_CFG sees it: its configuration, or the one that waits for the restart. -/
def SafStr.view (x : SafStr) : Option SafCfg :=
  match x.next with
  | some c => c
  | none => if x.st = .off then none else some x.cfg

/-- The conditions of Table 14.2 that need no program, in order; a remove ends with the third. -/
def safetyFields (s : State) (d : Desc) : Option Refused :=
  let i := d.u 8 1
  let n := d.u 9 1
  let op := d.u 10 1
  let pa := d.u 12 1
  let pb := d.u 13 1
  let other := match (getSs s (1 - i) n).view with
    | none => false
    | some c => c.partA = pa || (pb ≠ 0 && c.partA = pb) || (c.partB ≠ 0 && (c.partB = pa || c.partB = pb))
  let safety (p : Nat) : Bool := (getPart s p).st = 1 && (getPart s p).safety
  let set := op = 0
  firstOf [(1 < i || (getIsl s i).st = .split, bad 8), (63 < n || other, bad 9),
    (1 < op || (op = 1 && (getSs s i n).view.isNone), bad 10), (set && !safety pa, bad 12),
    (set && pb ≠ 0 && (!safety pb || pb = pa), bad 13), (set && 10000000 < d.u 16 4, bad 16),
    (set && 10000000 < d.u 20 4, bad 20)]

/-- The conditions of Table 14.2, in order. -/
def safetyCheck (prog : List Byte) (s : State) (d : Desc) : Option Refused :=
  let set := d.u 10 1 = 0
  (safetyFields s d).or (firstOf [(set && !progOk prog (d.u 13 1 = 0), bad 24),
    (set && d.u 32 4 ≠ 64 + 16 * nOps prog, bad 32)])

/-- What the descriptor sets. -/
def safetyCfg (prog : List Byte) (d : Desc) : SafCfg :=
  { partA := d.u 12 1, partB := d.u 13 1, maxAge := d.u 16 4, period := d.u 20 4, prog := prog.take (64 + 16 * nOps prog),
    swatchN := if d.u 36 2 = 0 then 64 else d.u 36 2, swatchM := if d.u 38 1 = 0 then 8 else d.u 38 1 }

/-- Deadline counted from now: period and a quarter (R408). -/
def deadlineFrom (s : State) (i : Nat) (c : SafCfg) : Nat := hubTime s i + c.period * 1250

/-- INIT, or DEGRADED while a dependency is STALE. -/
def ssFresh (stale : List (Nat × Nat)) : StrSt := if stale.isEmpty then .init else .degraded

/-- A configuration takes effect: the stream restarts in INIT with its counters clear; or it is removed (R400). -/
def applyCfg (i n : Nat) (c : Option SafCfg) (s : State) : State :=
  match c with
  | none => modSs i n (fun _ => {}) s
  | some c =>
    let stale := (getIsl s i).staleAll.filter fun e => dependsOn c.prog e.1 e.2
    modSs i n (fun _ => { st := ssFresh stale, cfg := c, stale, deadline := deadlineFrom s i c }) s

def safetyBody (prog : List Byte) (d : Desc) (s : State) : State :=
  let i := d.u 8 1
  let n := d.u 9 1
  let c := if d.u 10 1 = 0 then some (safetyCfg prog d) else none
  finishOk d.id (if (getIsl s i).st = .safe then modSs i n (fun x => { x with next := some c }) s else applyCfg i n c s)

def doSafetyCfg (t id : Nat) (prog : List Byte) (s : State) : State :=
  runScion t id 0x15 (safetyCheck prog) (safetyBody prog) s

/-- SAFETY_CFG (R400): `prog` is what the island reads at prog_addr. -/
def execSafetyCfg (t id : Nat) (prog : List Byte) (s : State) : Host.Outcome State Fault Refusal :=
  .next (doSafetyCfg t id prog s)

/-- The streams of a partition that is destroyed are removed, waiting configurations with them (R87). -/
def removeStreams (p : Nat) (s : State) : State :=
  eachIsland (fun i s => (getIsl s i).strs.foldl (fun s e =>
    let later := match e.2.next with | some (some c) => c.partA = p || (c.partB ≠ 0 && c.partB = p) | _ => false
    if e.2.names p then modSs i e.1 (fun _ => {}) s
    else if later then modSs i e.1 (fun x => { x with next := none }) s
    else s) s) s

/-! ## Swatches (R418 to R421) -/

def SafStr.sw (x : SafStr) (ch : Nat) : Swatch := if ch = 0 then x.swA else x.swB
def modSw (i n ch : Nat) (f : Swatch → Swatch) (s : State) : State :=
  modSs i n (fun x => if ch = 0 then { x with swA := f x.swA } else { x with swB := f x.swB }) s

/-- Subject of a stream channel's SWATCH_OVERDUE. -/
def swSubject (n ch : Nat) : Nat := 2 * n + ch

/-- A swatch fails: event 0x0B06 and a SWATCH_FAIL detection (R421). -/
def swatchFail (i n ch : Nat) (inj : Bool) (s : State) : State :=
  let c := (getSs s i n).cfg
  let s := record i 0x0B06 [.id1 i, .id1 (c.part ch), .id1 (swatchSlot c.prog ch)] (c.part ch) 0xFF s
  detect i 0x14 n inj s

/-- The swatch becomes due: its record is read, and an unreadable one or a wrong version fails it (R418). -/
def swatchDue (i n ch : Nat) (s : State) : State :=
  let c := (getSs s i n).cfg
  let inj := injLive s 0x0B07 (64 * i + n)
  let (r, s) := readPart (c.part ch) (swatchAddr c.prog ch) 64 (.hub 1) s
  match r with
  | .error _ => swatchFail i n ch false (modSw i n ch (fun w => { w with due := true }) s)
  | .ok b =>
    let b := if inj then patch b 32 [(b.getD 32 0) ^^^ 1] else b
    let s := modSw i n ch (fun w => { w with due := true, data := b, inj, since := 0, deferrals := 0, overdue := false }) s
    let s := if inj then injUse s else s
    if leAt b 0 2 = 1 then s else swatchFail i n ch false s

/-- The LAUNCH of a swatch (R420). -/
def swatchLaunch (i n ch : Nat) (b : List Byte) : Launch :=
  { desc := none, opcode := 1, flags := 8, prog := leAt b 8 8, argsAddr := leAt b 16 8, argsLen := leAt b 4 4,
    seed := leAt b 24 8, swatch := some (i, n, ch) }

/-- The swatch may start by itself: slot IDLE at P0, free cores, no other P0 context READY (R419). -/
def swatchMay (s : State) (p slot : Nat) : Bool :=
  let c := getCtx s p slot
  c.st = .idle && c.prio = 0 && c.cores ≤ freeCount s p &&
    slots.all fun k => k = slot || !((getCtx s p k).st = .ready && (getCtx s p k).prio = 0)

/-- A later record of the channel: the swatch is started, forced or deferred, and may be overdue (R419). -/
def swatchTry (i n ch : Nat) (s : State) : State :=
  let s := modSw i n ch (fun w => { w with since := w.since + 1 }) s
  let x := getSs s i n
  let p := x.cfg.part ch
  let slot := swatchSlot x.cfg.prog ch
  let c := getCtx s p slot
  let w := x.sw ch
  let s :=
    if c.launch.bind (·.swatch) = some (i, n, ch) ∨ w.result.isSome then s
    else if injStrikes s 0x0B0A (64 * i + n) then
      injSpend 0x0B0A (64 * i + n) (modSw i n ch (fun w => { w with deferrals := w.deferrals + 1, inj := true }) s)
    else if swatchMay s p slot ∨ (x.cfg.swatchM ≤ w.deferrals ∧ c.st = .idle ∧ c.prio = 0) then
      makeReady p slot (swatchLaunch i n ch w.data) s
    else modSw i n ch (fun w => { w with deferrals := w.deferrals + 1 }) s
  let w := (getSs s i n).sw ch
  if 2 * x.cfg.swatchM ≤ w.since ∧ !w.overdue then
    let s := record i 0x0B07 [.id1 i, .id1 p, .val4 w.since] p 0xFF (islErr i 3 s)
    let s := modSw i n ch (fun w => { w with overdue := true }) s
    degrade i 0x20 (swSubject n ch) w.inj (modSs i n (fun x => { x with nOverdue := satAdd 8 x.nOverdue 1 }) s)
  else s

/-- A record of the channel counts towards its swatch. -/
def swatchCount (i n ch : Nat) (s : State) : State :=
  let x := getSs s i n
  if swatchSlot x.cfg.prog ch = 0xFF then s
  else if (x.sw ch).due then swatchTry i n ch s
  else
    let s := modSw i n ch (fun w => { w with records := w.records + 1 }) s
    if x.cfg.swatchN ≤ (x.sw ch).records + 1 then swatchDue i n ch s else s

def doSwatchDone (t i n ch : Nat) (s : State) : State :=
  let s := advance t s
  let w := (getSs s i n).sw ch
  match w.result with
  | none => s
  | some (status, dig) =>
    if status = 0 ∧ dig = (w.data.drop 32).take 32 then
      restore i 0x20 (swSubject n ch)
        (modSs i n (fun x => { x with runs := satAdd 16 x.runs 1 }) (modSw i n ch (fun _ => {}) s))
    else swatchFail i n ch w.inj (modSw i n ch (fun w => { w with result := none }) s)

/-- SWATCH_DONE (R421): the island judges the status and output digest of a completed swatch. -/
def execSwatchDone (t i n ch : Nat) (s : State) : Host.Outcome State Fault Refusal := .next (doSwatchDone t i n ch s)

/-! ## Records and verdicts (R402 to R410) -/

/-- UNMATCHED for one record (R407). -/
def unmatched (i n : Nat) (w : Unmatched) (s : State) : State :=
  let c := (getSs s i n).cfg
  let s := markRecord (c.part (b2n w.chanB)) w.addr 7 s
  modSs i n (fun x => { x with nMiss := satAdd 16 x.nMiss 1 }) s

/-- Verdict and failing operation of a pair, or of a single record (R406). -/
def verdict (x : SafStr) (a b : List Byte) (age : Nat) : Nat × Option Nat :=
  let two := x.cfg.partB ≠ 0
  if two ∧ (leAt a 12 2 ≠ 0 ∨ leAt b 12 2 ≠ 0) then (2, none)
  else if two ∧ leAt a 0 8 ≠ leAt b 0 8 then (3, none)
  else match failingOp x.cfg.prog a b with
    | some k => (1, some k)
    | none =>
      if x.cfg.maxAge ≠ 0 ∧ x.cfg.maxAge < age then (4, none)
      else if depAction x.cfg.prog = 0 ∧ !x.stale.isEmpty then (5, none)
      else (0, none)

/-- A pass: counted, deadline moved, quiet window declared (R407, R408, R422). -/
def passed (i n : Nat) (s : State) : State :=
  let now := hubTime s i
  modSs i n (fun x =>
    let q := quietLen x.cfg.prog
    let start := now + quietOff x.cfg.prog
    { x with pass := (x.pass + 1) % 2 ^ 32, mism := 0, misses := 0, deadline := deadlineFrom s i x.cfg,
             quietFrom := if q = 0 then 0 else start, quietTo := if q = 0 then 0 else start + q, quiet := false,
             st := if x.st = .init then .run else x.st }) s

/-- A mismatch verdict: event 0x0B02; beyond grace a MISMATCH detection (R407). The operation reported for a verdict that
no operation gave is open. -/
def mismatched (i n seq v : Nat) (op : Option Nat) (inj : Bool) (s : State) : State :=
  let s := modSs i n (fun x => { x with mism := x.mism + 1, nMism := satAdd 16 x.nMism 1 }) s
  let (o, s) := match op with | some k => (k, s) | none => takeFree s
  let s := ssEvent i n 0x0B02 [.id1 i, .id1 n, .val4 seq, .code1 o, .code1 v] s
  let x := getSs s i n
  if safGrace x.cfg.prog < x.mism then detect i 0x10 n inj s else s

/-- An age above max_age_us: event 0x0B03 and an AGE detection (R409). -/
def tooOld (i n seq age : Nat) (inj : Bool) (s : State) : State :=
  detect i 0x11 n inj (ssEvent i n 0x0B03 [.id1 i, .id1 n, .val4 seq, .val4 (min age (2 ^ 32 - 1))] s)

/-- The comparator's verdict on the records of a pair, A first, or on a single one (R403, R406). -/
def judge (i n : Nat) (recs : List Unmatched) (s : State) : State :=
  let x := getSs s i n
  match recs with
  | [] => s
  | r :: rest =>
    let a := r.data
    let b := match rest with | w :: _ => w.data | [] => r.data
    let seq := leAt a 24 8
    let injAge := injLive s 0x0B06 (64 * i + n)
    let age := (hubTime s i - leAt a 0 8) / 1000 + max (leAt a 8 4) (leAt b 8 4) + if injAge then injArg s else 0
    let s := if injAge then injUse s else s
    let (v, op) := verdict x a b age
    let inj := injAge || recs.any (·.inj)
    let s := modSs i n (fun x => { x with lastAge := min (age / 1000) 65535, lastSeq := some seq }) s
    let s := if x.cfg.partB = 0 then s
      else recs.foldl (fun s w => markRecord (x.cfg.part (b2n w.chanB)) w.addr v s) s
    match v with
    | 0 => passed i n s
    | 4 => tooOld i n seq age inj s
    | 5 => s
    | _ => mismatched i n seq v op inj s

/-- Records that wait at or below the seq of the last pair judged get UNMATCHED (R407). -/
def dropPast (i n : Nat) (s : State) : State :=
  let x := getSs s i n
  match x.lastSeq with
  | none => s
  | some q =>
    let old := x.waiting.filter fun w => leAt w.data 24 8 ≤ q
    let s := modSs i n (fun x => { x with waiting := x.waiting.filter fun w => q < leAt w.data 24 8 }) s
    old.foldl (fun s w => unmatched i n w s) s

/-- A record joins the unmatched ones; the fifth of a channel drives out the oldest (R407). -/
def keepRecord (i n : Nat) (w : Unmatched) (s : State) : State :=
  let mine := (getSs s i n).waiting.filter fun o => o.chanB = w.chanB
  let s := match mine with
    | o :: _ => if mine.length < 4 then s
        else unmatched i n o (modSs i n (fun x => { x with waiting := x.waiting.erase o }) s)
    | [] => s
  modSs i n (fun x => { x with waiting := x.waiting ++ [w] }) s

/-- A record of a two-channel stream: paired by seq, or kept (R407). -/
def pairRecord (i n : Nat) (w : Unmatched) (s : State) : State :=
  let x := getSs s i n
  let seq := leAt w.data 24 8
  let past := match x.lastSeq with | some q => decide (seq ≤ q) | none => false
  if past then unmatched i n w s
  else
    match x.waiting.find? fun o => o.chanB ≠ w.chanB && leAt o.data 24 8 = seq with
    | none => keepRecord i n w s
    | some o =>
      let s := modSs i n (fun x => { x with waiting := x.waiting.erase o }) s
      dropPast i n (judge i n (if w.chanB then [o, w] else [w, o]) s)

/-- SAFE for a record, where the island writes records of the stream at all (R403, R412). -/
def safeRecord (i n : Nat) (w : Unmatched) (s : State) : State :=
  if (getSs s i n).cfg.partB = 0 then s else markRecord ((getSs s i n).cfg.part (b2n w.chanB)) w.addr 6 s

/-- A record of a stream of an island in RUN. -/
def takeRecord (i n : Nat) (w : Unmatched) (s : State) : State :=
  let s := swatchCount i n (b2n w.chanB) s
  if (getSs s i n).st = .safe then safeRecord i n w s
  else if (getSs s i n).cfg.partB = 0 then judge i n [w] s
  else pairRecord i n w s

/-- A record arrives at its island (R401, R412): injections first, then by the island's state. -/
def receiveRecord (i : Nat) (r : ResRec) (s : State) : State :=
  let n := r.stream
  let x := getSs s i n
  if !x.names r.part then s
  else
    let chanB := x.cfg.partA ≠ r.part
    let k := 64 * i + n
    match (getIsl s i).st with
    | .run =>
      if !chanB && injStrikes s 0x0B09 k then injSpend 0x0B09 k s
      else
        let flip := chanB && injLive s 0x0B05 k
        let s := if flip then injUse s else s
        let data := if flip then patch r.data 32 [(r.data.getD 32 0) ^^^ 1] else r.data
        takeRecord i n { chanB, data, addr := r.addr, at_ := hubTime s i, inj := flip } s
    | .safe => if x.cfg.partB = 0 then s else markRecord r.part r.addr 6 s
    | .reset => s
    | .startup => s
    | .split => s

def doResultRecord (t i : Nat) (s : State) : State :=
  let s := advance t s
  match s.records.find? (·.island = i) with
  | none => s
  | some r =>
    if (getIsl s i).noClock then s
    else settle (receiveRecord i r { s with records := s.records.erase r })

/-- RESULT_RECORD (R401 to R409, R418 to R420): the island takes the oldest record on its way to it. -/
def execResultRecord (t i : Nat) (s : State) : Host.Outcome State Fault Refusal := .next (doResultRecord t i s)

/-- How long a record waits for its partner, ns (R407). -/
def SafCfg.patience (c : SafCfg) : Option Nat :=
  let lim := if c.period = 0 then c.maxAge else c.period
  if lim = 0 then none else some (lim * 1000)

/-- A record has waited for its partner longer than the stream lets it at hub time `now`. -/
def SafCfg.tired (c : SafCfg) (now : Nat) (w : Unmatched) : Bool :=
  match c.patience with
  | some p => w.at_ + p < now
  | none => false

def doUnmatchedExpiry (t i n : Nat) (s : State) : State :=
  let s := advance t s
  let x := getSs s i n
  let now := hubTime s i
  let late := x.waiting.filter (x.cfg.tired now)
  if islRuns s i then
    late.foldl (fun s w => unmatched i n w s) (modSs i n (fun x =>
      { x with waiting := x.waiting.filter fun w => !x.cfg.tired now w }) s)
  else s

/-- UNMATCHED_EXPIRY (R407): records that have waited too long get UNMATCHED. -/
def execUnmatchedExpiry (t i n : Nat) (s : State) : Host.Outcome State Fault Refusal := .next (doUnmatchedExpiry t i n s)

def doResultDeadline (t i n : Nat) (s : State) : State :=
  let s := advance t s
  let x := getSs s i n
  if islRuns s i ∧ x.st ≠ .off ∧ x.cfg.period ≠ 0 ∧ x.deadline ≤ hubTime s i then
    let inj := injActive s 0x0B09 (64 * i + n)
    let s := modSs i n (fun x =>
      { x with misses := x.misses + 1, nMiss := satAdd 16 x.nMiss 1, deadline := x.deadline + x.cfg.period * 1000 }) s
    let m := (getSs s i n).misses
    if missLimit x.cfg.prog < m then detect i 0x12 n inj (ssEvent i n 0x0B04 [.id1 i, .id1 n, .val4 m] s) else s
  else s

/-- RESULT_DEADLINE (R408): a miss; above miss_limit event 0x0B04 and a MISSED detection. -/
def execResultDeadline (t i n : Nat) (s : State) : Host.Outcome State Fault Refusal := .next (doResultDeadline t i n s)

/-- A dependency enters STALE, for one stream (R410). -/
def depStale (i n h k : Nat) (inj : Bool) (s : State) : State :=
  let x := getSs s i n
  if x.st ≠ .off ∧ dependsOn x.cfg.prog h k ∧ !x.stale.elem (h, k) then
    let s := modSs i n (fun x =>
      { x with stale := x.stale ++ [(h, k)], st := if x.st = .init || x.st = .run then .degraded else x.st }) s
    let s := ssEvent i n 0x0B05 [.id1 i, .id1 n, .id1 h, .id1 k] s
    if depAction x.cfg.prog = 1 then detect i 0x13 n inj s else s
  else s

/-- A dependency leaves STALE; with none left the stream returns to RUN (R410). -/
def depFresh (i n h k : Nat) (s : State) : State :=
  modSs i n (fun x =>
    let l := x.stale.filter (· ≠ (h, k))
    { x with stale := l, st := if x.st = .degraded && l.isEmpty && x.stale.elem (h, k) then .run else x.st }) s

def doStaleNotice (t i : Nat) (s : State) : State :=
  let s := advance t s
  let x := getIsl s i
  match x.inbox with
  | [] => s
  | (h, k, stale, inj) :: r =>
    if x.noClock then s
    else
      let others := x.staleAll.filter (· ≠ (h, k))
      let s := modIsl i (fun x => { x with inbox := r, staleAll := if stale then others ++ [(h, k)] else others }) s
      x.strs.foldl (fun s e => if stale then depStale i e.1 h k inj s else depFresh i e.1 h k s) s

/-- STALE_NOTICE (R300, R410): the island takes the oldest notice of ingest. -/
def execStaleNotice (t i : Nat) (s : State) : Host.Outcome State Fault Refusal := .next (doStaleNotice t i s)

/-! ## The island's own hardware (R390 to R399) -/

/-- Its cores run and its link sends. -/
def islAlive (s : State) (i : Nat) : Bool :=
  let x := getIsl s i
  (x.st = .startup || x.st = .run || x.st = .safe) && x.cmpOk && !x.noClock && !x.halted

def doLockstepError (t i : Nat) (s : State) : State :=
  let s := advance t s
  if islAlive s i then
    let inj := injLive s 0x0B01 i || injLive s 0x0B08 i
    detect i 0x01 0x7F inj s
  else s

/-- LOCKSTEP_ERROR (R391): hardware puts the island into the safe state. -/
def execLockstepError (t i : Nat) (s : State) : Host.Outcome State Fault Refusal := .next (doLockstepError t i s)

def doInputDisagreement (t i : Nat) (s : State) : State :=
  let s := advance t s
  if islAlive s i then detect i 0x01 0x7F (injLive s 0x0B02 i) s else s

/-- INPUT_DISAGREEMENT (R395): a disagreement of more than 16 cycles is a lock-step error. -/
def execInputDisagreement (t i : Nat) (s : State) : Host.Outcome State Fault Refusal := .next (doInputDisagreement t i s)

def doClockCheck (t i ppm ppmOther : Nat) (s : State) : State :=
  let s := advance t s
  if islAlive s i then
    let inj := injLive s 0x0B03 i
    let s := if inj then injUse s else s
    if 10000 < ppm + (if inj then 20000 else 0) ∨ 10000 < ppmOther then detect i 0x03 0x7F inj s else s
  else s

/-- CLOCK_CHECK (R396): deviations in ppm against the hub's AON clock and the other island's heartbeats; more than 1 % is
a CLOCK detection. -/
def execClockCheck (t i ppm ppmOther : Nat) (s : State) : Host.Outcome State Fault Refusal :=
  .next (doClockCheck t i ppm ppmOther s)

def doIslandHeartbeat (t i : Nat) (ok : Bool) (s : State) : State :=
  let s := advance t s
  if islAlive s i && (getIsl s i).beat + 50000 ≤ s.clk then
    let lost := injLive s 0x0B04 i || !ok
    let s := modIsl i (fun x => { x with beat := s.clk }) s
    if lost then s else modIsl (1 - i) (fun x => { x with heard := s.clk }) s
  else s

/-- ISLAND_HEARTBEAT (R397): island `i` sends; `ok` where its check holds at the other. -/
def execIslandHeartbeat (t i : Nat) (ok : Bool) (s : State) : Host.Outcome State Fault Refusal :=
  .next (doIslandHeartbeat t i ok s)

def doIslLinkLoss (t i : Nat) (s : State) : State :=
  let s := advance t s
  let x := getIsl s i
  if islAlive s i && x.st ≠ .startup && x.heard + 150000 ≤ s.clk then
    let inj := injActive s 0x0B04 (1 - i)
    let s := modIsl i (fun x => { x with heard := s.clk }) s
    detect i 0x04 0x7F inj (event i 0x0B0D [.id1 i] (islErr i 2 s))
  else s

/-- ISL_LINK_LOSS (R397): three heartbeats missing. -/
def execIslLinkLoss (t i : Nat) (s : State) : Host.Outcome State Fault Refusal := .next (doIslLinkLoss t i s)

def doIslandLinkMessage (t i : Nat) (ok : Bool) (s : State) : State :=
  let s := advance t s
  match (getIsl s i).mail with
  | [] => s
  | m :: r =>
    let s := modIsl i (fun x => { x with mail := r }) s
    if !ok then s
    else if m = 1 then modIsl i (fun x => { x with notices := x.notices + 1 }) s
    else detect i 0x06 0x7F false s

/-- ISLAND_LINK_MESSAGE (R415): a safe-state notice is recorded; a hub-reset or separation notice is HUB_OTHER. `ok` where
its check holds. -/
def execIslandLinkMessage (t i : Nat) (ok : Bool) (s : State) : Host.Outcome State Fault Refusal :=
  .next (doIslandLinkMessage t i ok s)

/-- Start-up begins with the comparator test; a split island runs no comparison (R392, R393, R398). -/
def startIsland (i : Nat) (cmpOk : Bool) (s : State) : State :=
  let s := modIsl i (fun x =>
    { x with st := if x.otpSplit then .split else .startup, faultHigh := false, alive := false, cmpOk, halted := false,
             noClock := false, cause := 0, causeStr := 0x7F, injected := false, decision := 0, later := 0 }) s
  if (getIsl s i).otpSplit ∨ cmpOk then s else enterSafe i 0x02 0x7F false s

def doIslandResetRelease (t i : Nat) (cmpOk : Bool) (s : State) : State :=
  let s := advance t s
  if (getIsl s i).st = .reset then startIsland i cmpOk s else s

/-- ISLAND_RESET_RELEASE (R392, R393, R398): `cmpOk` is the comparator test's outcome. -/
def execIslandResetRelease (t i : Nat) (cmpOk : Bool) (s : State) : Host.Outcome State Fault Refusal :=
  .next (doIslandResetRelease t i cmpOk s)

def doIslandRun (t i : Nat) (s : State) : State :=
  let s := advance t s
  let x := getIsl s i
  if x.st = .startup ∧ x.cmpOk ∧ !x.noClock ∧ s.sec.stage = 2 then
    let ddl (e : Nat × SafStr) : Nat × SafStr :=
      (e.1, if e.2.st = .off then e.2 else { e.2 with deadline := deadlineFrom s i e.2.cfg })
    modIsl i (fun x =>
      { x with st := .run, faultHigh := true, alive := true, heard := s.clk, beat := s.clk, lastTest := s.clk,
               canLast := s.clk, strs := x.strs.map ddl }) s
  else s

/-- ISLAND_RUN (R398, R432): start-up completes once SEC has loaded the verified image. -/
def execIslandRun (t i : Nat) (s : State) : Host.Outcome State Fault Refusal := .next (doIslandRun t i s)

/-- A restart returns each stream to INIT; configurations that waited take effect (R399, R400). -/
def restartStream (i n : Nat) (s : State) : State :=
  match (getSs s i n).next with
  | some c => applyCfg i n c s
  | none =>
    modSs i n (fun x =>
      if x.st = .off then x
      else { x with st := ssFresh x.stale, waiting := [], lastSeq := none, mism := 0, misses := 0, swA := {}, swB := {},
                    quietFrom := 0, quietTo := 0, quiet := false, deadline := deadlineFrom s i x.cfg }) s

def doIslandRestart (t i : Nat) (acc : Agent) (cmpOk : Bool) (s : State) : State :=
  let s := advance t s
  let x := getIsl s i
  if writeReaches s acc (safReg i 0x14) ∧ x.st ≠ .reset then
    let s := event i 0x0B0A [.id1 i, .code1 x.cause] s
    let s := modIsl i (fun x => { x with restarts := satAdd 16 x.restarts 1,
                                         degraded := x.degraded.filter (·.1 ≠ 0x20) }) s
    let s := x.strs.foldl (fun s e => restartStream i e.1 s) s
    startIsland i cmpOk s
  else s

/-- ISLAND_RESTART (R399): SAF_CMD.restart keeps every stream configuration and runs the start-up. -/
def execIslandRestart (t i : Nat) (acc : Agent) (cmpOk : Bool) (s : State) : Host.Outcome State Fault Refusal :=
  .next (doIslandRestart t i acc cmpOk s)

def doIslandResetAssert (t i : Nat) (s : State) : State :=
  let s := resetRegs (safReg i 0) 0x80000 (advance t s)
  modIsl i (fun x =>
    { otpSplit := x.otpSplit, restarts := x.restarts, staleAll := x.staleAll, inbox := x.inbox, rollLo := x.rollLo,
      rollHi := x.rollHi, scanLo := x.scanLo, scanHi := x.scanHi }) s

/-- ISLAND_RESET_ASSERT (R390, R398): the island is in reset, its pins low. -/
def execIslandResetAssert (t i : Nat) (s : State) : Host.Outcome State Fault Refusal := .next (doIslandResetAssert t i s)

def doIslandDebugHalt (t i : Nat) (s : State) : State :=
  let s := advance t s
  if 1 ≤ s.sec.debug ∧ islAlive s i then modIsl i (fun x => { x with halted := true }) (detect i 0x16 0x7F false s) else s

/-- ISLAND_DEBUG_HALT (R394): both cores halt; the safe state is entered with cause DEBUG. -/
def execIslandDebugHalt (t i : Nat) (s : State) : Host.Outcome State Fault Refusal := .next (doIslandDebugHalt t i s)

def doIslandDebugResume (t i : Nat) (step : Bool) (s : State) : State :=
  let s := advance t s
  if 1 ≤ s.sec.debug then modIsl i (fun x => { x with halted := x.halted && step }) s else s

/-- ISLAND_DEBUG_RESUME (R394): both cores go on, or halt again after one step; the safe state stays. -/
def execIslandDebugResume (t i : Nat) (step : Bool) (s : State) : Host.Outcome State Fault Refusal :=
  .next (doIslandDebugResume t i step s)

def doIslandPllUnlock (t i : Nat) (s : State) : State :=
  modIsl i (fun x => { x with noClock := true, faultHigh := false, alive := false }) (advance t s)

/-- ISLAND_PLL_UNLOCK (R396): ALIVE_x stops and the island's own circuit drives FAULT_x_N low. -/
def execIslandPllUnlock (t i : Nat) (s : State) : Host.Outcome State Fault Refusal := .next (doIslandPllUnlock t i s)

/-! ## Quiet windows and tests (R422 to R425) -/

/-- The stream is inside its quiet window with at least `left` ns of it left. -/
def inQuiet (s : State) (i n left : Nat) : Bool :=
  let x := getSs s i n
  x.quiet && x.quietFrom ≤ hubTime s i && hubTime s i + left ≤ x.quietTo

def doQuietWindowOpen (t i n : Nat) (s : State) : State :=
  let s := advance t s
  let x := getSs s i n
  if islRuns s i ∧ x.st ≠ .off ∧ x.quietFrom ≤ hubTime s i ∧ hubTime s i < x.quietTo then
    modSs i n (fun x => { x with quiet := true }) s
  else s

/-- QUIET_WINDOW_OPEN (R422). -/
def execQuietWindowOpen (t i n : Nat) (s : State) : Host.Outcome State Fault Refusal := .next (doQuietWindowOpen t i n s)

/-- Subject of the island's own COVERAGE detection. -/
def islSubject : Nat := 0xFF

def doIslandPeriodicTest (t i : Nat) (ecc : Bool) (s : State) : State :=
  let s := advance t s
  let x := getIsl s i
  let ok := x.strs.all fun e => e.2.st ≠ .run || inQuiet s i e.1 120000
  if islRuns s i ∧ x.lastTest + 100000000 ≤ s.clk ∧ ok then
    let s := modIsl i (fun x => { x with lastTest := s.clk, covered := x.covered.filter (· ≠ islSubject) }) s
    let s := restore i 0x21 islSubject s
    if ecc then detect i 0x07 0x7F false s else s
  else s

/-- ISLAND_PERIODIC_TEST (R422): `ecc` where the test meets a double-bit error of the island's SRAM. -/
def execIslandPeriodicTest (t i : Nat) (ecc : Bool) (s : State) : Host.Outcome State Fault Refusal :=
  .next (doIslandPeriodicTest t i ecc s)

/-- The test interval a SAF_TEST value stands for, ns; none where the test is off. -/
def intervalOf (s : State) (i : Nat) (w : Nat) : Option Nat :=
  if fld s (safReg i 0x10) 0 1 = 1 then
    let ms := bits w 16 16
    if ms = 0 then none else some (1000000 * max 500 ms)
  else match bits w 0 2 with
    | 0 => some 4000000000
    | 1 => some 2000000000
    | 2 => some 1000000000
    | _ => none

/-- The test interval in effect (SAF_TEST). -/
def testInterval (s : State) (i : Nat) : Option Nat := intervalOf s i (effGet s (safReg i 0x24)).toNat

/-- Cores of a die that are fused on and have not failed, in a powered quadrant. -/
def liveCores (s : State) (d : Nat) : List Nat :=
  ((List.range 32).filter fun c =>
    bit ((s.fuse.coreEn.getD d 0).toNat) c && !(getCore s (32 * d + c)).failed && quadOn s d (quadOf c)).map (32 * d + ·)

/-- The core's last test is older than the interval, or no test runs at all. -/
def overdue (s : State) (i g : Nat) : Bool :=
  match testInterval s i with
  | none => true
  | some n => (getCore s g).lastTest + n < s.clk

/-- COVERAGE for a core, once until its test completes (R425). -/
def coverCore (i g : Nat) (inj : Bool) (s : State) : State :=
  if (getIsl s i).covered.elem g then s
  else
    let s := event i 0x0B08 [.id1 i, .id1 (g / 32), .id1 (g % 32)] (islErr i 4 s)
    degrade i 0x21 g inj (modIsl i (fun x => { x with covered := x.covered ++ [g] }) s)

/-- The dies an island tests. -/
def islDies (i : Nat) : List Nat := [2 * i, 2 * i + 1]

/-- Subjects of `covered` are global cores, 0 to 127, and 0xFF for the island. -/
def coverIsland (i : Nat) (s : State) : State :=
  if (getIsl s i).covered.elem islSubject then s
  else
    let (die, s) := takeFree s
    let s := event i 0x0B08 [.id1 i, .id1 die, .id1 0xFF] (islErr i 4 s)
    degrade i 0x21 islSubject false (modIsl i (fun x => { x with covered := x.covered ++ [islSubject] }) s)

def doCoverageCheck (t i : Nat) (s : State) : State :=
  let s := advance t s
  if islRuns s i then
    let old := (islDies i).flatMap fun d => if dieUp s d then (liveCores s d).filter (overdue s i) else []
    let s := old.foldl (fun s g => coverCore i g false s) s
    if (getIsl s i).lastTest + 200000000 < s.clk then coverIsland i s else s
  else s

/-- COVERAGE_CHECK (R425). The die of the event of the island's own test is open. -/
def execCoverageCheck (t i : Nat) (s : State) : Host.Outcome State Fault Refusal := .next (doCoverageCheck t i s)

/-- A core move of partition `p` may stop a context now (R422). -/
def moveAllowed (s : State) (p : Nat) : Bool :=
  [0, 1].all fun i => (getIsl s i).strs.all fun e => !e.2.names p || inQuiet s i e.1 40000

/-- The scan test running on a die. -/
def scanOf (s : State) (d : Nat) : Option (Nat × Nat × Nat) :=
  let x := getIsl s (d / 2)
  if d % 2 = 0 then x.scanLo else x.scanHi

def clearScan (d : Nat) (s : State) : State :=
  modIsl (d / 2) (fun x => if d % 2 = 0 then { x with scanLo := none } else { x with scanHi := none }) s

/-- The enabled core, other than the spare, whose last test is oldest; the lowest on a tie (R423). -/
def oldestCore (s : State) (d : Nat) : Option Nat :=
  let l := (liveCores s d).filter fun g => (getDie s d).spare ≠ some (g % 32)
  (isort (fun a b => lt2 ((getCore s a).lastTest, a) ((getCore s b).lastTest, b)) l).head?

/-- A move of core `g` is under way. -/
def moving (s : State) (g : Nat) : Bool :=
  let c := getCore s g
  ((getCtx s c.part c.slot).moving.map (·.1)) = some g

/-- A test of core `g` starts: placed, it is moved onto the spare; free, the spare becomes free (R105, R423). -/
def startTest (g sp : Nat) (s : State) : State :=
  let c := getCore s g
  match c.role with
  | .free =>
    let s := modCore g (fun k => { k.cleared with role := .underTest }) s
    beginScan g 0 (modDie (g / 32) (fun d => { d with spare := some (g % 32), gated := false }) s)
  | .placed =>
    let x := getCtx s c.part c.slot
    if x.resident ∧ x.moving.isNone ∧ moveAllowed s c.part then
      modCtx c.part c.slot (fun x => { x with moving := some (g, sp) }) (heelNow c.part c.slot .coreMove s)
    else s
  | _ => s

/-- The core to test next and the spare it changes places with. On a die that lost its spare to gating the first free core
tested becomes the spare (R423, R475). -/
def nextTest (s : State) (d : Nat) : Option (Nat × Nat) :=
  match (getDie s d).spare with
  | some sp => (oldestCore s d).map fun g => (g, 32 * d + sp)
  | none =>
    if (getDie s d).gated && freeAlloc s d ≠ 0 then
      let l := (liveCores s d).filter fun g => (getCore s g).role = .free
      (isort (fun a b => lt2 ((getCore s a).lastTest, a) ((getCore s b).lastTest, b)) l).head?.map fun g => (g, g)
    else none

def doRollingTestStart (t d : Nat) (s : State) : State :=
  let s := advance t s
  let i := d / 2
  let last := if d % 2 = 0 then (getIsl s i).rollLo else (getIsl s i).rollHi
  let par := (testInterval s i).or (intervalOf s i (regGet s (safReg i 0x24)).toNat)
  match par, nextTest s d with
  | some n, some (g, sp) =>
    let inj := injLive s 0x0B0B d
    let due := last + n / max 1 (liveCores s d).length ≤ s.clk || (liveCores s d).any (overdue s i) || inj
    if islRuns s i ∧ dieUp s d ∧ (scanOf s d).isNone ∧ !moving s g ∧ due then
      let s := commit (safReg i 0x24) s
      let s := if inj then coverCore i g true (injUse s) else s
      let s := modIsl i (fun x => if d % 2 = 0 then { x with rollLo := s.clk } else { x with rollHi := s.clk }) s
      settle (startTest g sp s)
    else s
  | _, _ => s

/-- ROLLING_TEST_START (R422, R423): a test starts on die `d`; SAF_TEST commits. -/
def execRollingTestStart (t d : Nat) (s : State) : Host.Outcome State Fault Refusal := .next (doRollingTestStart t d s)

/-- A free allocatable core of the die, the highest; none where PRT_FREE is 0 (R424). -/
def newSpare (s : State) (d : Nat) : Option Nat :=
  if freeAlloc s d = 0 then none
  else (((List.range 32).filter fun c => (getCore s (32 * d + c)).role = .free).getLast?)

/-- The core failed: disabled until PORST_N, event 0x0B09, detections by whose partition it held, a new spare (R424). -/
def scanFailed (g part : Nat) (inj : Bool) (s : State) : State :=
  let d := g / 32
  let i := d / 2
  let s := modCore g (fun k => { role := .off, failed := true, cnt := k.cnt, lastTest := k.lastTest }) s
  let s := modDie d (fun x => { x with spare := none }) s
  let sp := newSpare s d
  let s := changed (modDie d (fun x => { x with spare := sp }) s)
  let hit (j : Nat) : Bool := part ≠ 0 && islNames s j part
  let s' := event i 0x0B09 [.id1 d, .id1 (g % 32), .id1 part] (islErr i 5 s)
  eachIsland (fun j s => if hit j then detect j 0x15 0x7F inj s else s) s'

def doScanTestDone (t g : Nat) (ok : Bool) (s : State) : State :=
  let s := advance t s
  let d := g / 32
  match scanOf s d with
  | none => s
  | some (k, part, began) =>
    if k = g ∧ began + 1800000 ≤ s.clk then
      let inj := injLive s 0x0405 g
      let s := clearScan d (if inj then injUse s else s)
      if ok ∧ !inj then
        let s := modCore g (fun k => { k.cleared with role := .free, lastTest := s.clk }) s
        let s := modIsl (d / 2) (fun x => { x with covered := x.covered.filter (· ≠ g) }) s
        settle (changed (restore (d / 2) 0x21 g (modDie d (fun x => { x with spare := some (g % 32) }) s)))
      else settle (scanFailed g part inj s)
    else s

/-- SCAN_TEST_DONE (R423, R424): after 1.8 ms the core is the die's spare, or is disabled. -/
def execScanTestDone (t g : Nat) (ok : Bool) (s : State) : Host.Outcome State Fault Refusal := .next (doScanTestDone t g ok s)

end Sys2Proof.Machine
end

