-- ==== Sys2Proof/Machine/Inject.lean ====
section
/-!
DEFINITION. Inject.lean: the injection fabric (R426, R427, Table 14.10). An injection that has taken effect is looked up
by the detectors themselves (`injLive`, `injActive`).
-/
namespace Sys2Proof.Machine

/-- The points of Table 14.10 in order, with the first instance and how many there are. -/
def injIndex : List (Nat × Nat × Nat) :=
  [(0x0201, 0, 4), (0x0301, 0, 1), (0x0302, 1, 32), (0x0401, 0, 128), (0x0402, 0, 128), (0x0403, 0, 128), (0x0404, 0, 4),
   (0x0405, 0, 128), (0x0501, 0, 4), (0x0502, 0, 32), (0x0503, 0, 8), (0x0504, 0, 8), (0x0601, 0, 32), (0x0602, 0, 32),
   (0x0603, 0, 32), (0x0604, 0, 32), (0x0606, 0, 32), (0x0701, 0, 24), (0x0702, 0, 24), (0x0703, 0, 2), (0x0704, 0, 96),
   (0x0705, 0, 96), (0x0706, 0, 96), (0x0707, 0, 8), (0x0901, 0, 2), (0x0A01, 0, 2), (0x0B01, 0, 2), (0x0B02, 0, 2),
   (0x0B03, 0, 2), (0x0B04, 0, 2), (0x0B05, 0, 128), (0x0B06, 0, 128), (0x0B07, 0, 128), (0x0B08, 0, 2), (0x0B09, 0, 128),
   (0x0B0A, 0, 128), (0x0B0B, 0, 4), (0x0B0C, 0, 2), (0x0B0D, 0, 2), (0x0B0E, 0, 2), (0x0C01, 0, 1), (0x0D01, 0, 56),
   (0x0D02, 0, 2), (0x0D03, 0, 14), (0x0E01, 0, 2), (0x0E02, 0, 2)]

/-- The point and instance are in the index. -/
def injKnown (pt inst : Nat) : Bool := injIndex.any fun e => e.1 = pt && e.2.1 ≤ inst && inst < e.2.1 + e.2.2

def injReg (rel : Nat) : Nat := Blk.inj.base + rel
def injErr (b pt : Nat) (s : State) : State := stick (injReg 8) b 3 (some (16, 16, pt)) s

/-- The detection timeout in effect, ns (INJ_CTRL). -/
def injTimeout (s : State) : Nat :=
  if fld s (injReg 4) 0 1 = 1 then 100000 * max 1 (eff s (injReg 4) 16 16)
  else match eff s (injReg 4) 2 2 with
    | 0 => 10000000
    | 1 => 1000000
    | 2 => 100000000
    | _ => 1000000000

def doInjFire (t : Nat) (acc : Agent) (s : State) : State :=
  let s := advance t s
  if writeReaches s acc (injReg 0x18) then
    let pt := fld s (injReg 0x10) 0 16
    let inst := fld s (injReg 0x10) 16 8
    let arg := (regGet s (injReg 0x14)).toNat
    if fld s (injReg 4) 1 1 = 0 ∨ !injKnown pt inst ∨ s.inj.busy.isSome then injErr 2 pt s
    else
      let s := commit (injReg 4) s
      let i : Injection := { point := pt, inst, arg, fired := hubTime s 0, effect := none, left := 0 }
      event 0 0x0F01 [.id2 pt, .id1 inst, .val4 arg] { s with inj := { s.inj with busy := some i, latency := 0, detected := false } }
  else s

/-- INJ_FIRE (R427): one injection of INJ_SEL and INJ_ARG, or refused. -/
def execInjFire (t : Nat) (acc : Agent) (s : State) : Host.Outcome State Fault Refusal := .next (doInjFire t acc s)

/-- Points that hold until their detection. -/
def injHolds (pt : Nat) : Bool :=
  [0x0501, 0x0504, 0x0A01, 0x0B04, 0x0D01, 0x0D02, 0x0D03, 0x0E01].elem pt

/-- Occasions an injection uses (Table 14.10). -/
def injCount (pt arg : Nat) : Nat :=
  if injHolds pt then 2 ^ 32
  else if injCounted pt then max 1 arg
  else 1

/-- Effects that no later occasion brings about: SRAM ECC of an island, its own-hub monitor, the CAN error counter. -/
def injNow (pt inst : Nat) (s : State) : State :=
  match pt with
  | 0x0B0C => detect inst 0x07 0x7F true s
  | 0x0B0E => detect inst 0x05 0x7F true s
  | 0x0B0D => modIsl inst (fun x => { x with canErr := 248 }) s
  | _ => s

def doInjectionEffect (t : Nat) (s : State) : State :=
  let s := advance t s
  match s.inj.busy with
  | none => s
  | some i =>
    if i.effect.isSome then s
    else
      let i' : Injection := { i with effect := some (hubTime s 0), left := injCount i.point i.arg }
      injNow i.point i.inst { s with inj := { s.inj with busy := some i' } }

/-- INJECTION_EFFECT (R427): the injection takes effect and its detection is timed. -/
def execInjectionEffect (t : Nat) (s : State) : Host.Outcome State Fault Refusal := .next (doInjectionEffect t s)

def doInjectionTimeout (t : Nat) (s : State) : State :=
  let s := advance t s
  match s.inj.busy with
  | none => s
  | some i =>
    match i.effect with
    | none => s
    | some e =>
      if e + injTimeout s ≤ hubTime s 0 then
        let s := { s with inj := { s.inj with busy := none, detected := false, rest := injAfter s i } }
        event 0 0x0F02 [.id2 i.point, .id1 i.inst] (injErr 1 i.point s)
      else s

/-- INJECTION_TIMEOUT (R427): no detection within the timeout. -/
def execInjectionTimeout (t : Nat) (s : State) : Host.Outcome State Fault Refusal := .next (doInjectionTimeout t s)

end Sys2Proof.Machine
end

