-- ==== Sys2Proof/Machine/Keys.lean ====
section
/-!
DEFINITION. Keys.lean: key import, policies and attestation (spec/15 R440, R441, R446 to R450).
-/
namespace Sys2Proof.Machine

/-! ## KEY_IMPORT (R440, Table 15.5) -/

def dKey (_ : Nat) : List Byte := []

/-- SEC_ERR: a sticky error with the reason of the first refusal. -/
def secErr (b reason : Nat) (s : State) : State :=
  let s := if fld s 0x2500004 1 4 = 0 then fldSet 0x2500004 8 8 reason s else s
  fldSet 0x2500004 b 1 1 s

/-- A KEY_IMPORT is refused: event 0x0A05 (R441 step 6, Table 15.11). -/
def importRefused (d : Desc) (status reason : Nat) (s : State) : State :=
  let p := d.part
  let s := modPart p (fun x => { x with sec := { x.sec with importing := none } }) s
  let s := record 0 0x0A05 [.id1 p, .id1 (d.u 8 1), .code1 reason] p 0xFF (secErr 3 reason s)
  finish d.id status 0 reason 0 s

/-- The header of a payload (Table 15.5). -/
def payloadOk (d : Desc) (b : List Byte) : Bool :=
  let slot := d.u 8 1
  let kind := d.u 9 1
  let wrapped := bit (leAt b 8 1) 0
  let n := leAt b 12 4
  let want : Bool := if kind = 1 then n = 32 else if slot = 0 then 128 ≤ n else n = 64
  leAt b 0 4 = 0x4B494D31 && leAt b 4 2 = 1 && leAt b 6 1 = kind && leAt b 7 1 = slot && leAt b 8 1 < 2 && want &&
    d.u 24 4 = (if wrapped then 1180 else 64) + n && d.u 24 4 ≤ b.length

/-- The body of a payload in the clear; none where decapsulation or the GCM check fails. -/
def payloadBody (s : State) (p : Nat) (b : List Byte) : Option (List Byte) :=
  let n := leAt b 12 4
  if bit (leAt b 8 1) 0 then
    let ss := Config.kemDecap (Config.random (getPart s p).sec.draw) ((b.drop 64).take 1088)
    let key := Config.kdf ss (b.take 64 ++ label "WALELO-IMPORT") 32
    Config.gcmOpen key ((b.drop 1152).take 12) (b.take 64) ((b.drop 1164).take n) ((b.drop (1164 + n)).take 16)
  else some ((b.drop 64).take n)

/-- Refusals of R440, in its order, with that of an erased UDS first (R453). -/
def importRefusal (s : State) (d : Desc) (b : List Byte) : Option Nat :=
  let x := getPart s d.part
  let slot := d.u 8 1
  let kind := d.u 9 1
  let owner := (b.drop 16).take 16
  if s.sec.udsErased then some 0x10
  else if !payloadOk d b then some 0x01
  else if x.confidential ∧ !bit (leAt b 8 1) 0 then some 0x03
  else if (kind = 1) ≠ (slot = 7) then some 0x03
  else match x.sec.owner with
    | some o => if o = owner then none else some 0x12
    | none => none

/-- Field checks of KEY_IMPORT (Table 2.6). -/
def importCheck (_ : State) (d : Desc) : Option Refused := firstOf [(7 < d.u 8 1, bad 8), (1 < d.u 9 1, bad 9)]

def importBody (payload : List Byte) (d : Desc) (s : State) : State :=
  let p := d.part
  let slot := d.u 8 1
  match importRefusal s d payload with
  | some r => importRefused d 0x0400 r s
  | none =>
    match payloadBody s p payload with
    | none => importRefused d 0x0401 0x02 s
    | some body =>
      let owner := (payload.drop 16).take 16
      let s := modPart p (fun x => { x with sec := { x.sec with owner := some owner } }) s
      if slot = 0 then modPart p (fun x => { x with sec := { x.sec with importing := some (d.id, body) } }) s
      else finishOk d.id (modPart p (fun x => { x with sec := { x.sec with slots := tabSet dKey x.sec.slots slot body } }) s)

def doKeyImport (t id : Nat) (payload : List Byte) (s : State) : State :=
  runDesc t id 0x19 importCheck (importBody payload) s

/-- KEY_IMPORT (R440): `payload` is what the host's memory holds at src. Slots 1 to 7 are filled at once; an import to
slot 0 goes on with POLICY_INSTALL. -/
def execKeyImport (t id : Nat) (payload : List Byte) (s : State) : Host.Outcome State Fault Refusal :=
  .next (doKeyImport t id payload s)

/-! ## Policies (R441, Tables 15.6 and 15.7) -/

/-- Region entry `i` of a policy. -/
def entryOf (pol : List Byte) (i : Nat) : Region :=
  let b := pol.drop (64 + 64 * i)
  { addr := leAt b 0 8, len := leAt b 8 8, mode := leAt b 16 1, keySlot := leAt b 17 1, digest := fit 32 ((b.drop 32).take 32) }

/-- A digest that is not checked. -/
def noDigest (r : Region) : Bool := r.digest = zeros 32

/-- An entry is within Table 15.6 and its range is mapped with both rights. -/
def entryOk (s : State) (p : Nat) (allowSeal : Bool) (r : Region) : Bool :=
  r.addr % 4096 = 0 && r.len % 4096 = 0 && r.len ≠ 0 && r.mode < 6 && (r.keySlot < 7 || r.keySlot = 0xFF) &&
    (r.mode < 2 || r.keySlot = 0xFF) && (r.mode < 4 || allowSeal) && r.addr + r.len ≤ partSpace && mapped s p r.addr r.len true

/-- No two regions overlap. -/
def apart : List Region → Bool
  | [] => true
  | r :: l => l.all (fun x => !r.meets x.addr x.len) && apart l

/-- The reason for which step 3 of R441 ends an import. -/
def policyRefusal (s : State) (p : Nat) (pol : List Byte) : Option Nat :=
  let x := getPart s p
  let n := leAt pol 6 1
  let rs := (List.range n).map (entryOf pol)
  let head := leAt pol 0 4 = 0x504F4C31 && leAt pol 4 2 = 1 && 1 ≤ n && n ≤ 32 && leAt pol 7 1 < 2 && pol.length = 64 + 64 * n
  let progs := rs.filter (·.mode = 0)
  if !head ∨ !rs.all (entryOk s p (bit (leAt pol 7 1) 0)) ∨ !apart rs then some 0x05
  else if rs.any (fun r => 1 ≤ r.keySlot && r.keySlot < 7 && (tabGet dKey x.sec.slots r.keySlot).isEmpty) then some 0x06
  else if x.confidential ∧ (progs.length ≠ 1 ∨ progs.any noDigest) then some 0x05
  else none

/-- What processing a region comes to. -/
inductive Processed where
  | done (digest : List Byte)
  | mismatch
  | failed (e : MemErr)
  deriving DecidableEq, Repr

/-- The XTS key of a region: of this import, of a slot, or the seal key for a sealed input (R441, R447). -/
def regionKey (s : State) (p : Nat) (key prog : List Byte) (r : Region) : Option (List Byte) :=
  if r.mode = 5 then some (sealKeyFor s p prog)
  else if r.keySlot = 0xFF then none
  else if r.keySlot = 0 then some key
  else some (tabGet dKey (getPart s p).sec.slots r.keySlot)

/-- One region of mode 0, 1 or 5: decrypted in place, digested, and zeroed where its digest differs (R441 step 5). -/
def processRegion (p : Nat) (key prog : List Byte) (r : Region) (s : State) : Processed × State :=
  match readPart p r.addr r.len (.hub 1) s with
  | (.error e, s) => (.failed e, s)
  | (.ok ct, s) =>
    let plain := match regionKey s p key prog r with
      | none => ct
      | some k => units 0 (Config.xtsOpen k) (r.len / 4096) ct
    let dig := sha3 plain
    let good := noDigest r || dig = r.digest
    match writePart p r.addr (if good then plain else zeros r.len) (.hub 1) s with
    | (some e, s) => (.failed e, s)
    | (none, s) => (if good then .done dig else .mismatch, s)

/-- The regions in entry order, with the digests found; the first that fails ends the import. -/
def processRegions (p : Nat) (key : List Byte) : List Region → (made : List Region) → State → Processed × List Region × State
  | [], made, s => (.done [], made, s)
  | r :: l, made, s =>
    if !r.readOnly then processRegions p key l (made ++ [r]) s
    else
      let prog := match ((made ++ [r] ++ l).find? (·.mode = 0)) with | some x => x.digest | none => zeros 32
      match processRegion p key prog r s with
      | (.done d, s) => processRegions p key l (made ++ [{ r with digest := d }]) s
      | (x, s) => (x, made, s)

/-- Steps 2 to 6 of R441 for the import that descriptor `d` began. -/
def installPolicy (d : Desc) (body : List Byte) (s : State) : State :=
  let p := d.part
  let pol := body.drop 64
  let s := modPart p (fun x => { x with sec := { x.sec with policy := none } }) s
  match policyRefusal s p pol with
  | some r => importRefused d 0x0400 r s
  | none =>
    let rs := (List.range (leAt pol 6 1)).map (entryOf pol)
    match processRegions p (body.take 64) rs [] s with
    | (.mismatch, _, s) => importRefused d 0x0401 0x07 s
    | (.failed e, _, s) =>
      descMemErr d e (modPart p (fun x => { x with sec := { x.sec with importing := none } }) s)
    | (.done _, made, s) =>
      let s := modPart p (fun x =>
        { x with sec := { x.sec with importing := none, slots := tabSet dKey x.sec.slots 0 (body.take 64),
                                     policy := some { regions := made, allowSeal := bit (leAt pol 7 1) 0, bytes := pol } } }) s
      finishOk d.id s

/-- No context of the partition holds cores or has a heel-in or replant under way (R441 step 1). -/
def importQuiet (s : State) (p : Nat) : Bool :=
  s.prt.ctxs.all fun e => e.1 / 16 ≠ p || (e.2.place.isEmpty && e.2.st ≠ .heeling && e.2.st ≠ .replanting)

def doPolicyInstall (t id : Nat) (s : State) : State :=
  let s := advance t s
  match findDesc s id with
  | none => s
  | some d =>
    match (getPart s d.part).sec.importing with
    | some (i, body) => if i = id ∧ importQuiet s d.part then settle (installPolicy d body s) else s
    | none => s

/-- POLICY_INSTALL (R441): once the partition is quiet, the import of descriptor `id` into slot 0 ends. -/
def execPolicyInstall (t id : Nat) (s : State) : Host.Outcome State Fault Refusal := .next (doPolicyInstall t id s)

/-! ## ATTEST (R450, Table 15.8) -/

/-- GLB_ID as the part reads it (spec/01). -/
def glbId (s : State) : Nat :=
  0x2400 + 2 ^ 16 * (s.fuse.grade % 16) + 2 ^ 20 * (s.fuse.stepMajor % 16) + 2 ^ 24 * (s.fuse.stepMinor % 16)

def measOf (s : State) (i : Nat) : List Byte := tabGet (fun _ => zeros 32) s.sec.meas i

/-- The alias seed (R435). -/
def aliasSeed (s : State) : List Byte :=
  let cdi := Config.kdf Config.deviceSecret ((List.range 7).flatMap (measOf s) ++ label "WALELO-CDI") 32
  Config.kdf cdi (label "WALELO-ALIAS") 32

/-- Checks of ATTEST (Table 2.6, R450). -/
def attestCheck (s : State) (d : Desc) : Option Refused :=
  let part := d.fn ≠ 0
  firstOf [(d.u 8 1 ≠ (if part then 1 else 0), bad 8), (d.u 16 8 % 64 ≠ 0, bad 16),
    (d.u 24 4 < (if part then 4116 else 2932), bad 24), (s.sec.udsErased, denied 0x10)]

/-- The report before its signature. -/
def attestHead (s : State) (d : Desc) : List Byte :=
  let part := d.fn ≠ 0
  let x := getPart s d.fn
  let sec := if part then x.sec else {}
  let slotBits := ofBits ((List.range 8).filter fun k => !(tabGet dKey sec.slots k).isEmpty)
  let seed := tabGet dKey sec.slots 7
  let flags := b2n (part && x.confidential) + 2 * b2n sec.policy.isSome + 4 * b2n (!seed.isEmpty) + 8 * b2n s.sec.recovered
  let b := toBytes 4 0x41545331 ++ toBytes 2 1 ++ toBytes 1 (d.u 8 1) ++ toBytes 1 d.fn ++ toBytes 32 (d.u 32 32) ++
    toBytes 8 (hubTime s (fnHub s d.fn)) ++ toBytes 4 (glbId s) ++ toBytes 1 s.sec.debug ++ toBytes 1 flags ++
    toBytes 1 slotBits ++ zeros 9 ++ (List.range 8).flatMap (measOf s) ++
    (match sec.policy with | some pol => sha3 pol.bytes | none => zeros 32) ++
    fit 16 (match sec.owner with | some o => o | none => []) ++ zeros 16 ++
    (if seed.isEmpty then zeros 32 else sha3 (Config.dsaPublic seed))
  if part then fit 512 b ++ fit 1184 (Config.kemPublic (Config.random x.sec.draw)) else fit 512 b

def attestBody (d : Desc) (s : State) : State :=
  let head := attestHead s d
  let rep := head ++ fit 2420 (Config.dsaSign (aliasSeed s) head)
  let s := if (getPLink s (fnLink s d.fn)).up then hostWrite (d.u 16 8) rep s else s
  finishOk d.id s

def doAttest (t id : Nat) (s : State) : State := runDesc t id 0x1A attestCheck attestBody s

/-- ATTEST (R450): a report signed by the alias key goes to out_addr. -/
def execAttest (t id : Nat) (s : State) : Host.Outcome State Fault Refusal := .next (doAttest t id s)

end Sys2Proof.Machine
end

