-- ==== Sys2Proof/Machine/Drc.lean ====
section
/-!
DEFINITION. Drc.lean: the memory controllers (spec/12): sharing of the crypto unit, channel scheduling, row activation
tables, refresh and scrub, timing sets and training, capture, hold and diagnosis. Checks of lines are in Memory.lean.
-/
namespace Sys2Proof.Machine

def dChan (_ : Nat) : Chan := {}
def dBank (_ : Nat) : Bank := {}
def dRat (_ : Nat) : RatEnt := {}

def getChan (s : State) (h c : Nat) : Chan := tabGet dChan (getDrc s h).chans c
def modChan (h c : Nat) (f : Chan → Chan) (s : State) : State :=
  modDrc h (fun d => { d with chans := tabMod dChan d.chans c f }) s
def getBank (s : State) (h c b : Nat) : Bank := tabGet dBank (getDrc s h).banks (16 * c + b)
def modBank (h c b : Nat) (f : Bank → Bank) (s : State) : State :=
  modDrc h (fun d => { d with banks := tabMod dBank d.banks (16 * c + b) f }) s

/-- The hub's memory serves requests. -/
def drcServes (s : State) (h : Nat) : Bool := (getHub s h).up && ((getDrc s h).st = 2 || (getDrc s h).st = 3)

/-! ## Address mapping (R337, R338) -/

def Drc.banks' (d : Drc) : Nat := if d.type = 1 then 8 else 16
def Drc.nb (d : Drc) : Nat := if d.type = 1 then 3 else 4

/-- Rows of a bank, R. -/
def Drc.rows (d : Drc) : Nat := 2 ^ 30 * d.gib / 16 / d.banks' / 2048

/-- Row, bank and column of an address in the hub window. -/
def mapAddr (d : Drc) (a : Nat) : Nat × Nat × Nat :=
  let l := bits a 12 24 * 4 + bits a 6 2
  let row := l / 2 ^ (5 + d.nb)
  (row, bits l 5 d.nb ^^^ row % 2 ^ d.nb, l % 32)

/-- The address in the hub window of a line of a data row. -/
def unmapAddr (d : Drc) (ch bank row col : Nat) : Nat :=
  let l := row * 2 ^ (5 + d.nb) + (bank ^^^ row % 2 ^ d.nb) * 32 + col
  let hi := 4096 * (l / 4)
  hi + (ch ^^^ bits hi 12 4 ^^^ bits hi 16 4 ^^^ bits hi 20 4) * 256 + l % 4 * 64

/-- Bank and row of a data row's metadata, and its segment's name in the cache. -/
def metaRow (d : Drc) (bank row : Nat) : Nat × Nat := (bank ^^^ d.banks' / 2, d.rows * 7 / 8 + row / 8)
def segOf (bank row : Nat) : Nat := row * 16 + bank

/-! ## Profiles (Table 12.3, Table 12.4, R11) -/

/-- idle_close in DRC_CLK cycles, wr_hi, wr_lo, age_cap in ns. -/
def schedPar (s : State) (h c : Nat) : Nat × Nat × Nat × Nat :=
  let w := (getChan s h c).sched.toNat
  if fld s (drcBase h + 4) 0 1 = 1 then
    let hi := max 1 (bits w 11 6)
    (max 1 (bits w 2 9), hi, min (bits w 17 6) (hi - 1), max 1 (bits w 23 9) * 20)
  else match bits w 0 2 with
    | 1 => (16, 40, 24, 500)
    | 2 => (256, 56, 8, 2000)
    | _ => (64, 48, 16, 1000)

/-- thr, and act_gap in ns. -/
def ratPar (s : State) (h c : Nat) : Nat × Nat :=
  let w := (getChan s h c).rat.toNat
  if fld s (drcBase h + 4) 0 1 = 1 then (max 256 (bits w 2 14), max 1 (bits w 16 8) * 100)
  else match bits w 0 2 with
    | 1 => (1024, 4000)
    | 2 => (4096, 1000)
    | _ => (2048, 2000)

/-! ## The crypto unit (R347, R116) -/

/-- Turn of an owner on a hub: 0 the hub, 1 to 32 a partition with a share, 33 the partitions with share 0. -/
def turnOf (s : State) (h owner : Nat) : Nat :=
  if owner = 0 then 0
  else
    let x := getPart s owner
    if (if h = 0 then x.bwN else x.bwS) = 0 then 33 else owner

/-- Quantum of a turn in bytes. -/
def quantum (s : State) (h turn : Nat) : Nat :=
  if turn = 0 then 32 * 8192
  else if turn = 33 then (224 - shares s h) * 8192
  else (if h = 0 then (getPart s turn).bwN else (getPart s turn).bwS) * 8192

/-- The lines of a request. -/
def reqLines (r : MemReq) : List MemReq :=
  (List.range ((r.addr + r.len - 1) / 64 + 1 - r.addr / 64)).map fun i =>
    let a := max r.addr ((r.addr / 64 + i) * 64)
    let e := min (r.addr + r.len) ((r.addr / 64 + i + 1) * 64)
    { r with addr := a, len := e - a, data := (r.data.drop (a - r.addr)).take (e - a) }

/-- A line request enters its channel's queue (R343, R348). -/
def enterQueue (h : Nat) (r : MemReq) (s : State) : State :=
  modChan h (channelOf (r.addr % 2 ^ 36)) (fun c =>
    if r.isWrite then { c with writes := c.writes ++ [r] } else { c with reads := c.reads ++ [r] }) s

/-- Every line of a request finds room in its queue. -/
def queueRoom (s : State) (h : Nat) (r : MemReq) : Bool :=
  (List.range 16).all fun c =>
    let n := ((reqLines r).filter fun l => channelOf (l.addr % 2 ^ 36) = c).length
    (if r.isWrite then (getChan s h c).writes.length else (getChan s h c).reads.length) + n ≤ 64

/-- Serve requests in order until the quantum is spent; the bytes served. -/
def serveTurn (h quota : Nat) : (spent : Nat) → List MemReq → State → Nat × State
  | spent, [], s => (spent, s)
  | spent, r :: rs, s =>
    if quota ≤ spent || !queueRoom s h r then (spent, s)
    else serveTurn h quota (spent + r.len) rs ((reqLines r).foldl (fun s l => enterQueue h l s) s)

/-- Requests of partitions with share 0, one of each in turn from the partition after `last`. -/
def roundRobin (s : State) (last : Nat) (reqs : List MemReq) : List MemReq :=
  let by_ (p : Nat) : List MemReq := reqs.filter fun r => ownerOf s r.addr = p
  let order := (List.range 32).map fun i => (last + i) % 32 + 1
  (List.range reqs.length).flatMap fun k => order.flatMap fun p => ((by_ p)[k]?).toList

/-- A request the crypto unit takes: within a 4 KiB block of the hub's usable memory. -/
def reqFits (s : State) (h : Nat) (r : MemReq) : Bool :=
  1 ≤ r.len && r.addr / 4096 = (r.addr + r.len - 1) / 4096 && devHub r.addr = h &&
    r.addr % 2 ^ 36 < installed s h / 8 * 7 && r.data.length = (if r.isWrite then r.len else 0)

def doCryptoTurn (t h : Nat) (reqs : List MemReq) (s : State) : State :=
  let s := advance t s
  if h < 2 && drcServes s h then
    let reqs := reqs.filter (reqFits s h)
    let turn (r : MemReq) : Nat := turnOf s h (ownerOf s r.addr)
    let order := (List.range 34).map fun i => ((getDrc s h).turn + 1 + i) % 34
    match order.findIdx? fun k => reqs.any fun r => turn r = k with
    | none => modDrc h (fun d => { d with debts := [] }) s
    | some i =>
      let k := order.getD i 0
      let mine := reqs.filter fun r => turn r = k
      let mine := if k = 33 then roundRobin s (getDrc s h).zeroLast mine else mine
      let s := modDrc h (fun d => { d with debts := (order.take i).foldl (fun t x => tabSet dNat t x 0) d.debts }) s
      let quota := quantum s h k - tabGet dNat (getDrc s h).debts k
      let (spent, s) := serveTurn h quota 0 mine s
      let lastZero := if k = 33 then
          match (mine.map fun r => ownerOf s r.addr)[spent / 4096]? with | some p => p | none => (getDrc s h).zeroLast
        else (getDrc s h).zeroLast
      modDrc h (fun d => { d with turn := k, debts := tabSet dNat d.debts k (spent - quota), zeroLast := lastZero }) s
  else s

/-- CRYPTO_TURN (R347): the next turn with a request among those that wait, `reqs`, served until its quantum is spent. -/
def execCryptoTurn (t h : Nat) (reqs : List MemReq) (s : State) : Host.Outcome State Fault Refusal :=
  .next (doCryptoTurn t h reqs s)

/-! ## Row activation (R351, R352) -/

/-- Entry of the table that holds a row, or else the one it replaces: smallest count, lowest index. -/
def ratPick (b : Bank) (row : Nat) : Nat × Bool :=
  let ent (i : Nat) : RatEnt := tabGet dRat b.ents i
  match (List.range 64).find? fun i => (ent i).row = some row with
  | some i => (i, true)
  | none => ((List.range 64).foldl (fun best i => if (ent i).count < (ent best).count then i else best) 0, false)

/-- DRC issues an activate of a row for a requester: counted, its neighbours refreshed and the requester throttled where
the count says so. -/
def activate (h ch bank row : Nat) (who : Requester) (s : State) : State :=
  let (thr, _) := ratPar s h ch
  let b := getBank s h ch bank
  let (i, held) := ratPick b row
  let e := tabGet dRat b.ents i
  let inj := injLive s 0x0604 (16 * h + ch)
  let s := if inj then injUse s else s
  let floor := if held then b.floor else max b.floor e.count
  let e : RatEnt := if held then { e with count := e.count + 1, own := e.own + 1, req := who }
    else { row := some row, count := floor + 1, own := 1, req := who }
  let e := if inj then { e with count := thr, own := thr } else e
  let atThr := thr ≤ e.count
  let hot := atThr && thr ≤ e.own
  let e' := if atThr then { e with count := 0, own := 0 } else e
  let s := modBank h ch bank (fun b =>
    { b with openRow := some row, used := s.clk, floor, ents := tabSet dRat b.ents i e',
             throttled := if hot && !(b.throttled.any (·.1 = who)) then b.throttled ++ [(who, s.clk)]
               else b.throttled.map fun x => if x.1 = who then (who, s.clk) else x }) s
  if hot then
    let (p, c) := match who with | .ctx p slot => (p, slot) | .hub _ => (0, 0xFF)
    record h 0x0604 [.id1 h, .id1 ch, .id1 bank, .loc4 row, .val4 (reqCode who)] p c (drcErr h 5 ch s)
  else s

/-- A requester's activates in a bank are held back for now (R352). -/
def heldBack (s : State) (h ch bank : Nat) (who : Requester) : Bool :=
  (getBank s h ch bank).throttled.any fun x => x.1 = who && s.clk < x.2 + (ratPar s h ch).2

/-- The row that stands open in a bank: closed once idle_close cycles of 1.2 GHz passed without a hit (R348). -/
def openRow (s : State) (h ch bank : Nat) : Option Nat :=
  let b := getBank s h ch bank
  if (schedPar s h ch).1 * 10 ≤ (s.clk - b.used) * 12 then none else b.openRow

/-- An access to a row: a hit, or an activate. -/
def accessRow (h ch bank row : Nat) (who : Requester) (s : State) : State :=
  if openRow s h ch bank = some row then modBank h ch bank (fun b => { b with used := s.clk }) s
  else activate h ch bank row who s

/-- The line's metadata segment is cached, in place of one the spec does not name where the cache is full (R338). -/
def touchMeta (h ch bank row : Nat) (dirty : Bool) (who : Requester) (s : State) : State :=
  let g := segOf bank row
  let segs := (getChan s h ch).segs
  if segs.any (·.1 = g) then
    modChan h ch (fun c => { c with segs := c.segs.map fun x => if x.1 = g then (g, x.2 || dirty) else x }) s
  else
    let d := getDrc s h
    let s := if segs.length < 256 then s
      else
        let (fv, s) := takeFree s
        match segs[fv % 256]? with
        | none => s
        | some (v, wasDirty) =>
          let m := metaRow d (v % 16) (v / 16)
          let s := if wasDirty then accessRow h ch m.1 m.2 who s else s
          modChan h ch (fun c => { c with segs := c.segs.filter (·.1 ≠ v) }) s
    let m := metaRow d bank row
    modChan h ch (fun c => { c with segs := (g, dirty) :: c.segs }) (accessRow h ch m.1 m.2 who s)

/-! ## Channel scheduling (R348) -/

/-- Bank of a request. -/
def reqBank (d : Drc) (r : MemReq) : Nat := (mapAddr d (r.addr % 2 ^ 36)).2.1

/-- Requests that may be chosen: not held back, and in a bank with an aged request the oldest aged one alone. -/
def eligible (s : State) (h ch : Nat) : List MemReq :=
  let d := getDrc s h
  let c := getChan s h ch
  let cap := (schedPar s h ch).2.2.2
  let all := (c.reads ++ c.writes).filter fun r => !heldBack s h ch (reqBank d r) r.who
  let aged (b : Nat) : List MemReq := isort (fun x y => decide (x.since < y.since)) (all.filter fun r =>
    reqBank d r = b && cap < s.clk - r.since)
  all.filter fun r => match aged (reqBank d r) with
    | [] => true
    | x :: _ => r = x

/-- The channel drains its writes. -/
def drains (s : State) (h ch : Nat) : Bool :=
  let c := getChan s h ch
  let (_, hi, lo, _) := schedPar s h ch
  hi ≤ c.writes.length || (c.draining && lo < c.writes.length)

/-- The request served next. -/
def nextReq (s : State) (h ch : Nat) : Option MemReq :=
  let d := getDrc s h
  let el := eligible s h ch
  let writes := el.filter (·.isWrite)
  let reads := el.filter (!·.isWrite)
  let side := if drains s h ch then (if writes.isEmpty then reads else writes)
    else if reads.isEmpty then writes else reads
  let hit (r : MemReq) : Bool := openRow s h ch (reqBank d r) = some (mapAddr d (r.addr % 2 ^ 36)).1
  let hits := side.filter hit
  (isort (fun x y => decide (x.since < y.since)) (if hits.isEmpty then side else hits)).head?

/-- The channel can serve now. -/
def chanServes (s : State) (h ch : Nat) : Bool :=
  ch < 16 && !(getChan s h ch).blackout && (drcServes s h || (getDrc s h).held)

/-- A request leaves its queue; its row is accessed. -/
def takeReq (h ch : Nat) (r : MemReq) (s : State) : State :=
  let dr := drains s h ch
  let s := modChan h ch (fun c => { c with draining := dr, reads := if r.isWrite then c.reads else c.reads.erase r,
                                           writes := if r.isWrite then c.writes.erase r else c.writes }) s
  if (getDrc s h).held then s
  else
    let (row, bank, _) := mapAddr (getDrc s h) (r.addr % 2 ^ 36)
    touchMeta h ch bank row r.isWrite r.who (accessRow h ch bank row r.who s)

/-- A failed access is answered to its requester (Table 12.2); hub classes other than the management cluster answer in
their own commands. -/
def answerFail (who : Requester) (e : MemErr) (dev : Nat) (s : State) : State :=
  match who with
  | .ctx p slot =>
    let (st, de, info, aux) := memStatus s 0xFFFF 0 e
    teardown p slot st de info aux none s
  | .hub c =>
    if c = 3 then
      let kind := match e with
        | .mac _ => 5
        | .uncorrectable _ => if (getDrc s (devHub dev)).held then 6 else 4
        | .violation _ => 2
      event (devHub dev) 0x1001 [.id1 (devHub dev), .id1 0, .loc8 dev, .code1 kind] s
    else s

/-- A line is read with error `err` met: 0 none, 1 one symbol, 2 uncorrectable, 3 beyond the ECC and caught by the MAC
(R341). -/
def lineRead (h ch err : Nat) (r : MemReq) (s : State) : Option MemErr × State :=
  let line := r.addr / 64
  if err = 2 || lineState s line = 1 then (some (.uncorrectable h), failedRead line false r.who s)
  else if err = 3 || lineState s line = 2 then (some (.mac h), failedRead line true r.who s)
  else if err = 1 then
    (none, event h 0x0601 [.id1 h, .id1 ch, .loc8 (line * 64)] (modDrc h (fun d => { d with ce := satAdd 32 d.ce 1 }) s))
  else (none, s)

/-- The error a read meets, with what an injection adds (Table 14.10). -/
def withInj (h ch err : Nat) (s : State) : Nat × State :=
  let i := 16 * h + ch
  if injLive s 0x0601 i then (1, injUse s)
  else if injLive s 0x0602 i then (2, injUse s)
  else if injLive s 0x0603 i then (3, injUse s)
  else (err, s)

/-- Link ECC has corrected a transfer. -/
def linkEcc (h : Nat) (yes : Bool) (s : State) : State :=
  if yes then modDrc h (fun d => { d with lecc := satAdd 32 d.lecc 1 }) s else s

def doDramRead (t h ch err : Nat) (lecc : Bool) (s : State) : State :=
  let s := advance t s
  if h < 2 && chanServes s h ch then
    match nextReq s h ch with
    | none => s
    | some r =>
      if r.isWrite then s
      else
        let s := linkEcc h lecc (takeReq h ch r s)
        if r.who = .hub 3 && ownerOf s r.addr ≠ 0 then answerFail r.who (.violation r.addr) r.addr s
        else
          let (err, s) := withInj h ch err s
          match lineRead h ch err r s with
          | (none, s) => s
          | (some e, s) => settle (answerFail r.who e r.addr s)
  else s

/-- DRAM_READ (R341, R348, R351): the request the channel serves next, a read; `err` is the error that its line shows. -/
def execDramRead (t h ch err : Nat) (lecc : Bool) (s : State) : Host.Outcome State Fault Refusal :=
  .next (doDramRead t h ch err lecc s)

/-- Partition address of a device address. -/
def partAddr (s : State) (p dev : Nat) : Option Nat :=
  ((getPart s p).gmap.find? fun e => match e.2 with | some g => g.dev = dev / granuleBytes | none => false).map fun e =>
    granuleBytes * e.1 + dev % granuleBytes

def doDramWrite (t h ch err : Nat) (lecc : Bool) (s : State) : State :=
  let s := advance t s
  if h < 2 && chanServes s h ch then
    match nextReq s h ch with
    | none => s
    | some r =>
      if !r.isWrite then s
      else
        let s := linkEcc h lecc (takeReq h ch r s)
        let owner := ownerOf s r.addr
        if r.who = .hub 3 && owner ≠ 0 then answerFail r.who (.violation r.addr) r.addr s
        else
          let (err, s) := if r.len < 64 then withInj h ch err s else (0, s)
          let (e, s) := if r.len < 64 || (getDrc s h).held then lineRead h ch err r s else (none, s)
          match e with
          | some e => settle (answerFail r.who e r.addr s)
          | none =>
            let s := (writeDev r.addr r.data r.who s).2
            match partAddr s owner r.addr with
            | some a => mirrorWrite owner a r.data s
            | none => s
  else s

/-- DRAM_WRITE (R342, R386): the request the channel serves next, a write; a partial one reads its line first. -/
def execDramWrite (t h ch err : Nat) (lecc : Bool) (s : State) : Host.Outcome State Fault Refusal :=
  .next (doDramWrite t h ch err lecc s)

/-! ## Refresh, windows, scrub, delay tracking (R346, R349 to R352, R358) -/

/-- Every bank of a channel is precharged. -/
def precharge (h ch : Nat) (s : State) : State :=
  (List.range 16).foldl (fun s b => modBank h ch b (fun x => { x with openRow := none }) s) s

def doRefresh (t h ch : Nat) (s : State) : State :=
  let s := advance t s
  if h < 2 && ch < 16 && drcServes s h then
    let s := [0x10, 0x14, 0x18].foldl (fun s r => commit (drcBase h + r) s) s
    precharge h ch (modChan h ch (fun c =>
      { c with sched := regGet s (drcBase h + 0x10), rat := regGet s (drcBase h + 0x14) }) s)
  else s

/-- REFRESH (R349, R350): a channel's refresh boundary. -/
def execRefresh (t h ch : Nat) (s : State) : Host.Outcome State Fault Refusal := .next (doRefresh t h ch s)

def doRatWindowEnd (t h ch : Nat) (s : State) : State :=
  let s := advance t s
  if h < 2 && ch < 16 && drcServes s h then
    (List.range 16).foldl (fun s b => modBank h ch b (fun x => { x with floor := 0, ents := [], throttled := [] }) s) s
  else s

/-- RAT_WINDOW_END (R351, R352): the channel's tables empty and its throttles end. -/
def execRatWindowEnd (t h ch : Nat) (s : State) : Host.Outcome State Fault Refusal := .next (doRatWindowEnd t h ch s)

def doPatrolScrub (t h err : Nat) (s : State) : State :=
  let s := advance t s
  let d := getDrc s h
  if h < 2 && drcServes s h && eff s (drcBase h + 0x18) 0 2 ≠ 2 then
    let n := 2 ^ 24 * d.gib
    let l := d.scrub
    let line := 2 ^ 30 * h + l
    let s := modDrc h (fun d => { d with scrub := (l + 1) % max 1 n }) s
    let ch := channelOf (l * 64)
    if err = 2 || lineState s line = 1 then failedRead line false (.hub 4) s
    else if err = 1 then
      event h 0x0601 [.id1 h, .id1 ch, .loc8 (line * 64)] (modDrc h (fun d => { d with ce := satAdd 32 d.ce 1 }) s)
    else s
  else s

/-- PATROL_SCRUB (R346): the next line, metadata rows included; `err` 1 is correctable, 2 is not. -/
def execPatrolScrub (t h err : Nat) (s : State) : Host.Outcome State Fault Refusal := .next (doPatrolScrub t h err s)

/-- Event 0x0606: training failure 0, bring-up failure 1, drift 2. -/
def trainFail (h ch set kind : Nat) (s : State) : State :=
  event h 0x0606 [.id1 h, .id1 ch, .id1 set, .code1 kind] (drcErr h 3 ch s)

def doWck2dqTrack (t h ch : Nat) (beyond : Bool) (s : State) : State :=
  let s := advance t s
  if h < 2 && ch < 16 && drcServes s h then
    let inj := injLive s 0x0606 (16 * h + ch)
    let s := if inj then injUse s else s
    if beyond || inj then trainFail h ch (getDrc s h).set 2 s else s
  else s

/-- WCK2DQ_TRACK (R358): the interval oscillator of a channel is read; its drift may lie beyond correction. -/
def execWck2dqTrack (t h ch : Nat) (beyond : Bool) (s : State) : Host.Outcome State Fault Refusal :=
  .next (doWck2dqTrack t h ch beyond s)

/-! ## Frequency change (R354, R355) -/

/-- Hubs named by DRAM_FREQ. -/
def freqHubs (d : Desc) : List Nat := (bitList 2 (d.u 8 1))

def freqCheck (s : State) (d : Desc) : Option Refused :=
  let hs := freqHubs d
  firstOf [(hs.isEmpty || hs.any (fun h => (getDrc s h).gib = 0 || (getDrc s h).held), bad 8),
    (2 < d.u 9 1 || hs.any (fun h => !(getDrc s h).trained.elem (d.u 9 1)), bad 9)]

/-- Channels of a group. -/
def groupOf (g : Nat) : List Nat := (List.range 4).map (4 * g + ·)

/-- The first waiting change of a hub starts, its first group draining. -/
def startChange (h : Nat) (s : State) : State :=
  let d := getDrc s h
  match d.change, d.changes with
  | none, (set, id) :: rest =>
    let s := modDrc h (fun d => { d with change := some (set, 0, id), changes := rest, st := 3 }) s
    (groupOf 0).foldl (fun s c => modChan h c (fun x => { x with blackout := true }) s) s
  | _, _ => s

def freqBody (d : Desc) (s : State) : State :=
  (freqHubs d).foldl (fun s h => startChange h (modDrc h (fun x => { x with changes := x.changes ++ [(d.u 9 1, d.id)] }) s)) s

def doDramFreq (t id : Nat) (s : State) : State := runDesc t id 0x16 freqCheck freqBody s

/-- DRAM_FREQ (R354, R355): a change starts on each named hub, or waits for the one before. -/
def execDramFreq (t id : Nat) (s : State) : Host.Outcome State Fault Refusal := .next (doDramFreq t id s)

/-- A change waits or runs on some hub for a descriptor. -/
def freqOpen (s : State) (id : Nat) : Bool :=
  [0, 1].any fun h =>
    (match (getDrc s h).change with | some c => c.2.2 = id | none => false) || (getDrc s h).changes.any (·.2 = id)

/-- The metadata cache is written back and emptied. -/
def flushMeta (h c : Nat) (s : State) : State := modChan h c (fun x => { x with segs := [] }) s

def doFreqGroupSwitch (t hub grp : Nat) (s : State) : State :=
  let s := advance t s
  match (getDrc s hub).change with
  | none => s
  | some (set, g, id) =>
    if hub < 2 && g = grp && g < 4 then
      let s := (groupOf g).foldl (fun s c =>
        modChan hub c (fun x => { x with blackout := false }) (flushMeta hub c (precharge hub c s))) s
      if g < 3 then
        let s := modDrc hub (fun d => { d with change := some (set, g + 1, id) }) s
        (groupOf (g + 1)).foldl (fun s c => modChan hub c (fun x => { x with blackout := true }) s) s
      else
        let old := (getDrc s hub).set
        let s := modDrc hub (fun d => { d with change := none, set, st := 2 }) s
        let s := event hub 0x0605 [.id1 hub, .code1 old, .code1 set] s
        let s := startChange hub s
        if freqOpen s id then s else settle (finishOk id s)
    else s

/-- FREQ_GROUP_SWITCH (R355): the group that drains switches; the last one completes the change. -/
def execFreqGroupSwitch (t hub grp : Nat) (s : State) : Host.Outcome State Fault Refusal :=
  .next (doFreqGroupSwitch t hub grp s)

/-! ## Training (R335, R357) -/

def setReg (h n : Nat) : Nat := drcBase h + 0x20 + 4 * n

/-- Rate of a set, cut at the type's maximum. -/
def setRate (s : State) (h n type : Nat) : Nat := min (fld s (setReg h n) 0 14) (if type = 1 then 4266 else 9600)

/-- Table 12.5 for LPDDR4X, in place of LPDDR5X values that stand as reset left them. -/
def lp4Sets (h : Nat) (s : State) : State :=
  [(0, 4266), (1, 3200), (2, 1600)].foldl (fun s x =>
    if regGet s (setReg h x.1) = regDefault (setReg h x.1) then
      regSet (setReg h x.1) (BitVec.ofNat 32 (x.2 + 2 ^ 17)) s
    else s) s

/-- Installed GiB of 16 channels of one density in Gb; none where the channels differ or the table has no such part. -/
def memFound (types dens : List Nat) : Option (Nat × Nat) :=
  let ty := types.headD 0
  let dn := dens.headD 0
  if types.length = 16 && dens.length = 16 && types.all (· = ty) && dens.all (· = dn) &&
      (if ty = 1 then [4, 8, 16].elem dn else ty = 2 && [4, 8, 16, 32].elem dn) then some (ty, dn * 2)
  else none

/-- A stored training record passes Table 12.7. -/
def trainRecOk (s : State) (h n type : Nat) (mrs b : List Byte) : Bool :=
  leAt b 0 4 = 0x44525431 && leAt b 4 2 = 1 && leAt b 6 1 = n && leAt b 7 1 = type &&
    leAt b 8 2 = fld s (setReg h n) 0 14 && leAt b 10 2 = 0 && leAt b 12 4 = crc32c (b.take 12 ++ b.drop 16) &&
    (b.drop 16).take 8 = fit 8 (Config.devTag h) && (b.drop 32).take 64 = fit 64 mrs &&
    ((b.drop 96).take 928).all (· = 0)

/-- The record that a full training writes. -/
def trainRec (s : State) (h n type : Nat) (mrs : List Byte) (r : TrainRes) : List Byte :=
  let hd := toBytes 4 0x44525431 ++ toBytes 2 1 ++ [BitVec.ofNat 8 n, BitVec.ofNat 8 type] ++
    toBytes 2 (fld s (setReg h n) 0 14) ++ zeros 2
  let body := fit 8 (Config.devTag h) ++ [BitVec.ofNat 8 r.temp] ++ zeros 7 ++ fit 64 mrs ++ zeros 928 ++ fit 15360 r.phy
  hd ++ toBytes 4 (crc32c (hd ++ body)) ++ body

/-- DRC comes up with no DRAM. -/
def noDram (h ch set kind : Nat) (s : State) : State :=
  trainFail h ch set kind (modDrc h (fun d => { d with st := 5, type := 0, gib := 0, trained := [], waiting := none }) s)

/-- One set: its record verified, or trained fully; none once the hub has failed. -/
def trainSet (h type n : Nat) (mrs : List Byte) (r : TrainRes) (a : Bool × State) : Bool × State :=
  let s := a.2
  if !a.1 || (n ≠ 0 && fld s (setReg h n) 17 1 = 0) then a
  else
    let b := getBytes (getDrc s h).window (0x4000 * n) 0x4000
    if trainRecOk s h n type mrs b && r.verified then
      (true, modDrc h (fun d => { d with valid := d.valid ++ [n], trained := d.trained ++ [n] }) s)
    else match r.failedAt with
      | some ch => (false, noDram h (ch % 16) n 0 s)
      | none =>
        let img := trainRec s h n type mrs r
        let s := modDrc h (fun d =>
          { d with trained := d.trained ++ [n], window := putBytes d.window (0x4000 * n) img }) s
        (true, fldSet (drcBase h + 0x70) (4 + n) 1 1 s)

/-- Every line of the hub-owned granules is zeroed (R345). -/
def zeroHubGranules (h : Nat) (s : State) : State :=
  let first := 2 ^ 36 * h
  { s with dram := tabErase s.dram first (256 * granuleBytes), lines := tabErase s.lines (first / 64) (256 * 32768) }

/-- The wait is over: the hub's memory is identified, trained and zeroed. -/
def trainHub (h : Nat) (types dens : List Nat) (mrs : List Byte) (res : List TrainRes) (s : State) : State :=
  match memFound types dens with
  | none => noDram h 0 0 1 s
  | some (type, gib) =>
    let s := if type = 1 then lp4Sets h s else s
    let s := modDrc h (fun d => { d with st := 1, type, gib, waiting := none, valid := [], trained := [] }) s
    let none_ : TrainRes := { verified := false, failedAt := some 0, temp := 0, phy := [] }
    let (ok, s) := [0, 1, 2].foldl (fun a n => trainSet h type n mrs (res.getD n none_) a) (true, s)
    if ok then zeroHubGranules h (modDrc h (fun d => { d with st := 2, set := 0 }) s) else s

def doTrainingGo (t h : Nat) (types dens : List Nat) (mrs : List Byte) (res : List TrainRes) (s : State) : State :=
  let s := advance t s
  if h < 2 && (getDrc s h).waiting.isSome then trainHub h types dens mrs res s else s

/-- TRAINING_GO (R357): DRC_TRN_CTRL.go is set in the wait. Each channel's type and density, the mode registers that the
devices report, and what verification and training find of each set come from outside. -/
def execTrainingGo (t h : Nat) (types dens : List Nat) (mrs : List Byte) (res : List TrainRes) (s : State) :
    Host.Outcome State Fault Refusal := .next (doTrainingGo t h types dens mrs res s)

def doTrnWaitExpiry (t h : Nat) (types dens : List Nat) (mrs : List Byte) (res : List TrainRes) (s : State) : State :=
  let s := advance t s
  match (getDrc s h).waiting with
  | none => s
  | some b =>
    if h < 2 && b + 1000000 * fld s (drcBase h + 0x70) 8 8 ≤ s.clk then trainHub h types dens mrs res s else s

/-- TRN_WAIT_EXPIRY (R357): trn_wait has passed since the hub came up. -/
def execTrnWaitExpiry (t h : Nat) (types dens : List Nat) (mrs : List Byte) (res : List TrainRes) (s : State) :
    Host.Outcome State Fault Refusal := .next (doTrnWaitExpiry t h types dens mrs res s)

/-! ## Standby (R359) -/

/-- Entry to standby: caches flushed, eighths with no mapped granule dropped but for eighth 0. -/
def drcStandby (h : Nat) (s : State) : State :=
  let s := (List.range 16).foldl (fun s c => precharge h c (flushMeta h c s)) s
  let gpe := (getDrc s h).gib * 64
  let used := s.prt.parts.flatMap fun x => x.2.gmap.filterMap fun e =>
    match e.2 with
    | some g => if devHub (granuleBytes * g.dev) = h then some (g.dev % 2 ^ 15 / max 1 gpe) else none
    | none => none
  let drop := (List.range 7).filter fun e => e ≠ 0 && !used.elem e
  let lo := 2 ^ 30 * h
  let lines := s.lines.filter fun e => !(lo ≤ e.1 && e.1 < lo + 2 ^ 30 && e.2 = 3 && drop.elem (eighthOf s (e.1 * 64)))
  { modDrc h (fun d => { d with dropped := drop }) s with lines := lines }

/-! ## Capture, hold, diagnosis (R360 to R362) -/

def doCapture (t h : Nat) (s : State) : State :=
  let s := advance t s
  if h < 2 && (getHub s h).up then capture h 0 s else s

/-- CAPTURE (R360): DRC_FREEZE.capture is written. -/
def execCapture (t h : Nat) (s : State) : Host.Outcome State Fault Refusal := .next (doCapture t h s)

/-- A granule of the hub is mapped to some partition. -/
def hubMapped (s : State) (h : Nat) : Bool :=
  s.prt.parts.any fun x => x.2.gmap.any fun e =>
    match e.2 with | some g => devHub (granuleBytes * g.dev) = h | none => false

def doHold (t h : Nat) (s : State) : State :=
  let s := advance t s
  if h < 2 && (getHub s h).up && !(getDrc s h).held then
    if hubMapped s h then drcErr h 4 0 s
    else
      let s := (List.range 16).foldl (fun s c => precharge h c (flushMeta h c s)) s
      let s := capture h 2 s
      modDrc h (fun d => { d with held := true, st := 4 }) (fldSet (drcBase h + 0x60) 1 1 1 s)
  else s

/-- HOLD (R361): DRC_FREEZE.hold is set, or the write is refused. -/
def execHoldMem (t h : Nat) (s : State) : Host.Outcome State Fault Refusal := .next (doHold t h s)

def doHoldRelease (t h : Nat) (s : State) : State :=
  let s := advance t s
  if h < 2 && (getDrc s h).held then
    modDrc h (fun d => { d with held := false, st := if d.gib = 0 then 5 else if d.change.isSome then 3 else 2 })
      (fldSet (drcBase h + 0x60) 1 1 0 s)
  else s

/-- HOLD_RELEASE (R361): hold is cleared and service resumes. -/
def execHoldRelease (t h : Nat) (s : State) : Host.Outcome State Fault Refusal := .next (doHoldRelease t h s)

/-- Product in GF(2^8) with x^8 + x^4 + x^3 + x^2 + 1 (R340). -/
def gf8 : (n a b : Nat) → Nat
  | 0, _, _ => 0
  | n + 1, a, b =>
    let a2 := if a < 128 then 2 * a else (2 * a) ^^^ 0x11D
    (if b % 2 = 1 then a else 0) ^^^ gf8 n a2 (b / 2)

/-- The two check symbols of 70 data symbols: the remainder by (x − 1)(x − 2), first symbol highest (R340). -/
def rsCheck (data : List Byte) : List Byte :=
  let r := data.foldl (fun (r : Nat × Nat) b =>
    let q := r.1 ^^^ b.toNat
    (r.2 ^^^ gf8 8 3 q, gf8 8 2 q)) (0, 0)
  [BitVec.ofNat 8 r.1, BitVec.ofNat 8 r.2]

/-- A line of a data row as the devices hold it: ciphertext, MAC, ECC. Where it is poisoned, 0xA5 / 3 = 0x63 is added to both
check symbols, which gives the syndrome (0x00, 0xA5) (R340, R341). -/
def rawLine (s : State) (dev : Nat) : List Byte :=
  let o := ownerOf s dev
  let ep := tabGet dNat (getDrc s (devHub dev)).epochs o
  let a := dev / 64 * 64
  let ct := fit 64 (Config.xtsLine o ep a (readDev s a 64))
  let mac := fit 6 (Config.lineMac o ep a ct)
  let mac := if tabGet dLine s.lines (a / 64) = 2 then mac.map (· ^^^ 1) else mac
  let ecc := rsCheck (ct ++ mac)
  ct ++ mac ++ (if tabGet dLine s.lines (a / 64) = 1 then ecc.map (· ^^^ 0x63) else ecc)

/-- A raw line of any row: a metadata row holds the metadata of eight lines in each burst (R338). -/
def rawRow (s : State) (h ch bank row col : Nat) : List Byte :=
  let d := getDrc s h
  if row < d.rows * 7 / 8 then rawLine s (2 ^ 36 * h + unmapAddr d ch bank row col)
  else if row < d.rows then
    let drow := (row - d.rows * 7 / 8) * 8 + col / 4
    let m := (List.range 8).flatMap fun i =>
      if drow < d.rows * 7 / 8 then
        (rawLine s (2 ^ 36 * h + unmapAddr d ch (bank ^^^ d.banks' / 2) drow (col % 4 * 8 + i))).drop 64
      else fit 8 (Config.metaMeta h ch bank row (32 + i))
    m ++ fit 8 (Config.metaMeta h ch bank row col)
  else zeros 72

/-- The item of Table 12.8 that the selection names. -/
def diagItem (s : State) (h : Nat) : List Byte :=
  let sel := (regGet s (drcBase h + 0x64)).toNat
  let idx := (regGet s (drcBase h + 0x68)).toNat
  let ch := bits sel 3 4
  let bank := bits sel 7 4
  let item := bits sel 0 3
  if item = 6 then (if (getDrc s h).held then rawRow s h ch bank idx (bits sel 11 5) else [])
  else match (getDrc s h).store with
    | none => []
    | some c =>
      let chan := tabGet dChan c.chans ch
      let b := tabGet dBank c.banks (16 * ch + bank)
      let req (r : MemReq) : List Nat := [r.addr, (reqCode r.who), c.time - r.since]
      match item with
      | 0 => match c.log[idx]? with
        | some e => fit 64 (Config.diagImage 0 [e.time, e.addr, e.owner, e.epoch, e.kind, (reqCode e.who)])
        | none => []
      | 1 =>
        if idx = 64 then fit 16 (Config.diagImage 1 [b.floor])
        else if idx < 64 then
          let e := tabGet dRat b.ents idx
          fit 16 (Config.diagImage 1 [e.row.getD 0, e.count, e.own, reqCode e.req])
        else []
      | 2 => match chan.reads[idx]? with | some r => fit 32 (Config.diagImage 2 (req r)) | none => []
      | 3 => match chan.writes[idx]? with | some r => fit 32 (Config.diagImage 3 (req r)) | none => []
      | 4 =>
        if idx = 0 then
          fit 64 (Config.diagImage 4 ((List.range 16).flatMap fun i =>
            let x := tabGet dBank c.banks (16 * ch + i)
            [match x.openRow with | some r => r + 1 | none => 0, x.used]))
        else []
      | 5 => match chan.segs[idx]? with | some g => fit 16 (Config.diagImage 5 [g.1, b2n g.2]) | none => []
      | _ => []

def doDiagLoad (t h : Nat) (idx : Bool) (val : Word) (s : State) : State :=
  let s := advance t s
  if h < 2 && (getHub s h).up then
    let s := if idx then regSet (drcBase h + 0x68) val s
      else regSet (drcBase h + 0x64) (BitVec.ofNat 32 (bits val.toNat 0 16)) s
    modDrc h (fun d => { d with diag := diagItem s h }) s
  else s

/-- DIAG_LOAD (R362): a write to DRC_DIAG_SEL or DRC_DIAG_IDX loads the item it names. -/
def execDiagLoad (t h : Nat) (idx : Bool) (val : Word) (s : State) : Host.Outcome State Fault Refusal :=
  .next (doDiagLoad t h idx val s)

end Sys2Proof.Machine
end

