-- ==== Sys2Proof/Machine/Links.lean ====
section
/-!
DEFINITION. Links.lean: die links and partner ports (spec/13): training and its sideband, repair maps, flits and
heartbeats, the loss, fencing, reset and rejoin of compute dies, and the separation of the hubs (R21). Dies are numbered 0
to 3, 4 for HN and 5 for HS (Table 13.3).
-/
namespace Sys2Proof.Machine

/-! ## Ends (Table 1.3, R15) -/

/-- The die at end A (false) or B (true) of a die link. -/
def endDie (k : Nat) (b : Bool) : Nat :=
  match k, b with
  | 0, false => 4 | 1, false => 4 | 2, false => 5 | 3, false => 5
  | 4, false => 0 | 5, false => 2 | 6, false => 0 | 7, false => 1
  | 4, true => 1 | 5, true => 3 | 6, true => 2 | 7, true => 3
  | _, _ => k

/-- The links of a die. -/
def linksOf (d : Nat) : List Nat :=
  (List.range 8).filter fun k => endDie k false = d || endDie k true = d

/-- Whether the die is end B of a link. -/
def isEndB (k d : Nat) : Bool := endDie k true = d

/-- A die is powered and out of reset: its link PLLs can lock. -/
def dieLive (s : State) (d : Nat) : Bool :=
  if d < 4 then
    let x := getDie s d
    meshOn s d && x.pll && (x.st = .up || x.st = .rejoin || x.st = .bringup)
  else hubUp s (d - 4)

def Link.side (l : Link) (b : Bool) : LinkEnd := if b then l.b else l.a
def modSide (k : Nat) (b : Bool) (f : LinkEnd → LinkEnd) (s : State) : State :=
  modLink k (fun l => if b then { l with b := f l.b } else { l with a := f l.a }) s

/-- Set a sticky error of LNK_ERR with its link. -/
def lnkErr (b k : Nat) (s : State) : State := stick 0x2000008 b 5 (some (8, 3, k)) s

/-- Both ends of a link are live; a partner port's own hub is. -/
def endsLive (s : State) (k : Nat) : Bool :=
  if k < 8 then dieLive s (endDie k false) && dieLive s (endDie k true) else hubUp s (k - 8)

/-! ## Separation and rejoin of the hubs (R21, R118) -/

/-- The side a hub-local partition lies on whole: its hub. -/
def sideOf (s : State) (p : Nat) : Option Nat :=
  let x := getPart s p
  if !x.hubLocal then none
  else if partCores s p 2 = 0 ∧ partCores s p 3 = 0 ∧ x.granS = 0 then some 0
  else if partCores s p 0 = 0 ∧ partCores s p 1 = 0 ∧ x.granN = 0 then some 1
  else none

/-- Every context of a partition for which `keep` does not hold is torn down. -/
def tearDown (keep : Nat → Bool) (status detail aux : Nat) (s : State) : State :=
  s.prt.ctxs.foldl (fun s e =>
    if keep (e.1 / 16) then s else teardown (e.1 / 16) (e.1 % 16) status detail 0 aux none s) s

/-- HUBS_SEPARATE (R21): both islands have HUB_OTHER; what is not hub-local on one side ends with LINK_DOWN; PRT on HS takes
over its side. -/
def separate (s : State) : State :=
  let t := hubTime s 0
  let s := mirrorLost { s with sep := true, prt := { s.prt with hsActs := true } }
  let s := eachIsland (fun i s => detect i 0x06 0x7F false s) s
  tearDown (fun p => (sideOf s p).isSome) 0x0302 0xFF t s

/-- The hubs rejoin: HS passes its tables back and forwards its events (R21, R118, R470). -/
def rejoinHubs (s : State) : State :=
  let s := forwardHeld s
  { s with sep := false, prt := { s.prt with hsActs := false, mirrorOk := s.prt.applied = s.prt.changes } }

/-- What the hub-to-hub path's coming or going brings about; `was` is whether it was usable before. -/
def routesMoved (was : Bool) (s : State) : State :=
  if was && !hubsJoined s && hubUp s 0 && hubUp s 1 then separate s
  else if !was && hubsJoined s then rejoinHubs s
  else s

/-- A change of link states, with what it brings about. -/
def withRoutes (f : State → State) (s : State) : State := settle (routesMoved (hubsJoined s) (f s))

/-! ## Partner ports as links (R384, R387) -/

/-- The partner is lost, or the port goes down: every range diverges, event 0x0E01 (R387). Adds that wait for a range
complete LINK_DOWN with the port. -/
def ptnLost (h : Nat) (s : State) : State :=
  let x := getPtn s h
  let live := x.ranges.filter fun e => e.2.st ≠ 0
  let ids := (live.filterMap fun e => if e.2.st = 1 then e.2.desc else none).eraseDups
  let s := modPtn h (fun x =>
    { x with ok := false, lanes := if (getLink s (8 + h)).st = .up then x.lanes else 0,
             key := if (getLink s (8 + h)).st = .up then x.key else none, queue := [], fullSince := none,
             ranges := x.ranges.map fun e => (e.1, if e.2.st = 0 then e.2 else { e.2 with st := 3, desc := none }) }) s
  let s := event h 0x0E01 [.id1 h, .val4 live.length] (stick (ptnBase h + 0x10) 1 3 none s)
  ids.foldl (fun s i => finish i 0x0302 (8 + h) 0 (hubTime s h) s) s

/-! ## Training (R365 to R369, R524) -/

/-- Put a message on the sideband towards an end; it awaits its answer. -/
def sbSend (k : Nat) (m : SbMsg) (s : State) : State :=
  modLink k (fun l => { l with wires := l.wires ++ [m], await := some (m, s.clk) }) s

/-- An attempt begins with TRAIN_REQ from an end, carrying its epoch and the rethread bit (R368 step 1). -/
def beginAttempt (k : Nat) (s : State) : State :=
  let l := getLink s k
  let s := modLink k (fun l => { l with st := .training, step := .request, began := s.clk, wires := [], await := none }) s
  if k < 8 then
    sbSend k { toB := !l.fromB, kind := 1, epoch := (l.side l.fromB).epoch, data := b2n l.rethread } s
  else modLink k (fun l => { l with step := .threads }) s

/-- A training begins. -/
def startTraining (k : Nat) (fromB rethread auto : Bool) (s : State) : State :=
  beginAttempt k (modLink k (fun l => { l with fromB, rethread, auto, attempts := 0, sbOk := l.sbOk || k < 8 }) s)

/-- The training of a link that both ends can take part in (Table 13.2, OFF to TRAINING). -/
def wakeLink (k : Nat) (s : State) : State :=
  if (getLink s k).st = .off ∧ endsLive s k ∧ (k < 8 ∨ (getPtn s (k - 8)).enable) then startTraining k false true true s else s

/-- LINK_RETRAINs that waited for the training complete (R524). -/
def answerRetrains (k : Nat) (ok : Bool) (s : State) : State :=
  let ids := (getLink s k).waiters
  let s := modLink k (fun l => { l with waiters := [] }) s
  ids.foldl (fun s i => if ok then finishOk i s else finish i 0x0302 k 0 0 s) s

/-- The link goes DOWN: event 0x0502 (Table 13.2). -/
def trainDown (k : Nat) (s : State) : State :=
  let l := getLink s k
  let s := modLink k (fun l => { l with st := .down, step := .idle, wires := [], await := none, mask := 0 }) s
  let s := event 0 0x0502 [.id1 k, .val4 l.attempts, .code1 l.a.usable, .code1 l.b.usable] (lnkErr 1 k s)
  answerRetrains k false (if k < 8 then s else ptnLost (k - 8) s)

/-- An attempt fails; after three the link goes DOWN (R368, Table 13.2). -/
def failAttempt (k : Nat) (s : State) : State :=
  let s := modLink k (fun l => { l with attempts := l.attempts + 1 }) s
  if 3 ≤ (getLink s k).attempts then trainDown k s else beginAttempt k s

/-- The seal: both ends hold the epoch and the mask, ingress fences are lifted, LNK_POLICY commits (R368 step 6, R382). -/
def sealLink (k epoch mask : Nat) (s : State) : State :=
  let pol := regGet s 0x200000C
  let s := modLink k (fun l =>
    { l with mask, sealed := epoch, step := .idle, wires := [], await := none, naks := [], nakOut := [], policy := pol,
             retrains := if l.once then satAdd 16 l.retrains 1 else l.retrains, once := true,
             a := { l.a with epoch, fenced := false, discarding := false, refusing := false, heard := s.clk, beat := s.clk },
             b := { l.b with epoch, fenced := false, discarding := false, refusing := false, heard := s.clk, beat := s.clk } }) s
  let s := { s with eff := tabSet regDefault s.eff 0x200000C pol }
  if mask = 0 then trainDown k (modLink k (fun l => { l with attempts := l.attempts + 1 }) s) else answerRetrains k true (modLink k (fun l => { l with st := .up }) s)

/-! ### Repair maps (R366) -/

/-- Data threads a map carries on spares, in entry order. -/
def RepairMap.threads (m : RepairMap) : List Nat := m.spares.filterMap id

/-- The map after a rethread that found `bad` among threads 0 to 67, 64 to 67 the spares. -/
def RepairMap.rethread (m : RepairMap) (bad : List Nat) : RepairMap :=
  let badSpares := (m.badSpares ++ (bad.filter fun t => 64 ≤ t && t < 68).map (· - 64)).eraseDups
  let all := m.threads ++ m.failed
  let need := all ++ (bad.filter fun t => t < 64 && !all.elem t).eraseDups
  let good := (List.range 4).filter fun i => !badSpares.elem i
  let place := need.zip good
  { m with badSpares, spares := (List.range 4).map fun i => (place.find? fun x => x.2 = i).map (·.1), failed := need.drop good.length }

/-- Every failing data thread has a good spare. -/
def RepairMap.usable (m : RepairMap) : Bool := m.failed.isEmpty

def dMap (_ : Nat) : RepairMap := {}

/-- Bundles whose direction `d` (0 A to B, 1 B to A) is usable, as a mask. -/
def usableMask (l : Link) (d : Nat) : Nat := ofBits ((List.range 4).filter fun b => (tabGet dMap l.maps (2 * b + d)).usable)

/-- Epoch of the next seal: one above the higher of the two, 1 in place of 0 (R368 step 3). -/
def nextEpoch (a b : Nat) : Nat := if (max a b + 1) % 65536 = 0 then 1 else (max a b + 1) % 65536

/-- Lanes of a partner port a mask gives: 4, 2, 1 or none (R384). -/
def lanesOf (mask : Nat) : Nat :=
  let n := (bitList 4 mask).length
  if n = 4 then 4 else if 2 ≤ n then 2 else n

/-- A partner port is sealed by both packages (R384, R452); a failed key exchange fails the attempt. -/
def ptnTrain (h own peerE peerM : Nat) (keyOk : Bool) (s : State) : State :=
  let k := 8 + h
  if !keyOk then failAttempt k (event h 0x0A09 [.id1 h] s)
  else
    let mask := own &&& peerM
    let s := modLink k (fun l => { l with a := { l.a with usable := own }, b := { l.b with usable := peerM } }) s
    let s := modPtn h (fun x => { x with lanes := lanesOf mask, ok := mask ≠ 0, heard := s.clk, key := some s.sec.draws, badTags := 0 })
      { s with sec := { s.sec with draws := s.sec.draws + 1 } }
    sealLink k (nextEpoch (getLink s k).a.epoch peerE) mask s

def doLinkTrain (t k : Nat) (fails : List (List Nat)) (peerE peerM : Nat) (keyOk : Bool) (s : State) : State :=
  let s := advance t s
  let l := getLink s k
  if k < 10 ∧ l.st = .training ∧ l.step = .threads ∧ endsLive s k then
    if 8 ≤ k then
      withRoutes (ptnTrain (k - 8) (ofBits ((List.range 4).filter fun i => (fails.getD i []).isEmpty)) peerE peerM keyOk) s
    else
      let maps := if l.rethread then
          (List.range 8).foldl (fun t i => tabMod dMap t i fun m => m.rethread (fails.getD i [])) l.maps
        else l.maps
      let l' := { l with maps }
      let mA := usableMask l' 1
      let mB := usableMask l' 0
      let e := nextEpoch l.a.epoch l.b.epoch
      let s := modLink k (fun l =>
        { l with maps, a := { l.a with usable := mA }, b := { l.b with usable := mB }, propE := e, propM := mA,
                 step := .maskSent }) s
      sbSend k { toB := true, kind := 2, epoch := e, mask := mA } s
  else s

/-- LINK_TRAIN (R366 to R368): the threads of an attempt are trained. `fails` lists the threads that show an error, by
2·bundle + direction; of a partner port, by lane. End A then chooses the epoch and sends MASK; a partner port, trained in
band, is sealed with the partner's epoch, mask and key exchange. -/
def execLinkTrain (t k : Nat) (fails : List (List Nat)) (peerE peerM : Nat) (keyOk : Bool) (s : State) :
    Host.Outcome State Fault Refusal := .next (doLinkTrain t k fails peerE peerM keyOk s)

/-! ### Sideband messages (R365, Table 13.1) -/

/-- An end receives a message whose check holds. -/
def sbReceive (k : Nat) (m : SbMsg) (s : State) : State :=
  let l := getLink s k
  if l.st ≠ .training then s
  else
    match m.kind with
    | 1 =>
      let s := modLink k (fun l => { l with sbOk := true, rethread := l.rethread || m.data % 2 = 1 }) s
      if l.step ≠ .request then s
      else if m.toB = l.fromB then modLink k (fun l => { l with step := .threads, await := none }) s
      else sbSend k { toB := l.fromB, kind := 1, epoch := (l.side (!l.fromB)).epoch, data := b2n l.rethread } s
    | 2 =>
      if m.toB ∧ (l.step = .maskSent ∨ l.step = .confirmB) then
        let s := modLink k (fun l => { l with step := .confirmB, propE := m.epoch, propM := m.mask &&& l.b.usable }) s
        sbSend k { toB := false, kind := 3, epoch := m.epoch, mask := m.mask &&& l.b.usable } s
      else s
    | 3 =>
      if !m.toB ∧ (l.step = .confirmB ∨ l.step = .confirmA) then
        if m.epoch = l.propE ∧ m.mask = l.a.usable &&& l.b.usable then
          sbSend k { toB := true, kind := 3, epoch := m.epoch, mask := m.mask } (modLink k (fun l => { l with step := .confirmA }) s)
        else failAttempt k s
      else if m.toB ∧ l.step = .confirmA then
        if m.epoch = l.propE ∧ m.mask = l.propM then sealLink k m.epoch m.mask s else failAttempt k s
      else s
    | _ => s

def doSidebandMessage (t k : Nat) (toB ok : Bool) (s : State) : State :=
  let s := advance t s
  match (getLink s k).wires.find? (·.toB = toB) with
  | none => s
  | some m =>
    let s := modLink k (fun l => { l with wires := l.wires.erase m }) s
    if ok && !injActive s 0x0504 k then withRoutes (sbReceive k m) s else s

/-- SIDEBAND_MESSAGE (R365, R368): the oldest message towards an end arrives; with a bad check it is discarded. -/
def execSidebandMessage (t k : Nat) (toB ok : Bool) (s : State) : Host.Outcome State Fault Refusal :=
  .next (doSidebandMessage t k toB ok s)

def doSidebandRetry (t k : Nat) (s : State) : State :=
  let s := advance t s
  match (getLink s k).await with
  | none => s
  | some (m, since) =>
    if s.clk < since + 10000 then s
    else if m.repeats < 3 then sbSend k { m with repeats := m.repeats + 1 } s
    else event 0 0x0505 [.id1 k] (lnkErr 3 k (modLink k (fun l => { l with sbOk := false, await := none }) s))

/-- SIDEBAND_RETRY (R365): an unanswered message is sent again, three times; then the sideband is dead, event 0x0505. -/
def execSidebandRetry (t k : Nat) (s : State) : Host.Outcome State Fault Refusal := .next (doSidebandRetry t k s)

def doTrainTimeout (t k : Nat) (s : State) : State :=
  let s := advance t s
  let l := getLink s k
  let limit := if k < 8 then 1000000 else 6000000
  if k < 10 ∧ l.st = .training ∧ l.began + limit ≤ s.clk then withRoutes (failAttempt k) s else s

/-- TRAIN_TIMEOUT (R368, R452): an attempt lasts 1 ms at most, on a partner port 5 ms more for its keys. -/
def execTrainTimeout (t k : Nat) (s : State) : Host.Outcome State Fault Refusal := .next (doTrainTimeout t k s)

/-- The checks of LINK_RETRAIN (R524). -/
def retrainCheck (s : State) (d : Desc) : Option Refused :=
  let k := d.u 8 1
  let st := (getLink s k).st
  firstOf [(9 < k || (k < 8 && (st = .fenced || st = .off)) || (8 ≤ k && !(getPtn s (k - 8)).enable), bad 8)]

def retrainBody (d : Desc) (s : State) : State :=
  let k := d.u 8 1
  let l := getLink s k
  let auto := l.st = .training && l.auto
  let f (s : State) : State := startTraining k false (bit (d.u 9 1) 0 || auto) auto
    (modLink k (fun l => { l with waiters := l.waiters ++ [d.id] }) s)
  withRoutes f s

def doLinkRetrain (t id : Nat) (s : State) : State := runScion t id 0x17 retrainCheck retrainBody s

/-- LINK_RETRAIN (R524): a new training; the descriptor completes when it ends. -/
def execLinkRetrain (t id : Nat) (s : State) : Host.Outcome State Fault Refusal := .next (doLinkRetrain t id s)

/-! ## Flits (R370 to R376) -/

/-- Acknowledged flits leave the replay buffer: those up to and including `ack`. -/
def ackReplay (ack : Nat) (l : List Nat) : List Nat :=
  if l.elem ack then (l.dropWhile (· ≠ ack)).drop 1 else l

def dE2e (_ : Nat) : E2e := {}
def modE2e (src dst : Nat) (f : E2e → E2e) (s : State) : State := { s with e2e := tabMod dE2e s.e2e (6 * src + dst) f }

/-- A packet passes from one die to the next: stored for resending where a third die is on its route; at its destination
delivered, or discarded as already delivered (R376). -/
def passPacket (frm to_ : Nat) (p : Nat × Nat × Nat) (s : State) : State :=
  let (src, dst, seq) := p
  if dst = to_ then
    modE2e src dst (fun e => { e with seen := if e.seen.elem seq then e.seen else (e.seen ++ [seq]).drop (e.seen.length + 1 - 1024) }) s
  else if src = frm then modE2e src dst (fun e => { e with unacked := if e.unacked.elem seq then e.unacked else e.unacked ++ [seq] }) s
  else s

/-- Replay threshold and window of a link in effect (LNK_POLICY): naks, 0 none, and ns. -/
def replayPolicy (s : State) (l : Link) : Nat × Nat :=
  let w := l.policy.toNat
  if fld s 0x2000004 0 1 = 1 then (bits w 8 8, max 1 (bits w 16 16) * 1000)
  else match bits w 0 2 with
    | 0 => (8, 1000000)
    | 1 => (4, 1000000)
    | 2 => (32, 1000000)
    | _ => (0, 1000000)

/-- A flit fails its CRC: it and those after it are discarded and a nak names the last good one (R371). -/
def badFlit (k : Nat) (toB : Bool) (f : Flit) (s : State) : State :=
  let e := (getLink s k).side toB
  let s := modLink k (fun l =>
    { l with crcErr := satAdd 16 l.crcErr 1, replays := satAdd 16 l.replays 1,
             nakOut := l.nakOut ++ [(!toB, f.bundle, (e.seqRx + 65535) % 65536)] }) s
  modSide k toB (fun e => { e with discarding := true }) s

/-- A flit of a foreign epoch is refused and both ends retrain (R373). -/
def refuseFlit (k : Nat) (toB : Bool) (epoch : Nat) (s : State) : State :=
  let held := ((getLink s k).side toB).epoch
  let s := modLink k (fun l => { l with refused := satAdd 8 l.refused 1 }) s
  let s := event 0 0x0504 [.id1 k, .val2 held, .val2 epoch] (lnkErr 2 k (modSide k toB (fun e => { e with refusing := true }) s))
  startTraining k toB true true s

/-- A flit that passes its checks. -/
def goodFlit (k : Nat) (toB : Bool) (f : Flit) (s : State) : State :=
  let s := modSide k toB (fun e => { e with heard := s.clk, replay := ackReplay f.ack e.replay }) s
  if f.kind = 1 ∨ f.kind = 2 then
    let e := (getLink s k).side toB
    if f.seq = e.seqRx then
      let s := modSide k toB (fun e => { e with seqRx := (e.seqRx + 1) % 65536, discarding := false }) s
      if k < 8 then f.packets.foldl (fun s p => passPacket (endDie k (!toB)) (endDie k toB) p s) s
      else if f.kind = 2 ∧ !injActive s 0x0E01 (k - 8) then modPtn (k - 8) (fun x => { x with heard := s.clk, ok := true }) s
      else s
    else s
  else s

def receiveFlit (k : Nat) (toB : Bool) (f : Flit) (s : State) : State :=
  let l := getLink s k
  let e := l.side toB
  let spoilt := injStrikes s 0x0502 (4 * k + f.bundle)
  let shifted := injLive s 0x0503 k
  let s := if spoilt then injSpend 0x0502 (4 * k + f.bundle) s else if shifted then injUse s else s
  let epoch := if shifted then (f.epoch + 1) % 65536 else f.epoch
  if e.fenced then s
  else if !f.crcOk ∨ spoilt then badFlit k toB f s
  else if e.discarding ∧ f.seq ≠ e.seqRx then s
  else if epoch ≠ e.epoch then refuseFlit k toB epoch s
  else if 3 < f.kind then s
  else goodFlit k toB f s

def doFlitReceive (t k : Nat) (toB : Bool) (f : Flit) (s : State) : State :=
  let s := advance t s
  if k < 10 ∧ (getLink s k).st = .up ∧ bit (getLink s k).mask f.bundle then withRoutes (receiveFlit k toB f) s else s

/-- FLIT_RECEIVE (R371 to R373, R376): a flit reaches end A or B of a link in UP. -/
def execFlitReceive (t k : Nat) (toB : Bool) (f : Flit) (s : State) : Host.Outcome State Fault Refusal :=
  .next (doFlitReceive t k toB f s)

def doNakReceived (t k : Nat) (s : State) : State :=
  let s := advance t s
  let l := getLink s k
  match l.nakOut with
  | [] => s
  | (toB, b, good) :: r =>
    let (thr, window) := replayPolicy s l
    let recent := ((tabGet (fun _ => []) l.naks b).filter fun x => s.clk < x + window) ++ [s.clk]
    let s := modLink k (fun l => { l with nakOut := r, naks := tabSet (fun _ => []) l.naks b recent }) s
    let s := modSide k toB (fun e => { e with replay := ackReplay good e.replay }) s
    if l.st = .up ∧ thr ≠ 0 ∧ thr ≤ recent.length then
      let s := event 0 0x0503 [.id1 k, .id1 b, .val4 recent.length] s
      withRoutes (startTraining k false true true) s
    else s

/-- NAK_RECEIVED (R371): the sender resends from the flit after the one named; at the threshold the link retrains, event
0x0503. -/
def execNakReceived (t k : Nat) (s : State) : Host.Outcome State Fault Refusal := .next (doNakReceived t k s)

def doLinkHeartbeat (t k : Nat) (fromB : Bool) (s : State) : State :=
  let s := advance t s
  let l := getLink s k
  let e := l.side fromB
  let every := if k < 8 then 10000 else 100000
  if k < 10 ∧ l.st = .up ∧ e.beat + every ≤ s.clk ∧ e.replay.length < 512 then
    modSide k fromB (fun e => { e with beat := s.clk, seqTx := (e.seqTx + 1) % 65536, replay := e.replay ++ [e.seqTx] }) s
  else s

/-- LINK_HEARTBEAT (R374, R384): an end of a link in UP sends a heartbeat flit. -/
def execLinkHeartbeat (t k : Nat) (fromB : Bool) (s : State) : Host.Outcome State Fault Refusal :=
  .next (doLinkHeartbeat t k fromB s)

def doLinkSilence (t k : Nat) (atB : Bool) (s : State) : State :=
  let s := advance t s
  let l := getLink s k
  if k < 8 ∧ l.st = .up ∧ (l.side atB).heard + 30000 ≤ s.clk then
    let s := modLink k (fun l => { l with hbLost := satAdd 8 l.hbLost 1 }) s
    let s := withRoutes (startTraining k atB true true) s
    [endDie k false, endDie k true].foldl (fun s d => if d < 4 then event (2 + d) 0x0506 [.id1 d, .id1 k] s else s) s
  else s

/-- LINK_SILENCE (R374): no valid flit for 30 µs; each compute die of the link reports it, event 0x0506. -/
def execLinkSilence (t k : Nat) (atB : Bool) (s : State) : Host.Outcome State Fault Refusal := .next (doLinkSilence t k atB s)

/-- E2E_ACK (R376): the destination acknowledges packets and the source's store frees them. -/
def doE2eAck (t src dst : Nat) (seqs : List Nat) (s : State) : State :=
  modE2e src dst (fun e => { e with unacked := e.unacked.filter fun q => !seqs.elem q }) (advance t s)

def execE2eAck (t src dst : Nat) (seqs : List Nat) (s : State) : Host.Outcome State Fault Refusal :=
  .next (doE2eAck t src dst seqs s)

/-! ## A lost die (R25, R375 to R381, R114) -/

/-- Contexts and partitions lose the cores of a fenced die (R114). -/
def loseCores (d tf : Nat) (s : State) : State :=
  let gone := s.prt.ctxs.filter fun e => e.2.place.any fun g => g / 32 = d
  let s := gone.foldl (fun s e => teardown (e.1 / 16) (e.1 % 16) 0x0301 d 0 tf none s) s
  let s := (created s).foldl (fun s p => modPart p (fun x => { x with cores := x.cores.set d 0 }) s) s
  let s := s.prt.ctxs.foldl (fun s e =>
    if partTotal s (e.1 / 16) < e.2.cores then teardown (e.1 / 16) (e.1 % 16) 0x0301 d 0 tf none s else s) s
  let s := (List.range 32).foldl (fun s c =>
    modCore (32 * d + c) (fun k => { role := .off, failed := k.failed, cnt := k.cnt, lastTest := k.lastTest }) s) s
  changed (clearScan d (modDie d (fun x => { x with spare := none }) s))

/-- A die enters reset: its end of every link holds epoch 0 (R382 step 1). -/
def resetDie (d : Nat) (s : State) : State :=
  let s := modDie d (fun x => { x with st := .reset, since := s.clk, pll := false }) s
  (linksOf d).foldl (fun s k => modSide k (isEndB k d) (fun _ => {}) s) s

/-- The fence has taken effect at every ingress: Tf, event 0x0501, DIE_LOST; a DIE_RESET that waited completes or resets
(R65, R377, R379). -/
def fenceDone (d : Nat) (s : State) : State :=
  let h := declHub s d
  let tf := hubTime s h
  let x := getDie s d
  let s := modDie d (fun x => { x with tf }) s
  let s := event h 0x0501 [.id1 d, .code1 x.cause, .val8 tf] (lnkErr 4 (hLink d) s)
  let s := loseCores d tf s
  match x.desc with
  | none => s
  | some i =>
    if x.noReset then finishOk i (modDie d (fun x => { x with desc := none }) s) else resetDie d s

/-- DIE_DECLARE_LOST (R377): the declaring hub fences at its own ingress and sends FENCE to the others. -/
def declareLost (d cause : Nat) (s : State) : State :=
  let h := declHub s d
  let others := ([xPeer d, yPeer d] ++ (if homeHub d = h then [] else [4 + homeHub d])).filter fun o =>
    if o < 4 then dieLive s o else hubUp s (o - 4)
  let s := modDie d (fun x => { x with st := .fenced, cause, toFence := others }) s
  let s := (linksOf d).foldl (fun s k =>
    let s := modLink k (fun l => { l with st := .fenced, step := .idle, wires := [], await := none, mask := 0 }) s
    let s := answerRetrains k false s
    if endDie k (!isEndB k d) = 4 + h then modSide k (!isEndB k d) (fun e => { e with fenced := true }) s else s) s
  if others.isEmpty then fenceDone d s else s

/-- Declare a die lost with what the loss of its links brings about. -/
def loseDie (d cause : Nat) (s : State) : State := withRoutes (declareLost d cause) s

def doFenceReceive (t d lost : Nat) (s : State) : State :=
  let s := advance t s
  let x := getDie s lost
  if lost < 4 ∧ x.st = .fenced ∧ x.toFence.elem d then
    let s := modDie lost (fun x => { x with toFence := x.toFence.filter (· ≠ d) }) s
    let s := (linksOf lost).foldl (fun s k =>
      if endDie k (!isEndB k lost) = d then modSide k (!isEndB k lost) (fun e => { e with fenced := true }) s else s) s
    if (getDie s lost).toFence.isEmpty then settle (fenceDone lost s) else s
  else s

/-- FENCE_RECEIVE (R377 to R379): die `d` fences its links to the lost die; at the last one the fence is complete. -/
def execFenceReceive (t d lost : Nat) (s : State) : Host.Outcome State Fault Refusal := .next (doFenceReceive t d lost s)

def doDieHeartbeat (t d : Nat) (pll : Bool) (s : State) : State :=
  let s := advance t s
  if d < 4 ∧ (getDie s d).st = .up then
    let s := modDie d (fun x => { x with beats := (x.beats + 1) % 2 ^ 32 }) s
    if injActive s 0x0501 d ∨ !dieReaches s d (declHub s d) then s
    else if !pll then loseDie d 1 s
    else modDie d (fun x => { x with heard := s.clk }) s
  else s

/-- DIE_HEARTBEAT (R375): sent on both routes; either copy counts, and one that reports PLL unlock loses the die. -/
def execDieHeartbeat (t d : Nat) (pll : Bool) (s : State) : Host.Outcome State Fault Refusal := .next (doDieHeartbeat t d pll s)

def doDieHeartbeatMiss (t d : Nat) (s : State) : State :=
  let s := advance t s
  if d < 4 ∧ (getDie s d).st = .up ∧ (getDie s d).heard + 30000 ≤ s.clk ∧ hubUp s (declHub s d) then loseDie d 0 s else s

/-- DIE_HEARTBEAT_MISS (R25, R375): three intervals without a heartbeat. -/
def execDieHeartbeatMiss (t d : Nat) (s : State) : Host.Outcome State Fault Refusal := .next (doDieHeartbeatMiss t d s)

def doFencedHeartbeat (t d : Nat) (s : State) : State :=
  let s := advance t s
  if d < 4 ∧ (getDie s d).st = .fenced then event (declHub s d) 0x0507 [.id1 d] s else s

/-- FENCED_HEARTBEAT (R381): ignored, event 0x0507. -/
def execFencedHeartbeat (t d : Nat) (s : State) : Host.Outcome State Fault Refusal := .next (doFencedHeartbeat t d s)

/-! ## DIE_RESET and rejoin (R65, R382, R477) -/

/-- A sensor of the die reads 110 °C or more (R485). -/
def dieHot (s : State) (d : Nat) : Bool :=
  (List.range 10).any fun i =>
    let x := tabGet (fun _ => ((0 : Int), false)) s.pwr.temps (10 * d + i)
    x.2 || 110 * 16 ≤ x.1

/-- The checks of DIE_RESET (R65, R382, R485). -/
def dieResetCheck (s : State) (d : Desc) : Option Refused :=
  let k := d.u 8 1
  let st := (getDie s k).st
  let fence := bit (d.u 9 1) 0
  let noReset := bit (d.u 9 1) 1
  firstOf [(3 < k || dieHot s k || (st ≠ .up && st ≠ .fenced), bad 8), (st = .up && !fence, bad 9),
    (st = .fenced && !noReset && (getHub s (homeHub k)).inReset, bad 8)]

def dieResetBody (d : Desc) (s : State) : State :=
  let k := d.u 8 1
  let noReset := bit (d.u 9 1) 1
  if (getDie s k).st = .up then loseDie k 2 (modDie k (fun x => { x with desc := some d.id, noReset }) s)
  else if noReset then finishOk d.id s
  else
    let s := modDie k (fun x => { x with desc := some d.id, noReset := false }) s
    if (getDie s k).toFence.isEmpty then resetDie k s else s

def doDieReset (t id : Nat) (s : State) : State := runScion t id 0x18 dieResetCheck dieResetBody s

/-- DIE_RESET (R65, R377, R380, R382). -/
def execDieReset (t id : Nat) (s : State) : Host.Outcome State Fault Refusal := .next (doDieReset t id s)

/-- All four quadrant bits of a die. -/
def quadBits (d : Nat) : Nat := 15 * 2 ^ (5 * d)

/-- The die comes up: PLL locked, SRAM clear, its registers as after reset; quadrants that no mode left gated are powered
(R382 step 1, R477). -/
def raiseDie (d : Nat) (s : State) : State :=
  let x := getDie s d
  let all := (List.range 4).all fun q => !quadOn s d q
  let cd := if all ∧ (x.st = .bringup ∨ x.desc.isSome) then s.pwr.cd ||| quadBits d else s.pwr.cd
  let s := { s with pwr := { s.pwr with cd := cd ||| 2 ^ (5 * d + 4) } }
  let s := resetRegs (Blk.die d).base 0x200000 (resetRegs (0x1000000 + d * 0x400000) 0x200000 s)
  let s := (List.range 32).foldl (fun s c =>
    modCore (32 * d + c) (fun k => { role := .off, failed := k.failed, cnt := k.cnt, lastTest := k.lastTest }) s) s
  modDie d (fun x => { x with st := if x.st = .reset then .rejoin else x.st, pll := true }) s

/-- A link of a die that comes up trains with rethread; one to a die that is still fenced stays as it is (R367, R382). -/
def rejoinLink (k : Nat) (s : State) : State :=
  if endsLive s k then startTraining k false true true s
  else if (getDie s (endDie k true)).st = .fenced ∨ (endDie k false < 4 ∧ (getDie s (endDie k false)).st = .fenced) then
    modLink k (fun l => { l with st := .fenced }) s
  else modLink k (fun l => { l with st := .off }) s

def doDieResetRelease (t d : Nat) (s : State) : State :=
  let s := advance t s
  let x := getDie s d
  if d < 4 ∧ ((x.st = .reset ∧ x.since + 10000 ≤ s.clk) ∨ (x.st = .bringup ∧ !x.pll)) then
    withRoutes (fun s => (linksOf d).foldl (fun s k => rejoinLink k s) s) (raiseDie d s)
  else s

/-- DIE_RESET_RELEASE (R382 steps 1 and 2; R491, R477): the die locks its PLL and its links train. -/
def execDieResetRelease (t d : Nat) (s : State) : Host.Outcome State Fault Refusal := .next (doDieResetRelease t d s)

/-- The die's cores return to the free pool and its spare is the highest enabled core (R24, R382 step 3). -/
def dieUpNow (d : Nat) (s : State) : State :=
  let live := liveCores s d
  let s := live.foldl (fun s g => modCore g (fun k => { k with role := .free }) s) s
  let spare := (live.map (· % 32)).getLast?
  changed (modDie d (fun x => { x with st := .up, heard := s.clk, spare, gated := live.isEmpty, desc := none }) s)

/-- No route forms: the die is FENCED again, event 0x0502, and its DIE_RESET completes LINK_DOWN (R65, R382). -/
def rejoinFailed (d : Nat) (s : State) : State :=
  let x := getDie s d
  let l := getLink s (hLink d)
  let tf := hubTime s (declHub s d)
  let s := modDie d (fun x => { x with st := .fenced, desc := none, toFence := [] }) s
  let s := (linksOf d).foldl (fun s k => modLink k (fun l => { l with st := .fenced, mask := 0 }) s) s
  let s := event (declHub s d) 0x0502 [.id1 (hLink d), .val4 l.attempts, .code1 l.a.usable, .code1 l.b.usable]
    (lnkErr 1 (hLink d) s)
  match x.desc with
  | some i => finish i 0x0302 0xFF d tf s
  | none => s

def doDieRejoinDone (t d : Nat) (s : State) : State :=
  let s := advance t s
  let x := getDie s d
  let settled := (linksOf d).all fun k => (getLink s k).st ≠ .training
  if d < 4 ∧ (x.st = .rejoin ∨ (x.st = .bringup ∧ x.pll)) ∧ settled then
    if dieReaches s d (declHub s d) then
      let s := dieUpNow d s
      settle (match x.desc with | some i => finishOk i s | none => s)
    else withRoutes (rejoinFailed d) s
  else s

/-- DIE_REJOIN_DONE (R382 step 3): UP with a route to the declaring hub, else FENCED again. -/
def execDieRejoinDone (t d : Nat) (s : State) : Host.Outcome State Fault Refusal := .next (doDieRejoinDone t d s)

end Sys2Proof.Machine
end

