-- ==== Sys2Proof/Machine/Partner.lean ====
section
/-!
DEFINITION. Partner.lean: partner ports and mirrored ranges (R384 to R388, R445, R452). The training of a port is in
Links.lean, the copying of writes into its send queue in Memory.lean.
-/
namespace Sys2Proof.Machine

def doPartnerEnable (t : Nat) (acc : Agent) (hub : Nat) (en : Bool) (s : State) : State :=
  let s := advance t s
  if hub < 2 ∧ writeReaches s acc (ptnBase hub + 4) then
    let was := (getPtn s hub).enable
    let s := modPtn hub (fun x => { x with enable := en }) s
    if en then wakeLink (8 + hub) s
    else if was then
      let s := modLink (8 + hub) (fun l => { l with st := .off, step := .idle, mask := 0 }) s
      answerRetrains (8 + hub) false (ptnLost hub s)
    else s
  else s

/-- PARTNER_ENABLE (R384): a write of PTN_CFG.enable. With 1 the port trains and runs, with 0 it is off. -/
def execPartnerEnable (t : Nat) (acc : Agent) (hub : Nat) (en : Bool) (s : State) : Host.Outcome State Fault Refusal :=
  .next (doPartnerEnable t acc hub en s)

def doPartnerLost (t hub : Nat) (s : State) : State :=
  let s := advance t s
  if hub < 2 ∧ (getPtn s hub).ok ∧ (getPtn s hub).heard + 300000 ≤ s.clk then settle (ptnLost hub s) else s

/-- PARTNER_LOST (R384, R387): three intervals of 100 µs without the partner's heartbeat; every range of the port
diverges. -/
def execPartnerLost (t hub : Nat) (s : State) : Host.Outcome State Fault Refusal := .next (doPartnerLost t hub s)

/-! ## MIRROR_CFG (R385) -/

def Desc.mirPart (d : Desc) : Nat := d.u 8 1
def Desc.mirAddr (d : Desc) : Nat := d.u 16 8
def Desc.mirGran (d : Desc) : Nat := d.u 16 8 / granuleBytes
def Desc.mirCount (d : Desc) : Nat := d.u 24 4

/-- Hubs whose DRAM holds a granule of the range. -/
def rangeHubs (s : State) (d : Desc) : List Nat :=
  [0, 1].filter fun h => (pieces d.mirAddr (granuleBytes * d.mirCount)).any fun x => devHub (devOf s d.mirPart x.1) = h

/-- A mirrored range of the partition that is not idle shares a granule with `[g, g + n)`. -/
def rangeMeets (s : State) (p g n : Nat) : Bool :=
  [0, 1].any fun h => (getPtn s h).ranges.any fun e =>
    e.2.st ≠ 0 && e.2.part = p && e.2.gran < g + n && g < e.2.gran + e.2.granules

/-- Ranges of a port that are not idle. -/
def rangesUsed (s : State) (h : Nat) : Nat := ((getPtn s h).ranges.filter fun e => e.2.st ≠ 0).length

/-- The checks of MIRROR_CFG add (R385), then that of R445: `same` says whether the partner reports the same policy
digest. -/
def mirrorAddCheck (same : Bool) (s : State) (d : Desc) : Option Refused :=
  let p := d.mirPart
  let n := d.mirCount
  firstOf [(1 < d.u 9 1, bad 9), (p = 0 || 32 < p || (getPart s p).st ≠ 1, bad 8),
    (n = 0 || d.mirAddr % granuleBytes ≠ 0 || partSpace < d.mirAddr + granuleBytes * n ||
      (refusedAt s p d.mirAddr (granuleBytes * n) true).isSome || rangeMeets s p d.mirGran n, bad 16),
    ((rangeHubs s d).any (fun h => 32 ≤ rangesUsed s h), bad 24),
    ((rangeHubs s d).any (fun h => !(getPtn s h).enable), bad 8),
    ((getPart s p).confidential && !same, denied 0x0F)]

def dRange (_ : Nat) : MirRange := {}

/-- A range takes the lowest idle place of a port. -/
def placeRange (h : Nat) (r : MirRange) (s : State) : State :=
  modPtn h (fun x =>
    match (List.range 32).find? fun i => (tabGet dRange x.ranges i).st = 0 with
    | some i => { x with ranges := tabSet dRange x.ranges i r }
    | none => x) s

def mirrorAddBody (d : Desc) (s : State) : State :=
  (rangeHubs s d).foldl (fun s h =>
    placeRange h { part := d.mirPart, st := 1, granules := d.mirCount, gran := d.mirGran, desc := some d.id } s) s

/-- The MIRROR_CFG descriptor asks for a remove. -/
def mirrorRemoves (s : State) (id : Nat) : Bool :=
  match findDesc s id with
  | some d => d.u 9 1 = 1
  | none => false

def doMirrorCfgAdd (t id : Nat) (same : Bool) (s : State) : State :=
  if mirrorRemoves s id then advance t s else runScion t id 0x1B (mirrorAddCheck same) mirrorAddBody s

/-- MIRROR_CFG_ADD (R385, R445): the range waits, at every hub whose DRAM holds a granule of it, for the partner. -/
def execMirrorCfgAdd (t id : Nat) (same : Bool) (s : State) : Host.Outcome State Fault Refusal :=
  .next (doMirrorCfgAdd t id same s)

def mirrorRemoveBody (d : Desc) (s : State) : State :=
  let gone (r : MirRange) : Bool := r.part = d.mirPart && r.gran = d.mirGran && r.granules = d.mirCount
  let s := [0, 1].foldl (fun s h => modPtn h (fun x => { x with ranges := x.ranges.filter fun e => !gone e.2 }) s) s
  finishOk d.id s

def doMirrorCfgRemove (t id : Nat) (s : State) : State :=
  if mirrorRemoves s id then runScion t id 0x1B noCheck mirrorRemoveBody s else advance t s

/-- MIRROR_CFG_REMOVE (R385): the range is mirrored no more; completes at once. -/
def execMirrorCfgRemove (t id : Nat) (s : State) : Host.Outcome State Fault Refusal := .next (doMirrorCfgRemove t id s)

/-- Ports on which the ranges of a MIRROR_CFG add wait. -/
def waitingPorts (s : State) (id : Nat) : List Nat :=
  [0, 1].filter fun h => (getPtn s h).ranges.any fun e => e.2.st = 1 && e.2.desc = some id

/-- The port runs: sealed, with the partner's heartbeats current. -/
def portRuns (s : State) (h : Nat) : Bool := (getPtn s h).ok && (getLink s (8 + h)).st = .up

def doRangeInSync (t id : Nat) (s : State) : State :=
  let s := advance t s
  let hs := waitingPorts s id
  match findDesc s id with
  | none => s
  | some d =>
    if hs.isEmpty ∨ !hs.all (portRuns s) then s
    else
      let s := hs.foldl (fun s h =>
        let s := modPtn h (fun x =>
          { x with ranges := x.ranges.map fun e => if e.2.desc = some id then (e.1, { e.2 with st := 2, desc := none }) else e }) s
        let s := if fld s (ptnBase h + 4) 1 1 = 0 then send (.partnerCopy h d.mirPart d.mirAddr (granuleBytes * d.mirCount)) s else s
        eventFor d.mirPart h 0x0E02 [.id1 h, .id1 d.mirPart, .loc8 d.mirAddr] s) s
      settle (finishOk id s)

/-- RANGE_IN_SYNC (R385): the partner's matching add has arrived and the package with role 0 has copied the range. -/
def execRangeInSync (t id : Nat) (s : State) : Host.Outcome State Fault Refusal := .next (doRangeInSync t id s)

/-! ## Mirrored writes (R386, R452) -/

/-- A packet of the partner is applied: writes to a range of this port that waits or is in-sync, operations on a
semaphore of a partition. Neither is mirrored back. -/
def applyPkt (h : Nat) (k : PtnPkt) (s : State) : State :=
  match k with
  | .write p a bs =>
    let here (x : Nat × Nat) : Bool :=
      devHub (devOf s p x.1) = h && (granAt s p (x.1 / granuleBytes)).isSome &&
        (getPtn s h).ranges.any fun e =>
          (e.2.st = 1 || e.2.st = 2) && e.2.part = p && e.2.gran ≤ x.1 / granuleBytes && x.1 / granuleBytes < e.2.gran + e.2.granules
    (pieces a bs.length).foldl (fun s x =>
      if here x then (writeDev (devOf s p x.1) ((bs.drop (x.1 - a)).take x.2) (.hub 1) s).2 else s) s
  | .sem p sem set v =>
    if (getPart s p).st ≠ 0 ∧ sem < 960 then
      let x := if set then v % 2 ^ 64 else (semVal s p sem + v) % 2 ^ 64
      let s := changed (setSem p sem x s)
      serveSem p sem (getPart s p).waits.length s
    else s

/-- The oldest item of a send queue leaves; the time writes waited is counted once the queue is below its limit (R386). -/
def sendFront (h : Nat) (it : PtnItem) (rest : List PtnItem) (s : State) : State :=
  let x := getPtn s h
  let s := modPtn h (fun x => { x with queue := rest }) s
  let s := send (match it with
    | .write p a bs => Out.partnerWrite h p a bs
    | .sem p n set v => Out.partnerSem h p n set v) s
  let s := match x.fullSince with
    | none => s
    | some since =>
      if queueBytes rest < lagLimit s h then
        modPtn h (fun x => { x with fullSince := none, waitUs := satAdd 32 x.waitUs ((s.clk - since) / 1000) }) s
      else s
  if rest.isEmpty then commit (ptnBase h + 0xC) s else s

def doPartnerMirrorApply (t hub : Nat) (pkt : Option PtnPkt) (tagOk : Bool) (s : State) : State :=
  let s := advance t s
  if 2 ≤ hub ∨ !portRuns s hub then s
  else
    match pkt with
    | none =>
      match (getPtn s hub).queue with
      | [] => s
      | it :: rest => sendFront hub it rest s
    | some k =>
      let spoilt := injLive s 0x0E02 hub
      let s := if spoilt then injUse s else s
      if !tagOk ∨ spoilt then
        let s := event hub 0x0A09 [.id1 hub] (modPtn hub (fun x => { x with badTags := x.badTags + 1 }) s)
        withRoutes (startTraining (8 + hub) false true true) s
      else settle (applyPkt hub k s)

/-- PARTNER_MIRROR_APPLY (R386, R452): with no packet the partner applies the oldest item of this hub's send queue; a
packet of the partner is applied here, and one whose tag fails is refused, event 0x0A09, and the port retrains. -/
def execPartnerMirrorApply (t hub : Nat) (pkt : Option PtnPkt) (tagOk : Bool) (s : State) :
    Host.Outcome State Fault Refusal := .next (doPartnerMirrorApply t hub pkt tagOk s)

end Sys2Proof.Machine
end

