-- ==== Sys2Proof/Machine/HubReset.lean ====
section
/-!
DEFINITION. HubReset.lean: the reset and the return of a hub die (R27, R118, R333, R383, R415, R436, R490, R491).
-/
namespace Sys2Proof.Machine

/-- The hub's links are OFF, its ends hold no epoch, and its partner port is down (R383). -/
def linksOff (h : Nat) (s : State) : State :=
  let s := (linksOf (4 + h)).foldl (fun s k =>
    let s := modLink k (fun l => { l with st := .off, step := .idle, wires := [], await := none, mask := 0 }) s
    answerRetrains k false (modSide k (isEndB k (4 + h)) (fun _ => {}) s)) s
  let on := (getPtn s h).enable
  let s := modLink (8 + h) (fun l => { l with st := .off, step := .idle, mask := 0, a := {}, b := {} }) s
  answerRetrains (8 + h) false (if on then ptnLost h s else s)

/-- The hub's PCIe links are down; the rings of their functions are off and their descriptors abandoned. -/
def pcieOff (h : Nat) (s : State) : State :=
  [2 * h, 2 * h + 1].foldl (fun s n =>
    let s := (fnsOn s n).foldl (fun s fn => ringsOff fn (abandon fn s)) s
    modPLink n (fun _ => {}) s) s

/-- Descriptors that wait for a unit of the hub complete DIE_LOST with the hub. -/
def unitsLost (h : Nat) (s : State) : State :=
  let d := getDrc s h
  let freq := (match d.change with | some (_, _, i) => [i] | none => []) ++ d.changes.map (·.2)
  let strm := (getIng s h).streams.filterMap fun e => e.2.unbinder
  (freq ++ strm).eraseDups.foldl (fun s i => finish i 0x0301 (4 + h) 0 (hubTime s (1 - h)) s) s

/-- The blocks of the hub are as after reset; DRC keeps the training records and key epochs that stand in its always-on
logic and in SEC (R436, R478, R490). Islands hear of every bound stream that is gone (R300). -/
def blocksReset (h : Nat) (s : State) : State :=
  let bound := (getIng s h).streams.filter fun e => e.2.st ≠ .none
  let s := bound.foldl (fun s e => tellIslands h e.1 true false s) (unitsLost h s)
  let s := [Blk.drc h, .ing h, .sdl h, .fus h, .ptn h].foldl (fun s b => resetRegs b.base 0x80000 s) s
  let s := modDrc h (fun d => { window := d.window, epochs := d.epochs }) s
  modPtn h (fun _ => {}) <| modFus h (fun _ => {}) (modSdl h (fun _ => {}) (modIng h (fun _ => {}) s))

/-- R118 and R383: the hub resets. The other hub keeps what is hub-local on its side; every other context ends with
DIE_LOST and the number of the hub. -/
def hubReset (h : Nat) (s : State) : State :=
  let t := hubTime s (1 - h)
  let s := { s with hubs := tabSet (fun _ => ({} : Hub)) s.hubs h { inReset := true } }
  let s := pcieOff h s
  let s := linksOff h s
  let s := mirrorLost { s with prt := { s.prt with hsActs := h = 0 } }
  let s := tearDown (fun p => sideOf s p = some (1 - h)) 0x0301 (4 + h) t s
  let s := blocksReset h s
  let s := modScion h (fun x => { x with st := if x.st = 2 then 2 else 1, started := false, copied := false }) s
  let s := detect h 0x05 0x7F false s
  settle (if hubUp s (1 - h) then detect (1 - h) 0x06 0x7F false s
    else modIsl (1 - h) (fun x => { x with mail := x.mail ++ [2] }) s)

def doHubDieReset (t hub : Nat) (s : State) : State :=
  let s := advance t s
  if hub < 2 ∧ hubUp s hub then hubReset hub s else s

/-- HUB_DIE_RESET (R118, R383). -/
def execHubDieReset (t hub : Nat) (s : State) : Host.Outcome State Fault Refusal := .next (doHubDieReset t hub s)

def doHubResetCmd (t : Nat) (acc : Agent) (hub : Nat) (s : State) : State :=
  let s := advance t s
  if hub < 2 ∧ writeReaches s acc 0x2800014 then
    let s := fldSet 0x2800014 1 1 hub s
    if hubUp s hub then hubReset hub s else s
  else s

/-- HUB_RESET (R490): a write of PWR_CMD with hub_reset set and this value of `hub`. -/
def execHubReset (t : Nat) (acc : Agent) (hub : Nat) (s : State) : Host.Outcome State Fault Refusal :=
  .next (doHubResetCmd t acc hub s)

def doPllUnlock (t d : Nat) (s : State) : State :=
  let s := advance t s
  if d < 4 then
    if (getDie s d).st = .up then loseDie d 1 (modDie d (fun x => { x with pll := false }) s) else s
  else if d < 6 ∧ hubUp s (d - 4) then hubReset (d - 4) s
  else s

/-- PLL_UNLOCK (R27): on a compute die, or the loss of its reference, the die is lost; on a hub, or a crystal failure, the
hub die resets. -/
def execPllUnlock (t d : Nat) (s : State) : Host.Outcome State Fault Refusal := .next (doPllUnlock t d s)

/-- A compute die that is off begins to come up with its mesh domain (R477, R491). -/
def beginDie (d : Nat) (s : State) : State :=
  if (getDie s d).st = .off ∧ !(getDie s d).noRail then
    modDie d (fun x => { x with st := .bringup, pll := false })
      { s with pwr := { s.pwr with cd := s.pwr.cd ||| 2 ^ (5 * d + 4) } }
  else s

/-- Every domain of a hub is powered, but PD_HS_SEC only with PD_HN_SEC (R474). -/
def powerHub (h : Nat) (s : State) : State :=
  if h = 0 then { s with pwr := { s.pwr with hn := 63 } }
  else { s with pwr := { s.pwr with hs := if hubDomain s 0 5 then 63 else 31 } }

def hubReturn (h : Nat) (s : State) : State :=
  let s := { s with hubs := tabSet (fun _ => ({} : Hub)) s.hubs h { up := true } }
  let s := powerHub h s
  let s := modDrc h (fun d => { d with st := 1, waiting := some s.clk }) s
  let s := modScion h (fun x => { x with st := if x.st = 2 then 2 else 0, started := true, beat := s.clk }) s
  let s := if h = 0 ∧ !s.sep then { s with prt := { s.prt with hsActs := false } } else s
  let s := if s.pwr.mode = 0 then beginDie (2 * h + 1) (beginDie (2 * h) s) else s
  withRoutes (fun s => (linksOf (4 + h) ++ [8 + h]).foldl (fun s k => wakeLink k s) s) s

def doHubReturn (t hub : Nat) (s : State) : State :=
  let s := advance t s
  if hub < 2 ∧ !(getHub s hub).up ∧ s.sec.stage = 2 then hubReturn hub s else s

/-- HUB_RETURN (R118, R383, R491): the hub comes up once the images are verified. Its links and the dies it holds train as
at bring-up, its DRC waits for go (R357), and HN resumes as primary. -/
def execHubReturn (t hub : Nat) (s : State) : Host.Outcome State Fault Refusal := .next (doHubReturn t hub s)

end Sys2Proof.Machine
end

