-- ==== Sys2Proof/Machine/Power.lean ====
section
/-!
DEFINITION. Power.lean: power modes and quadrants, clocks and their loops, temperatures, coolant, rails, ageing and
lifetime, and PORST_N (spec/17 R474 to R494; spec/09 R279, R280).
-/
namespace Sys2Proof.Machine

def pwrErr (b : Nat) (s : State) : State := fldSet 0x2800008 b 1 1 s
def dPwrDie (_ : Nat) : PwrDie := {}
def getPD (s : State) (d : Nat) : PwrDie := tabGet dPwrDie s.pwr.dies d
def modPD (d : Nat) (f : PwrDie → PwrDie) (s : State) : State :=
  { s with pwr := { s.pwr with dies := tabMod dPwrDie s.pwr.dies d f } }
def dHot (_ : Nat) : Hot := {}
def modHot (k : Nat) (f : Hot → Hot) (s : State) : State := { s with pwr := { s.pwr with hot := tabMod dHot s.pwr.hot k f } }
def dCool (_ : Nat) : Cool := {}
def getCool (s : State) (h : Nat) : Cool := tabGet dCool s.pwr.cools h
def dAge (_ : Nat) : Age := {}

/-! ## Points (R479 to R481) -/

/-- The point the loops ask of a die; no coolant flow holds it at 5, and PARKED holds CD0 there (R476, R481, R487). -/
def targetPoint (s : State) (d : Nat) : Nat :=
  let x := getPD s d
  if s.pwr.row = 3 ∨ (s.pwr.mode = 1 ∧ d = 0) then 5
  else max (max (min 5 (eff s (0x2800020 + 4 * d) 0 3)) x.thermal) (max x.cap x.guard)

/-- The die goes to its point: down at once, up once the regulator reports the level (R480). -/
def setPoint (s : State) (d : Nat) : State :=
  let p := targetPoint s d
  modPD d (fun x => if x.point ≤ p then { x with point := p, raising := none } else { x with raising := some p }) s

/-- Every die follows its loops. -/
def dvfs (s : State) : State := [0, 1, 2, 3].foldl setPoint s

def doVoltageReached (t d : Nat) (s : State) : State :=
  let s := advance t s
  if d < 4 ∧ (getPD s d).raising.isSome then
    modPD d (fun x => { x with point := targetPoint s d, raising := none }) s
  else s

/-- VOLTAGE_REACHED (R480): the regulator reports the new level; the clock is raised. -/
def execVoltageReached (t d : Nat) (s : State) : Host.Outcome State Fault Refusal := .next (doVoltageReached t d s)

/-! ## Current and the cap loop (R482, R483) -/

def doCurrentCheck (t d amps : Nat) (s : State) : State :=
  let s := advance t s
  if 4 ≤ d then s
  else
    let x := getPD s d
    if 150 < amps then
      let s := modPD d (fun x => { x with halved := true, calmSince := none }) s
      if x.halved then s
      else
        let (us, s) := takeFree s
        event (2 + d) 0x0D0B [.id1 d, .val4 us] s
    else if 125 ≤ amps then modPD d (fun x => { x with calmSince := none }) s
    else
      let since := match x.calmSince with | some b => b | none => s.clk
      if x.halved ∧ since + 100000 ≤ s.clk then modPD d (fun x => { x with halved := false, calmSince := none }) s
      else modPD d (fun x => { x with calmSince := some since }) s

/-- CURRENT_CHECK (R482): the 10 µs estimate, in A. Above 150 A the clock is halved; it is restored after 100 µs below
125 A. Which µs event 0x0D0B carries is a free value. -/
def execCurrentCheck (t d amps : Nat) (s : State) : Host.Outcome State Fault Refusal := .next (doCurrentCheck t d amps s)

/-- The package power cap in W (Table 17.3, PWR_CAP). -/
def powerCap (s : State) : Nat :=
  if fld s 0x2800004 0 1 = 1 then max 60 (min 450 (eff s 0x2800010 16 10))
  else match eff s 0x2800010 0 2 with
    | 1 => 350
    | 2 => 260
    | _ => 450

/-- The lower of the cap and the coolant limit (Table 17.5). -/
def powerLimit (s : State) : Nat :=
  match s.pwr.row with
  | 0 => powerCap s
  | 1 => min 260 (powerCap s)
  | _ => min 150 (powerCap s)

/-- A safety partition has cores on the die. -/
def safetyOn (s : State) (d : Nat) : Bool := (created s).any fun p => (getPart s p).safety && partCores s p d ≠ 0

/-- Order in which dies are slowed: highest power, then a die with no safety partition, then the highest number (R483). -/
def slowOrder (s : State) (w : List Nat) (a b : Nat) : Bool :=
  let key (d : Nat) : Nat × Nat := (w.getD d 0, (if safetyOn s d then 0 else 4) + d)
  lt2 (key b) (key a)

/-- A cap point changes: event 0x0D06. -/
def capStep (d p total : Nat) (s : State) : State :=
  event 0 0x0D06 [.id1 d, .code1 p, .val4 total] (modPD d (fun x => { x with cap := p }) s)

/-- PWR's sh fields take effect (spec/17: the commit boundary is the 1 ms tick). -/
def commitPwr (s : State) : State :=
  [0x2800010, 0x2800020, 0x2800024, 0x2800028, 0x280002C, 0x2800204, 0x2800214].foldl (fun s o => commit o s) s

def capTick (w : List Nat) (rest : Nat) (s : State) : State :=
  let s := commitPwr s
  let total := ((List.range 4).map fun d => w.getD d 0).sum + rest
  let limit := powerLimit s
  let s := { s with pwr := { s.pwr with watts := total } }
  if limit < total then
    let s := { s with pwr := { s.pwr with lowSince := none } }
    match (isort (slowOrder s w) ((List.range 4).filter fun d => (getPD s d).cap < 5)).head? with
    | some d => capStep d ((getPD s d).cap + 1) total s
    | none => s
  else if total * 100 < limit * 95 then
    let since := match s.pwr.lowSince with | some b => b | none => s.clk
    if since + 10000000 ≤ s.clk then
      let s := { s with pwr := { s.pwr with lowSince := some s.clk } }
      match (isort (fun a b => slowOrder s w b a) ((List.range 4).filter fun d => 0 < (getPD s d).cap)).head? with
      | some d => capStep d ((getPD s d).cap - 1) total s
      | none => s
    else { s with pwr := { s.pwr with lowSince := some since } }
  else { s with pwr := { s.pwr with lowSince := none } }

def doCapTick (t : Nat) (w : List Nat) (rest : Nat) (s : State) : State := dvfs (capTick w rest (advance t s))

/-- CAP_TICK (R483): the 1 ms tick. `w` is the power of CD0 to CD3 and `rest` that of the other rails, in W. -/
def execCapTick (t : Nat) (w : List Nat) (rest : Nat) (s : State) : Host.Outcome State Fault Refusal :=
  .next (doCapTick t w rest s)

/-! ## Quadrants (R475) -/

/-- Cores of quadrant `q` of die `d`. -/
def quadCores (d q : Nat) : List Nat := ((List.range 32).filter fun c => quadOf c = q).map (32 * d + ·)

/-- No core of the quadrant is placed, moving or under test. -/
def quadIdle (s : State) (d q : Nat) : Bool :=
  (quadCores d q).all fun g => let r := (getCore s g).role; r = .off || r = .free

/-- The highest free core of the die in a powered quadrant that `keep` holds of. -/
def spareIn (s : State) (d : Nat) (keep : Nat → Bool) : Option Nat :=
  ((List.range 32).filter fun c =>
    let g := 32 * d + c
    keep (quadOf c) && quadOn s d (quadOf c) && (getCore s g).role = .free && bit ((s.fuse.coreEn.getD d 0).toNat) c).getLast?

/-- A quadrant loses its power. -/
def quadOff (d q : Nat) (s : State) : State :=
  let s := (quadCores d q).foldl (fun s g =>
    modCore g (fun k => { role := .off, failed := k.failed, cnt := k.cnt, lastTest := k.lastTest }) s) s
  { s with pwr := { s.pwr with cd := setBits s.pwr.cd (5 * d + q) 1 0 } }

/-- The spare role leaves quadrant `q`: to the highest free core of another powered quadrant, or to none where no other
quadrant has power. What the die becomes; `none` where no core can take the role. -/
def moveSpare (d q : Nat) (s : State) : Option (Die → Die) :=
  match (getDie s d).spare with
  | none => some id
  | some c =>
    if quadOf c ≠ q then some id
    else if (List.range 4).all (fun k => k = q || !quadOn s d k) then
      some fun x => { x with spare := none, gated := true }
    else (spareIn s d (· ≠ q)).map fun c x => { x with spare := some c }

/-- PWR gates a quadrant where it may: idle, its spare role passed on, and PRT_FREE covering its cores. -/
def gateQuad (d q : Nat) (s : State) : State :=
  if quadOn s d q ∧ quadIdle s d q then
    match moveSpare d q s with
    | none => s
    | some f =>
      let s' := quadOff d q (modDie d f s)
      if ((created s').map fun p => partCores s' p d).sum ≤ allocatable s' d then changed s' else s
  else s

/-- A quadrant comes up: SRAM clear, its enabled cores in PRT_FREE (R475). -/
def ungateQuad (d q : Nat) (s : State) : State :=
  if quadOn s d q then s
  else
    let s := { s with pwr := { s.pwr with cd := s.pwr.cd ||| 2 ^ (5 * d + q) } }
    let s := (quadCores d q).foldl (fun s g =>
      if bit ((s.fuse.coreEn.getD d 0).toNat) (g % 32) ∧ !(getCore s g).failed then freeCore g s else s) s
    changed s

def doQuadrantGate (t d q : Nat) (s : State) : State :=
  let s := advance t s
  if d < 4 ∧ q < 4 ∧ s.pwr.mode = 0 ∧ (getDie s d).st = .up then settle (gateQuad d q s) else s

/-- QUADRANT_GATE (R475). -/
def execQuadrantGate (t d q : Nat) (s : State) : Host.Outcome State Fault Refusal := .next (doQuadrantGate t d q s)

def doQuadrantUngate (t d q : Nat) (s : State) : State :=
  let s := advance t s
  if d < 4 ∧ q < 4 ∧ s.pwr.mode = 0 ∧ meshOn s d ∧ (getDie s d).st = .up then settle (ungateQuad d q s) else s

/-- QUADRANT_UNGATE (R475, R477). -/
def execQuadrantUngate (t d q : Nat) (s : State) : Host.Outcome State Fault Refusal := .next (doQuadrantUngate t d q s)

/-! ## Modes (R476 to R478, R279, R280) -/

/-- No created partition holds cores. -/
def noCores (s : State) : Bool := (created s).all fun p => partTotal s p = 0

/-- R279: every created partition has its cores on CD0, at most 7 in all. -/
def parkable (s : State) : Bool :=
  (created s).all (fun p => partCores s p 1 = 0 && partCores s p 2 = 0 && partCores s p 3 = 0) &&
    ((created s).map fun p => partCores s p 0).sum ≤ 7

/-- No island stream is configured and no ring is ACTIVE. -/
def standbyOk (s : State) : Bool :=
  s.pwr.mode = 2 && [0, 1].all (fun i => (getIsl s i).strs.all fun e => e.2.st = .off) &&
    s.hif.fns.all fun f => f.2.rings.all fun r => r.2.st ≠ .active

/-- The entry condition of a mode (Table 17.1). -/
def modeOk (s : State) (m : Nat) : Bool :=
  match m with
  | 0 => s.pwr.mode ≠ 3
  | 1 => s.pwr.mode ≠ 3 && parkable s
  | 2 => s.pwr.mode ≠ 3 && noCores s
  | _ => standbyOk s

/-- Entry time of a change, ns; 5 ms to RUN. -/
def modeNs (m : Nat) : Nat :=
  match m with
  | 0 => 5000000
  | 3 => 2000000
  | _ => 1000000

def modeEvent (old new refused : Nat) (s : State) : State := event 0 0x0D07 [.code1 old, .code1 new, .code1 refused] s

/-- PRT places what CD0 runs in quadrant 0: the spare role goes there, and one core of each context outside it starts to
move to a free core there (R279, R105). -/
def parkCores (s : State) : State :=
  let s := match (getDie s 0).spare with
    | some c => if quadOf c = 0 then s else
      match spareIn s 0 (· = 0) with
      | some k => modDie 0 (fun x => { x with spare := some k }) s
      | none => s
    | none => s
  ((List.range 32).filter fun c => quadOf c ≠ 0 && (getCore s c).role = .placed).foldl (fun s c =>
    let k := getCore s c
    let x := getCtx s k.part k.slot
    let taken := s.prt.ctxs.filterMap fun e => e.2.moving.map (·.2)
    let room := (quadCores 0 0).filter fun g =>
      (getCore s g).role = .free && (getDie s 0).spare ≠ some (g % 32) && !taken.elem g
    match room.head? with
    | some g =>
      if x.resident ∧ x.moving.isNone then
        modCtx k.part k.slot (fun x => { x with moving := some (c, g) }) (heelNow k.part k.slot .coreMove s)
      else s
    | none => s) s

def doModeRequest (t : Nat) (acc : Agent) (req : Nat) (s : State) : State :=
  let s := advance t s
  let m := req % 4
  if !writeReaches s acc 0x280000C then s
  else if s.pwr.target.isSome then (if fld s 0x280000C 0 2 = m then s else lockedWrite 0x280000C s)
  else
    let s := fldSet 0x280000C 0 2 m s
    if s.pwr.mode = m then s
    else if modeOk s m then
      let s := { s with pwr := { s.pwr with target := some (m, s.clk) } }
      settle (if m = 1 then parkCores s else s)
    else modeEvent s.pwr.mode m 1 (pwrErr 3 s)

/-- MODE_REQUEST (R476): a write of PWR_MODE.req. -/
def execModeRequest (t : Nat) (acc : Agent) (req : Nat) (s : State) : Host.Outcome State Fault Refusal :=
  .next (doModeRequest t acc req s)

/-- A compute die's mesh loses its power: its links are OFF; a die that is fenced stays so (R38, R477). -/
def meshOff (d : Nat) (s : State) : State :=
  let s := [0, 1, 2, 3].foldl (fun s q => quadOff d q s) s
  let s := (linksOf d).foldl (fun s k =>
    let s := modLink k (fun l => { l with st := .off, step := .idle, wires := [], await := none, mask := 0 }) s
    answerRetrains k false (modSide k (isEndB k d) (fun _ => {}) s)) s
  let s := clearScan d (modDie d (fun x => if x.st = .fenced then x else { st := .off, noRail := x.noRail }) s)
  { s with pwr := { s.pwr with cd := setBits s.pwr.cd (5 * d + 4) 1 0 } }

/-- A die whose mesh comes up again, from OFF by the sequence of R382 (R477). -/
def meshUp (d : Nat) (s : State) : State :=
  if (getDie s d).noRail then s
  else
    let s := { s with pwr := { s.pwr with cd := s.pwr.cd ||| 2 ^ (5 * d + 4) } }
    if (getDie s d).st = .off then modDie d (fun x => { x with st := .reset, since := s.clk, pll := false }) s else s

/-- The domains of PARKED (`park`) or HUBS: CD0 and CD2 keep their meshes, PARKED also CD0 quadrant 0 (Table 17.1, R20). -/
def fewDies (park : Bool) (s : State) : State :=
  let s := [1, 2, 3].foldl (fun s q => gateQuad 0 q s) s
  let s := if park then ungateQuad 0 0 s else gateQuad 0 0 s
  let s := [0, 1, 2, 3].foldl (fun s q => gateQuad 2 q s) s
  withRoutes (fun s => meshOff 3 (meshOff 1 s)) s

/-- Copy the lifetime counters to flash; a failed copy is reported (R493). -/
def saveLife (ok : Bool) (s : State) : State :=
  if ok then
    send (.flash ((List.range 8).flatMap fun i => toBytes 4 (tabGet dNat s.pwr.life i))) { s with pwr := { s.pwr with flash := s.pwr.life } }
  else event 0 0x0D09 [] (pwrErr 4 s)

/-- STANDBY: DRAM in self-refresh, the counters saved, everything but the islands without power (R478, R359, R493). -/
def intoStandby (saved : Bool) (s : State) : State :=
  let s := saveLife saved (drcStandby 1 (drcStandby 0 s))
  let s := { s with hubs := [0, 1].foldl (fun t h => tabMod (fun _ => ({} : Hub)) t h fun x => { x with up := false }) s.hubs }
  let s := [0, 1].foldl (fun s h => linksOff h (pcieOff h s)) s
  let s := [0, 1, 2, 3].foldl (fun s d => meshOff d s) s
  { s with pwr := { s.pwr with hn := 0, hs := 0 } }

def changeMode (m : Nat) (saved : Bool) (s : State) : State :=
  let old := s.pwr.mode
  let s := match m with
    | 0 => [0, 1, 2, 3].foldl (fun s d => meshUp d s) s
    | 1 => fewDies true s
    | 2 => fewDies false s
    | _ => intoStandby saved s
  settle (dvfs (modeEvent old m 0 { s with pwr := { s.pwr with mode := m, target := none } }))

def doModeChangeDone (t : Nat) (saved : Bool) (s : State) : State :=
  let s := advance t s
  match s.pwr.target with
  | none => s
  | some (m, began) =>
    if s.clk < began + modeNs m then s
    else if m = 1 ∧ [1, 2, 3].any (fun q => !quadIdle s 0 q) then settle (parkCores s)
    else changeMode m saved s

/-- MODE_CHANGE_DONE (R476 to R478): after its entry time the mode is in effect. A change to PARKED first waits for the
cores that move to CD0 quadrant 0. `saved` says whether the lifetime copy at STANDBY entry succeeds. -/
def execModeChangeDone (t : Nat) (saved : Bool) (s : State) : Host.Outcome State Fault Refusal :=
  .next (doModeChangeDone t saved s)

/-- From STANDBY the package returns to HUBS: both hubs have power, CD0 and CD2 their meshes. -/
def leaveStandby (s : State) : State :=
  let s := { s with hubs := [0, 1].foldl (fun t h => tabMod (fun _ => ({} : Hub)) t h fun x => { x with up := true }) s.hubs }
  let s := powerHub 1 (powerHub 0 s)
  let s := [0, 1].foldl (fun s h => modScion h (fun x => { x with beat := s.clk }) s) s
  let s := meshUp 2 (meshUp 0 s)
  let s := modeEvent 3 2 0 { s with pwr := { s.pwr with mode := 2, target := none } }
  withRoutes (fun s => wakeLink 9 (wakeLink 8 s)) s

/-- PERST_N released after its assertion. -/
def perstReleased (hub : Nat) (s : State) : State :=
  let s := setPerst hub false s
  if s.pwr.mode = 3 then leaveStandby s else s

def doStandbyExit (t hub : Nat) (s : State) : State :=
  let s := advance t s
  if hub < 2 ∧ tabGet dBool s.pwr.perst hub then perstReleased hub s else s

/-- STANDBY_EXIT (R478): a PERST_N is released after its assertion; from STANDBY the package returns to HUBS. -/
def execStandbyExit (t hub : Nat) (s : State) : Host.Outcome State Fault Refusal := .next (doStandbyExit t hub s)

/-! ## Temperatures (R484, R485) -/

/-- The thermal loop a sensor belongs to: 0 to 3 the compute dies, 4 HN, 5 HS. -/
def loopOf (sensor : Nat) : Nat := if sensor < 40 then sensor / 10 else if sensor < 48 then 4 else 5
def sensorsOf (k : Nat) : List Nat :=
  if k < 4 then (List.range 10).map (10 * k + ·) else (List.range 8).map (40 + 8 * (k - 4) + ·)
def tempOf (s : State) (i : Nat) : Int := (tabGet (fun _ => ((0 : Int), false)) s.pwr.temps i).1

/-- The hottest sensor of a loop and its reading in 1/16 °C. -/
def hottest (s : State) (k : Nat) : Nat × Int :=
  (sensorsOf k).foldl (fun b i => if b.2 < tempOf s i then (i, tempOf s i) else b)
    ((sensorsOf k).headD 0, tempOf s ((sensorsOf k).headD 0))

/-- The dies whose thermal point a loop moves. -/
def loopDies (k : Nat) : List Nat := if k < 4 then [k] else [0, 1, 2, 3]

/-- The site at which a loop's events are detected. -/
def loopSite (k : Nat) : Nat := if k < 4 then 2 + k else k - 4

/-- A thermal point changes: event 0x0D02. -/
def setThermal (d p : Nat) (s : State) : State :=
  if (getPD s d).thermal = p then s else event 0 0x0D02 [.id1 d, .code1 p] (modPD d (fun x => { x with thermal := p }) s)

/-- A die is fenced by force and its quadrants are gated; `mesh` gates its mesh as well (R380, R485, R488). -/
def fenceAndGate (d : Nat) (mesh : Bool) (s : State) : State :=
  let s := if (getDie s d).st = .up then loseDie d 2 s else s
  let s := [0, 1, 2, 3].foldl (fun s q => quadOff d q s) s
  if mesh then { s with pwr := { s.pwr with cd := setBits s.pwr.cd (5 * d + 4) 1 0 } } else s

/-- Table 17.4 for one loop. -/
def thermalStep (k : Nat) (s : State) : State :=
  let (sensor, hot) := hottest s k
  let h := tabGet dHot s.pwr.hot k
  let ds := loopDies k
  let now := s.clk
  let warm : Bool := 105 * 16 ≤ hot
  let s := if warm ∧ !h.warn then event (loopSite k) 0x0D01 [.id1 sensor, .val4 (hot / 16).toNat] s else s
  let tripSince := if 125 * 16 ≤ hot then some (match h.tripSince with | some b => b | none => now) else none
  let trip : Bool := match tripSince with | some b => b + 100000 ≤ now | none => false
  let s := if trip ∧ ds.any (fun d => (getDie s d).st = .up) then
      let s := ds.foldl (fun s d => fenceAndGate d false s) s
      event (loopSite k) 0x0D03 [.id1 k, .id1 sensor] (pwrErr 1 s)
    else s
  let s := if 122 * 16 ≤ hot then ds.foldl (fun s d => setThermal d 5 s) s else s
  let stepping := 115 * 16 ≤ hot || (h.stepping && 112 * 16 ≤ hot)
  let step := stepping && (h.stepped + 1000000 ≤ now || !h.stepping)
  let s := if step then ds.foldl (fun s d => setThermal d (min 5 ((getPD s d).thermal + 1)) s) s else s
  let coolSince := if hot < 110 * 16 then some (match h.coolSince with | some b => b | none => now) else none
  let rise : Bool := match coolSince with | some b => b + 10000000 ≤ now | none => false
  let s := if rise then ds.foldl (fun s d => setThermal d ((getPD s d).thermal - 1) s) s else s
  modHot k (fun _ =>
    { stepping, stepped := if step then now else h.stepped, tripSince, coolSince := if rise then some now else coolSince,
      warn := warm }) s

/-- Thermal cycles of 40 °C or more of the hottest junction (R492): a rise of 40 °C from the lowest reading and a fall of
40 °C from the highest. -/
def countCycle (s : State) : State :=
  let hot := (List.range 6).foldl (fun (b : Int) k => max b (hottest s k).2) (hottest s 0).2
  match s.pwr.cycle with
  | none => { s with pwr := { s.pwr with cycle := some (hot, hot, false) } }
  | some (lo, hi, up) =>
    if up ∧ hot + 640 ≤ hi then
      { s with pwr := { s.pwr with cycle := some (hot, hot, false), life := tabMod dNat s.pwr.life 6 (satAdd 32 · 1) } }
    else if up then { s with pwr := { s.pwr with cycle := some (lo, max hi hot, true) } }
    else if lo + 640 ≤ hot then { s with pwr := { s.pwr with cycle := some (lo, hot, true) } }
    else { s with pwr := { s.pwr with cycle := some (min lo hot, max hi hot, false) } }

def doThermalSample (t sensor : Nat) (temp : Int) (bad_ : Bool) (s : State) : State :=
  let s := advance t s
  if 56 ≤ sensor then s
  else
    let v : Int := if injActive s 0x0D01 sensor then injArg s * 16 else if bad_ then 125 * 16 else temp
    let s := { s with pwr := { s.pwr with temps := tabSet (fun _ => ((0 : Int), false)) s.pwr.temps sensor (v, bad_) } }
    settle (dvfs (thermalStep (loopOf sensor) (countCycle s)))

/-- THERMAL_SAMPLE (R484, R485): a sensor's 50 µs reading in 1/16 °C; `bad_` where its self-check failed. -/
def execThermalSample (t sensor : Nat) (temp : Int) (bad_ : Bool) (s : State) : Host.Outcome State Fault Refusal :=
  .next (doThermalSample t sensor temp bad_ s)

/-! ## Coolant (R486, R487, R512, R513) -/

/-- The row of Table 17.5 in force: the lowest limit whose condition holds. -/
def coolRow (s : State) : Nat :=
  let n := getCool s 0
  let h := getCool s 1
  let inlet := max n.inlet h.inlet
  let flow := min n.flow h.flow
  if n.pulse + 2000000000 ≤ s.clk ∧ h.pulse + 2000000000 ≤ s.clk then 3
  else if 70 < inlet ∨ n.inBad ∨ h.inBad ∨ flow < 150 then 2
  else if 65 < inlet then 1
  else 0

def doCoolantCheck (t h : Nat) (inlet outlet : Int) (inBad outBad : Bool) (pulses : Nat) (s : State) : State :=
  let s := advance t s
  if 2 ≤ h then s
  else
    let n := if injActive s 0x0D02 h then 0 else pulses
    let flow := min 4095 (n * 6000 / max 1 (eff s (0x2800204 + 16 * h) 0 16))
    let x : Cool :=
      { inlet := if inBad then 70 else inlet, outlet := if outBad then 70 else outlet, flow, inBad, outBad,
        pulse := if n = 0 then (getCool s h).pulse else s.clk }
    let s := { s with pwr := { s.pwr with cools := tabSet dCool s.pwr.cools h x } }
    let row := coolRow s
    if row = s.pwr.row then s
    else
      let deg := (getCool s h).inlet
      let s := event h 0x0D04 [.id1 h, .val4 (wrap 32 deg), .val4 flow] { s with pwr := { s.pwr with row } }
      dvfs s

/-- COOLANT_CHECK (R486, R487): a hub's thermistors in °C and the flow pulses of the last second. -/
def execCoolantCheck (t h : Nat) (inlet outlet : Int) (inBad outBad : Bool) (pulses : Nat) (s : State) :
    Host.Outcome State Fault Refusal := .next (doCoolantCheck t h inlet outlet inBad outBad pulses s)

/-! ## Rails (R488, R489) -/

/-- Who records a rail's event: the island for its own rail, else PWR on HN. -/
def railSite (r : Nat) : Nat := if r = 15 then 1 else 0

/-- Whether die `d` has not come up since PORST_N: in RUN it is OFF or in BRINGUP. -/
def neverUp (s : State) (d : Nat) : Bool :=
  s.pwr.mode = 0 && ((getDie s d).st = .off || (getDie s d).st = .bringup)

/-- The rail of a compute die that has not come up since PORST_N is outside its range: the die stays OFF (R506). -/
def railOff (d : Nat) (s : State) : State :=
  withRoutes (fun s => modDie d (fun x => { x with noRail := true }) (meshOff d s)) s

def doRailFault (t rail mv : Nat) (s : State) : State :=
  let s := advance t s
  if 16 ≤ rail then s
  else
    let inj := injActive s 0x0D03 rail
    let mv := if inj then injArg s else mv
    let s := event (railSite rail) 0x0D05 [.id1 rail, .val4 mv] (if rail < 14 then pwrErr 2 s else s)
    if rail < 4 then (if neverUp s rail then railOff rail s else settle (fenceAndGate rail true s))
    else if rail < 10 then if hubUp s (rail % 2) then hubReset (rail % 2) s else s
    else s

/-- RAIL_FAULT (R488, R506, Table 17.5a): a rail has been outside 5 % for 10 µs, at `mv`. -/
def execRailFault (t rail mv : Nat) (s : State) : Host.Outcome State Fault Refusal := .next (doRailFault t rail mv s)

/-! ## Ageing and lifetime (R492 to R494) -/

def doAgeingMeasure (t x : Nat) (slows : List Nat) (s : State) : State :=
  let s := advance t s
  let a := tabGet dAge s.pwr.ages x
  let due := match a.at_ with | some b => b + 86400000000000 ≤ s.clk | none => true
  if 6 ≤ x ∨ !due then s
  else
    let n := if x < 4 then 4 else 2
    let worst := ((List.range n).foldl (fun b i => if slows.getD b 0 < slows.getD i 0 then i else b) 0)
    let v := min 1023 (slows.getD worst 0)
    let steps := max a.steps (if 60 ≤ v then 2 else if 30 ≤ v then 1 else 0)
    let s := { s with pwr := { s.pwr with
      ages := tabSet dAge s.pwr.ages x { slow := max a.slow v, steps, at_ := some s.clk } } }
    let s := (List.range (steps - a.steps)).foldl (fun s _ => event 0 0x0D08 [.id1 x, .id1 worst, .val4 v] s) s
    if x < 4 then dvfs (modPD x (fun d => { d with guard := max d.guard steps }) s) else s

/-- AGEING_MEASURE (R494): the slowdown of each monitor in 0.1 %, every 24 hours and at every PORST_N. -/
def execAgeingMeasure (t x : Nat) (slows : List Nat) (s : State) : Host.Outcome State Fault Refusal :=
  .next (doAgeingMeasure t x slows s)

/-- The bin of Table 17.8 for a junction in 1/16 °C. -/
def lifeBin (v : Int) : Nat :=
  if v < 400 then 0 else if v < 1120 then 1 else if v < 1520 then 2 else if v < 1760 then 3 else 4

/-- Hours pass: standby hours in STANDBY, else operating hours and those of the hottest junction's bin (R492). -/
def countHours (n : Nat) (s : State) : State :=
  let hot := (List.range 6).foldl (fun (b : Int) k => max b (hottest s k).2) (hottest s 0).2
  let add (i : Nat) (l : Tab Nat) : Tab Nat := tabMod dNat l i (satAdd 32 · n)
  let life := if s.pwr.mode = 3 then add 7 s.pwr.life else add (1 + lifeBin hot) (add 0 s.pwr.life)
  { s with pwr := { s.pwr with life } }

def doLifetimeSave (t : Nat) (ok : Bool) (s : State) : State :=
  let s := advance t s
  let n := (s.clk - s.pwr.saved) / 3600000000000
  if n = 0 then s
  else
    let s := countHours n { s with pwr := { s.pwr with saved := s.pwr.saved + 3600000000000 * n } }
    saveLife ok s

/-- LIFETIME_SAVE (R493): every hour the counters go to flash; a failed copy is retried the next hour. -/
def execLifetimeSave (t : Nat) (ok : Bool) (s : State) : Host.Outcome State Fault Refusal := .next (doLifetimeSave t ok s)

/-! ## PORST_N (R465, R490, R493, Table 17.6) -/

/-- HIF_VF_MAP at reset: every partition is on the link of the management PF. -/
def vfMapReset (link : Nat) : Tab Word :=
  [0x100040, 0x100044].foldl (fun t off => tabSet regDefault t off (BitVec.ofNat 32 (0x55555555 * (link % 4)))) []

/-- What PORST_N leaves alone: fuses and OTP, the event store and HS's held records, the lifetime counters, what DRAM
cells and the host hold, and the level of the PERST_N pins. -/
def porst (s : State) : State :=
  let sec : Sec :=
    { keyHash := s.sec.keyHash, revoked := s.sec.revoked, svn := s.sec.svn, udsErased := s.sec.udsErased,
      fieldKeys := s.sec.fieldKeys, rmaKeys := s.sec.rmaKeys, draws := s.sec.draws,
      debug := if s.sec.udsErased then 2 else 0 }
  let evr : Evr := { slots := s.evr.slots, head := s.evr.head, kept := s.evr.kept, keptFull := s.evr.keptFull,
                     badSlots := s.evr.badSlots, hsHeld := s.evr.hsHeld, hsLost := s.evr.hsLost }
  let pwr : Pwr := { life := if s.pwr.lifeLost then s.pwr.flash else s.pwr.life, flash := s.pwr.flash, perst := s.pwr.perst }
  let isl (i : Nat) (t : Tab Island) : Tab Island := tabSet (fun _ => ({} : Island)) t i { otpSplit := (getIsl s i).otpSplit }
  { State.reset with
    fuse := s.fuse, regs := vfMapReset s.fuse.mpfLink, eff := vfMapReset s.fuse.mpfLink, sec, evr, pwr, isl := isl 1 (isl 0 []), dram := s.dram, lines := s.lines.filter fun e => e.2 ≠ 3,
    hostMem := s.hostMem, outbox := s.outbox, frees := s.frees, pending := s.pending }

def doPorst (t : Nat) (s : State) : State := porst (advance t s)

/-- PORST (R490, R509): time starts again at 0. -/
def execPorst (t : Nat) (s : State) : Host.Outcome State Fault Refusal := .next (doPorst t s)

end Sys2Proof.Machine
end

