-- ==== Sys2Proof/Machine/RegRead.lean ====
section
/-!
DEFINITION. RegRead.lean: what a read of a register returns (R5 to R11, R23, R34): the fields stored, the profile's
values in expert fields that are not in force, and the fields a block computes from its state, block by block.
-/
namespace Sys2Proof.Machine

/-! ## Profiles and expert fields (R11) -/

/-- A field with the value a profile gives it; none where the spec states none for that profile. -/
abbrev Preset := Nat × Nat × Option Nat

/-- The register of a block that holds its EXPERT_EN, in bit 0. -/
def expertReg : Blk → Option Nat
  | .fn _ => some 4 | .prt => some 8 | .die _ => some 0 | .lnk => some 4 | .drc _ => some 4 | .ing _ => some 4
  | .sdl _ => some 4 | .fus _ => some 4 | .saf _ => some 0x10 | .evr => some 4 | .pwr => some 4 | .ptn _ => some 8
  | .inj => some 4
  | .glb => none | .hif => none | .core _ => none | .sec => none

/-- EXPERT_EN of a block is set. -/
def expertOn (s : State) (b : Blk) : Bool :=
  match expertReg b with
  | some r => fld s (b.base + r) 0 1 = 1
  | none => false

/-- The profile that a block's expert fields at `rel` follow, read through `get`: the shadow copy or what is in effect.
Streams follow the profile of their bind (Table 10.6). -/
def profileOf (get : Nat → Word) (s : State) (b : Blk) (rel : Nat) : Nat :=
  match b with
  | .sdl _ => bits (get (b.base + 8)).toNat 0 2
  | .fus _ => bits (get (b.base + 0x1C)).toNat 0 2
  | .evr => bits (get (b.base + 8)).toNat 0 2
  | .inj => bits (get (b.base + 4)).toNat 2 2
  | .ing h => (getStr s h ((rel - 0x1000) / 0x40)).profile
  | _ => bits (get (b.base + rel)).toNat 0 2

/-- One of four values by profile. -/
def byProfile {α : Type} (p : Nat) (a b c d : α) : α := match p with | 0 => a | 1 => b | 2 => c | _ => d

/-- The expert fields of a register with the values profile `p` gives them (Tables 2.11, 10.6, 12.3, 12.4, 17.3 and the
profile fields' own tables). -/
def presets (b : Blk) (rel p : Nat) : List Preset :=
  match b with
  | .fn _ =>
    if rel = 0x190 then [(16, 8, some 1), (24, 8, some 1)]
    else if rel = 0x1B0 ∨ rel = 0x1D0 ∨ rel = 0x1F0 then
      [(16, 8, some (byProfile p 1 4 16 64)), (24, 8, some (byProfile p 1 2 12 50))]
    else []
  | .prt => if rel = 0xC then [(8, 16, some (byProfile p 0 5000 1000 200))] else []
  | .die _ =>
    if rel = 4 then [(8, 4, byProfile p none (some 2) (some 1) (some 2)), (12, 3, some (byProfile p 0 2 4 2))] else []
  | .sdl _ => if 0x1000 ≤ rel ∧ rel % 0x20 = 0xC then [(0, 16, some (byProfile p 100 200 400 50))] else []
  | .ing _ =>
    if rel < 0x1000 then []
    else if rel % 0x40 = 0x10 then
      let (mb, fr, mi, re, tol, _) := freshProfile p
      let v (n : Nat) : Option Nat := if p = 3 then none else some n
      [(0, 5, v mb), (5, 3, v fr), (8, 3, v mi), (11, 4, v re), (15, 8, v tol)]
    else if rel % 0x40 = 0x14 then
      let (_, _, _, _, _, gap) := freshProfile p
      [(0, 20, some 0), (20, 12, some (gap / 10))]
    else []
  | .fus _ =>
    if rel = 0x20 then [(0, 16, some (byProfile p 256 128 1024 256)), (16, 12, some (byProfile p 1024 1024 2048 1024))]
    else if rel = 0x24 then
      [(0, 5, some (byProfile p 8 16 4 0)), (5, 5, some (byProfile p 8 4 16 0)), (10, 16, some (byProfile p 64 64 32 0))]
    else []
  | .drc _ =>
    if rel = 0x10 then
      [(2, 9, some (byProfile p 64 16 256 64)), (11, 6, some (byProfile p 48 40 56 48)),
       (17, 6, some (byProfile p 16 24 8 16)), (23, 9, some (byProfile p 50 25 100 50))]
    else if rel = 0x14 then [(2, 14, some (byProfile p 2048 1024 4096 2048)), (16, 8, some (byProfile p 20 40 10 20))]
    else []
  | .lnk =>
    if rel = 0xC then [(8, 8, some (byProfile p 8 4 32 0)), (16, 16, byProfile p (some 1000) (some 1000) (some 1000) none)]
    else []
  | .ptn _ => if rel = 0xC then [(16, 13, some (byProfile p 1024 256 4096 1024))] else []
  | .saf _ => if rel = 0x24 then [(16, 16, some (byProfile p 4000 2000 1000 0))] else []
  | .inj => if rel = 4 then [(16, 16, some (byProfile p 100 10 1000 10000))] else []
  | .evr => if rel = 0xC then [(0, 3, some (byProfile p 3 4 3 3)), (3, 10, some (byProfile p 64 64 256 64))] else []
  | .pwr => if rel = 0x10 then [(16, 10, some (byProfile p 450 350 260 450))] else []
  | .glb => [] | .hif => [] | .core _ => [] | .sec => []

/-- A word with a profile's values in its expert fields; `free` stands where none is stated. -/
def putPresets (free : Nat) (l : List Preset) (w : Nat) : Nat :=
  l.foldl (fun w f => setBits w f.1 f.2.1 (f.2.2.getD free)) w

/-! ## Fields computed from the state -/

/-- A field at its value: low bit, width, value. -/
abbrev At := Nat × Nat × Nat

/-- Code of a die's state (GLB_DIE_STATE). -/
def DieSt.code : DieSt → Nat
  | .off => 0 | .bringup => 1 | .up => 2 | .fenced => 3 | .reset => 4 | .rejoin => 5

/-- State of hub `k` as hub `h` sees it (GLB_DIE_STATE). -/
def hubCode (s : State) (h k : Nat) : Nat :=
  if h = k then 2
  else if s.sep then 6
  else if (getHub s k).inReset then 4
  else if (getHub s k).up then 2
  else 0

/-- Width code of a port (GLB_CAP3): no link, ×4, ×8, ×4+×4. Narrower links have no code. -/
def portWidth (s : State) (h : Nat) : Nat :=
  let x4 := if h = 0 then s.fuse.portNx4 else s.fuse.portSx4
  let lo := getPLink s (2 * h)
  let hi := getPLink s (2 * h + 1)
  if x4 then (if lo.up && hi.up then 3 else if lo.up || hi.up then 1 else 0)
  else if !lo.up then 0
  else if lo.width = 8 then 2
  else if lo.width = 4 then 1
  else Config.freeValue s.frees % 4

def roGlb (s : State) (h rel : Nat) : List At :=
  if rel = 0 then [(0, 32, glbId s)]
  else if rel = 0x1C then
    [(0, 8, (getDrc s 0).gib), (8, 8, (getDrc s 1).gib), (16, 2, (getDrc s 0).type), (18, 2, (getDrc s 1).type),
     (20, 2, portWidth s 0), (22, 2, portWidth s 1), (24, 1, b2n (linkUp s 8)), (25, 1, b2n (linkUp s 9))]
  else if rel = 0x20 then
    (List.range 4).map fun d : Nat => (8 * d, 8, (bitList 32 (s.fuse.coreEn.getD d 0).toNat).length)
  else if 0x30 ≤ rel ∧ rel < 0x40 then [(0, 32, (s.fuse.coreEn.getD ((rel - 0x30) / 4) 0).toNat)]
  else if rel = 0x40 then
    (List.range 4).map (fun d : Nat => (4 * d, 4, (getDie s d).st.code)) ++ [(16, 4, hubCode s h 0), (20, 4, hubCode s h 1)]
  else if rel = 0x44 then [(0, 3, (getHub s h).errBits), (8, 8, (getHub s h).errBlock)]
  else if rel = 0x48 then [(0, 26, (getHub s h).errOff)]
  else []

def roHif (s : State) (rel : Nat) : List At :=
  if rel = 0 then
    [(0, 2, if s.fuse.portNx4 then 2 else 1), (2, 2, if s.fuse.portSx4 then 2 else 1), (4, 2, s.fuse.mpfLink)]
  else if 0x10 ≤ rel ∧ rel < 0x20 then
    let l := getPLink s ((rel - 0x10) / 4)
    [(0, 3, l.speed), (4, 4, l.width), (8, 1, b2n l.up), (9, 1, b2n l.flit), (10, 1, b2n l.l0p), (11, 1, b2n l.ide)]
  else []

def RingSt.code : RingSt → Nat
  | .off => 0 | .active => 1 | .draining => 2 | .error => 3

def RingErr.code : RingErr → Nat
  | .none => 0 | .version => 1 | .fetch => 2 | .setup => 3

/-- Bits [7:0] of HIF_RING_STATE. -/
def ringCode (x : Ring) : Nat := x.st.code + 4 * x.err.code + 16 * (x.verEff % 16)

/-- PRT_PART_CFG.state, and 0b01 on the PF (HIF_FN_STATUS). -/
def partCode (s : State) (p : Nat) : Nat := if p = 0 then 1 else (getPart s p).st

def roFn (s : State) (p rel : Nat) : List At :=
  if rel = 0 then [(0, 8, p), (8, 2, fnLink s p), (10, 2, partCode s p)]
  else if rel < 0x100 ∨ 0x200 ≤ rel then []
  else
    let r := (rel - 0x100) / 0x20
    if rel % 0x20 = 8 ∧ 4 ≤ r then [(8, 4, fld s (winReg p (0x108 + 0x20 * (r - 4))) 8 4)]
    else if rel % 0x20 = 0xC then [(0, 8, ringCode (getRing s p r)), (16, 16, (getRing s p r).head)]
    else if rel = 0x190 then [(0, 2, 0), (16, 8, 1), (24, 8, 1)]
    else []

def roPrt (s : State) (rel : Nat) : List At :=
  if rel = 0 then
    [(0, 2, if s.prt.hsActs then 2 else 1), (2, 1, b2n s.prt.mirrorOk), (8, 6, (created s).length), (16, 9, contexts s)]
  else if rel = 4 then (List.range 4).map fun d : Nat => (8 * d, 8, freeAlloc s d)
  else if 0x100 ≤ rel ∧ rel < 0x300 then
    let x := getPart s ((rel - 0x100) / 0x10 + 1)
    match rel % 0x10 with
    | 0 => [(0, 2, x.st), (2, 1, b2n x.hubLocal), (3, 1, b2n x.confidential), (4, 1, b2n x.safety), (5, 1, b2n x.privileged),
            (16, 16, x.holdBudget)]
    | 4 => (List.range 4).map fun d : Nat => (8 * d, 8, x.cores.getD d 0)
    | 8 => [(0, 16, x.granN), (16, 16, x.granS)]
    | _ => [(0, 8, x.bwN), (8, 8, x.bwS)]
  else if 0x1000 ≤ rel ∧ rel < 0x1800 then
    let p := (rel - 0x1000) / 0x40 + 1
    let k := rel % 0x40 / 4
    let c := getCtx s p k
    [(0, 4, c.st.code), (4, 2, c.prio), (6, 2, c.eff), (8, 8, c.cores), (16, 1, b2n c.hold),
     (17, 1, b2n (c.parks && !(owned s p k).isEmpty)), (18, 1, b2n (c.resident && c.inherited.isSome))]
  else []

def CoreRole.code : CoreRole → Nat
  | .off => 0 | .free => 1 | .placed => 2 | .underTest => 3 | .moving => 4

/-- The 64-bit value behind a latching low half, by its BAR0 offset (R146, ING_TIME, FUS_INST, SAF_DEC). -/
def wideAt (s : State) (b : Blk) (rel : Nat) : Option Nat :=
  match b with
  | .core g => if 0x100 ≤ rel ∧ rel < 0x160 ∧ rel % 8 = 0 then some (tabGet dNat (getCore s g).cnt ((rel - 0x100) / 8)) else none
  | .ing h => if rel = 0x10 then some (hubTime s h) else none
  | .fus h => if rel = 0x30 then some (getFus s h).closed else none
  | .saf i => if rel = 8 then some (getIsl s i).decision else none
  | _ => none

/-- The register is the latched high half of such a value. -/
def isHigh (b : Blk) (rel : Nat) : Bool :=
  match b with
  | .core _ => 0x100 ≤ rel && rel < 0x160 && rel % 8 = 4
  | .ing _ => rel = 0x14
  | .fus _ => rel = 0x34
  | .saf _ => rel = 0xC
  | _ => false

def roCore (s : State) (g rel : Nat) : List At :=
  let c := getCore s g
  if rel = 0 then
    [(0, 1, b2n (bit ((s.fuse.coreEn.getD (g / 32) 0).toNat) (g % 32))), (1, 1, b2n ((getDie s (g / 32)).spare = some (g % 32))),
     (2, 3, c.role.code), (8, 6, c.part), (16, 4, if c.part = 0 then 0 else c.slot), (20, 7, if c.part = 0 then 0 else c.idx)]
  else if rel = 8 then [(0, 32, c.live.toNat)]
  else if rel = 0xC then [(0, 16, c.live.toNat / 2 ^ 32)]
  else []

def roSdl (s : State) (h rel : Nat) : List At :=
  let ents := (getSdl s h).ents
  if rel = 0 then
    [(0, 7, (ents.filter (·.2.active)).length),
     (8, 19, (ents.map fun x => match x.2.job with | some j => j.used | none => 0).sum)]
  else if 0x1000 ≤ rel ∧ rel % 0x20 = 0x10 then
    let e := getEnt s h ((rel - 0x1000) / 0x20)
    [(0, 1, b2n e.active), (1, 3, e.err), (8, 8, min 255 (e.debt / 11000)), (16, 8, min 255 e.sat), (24, 8, e.frames)]
  else []

def roIng (s : State) (h rel : Nat) : List At :=
  let i := getIng s h
  if rel = 0 then
    [(0, 6, (boundOn s h).length),
     (8, 6, (i.streams.filter fun e => e.2.st ≠ .none && e.2.fresh = 3).length)]
  else if rel = 0x18 then
    let off := s.corrS - s.corrN
    [(0, 1, b2n i.synced), (1, 1, b2n i.freeRun), (2, 1, b2n i.gmBehind), (3, 1, b2n i.following),
     (16, 16, wrap 16 (max (-32768) (min 32767 off)))]
  else if rel = 0x30 then [(0, 15, poolFree s h), (16, 15, reserves s h)]
  else if rel < 0x1000 then []
  else
    let n := (rel - 0x1000) / 0x40
    let x := getStr s h n
    match rel % 0x40 with
    | 0 => [(0, 1, b2n (x.st = .bound || x.st = .unbinding)), (1, 1, b2n (x.st = .pending)), (2, 6, x.part), (8, 2, x.source), (10, 4, x.port),
            (14, 4, x.vc), (18, 6, x.dataType), (24, 2, x.profile)]
    | 4 => [(0, 16, x.lineBytes), (16, 16, x.nLines)]
    | 0x18 => [(0, 2, x.fresh), (2, 20, periodNs s h n / 1000)]
    | 0x1C => [(0, 16, min 0xFFFF x.drops), (16, 16, min 0xFFFF x.missing)]
    | 0x20 => [(0, 15, x.used), (16, 15, x.reserve)]
    | _ => []

def roFus (s : State) (h rel : Nat) : List At :=
  let f := getFus s h
  if rel = 0 then [(0, 1, b2n f.on), (1, 1, 0), (2, 2, f.egoLast), (8, 6, (f.srcs.filter (·.2.active)).length)]
  else if rel < 0x1000 then []
  else
    let x := tabGet dFusSrc f.srcs ((rel - 0x1000) / 0x20)
    match rel % 0x20 with
    | 0xC => [(0, 1, b2n x.active), (1, 3, x.err), (8, 24, x.points)]
    | 0x10 => [(0, 12, min 4095 x.lateOut), (12, 12, min 4095 x.discarded), (24, 8, min 255 x.early)]
    | _ => []

/-- The code of what a hub's first failed line was (DRC_UE_ADDR). -/
def firstBadOf (s : State) (h : Nat) : Nat × Nat × Nat := (getDrc s h).firstBad.getD (0, 0, 0)

def roDrc (s : State) (h rel : Nat) : List At :=
  let d := getDrc s h
  let (addr, owner, kind) := firstBadOf s h
  if rel = 0 then
    [(0, 3, d.st), (3, 2, d.set), (5, 2, d.type), (8, 8, d.gib), (16, 8, min 255 ((d.banks.map fun e => e.2.throttled.length).sum))]
  else if 0x20 ≤ rel ∧ rel < 0x2C then [(18, 1, b2n (d.trained.elem ((rel - 0x20) / 4)))]
  else if rel = 0x30 then [(0, 32, d.ce)]
  else if rel = 0x34 then [(0, 16, d.ue), (16, 16, d.macf)]
  else if rel = 0x38 then [(0, 32, d.lecc)]
  else if rel = 0x40 then [(6, 26, addr / 64)]
  else if rel = 0x44 then [(0, 16, addr / 2 ^ 32), (16, 6, owner), (22, 1, kind)]
  else if rel = 0x60 then [(4, 1, b2n d.held)]
  else if rel = 0x64 then [(31, 1, 1)]
  else if rel = 0x70 then [(1, 3, ofBits d.valid)]
  else if 0x80 ≤ rel ∧ rel < 0xC8 then [(0, 32, leAt d.diag (rel - 0x80) 4)]
  else if 0x40000 ≤ rel then [(0, 32, ofBytes (getBytes d.window (rel - 0x40000) 4))]
  else []

def LinkSt.code : LinkSt → Nat
  | .off => 0 | .training => 1 | .up => 2 | .down => 3 | .fenced => 4

/-- Bundles in a mask. -/
def maskWidth (m : Nat) : Nat := (bitList 4 m).length

def roLnk (s : State) (rel : Nat) : List At :=
  if rel = 0 then
    let those (f : Link → Bool) : Nat := ofBits ((List.range 8).filter fun k => f (getLink s k))
    [(0, 8, those fun l => l.st = .up), (8, 8, those fun l => l.st = .up && maskWidth l.mask < 4),
     (16, 8, those fun l => l.st = .training)]
  else if rel < 0x100 then []
  else
    let l := getLink s ((rel - 0x100) / 0x40)
    let o := rel % 0x40
    if o = 0 then
      [(0, 3, l.st.code), (3, 1, b2n l.sbOk), (4, 4, l.mask), (8, 3, maskWidth l.mask), (16, 16, l.sealed)]
    else if o < 0x24 then
      let m := tabGet dMap l.maps ((o - 4) / 4)
      (List.range 4).map (fun i : Nat => (7 * i, 7, match m.spares.getD i none with | some t => 64 + t | none => 0)) ++
        [(28, 3, m.asm), (31, 1, b2n (!m.badSpares.isEmpty))]
    else if o = 0x24 then [(0, 16, l.crcErr), (16, 16, l.replays)]
    else if o = 0x28 then [(0, 16, l.retrains), (16, 8, l.refused), (24, 8, l.hbLost)]
    else []

def roPtn (s : State) (h rel : Nat) : List At :=
  let p := getPtn s h
  let l := getLink s (8 + h)
  if rel = 0 then [(0, 3, l.st.code), (3, 3, p.lanes), (6, 1, b2n p.ok), (16, 16, l.sealed)]
  else if rel = 4 then [(0, 1, b2n p.enable)]
  else if rel = 0x14 then [(0, 32, p.waitUs)]
  else if rel < 0x100 then []
  else
    let r := tabGet dRange p.ranges ((rel - 0x100) / 0x10)
    match rel % 0x10 with
    | 0 => [(0, 6, if r.st = 0 then 0 else r.part), (6, 2, r.st), (8, 16, r.granules)]
    | 4 => [(0, 17, r.gran)]
    | _ => []

def IslSt.code : IslSt → Nat
  | .reset => 0 | .startup => 1 | .run => 2 | .safe => 3 | .split => 4

def StrSt.code : StrSt → Nat
  | .off => 0 | .init => 1 | .run => 2 | .degraded => 3 | .safe => 4

/-- Deferrals of the swatch that is due; which channel's where both are due is not stated. -/
def dueDeferrals (s : State) (x : SafStr) : Nat :=
  if x.swA.due && x.swB.due && x.swA.deferrals ≠ x.swB.deferrals then Config.freeValue s.frees
  else if x.swA.due then x.swA.deferrals else if x.swB.due then x.swB.deferrals else 0

def roSaf (s : State) (i rel : Nat) : List At :=
  let x := getIsl s i
  if rel = 0 then
    [(0, 3, if x.halted then 5 else x.st.code), (3, 1, b2n x.faultHigh), (4, 1, b2n x.alive),
     (5, 7, (x.strs.filter fun e => e.2.st ≠ .off).length), (12, 1, b2n (!x.degraded.isEmpty)), (13, 1, b2n x.injected)]
  else if rel = 4 then [(0, 8, x.cause), (8, 7, x.causeStr), (15, 1, b2n x.injected), (16, 16, min 0xFFFF x.restarts)]
  else if rel = 0x28 then
    [(0, 1, b2n (x.covered.any fun g => g ≠ islSubject && g / 32 = 2 * i)),
     (1, 1, b2n (x.covered.any fun g => g ≠ islSubject && g / 32 = 2 * i + 1)),
     (2, 1, b2n (x.covered.elem islSubject)),
     (3, 1, b2n ((islDies i).any fun d => dieUp s d && (getDie s d).spare.isNone))]
  else if rel < 0x1000 then []
  else
    let y := getSs s i ((rel - 0x1000) / 0x20)
    match rel % 0x20 with
    | 0 => [(0, 3, y.st.code), (4, 6, y.cfg.partA), (10, 6, y.cfg.partB), (16, 16, min 0xFFFF y.lastAge)]
    | 4 => [(0, 32, y.pass)]
    | 8 => [(0, 16, min 0xFFFF y.nMism), (16, 16, min 0xFFFF y.nMiss)]
    | 0xC => [(0, 16, min 0xFFFF y.runs), (16, 8, dueDeferrals s y), (24, 8, min 255 y.nOverdue)]
    | _ => []

def roInj (s : State) (rel : Nat) : List At :=
  if rel = 0 then [(8, 1, b2n s.inj.busy.isSome), (9, 1, fld s (injReg 4) 1 1)]
  else if rel = 0x20 then [(0, 31, s.inj.latency), (31, 1, b2n s.inj.detected)]
  else if 0x1000 ≤ rel then
    match injIndex[(rel - 0x1000) / 4]? with
    | some e => [(0, 16, e.1), (16, 8, e.2.2)]
    | none => []
  else []

def roSec (s : State) (rel : Nat) : List At :=
  if rel = 0 then
    [(0, 3, s.sec.stage), (3, 2, s.sec.debug), (5, 2, s.sec.scionN.st), (7, 2, s.sec.scionS.st), (16, 8, min 255 s.sec.restarts)]
  else if rel = 0x14 then [(0, 2, s.sec.rcvSt), (8, 8, s.sec.rcvReason)]
  else if 0x80000 ≤ rel then [(0, 32, ofBytes (getBytes s.sec.window (rel - 0x80000) 4))]
  else []

/-- The 32 bytes of an event record (Table 16.3); an empty slot reads zeros (R471). -/
def evBytes (r : EvRec) : List Byte :=
  if r.code = 0 then zeros 32
  else
    toBytes 8 r.time ++ toBytes 1 (r.code / 256) ++ toBytes 2 r.code ++ toBytes 1 r.sev ++ toBytes 2 r.repeats ++
      toBytes 1 r.part ++ toBytes 1 r.ctx ++ fit 16 r.data

def roEvr (s : State) (rel : Nat) : List At :=
  let cursor (c : Cursor) : List At := [(0, 11, c.index), (16, 1, 1), (17, 1, b2n c.ecc), (18, 1, b2n c.empty)]
  let win (c : Cursor) (o : Nat) : List At := [(0, 32, leAt (evBytes c.win) o 4)]
  if rel = 0 then
    [(0, 9, s.evr.kept), (9, 1, b2n s.evr.keptFull), (10, 7, s.evr.hsHeld.length), (17, 1, b2n (!reachesHn s 1))]
  else if rel = 0x14 then [(0, 32, s.evr.head)]
  else if rel = 0x100 then cursor s.evr.pfCur
  else if rel = 0x200 then cursor s.evr.scCur
  else if 0x120 ≤ rel ∧ rel < 0x140 then win s.evr.pfCur (rel - 0x120)
  else if 0x220 ≤ rel ∧ rel < 0x240 then win s.evr.scCur (rel - 0x220)
  else []

/-- Hours Table 17.8 allows each bin. -/
def binHours : List Nat := [12000, 38000, 35000, 12000, 3000]

/-- A bin holds more hours than the table allows (R492). -/
def overProfile (s : State) : Bool := (List.range 5).any fun i => binHours.getD i 0 < tabGet dNat s.pwr.life (i + 1)

def roPwr (s : State) (rel : Nat) : List At :=
  let age (x : Nat) : Age := tabGet dAge s.pwr.ages x
  if rel = 0 then
    [(0, 2, s.pwr.mode), (2, 1, b2n s.pwr.target.isSome), (3, 1, b2n (s.pwr.hot.any fun e => e.2.warn)),
     (4, 1, b2n (s.pwr.row = 0)), (5, 1, b2n ((List.range 4).any fun d => (getPD s d).cap ≠ 0)),
     (6, 1, b2n ((List.range 4).any (fun d => (getPD s d).guard ≠ 0) || (age 4).steps ≠ 0 || (age 5).steps ≠ 0)),
     (7, 1, b2n (overProfile s))]
  else if 0x20 ≤ rel ∧ rel < 0x30 then
    let d := getPD s ((rel - 0x20) / 4)
    [(4, 3, d.point), (8, 3, d.thermal), (11, 3, d.cap), (14, 3, d.guard)]
  else if rel = 0x30 then [(0, 20, s.pwr.cd)]
  else if rel = 0x34 then [(0, 6, s.pwr.hn), (6, 6, s.pwr.hs), (12, 1, 1), (13, 1, 1)]
  else if 0x100 ≤ rel ∧ rel < 0x1E0 then
    let t := tabGet (fun _ => ((0 : Int), false)) s.pwr.temps ((rel - 0x100) / 4)
    [(0, 16, wrap 16 t.1), (16, 1, b2n t.2)]
  else if rel = 0x200 ∨ rel = 0x210 then
    let c := getCool s ((rel - 0x200) / 0x10)
    [(0, 8, if c.inBad then 70 else wrap 8 c.inlet), (8, 8, if c.outBad then 70 else wrap 8 c.outlet), (16, 12, c.flow),
     (28, 1, b2n c.inBad), (29, 1, b2n c.outBad)]
  else if 0x300 ≤ rel ∧ rel < 0x318 then [(0, 10, (age ((rel - 0x300) / 4)).slow), (10, 2, (age ((rel - 0x300) / 4)).steps)]
  else if 0x400 ≤ rel ∧ rel < 0x420 then [(0, 32, min 0xFFFFFFFF (tabGet dNat s.pwr.life ((rel - 0x400) / 4)))]
  else []

/-- The fields a block computes, at an offset of the block, for an access answered by hub `h`. -/
def computed (s : State) (h : Nat) (b : Blk) (rel : Nat) : List At :=
  match b with
  | .glb => roGlb s h rel | .hif => roHif s rel | .fn p => roFn s p rel | .prt => roPrt s rel
  | .core g => roCore s g rel | .die _ => [] | .lnk => roLnk s rel | .drc k => roDrc s k rel | .ing k => roIng s k rel
  | .sdl k => roSdl s k rel | .fus k => roFus s k rel | .sec => roSec s rel | .saf i => roSaf s i rel
  | .evr => roEvr s rel | .pwr => roPwr s rel | .ptn k => roPtn s k rel | .inj => roInj s rel

/-- A core whose registers read zero and ignore writes: fused off, or disabled by a failed test (R23, R424). -/
def coreAbsent (s : State) : Blk → Bool
  | .core g => !(bit ((s.fuse.coreEn.getD (g / 32) 0).toNat) (g % 32)) || (getCore s g).failed
  | _ => false

/-- What a register holds for a read that reaches it, by its BAR0 offset; `h` is the answering hub (R8, R11, R23, R34). -/
def regRead (s : State) (h off : Nat) : Word :=
  match blkOf off with
  | none => 0
  | some b =>
    let rel := off - b.base
    if (fieldsAt off).isEmpty || coreAbsent s b then 0
    else if isHigh b rel then tabGet dWord s.latch off
    else
      match wideAt s b rel with
      | some v => BitVec.ofNat 32 v
      | none =>
        let w := (regGet s off).toNat
        let w := if expertOn s b then w
          else putPresets (Config.freeValue s.frees) (presets b rel (profileOf (regGet s) s b rel)) w
        BitVec.ofNat 32 ((computed s h b rel).foldl (fun w f => setBits w f.1 f.2.1 f.2.2) w)

end Sys2Proof.Machine
end

