-- ==== Sys2Proof/Machine/RegWrite.lean ====
section
/-!
DEFINITION. RegWrite.lean: register accesses (R5 to R11, R33 to R36, R39): a write field by field, commits of shadow
copies, EXPERT_EN, accesses that no register answers, latching reads, and the accesses of the management clusters (R31).
-/
namespace Sys2Proof.Machine

/-! ## Accesses that no register answers (R5, R35, R39) -/

/-- The link an access arrives on; none for scion's window. -/
def accLink (s : State) : Agent → Option Nat
  | .pf => some s.fuse.mpfLink
  | .vf p => some (fnLink s p)
  | .scion _ => none

/-- The answer of a read leaves on the link it arrived on. -/
def answerRead (acc : Agent) (off : Nat) (v : Word) (s : State) : State :=
  match accLink s acc with
  | some l => send (.readReturn l off v) s
  | none => s

/-- The block an access falls into (Table 1.10, Table 2.3). -/
def accBlk (acc : Agent) (off : Nat) : Option Blk :=
  match acc with
  | .vf p => some (.fn p)
  | _ => blkOf off

/-- An access is recorded in GLB_ERR of the answering hub, with its event (R35, R39): bit 0 pd_off, 1 unreachable,
2 misaligned. Scion's window has no arriving port: what the event carries for it is a free value. -/
def noteAccess (acc : Agent) (off b : Nat) (s : State) : State :=
  let h := answerHub s acc
  let x := getHub s h
  let ident := match accBlk acc off with | some k => k.ident | none => 0
  let first := x.errBits = 0
  let s := modHub h (fun x =>
    { x with errBits := setBits x.errBits b 1 1, errBlock := if first then ident else x.errBlock,
             errOff := if first then off % 2 ^ 26 else x.errOff }) s
  match acc with
  | .scion _ =>
    let (v, s) := takeFree s
    event h (0x0101 + b) [.loc4 off, .id1 (v % 256)] s
  | _ => event h (0x0101 + b) [.loc4 off, .id1 h] s

/-- R35: a read returns 0xDEAD_00nn, a write is discarded. -/
def notAnswered (acc : Agent) (off : Nat) (isWrite : Bool) (b : Nat) (s : State) : State :=
  let ident := match accBlk acc off with | some k => k.ident | none => 0
  let s := noteAccess acc off b s
  if isWrite then s else answerRead acc off (BitVec.ofNat 32 (0xDEAD0000 + ident)) s

/-- How an access to a block ends. -/
def accReach (s : State) (acc : Agent) (off : Nat) : Reach :=
  match absOff acc off with
  | none => .reached
  | some o =>
    match blkOf o with
    | none => .reached
    | some b => reach s (answerHub s acc) b

/-- The access crosses to another die, so that it can take longer than 40 µs (R35). -/
def crosses (s : State) (acc : Agent) (off : Nat) : Bool :=
  match (absOff acc off).bind blkOf with
  | none => false
  | some b => b.home ≠ .here && b.home ≠ .hub (answerHub s acc)

def doMisalignedAccess (t : Nat) (acc : Agent) (off size : Nat) (isWrite : Bool) (s : State) : State :=
  let s := advance t s
  if size = 4 ∧ off % 4 = 0 then s
  else
    let s := noteAccess acc off 2 s
    match accLink s acc with
    | some l => if isWrite then s else send (.unsupported l) s
    | none => s

/-- MISALIGNED_ACCESS (R5, R39): Unsupported Request, no effect on the register, GLB_ERR.misaligned and event 0x0103. A
write is posted and has no completion. -/
def execMisalignedAccess (t : Nat) (acc : Agent) (off size : Nat) (isWrite : Bool) (s : State) :
    Host.Outcome State Fault Refusal :=
  .next (doMisalignedAccess t acc off size isWrite s)

def doUnreachableAccess (t : Nat) (acc : Agent) (off : Nat) (isWrite late : Bool) (s : State) : State :=
  let s := advance t s
  match accReach s acc off with
  | .pdOff => notAnswered acc off isWrite 0 s
  | .unreachable => notAnswered acc off isWrite 1 s
  | .reached => if late && crosses s acc off then notAnswered acc off isWrite 1 s else s

/-- UNREACHABLE_ACCESS (R35, R39): `late` where the access exceeded 40 µs. -/
def execUnreachableAccess (t : Nat) (acc : Agent) (off : Nat) (isWrite late : Bool) (s : State) :
    Host.Outcome State Fault Refusal :=
  .next (doUnreachableAccess t acc off isWrite late s)

/-! ## EXPERT_EN (R11) -/

/-- Registers of a block that have expert fields, by offset in the block. -/
def expertRegs : Blk → List Nat
  | .fn _ => [0x190, 0x1B0, 0x1D0, 0x1F0]
  | .prt => [0xC] | .die _ => [4] | .lnk => [0xC] | .drc _ => [0x10, 0x14] | .fus _ => [0x20, 0x24] | .ptn _ => [0xC]
  | .saf _ => [0x24] | .inj => [4] | .evr => [0xC] | .pwr => [0x10]
  | .sdl _ => (List.range 64).map fun e : Nat => 0x100C + 0x20 * e
  | .ing _ => (List.range 48).flatMap fun n : Nat => [0x1010 + 0x40 * n, 0x1014 + 0x40 * n]
  | .glb => [] | .hif => [] | .core _ => [] | .sec => []

/-- The expert fields of one register take the profile's values: in the shadow copy and in what is in effect. -/
def loadPresets (b : Blk) (rel : Nat) (s : State) : State :=
  let off := b.base + rel
  let sel := presets b rel (profileOf (regGet s) s b rel)
  let cur := presets b rel (profileOf (effGet s) s b rel)
  let (free, s) := if (sel ++ cur).any (fun f => f.2.2.isNone) then takeFree s else (0, s)
  let e := putPresets free cur (effGet s off).toNat
  let s := regSet off (BitVec.ofNat 32 (putPresets free sel (regGet s off).toNat)) s
  { s with eff := tabSet regDefault s.eff off (BitVec.ofNat 32 e) }

/-- Copies a block keeps of a register in effect follow: channels keep DRC_SCHED and DRC_RAT, links keep LNK_POLICY. -/
def loadCopies (b : Blk) (s : State) : State :=
  let load (rel : Nat) (w : Word) : Word :=
    BitVec.ofNat 32 (putPresets (Config.freeValue s.frees) (presets b rel (bits w.toNat 0 2)) w.toNat)
  match b with
  | .drc h => modDrc h (fun d =>
      { d with chans := d.chans.map fun c => (c.1, { c.2 with sched := load 0x10 c.2.sched, rat := load 0x14 c.2.rat }) }) s
  | .lnk => { s with links := s.links.map fun l => (l.1, { l.2 with policy := load 0xC l.2.policy }) }
  | _ => s

/-- EXPERT_EN changes from 0 to 1: the expert fields hold the profile's values until they are written. -/
def raiseExpert (b : Blk) (s : State) : State := (expertRegs b).foldl (fun s r => loadPresets b r s) (loadCopies b s)

/-! ## Locked fields (R9) -/

/-- The block that uses an lk field runs, for a write that would change it from `old` to `new`. -/
def isLocked (s : State) (b : Blk) (rel : Nat) (old new : Nat) : Bool :=
  match b with
  | .hif => (getPLink s old).vfEnable || (getPLink s new).vfEnable
  | .fn p => (getRing s p ((rel - 0x100) / 0x20)).st ≠ .off
  | .sdl h => eff s (entReg h ((rel - 0x1000) / 0x20) 0) 0 1 = 1
  | .ing h =>
    if rel = 0x1C then gptpOn s h
    else if rel < 0x140 then (boundOn s h).any fun e => e.2.source = 0 && e.2.port = (rel - 0x100) / 4
    else
      let m := (rel - 0x140) / 4
      (gptpOn s h && gptpMac s h = m) || (boundOn s h).any fun e => e.2.source = 1 && e.2.port = m
  | .fus h => (getFus s h).on
  | .drc h => (getDrc s h).change.isSome || ((getDrc s h).set = (rel - 0x20) / 4 && 2 ≤ (getDrc s h).st && (getDrc s h).st ≤ 4)
  | .ptn h => if rel = 4 then (getPtn s h).enable else (getPtn s h).ranges.any fun e => e.2.st ≠ 0
  | .saf _ => fld s (b.base + 0x20) 24 1 = 1
  | .inj => s.inj.busy.isSome
  | _ => false

/-- Fields whose writes a block ignores whatever their code: the version and the interrupt of rings that do not choose
them (HIF_RING_CFG, R76), and follow on HN. -/
def isFixed (b : Blk) (rel : Nat) (f : RegField) : Bool :=
  match b with
  | .fn _ =>
    if rel = 0x190 then f.cls = .sh
    else 0x188 ≤ rel && rel < 0x200 && rel % 0x20 = 8 && f.lo = 8
  | .ing h => h = 0 && rel = 0x1C && f.lo = 3
  | _ => false

/-! ## A write (R6 to R10) -/

/-- What a write makes of one field's value, and whether it was a write to a locked field. -/
def writeField (s : State) (b : Blk) (rel : Nat) (f : RegField) (cur val : Nat) : Nat × Bool :=
  let old := bits cur f.lo f.w
  let new := bits val f.lo f.w
  if isFixed b rel f then (old, false)
  else if f.expert && !expertOn s b then (old, false)
  else match f.acc, f.cls with
    | .ro, _ => (old, false)
    | _, .row => (old, false)
    | .w1c, _ => (old &&& (2 ^ f.w - 1 - new), false)
    | .w1s, _ => (old ||| new, false)
    | .rw, .lk => if old ≠ new ∧ isLocked s b rel old new then (old, true) else (new, false)
    | .rw, _ => (new, false)

/-- The fields of a register after a write of `val`, and whether a locked field was written. -/
def writeFields (s : State) (b : Blk) (rel : Nat) (fields : List RegField) (cur val : Nat) : Nat × Bool :=
  fields.foldl (fun a f =>
    let (v, l) := writeField s b rel f cur val
    (setBits a.1 f.lo f.w v, a.2 || l)) (cur, false)

/-- Fields without a shadow copy take effect at once (R7, R8). -/
def takeEffect (off : Nat) (fields : List RegField) (s : State) : State :=
  let w := (regGet s off).toNat
  let e := (fields.filter fun f => f.cls ≠ .sh).foldl (fun e f => setBits e f.lo f.w (bits w f.lo f.w)) (effGet s off).toNat
  { s with eff := tabSet regDefault s.eff off (BitVec.ofNat 32 e) }

/-- Shadow copies that take effect at once because the block stands at its boundary when the write comes: an interrupt
whose ring counts nothing (R75), SDL_SLICE while no slice runs (R241), PTN_LAG while the queue is empty, SAF_CAN. -/
def commitNow (b : Blk) (rel : Nat) (s : State) : State :=
  let off := b.base + rel
  match b with
  | .fn p =>
    if 0x190 ≤ rel && rel < 0x200 && rel % 0x20 = 0x10 && (getRing s p ((rel - 0x100) / 0x20)).count = 0 then commit off s else s
  | .sdl h => if rel = 8 ∧ (getSdl s h).slice.isNone then commit off s else s
  | .ptn h => if rel = 0xC ∧ (getPtn s h).queue.isEmpty then commit off s else s
  | .saf _ => if rel = 0x20 then commit off s else s
  | _ => s

/-- gPTP switched on at a hub starts from no grandmaster (R286); PRT_ERR names no partition once its errors are clear. -/
def afterWrite (b : Blk) (rel : Nat) (was : Nat) (s : State) : State :=
  match b with
  | .ing h =>
    if rel = 0x1C ∧ bits was 0 1 = 0 ∧ gptpOn s h then modIng h (fun i => { i with gm := none, good := 0 }) s else s
  | .prt => if rel = 0x10 ∧ fld s (b.base + 0x10) 0 3 = 0 then regSet (b.base + 0x10) 0 s else s
  | _ => s

/-- A write of `val` reaches the register at BAR0 offset `off`. -/
def writeReg (off : Nat) (b : Blk) (val : Nat) (s : State) : State :=
  let rel := off - b.base
  let fields := fieldsAt off
  let cur := (regGet s off).toNat
  let ex := expertOn s b
  let (new, locked) := writeFields s b rel fields cur val
  let s := takeEffect off fields (regSet off (BitVec.ofNat 32 new) s)
  let s := if locked then lockedWrite off s else s
  let s := if !ex && expertOn s b then raiseExpert b s else s
  afterWrite b rel cur (commitNow b rel s)

/-- A write reaches a place that is no plain register: GLB_ERR of the answering hub, the training window, the recovery
window and SEC_RCV_CTRL, which are open in recovery only. -/
def writeAt (h off : Nat) (b : Blk) (val : Nat) (s : State) : State :=
  if (fieldsAt off).isEmpty then s
  else match b with
    | .glb => if off = 0x44 then modHub h (fun x => { x with errBits := x.errBits &&& (7 - val % 8) }) s else s
    | .drc k =>
      if 0x40000 ≤ off - b.base then
        modDrc k (fun d => { d with window := putBytes d.window (off - b.base - 0x40000) (toBytes 4 val) }) s
      else writeReg off b val s
    | .sec =>
      if off - b.base < 0x10 then writeReg off b val s
      else if s.sec.stage ≠ 3 then s
      else if 0x80000 ≤ off - b.base then
        { s with sec := { s.sec with window := putBytes s.sec.window (off - b.base - 0x80000) (toBytes 4 val) } }
      else if s.sec.rcvSt = 1 then
        (if bits (regGet s off).toNat 0 8 = bits val 0 8 then s else lockedWrite off s)
      else writeReg off b val s
    | _ => writeReg off b val s

/-- The access is to a VF that the host has not enabled, or over a link that is down: no function takes it (R44). -/
def agentAbsent (s : State) (acc : Agent) : Bool :=
  match acc with
  | .vf fn => !fnPresent s fn
  | _ => false

/-- A 32-bit write access, from its arrival to its end. -/
def registerWrite (acc : Agent) (off val : Nat) (s : State) : State :=
  if agentAbsent s acc then s
  else match absOff acc off with
  | none => s
  | some o =>
    match blkOf o with
    | none => s
    | some b =>
      match reach s (answerHub s acc) b with
      | .pdOff => notAnswered acc off true 0 s
      | .unreachable => notAnswered acc off true 1 s
      | .reached => if writeReaches s acc o then writeAt (answerHub s acc) o b val s else s

def doRegisterWrite (t : Nat) (acc : Agent) (off : Nat) (val : Word) (s : State) : State :=
  if off % 4 ≠ 0 then doMisalignedAccess t acc off 4 true s else registerWrite acc off val.toNat (advance t s)

/-- REGISTER_WRITE (R6 to R11): fields whose write has a row of its own take nothing from it. -/
def execRegisterWrite (t : Nat) (acc : Agent) (off : Nat) (val : Word) (s : State) : Host.Outcome State Fault Refusal :=
  .next (doRegisterWrite t acc off val s)

def doExpertEnable (t : Nat) (acc : Agent) (off : Nat) (s : State) : State :=
  match absOff acc off with
  | none => advance t s
  | some o =>
    match (blkOf o).bind expertReg, blkOf o with
    | some r, some b => if b.base + r = o then doRegisterWrite t acc off (regGet s o ||| 1) s else advance t s
    | _, _ => advance t s

/-- EXPERT_ENABLE (R11): a write that sets EXPERT_EN in the register at `off` and leaves its other bits. -/
def execExpertEnable (t : Nat) (acc : Agent) (off : Nat) (s : State) : Host.Outcome State Fault Refusal :=
  .next (doExpertEnable t acc off s)

/-! ## Commits (R8) -/

/-- The commit boundary of a block has come: its shadow copies take effect. Streams, fusion entries and links commit each
at its own frame, close or seal, and seedling entries in their own row. -/
def commitBlk (b : Blk) (s : State) : State :=
  let at_ (l : List Nat) (s : State) : State := l.foldl (fun s r => commit (b.base + r) s) s
  match b with
  | .fn p => [4, 5, 6, 7].foldl (fun s r => if (getRing s p r).count = 0 then commit (winReg p (0x110 + 0x20 * r)) s else s) s
  | .prt => at_ [0xC] s
  | .die _ => at_ [4] s
  | .sdl h => if (getSdl s h).slice.isNone then at_ [8] s else s
  | .ptn h => if (getPtn s h).queue.isEmpty then at_ [0xC] s else s
  | .pwr => dvfs (commitPwr s)
  | .saf _ => at_ [0x20, 0x24] s
  | .inj => at_ [4] s
  | .evr => at_ [8, 0xC] s
  | .drc h =>
    let s := at_ [0x10, 0x14, 0x18] s
    (List.range 16).foldl (fun s c => modChan h c (fun k =>
      { k with sched := regGet s (b.base + 0x10), rat := regGet s (b.base + 0x14) }) s) s
  | _ => s

def doShadowCommit (t blk : Nat) (s : State) : State :=
  let s := advance t s
  match blkOf blk with
  | some b => if b.base = blk then commitBlk b s else s
  | none => s

/-- SHADOW_COMMIT (R8): the commit boundary of the block at BAR0 offset `blk`. -/
def execShadowCommit (t blk : Nat) (s : State) : Host.Outcome State Fault Refusal := .next (doShadowCommit t blk s)

/-! ## Reads (R34, R146) -/

/-- The event window of the other reader: it reads zero (R471). -/
def otherWindow (acc : Agent) (o : Nat) : Bool :=
  match acc with
  | .scion _ => 0x2700100 ≤ o && o < 0x2700140
  | _ => 0x2700200 ≤ o && o < 0x2700240

/-- A 32-bit read access: the value it returns, with the high half latched by a read of a low half. One that no function
takes completes with Unsupported Request (R41). -/
def registerRead (acc : Agent) (off : Nat) (s : State) : State :=
  if agentAbsent s acc then match accLink s acc with
    | some l => send (.unsupported l) s
    | none => s
  else match absOff acc off with
  | none => answerRead acc off 0 s
  | some o =>
    match blkOf o with
    | none => answerRead acc off 0 s
    | some b =>
      match reach s (answerHub s acc) b with
      | .pdOff => notAnswered acc off false 0 s
      | .unreachable => notAnswered acc off false 1 s
      | .reached =>
        let v := if otherWindow acc o then 0 else regRead s (answerHub s acc) o
        let s := match wideAt s b (o - b.base) with
          | some w => if coreAbsent s b then s
              else { s with latch := tabSet dWord s.latch (o + 4) (BitVec.ofNat 32 (w / 2 ^ 32)) }
          | none => s
        answerRead acc off v s

def doLatchingLoRead (t : Nat) (acc : Agent) (off : Nat) (s : State) : State :=
  if off % 4 ≠ 0 then doMisalignedAccess t acc off 4 false s else registerRead acc off (advance t s)

/-- LATCHING_LO_READ (R146): CORE_CNTi_LO, ING_TIME_LO, FUS_INST_LO and SAF_DEC_LO latch their high halves; a read of any
other register answers and latches nothing. -/
def execLatchingLoRead (t : Nat) (acc : Agent) (off : Nat) (s : State) : Host.Outcome State Fault Refusal :=
  .next (doLatchingLoRead t acc off s)

def doCoreCntClr (t : Nat) (acc : Agent) (off : Nat) (s : State) : State :=
  let s := advance t s
  match absOff acc off with
  | none => s
  | some o =>
    match blkOf o with
    | some (.core g) =>
      if o - (Blk.core g).base = 0x20 ∧ writeReaches s acc o then modCore g (fun c => { c with cnt := [] }) s else s
    | _ => s

/-- CORE_CNT_CLR (R146): a write of 1 to CORE_CNT_CTRL.clr. -/
def execCoreCntClr (t : Nat) (acc : Agent) (off : Nat) (s : State) : Host.Outcome State Fault Refusal :=
  .next (doCoreCntClr t acc off s)

end Sys2Proof.Machine
end

