-- ==== Sys2Proof/Machine/Cluster.lean ====
section
/-!
DEFINITION. Cluster.lean: accesses of the management clusters to the device physical map (spec/01 Table 1.9, R31, R344,
R361, R437, Table 15.12).
-/
namespace Sys2Proof.Machine

/-- What a device physical address names (Table 1.9). -/
inductive DevSpace where
  /-- usable DRAM of a hub -/
  | dram (h : Nat)
  /-- core SRAM, an ingest buffer or a fusion grid -/
  | sram
  /-- register space, with the BAR0 offset -/
  | reg (off : Nat)
  /-- reserved or unpopulated -/
  | absent
  deriving DecidableEq, Repr

/-- Usable bytes behind a hub: seven eighths of what is installed (R30). -/
def usable (s : State) (h : Nat) : Nat := installed s h / 8 * 7

def devSpace (s : State) (a : Nat) : DevSpace :=
  if a < 2 ^ 37 then (if a % 2 ^ 36 < usable s (devHub a) then .dram (devHub a) else .absent)
  else if 0x4000000000 ≤ a ∧ a < 0x4020000000 then (if a % 0x400000 < 0x380000 then .sram else .absent)
  else if 0x4100000000 ≤ a ∧ a < 0x4120000000 then
    let o := a % 0x10000000
    if o < 0x1800000 ∨ (0x2000000 ≤ o ∧ o < 0x2800000) then .sram else .absent
  else if 0x4200000000 ≤ a ∧ a < 0x4204000000 then .reg (a - 0x4200000000)
  else .absent

/-- A bus error to a cluster core, with event 0x1001 and its kind (Table 15.12). -/
def busErr (hub core addr kind : Nat) (s : State) : State :=
  send (.busError hub core addr) (event hub 0x1001 [.id1 hub, .id1 core, .loc8 addr, .code1 kind] s)

/-- Kind reported for a read outcome of Table 12.2: 4 uncorrectable, 5 MAC failure, 6 memory in hold (R361). -/
def outcomeKind (s : State) (h : Nat) : MemErr → Nat
  | .mac _ => 5
  | .uncorrectable _ => if (getDrc s h).held then 6 else 4
  | .violation _ => 2

/-- An access to usable DRAM of hub `h` (R344, R437, R341). -/
def clusterDram (hub core h addr : Nat) (isWrite : Bool) (len : Nat) (data : List Byte) (s : State) : State :=
  if addr % 2 ^ 36 / granuleBytes < 16 then busErr hub core addr 3 s
  else if ownerOf s addr ≠ 0 then busErr hub core addr 2 s
  else if !(drcServes s h || (getDrc s h).held) || (h ≠ hub && !hubsJoined s) then s
  else if isWrite then
    match writeDev addr data (.hub 3) s with
    | (some e, s) => busErr hub core addr (outcomeKind s h e) s
    | (none, s) => s
  else
    match checkLines addr len (.hub 3) s with
    | (some e, s) => busErr hub core addr (outcomeKind s h e) s
    | (none, s) => send (.clusterData hub core addr (readDev s addr len)) s

/-- Bytes that nothing states: one free value for each. -/
def freeBytes : (n : Nat) → State → List Byte × State
  | 0, s => ([], s)
  | n + 1, s =>
    let (v, s) := takeFree s
    let (r, s) := freeBytes n s
    (BitVec.ofNat 8 v :: r, s)

def doManagementClusterAccess (t hub core addr : Nat) (isWrite : Bool) (len : Nat) (data : List Byte) (s : State) : State :=
  let s := advance t s
  let n := if isWrite then data.length else len
  if 2 ≤ hub ∨ 4 ≤ core ∨ n = 0 ∨ 64 < n ∨ !hubUp s hub then s
  else if devSpace s (addr + n - 1) = .absent then busErr hub core addr 1 s
  else match devSpace s addr with
    | .absent => busErr hub core addr 1 s
    | .dram h => clusterDram hub core h addr isWrite n data s
    | .sram =>
      if isWrite then s
      else
        let (b, s) := freeBytes n s
        send (.clusterData hub core addr b) s
    | .reg off =>
      if n ≠ 4 then doMisalignedAccess t (.scion hub) off n isWrite s
      else if isWrite then doRegisterWrite t (.scion hub) off (BitVec.ofNat 32 (ofBytes data)) s
      else doLatchingLoRead t (.scion hub) off s

/-- MANAGEMENT_CLUSTER_ACCESS (R31, R344, R437): a reserved, unpopulated, partition-owned or SEC-private address, and a
line that cannot be read, answer with a bus error and event 0x1001; an access to hub-owned DRAM or to the register window
takes effect. What an SRAM window returns to a cluster is not stated: scion never reads what a partition holds. -/
def execManagementClusterAccess (t hub core addr : Nat) (isWrite : Bool) (len : Nat) (data : List Byte) (s : State) :
    Host.Outcome State Fault Refusal :=
  .next (doManagementClusterAccess t hub core addr isWrite len data s)

end Sys2Proof.Machine
end

