-- ==== Sys2Proof/Machine/Destroy.lean ====
section
/-!
DEFINITION. Destroy.lean: PART_DESTROY (R87).
-/
namespace Sys2Proof.Machine

/-- A partition-level descriptor of the partition's VF ends with step 1: one not started, and a WAIT that waits, with
NOT_PERMITTED; a slot 0 import runs to its end, now that no context is left (R441). -/
def endPartDesc (p : Nat) (d : Desc) (s : State) : State :=
  match d.st with
  | .refused _ _ _ => s
  | .waiting => finish d.id 0x0103 0 0 0 s
  | .running =>
    if d.opcode = 0x04 then
      let s := modPart p (fun x => { x with waits := x.waits.filter fun w => w.who ≠ .desc d.id }) s
      finish d.id 0x0103 0 0 0 s
    else match (getPart s p).sec.importing with
      | some (i, body) => if i = d.id then installPolicy d body s else s
      | none => s

/-- Step 1: every context by force, then the partition-level descriptors of the VF. -/
def endContexts (p : Nat) (s : State) : State :=
  let s := slots.foldl (fun s k => destroyForced p k none s) s
  (s.hif.inflight.filter fun d => d.fn = p && d.ctx? = none).foldl (fun s d => endPartDesc p d s) s

/-- Ranges of the partition are mirrored no more; a MIRROR_CFG add that waits for one completes as for a partition that
does not exist (R385). -/
def endRanges (p : Nat) (s : State) : State :=
  [0, 1].foldl (fun s h =>
    let ids := ((getPtn s h).ranges.filterMap fun e => if e.2.part = p then e.2.desc else none).eraseDups
    let s := modPtn h (fun x => { x with ranges := x.ranges.filter fun e => e.2.part ≠ p }) s
    ids.foldl (fun s i => finish i 0x0100 8 0 0 s) s) s

/-- The steps of R87 in order. -/
def destroyPart (p : Nat) (s : State) : State :=
  let s := endContexts p (modPart p (fun x => { x with st := 2 }) s)
  let s := endRanges p (fusDestroy p (unbindPart p (removeStreams p s)))
  let devs := (getPart s p).gmap.filterMap fun e => e.2.map (·.dev)
  let s := devs.foldl (fun s g => zeroGranule g s) s
  let s := slots.foldl (fun s k => modCtx p k (fun _ => {}) s) s
  changed (record 0 0x0306 [.id1 p, .code1 1] p 0xFF (modPart p (fun _ => {}) s))

/-- The partition a PART_DESTROY names exists. -/
def partExists (s : State) (d : Desc) : Option Refused :=
  let p := d.u 8 1
  firstOf [(p = 0 || 32 < p || (getPart s p).st = 0, bad 8)]

/-- The checks of PART_DESTROY (R87): the partition exists, and its slots are FREE unless force is set. -/
def partDestroyCheck (s : State) (d : Desc) : Option Refused :=
  let p := d.u 8 1
  (partExists s d).or (firstOf [(!bit (d.u 9 1) 0 && slots.any (fun k => (getCtx s p k).st ≠ .free), (0x0103, 0, 0))])

def doPartDestroy (t id : Nat) (s : State) : State :=
  runScion t id 0x11 partDestroyCheck (fun d s => finishOk d.id (destroyPart (d.u 8 1) s)) s

/-- PART_DESTROY (R87). -/
def execPartDestroy (t id : Nat) (s : State) : Host.Outcome State Fault Refusal := .next (doPartDestroy t id s)

end Sys2Proof.Machine
end

