-- ==== Sys2Proof/Machine/Evr.lean ====
section
/-!
DEFINITION. Evr.lean: reading and clearing the event store (spec/16 R465, R471 to R473).
-/
namespace Sys2Proof.Machine

/-- The cursor register of an agent: EVR_CURSOR or EVR_SCURSOR (R471). -/
def cursorOff : Agent → Nat
  | .scion _ => 0x2700200
  | _ => 0x2700100

/-- The loaded cursor, of slot `i` with contents `r`. -/
def loadCursor (i : Nat) (r : EvRec) (ecc : Bool) : Cursor :=
  { index := i, win := if i < 1280 then r else {}, ecc := ecc && i < 1280, empty := 1280 ≤ i || r.code = 0 }

def doEvrCursorLoad (t : Nat) (acc : Agent) (val : Word) (dbl : Bool) (s : State) : State :=
  let s := advance t s
  if writeReaches s acc (cursorOff acc) then
    let i := val.toNat % 2048
    let spoilt := injLive s 0x0C01 0
    let s := if spoilt then injUse s else s
    let s := if i < 1280 ∧ (dbl ∨ spoilt) ∧ !s.evr.badSlots.elem i then
        { s with evr := { s.evr with badSlots := s.evr.badSlots ++ [i] } } else s
    let c := loadCursor i (tabGet dEv s.evr.slots i) (s.evr.badSlots.elem i)
    let s := match acc with
      | .scion _ => { s with evr := { s.evr with scCur := c } }
      | _ => { s with evr := { s.evr with pfCur := c } }
    if c.ecc then event 0 0x0C01 [.id1 i] (fldSet 0x2700010 0 1 1 s) else s
  else s

/-- EVR_CURSOR_LOAD (R471, R473): a write of the agent's own cursor loads a slot into its window. `dbl` where the store
shows a double-bit error, which stays with the stored record. -/
def execEvrCursorLoad (t : Nat) (acc : Agent) (val : Word) (dbl : Bool) (s : State) : Host.Outcome State Fault Refusal :=
  .next (doEvrCursorLoad t acc val dbl s)

/-- Slots `[lo, lo + n)` are emptied. -/
def emptySlots (lo n : Nat) (e : Evr) : Evr :=
  { e with slots := tabErase e.slots lo n, badSlots := e.badSlots.filter fun k => k < lo || lo + n ≤ k }

/-- Event 0x0C04, the first record after a clear: bit 0 circulating, bit 1 kept; the function that cleared. Scion is no
function: what it is reported as is a free value. -/
def cleared (bits_ : Nat) (acc : Agent) (s : State) : State :=
  match acc with
  | .scion _ =>
    let (v, s) := takeFree s
    event 0 0x0C04 [.code1 bits_, .id1 (v % 256)] s
  | _ => event 0 0x0C04 [.code1 bits_, .id1 0] s

def doClearCirculating (t : Nat) (acc : Agent) (s : State) : State :=
  let s := advance t s
  if writeReaches s acc 0x2700018 then cleared 1 acc { s with evr := emptySlots 256 1024 s.evr } else s

/-- CLEAR_CIRCULATING (R472): EVR_HEAD goes on counting. -/
def execClearCirculating (t : Nat) (acc : Agent) (s : State) : Host.Outcome State Fault Refusal :=
  .next (doClearCirculating t acc s)

def doClearKept (t : Nat) (acc : Agent) (s : State) : State :=
  let s := advance t s
  if writeReaches s acc 0x2700018 then
    match acc with
    | .scion _ => fldSet 0x2700010 3 1 1 s
    | _ => cleared 2 acc { s with evr := { emptySlots 0 256 s.evr with kept := 0, keptFull := false } }
  else s

/-- CLEAR_KEPT (R472, Table 16.6): refused for scion, clr_refused set. -/
def execClearKept (t : Nat) (acc : Agent) (s : State) : Host.Outcome State Fault Refusal := .next (doClearKept t acc s)

def doVddAonLoss (t : Nat) (s : State) : State :=
  let s := advance t s
  { s with evr := { s.evr with slots := [], head := 0, kept := 0, keptFull := false, badSlots := [] },
           pwr := { s.pwr with life := [], lifeLost := true } }

/-- VDD_AON_LOSS (R465, R493): the event store is empty, EVR_HEAD is 0 and the always-on lifetime counters are lost. -/
def execVddAonLoss (t : Nat) (s : State) : Host.Outcome State Fault Refusal := .next (doVddAonLoss t s)

end Sys2Proof.Machine
end

