-- ==== Sys2Proof/Machine/Query.lean ====
section
/-!
DEFINITION. Query.lean: QUERY and its answers (R82, R120, R220, Tables 2.14, 2.15, 3.8, 3.9, 6.8).
-/
namespace Sys2Proof.Machine

/-- The fields of an answer, each with its width in bytes, cut or filled to 64 bytes. -/
def answer64 (l : List (Nat × Nat)) : List Byte := fit 64 (l.flatMap fun f => toBytes f.1 f.2)

/-- A count as a field of `k` bytes shows it. -/
def satField (k n : Nat) : Nat × Nat := (k, min n (2 ^ (8 * k) - 1))

/-- Class 0x00: the function that asks (Table 2.14). -/
def fnAnswer (s : State) (fn : Nat) : List Byte :=
  let f := getFn s fn
  let rings := List.range 8
  let ring (r : Nat) : Ring := if hasRing fn r then getRing s fn r else {}
  answer64 ([(1, fn), (1, fnLink s fn), (1, partCode s fn), (1, fld s (winReg fn 4) 0 1), (2, fld s (winReg fn 8) 0 16), (2, 0)]
    ++ rings.map (fun r => (1, ringCode (ring r))) ++ rings.map (fun r => (2, (ring r).head))
    ++ [4, 5, 6, 7].map (fun r => satField 2 (ring r).held.length)
    ++ [satField 8 f.completed, satField 4 f.dbDiscarded, satField 4 f.msixSent, satField 4 f.linkLost])

/-- Class 0x01: a context (Table 3.8). -/
def ctxAnswer (s : State) (p k : Nat) : List Byte :=
  let c := getCtx s p k
  let now : Nat × Nat := match c.launch with
    | some l => (runNs s c / 1000, l.tag)
    | none => (0, 0)
  answer64 [(1, c.st.code), (1, c.prio), (1, c.eff),
    (1, b2n c.heelHeld + 2 * b2n (c.parks && !(owned s p k).isEmpty) + 4 * b2n (c.resident && c.inherited.isSome) + 8 * b2n c.hold),
    (2, c.cores), (2, (owned s p k).length), satField 8 c.launches, satField 8 c.heelIns, satField 8 c.replants,
    satField 8 c.heelNs, satField 8 c.replantNs, satField 4 c.lastHeelNs, satField 4 now.1, (2, now.2)]

/-- Class 0x02: a context's numeric totals (Table 6.8). -/
def numAnswer (s : State) (p k : Nat) : List Byte := answer64 ((getCtx s p k).numTotals.map fun n => satField 8 n)

/-- Class 0x03: a partition's counters (Table 3.9). -/
def partAnswer (s : State) (p : Nat) : List Byte :=
  let x := getPart s p
  answer64 [satField 8 x.nCreated, satField 8 x.nPrio, satField 8 x.nQuantum, satField 8 x.nInherit, satField 4 x.nRevoked,
    satField 4 x.nAbandoned, satField 4 x.nTeardown, satField 4 x.nLinkLost, satField 8 x.heelBytes]

/-- A register's low `k` bytes as hub `h` answers them, with whether its block could not be reached. -/
def regField (s : State) (h k : Nat) (b : Blk) (rel : Nat) : (Nat × Nat) × Bool :=
  if reach s h b = .reached then ((k, (regRead s h (b.base + rel)).toNat), false) else ((k, 0), true)

/-- Class 0x04: the device as hub `h` sees it (Table 2.15). What stands in a field of SEC, PWR or EVR that is out of reach
is not stated. -/
def devAnswer (s : State) (h free : Nat) : List Byte :=
  let own (k rel : Nat) (b : Blk) : Nat × Nat := (k, (regRead s h (b.base + rel)).toNat)
  let far (k rel : Nat) (b : Blk) : Nat × Nat :=
    match regField s h k b rel with
    | (f, false) => f
    | (_, true) => (k, free)
  let a := regField s h 2 (.saf 0) 0
  let b := regField s h 2 (.saf 1) 0
  let n := regField s h 1 (.drc 0) 0
  let z := regField s h 1 (.drc 1) 0
  let l := regField s h 4 .lnk 0
  answer64 [own 4 0 .glb, own 4 4 .glb, own 4 0x40 .glb, own 4 4 .prt, own 4 0x1C .glb, l.1, far 2 0 .sec,
    (1, (created s).length), far 1 0 .pwr, (2, contexts s), a.1, b.1, n.1, z.1, far 4 0x14 .evr, (8, hubTime s h),
    own 4 0x44 .glb, (1, b2n a.2 + 2 * b2n b.2 + 4 * b2n n.2 + 8 * b2n z.2 + 16 * b2n l.2)]

/-- Checks 5 and 6 of QUERY (R82, R120). -/
def queryCheck (_ : State) (d : Desc) : Option Refused :=
  let cls := d.u 8 1
  let level := d.slot = 0xFF
  firstOf [((d.fn = 0 && 1 ≤ cls && cls ≤ 3) || (d.fn ≠ 0 && cls = 4), (0x0103, 8, 0)),
    (if cls = 1 || cls = 2 then level else !level && cls ≤ 4, bad 5),
    (4 < cls, bad 8), (d.u 16 8 % 64 ≠ 0, bad 16)]

/-- The answer of a QUERY. -/
def queryAnswer (d : Desc) (s : State) : List Byte × State :=
  match d.u 8 1 with
  | 0 => (fnAnswer s d.fn, s)
  | 1 => (ctxAnswer s d.fn d.slot, s)
  | 2 => (numAnswer s d.fn d.slot, s)
  | 3 => (partAnswer s d.fn, s)
  | _ =>
    let h := fnHub s d.fn
    if hubsJoined s || h = 0 then (devAnswer s h 0, s)
    else
      let (v, s) := takeFree s
      (devAnswer s h v, s)

def queryBody (d : Desc) (s : State) : State :=
  let n := min (d.u 24 4) 64
  let (b, s) := queryAnswer d s
  let s := if (getPLink s (fnLink s d.fn)).up then hostWrite (d.u 16 8) (b.take n) s else s
  finish d.id 0 0 n 0 s

def doQuery (t id : Nat) (s : State) : State := runDesc t id 0x0C queryCheck queryBody s

/-- QUERY (R82, R120, R220): the first min(out_len, 64) bytes of a snapshot answer are written to host memory. -/
def execQuery (t id : Nat) (s : State) : Host.Outcome State Fault Refusal := .next (doQuery t id s)

end Sys2Proof.Machine
end

