-- ==== Sys2Proof/Machine/Security.lean ====
section
/-!
DEFINITION. Security.lean: boot, recovery, scion, SPDM and debug (spec/15 R431 to R439, R451, R453).
-/
namespace Sys2Proof.Machine

/-! ## Images (R431, Table 15.2) -/

/-- An accepted image: its body's digest and the bytes of the bundle behind it. -/
structure Image where
  digest : List Byte
  svn : Nat
  commits : Bool
  body : List Byte
  rest : List Byte
  deriving DecidableEq, Repr

/-- Longest body of each kind. -/
def imageLimit (kind : Nat) : Nat :=
  match kind with
  | 0 => 2 ^ 19
  | 1 => 2 ^ 24
  | _ => 2 ^ 18

/-- Read the image of a kind at the front of `b`, or give the reason for which R431 refuses it: 1 header, 2 key hash,
3 signature, 4 body digest, 5 svn, 6 size or order (Table 15.11). -/
def readImage (s : State) (kind : Nat) (b : List Byte) : Except Nat Image :=
  let h := b.take 8192
  let n := leAt h 12 4
  let zero (o k : Nat) : Bool := (h.drop o).take k = zeros k
  let key := (h.drop 64).take 1952
  let hash := sha3 key
  let body := (b.drop 8192).take n
  let digest := (h.drop 16).take 32
  let known := (List.range 4).any fun i => s.sec.keyHash[i]? = some hash && !s.sec.revoked.elem i
  let others := zero 10 2 && zero 48 16 && zero 2016 32 && zero 5357 2835
  if h.length ≠ 8192 ∨ leAt h 0 4 ≠ 0x5753494D ∨ leAt h 4 2 ≠ 1 ∨ 1 < leAt h 7 1 ∨ !others then .error 1
  else if leAt h 6 1 ≠ kind ∨ n = 0 ∨ n % 4096 ≠ 0 ∨ imageLimit kind < n ∨ body.length ≠ n then .error 6
  else if !known then .error 2
  else if !Config.dsaVerify key (h.take 2048) ((h.drop 2048).take 3309) then .error 3
  else if sha3 body ≠ digest then .error 4
  else if leAt h 8 2 < tabGet dNat s.sec.svn kind then .error 5
  else .ok { digest, svn := leAt h 8 2, commits := bit (leAt h 7 1) 0, body, rest := b.drop (8192 + n) }

/-- An accepted image that carries commit_svn raises the OTP counter of its kind. -/
def commitSvn (kind : Nat) (i : Image) (s : State) : State :=
  if i.commits then { s with sec := { s.sec with svn := tabMod dNat s.sec.svn kind fun v => max v i.svn } } else s

/-- The bundle's images in order from `kind` on: their digests, or the kind and reason refused (R431, R432). -/
def readBundle : (left kind : Nat) → List Byte → State → Except (Nat × Nat) (List (List Byte)) × State
  | 0, _, _, s => (.ok [], s)
  | n + 1, kind, b, s =>
    match readImage s kind b with
    | .error r => (.error (kind, r), s)
    | .ok i =>
      match readBundle n (kind + 1) i.rest (commitSvn kind i s) with
      | (.ok ds, s) => (.ok (i.digest :: ds), s)
      | (.error e, s) => (.error e, s)

/-- An image is refused: event 0x0A01. -/
def imageRefused (kind reason : Nat) (s : State) : State :=
  event 0 0x0A01 [.id1 kind, .code1 reason] (secErr 1 reason s)

/-! ## Boot (R432, R434) -/

/-- M ← SHA3-256(M ‖ v). -/
def extend (i : Nat) (v : List Byte) (s : State) : State :=
  { s with sec := { s.sec with meas := tabSet (fun _ => zeros 32) s.sec.meas i (sha3 (measOf s i ++ v)) } }

/-- The OTP configuration that M0 is extended with. -/
def otpConfig (s : State) : List Byte :=
  Config.otpImage s.sec.keyHash (s.sec.revoked ++ (List.range 4).map (tabGet dNat s.sec.svn) ++
    [b2n s.fuse.portNx4, b2n s.fuse.portSx4, b2n (getIsl s 0).otpSplit, b2n (getIsl s 1).otpSplit, s.sec.debug])

/-- From the rootstock stage on: measurements, keys, the island images and the scion boot stage (R432, R434, R437). -/
def bootOn (digests : List (List Byte)) (recovered : Bool) (s : State) : State :=
  let d (i : Nat) : List Byte := digests.getD i []
  let s := extend 0 (sha3 (otpConfig s)) s
  let s := [0, 1, 2, 3].foldl (fun s i => extend (i + 1) (d i) s) s
  let s := extend 5 [BitVec.ofNat 8 (b2n recovered)] s
  let scion (x : Scion) : Scion := { x with st := 0, started := true, copied := false, beat := s.clk, restarts := [] }
  { s with sec := { s.sec with stage := 2, scionDigest := d 1, recovered, scionN := scion s.sec.scionN, scionS := scion s.sec.scionS } }

def doBootRom (t : Nat) (flash : List Byte) (s : State) : State :=
  let s := advance t s
  if s.sec.stage ≠ 0 then s
  else
    let s := { s with pwr := { s.pwr with hn := s.pwr.hn ||| 33 } }
    match readBundle 4 0 flash s with
    | (.ok ds, s) => bootOn ds false s
    | (.error (k, r), s) => imageRefused k r { s with sec := { s.sec with stage := 3 } }

/-- BOOT_ROM (R431, R432): `flash` is what the boot flash holds. Its four images are verified, measured and started; one
that fails starts recovery. -/
def execBootRom (t : Nat) (flash : List Byte) (s : State) : Host.Outcome State Fault Refusal := .next (doBootRom t flash s)

def doScionCopy (t h : Nat) (body : List Byte) (s : State) : State :=
  let s := advance t s
  let x := getScion s h
  if h < 2 ∧ hubUp s h ∧ x.started ∧ !x.copied ∧ (getDrc s h).st = 2 then
    if sha3 body = s.sec.scionDigest then
      modScion h (fun x => { x with copied := true }) { s with dram := putBytes s.dram (2 ^ 36 * h) (body.take (2 ^ 24)) }
    else imageRefused 1 4 s
  else s

/-- SCION_COPY (R437): the second reading of the scion body goes to the SEC-private granules once the hub's granules are
zeroed; one with another digest is not placed. -/
def execScionCopy (t h : Nat) (body : List Byte) (s : State) : Host.Outcome State Fault Refusal :=
  .next (doScionCopy t h body s)

/-! ## Recovery (R433) -/

/-- A recovery bundle ends refused. -/
def bundleRefused (kind reason : Nat) (s : State) : State :=
  imageRefused kind reason { s with sec := { s.sec with rcvSt := 3, rcvReason := reason, chunks := [] } }

def takeChunk (chunk : Nat) (last commits : Bool) (s : State) : State :=
  let s := if chunk = 0 then { s with sec := { s.sec with chunks := [], rcvSt := 0, rcvReason := 0 } } else s
  if chunk ≠ s.sec.chunks.length then bundleRefused 0 6 s
  else
    let all := s.sec.chunks ++ [getBytes s.sec.window 0 (2 ^ 19)]
    let s := { s with sec := { s.sec with chunks := all } }
    if !last then s
    else
      let bundle := all.flatten
      match readBundle 4 0 bundle s with
      | (.error (k, r), s) => bundleRefused k r s
      | (.ok ds, s) =>
        let s := event 0 0x0A02 [.code1 (b2n commits)] { s with sec := { s.sec with rcvSt := 2, chunks := [] } }
        bootOn ds true (if commits then send (.bundle bundle) s else s)

def doRecoveryChunk (t : Nat) (acc : Agent) (chunk : Nat) (last commits : Bool) (s : State) : State :=
  let s := advance t s
  if s.sec.stage = 3 ∧ writeReaches s acc 0x2500010 then
    let s := regSet 0x2500010 (BitVec.ofNat 32 (chunk % 64 + 64 * b2n last + 128 * b2n commits)) s
    takeChunk (chunk % 64) last commits s
  else s

/-- RECOVERY_CHUNK (R433): a write of SEC_RCV_CTRL with go takes the window as the next chunk; the final one is verified
with the whole bundle. -/
def execRecoveryChunk (t : Nat) (acc : Agent) (chunk : Nat) (last commits : Bool) (s : State) :
    Host.Outcome State Fault Refusal := .next (doRecoveryChunk t acc chunk last commits s)

/-! ## Scion (R438, R439) -/

def doScionHeartbeat (t h : Nat) (s : State) : State :=
  let s := advance t s
  let x := getScion s h
  if h < 2 ∧ hubUp s h ∧ x.started ∧ x.st ≠ 2 ∧ !injActive s 0x0A01 h then
    modScion h (fun x => { x with st := 0, beat := s.clk }) s
  else s

/-- SCION_HEARTBEAT (R438). -/
def execScionHeartbeat (t h : Nat) (s : State) : Host.Outcome State Fault Refusal := .next (doScionHeartbeat t h s)

def doScionWatchdog (t h : Nat) (flash : List Byte) (s : State) : State :=
  let s := advance t s
  let x := getScion s h
  if h < 2 ∧ hubUp s h ∧ x.started ∧ x.st = 0 ∧ x.beat + 15000000 ≤ s.clk then
    let recent := (x.restarts.filter fun r => s.clk < r + 60000000000) ++ [s.clk]
    let s := modScion h (fun x => { x with st := 1, restarts := recent }) { s with sec := { s.sec with restarts := satAdd 8 s.sec.restarts 1 } }
    let s := if x.copied then s
      else match readImage s 1 flash with
        | .ok i => commitSvn 1 i s
        | .error r => imageRefused 1 r (modScion h (fun x => { x with started := false }) s)
    let s := event h 0x0A03 [.id1 h, .val4 recent.length] s
    if 3 ≤ recent.length then
      event h 0x0A04 [.id1 h] (secErr 2 0 (modScion h (fun x => { x with st := 2 }) s))
    else s
  else s

/-- SCION_WATCHDOG (R438, R439): 15 ms without a heartbeat; scion restarts from its copy, or from the scion image of the
flash, and is halted at its third restart within 60 s. -/
def execScionWatchdog (t h : Nat) (flash : List Byte) (s : State) : Host.Outcome State Fault Refusal :=
  .next (doScionWatchdog t h flash s)

/-! ## SPDM and debug (R451, R453) -/

/-- A draw of 32 bytes from the random bit generator. -/
def drawNonce (s : State) : List Byte := fit 32 (Config.random s.sec.draws)

def answerSpdm (req : SpdmReq) (s : State) : State :=
  let n := s.fuse.mpfLink
  let say (code : Nat) (v : List Byte) (s : State) : State := send (.doe n (Config.spdmAnswer code v)) s
  match req with
  | .version => say 1 [] s
  | .capabilities => say 2 [] s
  | .algorithms => say 3 [] s
  | .digests => say 4 (Config.dsaPublic (aliasSeed s)) s
  | .certificate => say 5 (Config.dsaPublic (aliasSeed s)) s
  | .challenge => say 6 (aliasSeed s) s
  | .measurements i => if 1 ≤ i ∧ i ≤ 7 then say 7 (measOf s (i - 1)) s else say 0 [] s
  | .keyExchange => say 8 (aliasSeed s) { s with sec := { s.sec with session := true } }
  | .finish =>
    if s.sec.session then say 9 [] (modPLink n (fun l => { l with ide := true }) { s with sec := { s.sec with session := false } })
    else say 0 [] s
  | .nonce =>
    let v := drawNonce s
    say 10 v { s with sec := { s.sec with draws := s.sec.draws + 1, nonces := s.sec.nonces ++ [(s.clk, v)] } }
  | .other _ => say 0 [] s

def doSpdmRequest (t : Nat) (req : SpdmReq) (s : State) : State :=
  let s := advance t s
  if s.sec.stage = 2 ∧ (getPLink s s.fuse.mpfLink).up then answerSpdm req s else s

/-- SPDM_REQUEST (R451): a request on the management PF's DOE mailbox is answered, or receives ERROR
UnsupportedRequest. -/
def execSpdmRequest (t : Nat) (req : SpdmReq) (s : State) : Host.Outcome State Fault Refusal := .next (doSpdmRequest t req s)

/-- The DevID public key (R435). -/
def devId : List Byte := Config.dsaPublic (Config.kdf Config.deviceSecret (label "WALELO-DEVID") 32)

/-- A token that SEC accepts: it raises the level, names this part and a nonce of the last 60 s, and its signature
verifies under a key of its level (R453, Table 15.9a). -/
def tokenOk (s : State) (level : Nat) (devid nonce key sig : List Byte) : Bool :=
  (level = 1 || level = 2) && s.sec.debug < level && devid = sha3 devId &&
    s.sec.nonces.any (fun n => n.2 = nonce && s.clk ≤ n.1 + 60000000000) &&
    (if level = 1 then s.sec.fieldKeys else s.sec.rmaKeys).elem (sha3 key) &&
    Config.dsaVerify key (Config.tokenBytes level devid nonce) sig

def openDebug (level : Nat) (token : List Byte) (s : State) : State :=
  let dig := sha3 token
  let s := extend 6 dig { s with sec := { s.sec with debug := level } }
  let s := event 0 0x0A06 [.id1 level, .loc8 (leAt dig 0 8)] s
  let s := (created s).foldl (fun s p => destroyPart p s) s
  settle (if level = 2 then { s with sec := { s.sec with udsErased := true } } else s)

def doDebugToken (t level : Nat) (devid nonce key sig : List Byte) (s : State) : State :=
  let s := advance t s
  if s.sec.stage = 2 ∧ tokenOk s level devid nonce key sig then
    openDebug level (Config.tokenBytes level devid nonce ++ sig)
      { s with sec := { s.sec with nonces := s.sec.nonces.filter fun n => n.2 ≠ nonce } }
  else s

/-- DEBUG_TOKEN (R453): an accepted token raises the debug level, extends M6 and destroys every partition; level 2 also
zeroises the UDS. -/
def execDebugToken (t level : Nat) (devid nonce key sig : List Byte) (s : State) : Host.Outcome State Fault Refusal :=
  .next (doDebugToken t level devid nonce key sig s)

def doTapAccess (t : Nat) (op : TapOp) (s : State) : State :=
  let s := advance t s
  let refuse (n : Nat) (s : State) : State := event 0 0x0A07 [.val4 n] (secErr 4 0 s)
  match op with
  | .boundary => s
  | .instrument n => if s.sec.debug = 0 then refuse n s else send (.tap (Config.tapAnswer n)) s
  | .otpSplit n i v =>
    if s.sec.debug = 0 then refuse n s else if i < 2 then modIsl i (fun x => { x with otpSplit := v }) s else s

/-- TAP_ACCESS (R453): beyond boundary scan refused while debug is locked, event 0x0A07. -/
def execTapAccess (t : Nat) (op : TapOp) (s : State) : Host.Outcome State Fault Refusal := .next (doTapAccess t op s)

end Sys2Proof.Machine
end

