-- ==== Sys2Proof/Machine/Fetch.lean ====
section
/-!
DEFINITION. Fetch.lean: a ring engine's turn (R54, R515) and the checks of a fetched descriptor (R61 to R63, R521).
-/
namespace Sys2Proof.Machine

/-! ## Table 2.6 -/

/-- The body fields of an opcode: byte offset, low bit, width in bits (Table 2.6). -/
def layout (op : Nat) : List (Nat × Nat × Nat) :=
  match op with
  | 0x01 => [(8, 0, 64), (16, 0, 64), (24, 0, 32), (28, 0, 32), (32, 0, 64), (40, 0, 64), (48, 0, 64), (56, 0, 32)]
  | 0x02 => [(8, 0, 64), (16, 0, 64), (24, 0, 64), (32, 0, 2)]
  | 0x03 => [(8, 0, 64), (16, 0, 64), (24, 0, 64)]
  | 0x04 => [(8, 0, 16), (10, 0, 8), (16, 0, 64), (24, 0, 32)]
  | 0x05 => [(8, 0, 16), (10, 0, 8), (16, 0, 64)]
  | 0x08 => [(8, 0, 64), (16, 0, 32), (20, 0, 32), (24, 0, 64), (32, 0, 1)]
  | 0x09 => [(8, 0, 8), (9, 0, 4), (10, 0, 8), (11, 0, 8), (12, 0, 8), (14, 0, 12), (16, 0, 48), (22, 0, 16), (24, 0, 16),
      (26, 0, 16), (28, 0, 32), (32, 0, 16), (34, 0, 8)]
  | 0x0A => [(8, 0, 1), (9, 0, 8), (16, 0, 64), (24, 0, 64)]
  | 0x0B => [(8, 0, 64), (16, 0, 64), (24, 0, 64)]
  | 0x0C => [(8, 0, 8), (16, 0, 64), (24, 0, 32)]
  | 0x0D => [(8, 0, 8), (16, 0, 64), (24, 0, 64)]
  | 0x0E => [(8, 0, 64), (16, 0, 64), (24, 0, 64)]
  | 0x10 => [(8, 0, 8), (9, 0, 4), (10, 0, 16), (12, 0, 32), (16, 0, 32), (20, 0, 32), (24, 0, 8), (25, 0, 8)]
  | 0x11 => [(8, 0, 8), (9, 0, 1)]
  | 0x12 => [(8, 0, 8), (9, 0, 8), (10, 0, 16), (16, 0, 64)]
  | 0x13 => [(8, 0, 8), (9, 0, 1)]
  | 0x14 => [(8, 0, 8), (9, 0, 3), (16, 0, 64), (24, 0, 64), (32, 0, 32)]
  | 0x15 => [(8, 0, 8), (9, 0, 8), (10, 0, 8), (12, 0, 8), (13, 0, 8), (16, 0, 32), (20, 0, 32), (24, 0, 64), (32, 0, 32),
      (36, 0, 16), (38, 0, 8)]
  | 0x16 => [(8, 0, 2), (9, 0, 8)]
  | 0x17 => [(8, 0, 8), (9, 0, 1)]
  | 0x18 => [(8, 0, 8), (9, 0, 2)]
  | 0x19 => [(8, 0, 8), (9, 0, 8), (16, 0, 64), (24, 0, 32)]
  | 0x1A => [(8, 0, 8), (16, 0, 64), (24, 0, 32), (32, 0, 256)]
  | 0x1B => [(8, 0, 8), (9, 0, 8), (16, 0, 64), (24, 0, 32)]
  | _ => []

/-- The bits of byte `k` that some field of the opcode covers. -/
def layoutBits (op k : Nat) : Nat :=
  ofBits ((List.range 8).filter fun b =>
    (layout op).any fun f => 8 * f.1 + f.2.1 ≤ 8 * k + b && 8 * k + b < 8 * f.1 + f.2.1 + f.2.2)

/-- The first body byte with a bit set that no field covers (check 4, R63). -/
def rzByte (d : Desc) : Option Nat :=
  ((List.range 56).map (· + 8)).find? fun k => (List.range 8).any fun b => bit (d.u k 1) b && !bit (layoutBits d.opcode k) b

/-- Opcodes of generation 1 (Table 2.6). -/
def isOpcode (op : Nat) : Bool := op ≤ 0x0E || (0x10 ≤ op && op ≤ 0x1B)

/-- Opcodes both kinds of function may submit (Table 2.6). -/
def onBoth (op : Nat) : Bool := op = 0x00 || op = 0x0C || op = 0x12 || op = 0x13 || op = 0x1A

/-- Opcodes of the management PF only (Table 2.6). -/
def onPf (op : Nat) : Bool := [0x10, 0x11, 0x14, 0x15, 0x16, 0x17, 0x18, 0x1B].elem op

/-- The Function column of Table 2.6. -/
def opAllowed (fn op : Nat) : Bool := onBoth op || (onPf op == (fn = 0))

/-- The slot a descriptor may name (R62, the Slot column of Table 2.6). -/
def slotOk (d : Desc) : Bool :=
  let named := d.slot < 16
  let level := d.slot = 0xFF
  if [0x01, 0x06, 0x07, 0x08, 0x0D, 0x0E, 0x12, 0x13].elem d.opcode then named
  else if [0x00, 0x04, 0x05, 0x0C].elem d.opcode then level || (d.fn ≠ 0 && named)
  else level

/-! ## The checks of Table 2.5 -/

/-- Checks 1 to 5, and the header's part of check 6 (R61, R62, R47, R37, R67): every capability bit reads 1. -/
def headCheck (s : State) (d : Desc) : Option Refused :=
  let op := d.opcode
  let rz := rzByte d
  firstOf [(bits (d.u 1 1) 0 4 ≠ (getRing s d.fn d.ring).verEff, (0x0101, 1, 0)), (0x40 ≤ op && op ≤ 0xBF, (0x0101, 0, 0)),
    (!isOpcode op, bad 0), (bits (d.u 1 1) 4 4 ≠ 0, (0x0102, 1, 0)), (bits d.flags 5 3 ≠ 0, (0x0102, 4, 0)),
    (d.u 6 2 ≠ 0, (0x0102, 6, 0)), (rz.isSome, (0x0102, rz.getD 0, 0)), (!opAllowed d.fn op, (0x0103, 0, 0)),
    (d.fn ≠ 0 && op ≠ 0x00 && op ≠ 0x0C && (getPart s d.fn).st ≠ 1, (0x0103, 0, 0)),
    (op = 0x0C && ((d.fn = 0 && 1 ≤ d.u 8 1 && d.u 8 1 ≤ 3) || (d.fn ≠ 0 && d.u 8 1 = 4)), (0x0103, 8, 0)),
    ((bit d.flags 3 && op ≠ 0x01 && op ≠ 0x0E) || (bit d.flags 4 && op ≠ 0x01), bad 4), (!slotOk d, bad 5)]

/-- The opcode's own part of check 6, made at fetch (R521). -/
def bodyCheck (s : State) (d : Desc) : Option Refused :=
  match d.opcode with
  | 0x01 => launchCheck s d
  | 0x02 => copyCheck s d
  | 0x03 => fillCheck s d
  | 0x04 => waitCheck s d
  | 0x05 => signalCheck s d
  | 0x08 => (kvMapCheck s d).or (kvMapReady s d)
  | 0x09 => bindCheck s d
  | 0x0A => calCheck s d
  | 0x0B => digestCheck s d
  | 0x0C => queryCheck s d
  | 0x0D => if d.u 8 1 = 1 then recordStopCheck s d else recordCheck s d
  | 0x0E => replayCheck s d
  | 0x10 => partCreateCheck s d
  | 0x11 => partExists s d
  | 0x12 => ctxCreateStatic s d
  | 0x13 => if partNamed s d then none else some (bad 8)
  | 0x14 => if bit (d.u 9 1) 2 then memUnmapCheck s d else memMapCheck s d
  | 0x15 => safetyFields s d
  | 0x16 => freqCheck s d
  | 0x17 => retrainCheck s d
  | 0x18 => dieResetCheck s d
  | 0x19 => importCheck s d
  | 0x1A => attestCheck s d
  | 0x1B => if d.u 9 1 = 1 then none else mirrorAddCheck true s d
  | _ => none

/-- A fetched descriptor's checks (R61, R521). -/
def fetchCheck (s : State) (d : Desc) : Option Refused := (headCheck s d).or (bodyCheck s d)

/-! ## A turn of the ring engine -/

/-- Priority class of a submission ring (R54). -/
def ringClass (fn ring : Nat) : Nat := if fn = 0 then 2 * ring else ring

/-- Descriptors a ring holds that are not fetched (R49 to R51). -/
def ringAvail (s : State) (fn ring : Nat) : Nat :=
  let x := getRing s fn ring
  let n := ringSize s fn ring
  (x.bell + n - x.head) % n

/-- The ring has something to fetch: ACTIVE, on a link of the hub that is up, its completion ring not stalled (R53, R54,
R80). -/
def fetchable (s : State) (h fn ring : Nat) : Bool :=
  hasRing fn ring && fnHub s fn = h && fnPresent s fn && (getRing s fn ring).st = .active && !stalled s fn ring &&
    0 < ringAvail s fn ring

/-- Every submission ring, by function and number: the order of turns (log entry 34). -/
def submissionRings : List (Nat × Nat) := (List.range 33).flatMap fun fn => (List.range 4).map fun r => (fn, r)

/-- A ring's place in the order of turns, from 1. -/
def ringTurn (x : Nat × Nat) : Nat := 4 * x.1 + x.2 + 1

/-- The ring a hub's engine serves next: the lowest class with work, round robin within it (R54). -/
def nextRing (s : State) (h : Nat) : Option (Nat × Nat) :=
  let l := submissionRings.filter fun x => fetchable s h x.1 x.2
  match (List.range 4).find? fun c => l.any fun x => ringClass x.1 x.2 = c with
  | none => none
  | some c =>
    let l := l.filter fun x => ringClass x.1 x.2 = c
    let last := tabGet dNat s.hif.rr (4 * h + c)
    (l.find? fun x => last < ringTurn x).or l.head?

/-- One descriptor is fetched: the head moves past it, and its checks are made (R51, R61). -/
def fetchOne (fn ring : Nat) (raw : DescWord) (s : State) : State :=
  let i := s.hif.nextId
  let s := modRing fn ring (fun x => { x with head := if x.head + 1 = ringSize s fn ring then 0 else x.head + 1 }) s
  let d : Desc := { id := i, fn, ring, raw, st := .waiting }
  let st : DescSt := match fetchCheck s d with
    | some (status, detail, info) => .refused status detail info
    | none => .waiting
  { s with hif := { s.hif with nextId := i + 1, inflight := s.hif.inflight ++ [{ d with st }] } }

/-- Batch mode is entered at a fetch-path load of 70 % or more and left at 50 % or less (R515). -/
def batchMode (h load : Nat) (s : State) : State :=
  if 70 ≤ load then { s with hif := { s.hif with batch := tabSet dBool s.hif.batch h true } }
  else if load ≤ 50 then { s with hif := { s.hif with batch := tabSet dBool s.hif.batch h false } }
  else s

def doRingFetch (t hub load : Nat) (descs : List DescWord) (s : State) : State :=
  let s := advance t s
  if 2 ≤ hub then s
  else
    let s := batchMode hub load s
    match nextRing s hub with
    | none => s
    | some (fn, ring) =>
      let n := min 8 (ringAvail s fn ring)
      if injActive s 0x0201 (fnLink s fn) then doRingFetchError 0 fn ring (ringBase s fn ring + 64 * (getRing s fn ring).head) s
      else if descs.length < n then s
      else
        let s := { s with hif := { s.hif with rr := tabSet dNat s.hif.rr (4 * hub + ringClass fn ring) (ringTurn (fn, ring)) } }
        settle ((descs.take n).foldl (fun s w => fetchOne fn ring w s) s)

/-- RING_FETCH (R54, R61, R515, R521): one turn of a hub's ring engine. `load` is the share of the last 100 µs, in percent,
that its fetch path was busy; `descs` is what the host's memory holds at the ring's head. -/
def execRingFetch (t hub load : Nat) (descs : List DescWord) (s : State) : Host.Outcome State Fault Refusal :=
  .next (doRingFetch t hub load descs s)

end Sys2Proof.Machine
end

