-- ==== Sys2Proof/Machine/Dispatch.lean ====
section
/-! DEFINITION. Dispatch.lean: one arm for each command, a direct call of its meaning. -/

namespace Sys2Proof.Machine

/-- The effect of a command on everything but the queue. -/
def exec (i : Instr) (s : State) : Host.Outcome State Fault Refusal :=
  match i with
  | .registerWrite t acc off val => Sys2Proof.Machine.execRegisterWrite t acc off val s
  | .shadowCommit t blk => Sys2Proof.Machine.execShadowCommit t blk s
  | .expertEnable t acc off => Sys2Proof.Machine.execExpertEnable t acc off s
  | .misalignedAccess t acc off size isWrite => Sys2Proof.Machine.execMisalignedAccess t acc off size isWrite s
  | .unreachableAccess t acc off isWrite late => Sys2Proof.Machine.execUnreachableAccess t acc off isWrite late s
  | .latchingLoRead t acc off => Sys2Proof.Machine.execLatchingLoRead t acc off s
  | .sqDoorbell t fn ring val => Sys2Proof.Machine.execSqDoorbell t fn ring val s
  | .cqDoorbell t fn ring val => Sys2Proof.Machine.execCqDoorbell t fn ring val s
  | .ringEnable t fn ring => Sys2Proof.Machine.execRingEnable t fn ring s
  | .ringDisable t fn ring => Sys2Proof.Machine.execRingDisable t fn ring s
  | .ringDrainDone t fn ring => Sys2Proof.Machine.execRingDrainDone t fn ring s
  | .ringFetch t hub load descs => Sys2Proof.Machine.execRingFetch t hub load descs s
  | .ringFetchError t fn ring addr => Sys2Proof.Machine.execRingFetchError t fn ring addr s
  | .coalesceTimeout t fn ring => Sys2Proof.Machine.execCoalesceTimeout t fn ring s
  | .msixUnmask t fn vec => Sys2Proof.Machine.execMsixUnmask t fn vec s
  | .vfFlr t p => Sys2Proof.Machine.execVfFlr t p s
  | .pfFlr t link => Sys2Proof.Machine.execPfFlr t link s
  | .portReset t hub perst => Sys2Proof.Machine.execPortReset t hub perst s
  | .pcieLinkDown t link => Sys2Proof.Machine.execPcieLinkDown t link s
  | .pcieLinkReturn t link speed width flit => Sys2Proof.Machine.execPcieLinkReturn t link speed width flit s
  | .nop t id => Sys2Proof.Machine.execNop t id s
  | .launch t id => Sys2Proof.Machine.execLaunch t id s
  | .copy t id src => Sys2Proof.Machine.execCopy t id src s
  | .fill t id => Sys2Proof.Machine.execFill t id s
  | .wait t id => Sys2Proof.Machine.execWait t id s
  | .signal t id => Sys2Proof.Machine.execSignal t id s
  | .preempt t id => Sys2Proof.Machine.execPreempt t id s
  | .resume t id => Sys2Proof.Machine.execResume t id s
  | .kvMap t id => Sys2Proof.Machine.execKvMap t id s
  | .streamBind t id => Sys2Proof.Machine.execStreamBind t id s
  | .calLoad t id => Sys2Proof.Machine.execCalLoad t id s
  | .digest t id => Sys2Proof.Machine.execDigest t id s
  | .query t id => Sys2Proof.Machine.execQuery t id s
  | .recordStart t id => Sys2Proof.Machine.execRecordStart t id s
  | .recordStop t id => Sys2Proof.Machine.execRecordStop t id s
  | .replay t id => Sys2Proof.Machine.execReplay t id s
  | .partCreate t id => Sys2Proof.Machine.execPartCreate t id s
  | .partDestroy t id => Sys2Proof.Machine.execPartDestroy t id s
  | .ctxCreate t id => Sys2Proof.Machine.execCtxCreate t id s
  | .ctxDestroy t id => Sys2Proof.Machine.execCtxDestroy t id s
  | .memMap t id => Sys2Proof.Machine.execMemMap t id s
  | .memUnmap t id => Sys2Proof.Machine.execMemUnmap t id s
  | .safetyCfg t id prog => Sys2Proof.Machine.execSafetyCfg t id prog s
  | .dramFreq t id => Sys2Proof.Machine.execDramFreq t id s
  | .freqGroupSwitch t hub grp => Sys2Proof.Machine.execFreqGroupSwitch t hub grp s
  | .linkRetrain t id => Sys2Proof.Machine.execLinkRetrain t id s
  | .dieReset t id => Sys2Proof.Machine.execDieReset t id s
  | .keyImport t id payload => Sys2Proof.Machine.execKeyImport t id payload s
  | .policyInstall t id => Sys2Proof.Machine.execPolicyInstall t id s
  | .attest t id => Sys2Proof.Machine.execAttest t id s
  | .mirrorCfgAdd t id same => Sys2Proof.Machine.execMirrorCfgAdd t id same s
  | .mirrorCfgRemove t id => Sys2Proof.Machine.execMirrorCfgRemove t id s
  | .rangeInSync t id => Sys2Proof.Machine.execRangeInSync t id s
  | .stopPointReached t g => Sys2Proof.Machine.execStopPointReached t g s
  | .drainDone t g => Sys2Proof.Machine.execDrainDone t g s
  | .heelInDone t p slot => Sys2Proof.Machine.execHeelInDone t p slot s
  | .replantDone t p slot => Sys2Proof.Machine.execReplantDone t p slot s
  | .quantumExpiry t p slot => Sys2Proof.Machine.execQuantumExpiry t p slot s
  | .budgetExpiry t p slot => Sys2Proof.Machine.execBudgetExpiry t p slot s
  | .semaphoreTimeout t p idx => Sys2Proof.Machine.execSemaphoreTimeout t p idx s
  | .holdBudgetExpiry t p slot => Sys2Proof.Machine.execHoldBudgetExpiry t p slot s
  | .mirrorApply t => Sys2Proof.Machine.execMirrorApply t s
  | .mirrorLost t => Sys2Proof.Machine.execMirrorLost t s
  | .illegalOpcode g => Sys2Proof.Machine.execIllegalOpcode g s
  | .br g => Sys2Proof.Machine.execBr g s
  | .brc g => Sys2Proof.Machine.execBrc g s
  | .loopI g => Sys2Proof.Machine.execLoopI g s
  | .endlI g => Sys2Proof.Machine.execEndlI g s
  | .callI g => Sys2Proof.Machine.execCallI g s
  | .retI g => Sys2Proof.Machine.execRetI g s
  | .haltI g => Sys2Proof.Machine.execHaltI g s
  | .yieldI g => Sys2Proof.Machine.execYieldI g s
  | .trapI g => Sys2Proof.Machine.execTrapI g s
  | .addI g => Sys2Proof.Machine.execAddI g s
  | .subI g => Sys2Proof.Machine.execSubI g s
  | .mulI g => Sys2Proof.Machine.execMulI g s
  | .andI g => Sys2Proof.Machine.execAndI g s
  | .orI g => Sys2Proof.Machine.execOrI g s
  | .xorI g => Sys2Proof.Machine.execXorI g s
  | .shlI g => Sys2Proof.Machine.execShlI g s
  | .shrI g => Sys2Proof.Machine.execShrI g s
  | .li g => Sys2Proof.Machine.execLi g s
  | .ld g => Sys2Proof.Machine.execLd g s
  | .st g => Sys2Proof.Machine.execSt g s
  | .cmpI g => Sys2Proof.Machine.execCmpI g s
  | .minI g => Sys2Proof.Machine.execMinI g s
  | .maxI g => Sys2Proof.Machine.execMaxI g s
  | .tdldI g => Sys2Proof.Machine.execTdldI g s
  | .tdstI g => Sys2Proof.Machine.execTdstI g s
  | .mmtI g => Sys2Proof.Machine.execMmtI g s
  | .mmaI g => Sys2Proof.Machine.execMmaI g s
  | .convI g => Sys2Proof.Machine.execConvI g s
  | .convtI g => Sys2Proof.Machine.execConvtI g s
  | .poolI g => Sys2Proof.Machine.execPoolI g s
  | .attnI g => Sys2Proof.Machine.execAttnI g s
  | .kvwI g => Sys2Proof.Machine.execKvwI g s
  | .cbldI g => Sys2Proof.Machine.execCbldI g s
  | .scaleI g => Sys2Proof.Machine.execScaleI g s
  | .vopI g => Sys2Proof.Machine.execVopI g s
  | .vredI g => Sys2Proof.Machine.execVredI g s
  | .vdwI g => Sys2Proof.Machine.execVdwI g s
  | .vsfnI g => Sys2Proof.Machine.execVsfnI g s
  | .vnormI g => Sys2Proof.Machine.execVnormI g s
  | .voptI g => Sys2Proof.Machine.execVoptI g s
  | .vcvtI g => Sys2Proof.Machine.execVcvtI g s
  | .vgatherI g => Sys2Proof.Machine.execVgatherI g s
  | .dmaI g => Sys2Proof.Machine.execDmaI g s
  | .haloI g => Sys2Proof.Machine.execHaloI g s
  | .dmawI g => Sys2Proof.Machine.execDmawI g s
  | .prefI g => Sys2Proof.Machine.execPrefI g s
  | .semaI g => Sys2Proof.Machine.execSemaI g s
  | .barI g => Sys2Proof.Machine.execBarI g s
  | .credI g => Sys2Proof.Machine.execCredI g s
  | .evtI g => Sys2Proof.Machine.execEvtI g s
  | .icacheFill t g line => Sys2Proof.Machine.execIcacheFill t g line s
  | .tileIssue t g engine => Sys2Proof.Machine.execTileIssue t g engine s
  | .leafDeliver t g tile => Sys2Proof.Machine.execLeafDeliver t g tile s
  | .gleanRequest t g => Sys2Proof.Machine.execGleanRequest t g s
  | .gleanGrant t g => Sys2Proof.Machine.execGleanGrant t g s
  | .gleanBackoffExpiry t g => Sys2Proof.Machine.execGleanBackoffExpiry t g s
  | .dmaEntryStart t g q => Sys2Proof.Machine.execDmaEntryStart t g q s
  | .dmaEntryDone t g q => Sys2Proof.Machine.execDmaEntryDone t g q s
  | .meshPacketLost t die c vc p slot => Sys2Proof.Machine.execMeshPacketLost t die c vc p slot s
  | .coreMove t g => Sys2Proof.Machine.execCoreMove t g s
  | .sdlEntryCommit t h e => Sys2Proof.Machine.execSdlEntryCommit t h e s
  | .sdlBand t h e => Sys2Proof.Machine.execSdlBand t h e s
  | .sdlJobStart t h e => Sys2Proof.Machine.execSdlJobStart t h e s
  | .sliceEnd t eng h => Sys2Proof.Machine.execSliceEnd t eng h s
  | .csiLongPacket t h port vc dt hdr crcOk data ecc read => Sys2Proof.Machine.execCsiLongPacket t h port vc dt hdr crcOk data ecc read s
  | .frameStart t h port vc fn => Sys2Proof.Machine.execFrameStart t h port vc fn s
  | .frameEnd t h port vc => Sys2Proof.Machine.execFrameEnd t h port vc s
  | .ethFrame t h mac dst etype vlan len fcsOk isAs data ecc read => Sys2Proof.Machine.execEthFrame t h mac dst etype vlan len fcsOk isAs data ecc read s
  | .frameGapExpiry t h n => Sys2Proof.Machine.execFrameGapExpiry t h n s
  | .missingDeadline t h n => Sys2Proof.Machine.execMissingDeadline t h n s
  | .frameRelease t h n seq => Sys2Proof.Machine.execFrameRelease t h n seq s
  | .syncReceived t h gm adj => Sys2Proof.Machine.execSyncReceived t h gm adj s
  | .syncTimeout t h => Sys2Proof.Machine.execSyncTimeout t h s
  | .timeFollow t adj => Sys2Proof.Machine.execTimeFollow t adj s
  | .timeStep t h => Sys2Proof.Machine.execTimeStep t h s
  | .fusionEnable t h => Sys2Proof.Machine.execFusionEnable t h s
  | .fusionDisable t h => Sys2Proof.Machine.execFusionDisable t h s
  | .fusionSourceCommit t h e => Sys2Proof.Machine.execFusionSourceCommit t h e s
  | .pointListRead t h e => Sys2Proof.Machine.execPointListRead t h e s
  | .fusionPointBatch t h e => Sys2Proof.Machine.execFusionPointBatch t h e s
  | .instantClose t h struck => Sys2Proof.Machine.execInstantClose t h struck s
  | .cryptoTurn t h reqs => Sys2Proof.Machine.execCryptoTurn t h reqs s
  | .dramRead t h ch err lecc => Sys2Proof.Machine.execDramRead t h ch err lecc s
  | .dramWrite t h ch err lecc => Sys2Proof.Machine.execDramWrite t h ch err lecc s
  | .refresh t h ch => Sys2Proof.Machine.execRefresh t h ch s
  | .ratWindowEnd t h ch => Sys2Proof.Machine.execRatWindowEnd t h ch s
  | .patrolScrub t h err => Sys2Proof.Machine.execPatrolScrub t h err s
  | .wck2dqTrack t h ch beyond => Sys2Proof.Machine.execWck2dqTrack t h ch beyond s
  | .trainingGo t h types dens mrs res => Sys2Proof.Machine.execTrainingGo t h types dens mrs res s
  | .trnWaitExpiry t h types dens mrs res => Sys2Proof.Machine.execTrnWaitExpiry t h types dens mrs res s
  | .capture t h => Sys2Proof.Machine.execCapture t h s
  | .holdMem t h => Sys2Proof.Machine.execHoldMem t h s
  | .holdRelease t h => Sys2Proof.Machine.execHoldRelease t h s
  | .diagLoad t h idx val => Sys2Proof.Machine.execDiagLoad t h idx val s
  | .sidebandMessage t k toB ok => Sys2Proof.Machine.execSidebandMessage t k toB ok s
  | .sidebandRetry t k => Sys2Proof.Machine.execSidebandRetry t k s
  | .linkTrain t k fails peerE peerM keyOk => Sys2Proof.Machine.execLinkTrain t k fails peerE peerM keyOk s
  | .trainTimeout t k => Sys2Proof.Machine.execTrainTimeout t k s
  | .flitReceive t k toB f => Sys2Proof.Machine.execFlitReceive t k toB f s
  | .nakReceived t k => Sys2Proof.Machine.execNakReceived t k s
  | .linkHeartbeat t k fromB => Sys2Proof.Machine.execLinkHeartbeat t k fromB s
  | .linkSilence t k atB => Sys2Proof.Machine.execLinkSilence t k atB s
  | .e2eAck t src dst seqs => Sys2Proof.Machine.execE2eAck t src dst seqs s
  | .dieHeartbeat t d pll => Sys2Proof.Machine.execDieHeartbeat t d pll s
  | .dieHeartbeatMiss t d => Sys2Proof.Machine.execDieHeartbeatMiss t d s
  | .pllUnlock t d => Sys2Proof.Machine.execPllUnlock t d s
  | .fenceReceive t d lost => Sys2Proof.Machine.execFenceReceive t d lost s
  | .fencedHeartbeat t d => Sys2Proof.Machine.execFencedHeartbeat t d s
  | .dieResetRelease t d => Sys2Proof.Machine.execDieResetRelease t d s
  | .dieRejoinDone t d => Sys2Proof.Machine.execDieRejoinDone t d s
  | .hubDieReset t hub => Sys2Proof.Machine.execHubDieReset t hub s
  | .hubReturn t hub => Sys2Proof.Machine.execHubReturn t hub s
  | .partnerEnable t acc hub en => Sys2Proof.Machine.execPartnerEnable t acc hub en s
  | .partnerLost t hub => Sys2Proof.Machine.execPartnerLost t hub s
  | .partnerMirrorApply t hub pkt tagOk => Sys2Proof.Machine.execPartnerMirrorApply t hub pkt tagOk s
  | .resultRecord t isl => Sys2Proof.Machine.execResultRecord t isl s
  | .unmatchedExpiry t isl n => Sys2Proof.Machine.execUnmatchedExpiry t isl n s
  | .resultDeadline t isl n => Sys2Proof.Machine.execResultDeadline t isl n s
  | .staleNotice t isl => Sys2Proof.Machine.execStaleNotice t isl s
  | .lockstepError t isl => Sys2Proof.Machine.execLockstepError t isl s
  | .inputDisagreement t isl => Sys2Proof.Machine.execInputDisagreement t isl s
  | .clockCheck t isl ppm ppmOther => Sys2Proof.Machine.execClockCheck t isl ppm ppmOther s
  | .islandHeartbeat t isl ok => Sys2Proof.Machine.execIslandHeartbeat t isl ok s
  | .islLinkLoss t isl => Sys2Proof.Machine.execIslLinkLoss t isl s
  | .islandLinkMessage t isl ok => Sys2Proof.Machine.execIslandLinkMessage t isl ok s
  | .islandResetRelease t isl cmpOk => Sys2Proof.Machine.execIslandResetRelease t isl cmpOk s
  | .islandRun t isl => Sys2Proof.Machine.execIslandRun t isl s
  | .islandRestart t isl acc cmpOk => Sys2Proof.Machine.execIslandRestart t isl acc cmpOk s
  | .islandDebugHalt t isl => Sys2Proof.Machine.execIslandDebugHalt t isl s
  | .canStatusFrame t isl => Sys2Proof.Machine.execCanStatusFrame t isl s
  | .canBusoff t isl => Sys2Proof.Machine.execCanBusoff t isl s
  | .canReceive t isl => Sys2Proof.Machine.execCanReceive t isl s
  | .swatchDone t isl n ch => Sys2Proof.Machine.execSwatchDone t isl n ch s
  | .rollingTestStart t d => Sys2Proof.Machine.execRollingTestStart t d s
  | .scanTestDone t g ok => Sys2Proof.Machine.execScanTestDone t g ok s
  | .coverageCheck t isl => Sys2Proof.Machine.execCoverageCheck t isl s
  | .injFire t acc => Sys2Proof.Machine.execInjFire t acc s
  | .injectionEffect t => Sys2Proof.Machine.execInjectionEffect t s
  | .injectionTimeout t => Sys2Proof.Machine.execInjectionTimeout t s
  | .bootRom t flash => Sys2Proof.Machine.execBootRom t flash s
  | .scionCopy t h body => Sys2Proof.Machine.execScionCopy t h body s
  | .recoveryChunk t acc chunk last commits => Sys2Proof.Machine.execRecoveryChunk t acc chunk last commits s
  | .scionHeartbeat t h => Sys2Proof.Machine.execScionHeartbeat t h s
  | .scionWatchdog t h flash => Sys2Proof.Machine.execScionWatchdog t h flash s
  | .spdmRequest t req => Sys2Proof.Machine.execSpdmRequest t req s
  | .debugToken t level devid nonce key sig => Sys2Proof.Machine.execDebugToken t level devid nonce key sig s
  | .tapAccess t op => Sys2Proof.Machine.execTapAccess t op s
  | .evrCursorLoad t acc val dbl => Sys2Proof.Machine.execEvrCursorLoad t acc val dbl s
  | .clearCirculating t acc => Sys2Proof.Machine.execClearCirculating t acc s
  | .clearKept t acc => Sys2Proof.Machine.execClearKept t acc s
  | .coreCntClr t acc off => Sys2Proof.Machine.execCoreCntClr t acc off s
  | .modeRequest t acc req => Sys2Proof.Machine.execModeRequest t acc req s
  | .modeChangeDone t saved => Sys2Proof.Machine.execModeChangeDone t saved s
  | .standbyExit t hub => Sys2Proof.Machine.execStandbyExit t hub s
  | .quadrantGate t d q => Sys2Proof.Machine.execQuadrantGate t d q s
  | .quadrantUngate t d q => Sys2Proof.Machine.execQuadrantUngate t d q s
  | .capTick t w rest => Sys2Proof.Machine.execCapTick t w rest s
  | .voltageReached t d => Sys2Proof.Machine.execVoltageReached t d s
  | .currentCheck t d amps => Sys2Proof.Machine.execCurrentCheck t d amps s
  | .thermalSample t sensor temp bad_ => Sys2Proof.Machine.execThermalSample t sensor temp bad_ s
  | .coolantCheck t h inlet outlet inBad outBad pulses => Sys2Proof.Machine.execCoolantCheck t h inlet outlet inBad outBad pulses s
  | .railFault t rail mv => Sys2Proof.Machine.execRailFault t rail mv s
  | .hubReset t acc hub => Sys2Proof.Machine.execHubReset t acc hub s
  | .porst t => Sys2Proof.Machine.execPorst t s
  | .ageingMeasure t x slows => Sys2Proof.Machine.execAgeingMeasure t x slows s
  | .lifetimeSave t ok => Sys2Proof.Machine.execLifetimeSave t ok s
  | .instructionNop g => Sys2Proof.Machine.execInstructionNop g s
  | .unsupportedRequest t link posted => Sys2Proof.Machine.execUnsupportedRequest t link posted s
  | .vfEnableWrite t link en num => Sys2Proof.Machine.execVfEnableWrite t link en num s
  | .managementClusterAccess t hub core addr isWrite len data => Sys2Proof.Machine.execManagementClusterAccess t hub core addr isWrite len data s
  | .islandPeriodicTest t isl ecc => Sys2Proof.Machine.execIslandPeriodicTest t isl ecc s
  | .quietWindowOpen t isl n => Sys2Proof.Machine.execQuietWindowOpen t isl n s
  | .islandPllUnlock t isl => Sys2Proof.Machine.execIslandPllUnlock t isl s
  | .islandDebugResume t isl step => Sys2Proof.Machine.execIslandDebugResume t isl step s
  | .islandResetAssert t isl => Sys2Proof.Machine.execIslandResetAssert t isl s
  | .canBusoffRecovery t isl => Sys2Proof.Machine.execCanBusoffRecovery t isl s
  | .vddAonLoss t => Sys2Proof.Machine.execVddAonLoss t s

end Sys2Proof.Machine
end

