-- ==== Sys2Proof/Safety.lean ====
section
/-!
DEFINITION. Safety.lean: what counts as a safe state of the part, in the terms the statements use: its memories in their
one canonical form, the granule maps in theirs, and no DRAM granule mapped by two partitions (R31, R88).
-/
namespace Sys2Proof.Machine

/-- DRAM and host memory are in canonical form: addresses strictly rising, no byte that says what an unlisted one says. -/
def memOk (s : State) : Bool := tabWf dByte s.dram && tabWf dByte s.hostMem

/-- What an unlisted granule of a partition is mapped to: nothing. -/
def dGran (_ : Nat) : Option Granule := none

/-- The table of partitions and every granule map are in canonical form. -/
def mapsOk (s : State) : Prop := tabWf dPart s.prt.parts = true ∧ ∀ p, tabWf dGran (getPart s p).gmap = true

/-- No device granule is mapped by two partitions (R88). -/
def isolated (s : State) : Prop :=
  ∀ p q i j g h, granAt s p i = some g → granAt s q j = some h → g.dev = h.dev → p = q

/-- Core `g` holds the word `w` of opcode `op` at its pc and issues it: its sequencer may issue, no walk holds it, and the
predicate is well formed and holds (R151, R160). -/
abbrev Issues (s : State) (g op : Nat) (w : InstrWord) : Prop :=
  (getCore s g).word = some w ∧ mayIssue s g = true ∧ opOf w = op ∧ walkHolds (getCore s g) op = false ∧
    predHolds (getCore s g) w = true ∧ (wf w 117 5 = 0 && bit w.toNat 116) = false

/-- What an instruction comes to on core `g`: its result or error, with the machine and the conditions counted. -/
abbrev ran (s : State) (g : Nat) (m : Xm Unit) : Except XErr Unit × Vst :=
  m.run { s, t := { ctl := (getCore s g).numctl } }

/-- An instruction's checks and accesses all succeed on core `g` and no condition it counts is trapped: `u` is the state
with its results, the conditions counted (R160, R161, R212). -/
abbrev Completes (s : State) (g : Nat) (m : Xm Unit) (u : State) : Prop :=
  (ran s g m).1.isOk = true ∧ (applyTally g (ran s g m).2.t (ran s g m).2.s).1 = false ∧
    u = (applyTally g (ran s g m).2.t (ran s g m).2.s).2

/-- Descriptor `id` is `d`, of opcode `op`, and starts: its turn has come and nothing at the front of its slot's
descriptors refuses it (R55 to R58, R521). -/
abbrev Starts (s : State) (id op : Nat) (d : Desc) : Prop :=
  findDesc s id = some d ∧ d.opcode = op ∧ mayStart s d = true ∧ importHolds s d = false ∧ frontCheck s d = none

/-- Scion serves the management PF: it neither restarts nor is halted (R438, R439). -/
abbrev ScionServes (s : State) : Prop := (getScion s (fnHub s 0)).st = 0

/-- A safe state. -/
structure Safe (s : State) : Prop where
  mem : memOk s = true
  maps : mapsOk s
  isolated : isolated s

end Sys2Proof.Machine
end

