-- ==== Sys2Proof/Certificates/Slice0/Obligations.lean ====
section
/-!
DEFINITION. Obligations.lean: the statements for the provers. Where a clause says that `exec` answers `.next` of a state
written out, that state is the frame as well: everything it does not name is as it was.
-/
open Sys2Proof Sys2Proof.Machine

namespace Sys2Proof.Machine


/-- Byte `x` of DRAM lies in a piece that `n` bytes of partition `p` from address `a` are stored in. -/
def storedIn (s : State) (p a n x : Nat) : Prop :=
  ∃ y ∈ pieces a n, devOf s p y.1 ≤ x ∧ x < devOf s p y.1 + y.2

/-- Partition `p` maps no device granule twice. -/
def mapsOnce (s : State) (p : Nat) : Prop :=
  ∀ i j g h, granAt s p i = some g → granAt s p j = some h → g.dev = h.dev → i = j

/-- The floating-point formats of Table 6.1 that have a rounding grid. -/
def floatFormats : List Fpf := [e4m3, e5m2, bf16, fp16, fp32]

/-- The instructions of core `g` that work on its scalar registers, its pc and its stacks alone. -/
def scalarOps (g : Nat) : List Instr :=
  [.addI g, .subI g, .mulI g, .andI g, .orI g, .xorI g, .shlI g, .shrI g, .minI g, .maxI g, .li g, .cmpI g,
   .instructionNop g, .br g, .brc g, .loopI g, .endlI g, .callI g, .retI g]

end Sys2Proof.Machine

/-- A write that is aligned, allowed and reaches its block changes the register by R6 to R10; a write that sets EXPERT_EN
leaves the register's other bits; a read of a register that latches no high half answers with the register's value and
changes nothing, but for the event window of the other reader; a read from a VF that is not present is an Unsupported
Request and a write from it changes nothing; a write of 1 to CORE_CNT_CTRL.clr clears the core's counters; the commit
boundary of PRT puts PRT_POLICY into effect; a misaligned write is noted in GLB_ERR and has no other effect; a write
to a powered-off block is noted and discarded, and a read of it answers 0xDEAD_00nn. (spec/00_scope.md R5,
spec/00_scope.md R6, spec/00_scope.md R8, spec/00_scope.md R11, spec/01_package.md R34, spec/01_package.md R35,
spec/01_package.md R39, spec/04_core.md R146) -/
def Obligations.RegisterAccessesAnswer : Prop :=
  (∀ (t o : Nat) (acc : Agent) (off : Nat) (val : Word) (b : Blk) (s : State),
      (off % 4 = 0 ∧ agentAbsent (advance t s) acc = false ∧ absOff acc off = some o ∧ blkOf o = some b) → (reach (advance t s) (answerHub (advance t s) acc) b = .reached ∧ writeReaches (advance t s) acc o = true) → 
      exec (.registerWrite t acc off val) s = .next (writeAt (answerHub (advance t s) acc) o b val.toNat (advance t s))) ∧
  (∀ (t l : Nat) (fn off : Nat) (s : State),
      (off % 4 = 0 ∧ fnPresent (advance t s) fn = false ∧ accLink (advance t s) (.vf fn) = some l) → 
      exec (.latchingLoRead t (.vf fn) off) s = .next (send (.unsupported l) (advance t s)) ∧ ∀ val, exec (.registerWrite t (.vf fn) off val) s = .next (advance t s)) ∧
  (∀ (t : Nat) (r o : Nat) (acc : Agent) (off : Nat) (b : Blk) (s : State),
      (absOff acc off = some o ∧ blkOf o = some b ∧ expertReg b = some r ∧ b.base + r = o) → 
      exec (.expertEnable t acc off) s = exec (.registerWrite t acc off (regGet s o ||| 1)) s) ∧
  (∀ (t o : Nat) (acc : Agent) (off : Nat) (b : Blk) (s : State),
      (off % 4 = 0 ∧ agentAbsent (advance t s) acc = false ∧ absOff acc off = some o ∧ blkOf o = some b) → (reach (advance t s) (answerHub (advance t s) acc) b = .reached ∧ wideAt (advance t s) b (o - b.base) = none ∧ otherWindow acc o = false) → 
      exec (.latchingLoRead t acc off) s = .next (answerRead acc off (regRead (advance t s) (answerHub (advance t s) acc) o) (advance t s))) ∧
  (∀ (t o w : Nat) (acc : Agent) (off : Nat) (b : Blk) (s : State),
      (off % 4 = 0 ∧ agentAbsent (advance t s) acc = false ∧ absOff acc off = some o ∧ blkOf o = some b ∧ otherWindow acc o = false) → (reach (advance t s) (answerHub (advance t s) acc) b = .reached ∧ wideAt (advance t s) b (o - b.base) = some w ∧ coreAbsent (advance t s) b = false) → 
      exec (.latchingLoRead t acc off) s = .next (answerRead acc off (regRead (advance t s) (answerHub (advance t s) acc) o) { (advance t s) with latch := tabSet dWord (advance t s).latch (o + 4) (BitVec.ofNat 32 (w / 2 ^ 32)) })) ∧
  (∀ (t o g : Nat) (acc : Agent) (off : Nat) (s : State),
      (absOff acc off = some o ∧ blkOf o = some (.core g) ∧ o = (Blk.core g).base + 0x20) → (writeReaches (advance t s) acc o = true) → 
      exec (.coreCntClr t acc off) s = .next (modCore g (fun c => { c with cnt := [] }) (advance t s))) ∧
  (∀ (t : Nat) (s : State),
      exec (.shadowCommit t Blk.prt.base) s = .next (commit (Blk.prt.base + 0xC) (advance t s))) ∧
  (∀ (t size l : Nat) (acc : Agent) (off : Nat) (w : Bool) (s : State),
      (¬(size = 4 ∧ off % 4 = 0)) → (accLink (noteAccess acc off 2 (advance t s)) acc = some l) → 
      exec (.misalignedAccess t acc off size w) s = .next (if w then noteAccess acc off 2 (advance t s) else send (.unsupported l) (noteAccess acc off 2 (advance t s)))) ∧
  (∀ (t : Nat) (acc : Agent) (off : Nat) (late : Bool) (s : State),
      (accReach (advance t s) acc off = .pdOff) → 
      exec (.unreachableAccess t acc off true late) s = .next (noteAccess acc off 0 (advance t s))) ∧
  (∀ (t : Nat) (acc : Agent) (off : Nat) (late : Bool) (b : Blk) (s : State),
      (accReach (advance t s) acc off = .pdOff ∧ accBlk acc off = some b) → 
      exec (.unreachableAccess t acc off false late) s = .next (answerRead acc off (BitVec.ofNat 32 (0xDEAD0000 + b.ident)) (noteAccess acc off 0 (advance t s))))

/-- A VF_FLR resets the virtual function and records event 0x0206; a PF_FLR of the management PF's link clears VF Enable
with R78 on every VF of the link, disables the admin rings, clears the PF's counters and records event 0x0206; a hot
reset takes every link of the port down after the same; a write of 1 to VF Enable sets it with NumVFs; a write of 0
while it is set applies R78 to every VF of the link. (spec/02_host_rings.md R44, spec/02_host_rings.md R78,
spec/02_host_rings.md R79) -/
def Obligations.FunctionsAndPortsReset : Prop :=
  (∀ (t p : Nat) (s : State),
      (1 ≤ p ∧ p ≤ 32) → 
      exec (.vfFlr t p) s = .next (settle (eventFor p (fnHub (advance t s) p) 0x0206 [.id1 p] (vfReset p (advance t s))))) ∧
  (∀ (t link : Nat) (s : State),
      (linkExists (advance t s) link = true ∧ (advance t s).fuse.mpfLink = link) → 
      exec (.pfFlr t link) s = .next (settle (event (linkHub link) 0x0206 [.id1 0] (clearCounts 0 (clearVfs link (ringsOff 0 (abandon 0 (advance t s)))))))) ∧
  (∀ (t hub : Nat) (s : State),
      exec (.portReset t hub false) s = .next (settle (portReset hub (advance t s)))) ∧
  (∀ (t hub : Nat) (s : State),
      exec (.portReset t hub true) s = .next (settle (setPerst hub true (portReset hub (advance t s))))) ∧
  (∀ (t link num : Nat) (s : State),
      (linkExists (advance t s) link = true) → 
      exec (.vfEnableWrite t link true num) s = .next (modPLink link (fun l => { l with vfEnable := true }) (modPLink link (fun l => { l with numVfs := num }) (advance t s)))) ∧
  (∀ (t link num : Nat) (s : State),
      (linkExists (advance t s) link = true) → ((getPLink (modPLink link (fun l => { l with numVfs := num }) (advance t s)) link).vfEnable = true) → 
      exec (.vfEnableWrite t link false num) s = .next (settle (clearVfs link (modPLink link (fun l => { l with numVfs := num }) (advance t s)))))

/-- A turn of a hub's ring engine serves the ring of the lowest class with work, round robin within it, and fetches up to
8 descriptors of it: the head moves past each one, and each is checked as it is fetched and waits to start or carries
its refusal. (spec/02_host_rings.md R51, spec/02_host_rings.md R54, spec/02_host_rings.md R61,
spec/19_load_behaviour.md R515, spec/02_host_rings.md R521) -/
def Obligations.RingEngineTakesTurns : Prop :=
  ∀ (t hub load fn ring : Nat) (descs : List DescWord) (u s : State),
      (hub < 2 ∧ u = batchMode hub load (advance t s)) → (nextRing u hub = some (fn, ring) ∧ injActive u 0x0201 (fnLink u fn) = false) → (min 8 (ringAvail u fn ring) ≤ descs.length) → 
      exec (.ringFetch t hub load descs) s = .next (settle ((descs.take (min 8 (ringAvail u fn ring))).foldl (fun s w => fetchOne fn ring w s) { u with hif := { u.hif with rr := tabSet dNat u.hif.rr (4 * hub + ringClass fn ring) (ringTurn (fn, ring)) } }))

/-- A descriptor that starts and passes its checks completes: NOP with OK and nothing else; COPY from host memory stores
the bytes at the destination and answers the count; COPY to host memory outside a sealed region writes what the
partition holds at the source; FILL stores its pattern over the whole range; DIGEST writes SHA3-256 of the range to
host memory; QUERY writes the first min(out_len, 64) bytes of its answer. (spec/02_host_rings.md R55,
spec/02_host_rings.md R63, spec/02_host_rings.md R82, spec/15_security.md R444, spec/02_host_rings.md R521,
spec/03_partitions.md R522, spec/02_host_rings.md R523) -/
def Obligations.DescriptorsMoveData : Prop :=
  (∀ (t id : Nat) (d : Desc) (s : State),
      (Starts (advance t s) id 0x00 d) → 
      exec (.nop t id) s = .next (settle (finishOk d.id (startDesc id (advance t s))))) ∧
  (∀ (t id : Nat) (src : List Byte) (d : Desc) (s : State),
      (Starts (advance t s) id 0x02 d ∧ copyCheck (advance t s) d = none ∧ bit (d.u 32 1) 0 = true ∧ bit (d.u 32 1) 1 = false) → (copyPolicy (startDesc id (advance t s)) d = none ∧ copyRights (startDesc id (advance t s)) d = none) → ((writePart d.part (d.u 16 8) (fit (d.u 24 8) src) (.hub 2) (startDesc id (advance t s))).1 = none) → 
      exec (.copy t id src) s = .next (settle (finish d.id 0 0 (min (d.u 24 8) 0xFFFFFFFF) 0 (writePart d.part (d.u 16 8) (fit (d.u 24 8) src) (.hub 2) (startDesc id (advance t s))).2))) ∧
  (∀ (t id : Nat) (src data : List Byte) (d : Desc) (v s : State),
      (Starts (advance t s) id 0x02 d ∧ copyCheck (advance t s) d = none ∧ bit (d.u 32 1) 0 = false ∧ bit (d.u 32 1) 1 = true) → (copyPolicy (startDesc id (advance t s)) d = none ∧ copyRights (startDesc id (advance t s)) d = none) → (v = (readPart d.part (d.u 8 8) (d.u 24 8) (.hub 2) (startDesc id (advance t s))).2 ∧ (readPart d.part (d.u 8 8) (d.u 24 8) (.hub 2) (startDesc id (advance t s))).1.toOption = some data) → (regionsOf v d.part [4] = [] ∧ (getPLink v (fnLink v d.fn)).up = true) → 
      exec (.copy t id src) s = .next (settle (finish d.id 0 0 (min (d.u 24 8) 0xFFFFFFFF) 0 (hostWrite (d.u 16 8) data v)))) ∧
  (∀ (t id : Nat) (d : Desc) (s : State),
      (Starts (advance t s) id 0x03 d ∧ fillCheck (advance t s) d = none) → (policyStop (startDesc id (advance t s)) d.part (d.u 8 8) (d.u 16 8) = none ∧ refusedAt (startDesc id (advance t s)) d.part (d.u 8 8) (d.u 16 8) true = none) → ((writePart d.part (d.u 8 8) (repeatBytes (toBytes 8 (d.u 24 8)) (d.u 16 8 / 8)) (.hub 2) (startDesc id (advance t s))).1 = none) → 
      exec (.fill t id) s = .next (settle (finish d.id 0 0 (min (d.u 16 8) 0xFFFFFFFF) 0 (writePart d.part (d.u 8 8) (repeatBytes (toBytes 8 (d.u 24 8)) (d.u 16 8 / 8)) (.hub 2) (startDesc id (advance t s))).2))) ∧
  (∀ (t id : Nat) (data : List Byte) (d : Desc) (v s : State),
      (Starts (advance t s) id 0x0B d ∧ digestCheck (advance t s) d = none ∧ (getPart (startDesc id (advance t s)) d.part).confidential = false) → (v = (readPart d.part (d.u 8 8) (d.u 16 8) (.hub 2) (startDesc id (advance t s))).2 ∧ (readPart d.part (d.u 8 8) (d.u 16 8) (.hub 2) (startDesc id (advance t s))).1.toOption = some data) → ((getPLink v (fnLink v d.fn)).up = true) → 
      exec (.digest t id) s = .next (settle (finish d.id 0 0 32 0 (hostWrite (d.u 24 8) (sha3 data) v)))) ∧
  (∀ (t id : Nat) (data : List Byte) (d : Desc) (v s : State),
      (Starts (advance t s) id 0x0C d ∧ queryCheck (advance t s) d = none) → (queryAnswer d (startDesc id (advance t s)) = (data, v) ∧ (getPLink v (fnLink v d.fn)).up = true) → 
      exec (.query t id) s = .next (settle (finish d.id 0 0 (min (d.u 24 4) 64) 0 (hostWrite (d.u 16 8) (data.take (min (d.u 24 4) 64)) v))))

/-- LAUNCH and REPLAY whose checks pass make an idle context READY with what they name; PREEMPT holds an idle context and
completes; RESUME of a held one gives it back the state it had, with a new ready time, and RESUME of a context that is
not held completes; RECORD start writes the record's header fields and starts the recording; RECORD stop ends it.
(spec/02_host_rings.md R64, spec/03_partitions.md R91, spec/16_reproducibility.md R459, spec/16_reproducibility.md
R461, spec/16_reproducibility.md R462, spec/16_reproducibility.md R463) -/
def Obligations.ContextsLaunchAndHold : Prop :=
  (∀ (t id k : Nat) (d : Desc) (s : State),
      (slotIdle s id = true ∧ Starts (advance t s) id 0x01 d ∧ d.ctx? = some k) → ((launchCheck (advance t s) d).or (confidentialRun (advance t s) d.part (d.u 8 8)) = none) → 
      exec (.launch t id) s = .next (settle (makeReady d.part k d.launch (startDesc id (advance t s))))) ∧
  (∀ (t id k : Nat) (d : Desc) (s : State),
      (slotIdle s id = true ∧ Starts (advance t s) id 0x0E d ∧ d.ctx? = some k) → (replayCheck (advance t s) d = none ∧ (getPart (advance t s) d.part).confidential = false) → 
      exec (.replay t id) s = .next (settle (makeReady d.part k { desc := some d.id, tag := d.tag, opcode := 0x0E, flags := d.flags, digestAddr := d.u 24 8, replay := some { addr := d.u 8 8, entries := leAt (peek (startDesc id (advance t s)) d.part (d.u 8 8) 512) 16 4 } } (startDesc id (advance t s))))) ∧
  (∀ (t id k : Nat) (d : Desc) (s : State),
      (Starts (advance t s) id 0x06 d ∧ d.ctx? = some k ∧ (getCtx (startDesc id (advance t s)) d.part k).st = .idle) → 
      exec (.preempt t id) s = .next (settle (finishOk d.id (wake d.part (hold d.part k (startDesc id (advance t s))))))) ∧
  (∀ (t id k : Nat) (d : Desc) (s : State),
      (Starts (advance t s) id 0x07 d ∧ d.ctx? = some k ∧ (getCtx (startDesc id (advance t s)) d.part k).st = .held) → 
      exec (.resume t id) s = .next (settle (finishOk d.id (wake d.part (changed (modCtx d.part k (fun c => { c with st := c.before, hold := false, readyTime := (startDesc id (advance t s)).clk }) (startDesc id (advance t s)))))))) ∧
  (∀ (t id k : Nat) (d : Desc) (s : State),
      (Starts (advance t s) id 0x07 d ∧ d.ctx? = some k ∧ (getCtx (startDesc id (advance t s)) d.part k).st ≠ .held) → 
      exec (.resume t id) s = .next (settle (finishOk d.id (startDesc id (advance t s))))) ∧
  (∀ (t id : Nat) (d : Desc) (s : State),
      (recordMode s id 0 = true ∧ Starts (advance t s) id 0x0D d ∧ recordCheck (advance t s) d = none) → 
      exec (.recordStart t id) s = .next (settle (recordStart d (startDesc id (advance t s))))) ∧
  (∀ (t id k : Nat) (d : Desc) (s : State),
      (recordMode s id 1 = true ∧ Starts (advance t s) id 0x0D d ∧ d.ctx? = some k ∧ (getCtx (advance t s) d.part k).recording ≠ none) → 
      exec (.recordStop t id) s = .next (settle (finishOk d.id (recStop d.part k 2 (startDesc id (advance t s))))))

/-- A WAIT whose condition holds completes at once with the semaphore's value, and otherwise joins the end of the wait
queue with its time; SIGNAL sets or adds and then serves the waiters; a waiter whose time is over leaves unserved; a
hold budget that ends revokes the mutex and tears its owner down; a quantum that ends heels the longest-running
context in; a budget that ends is a fault with cause 0x11. (spec/03_partitions.md R95, spec/03_partitions.md R96,
spec/03_partitions.md R106, spec/03_partitions.md R107, spec/03_partitions.md R108, spec/03_partitions.md R111) -/
def Obligations.SemaphoresAndLocks : Prop :=
  (∀ (t id : Nat) (d : Desc) (s : State),
      (Starts (advance t s) id 0x04 d ∧ waitCheck (advance t s) d = none) → 
      let u := startDesc id (advance t s); let v := semVal u d.part (d.u 8 2); exec (.wait t id) s = .next (settle (if d.want.holds v then finish d.id 0 0 0 v u else modPart d.part (fun x => { x with waits := x.waits ++ [{ sem := d.u 8 2, who := .desc d.id, want := d.want, until_ := if d.u 24 4 = 0 then none else some (u.clk + d.u 24 4 * 1000) }] }) u))) ∧
  (∀ (t id : Nat) (d : Desc) (s : State),
      (Starts (advance t s) id 0x05 d ∧ signalCheck (advance t s) d = none) → 
      exec (.signal t id) s = .next (settle (finishOk d.id (semOp d.part (d.u 8 2) (d.u 10 1 = 0) (d.u 16 8) (startDesc id (advance t s)))))) ∧
  (∀ (t p i e : Nat) (x : Waiting) (s : State),
      ((getPart (advance t s) p).waits[i]? = some x ∧ x.until_ = some e ∧ e ≤ (advance t s).clk ∧ x.sem < 960) → 
      let u := answer p x 1 (dropWaiting p x (advance t s)); exec (.semaphoreTimeout t p i) s = .next (settle (serveSem p x.sem (getPart u p).waits.length u))) ∧
  (∀ (t p k e m x : Nat) (s : State),
      ((getCtx (advance t s) p k).holdEnds = some (e, m, x) ∧ e ≤ (advance t s).clk ∧ (getMutex (advance t s) p m).owner = some k) → 
      exec (.holdBudgetExpiry t p k) s = .next (settle (teardown p k 0x0203 0 0 0 none (modPart p (fun y => { y with nRevoked := satAdd 32 y.nRevoked 1 }) (record 0 0x0302 [.id1 p, .val4 m, .id1 k, .id1 x] p k (advance t s)))))) ∧
  (∀ (t p k : Nat) (s : State),
      ((getCtx (advance t s) p k).st = .running ∧ 0 < quantumNs (advance t s) ∧ (getCtx (advance t s) p k).dispatchTime + quantumNs (advance t s) ≤ (advance t s).clk) → (equalWaits (advance t s) p k = true ∧ longestRunning (advance t s) p k = true) → 
      exec (.quantumExpiry t p k) s = .next (settle (heelNow p k .quantum (advance t s)))) ∧
  (∀ (t p k g : Nat) (l : Launch) (r : List Nat) (s : State),
      ((getCtx (advance t s) p k).launch = some l ∧ (getCtx (advance t s) p k).place = g :: r) → ((getCtx (advance t s) p k).resident = true ∧ l.budget ≠ 0 ∧ l.budget * 1000 < runNs (advance t s) (getCtx (advance t s) p k)) → 
      exec (.budgetExpiry t p k) s = .next (settle (coreFault g 0x11 0 0 (advance t s))))

/-- On a function that is present, a submission doorbell below the ring's size on an ACTIVE ring stores the new tail, a
completion doorbell releases slots, a well-formed completion or submission ring becomes ACTIVE when it is enabled, and
nothing else of the part changes. (spec/02_host_rings.md R48, spec/02_host_rings.md R49, spec/02_host_rings.md R53,
spec/02_host_rings.md R71) -/
def Obligations.HostRingsTakeBellsAndEnable : Prop :=
  (∀ (t fn ring val : Nat) (s : State),
      (fn ≤ 32 ∧ ring < 4 ∧ hasRing fn ring = true) → (fnPresent (advance t s) fn = true) → ((getRing (advance t s) fn ring).st = .active) → (val < ringSize (advance t s) fn ring) → 
      exec (.sqDoorbell t fn ring val) s = .next (modRing fn ring (fun x => { x with bell := val }) (advance t s))) ∧
  (∀ (t fn ring val : Nat) (s : State),
      (fn ≤ 32 ∧ 4 ≤ ring ∧ hasRing fn ring = true) → (fnPresent (advance t s) fn = true) → ((getRing (advance t s) fn ring).st = .active) → (val < ringSize (advance t s) fn ring) → ((getRing (advance t s) fn ring).held = []) → 
      exec (.cqDoorbell t fn ring val) s = .next (modRing fn ring (fun y => { y with bell := val, fill := y.fill - (val + ringSize (advance t s) fn ring - (getRing (advance t s) fn ring).bell) % ringSize (advance t s) fn ring }) (advance t s))) ∧
  (∀ (t fn ring : Nat) (s u : State),
      (fn ≤ 32 ∧ 4 ≤ ring ∧ hasRing fn ring = true) → (fnPresent (advance t s) fn = true) → ((getRing (advance t s) fn ring).st = .off) → (u = fldSet (winReg fn (0x108 + 0x20 * ring)) 16 1 1 (advance t s)) → (ringBase u fn ring % 4096 = 0 ∧ 6 ≤ fld (advance t s) (winReg fn (0x108 + 0x20 * ring)) 0 5 ∧ fld (advance t s) (winReg fn (0x108 + 0x20 * ring)) 0 5 ≤ 16) → 
      exec (.ringEnable t fn ring) s = .next (modRing fn ring (fun _ => { st := .active, verEff := (getRing u fn (ring - 4)).verEff }) u)) ∧
  (∀ (t fn ring : Nat) (s u : State),
      (fn ≤ 32 ∧ ring < 4 ∧ hasRing fn ring = true) → (fnPresent (advance t s) fn = true) → ((getRing (advance t s) fn ring).st = .off ∧ (getRing u fn (ring + 4)).st = .active) → (u = fldSet (winReg fn (0x108 + 0x20 * ring)) 16 1 1 (advance t s)) → (ringBase u fn ring % 4096 = 0 ∧ 6 ≤ fld (advance t s) (winReg fn (0x108 + 0x20 * ring)) 0 5 ∧ fld (advance t s) (winReg fn (0x108 + 0x20 * ring)) 0 5 ≤ 16) → (verOk (fld (advance t s) (winReg fn (0x108 + 0x20 * ring)) 8 4) = true) → 
      exec (.ringEnable t fn ring) s = .next (modRing fn ring (fun _ => { st := .active, verEff := fld (advance t s) (winReg fn (0x108 + 0x20 * ring)) 8 4 }) (modRing fn (ring + 4) (fun x => { x with verEff := fld (advance t s) (winReg fn (0x108 + 0x20 * ring)) 8 4 }) u)))

/-- Writing enable = 0 to an ACTIVE submission ring makes it DRAINING; a drained ring becomes OFF; a fetch error sets the
fetch_error bit, puts the ring in ERROR with err FETCH, records event 0x0204 and reports through AER; a count
threshold that waited long enough signals its vector; unmasking a vector that is not pending only unmasks it.
(spec/02_host_rings.md R525, spec/02_host_rings.md R81, spec/02_host_rings.md R74) -/
def Obligations.HostRingsDrainAndFail : Prop :=
  (∀ (t fn ring : Nat) (s : State),
      (fn ≤ 32 ∧ ring < 4 ∧ hasRing fn ring = true) → (fnPresent (advance t s) fn = true) → ((getRing (advance t s) fn ring).st = .active) → 
      exec (.ringDisable t fn ring) s = .next (modRing fn ring (fun x => { x with st := .draining }) (fldSet (winReg fn (0x108 + 0x20 * ring)) 16 1 0 (advance t s)))) ∧
  (∀ (t fn ring : Nat) (s : State),
      (ring < 4) → ((getRing (advance t s) fn ring).st = .draining ∧ ringDrained (advance t s) fn ring = true) → 
      exec (.ringDrainDone t fn ring) s = .next (modRing fn ring (fun x => { x with st := .off }) (advance t s))) ∧
  (∀ (t fn ring addr : Nat) (s : State),
      (ring < 4 ∧ (getRing (advance t s) fn ring).st = .active) → 
      ∃ u, u = ringError fn ring .fetch (fnErr fn 2 ring (advance t s)) ∧ exec (.ringFetchError t fn ring addr) s = .next (send (.aer (fnLink (eventFor fn (fnHub u fn) 0x0204 [.id1 fn, .id1 ring, .loc8 addr] u) fn)) (eventFor fn (fnHub u fn) 0x0204 [.id1 fn, .id1 ring, .loc8 addr] u))) ∧
  (∀ (t fn ring : Nat) (s : State),
      (4 ≤ ring ∧ ring < 8 ∧ 0 < (getRing (advance t s) fn ring).count) → ((getRing (advance t s) fn ring).oldest + (irqThr (advance t s) fn ring).2 * 4000 ≤ (advance t s).clk) → 
      exec (.coalesceTimeout t fn ring) s = .next (signalRing fn ring (advance t s))) ∧
  (∀ (t fn vec : Nat) (s : State),
      (fn ≤ 32 ∧ vec < vectors fn) → ((getFn (advance t s) fn).pendingBits.elem vec = false ∧ (getFn (advance t s) fn).unmasked.elem vec = false) → 
      exec (.msixUnmask t fn vec) s = .next (modFn fn (fun f => { f with unmasked := if f.unmasked.elem vec then f.unmasked else f.unmasked ++ [vec], pendingBits := f.pendingBits.filter (· ≠ vec) }) (advance t s)))

/-- A link that is lost is down with no width, every function on it has link_down set and event 0x0205 is recorded; a link
that returns is up and every ring of its functions is OFF; a non-posted request to no function is answered Unsupported
Request and a posted one has no effect. (spec/02_host_rings.md R41, spec/02_host_rings.md R80) -/
def Obligations.PcieLinksComeAndGo : Prop :=
  (∀ (t link : Nat) (s : State),
      (link < 4 ∧ (getPLink (advance t s) link).up = true) → 
      ∃ u, u = modPLink link (fun l => { l with up := false, speed := 0, width := 0, flit := false, l0p := false, ide := false }) (advance t s) ∧ exec (.pcieLinkDown t link) s = .next (event (linkHub link) 0x0205 [.id1 link] ((fnsOn u link).foldl (fun s fn => fnErr fn 5 0 s) u))) ∧
  (∀ (t link speed width : Nat) (flit : Bool) (s : State),
      (link < 4 ∧ linkExists (advance t s) link = true ∧ (getPLink (advance t s) link).up = false) → ((getHub (advance t s) (linkHub link)).inReset = false ∧ tabGet dBool (advance t s).pwr.perst (linkHub link) = false) → 
      ∃ u, u = modPLink link (fun l => { l with up := true, speed := speed % 8, width := width % 16, flit }) (advance t s) ∧ exec (.pcieLinkReturn t link speed width flit) s = .next ((fnsOn u link).foldl (fun s fn => ringsLost fn s) u)) ∧
  (∀ (t link : Nat) (posted : Bool) (s : State),
      exec (.unsupportedRequest t link posted) s = .next (if posted then (advance t s) else send (.unsupported link) (advance t s)))

/-- PART_CREATE, PART_DESTROY, CTX_CREATE, CTX_DESTROY and both forms of MEM_MAP that pass their checks have the effects
of R84 to R90 and R115 and complete OK; the standby copy of the tables applies one change at a time, and is reported
lost where a change is still to be applied. (spec/03_partitions.md R84, spec/03_partitions.md R85,
spec/03_partitions.md R86, spec/03_partitions.md R87, spec/03_partitions.md R88, spec/03_partitions.md R89,
spec/03_partitions.md R90, spec/03_partitions.md R115, spec/03_partitions.md R117) -/
def Obligations.PartitionsComeAndGo : Prop :=
  (∀ (t id : Nat) (d : Desc) (s : State),
      (ScionServes s ∧ Starts (advance t s) id 0x10 d ∧ partCreateCheck (advance t s) d = none) → 
      exec (.partCreate t id) s = .next (settle (partCreateBody d (startDesc id (advance t s))))) ∧
  (∀ (t id : Nat) (d : Desc) (s : State),
      (ScionServes s ∧ Starts (advance t s) id 0x11 d ∧ partDestroyCheck (advance t s) d = none) → 
      exec (.partDestroy t id) s = .next (settle (finishOk d.id (destroyPart (d.u 8 1) (startDesc id (advance t s)))))) ∧
  (∀ (t id : Nat) (d : Desc) (s : State),
      (Starts (advance t s) id 0x12 d ∧ ctxCreateCheck (advance t s) d = none) → 
      let u := freeSlot d.part d.slot (startDesc id (advance t s)); exec (.ctxCreate t id) s = .next (settle (finishOk d.id (modPart d.part (fun x => { x with nCreated := satAdd 64 x.nCreated 1 }) (modCtx d.part d.slot (fun c => { c with st := .idle, prio := d.u 9 1, cores := ctxCores u d, heelAddr := d.u 16 8 }) u))))) ∧
  (∀ (t id : Nat) (d : Desc) (s : State),
      (Starts (advance t s) id 0x13 d ∧ partNamed (advance t s) d = true ∧ (getCtx (startDesc id (advance t s)) d.part d.slot).st ≠ .faulted ∧ bit (d.u 9 1) 0 = true) → 
      exec (.ctxDestroy t id) s = .next (settle (finishOk d.id (destroyForced d.part d.slot (some d.id) (startDesc id (advance t s)))))) ∧
  (∀ (t id : Nat) (d : Desc) (s : State),
      (unmapBit s id = some false ∧ ScionServes s ∧ Starts (advance t s) id 0x14 d ∧ memMapCheck (advance t s) d = none) → 
      let a := d.u 16 8 / granuleBytes; let g := d.u 24 8 / granuleBytes; exec (.memMap t id) s = .next (settle (finishOk d.id (changed ((List.range (d.u 32 4)).foldl (fun s i => mapOne (d.u 8 1) (a + i) (g + i) (bit (d.u 9 1) 0) (bit (d.u 9 1) 1) s) (startDesc id (advance t s))))))) ∧
  (∀ (t id : Nat) (d : Desc) (s : State),
      (unmapBit s id = some true ∧ ScionServes s ∧ Starts (advance t s) id 0x14 d ∧ memUnmapCheck (advance t s) d = none) → 
      let p := d.u 8 1; let a := d.u 16 8; let n := d.u 32 4; exec (.memUnmap t id) s = .next (settle (finishOk d.id (changed (unmapGranules p (a / granuleBytes) n (unmapPolicy p a (granuleBytes * n) (unmapHeels p a (granuleBytes * n) (startDesc id (advance t s))))))))) ∧
  (∀ (t : Nat) (s : State),
      ((getHub (advance t s) 0).up = true ∧ (getHub (advance t s) 1).up = true ∧ hubsJoined (advance t s) = true ∧ (advance t s).inj.busy = none) → 
      let a := min (advance t s).prt.changes ((advance t s).prt.applied + 1); exec (.mirrorApply t) s = .next { (advance t s) with prt := { (advance t s).prt with applied := a, mirrorOk := a = (advance t s).prt.changes } }) ∧
  (∀ (t : Nat) (s : State),
      ((advance t s).prt.applied < (advance t s).prt.changes ∧ (advance t s).prt.mirrorOk = true) → 
      exec (.mirrorLost t) s = .next (event 0 0x0304 [.val4 (advance t s).prt.applied] (prtErr 1 0 { (advance t s) with prt := { (advance t s).prt with mirrorOk := false } })))

/-- A core that was asked to stop stops, its instructions that wait are withdrawn and what it lent goes back; once its
transfers are done it writes its core block and is saved; the header is written last and the cores are released; a
replant whose header agrees and whose blocks read without an error restores every core, applies the kept outcomes and
runs again; in a core move the stopped core's state passes to the spare. (spec/03_partitions.md R97,
spec/03_partitions.md R98, spec/03_partitions.md R100, spec/03_partitions.md R102, spec/03_partitions.md R103,
spec/03_partitions.md R105, spec/05_isa.md R182, spec/05_isa.md R184) -/
def Obligations.ContextsHeelAndReplant : Prop :=
  (∀ (t g : Nat) (s : State),
      ((getCore (advance t s) g).role ≠ .free ∧ (getCore (advance t s) g).stop = .requested) → 
      exec (.stopPointReached t g) s = .next (modCore g Core.stopNow (giveBack g (advance t s)))) ∧
  (∀ (t g : Nat) (c : Core) (s : State),
      (c = getCore (advance t s) g ∧ c.stop = .stopped ∧ drained (advance t s) g = true ∧ (getCtx (advance t s) c.part c.slot).cause ≠ .coreMove) → ((writeBlock c.part ((getCtx (advance t s) c.part c.slot).heelAddr + blockOff c.idx) c (advance t s)).1 = none) → 
      exec (.drainDone t g) s = .next (modCtx c.part c.slot (fun y => { y with heelBytes := y.heelBytes + c.blockBytes }) (modCore g (fun k => { k with stop := .saved }) (writeBlock c.part ((getCtx (advance t s) c.part c.slot).heelAddr + blockOff c.idx) c (advance t s)).2))) ∧
  (∀ (t g : Nat) (s : State),
      ((getCore (advance t s) g).stop = .stopped ∧ drained (advance t s) g = true) → ((getCtx (advance t s) (getCore (advance t s) g).part (getCore (advance t s) g).slot).cause = .coreMove) → 
      exec (.drainDone t g) s = .next (modCore g (fun k => { k with stop := .saved }) (advance t s))) ∧
  (∀ (t p k : Nat) (s : State),
      ((getCtx (advance t s) p k).st = .heeling ∧ (getCtx (advance t s) p k).cause ≠ .coreMove ∧ (getCtx (advance t s) p k).place.all (fun g => (getCore (advance t s) g).stop = .saved) = true) → ((writePart p (getCtx (advance t s) p k).heelAddr (heelHeader (advance t s) p k) (.hub 1) (advance t s)).1 = none) → 
      exec (.heelInDone t p k) s = .next (heelEnd p k (writePart p (getCtx (advance t s) p k).heelAddr (heelHeader (advance t s) p k) (.hub 1) (advance t s)).2)) ∧
  (∀ (t p k : Nat) (hd : List Byte) (v w s : State),
      ((getCtx (advance t s) p k).st = .replanting ∧ (advance t s).inj.busy = none) → (v = (readPart p (getCtx (advance t s) p k).heelAddr 4096 (.hub 1) (advance t s)).2 ∧ (readPart p (getCtx (advance t s) p k).heelAddr 4096 (.hub 1) (advance t s)).1.toOption = some hd) → (v.inj.busy = none ∧ headerOk v p k hd (leAt hd 16 8) = true) → (replantCores p k v = (none, w)) → 
      let u := applyKept p k (replantSpills p k w); exec (.replantDone t p k) s = .next (runAgain p k (modCtx p k (fun c => { c with saved := [], heelHeld := false, replants := satAdd 64 c.replants 1, replantNs := satAdd 64 c.replantNs (u.clk - c.began) }) u))) ∧
  (∀ (t g n : Nat) (s : State),
      ((getCtx (advance t s) (getCore (advance t s) g).part (getCore (advance t s) g).slot).moving = some (g, n) ∧ (getCtx (advance t s) (getCore (advance t s) g).part (getCore (advance t s) g).slot).st = .heeling) → ((getCtx (advance t s) (getCore (advance t s) g).part (getCore (advance t s) g).slot).cause = .coreMove ∧ (getCtx (advance t s) (getCore (advance t s) g).part (getCore (advance t s) g).slot).place.all (fun o => (getCore (advance t s) o).stop = .saved) = true) → 
      let p := (getCore (advance t s) g).part; exec (.coreMove t g) s = .next (coreMove g n p (getCore (advance t s) g).slot (if isSpare (advance t s) n then beginScan g p (advance t s) else (advance t s))))

/-- An instruction ADD, SUB, MUL, AND, OR, XOR, SHL, SHR, MIN or MAX that issues writes its result of s[ra] and b, where b
is imm or s[rb], into s[rd] and goes on; LI writes imm; CMP writes whether its condition holds; s[0] reads as 0 and
writes to it are discarded. (spec/05_isa.md R151, spec/05_isa.md R160, spec/05_isa.md R162) -/
def Obligations.ScalarArithmetic : Prop :=
  (∀ (c : Core) (v : DWord),
      c.getS 0 = 0 ∧ c.setS 0 v = c) ∧
  (∀ (g : Nat) (w : InstrWord) (s : State),
      (Issues s g 0x10 w ∧ okB w [] = true) → 
      let c := getCore s g; let a := c.getS (raOf w); let b := opB c w; exec (.addI g) s = .next (modCore g (fun c => { c.setS (rdOf w) (a + b) with pc := c.pc + 1 }) s)) ∧
  (∀ (g : Nat) (w : InstrWord) (s : State),
      (Issues s g 0x11 w ∧ okB w [] = true) → 
      let c := getCore s g; let a := c.getS (raOf w); let b := opB c w; exec (.subI g) s = .next (modCore g (fun c => { c.setS (rdOf w) (a - b) with pc := c.pc + 1 }) s)) ∧
  (∀ (g : Nat) (w : InstrWord) (s : State),
      (Issues s g 0x12 w ∧ okB w [] = true) → 
      let c := getCore s g; let a := c.getS (raOf w); let b := opB c w; exec (.mulI g) s = .next (modCore g (fun c => { c.setS (rdOf w) (a * b) with pc := c.pc + 1 }) s)) ∧
  (∀ (g : Nat) (w : InstrWord) (s : State),
      (Issues s g 0x13 w ∧ okB w [] = true) → 
      let c := getCore s g; let a := c.getS (raOf w); let b := opB c w; exec (.andI g) s = .next (modCore g (fun c => { c.setS (rdOf w) (a &&& b) with pc := c.pc + 1 }) s)) ∧
  (∀ (g : Nat) (w : InstrWord) (s : State),
      (Issues s g 0x14 w ∧ okB w [] = true) → 
      let c := getCore s g; let a := c.getS (raOf w); let b := opB c w; exec (.orI g) s = .next (modCore g (fun c => { c.setS (rdOf w) (a ||| b) with pc := c.pc + 1 }) s)) ∧
  (∀ (g : Nat) (w : InstrWord) (s : State),
      (Issues s g 0x15 w ∧ okB w [] = true) → 
      let c := getCore s g; let a := c.getS (raOf w); let b := opB c w; exec (.xorI g) s = .next (modCore g (fun c => { c.setS (rdOf w) (a ^^^ b) with pc := c.pc + 1 }) s)) ∧
  (∀ (g : Nat) (w : InstrWord) (s : State),
      (Issues s g 0x16 w ∧ okB w [] = true) → 
      let c := getCore s g; let a := c.getS (raOf w); let b := opB c w; exec (.shlI g) s = .next (modCore g (fun c => { c.setS (rdOf w) (a <<< (b.toNat % 64)) with pc := c.pc + 1 }) s)) ∧
  (∀ (g : Nat) (w : InstrWord) (s : State),
      (Issues s g 0x17 w ∧ okB w [(112, 1)] = true) → 
      let c := getCore s g; let a := c.getS (raOf w); let b := opB c w; exec (.shrI g) s = .next (modCore g (fun c => { c.setS (rdOf w) (if flag w 1 then a.sshiftRight (b.toNat % 64) else a >>> (b.toNat % 64)) with pc := c.pc + 1 }) s)) ∧
  (∀ (g : Nat) (w : InstrWord) (s : State),
      (Issues s g 0x1c w ∧ okB w [(112, 1)] = true) → 
      let c := getCore s g; let a := c.getS (raOf w); let b := opB c w; exec (.minI g) s = .next (modCore g (fun c => { c.setS (rdOf w) (if (if flag w 1 then a.slt b else a.ult b) then a else b) with pc := c.pc + 1 }) s)) ∧
  (∀ (g : Nat) (w : InstrWord) (s : State),
      (Issues s g 0x1d w ∧ okB w [(112, 1)] = true) → 
      let c := getCore s g; let a := c.getS (raOf w); let b := opB c w; exec (.maxI g) s = .next (modCore g (fun c => { c.setS (rdOf w) (if (if flag w 1 then a.slt b else a.ult b) then b else a) with pc := c.pc + 1 }) s)) ∧
  (∀ (g : Nat) (w : InstrWord) (s : State),
      (Issues s g 0x18 w ∧ onlyBits w [fRd, fImm] = true) → 
      exec (.li g) s = .next (modCore g (fun c => { c.setS (rdOf w) (BitVec.ofNat 64 (immOf w)) with pc := c.pc + 1 }) s)) ∧
  (∀ (g : Nat) (w : InstrWord) (r : Bool) (s : State),
      (Issues s g 0x1B w ∧ okB w [(113, 3)] = true) → (condHolds (wf w 113 3) ((getCore s g).getS (raOf w)) (opB (getCore s g) w) = some r) → 
      exec (.cmpI g) s = .next (modCore g (fun c => { c.setS (rdOf w) (BitVec.ofNat 64 (b2n r)) with pc := c.pc + 1 }) s))

/-- NOP goes on; BR and a BRC whose condition holds go to their target below count, a BRC whose condition does not hold
goes on; LOOP pushes an entry and ENDL returns to its start or drops it at the last pass; CALL pushes the next pc and
goes to its target and RET returns; HALT with its queues and tensor instructions empty stops the core; YIELD arrives,
and the last arrival releases the cores; TRAP is a fault with cause 0x0D and a reserved opcode one with cause 0x01.
(spec/05_isa.md R149, spec/05_isa.md R151, spec/05_isa.md R152, spec/05_isa.md R160, spec/05_isa.md R161,
spec/05_isa.md R162, spec/05_isa.md R163, spec/05_isa.md R164) -/
def Obligations.CoreControlFlow : Prop :=
  (∀ (g : Nat) (w : InstrWord) (s : State),
      (Issues s g 0x00 w ∧ onlyBits w [fImm] = true) → 
      exec (.instructionNop g) s = .next (nextPc g s)) ∧
  (∀ (g : Nat) (w : InstrWord) (s : State),
      (Issues s g 0x01 w ∧ onlyBits w [(0, 32)] = true ∧ wf w 0 32 < (getCore s g).count) → 
      exec (.br g) s = .next (modCore g (fun c => { c with pc := wf w 0 32 }) s)) ∧
  (∀ (g : Nat) (w : InstrWord) (s : State),
      (Issues s g 0x02 w ∧ onlyBits w [(0, 32), fRa, fRb, (111, 3)] = true ∧ wf w 0 32 < (getCore s g).count) → (condHolds (wf w 111 3) ((getCore s g).getS (raOf w)) ((getCore s g).getS (rbOf w)) = some true) → 
      exec (.brc g) s = .next (modCore g (fun c => { c with pc := wf w 0 32 }) s)) ∧
  (∀ (g : Nat) (w : InstrWord) (s : State),
      (Issues s g 0x02 w ∧ onlyBits w [(0, 32), fRa, fRb, (111, 3)] = true) → (condHolds (wf w 111 3) ((getCore s g).getS (raOf w)) ((getCore s g).getS (rbOf w)) = some false) → 
      exec (.brc g) s = .next (nextPc g s)) ∧
  (∀ (g n : Nat) (w : InstrWord) (s : State),
      (Issues s g 0x03 w ∧ (onlyBits w ([fImm, (111, 1)] ++ if flag w 0 then [fRa] else []) && wf w 116 6 = 0) = true) → (n = (if flag w 0 then ((getCore s g).getS (raOf w)).toNat else wf w 32 32) ∧ n ≠ 0 ∧ (getCore s g).pc < wf w 0 32 ∧ (getCore s g).loops.length < 16) → 
      exec (.loopI g) s = .next (modCore g (fun c => { c with loops := { start := c.pc + 1, stop := wf w 0 32, left := n } :: c.loops, pc := c.pc + 1 }) s)) ∧
  (∀ (g : Nat) (w : InstrWord) (s : State),
      (Issues s g 0x03 w ∧ (onlyBits w ([fImm, (111, 1)] ++ if flag w 0 then [fRa] else []) && wf w 116 6 = 0) = true) → ((if flag w 0 then ((getCore s g).getS (raOf w)).toNat else wf w 32 32) = 0 ∧ (getCore s g).pc < wf w 0 32) → 
      exec (.loopI g) s = .next (modCore g (fun c => { c with pc := wf w 0 32 + 1 }) s)) ∧
  (∀ (g : Nat) (w : InstrWord) (l : LoopEnt) (r : List LoopEnt) (s : State),
      (Issues s g 0x04 w ∧ (onlyBits w [fImm] && wf w 116 6 = 0) = true) → ((getCore s g).loops = l :: r ∧ l.stop = (getCore s g).pc) → 
      exec (.endlI g) s = .next (modCore g (fun c => if l.left = 1 then { c with loops := r, pc := c.pc + 1 } else { c with loops := { l with left := l.left - 1 } :: r, pc := l.start }) s)) ∧
  (∀ (g : Nat) (w : InstrWord) (s : State),
      (Issues s g 0x05 w ∧ onlyBits w [(0, 32)] = true ∧ wf w 0 32 < (getCore s g).count ∧ (getCore s g).calls.length < 32) → 
      exec (.callI g) s = .next (modCore g (fun c => { c with calls := (c.pc + 1) :: c.calls, pc := wf w 0 32 }) s)) ∧
  (∀ (g a : Nat) (r : List Nat) (w : InstrWord) (s : State),
      (Issues s g 0x06 w ∧ onlyBits w [fImm] = true ∧ (getCore s g).calls = a :: r) → 
      exec (.retI g) s = .next (modCore g (fun c => { c with calls := r, pc := a }) s)) ∧
  (∀ (g : Nat) (w : InstrWord) (s : State),
      (Issues s g 0x07 w ∧ onlyBits w [fImm] = true) → ((getCore s g).dma0 = [] ∧ (getCore s g).dma1 = [] ∧ (getCore s g).runs = []) → 
      let c := getCore s g; exec (.haltI g) s = .next (settle (haltCheck c.part c.slot (refreshBlocked c.part c.slot (modCore g (fun k => { k with waits := .halted }) s))))) ∧
  (∀ (g p k : Nat) (u : State) (w : InstrWord) (s : State),
      (Issues s g 0x08 w ∧ onlyBits w [fImm] = true ∧ p = (getCore s g).part ∧ k = (getCore s g).slot) → (u = refreshBlocked p k (modCore g (fun c => { c with waits := .yielded }) s)) → ((getCtx u p k).place.all (fun g => (getCore u g).waits = .yielded) = false) → 
      exec (.yieldI g) s = .next u) ∧
  (∀ (g p k : Nat) (u v : State) (w : InstrWord) (s : State),
      (Issues s g 0x08 w ∧ onlyBits w [fImm] = true ∧ p = (getCore s g).part ∧ k = (getCore s g).slot) → (u = refreshBlocked p k (modCore g (fun c => { c with waits := .yielded }) s)) → ((getCtx u p k).place.all (fun g => (getCore u g).waits = .yielded) = true) → (v = refreshBlocked p k (resume (getCtx u p k).place u)) → 
      exec (.yieldI g) s = .next (settle (if equalReady v p k then heelNow p k .quantum v else v))) ∧
  (∀ (g : Nat) (w : InstrWord) (s : State),
      (Issues s g 0x09 w ∧ onlyBits w [fImm] = true) → 
      exec (.trapI g) s = .next (settle (coreFault g 0x0D (wf w 0 16) 0 s))) ∧
  (∀ (g : Nat) (w : InstrWord) (s : State),
      ((getCore s g).word = some w ∧ mayIssue s g = true ∧ reservedOp (opOf w) = true) → 
      exec (.illegalOpcode g) s = .next (settle (coreFault g 0x01 0 0 s)))

/-- LD of a special register writes its value; LD of an aligned scratchpad address that no write is outstanding to writes
its little-endian value, extended as its flag says; ST stores the low bytes of s[rb] there; ST to NUMCTL writes it;
TDLD and TDST move the 64 bytes of a tensor register; the line at the pc is brought into the instruction cache.
(spec/04_core.md R142, spec/05_isa.md R149, spec/05_isa.md R154, spec/05_isa.md R155, spec/05_isa.md R156,
spec/05_isa.md R162) -/
def Obligations.CoreLoadsAndStores : Prop :=
  (∀ (g v : Nat) (w : InstrWord) (u s : State),
      (Issues s g 0x19 w ∧ okLdSt w fRd true = true ∧ flag w 3 = true ∧ special g (wf w 0 8) s = (v, u)) → 
      exec (.ld g) s = .next (retireS g (rdOf w) (BitVec.ofNat 64 v) u)) ∧
  (∀ (g a : Nat) (w : InstrWord) (s : State),
      (Issues s g 0x19 w ∧ okLdSt w fRd true = true ∧ flag w 3 = false ∧ flag w 4 = false) → ((scalarAddr (getCore s g) w false (accSize w)).toOption = some a ∧ hazard s g false a (accSize w) = false ∧ (getCore s g).ecc = [] ∧ s.inj.busy = none) → 
      let x := ofBytes (getBytes (getCore s g).sp a (accSize w)); exec (.ld g) s = .next (retireS g (rdOf w) (BitVec.ofNat 64 (if flag w 2 then wrap 64 (sext (8 * accSize w) x) else x)) s)) ∧
  (∀ (g a : Nat) (w : InstrWord) (s : State),
      (Issues s g 0x1A w ∧ okLdSt w fRb false = true ∧ flag w 3 = false) → ((scalarAddr (getCore s g) w (flag w 4) (accSize w)).toOption = some a ∧ hazard s g (flag w 4) a (accSize w) = false) → 
      let bs := toBytes (accSize w) ((getCore s g).getS (rbOf w)).toNat; exec (.st g) s = .next (nextPc g (modCore g (fun c => if flag w 4 then c.putAcc a bs else c.putSp a bs) s))) ∧
  (∀ (g : Nat) (w : InstrWord) (s : State),
      (Issues s g 0x1A w ∧ okLdSt w fRb false = true ∧ flag w 3 = true ∧ wf w 0 8 = 0x08 ∧ ((getCore s g).getS (rbOf w)).toNat < 16) → 
      exec (.st g) s = .next (nextPc g (modCore g (fun c => { c with numctl := ((getCore s g).getS (rbOf w)).toNat }) s))) ∧
  (∀ (g a : Nat) (w : InstrWord) (s : State),
      (Issues s g 0x1E w ∧ onlyBits w [(106, 4), fRa, fImm] = true) → ((tdAddr (getCore s g) w).toOption = some a ∧ hazard s g false a 64 = false ∧ (getCore s g).ecc = [] ∧ s.inj.busy = none) → 
      exec (.tdldI g) s = .next (nextPc g (modCore g (fun c => { c with t := tabSet (fun _ => 0) c.t (wf w 106 4) (BitVec.ofNat 512 (ofBytes (getBytes (getCore s g).sp a 64))) }) s))) ∧
  (∀ (g a : Nat) (w : InstrWord) (s : State),
      (Issues s g 0x1F w ∧ onlyBits w [(96, 4), fRa, fImm] = true) → ((tdAddr (getCore s g) w).toOption = some a ∧ hazard s g false a 64 = false) → 
      exec (.tdstI g) s = .next (nextPc g (modCore g (fun c => c.putSp a (toBytes 64 (c.getT (wf w 96 4)).toNat)) s))) ∧
  (∀ (t g l : Nat) (bs : List Byte) (c : Core) (x : Launch) (s : State),
      (c = getCore (advance t s) g ∧ mayIssue (advance t s) g = true ∧ l = c.pc / 16 ∧ c.pc < c.count ∧ c.word = none) → ((getCtx (advance t s) c.part c.slot).launch = some x ∧ (readPart c.part (x.prog + 64 + 256 * l) (lineBytes c l) (.ctx c.part c.slot) (advance t s)).1.toOption = some bs) → 
      exec (.icacheFill t g l) s = .next (icFill g l bs (readPart c.part (x.prog + 64 + 256 * l) (lineBytes c l) (.ctx c.part c.slot) (advance t s)).2))

/-- An instruction of the vector unit, VOPT or SCALE that issues, whose operands no write is outstanding to and whose
checks and accesses succeed with no trapped condition, leaves the state with its results and goes on; nothing but what
its body writes changes. (spec/05_isa.md R159, spec/05_isa.md R160, spec/05_isa.md R168, spec/05_isa.md R170,
spec/05_isa.md R171, spec/05_isa.md R172, spec/05_isa.md R173, spec/07_sliding_window.md R233,
spec/07_sliding_window.md R234, spec/06_numerics.md R190, spec/06_numerics.md R216, spec/09_training.md R271) -/
def Obligations.VectorInstructions : Prop :=
  (∀ (g : Nat) (w : InstrWord) (u s : State),
      (Issues s g 0x30 w ∧ (okVop) w = true) → (operandsFree s g (((vopTds) w).map fun i => Td.of ((getCore s g).getT i)) = true) → (Completes s g (vopBody g w) u) → 
      exec (.vopI g) s = .next (nextPc g u)) ∧
  (∀ (g : Nat) (w : InstrWord) (u s : State),
      (Issues s g 0x31 w ∧ (okVred) w = true) → (operandsFree s g (((fun w => [vTd w, vTa w]) w).map fun i => Td.of ((getCore s g).getT i)) = true) → (Completes s g (vredBody g w) u) → 
      exec (.vredI g) s = .next (nextPc g u)) ∧
  (∀ (g : Nat) (w : InstrWord) (u s : State),
      (Issues s g 0x32 w ∧ (fun w => onlyBits w (winFields ++ [fTb, (111, 4)] ++ if flag w 0 then [fTc] else [])) w = true) → (operandsFree s g (((fun w => [vTd w, vTa w, vTb w] ++ if flag w 0 then [vTc w] else []) w).map fun i => Td.of ((getCore s g).getT i)) = true) → (Completes s g (vdwBody g w) u) → 
      exec (.vdwI g) s = .next (nextPc g u)) ∧
  (∀ (g : Nat) (w : InstrWord) (u s : State),
      (Issues s g 0x33 w ∧ (okVred) w = true) → (operandsFree s g (((fun w => [vTd w, vTa w]) w).map fun i => Td.of ((getCore s g).getT i)) = true) → (Completes s g (vsfnBody g w) u) → 
      exec (.vsfnI g) s = .next (nextPc g u)) ∧
  (∀ (g : Nat) (w : InstrWord) (u s : State),
      (Issues s g 0x34 w ∧ (okVnorm) w = true) → (operandsFree s g (((fun w => [vTd w, vTa w, vTb w] ++ if vnormBeta w then [vTc w] else []) w).map fun i => Td.of ((getCore s g).getT i)) = true) → (Completes s g (vnormBody g w) u) → 
      exec (.vnormI g) s = .next (nextPc g u)) ∧
  (∀ (g : Nat) (w : InstrWord) (u s : State),
      (Issues s g 0x36 w ∧ (fun w => onlyBits w [fTd, fTa, fSub, (111, 2)]) w = true) → (operandsFree s g (((fun w => [vTd w, vTa w]) w).map fun i => Td.of ((getCore s g).getT i)) = true) → (Completes s g (vcvtBody g w) u) → 
      exec (.vcvtI g) s = .next (nextPc g u)) ∧
  (∀ (g : Nat) (w : InstrWord) (u s : State),
      (Issues s g 0x37 w ∧ (fun w => onlyBits w [fTd, fTa, fTb, fSub]) w = true) → (operandsFree s g (((fun w => [vTd w, vTa w, vTb w]) w).map fun i => Td.of ((getCore s g).getT i)) = true) → (Completes s g (vgatherBody g w) u) → 
      exec (.vgatherI g) s = .next (nextPc g u)) ∧
  (∀ (g : Nat) (w : InstrWord) (u s : State),
      (Issues s g 0x24 w ∧ (fun w => onlyBits w (winFields ++ [fTb, fTc, (111, 4)])) w = true) → (operandsFree s g (((fun w => [vTd w, vTa w]) w).map fun i => Td.of ((getCore s g).getT i)) = true) → (Completes s g (poolBody g w) u) → 
      exec (.poolI g) s = .next (nextPc g u)) ∧
  (∀ (g : Nat) (w : InstrWord) (u s : State),
      (Issues s g 0x35 w ∧ okVopt w = true) → (operandsFree s g ((match vSub w with | 0x00 => [vTd w, vTa w, vTb w] | 0x01 => [vTd w, vTa w, vTb w, vTc w] | 0x10 => [vTa w] | _ => []).map fun i => Td.of ((getCore s g).getT i)) = true) → (hazard s g false ((getCore s g).getS (vSa w)).toNat 192 = false ∧ Completes s g (voptBody g w) u) → 
      exec (.voptI g) s = .next (nextPc g u)) ∧
  (∀ (g : Nat) (w : InstrWord) (u s : State),
      (Issues s g 0x29 w ∧ onlyBits w ([fTd, fTa, (111, 1)] ++ if flag w 0 then [fSa] else []) = true) → (tdHazard s g (Td.of ((getCore s g).getT (vTa w))) = false ∧ recHazard s g (Td.of ((getCore s g).getT (vTd w))) (Td.of ((getCore s g).getT (vTa w))).blockCount = false) → ((flag w 0 && hazard s g false ((getCore s g).getS (vSa w)).toNat 64) = false ∧ Completes s g (scaleBody g w) u) → 
      exec (.scaleI g) s = .next (nextPc g u))

/-- A tensor instruction issues when the last one has generated its tiles and no write to its operands is outstanding, and
joins those that generate and combine; CBLD loads the codebook store; an engine with room takes the oldest queued tile
and computes its leaf; a delivered leaf waits in its slots and the combine unit works; a core in BAR asks its siblings
in turn, a sibling lends its oldest queued tile, or none, and after a round of nones 256 cycles pass. (spec/04_core.md
R128, spec/04_core.md R130, spec/04_core.md R132, spec/04_core.md R134, spec/04_core.md R135, spec/05_isa.md R159,
spec/05_isa.md R165, spec/05_isa.md R166, spec/05_isa.md R167, spec/07_sliding_window.md R230) -/
def Obligations.TensorInstructionsAndTiles : Prop :=
  (∀ (g : Nat) (w : InstrWord) (u s : State),
      (Issues s g 0x20 w ∧ onlyBits w [(107, 4), (103, 4), (99, 4), (111, 2)] = true ∧ expandedAll (getCore s g) = true) → (operandsFree s g ([wf w 107 4, wf w 103 4, wf w 99 4].map fun i => Td.of ((getCore s g).getT i)) = true) → (Completes s g (do mmCheck g w; startRun g w {}) u) → 
      exec (.mmtI g) s = .next (nextPc g u)) ∧
  (∀ (g : Nat) (w : InstrWord) (u s : State),
      (Issues s g 0x21 w ∧ onlyBits w [(107, 4), (103, 4), (99, 4), (111, 2)] = true ∧ expandedAll (getCore s g) = true) → (operandsFree s g ([wf w 107 4, wf w 103 4, wf w 99 4].map fun i => Td.of ((getCore s g).getT i)) = true) → (Completes s g (do mmCheck g w; startRun g w {}) u) → 
      exec (.mmaI g) s = .next (nextPc g u)) ∧
  (∀ (g : Nat) (w : InstrWord) (u s : State),
      (Issues s g 0x22 w ∧ expandedAll (getCore s g) = true) → (onlyBits w (winFields ++ [(99, 4), (111, 2)] ++ (if flag w 0 then [(95, 4)] else []) ++ if false then [] else [(113, 3)]) = true) → (operandsFree s g (([wf w 107 4, wf w 103 4, wf w 99 4] ++ if flag w 0 then [wf w 95 4] else []).map fun i => Td.of ((getCore s g).getT i)) = true) → (Completes s g (do let m ← convCheck g w false; startRun g w m) u) → 
      exec (.convI g) s = .next (nextPc g u)) ∧
  (∀ (g : Nat) (w : InstrWord) (u s : State),
      (Issues s g 0x23 w ∧ expandedAll (getCore s g) = true) → (onlyBits w (winFields ++ [(99, 4), (111, 2)] ++ (if flag w 0 then [(95, 4)] else []) ++ if true then [] else [(113, 3)]) = true) → (operandsFree s g (([wf w 107 4, wf w 103 4, wf w 99 4] ++ if flag w 0 then [wf w 95 4] else []).map fun i => Td.of ((getCore s g).getT i)) = true) → (Completes s g (do let m ← convCheck g w true; startRun g w m) u) → 
      exec (.convtI g) s = .next (nextPc g u)) ∧
  (∀ (g a : Nat) (w : InstrWord) (s : State),
      (Issues s g 0x28 w ∧ onlyBits w [(90, 5)] = true ∧ a = ((getCore s g).getS (wf w 90 5)).toNat) → ((getCore s g).tiles.all (fun t => t.st = .waiting) = true ∧ expandedAll (getCore s g) = true ∧ hazard s g false a 2048 = false) → (a + 2048 ≤ 0x300000 ∧ a % 64 = 0 ∧ (getCore s g).ecc = [] ∧ s.inj.busy = none) → 
      exec (.cbldI g) s = .next (nextPc g (applyTally g { ctl := (getCore s g).numctl } (modCore g (fun k => { k with cblSrc := some a, code := tabPut dCode [] 0 ((unpack 16 (getBytes (getCore s g).sp a 2048)).map (BitVec.ofNat 16)) }) s)).2)) ∧
  (∀ (t g e i : Nat) (x : Tile) (r : Run) (l : List (Option Word)) (v : Vst) (s : State),
      ((getCore (advance t s) g).oldest = some (i, x) ∧ (getCore (advance t s) g).run? x.run = some r ∧ e < 8) → ((getCore (advance t s) g).role = .placed ∧ (getCore (advance t s) g).stop = .go ∧ ((getCore (advance t s) g).tiles.filter fun y => y.st = .inEngine e).length < 2 ∧ (getCore (advance t s) g).staged + r.plan.slots ≤ 32) → (((tileLeaf g r.plan (runSeams (advance t s) g r) r.pad x.block x.k).run { s := (advance t s), t := { ctl := (getCore (advance t s) g).numctl } }).1.toOption = some l ∧ v = ((tileLeaf g r.plan (runSeams (advance t s) g r) r.pad x.block x.k).run { s := (advance t s), t := { ctl := (getCore (advance t s) g).numctl } }).2) → 
      exec (.tileIssue t g e) s = .next (modCore g (fun c => { c with tiles := c.tiles.set i { x with st := .inEngine e, leaf := l, counts := v.t.counts, trap := v.t.trapped } }) v.s)) ∧
  (∀ (t g n i e : Nat) (x : Tile) (u s : State),
      (((List.range (getCore (advance t s) g).tiles.length).zip (getCore (advance t s) g).tiles).find? (fun y => y.2.tile = n && y.2.st ≠ .queued && y.2.st ≠ .waiting) = some (i, x)) → ((getCore (advance t s) g).role = .placed ∧ x.st = .inEngine e) → (Completes (countCore g 2 1 (advance t s)) g (do actX (modCore g fun c => { c with tiles := c.tiles.set i { x with st := .waiting } }); pump g) u) → 
      exec (.leafDeliver t g n) s = .next u) ∧
  (∀ (t g k : Nat) (s : State),
      (mayGlean (getCore (advance t s) g) = true ∧ nextSibling (siblings (advance t s) g) (getCore (advance t s) g).glean.last = some k) → 
      exec (.gleanRequest t g) s = .next (modCore g (fun c => { c with glean := { c.glean with asked := some k, last := some k } }) (advance t s))) ∧
  (∀ (t g k i o : Nat) (x : Tile) (r : Run) (s : State),
      ((getCore (advance t s) g).glean.asked = some k ∧ siblingCore (advance t s) g k = o) → ((getCore (advance t s) o).oldest = some (i, x) ∧ (getCore (advance t s) o).run? x.run = some r) → ((getCore (advance t s) g).glean.min ≤ ((getCore (advance t s) o).tiles.filter fun t => t.st = .queued).length ∧ (getCore (advance t s) o).staged + r.plan.slots ≤ 32 ∧ (getCore (advance t s) o).stop = .go) → 
      exec (.gleanGrant t g) s = .next (modCore g (fun c => { c with glean := { c.glean with asked := none, nones := 0, held := c.glean.held ++ [(k, x.run, x.tile)] } }) (countCore o 3 1 (modCore o (fun c => { c with tiles := c.tiles.set i { x with st := .lent (getCore (advance t s) g).idx } }) (advance t s))))) ∧
  (∀ (t g : Nat) (s : State),
      ((getCore (advance t s) g).glean.backoff = true) → 
      exec (.gleanBackoffExpiry t g) s = .next (modCore g (fun c => { c with glean := { c.glean with backoff := false } }) (advance t s)))

/-- DMA joins its queue and writes its number; DMAW goes on once its entries are done; a queue's oldest unstarted entry
reads its source, and a started one writes its destination and leaves; HALO wait and release act on a slot that holds
its tag; PREF with a bank mask clears the banks; SEMA set acts at once, try-lock takes a free mutex and unlock gives
it up; BAR arrives; CRED acquires and releases credits; EVT sends the VF's interrupt; a lost packet tears its context
down. (spec/04_core.md R141, spec/04_core.md R142, spec/04_core.md R148, spec/05_isa.md R174, spec/05_isa.md R175,
spec/05_isa.md R176, spec/05_isa.md R177, spec/05_isa.md R178, spec/05_isa.md R179, spec/05_isa.md R180,
spec/05_isa.md R181) -/
def Obligations.CoresMoveDataAndSynchronise : Prop :=
  (∀ (g : Nat) (w : InstrWord) (u s : State),
      (Issues s g 0x38 w ∧ onlyBits w [fRd, (102, 4), (98, 4), (111, 1)] = true) → ((((getCore s g).dma (b2n (flag w 0))).filter fun e => e.data.isNone).length < 16) → (tdHazard s g (Td.of ((getCore s g).getT (wf w 102 4))) = false ∧ tdHazard s g (Td.of ((getCore s g).getT (wf w 98 4))) = false) → (Completes s g (dmaChecks g (wf w 102 4) (wf w 98 4)) u) → 
      exec (.dmaI g) s = .next (dmaPut g (b2n (flag w 0)) (rdOf w) ((getCore s g).getT (wf w 102 4)) ((getCore s g).getT (wf w 98 4)) u)) ∧
  (∀ (g : Nat) (w : InstrWord) (s : State),
      (Issues s g 0x3A w ∧ onlyBits w ([fImm, (111, 2)] ++ if flag w 1 then [] else [fRa]) = true) → (dmaDone ((getCore s g).dma (b2n (flag w 0))) (flag w 1) (((getCore s g).getS (raOf w)).toNat % 65536) = true) → 
      exec (.dmawI g) s = .next (nextPc g s)) ∧
  (∀ (t g q i : Nat) (e : DmaEnt) (rows : List (List Byte)) (v : Vst) (s : State),
      ((getCore (advance t s) g).role = .placed ∧ (getCore (advance t s) g).stop = .go ∧ (getCtx (advance t s) (getCore (advance t s) g).part (getCore (advance t s) g).slot).resident = true) → (((getCore (advance t s) g).dma q).findIdx? (fun e => e.data.isNone) = some i ∧ ((getCore (advance t s) g).dma q)[i]? = some e) → (v = ((dmaRead g (Td.of e.src)).run { s := (advance t s), t := { ctl := 0 } }).2 ∧ ((dmaRead g (Td.of e.src)).run { s := (advance t s), t := { ctl := 0 } }).1.toOption = some rows) → 
      exec (.dmaEntryStart t g q) s = .next (dmaSet g q i { e with data := some rows.flatten } v.s)) ∧
  (∀ (t g q : Nat) (e : DmaEnt) (r : List DmaEnt) (d : List Byte) (v : Vst) (s : State),
      ((getCore (advance t s) g).role = .placed ∧ (getCore (advance t s) g).stop ≠ .saved ∧ (getCore (advance t s) g).dma q = e :: r ∧ e.data = some d) → (v = ((dmaWrite g (Td.of e.dst) d).run { s := (advance t s), t := { ctl := 0 } }).2 ∧ ((dmaWrite g (Td.of e.dst) d).run { s := (advance t s), t := { ctl := 0 } }).1.isOk = true) → 
      exec (.dmaEntryDone t g q) s = .next (modCore g (fun c => c.setDma q r) v.s)) ∧
  (∀ (g h : Nat) (w : InstrWord) (u s : State),
      (Issues s g 0x39 w ∧ onlyBits w ([(100, 7), (84, 16), (68, 16), (111, 3)] ++ if wf w 111 2 = 0 ∨ wf w 111 2 = 3 then [(107, 4)] else []) = true ∧ wf w 111 2 = 0) → (haloPeer (getCore s g).idx 0 (b2n (flag w 2)) = some (wf w 100 7) ∧ wf w 100 7 < (getCtx s (getCore s g).part (getCore s g).slot).cores) → ((getCtx s (getCore s g).part (getCore s g).slot).place[wf w 100 7]? = some h ∧ seamField s h (seamBase (b2n (flag w 2)) (wf w 68 16 % 2)) 4 1 ≠ 1) → (tdHazard s g (Td.of ((getCore s g).getT (wf w 107 4))) = false ∧ Completes s g (haloSend g h (wf w 107 4) (b2n (flag w 2)) (wf w 84 16) (wf w 68 16)) u) → 
      exec (.haloI g) s = .next (nextPc g u)) ∧
  (∀ (g : Nat) (w : InstrWord) (s : State),
      (Issues s g 0x39 w ∧ onlyBits w ([(100, 7), (84, 16), (68, 16), (111, 3)] ++ if wf w 111 2 = 0 ∨ wf w 111 2 = 3 then [(107, 4)] else []) = true ∧ wf w 111 2 = 1) → (haloPeer (getCore s g).idx 1 (b2n (flag w 2)) = some (wf w 100 7) ∧ wf w 100 7 < (getCtx s (getCore s g).part (getCore s g).slot).cores) → (seamHolds s g (seamBase (b2n (flag w 2)) (wf w 68 16 % 2)) (wf w 84 16) (wf w 68 16) = true) → 
      exec (.haloI g) s = .next (nextPc g (modCore g (fun c => if b2n (flag w 2) = 0 then { c with seamU := some (wf w 68 16 % 2) } else { c with seamL := some (wf w 68 16 % 2) }) s))) ∧
  (∀ (g : Nat) (w : InstrWord) (s : State),
      (Issues s g 0x39 w ∧ onlyBits w ([(100, 7), (84, 16), (68, 16), (111, 3)] ++ if wf w 111 2 = 0 ∨ wf w 111 2 = 3 then [(107, 4)] else []) = true ∧ wf w 111 2 = 2) → (haloPeer (getCore s g).idx 2 (b2n (flag w 2)) = some (wf w 100 7) ∧ wf w 100 7 < (getCtx s (getCore s g).part (getCore s g).slot).cores) → (seamHolds s g (seamBase (b2n (flag w 2)) (wf w 68 16 % 2)) (wf w 84 16) (wf w 68 16) = true ∧ (getCore s g).runs = []) → 
      exec (.haloI g) s = .next (nextPc g (modCore g (fun c => c.putSp (seamBase (b2n (flag w 2)) (wf w 68 16 % 2) + 4) [0]) s))) ∧
  (∀ (g : Nat) (w : InstrWord) (s : State),
      (Issues s g 0x3B w ∧ onlyBits w (if flag w 0 then [(0, 48), (111, 1)] else [fRa, fImm]) = true ∧ flag w 0 = true) → ((bitList 48 (wf w 0 48)).any (fun b => hazard s g false (b * 0x10000) 0x10000) = false) → 
      exec (.prefI g) s = .next (nextPc g (modCore g (fun c => (bitList 48 (wf w 0 48)).foldl Core.killBank c) s))) ∧
  (∀ (g : Nat) (w : InstrWord) (s : State),
      (Issues s g 0x3B w ∧ onlyBits w (if flag w 0 then [(0, 48), (111, 1)] else [fRa, fImm]) = true ∧ flag w 0 = false) → (1 ≤ wf w 32 16 ∧ wf w 32 16 ≤ 4096) → 
      let first := ((getCore s g).getS (raOf w)).toNat + wf w 0 32; exec (.prefI g) s = .next (nextPc g (((List.range ((first + wf w 32 16 - 1) / 16 - first / 16 + 1)).map (first / 16 + ·)).foldl (prefLine g) s))) ∧
  (∀ (g : Nat) (w : InstrWord) (s : State),
      (Issues s g 0x3C w ∧ okSema w = true ∧ semaOp w = 0 ∧ semaCond w ≠ 3 ∧ semOf w < 960) → (inReplay s (getCore s g).part (getCore s g).slot = false) → 
      exec (.semaI g) s = .next (settle (semOp (getCore s g).part (semOf w) true ((getCore s g).getS (raOf w)).toNat (retireS g (rdOf w) 0 s)))) ∧
  (∀ (g : Nat) (w : InstrWord) (s : State),
      (Issues s g 0x3C w ∧ okSema w = true ∧ semaOp w = 5 ∧ semaCond w ≠ 3 ∧ 960 ≤ semOf w) → ((getMutex s (getCore s g).part (semOf w)).owner = none) → 
      let c := getCore s g; let x := getMutex s c.part (semOf w); exec (.semaI g) s = .next (retireS g (rdOf w) (if x.abandoned then 3 else 0) (changed (setMutex c.part (semOf w) { owner := some c.slot, abandoned := false } s)))) ∧
  (∀ (g : Nat) (w : InstrWord) (s : State),
      (Issues s g 0x3C w ∧ okSema w = true ∧ semaOp w = 6 ∧ semaCond w ≠ 3 ∧ 960 ≤ semOf w) → ((getMutex s (getCore s g).part (semOf w)).owner = some (getCore s g).slot ∧ (getCtx s (getCore s g).part (getCore s g).slot).holdEnds = none) → 
      let c := getCore s g; exec (.semaI g) s = .next (settle (wake c.part (retireS g (rdOf w) 0 (releaseMutex c.part (semOf w) false (modCtx c.part c.slot (fun k => { k with inherited := none, holdEnds := none }) s)))))) ∧
  (∀ (g : Nat) (w : InstrWord) (u s : State),
      (Issues s g 0x3D w ∧ onlyBits w [(111, 1)] = true ∧ u = commit ((Blk.die (g / 32)).base + 4) s) → 
      let c := getCore s g; exec (.barI g) s = .next (refreshBlocked c.part c.slot (barCheck c.part c.slot (refreshBlocked c.part c.slot (modCore g (fun k => { k with waits := .bar (flag w 0), glean := { min := (gleanSet u (g / 32)).1, max := (gleanSet u (g / 32)).2 } }) u))))) ∧
  (∀ (g : Nat) (w : InstrWord) (s : State),
      (Issues s g 0x3E w ∧ onlyBits w [(107, 4), (100, 7), (84, 16), (111, 3)] = true ∧ wf w 100 7 < (getCtx s (getCore s g).part (getCore s g).slot).cores) → (wf w 111 2 = 1 ∧ ((getCore s g).getCred (wf w 107 4)).isOpen = true ∧ ((getCore s g).getCred (wf w 107 4)).consumer = false) → (((getCore s g).getCred (wf w 107 4)).acquired + wf w 84 16 ≤ ((getCore s g).getCred (wf w 107 4)).depth + ((getCore s g).getCred (wf w 107 4)).released) → 
      exec (.credI g) s = .next (nextPc g (credBoth g (wf w 107 4) (fun e => { e with acquired := (e.acquired + wf w 84 16) % 2 ^ 64 }) s))) ∧
  (∀ (g : Nat) (w : InstrWord) (s : State),
      (Issues s g 0x3E w ∧ onlyBits w [(107, 4), (100, 7), (84, 16), (111, 3)] = true ∧ wf w 100 7 < (getCtx s (getCore s g).part (getCore s g).slot).cores) → (wf w 111 2 = 2 ∧ ((getCore s g).getCred (wf w 107 4)).isOpen = true ∧ ((getCore s g).getCred (wf w 107 4)).consumer = true) → 
      exec (.credI g) s = .next (nextPc g (credBoth g (wf w 107 4) (fun e => { e with released := (e.released + wf w 84 16) % 2 ^ 64 }) s))) ∧
  (∀ (g : Nat) (w : InstrWord) (s : State),
      (Issues s g 0x3F w ∧ onlyBits w ([(88, 8), (111, 1)] ++ if flag w 0 then [fRa, fRb] else []) = true ∧ flag w 0 = false) → (5 ≤ wf w 88 8 ∧ wf w 88 8 ≤ 61 ∧ inReplay s (getCore s g).part (getCore s g).slot = false) → 
      exec (.evtI g) s = .next (nextPc g (sendMsix (getCore s g).part (wf w 88 8) s))) ∧
  (∀ (g : Nat) (w : InstrWord) (u s : State),
      (Issues s g 0x3F w ∧ onlyBits w ([(88, 8), (111, 1)] ++ if flag w 0 then [fRa, fRb] else []) = true ∧ flag w 0 = true) → (wf w 88 8 ≤ 63 ∧ (getCore s g).dma0 = [] ∧ (getCore s g).dma1 = [] ∧ hazard s g false ((getCore s g).getS (raOf w)).toNat 64 = false) → (Completes s g (evtWrite g (wf w 88 8) ((getCore s g).getS (raOf w)).toNat ((getCore s g).getS (rbOf w)).toNat) u) → 
      exec (.evtI g) s = .next (nextPc g u)) ∧
  (∀ (t die c vc p k : Nat) (u s : State),
      (u = record (2 + die) 0x0404 [.id1 die, .id1 c, .code1 vc] p k (stick ((Blk.die die).base + 0x10) 1 3 (some (8, 5, c)) (stick ((Blk.core (32 * die + c)).base + 0x10) 2 3 none (advance t s)))) → ((getCtx u p k).st ≠ .free) → 
      let x := getCore (advance t s) (32 * die + c); let mine := x.role = .placed && x.part = p && x.slot = k; exec (.meshPacketLost t die c vc p k) s = .next (settle (teardown p k 0x0200 (if mine then x.idx else 0) (if mine then x.pc else 0) 0 none u)))

/-- ATTN and KVW begin a walk when their operands are free and their checks pass; the start of a step reads the header and
its entries; the end of a step takes in its data and goes to the next step or retires; KV_MAP copies its entries into
the list and, with gen_bump, moves the header's generation on. (spec/08_attention.md R252, spec/08_attention.md R253,
spec/08_attention.md R256, spec/08_attention.md R257, spec/08_attention.md R258, spec/08_attention.md R259,
spec/08_attention.md R261, spec/08_attention.md R262) -/
def Obligations.AttentionWalksPageLists : Prop :=
  (∀ (g : Nat) (w : InstrWord) (u s : State),
      (Issues s g 0x25 w ∧ okAttn w = true ∧ (getCore s g).walk = none ∧ expandedAll (getCore s g) = true) → (operandsFree s g (([vTd w, vTa w] ++ if flag w 2 || flag w 3 then [vTb w] else []).map fun i => Td.of ((getCore s g).getT i)) = true) → (Completes s g (do attnCheck g w; startWalk g w) u) → 
      exec (.attnI g) s = .next u) ∧
  (∀ (g : Nat) (w : InstrWord) (k : Walk) (u s : State),
      (Issues s g 0x25 w ∧ okAttn w = true ∧ (getCore s g).walk = some k ∧ k.started = false) → (Completes s g (walkStart g k (attnFits (Td.of k.ta))) u) → 
      exec (.attnI g) s = .next u) ∧
  (∀ (g : Nat) (w : InstrWord) (k : Walk) (u s : State),
      (Issues s g 0x25 w ∧ okAttn w = true ∧ (getCore s g).walk = some k ∧ k.started = true) → (Completes s g (attnEnd g k) u) → 
      exec (.attnI g) s = .next u) ∧
  (∀ (g : Nat) (w : InstrWord) (u s : State),
      (Issues s g 0x27 w ∧ okKvw w = true ∧ (getCore s g).walk = none) → (operandsFree s g (((if flag w 1 then [] else [vTa w]) ++ if flag w 0 || flag w 1 then [] else [vTb w]).map fun i => Td.of ((getCore s g).getT i)) = true) → (Completes s g (do kvwCheck g w; startWalk g w) u) → 
      exec (.kvwI g) s = .next u) ∧
  (∀ (g : Nat) (w : InstrWord) (k : Walk) (u s : State),
      (Issues s g 0x27 w ∧ okKvw w = true ∧ (getCore s g).walk = some k ∧ k.started = true) → (Completes s g (kvwEnd g k) u) → 
      exec (.kvwI g) s = .next u) ∧
  (∀ (t id : Nat) (d : Desc) (src : List Byte) (u v s : State),
      (Starts (advance t s) id 0x08 d ∧ kvMapCheck (advance t s) d = none ∧ kvMapReady (advance t s) d = none ∧ bit (d.u 32 1) 0 = false) → ((readPart d.part (d.u 24 8) (16 * d.u 20 4) (.hub 2) (startDesc id (advance t s))).1.toOption = some src ∧ u = (readPart d.part (d.u 24 8) (16 * d.u 20 4) (.hub 2) (startDesc id (advance t s))).2) → ((writeDesc d (d.u 8 8 + 64 + 16 * d.u 16 4) src u).1 = none ∧ v = (writeDesc d (d.u 8 8 + 64 + 16 * d.u 16 4) src u).2) → 
      exec (.kvMap t id) s = .next (settle (finishOk d.id v)))

/-- A STREAM_BIND that no check of Table 10.2 refuses makes the stream pending with the descriptor's fields, or starts its
unbinding; a line within the count is stored and hashed; a Frame Start ends a frame in progress as damaged and makes
the admission decision of the next; a Frame End after all lines ends the frame undamaged and with fewer lines as
short; an Ethernet frame of a stream with none in progress starts one, and one that fails its FCS is only recorded as
event 0x0708; a gap ends a frame as damaged at the instant the gap ran out; an expired deadline counts one missing
frame and moves on by the period; a held frame with no consumer left is released. (spec/10_ingest.md R282,
spec/10_ingest.md R283, spec/10_ingest.md R284, spec/10_ingest.md R285, spec/10_ingest.md R289, spec/10_ingest.md
R290, spec/10_ingest.md R292, spec/10_ingest.md R293, spec/10_ingest.md R297, spec/10_ingest.md R299) -/
def Obligations.SensorFramesAreAdmittedAndEnd : Prop :=
  (∀ (t id : Nat) (d : Desc) (s : State),
      (Starts (advance t s) id 0x09 d) → (bindCheck (advance t s) d = none ∧ bit (d.u 9 1) 3 = false) → 
      exec (.streamBind t id) s = .next (settle (finishOk d.id (modStr (d.u 9 1 % 2) (d.u 8 1) (fun x => { d.stream with gone := x.gone }) (startDesc id (advance t s)))))) ∧
  (∀ (t id : Nat) (d : Desc) (s : State),
      (Starts (advance t s) id 0x09 d) → (bindCheck (advance t s) d = none ∧ bit (d.u 9 1) 3 = true) → 
      let h := d.u 9 1 % 2; let n := d.u 8 1; exec (.streamBind t id) s = .next (settle (unbindDone h n (modStr h n (fun x => { x with unbinder := some d.id }) (unbind h n (startDesc id (advance t s))))))) ∧
  (∀ (t h port vc dt hdr n : Nat) (data read : List Byte) (f : Frame) (s : State),
      (h < 2 ∧ (getHub (advance t s) h).up = true ∧ portOn (advance t s) h port = true ∧ hdr ≠ 2 ∧ (advance t s).inj.busy = none) → (csiStream (advance t s) h port vc = some n ∧ (getStr (advance t s) h n).dataType = dt) → ((getStr (advance t s) h n).cur = some f ∧ f.admitted = true ∧ f.rx < (getStr (advance t s) h n).nLines ∧ data.length ≤ (getStr (advance t s) h n).lineBytes) → 
      let f' := { f with rx := f.rx + 1, last := hubTime (advance t s) h }.hash (getStr (advance t s) h n).nLines f.rx data; exec (.csiLongPacket t h port vc dt hdr true data false read) s = .next (modStr h n (fun x => { x with cur := some { f' with lines := f'.lines ++ [data] } }) (advance t s))) ∧
  (∀ (t h port vc fn n : Nat) (s : State),
      (h < 2 ∧ (getHub (advance t s) h).up = true ∧ portOn (advance t s) h port = true ∧ (advance t s).inj.busy = none ∧ (advance t s).inj.rest = []) → (csiStream (advance t s) h port vc = some n ∧ (getStr (advance t s) h n).st ≠ .unbinding) → 
      exec (.frameStart t h port vc fn) s = .next (startFrame h n (fn % 65536) (advance t s))) ∧
  (∀ (t h port vc n : Nat) (f : Frame) (s : State),
      (h < 2 ∧ (getHub (advance t s) h).up = true ∧ portOn (advance t s) h port = true ∧ (advance t s).inj.busy = none) → (csiStream (advance t s) h port vc = some n ∧ (getStr (advance t s) h n).cur = some f) → 
      exec (.frameEnd t h port vc) s = .next (endFrame h n (if f.rx < (getStr (advance t s) h n).nLines then some 1 else none) (hubTime (advance t s) h) (advance t s))) ∧
  (∀ (t h mac dst etype vlan len n : Nat) (isAs : Bool) (data read : List Byte) (s : State),
      (h < 2 ∧ (getHub (advance t s) h).up = true ∧ mac < 4 ∧ fld (advance t s) (ingBase h + 0x140 + 4 * mac) 0 1 = 1 ∧ (advance t s).inj.busy = none) → (len ≤ 9216 ∧ ethStream (advance t s) h mac dst etype vlan = some n) → 
      exec (.ethFrame t h mac dst etype vlan len true isAs data false read) s = .next (ethLine h n data false read (advance t s))) ∧
  (∀ (t h mac dst etype vlan len : Nat) (isAs ecc : Bool) (data read : List Byte) (s : State),
      (h < 2 ∧ (getHub (advance t s) h).up = true ∧ mac < 4 ∧ fld (advance t s) (ingBase h + 0x140 + 4 * mac) 0 1 = 1 ∧ (advance t s).inj.busy = none) → 
      exec (.ethFrame t h mac dst etype vlan len false isAs data ecc read) s = .next (event h 0x0708 [.id1 h, .id1 mac, .code1 0] (advance t s))) ∧
  (∀ (t h n : Nat) (f : Frame) (s : State),
      ((getStr (advance t s) h n).cur = some f ∧ (advance t s).inj.busy = none) → (f.last + (freshPar (advance t s) h n).gap ≤ hubTime (advance t s) h) → 
      exec (.frameGapExpiry t h n) s = .next (endFrame h n (some 3) (f.last + (freshPar (advance t s) h n).gap) (advance t s))) ∧
  (∀ (t h n d : Nat) (s : State),
      ((getStr (advance t s) h n).st = .bound ∧ (getStr (advance t s) h n).deadline = some d ∧ d < hubTime (advance t s) h) → 
      exec (.missingDeadline t h n) s = .next (freshen h n (getStr (advance t s) h n).seq .missing (modStr h n (fun x => { x with missing := satAdd 32 x.missing 1, deadline := some (d + periodNs (advance t s) h n) }) (advance t s)))) ∧
  (∀ (t h n seq : Nat) (f : Frame) (s : State),
      ((getStr (advance t s) h n).held.find? (·.seq = seq) = some f ∧ f.sdl = [] ∧ f.fus = []) → 
      exec (.frameRelease t h n seq) s = .next (unbindDone h n (modStr h n (fun x => { x with held := x.held.filter (·.seq ≠ seq) }) (advance t s))))

/-- A Sync at most 1 s behind slews hub time by no more than the servo may, clears free_run and counts toward synced; one
more than 1 s behind slews nothing and sets gm_behind with event 0x0706; a timeout sets free_run; with follow in force
HS slews toward HN; a step with no stream bound and a grandmaster known takes its time, sets stepped and records event
0x0706, and one with a stream bound only sets ING_ERR.step_refused. (spec/10_ingest.md R286, spec/10_ingest.md R287,
spec/10_ingest.md R288) -/
def Obligations.HubTimeIsDisciplined : Prop :=
  (∀ (t h gm : Nat) (adj : Int) (s u : State),
      (h < 2 ∧ (getHub (advance t s) h).up = true ∧ gptpOn (advance t s) h = true ∧ h = 0) → ((hubTime (advance t s) h : Int) = gm ∧ u = slew h 0 adj (t - s.clk) (advance t s)) → ((getIng u h).good < 15 ∧ (getIng u h).synced = false) → 
      exec (.syncReceived t h gm adj) s = .next (modIng h (fun i => { i with freeRun := false, gmBehind := false, gm := some ((gm : Int) - u.clk), good := (getIng u h).good + 1, synced := false }) u)) ∧
  (∀ (t h gm : Nat) (adj : Int) (s u : State),
      (h < 2 ∧ (getHub (advance t s) h).up = true ∧ gptpOn (advance t s) h = true ∧ h = 0) → ((gm : Int) + 1000000000 < hubTime (advance t s) h ∧ (getIng (advance t s) h).gmBehind = false) → (u = timeEvent h 3 ((gm : Int) - hubTime (advance t s) h) (advance t s) ∧ (getIng u h).synced = false) → 
      exec (.syncReceived t h gm adj) s = .next (modIng h (fun i => { i with freeRun := false, gmBehind := true, gm := some ((gm : Int) - u.clk), good := 0, synced := false }) u)) ∧
  (∀ (t h : Nat) (s : State),
      (h < 2 ∧ gptpOn (advance t s) h = true) → 
      exec (.syncTimeout t h) s = .next (modIng h (fun i => { i with freeRun := true, good := 0 }) (advance t s))) ∧
  (∀ (t : Nat) (adj : Int) (s : State),
      ((getHub (advance t s) 1).up = true ∧ follows (advance t s) = true) → 
      let u := slew 1 ((advance t s).corrN - (advance t s).corrS) adj (t - s.clk) (advance t s); exec (.timeFollow t adj) s = .next (modIng 1 (fun i => { i with following := true, freeRun := (getIng (advance t s) 0).freeRun }) u)) ∧
  (∀ (t h : Nat) (g : Int) (s : State),
      (h < 2 ∧ (getHub (advance t s) h).up = true ∧ (getIng (advance t s) h).gm = some g) → (boundOn (advance t s) h = [] ∧ gptpOn (advance t s) h = true) → 
      exec (.timeStep t h) s = .next (timeEvent h 2 (g - corrOf (advance t s) h) (fldSet (ingBase h + 0x18) 4 1 1 (setCorr h g (advance t s))))) ∧
  (∀ (t h : Nat) (s : State),
      (h < 2 ∧ (getHub (advance t s) h).up = true ∧ boundOn (advance t s) h ≠ []) → 
      exec (.timeStep t h) s = .next (ingErr h 6 0 (advance t s)))

/-- Between slices SDL_ENTRY_COMMIT puts the entry's fields in effect: enabled, the entry reads its job record; not
enabled, it is left without a job and no frame waits for it. An entry that may run computes the next band of its
frame, or a last-layer job, and the engine is busy for the cycles of that band or job; a slice that is used up ends,
and what the last band ran over is the entry's debt. (spec/03_partitions.md R116, spec/07_sliding_window.md R241,
spec/07_sliding_window.md R245, spec/07_sliding_window.md R246, spec/07_sliding_window.md R247) -/
def Obligations.SeedlingEntriesCommitAndRun : Prop :=
  (∀ (t h e : Nat) (s u : State),
      (h < 2 ∧ e < 64 ∧ (getHub (advance t s) h).up = true ∧ (getSdl (advance t s) h).slice = none) → (u = [0, 4, 8, 0xC].foldl (fun s r => commit (entReg h e r) s) (advance t s) ∧ eff u (entReg h e 0) 0 1 = 1) → 
      exec (.sdlEntryCommit t h e) s = .next (commitEnt h e u)) ∧
  (∀ (t h e : Nat) (s u : State),
      (h < 2 ∧ e < 64 ∧ (getHub (advance t s) h).up = true ∧ (getSdl (advance t s) h).slice = none) → (u = [0, 4, 8, 0xC].foldl (fun s r => commit (entReg h e r) s) (advance t s) ∧ eff u (entReg h e 0) 0 1 = 0) → 
      exec (.sdlEntryCommit t h e) s = .next (dropReader h e none (modEnt h e (fun x => { err := x.err, sat := x.sat, frames := x.frames }) u))) ∧
  (∀ (t h e : Nat) (j : SdlJob) (f : Frame) (s : State),
      (h < 2 ∧ mayRun (advance t s) h e = true ∧ entLast (advance t s) h e = false) → ((getEnt (advance t s) h e).job = some j ∧ entFrame (advance t s) h e = some f) → 
      let i := jobInput (advance t s) h e j.raw; let y0 := (getEnt (advance t s) h e).row; let y1 := min (jobHout j.raw i.1) (y0 + jobBand j.raw i.1 i.2); exec (.sdlBand t h e) s = .next (runBand h e j f y0 y1 (spend h ((y1 - y0) * jobCyc j.raw i.2) (beginSlice h e (advance t s))))) ∧
  (∀ (t h e : Nat) (j : SdlJob) (s : State),
      (h < 2 ∧ mayRun (advance t s) h e = true ∧ entLast (advance t s) h e = true) → ((getEnt (advance t s) h e).job = some j) → 
      exec (.sdlJobStart t h e) s = .next (runJob h e j (spend h (jobHout j.raw (leAt j.raw 96 2) * jobCyc j.raw (leAt j.raw 98 2)) (beginSlice h e (advance t s))))) ∧
  (∀ (t h e fin : Nat) (s : State),
      (h < 2 ∧ (getSdl (advance t s) h).slice = some (e, fin) ∧ (getSdl (advance t s) h).busy ≤ (advance t s).clk * 11 ∧ fin ≤ (advance t s).clk * 11) → 
      let u := commit ((Blk.sdl h).base + 8) (modSdl h (fun x => { x with slice := none, last := e }) (advance t s)); exec (.sliceEnd t 0 h) s = .next (modEnt h e (fun y => { y with debt := if y.active then (getSdl (advance t s) h).busy - fin else 0 }) u)) ∧
  (∀ (t h e fin : Nat) (s : State),
      (h < 2 ∧ (getFus (advance t s) h).slice = some (e, fin) ∧ (getFus (advance t s) h).busy ≤ (advance t s).clk ∧ fin ≤ (advance t s).clk) → 
      exec (.sliceEnd t 1 h) s = .next (modSrc h e (fun y => { y with debt := if y.active then (getFus (advance t s) h).busy - fin else 0 }) (modFus h (fun x => { x with slice := none, last := e }) (advance t s))))

/-- A CAL_LOAD that Table 11.2 accepts becomes the sensor's current entry where it has none, else its next one;
FUSION_ENABLE reads the set-up record and starts the engine or refuses it; FUSION_DISABLE discards the open instants;
at a boundary a source entry's fields take effect and an instant closes; a point list whose list_sem can be taken and
that reads with a sound header is the source's list in work, and done_sem is added in either case; an entry that may
run merges a batch of points. (spec/11_fusion.md R304, spec/11_fusion.md R305, spec/11_fusion.md R308,
spec/11_fusion.md R309, spec/11_fusion.md R310, spec/11_fusion.md R329, spec/11_fusion.md R330, spec/11_fusion.md
R331) -/
def Obligations.FusionMergesPointsIntoInstants : Prop :=
  (∀ (t id : Nat) (d : Desc) (s : State),
      (Starts (advance t s) id 0x0A d ∧ calCheck (advance t s) d = none) → ((getSensor (startDesc id (advance t s)) (d.u 8 1 % 2) (d.u 9 1)).cur = none) → 
      exec (.calLoad t id) s = .next (settle (finishOk d.id (modSensor (d.u 8 1 % 2) (d.u 9 1) (fun x => match x.cur with | none => { x with cur := some (peek (startDesc id (advance t s)) d.part (d.u 16 8) 4288), next := none } | some _ => { x with next := some { from_ := d.u 24 8, loaded := hubTime (startDesc id (advance t s)) (d.u 8 1 % 2), raw := peek (startDesc id (advance t s)) d.part (d.u 16 8) 4288 } }) (startDesc id (advance t s)))))) ∧
  (∀ (t h : Nat) (s : State),
      (h < 2 ∧ (getHub (advance t s) h).up = true ∧ fld (advance t s) (fusReg h 0x10) 0 1 = 0) → 
      exec (.fusionEnable t h) s = .next (fusStart h (fldSet (fusReg h 0x10) 0 1 1 (advance t s)))) ∧
  (∀ (t h : Nat) (s : State),
      (h < 2 ∧ (getHub (advance t s) h).up = true ∧ fld (advance t s) (fusReg h 0x10) 0 1 = 1) → 
      exec (.fusionDisable t h) s = .next (modFus h (fun x => { x with on := false, insts := [], slice := none, srcs := x.srcs.map fun e => (e.1, { e.2 with pos := 0, list := none, debt := 0 }) }) (dropFrames h (List.range 32) (fldSet (fusReg h 0x10) 0 1 0 (advance t s))))) ∧
  (∀ (t h e : Nat) (s : State),
      (h < 2 ∧ e < 32 ∧ atBoundary (advance t s) h = true) → 
      exec (.fusionSourceCommit t h e) s = .next (srcCommit h e (advance t s))) ∧
  (∀ (t h e : Nat) (b ps : List Byte) (s u v w : State),
      (h < 2 ∧ e < 32 ∧ (getHub (advance t s) h).up = true ∧ (getFus (advance t s) h).on = true ∧ (getSrc (advance t s) h e).active = true ∧ (getSrc (advance t s) h e).list = none) → (leAt (getSrc (advance t s) h e).raw 2 1 = 1 ∧ 1 ≤ semVal (advance t s) (fusPart (advance t s) h) (leAt (getSrc (advance t s) h e).raw 30 2)) → (u = changed (setSem (fusPart (advance t s) h) (leAt (getSrc (advance t s) h e).raw 30 2) (semVal (advance t s) (fusPart (advance t s) h) (leAt (getSrc (advance t s) h e).raw 30 2) - 1) (advance t s))) → ((readPart (fusPart (advance t s) h) (leAt (getSrc (advance t s) h e).raw 40 8) 64 ingReq u).1.toOption = some b ∧ v = (readPart (fusPart (advance t s) h) (leAt (getSrc (advance t s) h e).raw 40 8) 64 ingReq u).2 ∧ listHdrOk b = true) → ((readPart (fusPart (advance t s) h) (leAt (getSrc (advance t s) h e).raw 40 8 + 64) (16 * leAt b 4 4) ingReq v).1.toOption = some ps ∧ w = (readPart (fusPart (advance t s) h) (leAt (getSrc (advance t s) h e).raw 40 8 + 64) (16 * leAt b 4 4) ingReq v).2) → 
      let c := calSwitch h (leAt (getSrc (advance t s) h e).raw 4 1) (leAt b 8 8) true w; exec (.pointListRead t h e) s = .next (settle (semOp (fusPart (advance t s) h) (leAt (getSrc (advance t s) h e).raw 32 2) false 1 (modSrc h e (fun x => { x with pos := 0, seq := x.seq + 1, list := some { read := hubTime c h, time := leAt b 8 8, pts := chunks 16 (leAt b 4 4) ps } }) c)))) ∧
  (∀ (t h e : Nat) (s : State),
      (h < 2 ∧ e < 32 ∧ fusMayRun (advance t s) h e = true) → 
      exec (.fusionPointBatch t h e) s = .next (fusBatch h e (advance t s))) ∧
  (∀ (t h : Nat) (struck : List Nat) (s : State),
      (h < 2 ∧ (getHub (advance t s) h).up = true ∧ (getFus (advance t s) h).on = true ∧ (getFus (advance t s) h).cutoff ≤ hubTime (advance t s) h) → 
      exec (.instantClose t h struck) s = .next (closeInstant h struck (advance t s)))

/-- The crypto unit serves the next turn that has a request until its quantum less its debt is spent, and clears the debts
where none waits; a read that fails no check changes only queues, rows and counters, and one that ECC corrects counts
and records event 0x0601; a full-line write puts its bytes into the line; a refresh commits the hub's sh fields to the
channel and closes its rows; a window end clears every count and throttle; the scrubber moves on by one line; drift
beyond the limit records event 0x0606. (spec/12_memory.md R341, spec/12_memory.md R342, spec/12_memory.md R346,
spec/12_memory.md R347, spec/12_memory.md R348, spec/12_memory.md R349, spec/12_memory.md R350, spec/12_memory.md
R351, spec/12_memory.md R358) -/
def Obligations.DramRequestsAreServed : Prop :=
  (∀ (t h i k : Nat) (reqs : List MemReq) (s u : State),
      (h < 2 ∧ drcServes (advance t s) h = true ∧ k ≠ 33) → (((List.range 34).map fun i => ((getDrc (advance t s) h).turn + 1 + i) % 34).findIdx? (fun k => (reqs.filter (reqFits (advance t s) h)).any fun r => turnOf (advance t s) h (ownerOf (advance t s) r.addr) = k) = some i) → (((List.range 34).map fun i => ((getDrc (advance t s) h).turn + 1 + i) % 34).getD i 0 = k) → (u = modDrc h (fun d => { d with debts := (((List.range 34).map fun i => ((getDrc (advance t s) h).turn + 1 + i) % 34).take i).foldl (fun t x => tabSet dNat t x 0) d.debts }) (advance t s)) → 
      let quota := quantum u h k - tabGet dNat (getDrc u h).debts k; let r := serveTurn h quota 0 ((reqs.filter (reqFits (advance t s) h)).filter fun r => turnOf (advance t s) h (ownerOf (advance t s) r.addr) = k) u; exec (.cryptoTurn t h reqs) s = .next (modDrc h (fun d => { d with turn := k, debts := tabSet dNat d.debts k (r.1 - quota), zeroLast := (getDrc r.2 h).zeroLast }) r.2)) ∧
  (∀ (t h : Nat) (reqs : List MemReq) (s : State),
      (h < 2 ∧ drcServes (advance t s) h = true ∧ reqs.filter (reqFits (advance t s) h) = []) → 
      exec (.cryptoTurn t h reqs) s = .next (modDrc h (fun d => { d with debts := [] }) (advance t s))) ∧
  (∀ (t h ch : Nat) (lecc : Bool) (r : MemReq) (s u : State),
      (h < 2 ∧ chanServes (advance t s) h ch = true ∧ nextReq (advance t s) h ch = some r ∧ r.isWrite = false ∧ r.who ≠ .hub 3) → (u = linkEcc h lecc (takeReq h ch r (advance t s)) ∧ u.inj.busy = none ∧ lineState u (r.addr / 64) = 0) → 
      exec (.dramRead t h ch 0 lecc) s = .next u) ∧
  (∀ (t h ch : Nat) (lecc : Bool) (r : MemReq) (s u : State),
      (h < 2 ∧ chanServes (advance t s) h ch = true ∧ nextReq (advance t s) h ch = some r ∧ r.isWrite = false ∧ r.who ≠ .hub 3) → (u = linkEcc h lecc (takeReq h ch r (advance t s)) ∧ u.inj.busy = none ∧ lineState u (r.addr / 64) = 0) → 
      exec (.dramRead t h ch 1 lecc) s = .next (event h 0x0601 [.id1 h, .id1 ch, .loc8 (r.addr / 64 * 64)] (modDrc h (fun d => { d with ce := satAdd 32 d.ce 1 }) u))) ∧
  (∀ (t h ch err : Nat) (r : MemReq) (s u : State),
      (h < 2 ∧ chanServes (advance t s) h ch = true ∧ nextReq (advance t s) h ch = some r ∧ r.isWrite = true ∧ r.who ≠ .hub 3 ∧ 64 ≤ r.len) → (u = takeReq h ch r (advance t s) ∧ (getDrc u h).held = false) → 
      let v := (writeDev r.addr r.data r.who u).2; let p := ownerOf u r.addr; exec (.dramWrite t h ch err false) s = .next ((partAddr v p r.addr).elim v fun a => mirrorWrite p a r.data v)) ∧
  (∀ (t h ch : Nat) (s u : State),
      (h < 2 ∧ ch < 16 ∧ drcServes (advance t s) h = true) → (u = [0x10, 0x14, 0x18].foldl (fun s r => commit (drcBase h + r) s) (advance t s)) → 
      exec (.refresh t h ch) s = .next (precharge h ch (modChan h ch (fun c => { c with sched := regGet u (drcBase h + 0x10), rat := regGet u (drcBase h + 0x14) }) u))) ∧
  (∀ (t h ch : Nat) (s : State),
      (h < 2 ∧ ch < 16 ∧ drcServes (advance t s) h = true) → 
      exec (.ratWindowEnd t h ch) s = .next ((List.range 16).foldl (fun s b => modBank h ch b (fun x => { x with floor := 0, ents := [], throttled := [] }) s) (advance t s))) ∧
  (∀ (t h : Nat) (s u : State),
      (h < 2 ∧ drcServes (advance t s) h = true ∧ eff (advance t s) (drcBase h + 0x18) 0 2 ≠ 2) → (u = modDrc h (fun d => { d with scrub := ((getDrc (advance t s) h).scrub + 1) % max 1 (2 ^ 24 * (getDrc (advance t s) h).gib) }) (advance t s) ∧ lineState u (2 ^ 30 * h + (getDrc (advance t s) h).scrub) = 0) → 
      exec (.patrolScrub t h 0) s = .next u) ∧
  (∀ (t h ch : Nat) (beyond : Bool) (s : State),
      (h < 2 ∧ ch < 16 ∧ drcServes (advance t s) h = true ∧ (advance t s).inj.busy = none) → 
      exec (.wck2dqTrack t h ch beyond) s = .next (if beyond then event h 0x0606 [.id1 h, .id1 ch, .id1 (getDrc (advance t s) h).set, .code1 2] (drcErr h 3 ch (advance t s)) else (advance t s)))

/-- A hub whose memory waits is trained at TRAINING_GO or when its wait has run out; DRAM_FREQ puts a change behind the
hub's earlier ones and starts it where none runs; each group in turn serves again in the new set, and after the last
the set is in effect, event 0x0605 is recorded and the descriptor completes; a capture keeps the controller's state; a
hold with no granule mapped stops the hub's memory after a capture, and with one mapped is refused; a release lets it
serve; DIAG registers show the item selected. (spec/12_memory.md R354, spec/12_memory.md R355, spec/12_memory.md R357,
spec/12_memory.md R360, spec/12_memory.md R361, spec/12_memory.md R362) -/
def Obligations.DramTrainsChangesAndFreezes : Prop :=
  (∀ (t h b : Nat) (types dens : List Nat) (mrs : List Byte) (res : List TrainRes) (s : State),
      (h < 2 ∧ (getDrc (advance t s) h).waiting = some b) → 
      exec (.trainingGo t h types dens mrs res) s = .next (trainHub h types dens mrs res (advance t s))) ∧
  (∀ (t h b : Nat) (types dens : List Nat) (mrs : List Byte) (res : List TrainRes) (s : State),
      (h < 2 ∧ (getDrc (advance t s) h).waiting = some b ∧ b + 1000000 * fld (advance t s) (drcBase h + 0x70) 8 8 ≤ (advance t s).clk) → 
      exec (.trnWaitExpiry t h types dens mrs res) s = .next (trainHub h types dens mrs res (advance t s))) ∧
  (∀ (t id : Nat) (d : Desc) (s : State),
      (Starts (advance t s) id 0x16 d ∧ freqCheck (advance t s) d = none) → 
      exec (.dramFreq t id) s = .next (settle ((bitList 2 (d.u 8 1)).foldl (fun s h => startChange h (modDrc h (fun x => { x with changes := x.changes ++ [(d.u 9 1, d.id)] }) s)) (startDesc id (advance t s))))) ∧
  (∀ (t hub g set id : Nat) (s : State),
      (hub < 2 ∧ g < 3 ∧ (getDrc (advance t s) hub).change = some (set, g, id)) → 
      let u := (groupOf g).foldl (fun s c => modChan hub c (fun x => { x with blackout := false }) (flushMeta hub c (precharge hub c s))) (advance t s); exec (.freqGroupSwitch t hub g) s = .next ((groupOf (g + 1)).foldl (fun s c => modChan hub c (fun x => { x with blackout := true }) s) (modDrc hub (fun d => { d with change := some (set, g + 1, id) }) u))) ∧
  (∀ (t hub set id : Nat) (s u v : State),
      (hub < 2 ∧ (getDrc (advance t s) hub).change = some (set, 3, id)) → (u = (groupOf 3).foldl (fun s c => modChan hub c (fun x => { x with blackout := false }) (flushMeta hub c (precharge hub c s))) (advance t s)) → (v = startChange hub (event hub 0x0605 [.id1 hub, .code1 (getDrc u hub).set, .code1 set] (modDrc hub (fun d => { d with change := none, set, st := 2 }) u)) ∧ freqOpen v id = false) → 
      exec (.freqGroupSwitch t hub 3) s = .next (settle (finishOk id v))) ∧
  (∀ (t h : Nat) (s : State),
      (h < 2 ∧ (getHub (advance t s) h).up = true ∧ fld (advance t s) (drcBase h + 0x60) 3 1 = 0) → 
      exec (.capture t h) s = .next (event h 0x0607 [.id1 h, .code1 0] (fldSet (drcBase h + 0x60) 3 1 1 (modDrc h (fun d => { d with store := some { time := (advance t s).clk, log := d.log, banks := d.banks, chans := d.chans } }) (advance t s))))) ∧
  (∀ (t h : Nat) (s : State),
      (h < 2 ∧ (getHub (advance t s) h).up = true ∧ (getDrc (advance t s) h).held = false ∧ hubMapped (advance t s) h = false) → 
      let u := capture h 2 ((List.range 16).foldl (fun s c => precharge h c (flushMeta h c s)) (advance t s)); exec (.holdMem t h) s = .next (modDrc h (fun d => { d with held := true, st := 4 }) (fldSet (drcBase h + 0x60) 1 1 1 u))) ∧
  (∀ (t h : Nat) (s : State),
      (h < 2 ∧ (getHub (advance t s) h).up = true ∧ (getDrc (advance t s) h).held = false ∧ hubMapped (advance t s) h = true) → 
      exec (.holdMem t h) s = .next (drcErr h 4 0 (advance t s))) ∧
  (∀ (t h : Nat) (s : State),
      (h < 2 ∧ (getDrc (advance t s) h).held = true) → 
      exec (.holdRelease t h) s = .next (modDrc h (fun d => { d with held := false, st := if d.gib = 0 then 5 else if d.change.isSome then 3 else 2 }) (fldSet (drcBase h + 0x60) 1 1 0 (advance t s)))) ∧
  (∀ (t h : Nat) (val : Word) (s : State),
      (h < 2 ∧ (getHub (advance t s) h).up = true) → 
      let u := regSet (drcBase h + 0x68) val (advance t s); exec (.diagLoad t h true val) s = .next (modDrc h (fun d => { d with diag := diagItem u h }) u)) ∧
  (∀ (t h : Nat) (val : Word) (s : State),
      (h < 2 ∧ (getHub (advance t s) h).up = true) → 
      let u := regSet (drcBase h + 0x64) (BitVec.ofNat 32 (bits val.toNat 0 16)) (advance t s); exec (.diagLoad t h false val) s = .next (modDrc h (fun d => { d with diag := diagItem u h }) u))

/-- An attempt whose threads are trained sends MASK with the higher epoch plus one and end A's usable bundles; an end that
hears MASK confirms the AND of both masks; an unanswered message is repeated, and after three repeats the sideband is
dead with event 0x0505; an attempt that lasts its limit fails, and LINK_RETRAIN starts a training and waits for it.
(spec/13_links.md R365, spec/13_links.md R366, spec/13_links.md R368, spec/13_links.md R524) -/
def Obligations.LinkTrainingRunsItsSteps : Prop :=
  (∀ (t k peerE peerM : Nat) (fails : List (List Nat)) (keyOk : Bool) (s : State),
      (k < 8 ∧ (getLink (advance t s) k).st = .training ∧ (getLink (advance t s) k).step = .threads ∧ (getLink (advance t s) k).rethread = false) → (endsLive (advance t s) k = true) → 
      let l := getLink (advance t s) k; let e := nextEpoch l.a.epoch l.b.epoch; let mA := usableMask l 1; let mB := usableMask l 0; exec (.linkTrain t k fails peerE peerM keyOk) s = .next (sbSend k { toB := true, kind := 2, epoch := e, mask := mA } (modLink k (fun x => { x with maps := l.maps, a := { x.a with usable := mA }, b := { x.b with usable := mB }, propE := e, propM := mA, step := .maskSent }) (advance t s)))) ∧
  (∀ (t k : Nat) (m : SbMsg) (r : List SbMsg) (s u : State),
      ((getLink (advance t s) k).wires = m :: r ∧ m.toB = true ∧ m.kind = 2) → (u = modLink k (fun l => { l with wires := l.wires.erase m }) (advance t s)) → (injActive u 0x0504 k = false) → ((getLink u k).st = .training ∧ (getLink u k).step = .maskSent) → 
      exec (.sidebandMessage t k true true) s = .next (withRoutes (fun x => let mask := m.mask &&& (getLink x k).b.usable; sbSend k { toB := false, kind := 3, epoch := m.epoch, mask } (modLink k (fun l => { l with step := .confirmB, propE := m.epoch, propM := m.mask &&& l.b.usable }) x)) u)) ∧
  (∀ (t k since : Nat) (m : SbMsg) (s : State),
      ((getLink (advance t s) k).await = some (m, since)) → (since + 10000 ≤ (advance t s).clk) → 
      exec (.sidebandRetry t k) s = .next (if m.repeats < 3 then sbSend k { m with repeats := m.repeats + 1 } (advance t s) else event 0 0x0505 [.id1 k] (lnkErr 3 k (modLink k (fun l => { l with sbOk := false, await := none }) (advance t s))))) ∧
  (∀ (t k : Nat) (s : State),
      (k < 8 ∧ (getLink (advance t s) k).st = .training) → ((getLink (advance t s) k).began + 1000000 ≤ (advance t s).clk) → 
      exec (.trainTimeout t k) s = .next (withRoutes (failAttempt k) (advance t s))) ∧
  (∀ (t id : Nat) (d : Desc) (s : State),
      (ScionServes s ∧ Starts (advance t s) id 0x17 d) → (d.u 8 1 < 8 ∧ (getLink (advance t s) (d.u 8 1)).st ≠ .fenced ∧ (getLink (advance t s) (d.u 8 1)).st ≠ .off) → 
      exec (.linkRetrain t id) s = .next (settle (retrainBody d (startDesc id (advance t s)))))

/-- On a link in UP a flit that fails its CRC is discarded with a nak naming the last good flit, and one of a foreign
epoch is refused with event 0x0504 and both ends retrain with rethread; a nak below the threshold only moves the
replay buffer; heartbeats are sent every 10 microseconds; 30 microseconds of silence count and retrain; an end-to-end
acknowledgement frees the source's store. (spec/13_links.md R371, spec/13_links.md R373, spec/13_links.md R374,
spec/13_links.md R376) -/
def Obligations.LinkFlitsAreCheckedAndReplayed : Prop :=
  (∀ (t k : Nat) (toB : Bool) (f : Flit) (s : State),
      (k < 10 ∧ (getLink (advance t s) k).st = .up ∧ bit (getLink (advance t s) k).mask f.bundle = true) → ((advance t s).inj.busy = none ∧ (advance t s).inj.rest = []) → (((getLink (advance t s) k).side toB).fenced = false ∧ f.crcOk = false) → 
      let e := (getLink (advance t s) k).side toB; exec (.flitReceive t k toB f) s = .next (withRoutes (fun u => modSide k toB (fun e => { e with discarding := true }) (modLink k (fun l => { l with crcErr := satAdd 16 l.crcErr 1, replays := satAdd 16 l.replays 1, nakOut := l.nakOut ++ [(!toB, f.bundle, (e.seqRx + 65535) % 65536)] }) u)) (advance t s))) ∧
  (∀ (t k : Nat) (toB : Bool) (f : Flit) (s : State),
      (k < 10 ∧ (getLink (advance t s) k).st = .up ∧ bit (getLink (advance t s) k).mask f.bundle = true) → ((advance t s).inj.busy = none ∧ (advance t s).inj.rest = [] ∧ f.crcOk = true) → (((getLink (advance t s) k).side toB).fenced = false ∧ ((getLink (advance t s) k).side toB).discarding = false) → (f.epoch ≠ ((getLink (advance t s) k).side toB).epoch) → 
      exec (.flitReceive t k toB f) s = .next (withRoutes (refuseFlit k toB f.epoch) (advance t s))) ∧
  (∀ (t k b good : Nat) (toB : Bool) (r : List (Bool × Nat × Nat)) (s : State),
      ((getLink (advance t s) k).nakOut = (toB, b, good) :: r) → ((replayPolicy (advance t s) (getLink (advance t s) k)).1 = 0) → 
      let w := (replayPolicy (advance t s) (getLink (advance t s) k)).2; let l := getLink (advance t s) k; let recent := ((tabGet (fun _ => []) l.naks b).filter fun x => (advance t s).clk < x + w) ++ [(advance t s).clk]; exec (.nakReceived t k) s = .next (modSide k toB (fun e => { e with replay := ackReplay good e.replay }) (modLink k (fun l => { l with nakOut := r, naks := tabSet (fun _ => []) l.naks b recent }) (advance t s)))) ∧
  (∀ (t k : Nat) (b : Bool) (s : State),
      (k < 8 ∧ (getLink (advance t s) k).st = .up) → (((getLink (advance t s) k).side b).beat + 10000 ≤ (advance t s).clk ∧ ((getLink (advance t s) k).side b).replay.length < 512) → 
      exec (.linkHeartbeat t k b) s = .next (modSide k b (fun e => { e with beat := (advance t s).clk, seqTx := (e.seqTx + 1) % 65536, replay := e.replay ++ [e.seqTx] }) (advance t s))) ∧
  (∀ (t k : Nat) (b : Bool) (s : State),
      (k < 8 ∧ (getLink (advance t s) k).st = .up) → (((getLink (advance t s) k).side b).heard + 30000 ≤ (advance t s).clk) → 
      let u := withRoutes (startTraining k b true true) (modLink k (fun l => { l with hbLost := satAdd 8 l.hbLost 1 }) (advance t s)); exec (.linkSilence t k b) s = .next ([endDie k false, endDie k true].foldl (fun s d => if d < 4 then event (2 + d) 0x0506 [.id1 d, .id1 k] s else s) u)) ∧
  (∀ (t src dst : Nat) (seqs : List Nat) (s : State),
      exec (.e2eAck t src dst seqs) s = .next (modE2e src dst (fun e => { e with unacked := e.unacked.filter fun q => !seqs.elem q }) (advance t s)))

/-- A die heartbeat with the PLL locked is heard; three missed intervals, or an unlocked PLL, lose the die with cause
heartbeat or PLL; a die that hears FENCE stops the lost die's packets at its own ends of their common links; a fenced
die's heartbeat is ignored with event 0x0507; a forced DIE_RESET loses an UP die; after 10 microseconds the reset is
released and its links train; with a route to its declaring hub the die is UP again, its cores free and its DIE_RESET
complete. (spec/13_links.md R375, spec/13_links.md R377, spec/13_links.md R381, spec/13_links.md R382,
spec/02_host_rings.md R65, spec/01_package.md R27, spec/13_links.md R378) -/
def Obligations.LostDiesAreFencedAndReturn : Prop :=
  (∀ (t d : Nat) (s : State),
      (d < 4 ∧ (getDie (advance t s) d).st = .up ∧ (advance t s).inj.busy = none) → (dieReaches (advance t s) d (declHub (advance t s) d) = true) → 
      let u := modDie d (fun x => { x with beats := (x.beats + 1) % 2 ^ 32 }) (advance t s); dieReaches u d (declHub u d) = true → exec (.dieHeartbeat t d true) s = .next (modDie d (fun x => { x with heard := (advance t s).clk }) u)) ∧
  (∀ (t d : Nat) (s : State),
      (d < 4 ∧ (getDie (advance t s) d).st = .up ∧ (getDie (advance t s) d).heard + 30000 ≤ (advance t s).clk) → (hubUp (advance t s) (declHub (advance t s) d) = true) → 
      exec (.dieHeartbeatMiss t d) s = .next (loseDie d 0 (advance t s))) ∧
  (∀ (t d : Nat) (s : State),
      (d < 4 ∧ (getDie (advance t s) d).st = .up) → 
      exec (.pllUnlock t d) s = .next (loseDie d 1 (modDie d (fun x => { x with pll := false }) (advance t s)))) ∧
  (∀ (t d lost : Nat) (s u : State),
      (lost < 4 ∧ (getDie (advance t s) lost).st = .fenced ∧ (getDie (advance t s) lost).toFence.elem d = true) → (u = (linksOf lost).foldl (fun s k => if endDie k (!isEndB k lost) = d then modSide k (!isEndB k lost) (fun e => { e with fenced := true }) s else s) (modDie lost (fun x => { x with toFence := x.toFence.filter (· ≠ d) }) (advance t s))) → ((getDie u lost).toFence ≠ []) → 
      exec (.fenceReceive t d lost) s = .next u) ∧
  (∀ (t d : Nat) (s : State),
      (d < 4 ∧ (getDie (advance t s) d).st = .fenced) → 
      exec (.fencedHeartbeat t d) s = .next (event (declHub (advance t s) d) 0x0507 [.id1 d] (advance t s))) ∧
  (∀ (t id : Nat) (d : Desc) (s : State),
      (ScionServes s ∧ Starts (advance t s) id 0x18 d) → (d.u 8 1 < 4 ∧ dieHot (advance t s) (d.u 8 1) = false ∧ (getDie (advance t s) (d.u 8 1)).st = .up ∧ bit (d.u 9 1) 0 = true) → ((getDie (startDesc id (advance t s)) (d.u 8 1)).st = .up) → 
      exec (.dieReset t id) s = .next (settle (loseDie (d.u 8 1) 2 (modDie (d.u 8 1) (fun x => { x with desc := some d.id, noReset := bit (d.u 9 1) 1 }) (startDesc id (advance t s)))))) ∧
  (∀ (t d : Nat) (s : State),
      (d < 4 ∧ (getDie (advance t s) d).st = .reset ∧ (getDie (advance t s) d).since + 10000 ≤ (advance t s).clk) → 
      exec (.dieResetRelease t d) s = .next (withRoutes (fun s => (linksOf d).foldl (fun s k => rejoinLink k s) s) (raiseDie d (advance t s)))) ∧
  (∀ (t d i : Nat) (s : State),
      (d < 4 ∧ (getDie (advance t s) d).st = .rejoin ∧ (getDie (advance t s) d).desc = some i) → ((linksOf d).all (fun k => (getLink (advance t s) k).st ≠ .training) = true) → (dieReaches (advance t s) d (declHub (advance t s) d) = true) → 
      exec (.dieRejoinDone t d) s = .next (settle (finishOk i (dieUpNow d (advance t s)))))

/-- Writing 1 to PTN_CFG.enable enables the port and trains it; without the partner's heartbeat for 300 microseconds every
range diverges; MIRROR_CFG add places the range on each hub that holds a granule of it and remove takes it away at
once; a range that every port runs becomes in-sync and the add completes; the oldest item of a send queue leaves in
order; a packet whose tag fails is refused with event 0x0A09 and the port retrains. (spec/13_links.md R384,
spec/13_links.md R385, spec/13_links.md R386, spec/13_links.md R387, spec/15_security.md R452) -/
def Obligations.PartnerPortsMirrorRanges : Prop :=
  (∀ (t hub : Nat) (acc : Agent) (s : State),
      (hub < 2 ∧ writeReaches (advance t s) acc (ptnBase hub + 4) = true) → 
      exec (.partnerEnable t acc hub true) s = .next (wakeLink (8 + hub) (modPtn hub (fun x => { x with enable := true }) (advance t s)))) ∧
  (∀ (t hub : Nat) (s : State),
      (hub < 2 ∧ (getPtn (advance t s) hub).ok = true ∧ (getPtn (advance t s) hub).heard + 300000 ≤ (advance t s).clk) → 
      exec (.partnerLost t hub) s = .next (settle (ptnLost hub (advance t s)))) ∧
  (∀ (t id : Nat) (same : Bool) (d : Desc) (s : State),
      (mirrorRemoves s id = false ∧ ScionServes s ∧ Starts (advance t s) id 0x1B d) → (mirrorAddCheck same (advance t s) d = none) → 
      exec (.mirrorCfgAdd t id same) s = .next (settle ((rangeHubs (startDesc id (advance t s)) d).foldl (fun s h => placeRange h { part := d.mirPart, st := 1, granules := d.mirCount, gran := d.mirGran, desc := some d.id } s) (startDesc id (advance t s))))) ∧
  (∀ (t id : Nat) (d : Desc) (s : State),
      (mirrorRemoves s id = true ∧ ScionServes s ∧ Starts (advance t s) id 0x1B d) → 
      let gone := fun r : MirRange => r.part = d.mirPart && r.gran = d.mirGran && r.granules = d.mirCount; exec (.mirrorCfgRemove t id) s = .next (settle (finishOk d.id ([0, 1].foldl (fun s h => modPtn h (fun x => { x with ranges := x.ranges.filter fun e => !gone e.2 }) s) (startDesc id (advance t s)))))) ∧
  (∀ (t id : Nat) (d : Desc) (s : State),
      (findDesc (advance t s) id = some d) → (waitingPorts (advance t s) id = [0] ∧ portRuns (advance t s) 0 = true) → (fld (advance t s) (ptnBase 0 + 4) 1 1 = 1 ∧ d.fn = 0) → 
      let u := modPtn 0 (fun x => { x with ranges := x.ranges.map fun e => if e.2.desc = some id then (e.1, { e.2 with st := 2, desc := none }) else e }) (advance t s); exec (.rangeInSync t id) s = .next (settle (finishOk id (eventFor d.mirPart 0 0x0E02 [.id1 0, .id1 d.mirPart, .loc8 d.mirAddr] u)))) ∧
  (∀ (t hub : Nat) (it : PtnItem) (rest : List PtnItem) (tagOk : Bool) (s : State),
      (hub < 2 ∧ portRuns (advance t s) hub = true) → ((getPtn (advance t s) hub).queue = it :: rest) → 
      exec (.partnerMirrorApply t hub none tagOk) s = .next (sendFront hub it rest (advance t s))) ∧
  (∀ (t hub : Nat) (k : PtnPkt) (s : State),
      (hub < 2 ∧ portRuns (advance t s) hub = true ∧ (advance t s).inj.busy = none) → 
      exec (.partnerMirrorApply t hub (some k) false) s = .next (withRoutes (startTraining (8 + hub) false true true) (event hub 0x0A09 [.id1 hub] (modPtn hub (fun x => { x with badTags := x.badTags + 1 }) (advance t s)))))

/-- SAFETY_CFG that passes Table 14.2 on an island outside the safe state restarts the stream with the configuration
given; the oldest record on its way is taken by its island; records that waited too long get UNMATCHED; a deadline
within miss_limit only counts and moves on by the period; a STALE notice is taken in order; a completed swatch whose
status is OK and whose digest is as expected clears the due state and counts. (spec/14_safety.md R400,
spec/14_safety.md R401, spec/14_safety.md R407, spec/14_safety.md R408, spec/14_safety.md R410, spec/14_safety.md
R421, spec/14_safety.md R406) -/
def Obligations.IslandsJudgeRecords : Prop :=
  (∀ (t id : Nat) (prog : List Byte) (d : Desc) (s : State),
      (ScionServes s ∧ Starts (advance t s) id 0x15 d) → (safetyCheck prog (advance t s) d = none ∧ d.u 10 1 = 0) → ((getIsl (startDesc id (advance t s)) (d.u 8 1)).st ≠ .safe) → 
      exec (.safetyCfg t id prog) s = .next (settle (finishOk d.id (applyCfg (d.u 8 1) (d.u 9 1) (some (safetyCfg prog d)) (startDesc id (advance t s)))))) ∧
  (∀ (t isl : Nat) (r : ResRec) (s : State),
      ((advance t s).records.find? (·.island = isl) = some r) → ((getIsl (advance t s) isl).noClock = false) → 
      exec (.resultRecord t isl) s = .next (settle (receiveRecord isl r { (advance t s) with records := (advance t s).records.erase r }))) ∧
  (∀ (t isl n : Nat) (s : State),
      (islRuns (advance t s) isl = true) → 
      let c := (getSs (advance t s) isl n).cfg; let now := hubTime (advance t s) isl; exec (.unmatchedExpiry t isl n) s = .next (((getSs (advance t s) isl n).waiting.filter (c.tired now)).foldl (fun s w => unmatched isl n w s) (modSs isl n (fun x => { x with waiting := x.waiting.filter fun w => !x.cfg.tired now w }) (advance t s)))) ∧
  (∀ (t isl n : Nat) (s u : State),
      (islRuns (advance t s) isl = true ∧ (getSs (advance t s) isl n).st ≠ .off) → ((getSs (advance t s) isl n).cfg.period ≠ 0 ∧ (getSs (advance t s) isl n).deadline ≤ hubTime (advance t s) isl) → (u = modSs isl n (fun x => { x with misses := x.misses + 1, nMiss := satAdd 16 x.nMiss 1, deadline := x.deadline + x.cfg.period * 1000 }) (advance t s)) → ((getSs u isl n).misses ≤ missLimit (getSs (advance t s) isl n).cfg.prog) → 
      exec (.resultDeadline t isl n) s = .next u) ∧
  (∀ (t isl h k : Nat) (stale inj : Bool) (r : List (Nat × Nat × Bool × Bool)) (s : State),
      ((getIsl (advance t s) isl).inbox = (h, k, stale, inj) :: r) → ((getIsl (advance t s) isl).noClock = false ∧ (getIsl (advance t s) isl).strs = []) → 
      let others := (getIsl (advance t s) isl).staleAll.filter (· ≠ (h, k)); exec (.staleNotice t isl) s = .next (modIsl isl (fun x => { x with inbox := r, staleAll := if stale then others ++ [(h, k)] else others }) (advance t s))) ∧
  (∀ (t isl n ch : Nat) (s : State),
      (((getSs (advance t s) isl n).sw ch).result = some (0, (((getSs (advance t s) isl n).sw ch).data.drop 32).take 32)) → 
      exec (.swatchDone t isl n ch) s = .next (restore isl 0x20 (swSubject n ch) (modSs isl n (fun x => { x with runs := satAdd 16 x.runs 1 }) (modSw isl n ch (fun _ => {}) (advance t s)))))

/-- A lock-step error, an input disagreement and a clock deviation above 1 percent are detections of causes 0x01, 0x01 and
0x03; a heartbeat reaches the other island; three missing ones are an ISL_LINK detection with event 0x0B0D; a notice
is taken in order; a release whose comparator test passes begins start-up, which ends in RUN with both pins driven
once SEC runs; a restart keeps the configurations and records event 0x0B0A. (spec/14_safety.md R391, spec/14_safety.md
R395, spec/14_safety.md R396, spec/14_safety.md R397, spec/14_safety.md R398, spec/14_safety.md R399,
spec/14_safety.md R415, spec/14_safety.md R392) -/
def Obligations.IslandsWatchTheirOwnHardware : Prop :=
  (∀ (t isl : Nat) (s : State),
      (islAlive (advance t s) isl = true ∧ (advance t s).inj.busy = none) → 
      exec (.lockstepError t isl) s = .next (detect isl 0x01 0x7F false (advance t s))) ∧
  (∀ (t isl : Nat) (s : State),
      (islAlive (advance t s) isl = true ∧ (advance t s).inj.busy = none) → 
      exec (.inputDisagreement t isl) s = .next (detect isl 0x01 0x7F false (advance t s))) ∧
  (∀ (t isl ppm other : Nat) (s : State),
      (islAlive (advance t s) isl = true ∧ (advance t s).inj.busy = none) → 
      exec (.clockCheck t isl ppm other) s = .next (if 10000 < ppm ∨ 10000 < other then detect isl 0x03 0x7F false (advance t s) else (advance t s))) ∧
  (∀ (t isl : Nat) (s : State),
      (islAlive (advance t s) isl = true ∧ (advance t s).inj.busy = none) → ((getIsl (advance t s) isl).beat + 50000 ≤ (advance t s).clk) → 
      exec (.islandHeartbeat t isl true) s = .next (modIsl (1 - isl) (fun x => { x with heard := (advance t s).clk }) (modIsl isl (fun x => { x with beat := (advance t s).clk }) (advance t s)))) ∧
  (∀ (t isl : Nat) (s : State),
      (islAlive (advance t s) isl = true ∧ (advance t s).inj.busy = none ∧ (getIsl (advance t s) isl).st ≠ .startup) → ((getIsl (advance t s) isl).heard + 150000 ≤ (advance t s).clk) → 
      exec (.islLinkLoss t isl) s = .next (detect isl 0x04 0x7F false (event isl 0x0B0D [.id1 isl] (islErr isl 2 (modIsl isl (fun x => { x with heard := (advance t s).clk }) (advance t s)))))) ∧
  (∀ (t isl m : Nat) (r : List Nat) (s : State),
      ((getIsl (advance t s) isl).mail = m :: r) → 
      let u := modIsl isl (fun x => { x with mail := r }) (advance t s); exec (.islandLinkMessage t isl true) s = .next (if m = 1 then modIsl isl (fun x => { x with notices := x.notices + 1 }) u else detect isl 0x06 0x7F false u)) ∧
  (∀ (t isl : Nat) (s : State),
      ((getIsl (advance t s) isl).st = .reset) → 
      exec (.islandResetRelease t isl true) s = .next (modIsl isl (fun x => { x with st := if x.otpSplit then .split else .startup, faultHigh := false, alive := false, cmpOk := true, halted := false, noClock := false, cause := 0, causeStr := 0x7F, injected := false, decision := 0, later := 0 }) (advance t s))) ∧
  (∀ (t isl : Nat) (s : State),
      ((getIsl (advance t s) isl).st = .startup ∧ (getIsl (advance t s) isl).cmpOk = true ∧ (getIsl (advance t s) isl).noClock = false ∧ (advance t s).sec.stage = 2) → 
      exec (.islandRun t isl) s = .next (modIsl isl (fun x => { x with st := .run, faultHigh := true, alive := true, heard := (advance t s).clk, beat := (advance t s).clk, lastTest := (advance t s).clk, canLast := (advance t s).clk, strs := x.strs.map fun e => (e.1, if e.2.st = .off then e.2 else { e.2 with deadline := deadlineFrom (advance t s) isl e.2.cfg }) }) (advance t s))) ∧
  (∀ (t isl : Nat) (acc : Agent) (s : State),
      (writeReaches (advance t s) acc (safReg isl 0x14) = true ∧ (getIsl (advance t s) isl).st ≠ .reset) → 
      let x := getIsl (advance t s) isl; let u := modIsl isl (fun x => { x with restarts := satAdd 16 x.restarts 1, degraded := x.degraded.filter (·.1 ≠ 0x20) }) (event isl 0x0B0A [.id1 isl, .code1 x.cause] (advance t s)); exec (.islandRestart t isl acc true) s = .next (startIsland isl true (x.strs.foldl (fun s e => restartStream isl e.1 s) u)))

/-- A debug halt enters the safe state with cause DEBUG, and a resume leaves that state as it is; PLL unlock stops ALIVE
and drives FAULT low; an assertion of the reset pin resets the island but keeps its OTP word and its count of
restarts; a frame is sent every 10 ms; bus-off records event 0x0B0B and only the recovery clears it; a received frame
changes nothing. (spec/14_safety.md R390, spec/14_safety.md R394, spec/14_safety.md R396, spec/14_safety.md R416,
spec/14_safety.md R417) -/
def Obligations.IslandsHaltResetAndSendFrames : Prop :=
  (∀ (t isl : Nat) (s : State),
      (1 ≤ (advance t s).sec.debug ∧ islAlive (advance t s) isl = true) → 
      exec (.islandDebugHalt t isl) s = .next (modIsl isl (fun x => { x with halted := true }) (detect isl 0x16 0x7F false (advance t s)))) ∧
  (∀ (t isl : Nat) (step : Bool) (s : State),
      (1 ≤ (advance t s).sec.debug) → 
      exec (.islandDebugResume t isl step) s = .next (modIsl isl (fun x => { x with halted := x.halted && step }) (advance t s))) ∧
  (∀ (t isl : Nat) (s : State),
      exec (.islandPllUnlock t isl) s = .next (modIsl isl (fun x => { x with noClock := true, faultHigh := false, alive := false }) (advance t s))) ∧
  (∀ (t isl : Nat) (s : State),
      exec (.islandResetAssert t isl) s = .next (modIsl isl (fun x => { otpSplit := x.otpSplit, restarts := x.restarts, staleAll := x.staleAll, inbox := x.inbox, rollLo := x.rollLo, rollHi := x.rollHi, scanLo := x.scanLo, scanHi := x.scanHi }) (resetRegs (safReg isl 0) 0x80000 (advance t s)))) ∧
  (∀ (t isl : Nat) (s : State),
      ((getIsl (advance t s) isl).st = .run ∨ (getIsl (advance t s) isl).st = .safe) → ((getIsl (advance t s) isl).canLast + 10000000 ≤ (advance t s).clk) → 
      exec (.canStatusFrame t isl) s = .next (canSend isl (advance t s))) ∧
  (∀ (t isl : Nat) (s : State),
      (fld (advance t s) (safReg isl 0x20) 24 1 = 1 ∧ (getIsl (advance t s) isl).busOff = false) → 
      exec (.canBusoff t isl) s = .next (event isl 0x0B0B [.id1 isl] (islErr isl 1 (modIsl isl (fun x => { x with busOff := true }) (advance t s))))) ∧
  (∀ (t isl : Nat) (s : State),
      exec (.canBusoffRecovery t isl) s = .next (modIsl isl (fun x => { x with busOff := false, canErr := if x.busOff then 0 else x.canErr }) (advance t s))) ∧
  (∀ (t isl : Nat) (s : State),
      exec (.canReceive t isl) s = .next (advance t s))

/-- A quiet window opens at its time; the island's periodic test runs when due and all its RUN streams are quiet; a test
that is due starts on the oldest core; a core that passes 1.8 ms of scan is the die's spare; cores tested too long ago
degrade coverage; a fire that is armed and named in the index records event 0x0F01 and is busy, takes effect, and when
nothing detects it in time records event 0x0F02. (spec/14_safety.md R422, spec/14_safety.md R423, spec/14_safety.md
R425, spec/14_safety.md R427) -/
def Obligations.SelfTestsAndInjectionsRun : Prop :=
  (∀ (t isl n : Nat) (s : State),
      (islRuns (advance t s) isl = true ∧ (getSs (advance t s) isl n).st ≠ .off) → ((getSs (advance t s) isl n).quietFrom ≤ hubTime (advance t s) isl ∧ hubTime (advance t s) isl < (getSs (advance t s) isl n).quietTo) → 
      exec (.quietWindowOpen t isl n) s = .next (modSs isl n (fun x => { x with quiet := true }) (advance t s))) ∧
  (∀ (t isl : Nat) (s : State),
      (islRuns (advance t s) isl = true ∧ (getIsl (advance t s) isl).lastTest + 100000000 ≤ (advance t s).clk) → ((getIsl (advance t s) isl).strs.all (fun e => e.2.st ≠ .run || inQuiet (advance t s) isl e.1 120000) = true) → 
      exec (.islandPeriodicTest t isl false) s = .next (restore isl 0x21 islSubject (modIsl isl (fun x => { x with lastTest := (advance t s).clk, covered := x.covered.filter (· ≠ islSubject) }) (advance t s)))) ∧
  (∀ (t d n g sp : Nat) (s : State),
      (testInterval (advance t s) (d / 2) = some n ∧ nextTest (advance t s) d = some (g, sp)) → (islRuns (advance t s) (d / 2) = true ∧ dieUp (advance t s) d = true ∧ scanOf (advance t s) d = none ∧ moving (advance t s) g = false) → ((liveCores (advance t s) d).any (overdue (advance t s) (d / 2)) = true ∧ (advance t s).inj.busy = none) → 
      exec (.rollingTestStart t d) s = .next (settle (startTest g sp (modIsl (d / 2) (fun x => if d % 2 = 0 then { x with rollLo := (advance t s).clk } else { x with rollHi := (advance t s).clk }) (commit (safReg (d / 2) 0x24) (advance t s)))))) ∧
  (∀ (t g part began : Nat) (s : State),
      (scanOf (advance t s) (g / 32) = some (g, part, began) ∧ began + 1800000 ≤ (advance t s).clk ∧ (advance t s).inj.busy = none) → 
      let d := g / 32; let u := modCore g (fun k => { k.cleared with role := .free, lastTest := (advance t s).clk }) (clearScan d (advance t s)); exec (.scanTestDone t g true) s = .next (settle (changed (restore (d / 2) 0x21 g (modDie d (fun x => { x with spare := some (g % 32) }) (modIsl (d / 2) (fun x => { x with covered := x.covered.filter (· ≠ g) }) u)))))) ∧
  (∀ (t isl : Nat) (s : State),
      (islRuns (advance t s) isl = true) → ((islDies isl).flatMap (fun d => if dieUp (advance t s) d then (liveCores (advance t s) d).filter (overdue (advance t s) isl) else []) = []) → ((advance t s).clk ≤ (getIsl (advance t s) isl).lastTest + 200000000) → 
      exec (.coverageCheck t isl) s = .next (advance t s)) ∧
  (∀ (t isl g : Nat) (s : State),
      (islRuns (advance t s) isl = true) → ((islDies isl).flatMap (fun d => if dieUp (advance t s) d then (liveCores (advance t s) d).filter (overdue (advance t s) isl) else []) = [g]) → ((advance t s).clk ≤ (getIsl (coverCore isl g false (advance t s)) isl).lastTest + 200000000 ∧ (coverCore isl g false (advance t s)).clk = (advance t s).clk) → 
      exec (.coverageCheck t isl) s = .next (coverCore isl g false (advance t s))) ∧
  (∀ (t : Nat) (acc : Agent) (s : State),
      (writeReaches (advance t s) acc (injReg 0x18) = true) → (fld (advance t s) (injReg 4) 1 1 = 1 ∧ injKnown (fld (advance t s) (injReg 0x10) 0 16) (fld (advance t s) (injReg 0x10) 16 8) = true ∧ (advance t s).inj.busy = none) → 
      let pt := fld (advance t s) (injReg 0x10) 0 16; let inst := fld (advance t s) (injReg 0x10) 16 8; let arg := (regGet (advance t s) (injReg 0x14)).toNat; let u := commit (injReg 4) (advance t s); exec (.injFire t acc) s = .next (event 0 0x0F01 [.id2 pt, .id1 inst, .val4 arg] { u with inj := { busy := some { point := pt, inst, arg, fired := hubTime u 0, effect := none, left := 0 }, latency := 0, detected := false, rest := u.inj.rest } })) ∧
  (∀ (t : Nat) (i : Injection) (s : State),
      ((advance t s).inj.busy = some i ∧ i.effect = none) → 
      exec (.injectionEffect t) s = .next (injNow i.point i.inst { (advance t s) with inj := { (advance t s).inj with busy := some { i with effect := some (hubTime (advance t s) 0), left := injCount i.point i.arg } } })) ∧
  (∀ (t e : Nat) (i : Injection) (s : State),
      ((advance t s).inj.busy = some i ∧ i.effect = some e ∧ e + injTimeout (advance t s) ≤ hubTime (advance t s) 0) → 
      exec (.injectionTimeout t) s = .next (event 0 0x0F02 [.id2 i.point, .id1 i.inst] (injErr 1 i.point { (advance t s) with inj := { (advance t s).inj with busy := none, detected := false, rest := injAfter (advance t s) i } })))

/-- Before boot, BOOT_ROM reads the four images: all verified, it measures them and releases both hubs' scions, else event
0x0A01 and recovery; a hub with serving DRAM takes scion's copy where its digest is the measured one; in recovery a
chunk is taken in order; a heartbeat is heard; 15 ms without one restarts scion with event 0x0A03, and a third restart
within 60 s halts it with event 0x0A04; SPDM is answered once SEC runs; a token is used once and opens debug only
where it verifies; without debug the TAP refuses with event 0x0A07. (spec/15_security.md R431, spec/15_security.md
R432, spec/15_security.md R433, spec/15_security.md R437, spec/15_security.md R438, spec/15_security.md R439,
spec/15_security.md R451, spec/15_security.md R453) -/
def Obligations.SecurityBootsRecoversAndUnlocks : Prop :=
  (∀ (t : Nat) (flash : List Byte) (s u : State),
      ((advance t s).sec.stage = 0 ∧ u = { (advance t s) with pwr := { (advance t s).pwr with hn := (advance t s).pwr.hn ||| 33 } }) → 
      exec (.bootRom t flash) s = .next (match readBundle 4 0 flash u with | (.ok ds, v) => bootOn ds false v | (.error (k, r), v) => imageRefused k r { v with sec := { v.sec with stage := 3 } })) ∧
  (∀ (t h : Nat) (body : List Byte) (s : State),
      (h < 2 ∧ hubUp (advance t s) h = true ∧ (getScion (advance t s) h).started = true ∧ (getScion (advance t s) h).copied = false) → ((getDrc (advance t s) h).st = 2 ∧ sha3 body = (advance t s).sec.scionDigest) → 
      exec (.scionCopy t h body) s = .next (modScion h (fun x => { x with copied := true }) { (advance t s) with dram := putBytes (advance t s).dram (2 ^ 36 * h) (body.take (2 ^ 24)) })) ∧
  (∀ (t chunk : Nat) (acc : Agent) (last commits : Bool) (s : State),
      ((advance t s).sec.stage = 3 ∧ writeReaches (advance t s) acc 0x2500010 = true) → 
      exec (.recoveryChunk t acc chunk last commits) s = .next (takeChunk (chunk % 64) last commits (regSet 0x2500010 (BitVec.ofNat 32 (chunk % 64 + 64 * b2n last + 128 * b2n commits)) (advance t s)))) ∧
  (∀ (t h : Nat) (s : State),
      (h < 2 ∧ hubUp (advance t s) h = true ∧ (getScion (advance t s) h).started = true ∧ (getScion (advance t s) h).st ≠ 2 ∧ (advance t s).inj.busy = none) → 
      exec (.scionHeartbeat t h) s = .next (modScion h (fun x => { x with st := 0, beat := (advance t s).clk }) (advance t s))) ∧
  (∀ (t h : Nat) (flash : List Byte) (s : State),
      (h < 2 ∧ hubUp (advance t s) h = true ∧ (getScion (advance t s) h).started = true ∧ (getScion (advance t s) h).st = 0 ∧ (getScion (advance t s) h).copied = true) → ((getScion (advance t s) h).beat + 15000000 ≤ (advance t s).clk) → (((getScion (advance t s) h).restarts.filter fun r => (advance t s).clk < r + 60000000000).length < 2) → 
      let recent := ((getScion (advance t s) h).restarts.filter fun r => (advance t s).clk < r + 60000000000) ++ [(advance t s).clk]; exec (.scionWatchdog t h flash) s = .next (event h 0x0A03 [.id1 h, .val4 recent.length] (modScion h (fun x => { x with st := 1, restarts := recent }) { (advance t s) with sec := { (advance t s).sec with restarts := satAdd 8 (advance t s).sec.restarts 1 } }))) ∧
  (∀ (t : Nat) (req : SpdmReq) (s : State),
      ((advance t s).sec.stage = 2 ∧ (getPLink (advance t s) (advance t s).fuse.mpfLink).up = true) → 
      exec (.spdmRequest t req) s = .next (answerSpdm req (advance t s))) ∧
  (∀ (t level : Nat) (devid nonce key sig : List Byte) (s : State),
      ((advance t s).sec.stage = 2) → 
      exec (.debugToken t level devid nonce key sig) s = .next (if tokenOk (advance t s) level devid nonce key sig = true then openDebug level (Config.tokenBytes level devid nonce ++ sig) { (advance t s) with sec := { (advance t s).sec with nonces := (advance t s).sec.nonces.filter fun n => n.2 ≠ nonce } } else (advance t s))) ∧
  (∀ (t n : Nat) (s : State),
      ((advance t s).sec.debug = 0) → 
      exec (.tapAccess t (.instrument n)) s = .next (event 0 0x0A07 [.val4 n] (secErr 4 0 (advance t s)))) ∧
  (∀ (t n i : Nat) (v : Bool) (s : State),
      ((advance t s).sec.debug ≠ 0 ∧ i < 2) → 
      exec (.tapAccess t (.otpSplit n i v)) s = .next (modIsl i (fun x => { x with otpSplit := v }) (advance t s))) ∧
  (∀ (t n : Nat) (s : State),
      ((advance t s).sec.debug ≠ 0) → 
      exec (.tapAccess t (.instrument n)) s = .next (send (.tap (Config.tapAnswer n)) (advance t s)))

/-- A KEY_IMPORT with slot and kind in range is refused with its reason, or opens its payload and fills its slot, slot 0
waiting for the partition's cores; with the cores off the waiting import installs its policy; an ATTEST writes its
signed report to host memory and completes. (spec/15_security.md R440, spec/15_security.md R441, spec/15_security.md
R450) -/
def Obligations.KeysPoliciesAndReports : Prop :=
  (∀ (t id : Nat) (payload : List Byte) (d : Desc) (s : State),
      (Starts (advance t s) id 0x19 d ∧ d.u 8 1 ≤ 7 ∧ d.u 9 1 ≤ 1) → 
      exec (.keyImport t id payload) s = .next (settle (importBody payload d (startDesc id (advance t s))))) ∧
  (∀ (t id : Nat) (d : Desc) (body : List Byte) (s : State),
      (findDesc (advance t s) id = some d ∧ (getPart (advance t s) d.part).sec.importing = some (id, body) ∧ importQuiet (advance t s) d.part = true) → 
      exec (.policyInstall t id) s = .next (settle (installPolicy d body (advance t s)))) ∧
  (∀ (t id : Nat) (d : Desc) (s : State),
      (Starts (advance t s) id 0x1A d ∧ attestCheck (advance t s) d = none ∧ (getPLink (startDesc id (advance t s)) (fnLink (startDesc id (advance t s)) d.fn)).up = true) → 
      let u := startDesc id (advance t s); exec (.attest t id) s = .next (settle (finishOk d.id (hostWrite (d.u 16 8) (attestHead u d ++ fit 2420 (Config.dsaSign (aliasSeed u) (attestHead u d))) u))))

/-- A cursor write that reaches loads the addressed record into the accessor's window, with no record in a slot above
1,279; clear_circulating empties slots 256 to 1,279 and records event 0x0C04; clear_kept empties slots 0 to 255 from
the PF, and is refused from scion's window; losing VDD_AON empties the store. (spec/16_reproducibility.md R465,
spec/16_reproducibility.md R471, spec/16_reproducibility.md R472) -/
def Obligations.TheEventStoreIsReadAndCleared : Prop :=
  (∀ (t : Nat) (val : Word) (s : State),
      (writeReaches (advance t s) .pf 0x2700100 = true ∧ (advance t s).inj.busy = none ∧ val.toNat % 2048 ∉ (advance t s).evr.badSlots) → 
      let i := val.toNat % 2048; exec (.evrCursorLoad t .pf val false) s = .next { (advance t s) with evr := { (advance t s).evr with pfCur := { index := i, win := if i < 1280 then tabGet dEv (advance t s).evr.slots i else {}, ecc := false, empty := 1280 ≤ i || (tabGet dEv (advance t s).evr.slots i).code = 0 } } }) ∧
  (∀ (t : Nat) (s : State),
      (writeReaches (advance t s) .pf 0x2700018 = true) → 
      exec (.clearCirculating t .pf) s = .next (event 0 0x0C04 [.code1 1, .id1 0] { (advance t s) with evr := { (advance t s).evr with slots := tabErase (advance t s).evr.slots 256 1024, badSlots := (advance t s).evr.badSlots.filter fun k => k < 256 || 256 + 1024 ≤ k } })) ∧
  (∀ (t : Nat) (s : State),
      (writeReaches (advance t s) .pf 0x2700018 = true) → 
      exec (.clearKept t .pf) s = .next (event 0 0x0C04 [.code1 2, .id1 0] { (advance t s) with evr := { emptySlots 0 256 (advance t s).evr with kept := 0, keptFull := false } })) ∧
  (∀ (t h : Nat) (s : State),
      (writeReaches (advance t s) (.scion h) 0x2700018 = true) → 
      exec (.clearKept t (.scion h)) s = .next (fldSet 0x2700010 3 1 1 (advance t s))) ∧
  (∀ (t : Nat) (s : State),
      exec (.vddAonLoss t) s = .next { (advance t s) with evr := { (advance t s).evr with slots := [], head := 0, kept := 0, keptFull := false, badSlots := [] }, pwr := { (advance t s).pwr with life := [], lifeLost := true } })

/-- A mode that may be entered becomes the target and its change begins; one that may not sets PWR_ERR.mode_refused and
records event 0x0D07; once its time is over the change is made, and event 0x0D07 is recorded; in RUN an idle quadrant
of an UP die is gated or ungated; a released PERST pin of a part in STANDBY leads it to HUBS.
(spec/17_power_clocks_reset.md R475, spec/17_power_clocks_reset.md R476, spec/17_power_clocks_reset.md R478) -/
def Obligations.PowerModesAndQuadrantsChange : Prop :=
  (∀ (t req : Nat) (acc : Agent) (s : State),
      (writeReaches (advance t s) acc 0x280000C = true ∧ (advance t s).pwr.target = none) → ((fldSet 0x280000C 0 2 (req % 4) (advance t s)).pwr.mode ≠ req % 4 ∧ modeOk (fldSet 0x280000C 0 2 (req % 4) (advance t s)) (req % 4) = true ∧ req % 4 ≠ 1) → 
      exec (.modeRequest t acc req) s = .next (settle { fldSet 0x280000C 0 2 (req % 4) (advance t s) with pwr := { (advance t s).pwr with target := some (req % 4, (advance t s).clk) } })) ∧
  (∀ (t req : Nat) (acc : Agent) (s : State),
      (writeReaches (advance t s) acc 0x280000C = true ∧ (advance t s).pwr.target = none) → ((fldSet 0x280000C 0 2 (req % 4) (advance t s)).pwr.mode ≠ req % 4 ∧ modeOk (fldSet 0x280000C 0 2 (req % 4) (advance t s)) (req % 4) = false) → 
      let u := fldSet 0x280000C 0 2 (req % 4) (advance t s); exec (.modeRequest t acc req) s = .next (event 0 0x0D07 [.code1 u.pwr.mode, .code1 (req % 4), .code1 1] (pwrErr 3 u))) ∧
  (∀ (t m began : Nat) (saved : Bool) (s : State),
      ((advance t s).pwr.target = some (m, began) ∧ began + modeNs m ≤ (advance t s).clk ∧ m ≠ 1) → 
      exec (.modeChangeDone t saved) s = .next (changeMode m saved (advance t s))) ∧
  (∀ (t hub : Nat) (s : State),
      (hub < 2 ∧ tabGet dBool (advance t s).pwr.perst hub = true) → 
      exec (.standbyExit t hub) s = .next (if (setPerst hub false (advance t s)).pwr.mode = 3 then leaveStandby (setPerst hub false (advance t s)) else setPerst hub false (advance t s))) ∧
  (∀ (t d q : Nat) (s : State),
      (d < 4 ∧ q < 4 ∧ (advance t s).pwr.mode = 0 ∧ (getDie (advance t s) d).st = .up) → 
      exec (.quadrantGate t d q) s = .next (settle (gateQuad d q (advance t s)))) ∧
  (∀ (t d q : Nat) (s : State),
      (d < 4 ∧ q < 4 ∧ (advance t s).pwr.mode = 0 ∧ meshOn (advance t s) d = true ∧ (getDie (advance t s) d).st = .up) → 
      exec (.quadrantUngate t d q) s = .next (settle (ungateQuad d q (advance t s))))

/-- A sample of the cap loop commits the settings and steps the die it picks; a die that waits for its voltage goes to its
point; a current above 150 A halves the die's clock and records event 0x0D0B once, and one that has stayed below 125 A
for 100 microseconds ends that; a sensor's sample enters the thermal loop, a faulty sensor's as 125 degrees; a coolant
sample that keeps the row only stores its values; a rail fault records event 0x0D05, gates its die or resets its hub;
ageing is measured every 24 hours and hours are counted and saved. (spec/17_power_clocks_reset.md R480,
spec/17_power_clocks_reset.md R481, spec/17_power_clocks_reset.md R482, spec/17_power_clocks_reset.md R483,
spec/17_power_clocks_reset.md R484, spec/17_power_clocks_reset.md R485, spec/17_power_clocks_reset.md R486,
spec/17_power_clocks_reset.md R487, spec/17_power_clocks_reset.md R488, spec/17_power_clocks_reset.md R493,
spec/17_power_clocks_reset.md R494) -/
def Obligations.PowerFollowsCapHeatAndRails : Prop :=
  (∀ (t rest : Nat) (w : List Nat) (s : State),
      exec (.capTick t w rest) s = .next (dvfs (capTick w rest (advance t s)))) ∧
  (∀ (t d : Nat) (s : State),
      (d < 4 ∧ (getPD (advance t s) d).raising.isSome = true) → 
      exec (.voltageReached t d) s = .next (modPD d (fun x => { x with point := targetPoint (advance t s) d, raising := none }) (advance t s))) ∧
  (∀ (t d amps : Nat) (s : State),
      (d < 4 ∧ 150 < amps ∧ (getPD (advance t s) d).halved = false) → 
      let u := takeFree (modPD d (fun x => { x with halved := true, calmSince := none }) (advance t s)); exec (.currentCheck t d amps) s = .next (event (2 + d) 0x0D0B [.id1 d, .val4 u.1] u.2)) ∧
  (∀ (t d amps : Nat) (s : State),
      (d < 4 ∧ amps < 125 ∧ (getPD (advance t s) d).halved = false) → 
      exec (.currentCheck t d amps) s = .next (modPD d (fun x => { x with calmSince := some (match (getPD (advance t s) d).calmSince with | some b => b | none => (advance t s).clk) }) (advance t s))) ∧
  (∀ (t sensor : Nat) (temp : Int) (bad_ : Bool) (s u : State),
      (sensor < 56 ∧ (advance t s).inj.busy = none) → (u = { (advance t s) with pwr := { (advance t s).pwr with temps := tabSet (fun _ => ((0 : Int), false)) (advance t s).pwr.temps sensor (if bad_ then 125 * 16 else temp, bad_) } }) → 
      exec (.thermalSample t sensor temp bad_) s = .next (settle (dvfs (thermalStep (loopOf sensor) (countCycle u))))) ∧
  (∀ (t h pulses : Nat) (inlet outlet : Int) (s u : State),
      (h < 2 ∧ (advance t s).inj.busy = none ∧ pulses ≠ 0) → (u = { (advance t s) with pwr := { (advance t s).pwr with cools := tabSet dCool (advance t s).pwr.cools h { inlet, outlet, flow := min 4095 (pulses * 6000 / max 1 (eff (advance t s) (0x2800204 + 16 * h) 0 16)), inBad := false, outBad := false, pulse := (advance t s).clk } } }) → (coolRow u = (advance t s).pwr.row) → 
      exec (.coolantCheck t h inlet outlet false false pulses) s = .next u) ∧
  (∀ (t rail mv : Nat) (s : State),
      (rail < 4 ∧ (advance t s).inj.busy = none ∧ neverUp (event 0 0x0D05 [.id1 rail, .val4 mv] (pwrErr 2 (advance t s))) rail = false) → 
      exec (.railFault t rail mv) s = .next (settle (fenceAndGate rail true (event 0 0x0D05 [.id1 rail, .val4 mv] (pwrErr 2 (advance t s)))))) ∧
  (∀ (t x : Nat) (slows : List Nat) (s u : State),
      (x < 6 ∧ (tabGet dAge (advance t s).pwr.ages x).at_ = none) → (∀ y ∈ slows, y < 30) → (u = { (advance t s) with pwr := { (advance t s).pwr with ages := tabSet dAge (advance t s).pwr.ages x { slow := max (tabGet dAge (advance t s).pwr.ages x).slow (min 1023 (slows.getD ((List.range (if x < 4 then 4 else 2)).foldl (fun b i => if slows.getD b 0 < slows.getD i 0 then i else b) 0) 0)), steps := (tabGet dAge (advance t s).pwr.ages x).steps, at_ := some (advance t s).clk } } }) → 
      exec (.ageingMeasure t x slows) s = .next (if x < 4 then dvfs (modPD x (fun d => { d with guard := max d.guard (tabGet dAge (advance t s).pwr.ages x).steps }) u) else u)) ∧
  (∀ (t n : Nat) (s u : State),
      (n = ((advance t s).clk - (advance t s).pwr.saved) / 3600000000000 ∧ n ≠ 0) → (u = countHours n { (advance t s) with pwr := { (advance t s).pwr with saved := (advance t s).pwr.saved + 3600000000000 * n } }) → 
      exec (.lifetimeSave t true) s = .next (send (.flash ((List.range 8).flatMap fun i => toBytes 4 (tabGet dNat u.pwr.life i))) { u with pwr := { u.pwr with flash := u.pwr.life } }))

/-- HUB_RESET and a hub's own reset reset the hub's side with what follows for its partitions; a hub that returns is
powered, runs scion and has its memory trained; PORST gives the state of reset but for fuses and OTP, the event store,
the lifetime counters, DRAM cells, host memory and the pins; a management-cluster access to memory no partition owns
is made, one to an absent address is a bus error with event 0x1001, and one to a register is the register command.
(spec/01_package.md R31, spec/03_partitions.md R118, spec/12_memory.md R344, spec/13_links.md R383,
spec/17_power_clocks_reset.md R490) -/
def Obligations.HubsAndTheWholePartReset : Prop :=
  (∀ (t hub : Nat) (s : State),
      (hub < 2 ∧ hubUp (advance t s) hub = true) → 
      exec (.hubDieReset t hub) s = .next (hubReset hub (advance t s))) ∧
  (∀ (t hub : Nat) (acc : Agent) (s : State),
      (hub < 2 ∧ writeReaches (advance t s) acc 0x2800014 = true ∧ hubUp (fldSet 0x2800014 1 1 hub (advance t s)) hub = true) → 
      exec (.hubReset t acc hub) s = .next (hubReset hub (fldSet 0x2800014 1 1 hub (advance t s)))) ∧
  (∀ (t hub : Nat) (s : State),
      (hub < 2 ∧ (getHub (advance t s) hub).up = false ∧ (advance t s).sec.stage = 2) → 
      exec (.hubReturn t hub) s = .next (hubReturn hub (advance t s))) ∧
  (∀ (t : Nat) (s : State),
      ∃ u, exec (.porst t) s = .next u ∧ u = porst (advance t s) ∧ u.clk = 0 ∧ u.dies = [] ∧ u.hubs = [] ∧ u.hif = {} ∧ u.prt = {} ∧ u.cores = [] ∧ u.links = [] ∧ u.drc = [] ∧ u.inj = {} ∧ u.sec.stage = 0 ∧ u.fuse = s.fuse ∧ u.evr.slots = s.evr.slots ∧ u.dram = s.dram ∧ u.hostMem = s.hostMem) ∧
  (∀ (t hub core addr len h : Nat) (data : List Byte) (s : State),
      (hub < 2 ∧ core < 4 ∧ len ≠ 0 ∧ len ≤ 64 ∧ hubUp (advance t s) hub = true) → (devSpace (advance t s) (addr + len - 1) ≠ .absent ∧ devSpace (advance t s) addr = .dram h) → 
      exec (.managementClusterAccess t hub core addr false len data) s = .next (clusterDram hub core h addr false len data (advance t s))) ∧
  (∀ (t hub core addr len : Nat) (data : List Byte) (s : State),
      (hub < 2 ∧ core < 4 ∧ len ≠ 0 ∧ len ≤ 64 ∧ hubUp (advance t s) hub = true) → (devSpace (advance t s) (addr + len - 1) = .absent) → 
      exec (.managementClusterAccess t hub core addr false len data) s = .next (send (.busError hub core addr) (event hub 0x1001 [.id1 hub, .id1 core, .loc8 addr, .code1 1] (advance t s)))) ∧
  (∀ (t hub core addr len off : Nat) (data : List Byte) (s : State),
      (hub < 2 ∧ core < 4 ∧ hubUp (advance t s) hub = true ∧ data.length = 4) → (devSpace (advance t s) (addr + 4 - 1) ≠ .absent ∧ devSpace (advance t s) addr = .reg off) → 
      exec (.managementClusterAccess t hub core addr true len data) s = .next (doRegisterWrite t (.scion hub) off (BitVec.ofNat 32 (ofBytes data)) (advance t s)))

/-- Every command answers a next state in every state: no command of the table ends in a fault or a refusal, whatever its
operands. A command whose condition does not hold is no event and only lets its time pass. (spec/01_package.md R35,
spec/02_host_rings.md R61, spec/05_isa.md R161) -/
def Obligations.EveryCommandAnswersANextState : Prop :=
  ∀ (c : Instr) (s : State),
      ∃ u, exec c s = .next u

/-- A step at a state whose queue has a command at its front is that command's effect on the state with the rest of the
queue; on an empty queue the part idles (the model's choice, log entry 1). No word spells a command, so a fetched word
changes nothing (log entry 2). (spec/00_scope.md R6) -/
def Obligations.AStepRunsTheFrontCommand : Prop :=
  (∀ (c : Instr) (r : List Instr) (s : State),
      step { s with pending := c :: r } = exec c { s with pending := r }) ∧
  (∀ (s : State),
      (s.pending = []) → 
      step s = .next s) ∧
  (∀ (s : State) (n w : Nat),
      decodeTableWord n w = none ∧ s.withFetchWord n w = s)

/-- After reset the memories and the granule maps are in canonical form and no granule is mapped by two partitions, no
command waits, nothing has been sent, and every register reads the reset value of its table. The reset values of
registers that the spec gives none are the model's own (log entry 5). (spec/00_scope.md R6, spec/01_package.md R31,
spec/03_partitions.md R88) -/
def Obligations.ResetIsSafe : Prop :=
  (Safe State.reset) ∧
  (State.reset.pending = [] ∧ State.reset.outbox = [] ∧ State.reset.clk = 0) ∧
  (∀ (off : Nat),
      regGet State.reset off = regDefault off ∧ effGet State.reset off = regDefault off)

/-- Whatever command a step runs, a safe state goes to a safe state: DRAM and host memory stay in canonical form, the
table of partitions and every granule map too, and no device granule comes to be mapped by two partitions.
(spec/01_package.md R31, spec/03_partitions.md R88, spec/03_partitions.md R89) -/
def Obligations.EveryStepKeepsTheStateSafe : Prop :=
  ∀ (s u : State),
      (Safe s ∧ step s = .next u) → 
      Safe u

/-- Whatever the command, the waiting commands and the fuses are as they were, what has been sent stays sent and in order,
and the count of free values drawn does not go back, so that no free value is drawn twice. The queue and the count are
the model's own fields (log entries 1 and 4). (spec/02_host_rings.md R43, spec/02_host_rings.md R59) -/
def Obligations.CommandsKeepTheQueueTheFusesAndWhatWasSent : Prop :=
  ∀ (c : Instr) (s u : State),
      (exec c s = .next u) → 
      u.pending = s.pending ∧ u.fuse = s.fuse ∧ s.outbox <+: u.outbox ∧ s.frees ≤ u.frees

/-- No command but PORST takes the time of the part back; PORST begins it anew at 0. (spec/00_scope.md R4) -/
def Obligations.TimeNeverGoesBackButAtPorst : Prop :=
  (∀ (c : Instr) (s u : State),
      ((∀ t, c ≠ .porst t) ∧ exec c s = .next u) → 
      s.clk ≤ u.clk) ∧
  (∀ (t : Nat) (s : State),
      ∃ u, exec (.porst t) s = .next u ∧ u.clk = 0)

/-- From every state, n steps with at least n commands waiting end in a next state whose queue is the old one without its
first n commands; no step stops. (spec/00_scope.md R6) -/
def Obligations.StepsTakeCommandsInOrder : Prop :=
  ∀ (n : Nat) (s : State),
      (n ≤ s.pending.length) → 
      ∃ u : State, Host.Core.run Sys2Proof.core n s = .next u ∧ u.pending = s.pending.drop n

/-- A write of partition memory leaves every byte of DRAM outside the bytes its pieces are stored in as it was, and host
memory, the partitions, their maps and the cores; a read leaves them all. (spec/01_package.md R31,
spec/03_partitions.md R88, spec/12_memory.md R342) -/
def Obligations.WritesStayInTheirRange : Prop :=
  (∀ (p a x : Nat) (bs : List Byte) (who : Requester) (s : State),
      (memOk s = true ∧ ¬ storedIn s p a bs.length x) → 
      tabGet dByte (writePart p a bs who s).2.dram x = tabGet dByte s.dram x) ∧
  (∀ (p a : Nat) (bs : List Byte) (who : Requester) (s : State),
      (memOk s = true) → 
      (writePart p a bs who s).2.hostMem = s.hostMem ∧ (writePart p a bs who s).2.prt = s.prt ∧ (writePart p a bs who s).2.cores = s.cores) ∧
  (∀ (p a n : Nat) (who : Requester) (s : State),
      (readPart p a n who s).2.dram = s.dram ∧ (readPart p a n who s).2.hostMem = s.hostMem ∧ (readPart p a n who s).2.prt = s.prt)

/-- In a safe state a write through one partition's address space leaves every byte that another partition's address space
shows, at every address and length, as it was. (spec/01_package.md R31, spec/03_partitions.md R88) -/
def Obligations.PartitionsCannotWriteEachOther : Prop :=
  ∀ (p q a b n : Nat) (bs : List Byte) (who : Requester) (s : State),
      (Safe s ∧ p ≠ q) → 
      peek (writePart p a bs who s).2 q b n = peek s q b n

/-- A write of partition memory that meets no error, in a partition that maps no device granule twice, leaves the bytes
written where they were written: the same range then shows them, whatever granules it crosses. (spec/03_partitions.md
R88, spec/12_memory.md R342) -/
def Obligations.WhatIsWrittenReadsBack : Prop :=
  ∀ (p a : Nat) (bs : List Byte) (who : Requester) (s : State),
      (memOk s = true ∧ mapsOnce s p) → ((writePart p a bs who s).1 = none) → 
      peek (writePart p a bs who s).2 p a bs.length = bs

/-- While the hub's memory is not held, a write of a whole aligned 64-byte line meets no error whatever the state of the
line, records nothing, leaves the line sound, also in a dropped eighth, and leaves the bytes written in it.
(spec/12_memory.md R342, spec/12_memory.md R359) -/
def Obligations.AFullLineWriteHeals : Prop :=
  ∀ (dev : Nat) (bs : List Byte) (who : Requester) (s : State),
      (memOk s = true ∧ tabWf dLine s.lines = true ∧ dev % 64 = 0 ∧ bs.length = 64 ∧ (getDrc s (devHub dev)).held = false) → 
      (writeDev dev bs who s).1 = none ∧ lineState (writeDev dev bs who s).2 (dev / 64) = 0 ∧ getBytes (writeDev dev bs who s).2.dram dev 64 = bs ∧ (writeDev dev bs who s).2.evr = s.evr

/-- LOOP with a count of 0 skips its body and pushes nothing; LOOP on 16 entries faults with cause 0x04; below that it
pushes start, end and count. ENDL on an empty stack or at another pc than its top's end faults with cause 0x04; else
it counts one pass off and goes back to the start, or drops the entry after the last. A 33rd CALL and a RET on an
empty stack fault with cause 0x04. A branch leaves the stacks as they are. (spec/05_isa.md R163) -/
def Obligations.LoopAndCallStacksOverflowAndUnderflow : Prop :=
  (∀ (g : Nat) (w : InstrWord) (s : State),
      (Issues s g 0x03 w ∧ (onlyBits w ([fImm, (111, 1)] ++ if flag w 0 then [fRa] else []) && wf w 116 6 = 0) = true) → ((if flag w 0 then ((getCore s g).getS (raOf w)).toNat else wf w 32 32) = 0 ∧ (getCore s g).pc < wf w 0 32) → 
      exec (.loopI g) s = .next (modCore g (fun c => { c with pc := wf w 0 32 + 1 }) s)) ∧
  (∀ (g : Nat) (w : InstrWord) (s : State),
      (Issues s g 0x03 w ∧ (onlyBits w ([fImm, (111, 1)] ++ if flag w 0 then [fRa] else []) && wf w 116 6 = 0) = true) → ((if flag w 0 then ((getCore s g).getS (raOf w)).toNat else wf w 32 32) ≠ 0 ∧ (getCore s g).pc < wf w 0 32 ∧ (getCore s g).loops.length = 16) → 
      exec (.loopI g) s = .next (settle (coreFault g 0x04 0 0 s))) ∧
  (∀ (g n : Nat) (w : InstrWord) (s : State),
      (Issues s g 0x03 w ∧ (onlyBits w ([fImm, (111, 1)] ++ if flag w 0 then [fRa] else []) && wf w 116 6 = 0) = true) → (n = (if flag w 0 then ((getCore s g).getS (raOf w)).toNat else wf w 32 32) ∧ n ≠ 0 ∧ (getCore s g).pc < wf w 0 32 ∧ (getCore s g).loops.length < 16) → 
      exec (.loopI g) s = .next (modCore g (fun c => { c with loops := { start := c.pc + 1, stop := wf w 0 32, left := n } :: c.loops, pc := c.pc + 1 }) s)) ∧
  (∀ (g : Nat) (w : InstrWord) (s : State),
      (Issues s g 0x04 w ∧ (onlyBits w [fImm] && wf w 116 6 = 0) = true) → (∀ l r, (getCore s g).loops = l :: r → l.stop ≠ (getCore s g).pc) → 
      exec (.endlI g) s = .next (settle (coreFault g 0x04 0 0 s))) ∧
  (∀ (g : Nat) (w : InstrWord) (l : LoopEnt) (r : List LoopEnt) (s : State),
      (Issues s g 0x04 w ∧ (onlyBits w [fImm] && wf w 116 6 = 0) = true) → ((getCore s g).loops = l :: r ∧ l.stop = (getCore s g).pc) → 
      exec (.endlI g) s = .next (modCore g (fun c => if l.left = 1 then { c with loops := r, pc := c.pc + 1 } else { c with loops := { l with left := l.left - 1 } :: r, pc := l.start }) s)) ∧
  (∀ (g : Nat) (w : InstrWord) (s : State),
      (Issues s g 0x05 w ∧ onlyBits w [(0, 32)] = true ∧ (getCore s g).calls.length = 32) → 
      exec (.callI g) s = .next (settle (coreFault g 0x04 0 0 s))) ∧
  (∀ (g : Nat) (w : InstrWord) (s : State),
      (Issues s g 0x05 w ∧ onlyBits w [(0, 32)] = true ∧ wf w 0 32 < (getCore s g).count ∧ (getCore s g).calls.length < 32) → 
      exec (.callI g) s = .next (modCore g (fun c => { c with calls := (c.pc + 1) :: c.calls, pc := wf w 0 32 }) s)) ∧
  (∀ (g : Nat) (w : InstrWord) (s : State),
      (Issues s g 0x06 w ∧ onlyBits w [fImm] = true ∧ (getCore s g).calls = []) → 
      exec (.retI g) s = .next (settle (coreFault g 0x04 0 0 s))) ∧
  (∀ (g : Nat) (w : InstrWord) (s : State),
      (Issues s g 0x01 w ∧ onlyBits w [(0, 32)] = true ∧ wf w 0 32 < (getCore s g).count) → 
      exec (.br g) s = .next (modCore g (fun c => { c with pc := wf w 0 32 }) s))

/-- A doorbell of a ring of a present function: to a ring that is not ACTIVE it is discarded, db_ring_off is set and event
0x0202 recorded, whatever the value; to an ACTIVE ring with a value of 2^n or more it is discarded, db_range is set
and event 0x0201 recorded; else its value becomes the submission ring's tail, or the completion ring's head. A read
returns the device's copy. (spec/02_host_rings.md R49) -/
def Obligations.DoorbellsAreCheckedBeforeTheyAreTaken : Prop :=
  (∀ (t fn ring val : Nat) (s : State),
      (fn ≤ 32 ∧ ring < 4 ∧ hasRing fn ring = true ∧ fnPresent (advance t s) fn = true ∧ (getRing (advance t s) fn ring).st ≠ .active) → 
      exec (.sqDoorbell t fn ring val) s = .next (eventFor fn (fnHub (advance t s) fn) 0x0202 [.id1 fn, .id1 ring, .val4 val] (fnErr fn 1 ring (dropBell fn (advance t s))))) ∧
  (∀ (t fn ring val : Nat) (s : State),
      (fn ≤ 32 ∧ 4 ≤ ring ∧ hasRing fn ring = true ∧ fnPresent (advance t s) fn = true ∧ (getRing (advance t s) fn ring).st ≠ .active) → 
      exec (.cqDoorbell t fn ring val) s = .next (eventFor fn (fnHub (advance t s) fn) 0x0202 [.id1 fn, .id1 ring, .val4 val] (fnErr fn 1 ring (dropBell fn (advance t s))))) ∧
  (∀ (t fn ring val : Nat) (s : State),
      (fn ≤ 32 ∧ ring < 4 ∧ hasRing fn ring = true ∧ fnPresent (advance t s) fn = true ∧ (getRing (advance t s) fn ring).st = .active) → (ringSize (advance t s) fn ring ≤ val) → 
      exec (.sqDoorbell t fn ring val) s = .next (eventFor fn (fnHub (advance t s) fn) 0x0201 [.id1 fn, .id1 ring, .val4 val] (fnErr fn 0 ring (dropBell fn (advance t s))))) ∧
  (∀ (t fn ring val : Nat) (s : State),
      (fn ≤ 32 ∧ 4 ≤ ring ∧ hasRing fn ring = true ∧ fnPresent (advance t s) fn = true ∧ (getRing (advance t s) fn ring).st = .active) → (ringSize (advance t s) fn ring ≤ val) → 
      exec (.cqDoorbell t fn ring val) s = .next (eventFor fn (fnHub (advance t s) fn) 0x0201 [.id1 fn, .id1 ring, .val4 val] (fnErr fn 0 ring (dropBell fn (advance t s))))) ∧
  (∀ (t fn ring val : Nat) (s : State),
      (fn ≤ 32 ∧ ring < 4 ∧ hasRing fn ring = true ∧ fnPresent (advance t s) fn = true ∧ (getRing (advance t s) fn ring).st = .active) → (val < ringSize (advance t s) fn ring) → 
      exec (.sqDoorbell t fn ring val) s = .next (modRing fn ring (fun x => { x with bell := val }) (advance t s))) ∧
  (∀ (t fn ring val : Nat) (s : State),
      (fn ≤ 32 ∧ 4 ≤ ring ∧ hasRing fn ring = true ∧ fnPresent (advance t s) fn = true ∧ (getRing (advance t s) fn ring).st = .active) → (val < ringSize (advance t s) fn ring) → 
      let n := ringSize (advance t s) fn ring; let x := getRing (advance t s) fn ring; exec (.cqDoorbell t fn ring val) s = .next (drainHeld fn ring x.held.length (modRing fn ring (fun y => { y with bell := val, fill := y.fill - (val + n - x.bell) % n }) (advance t s)))) ∧
  (∀ (fn ring : Nat) (s : State),
      bellRead s fn ring = (getRing s fn ring).bell)

/-- The management PF's accesses to the two reserved ranges of BAR0 complete: a read answers zero and a write changes
nothing, and no bit of GLB_ERR is set; so do the accesses that reach a block at an offset no register table defines.
(spec/01_package.md R34) -/
def Obligations.UndefinedOffsetsReadZeroAndIgnoreWrites : Prop :=
  (∀ (off : Nat),
      blkOf off = none ↔ (0x300000 ≤ off ∧ off < 0x1000000) ∨ 0x2B00000 ≤ off) ∧
  (∀ (t off : Nat) (s : State),
      (off % 4 = 0 ∧ off < 0x4000000 ∧ blkOf off = none) → 
      exec (.latchingLoRead t .pf off) s = .next (answerRead .pf off 0 (advance t s))) ∧
  (∀ (t off : Nat) (val : Word) (s : State),
      (off % 4 = 0 ∧ off < 0x4000000 ∧ blkOf off = none) → 
      exec (.registerWrite t .pf off val) s = .next (advance t s)) ∧
  (∀ (t off o : Nat) (acc : Agent) (b : Blk) (s : State),
      (off % 4 = 0 ∧ agentAbsent (advance t s) acc = false ∧ absOff acc off = some o ∧ blkOf o = some b ∧ fieldsAt o = []) → (reach (advance t s) (answerHub (advance t s) acc) b = .reached) → 
      exec (.latchingLoRead t acc off) s = .next (answerRead acc off 0 (advance t s))) ∧
  (∀ (t off o : Nat) (acc : Agent) (val : Word) (b : Blk) (s : State),
      (off % 4 = 0 ∧ agentAbsent (advance t s) acc = false ∧ absOff acc off = some o ∧ blkOf o = some b ∧ fieldsAt o = []) → (reach (advance t s) (answerHub (advance t s) acc) b = .reached) → 
      exec (.registerWrite t acc off val) s = .next (advance t s))

/-- MEM_MAP with unmap = 1 removes the partition's policy before the granules leave, where the range overlaps any of its
regions: the policy goes, import slots 0 to 6 are erased, slot 7 and the other partitions stay, and event 0x0A08 is
recorded. A range that overlaps none leaves it. (spec/15_security.md R443) -/
def Obligations.AnUnmapRemovesThePolicyItOverlaps : Prop :=
  (∀ (t id : Nat) (d : Desc) (s : State),
      (unmapBit s id = some true ∧ ScionServes s ∧ Starts (advance t s) id 0x14 d ∧ memUnmapCheck (advance t s) d = none) → 
      let p := d.u 8 1; let a := d.u 16 8; let n := d.u 32 4; exec (.memUnmap t id) s = .next (settle (finishOk d.id (changed (unmapGranules p (a / granuleBytes) n (unmapPolicy p a (granuleBytes * n) (unmapHeels p a (granuleBytes * n) (startDesc id (advance t s))))))))) ∧
  (∀ (p a n : Nat) (pol : Policy) (s u : State),
      ((getPart s p).sec.policy = some pol ∧ pol.regions.any (fun r => r.meets a n) = true) → (tabWf dPart s.prt.parts = true ∧ tabWf (fun _ => ([] : List Byte)) (getPart s p).sec.slots = true) → (u = unmapPolicy p a n s) → 
      (getPart u p).sec.policy = none ∧ (∀ k, k < 7 → tabGet (fun _ => []) (getPart u p).sec.slots k = []) ∧ (∀ k, 7 ≤ k → tabGet (fun _ => []) (getPart u p).sec.slots k = tabGet (fun _ => []) (getPart s p).sec.slots k) ∧ (∀ q, q ≠ p → getPart u q = getPart s q) ∧ ∃ v, u = record 0 0x0A08 [.id1 p] p 0xFF v) ∧
  (∀ (p a n : Nat) (pol : Policy) (s : State),
      ((getPart s p).sec.policy = some pol ∧ pol.regions.any (fun r => r.meets a n) = false) → 
      unmapPolicy p a n s = s)

/-- An event that merges with none takes circulating slot 256 + (n mod 1,024), n being EVR_HEAD, which then counts one on,
and leaves every other circulating slot; one of severity kept_thr or more also takes the next kept slot, or finds the
kept area full and sets it full. An event that repeats a held record with the same key adds 1 to its repeat, keeps its
time and key, replaces the rest of its data and takes no slot. (spec/16_reproducibility.md R466,
spec/16_reproducibility.md R468, spec/16_reproducibility.md R469) -/
def Obligations.EventsFillTheStoreInOrder : Prop :=
  (∀ (thr win : Nat) (e : Evr) (r : EvRec),
      (tabWf dEv e.slots = true ∧ evRepeats r.code = false ∧ e.kept ≤ 256) → 
      let u := (storeEvent thr win e r).1; tabGet dEv u.slots (circSlot e.head) = r ∧ u.head = (e.head + 1) % 2 ^ 32 ∧ ∀ k, 256 ≤ k → k ≠ circSlot e.head → tabGet dEv u.slots k = tabGet dEv e.slots k) ∧
  (∀ (thr win : Nat) (e : Evr) (r : EvRec),
      (tabWf dEv e.slots = true ∧ evRepeats r.code = false ∧ thr ≤ r.sev ∧ thr ≤ 4) → 
      let u := (storeEvent thr win e r).1; (e.kept < 256 → tabGet dEv u.slots e.kept = r ∧ u.kept = e.kept + 1) ∧ (256 ≤ e.kept → u.kept = e.kept ∧ u.keptFull = true ∧ (storeEvent thr win e r).2 = !e.keptFull)) ∧
  (∀ (thr win k : Nat) (e : Evr) (r o : EvRec),
      (tabWf dEv e.slots = true ∧ evRepeats r.code = true) → (findMerge e r (min win 1024) e.head = some k ∧ tabGet dEv e.slots k = o) → 
      let u := (storeEvent thr win e r).1; tabGet dEv u.slots k = { o with repeats := o.repeats + 1, data := o.data.take o.keyLen ++ r.data.drop o.keyLen } ∧ u.head = e.head ∧ u.kept = e.kept)

/-- For a stride above 0 the output size of a window is one more than the floor, toward minus infinity, of in + p_lo +
p_hi - d(k - 1) - 1 over the stride; that of a transposed window is (in - 1)s + d(k - 1) + 1 - p_lo - p_hi; the rows
take pt, pb, kh, sh and dh of the word and the columns pl, pr, kw, sw and dw. (spec/07_sliding_window.md R225) -/
def Obligations.WindowsHaveTheirOutputSizes : Prop :=
  (∀ (n lo hi k s d : Nat),
      (0 < s ∧ 0 < k) → 
      let num : Int := (n : Int) + lo + hi - d * ((k : Int) - 1) - 1; (s : Int) * (outSize n lo hi k s d - 1) ≤ num ∧ num < (s : Int) * outSize n lo hi k s d) ∧
  (∀ (n lo hi k s d : Nat),
      (0 < k) → 
      outSizeT n lo hi k s d = ((n : Int) - 1) * s + d * ((k : Int) - 1) + 1 - lo - hi) ∧
  (∀ (w : Win) (n : Nat),
      w.outH false n = outSize n w.pt w.pb w.kh w.sh w.dh ∧ w.outW false n = outSize n w.pl w.pr w.kw w.sw w.dw ∧ w.outH true n = outSizeT n w.pt w.pb w.kh w.sh w.dh ∧ w.outW true n = outSizeT n w.pl w.pr w.kw w.sw w.dw)

/-- Decaying a cell of the fusion grid to a time and then to the same time again changes nothing, whatever the cell holds;
and a decay changes no bit of it but the counts and the reference time. (spec/11_fusion.md R318, spec/11_fusion.md
R319) -/
def Obligations.CellsDecayOnceInAnInstant : Prop :=
  (∀ (half t c : Nat),
      (0 < half) → 
      decay half t (decay half t c) = decay half t c) ∧
  (∀ (half t c : Nat),
      bits (decay half t c) 28 4 = bits c 28 4 ∧ bits (decay half t c) 56 8 = bits c 56 8)

/-- Two updates of one cell in either order leave it the same and add the same number to the instant's conflict count:
evidence saturates at 4,095 and the conflict count at 15 whichever comes first, and the cell enters conflict at most
once. (spec/11_fusion.md R320, spec/11_fusion.md R321) -/
def Obligations.CellUpdatesCommute : Prop :=
  ∀ (conf c o1 f1 o2 f2 : Nat),
      let a := addEv conf c o1 f1; let b := addEv conf a.1 o2 f2; let a' := addEv conf c o2 f2; let b' := addEv conf a'.1 o1 f1; b.1 = b'.1 ∧ b2n a.2 + b2n b.2 = b2n a'.2 + b2n b'.2

/-- In each floating-point format of Table 6.1, every code that is not a NaN decodes to a value whose rounding is that
code again, sign of zero and infinities included, and counts no condition. (spec/06_numerics.md R186,
spec/06_numerics.md R188, spec/06_numerics.md R189) -/
def Obligations.EveryFloatRoundsToItself : Prop :=
  ∀ (f : Fpf) (code : Nat) (t : Tally),
      (f ∈ floatFormats ∧ code < 2 ^ f.bits ∧ f.decode code ≠ .nan) → 
      (f.encode (f.decode code)).run t = (code, t)

/-- In each floating-point format of Table 6.1, whose grid goes on without an upper limit in the first step of a rounding,
no magnitude of the grid lies nearer to a positive quotient than the one it is rounded to; where another lies as near,
the code rounded to is even. (spec/06_numerics.md R189) -/
def Obligations.RoundingIsNearestTiesToEven : Prop :=
  (∀ (f : Fpf) (n d k : Nat),
      (f ∈ floatFormats ∧ 0 < d) → 
      let r := f.magnitude (f.roundMag n d); let x := f.magnitude k; ((r.1 * d : Int) - n * r.2).natAbs * x.2 ≤ ((x.1 * d : Int) - n * x.2).natAbs * r.2) ∧
  (∀ (f : Fpf) (n d k : Nat),
      (f ∈ floatFormats ∧ 0 < d ∧ k ≠ f.roundMag n d) → (((((f.magnitude (f.roundMag n d)).1 * d : Int) - n * (f.magnitude (f.roundMag n d)).2).natAbs * (f.magnitude k).2 = (((f.magnitude k).1 * d : Int) - n * (f.magnitude k).2).natAbs * (f.magnitude (f.roundMag n d)).2)) → 
      f.roundMag n d % 2 = 0)

/-- A scalar or control instruction leaves the state as it is while its core does not issue it, faults its core, or goes
through: then it changes of the whole part only its own core, and of that core only the pc, the loop stack, the call
stack and s[rd] of its word, or no scalar register. Memory, the accumulators, the scratchpad, tensor descriptors,
events and every other core are as they were. (spec/05_isa.md R151, spec/05_isa.md R153, spec/05_isa.md R162,
spec/05_isa.md R163) -/
def Obligations.ScalarInstructionsChangeTheirCoreAlone : Prop :=
  (∀ (g : Nat) (c : Instr) (s u : State),
      (c ∈ scalarOps g ∧ exec c s = .next u) → 
      u = s ∨ (∃ cause, u = stopCore g cause 0 s) ∨ ∃ (f : Core → Core) (rd : Nat) (v : DWord), u = modCore g f s ∧ (rd = 0 ∨ ∃ w, (getCore s g).word = some w ∧ rd = rdOf w) ∧ ∀ x, f x = { x.setS rd v with pc := (f x).pc, loops := (f x).loops, calls := (f x).calls }) ∧
  (∀ (g k : Nat) (f : Core → Core) (s : State),
      (tabWf dCore s.cores = true ∧ k ≠ g) → 
      getCore (modCore g f s) k = getCore s k ∧ getCore (modCore g f s) g = f (getCore s g) ∧ modCore g f s = { s with cores := (modCore g f s).cores })
end

