-- ==== Sys2Proof/Laws/Specs.lean ====
section
/-!
SUPPORT. Laws/Specs.lean: what the shared operations answer where they go through: a descriptor that starts, an
instruction that issues.
-/
namespace Sys2Proof.Machine

/-- A descriptor that starts and passes its checks has its effect (R61, R521). -/
theorem runDesc_starts {t id op : Nat} {check : State → Desc → Option Refused} {body : Desc → State → State} {s : State}
    {d : Desc} (h : Starts (advance t s) id op d) (hc : check (advance t s) d = none) :
    runDesc t id op check body s = settle (body d (startDesc id (advance t s))) := by
  obtain ⟨h1, h2, h3, h4, h5⟩ := h
  simp [runDesc, h1, h2, h3, h4, h5, hc]

/-- A descriptor that starts and fails a check completes with what the check says (R61). -/
theorem runDesc_refused {t id op : Nat} {check : State → Desc → Option Refused} {body : Desc → State → State} {s : State}
    {d : Desc} {st de info : Nat} (h : Starts (advance t s) id op d) (hc : check (advance t s) d = some (st, de, info)) :
    runDesc t id op check body s = settle (finish id st de info 0 (advance t s)) := by
  obtain ⟨h1, h2, h3, h4, h5⟩ := h
  simp [runDesc, h1, h2, h3, h4, h5, hc]

/-- A descriptor of the management PF that needs scion and has it (R438). -/
theorem runScion_serves {t id op : Nat} {check : State → Desc → Option Refused} {body : Desc → State → State} {s : State}
    (h : ScionServes s) : runScion t id op check body s = runDesc t id op check body s := by
  simp only [ScionServes] at h
  simp [runScion, h]

/-- A read that answers bytes, as one equation. -/
theorem read_ok {α : Type} {r : Except MemErr α × State} {b : α} {v : State} (h : r.1.toOption = some b) (hv : v = r.2) :
    r = (.ok b, v) := by
  obtain ⟨x, w⟩ := r
  cases x with
  | error _ => cases h
  | ok _ => cases h; cases hv; rfl

/-- An instruction that issues and whose word is well formed has its effect (R160). -/
theorem issue_eq {g op : Nat} {ok : InstrWord → Bool} {body : InstrWord → State → State} {s : State} {w : InstrWord}
    (h : Issues s g op w) (hok : ok w = true) : issue g op ok body s = body w s := by
  obtain ⟨h1, h2, h3, h4, h5, h6⟩ := h
  simp only [issue, checked, h1, h2, h3, h4, h5, hok]
  simp only [h6]
  simp

/-- An instruction that issues with a field its format has no place for faults with cause 0x02 (R160). -/
theorem issue_bad {g op : Nat} {ok : InstrWord → Bool} {body : InstrWord → State → State} {s : State} {w : InstrWord}
    (h : Issues s g op w) (hok : ok w = false) : issue g op ok body s = stopCore g 0x02 0 s := by
  obtain ⟨h1, h2, h3, h4, _, h6⟩ := h
  simp only [issue, checked, h1, h2, h3, h4, hok]
  simp

/-- An instruction that completes goes on with what follows it. -/
theorem runXAt_completes {g : Nat} {i : Nat × Nat} {m : Xm Unit} {fin : State → State} {s u : State}
    (h : Completes s g m u) : runXAt g i m fin s = fin u := by
  obtain ⟨h1, h2, h3⟩ := h
  simp only [ran] at h1 h2 h3
  simp only [runXAt]
  generalize m.run { s, t := { ctl := (getCore s g).numctl } } = r at *
  obtain ⟨x, v⟩ := r
  cases x with
  | error e => cases h1
  | ok a => simp [h2, h3]

/-- The instruction a core's sequencer stands at completes. -/
theorem runX_completes {g : Nat} {m : Xm Unit} {fin : State → State} {s u : State} (h : Completes s g m u) :
    runX g m fin s = fin u := runXAt_completes h

/-- A vector instruction that issues with its operands free and completes. -/
theorem vecIssue_eq {g op : Nat} {ok : InstrWord → Bool} {tds : InstrWord → List Nat} {body : InstrWord → Xm Unit} {s u : State}
    {w : InstrWord} (h : Issues s g op w) (hok : ok w = true)
    (hf : operandsFree s g ((tds w).map fun i => Td.of ((getCore s g).getT i)) = true) (hc : Completes s g (body w) u) :
    vecIssue g op ok tds body s = nextPc g u := by
  simp only [vecIssue]
  rw [issue_eq h hok]
  simp only [hf, ↓reduceIte, runX_completes hc]

/-- With no correction pending and no injection under way a read of the scratchpad changes nothing (R138, R142). -/
theorem spRead_clean {g off n : Nat} {v : Vst} (h1 : (getCore v.s g).ecc = []) (h2 : v.s.inj.busy = none) :
    (spRead g off n).run v = (.ok (getBytes (getCore v.s g).sp off n), v) := by
  have hi : (if n = 0 then v.s else injSram g (off / 64) v.s) = v.s := by
    simp [injSram, injLive, h2]
  have he : ∀ l0 cnt, tabSlice (getCore v.s g).ecc l0 cnt = [] := by simp [h1, tabSlice]
  simp only [spRead, eccCheck, actX, peekX]
  simp [ExceptT.run, bind, ExceptT.bind, ExceptT.mk, StateT.bind, ExceptT.bindCont, modify, modifyGet, get, getThe,
    MonadStateOf.modifyGet, MonadStateOf.get, StateT.modifyGet, StateT.get, liftM, monadLift, MonadLift.monadLift, ExceptT.lift,
    pure, StateT.pure, ExceptT.pure, Functor.map, StateT.map, hi, he, eachX]

/-- No line is marked and no eighth dropped: every line of DRAM can be read (R341, R359). -/
abbrev Sound (s : State) : Prop := s.lines = [] ∧ s.drc = []

theorem badLine_sound {s : State} (h : Sound s) (dev n : Nat) : badLine s dev n = none := by
  obtain ⟨h1, h2⟩ := h
  simp [badLine, getDrc, h1, h2, tabGet, dDrc, tabSlice]

theorem checkLines_sound {s : State} (h : Sound s) (dev n : Nat) (who : Requester) : checkLines dev n who s = (none, s) := by
  simp [checkLines, badLine_sound h]

/-- A store into sound memory succeeds and leaves it sound (R342). -/
theorem writeDev_sound {s : State} (h : Sound s) (dev : Nat) (bs : List Byte) (who : Requester) :
    (writeDev dev bs who s).1 = none ∧ Sound (writeDev dev bs who s).2 := by
  have hh : (getDrc s (devHub dev)).held = false := by simp [getDrc, h.2, tabGet, dDrc]
  simp only [writeDev, hh, checkLines_sound h, ite_self, Bool.false_eq_true, ↓reduceIte]
  split
  · exact ⟨rfl, h⟩
  · exact ⟨rfl, by simp [healLines, h.1, h.2, getDrc, tabGet, dDrc, tabErase], by simp [healLines, h.2]⟩

/-- A write into sound memory that the rights allow meets no error (R88, R342). -/
theorem writePart_sound {s : State} (h : Sound s) {p a : Nat} {bs : List Byte} {who : Requester}
    (hr : refusedAt s p a bs.length true = none) : (writePart p a bs who s).1 = none := by
  have key : ∀ (l : List (Nat × Nat)) (acc : Option MemErr × State), acc.1 = none → Sound acc.2 →
      (l.foldl (fun (acc : Option MemErr × State) x =>
        let (e, s) := writeDev (devOf acc.2 p x.1) ((bs.drop (x.1 - a)).take x.2) who acc.2
        (acc.1.or e, s)) acc).1 = none := by
    intro l
    induction l with
    | nil => intro acc h1 _; exact h1
    | cons x l ih =>
      intro acc h1 h2
      have := writeDev_sound h2 (devOf acc.2 p x.1) ((bs.drop (x.1 - a)).take x.2) who
      exact ih _ (by simp [h1, this.1]) this.2
  simp only [writePart, hr]
  exact key _ (none, s) rfl h

end Sys2Proof.Machine
end

