-- ==== Sys2Proof/Laws/Area.lean ====
section
/-!
SUPPORT. Laws/Area.lean: lengths of byte strings, and of a core block (Tables 3.3 and 3.5).
-/
namespace Sys2Proof.Machine

@[simp] theorem toBytes_length (k n : Nat) : (toBytes k n).length = k := by
  induction k generalizing n with
  | zero => rfl
  | succ k ih => simp [toBytes, ih]

@[simp] theorem zeros_length (n : Nat) : (zeros n).length = n := by simp [zeros]

@[simp] theorem fit_length (n : Nat) (b : List Byte) : (fit n b).length = n := by
  simp only [fit, List.length_take, List.length_append, zeros_length]; omega

@[simp] theorem getBytes_length (t : Tab Byte) (k n : Nat) : (getBytes t k n).length = n := by
  have : ∀ (n k : Nat) (u : List (Nat × Byte)), (spread k n u).length = n := by
    intro n
    induction n with
    | zero => intro k u; cases u <;> rfl
    | succ n ih =>
      intro k u
      cases u <;> simp [spread, ih]
      try split <;> simp [ih]
  exact this n k _

@[simp] theorem bitBytes_length (n : Nat) (f : Nat → Bool) : (bitBytes n f).length = n := by simp [bitBytes]

theorem flatMap_length {α : Type} {f : α → List Byte} {m : Nat} (h : ∀ x, (f x).length = m) (l : List α) :
    (l.flatMap f).length = l.length * m := by
  induction l with
  | nil => simp
  | cons x l ih => simp [h, ih, Nat.succ_mul, Nat.add_comm]

/-- The progress record has 64 bytes (Table 5.11). -/
theorem progress_length {c : Core} {x : Nat × List Byte} (h : c.progress = some x) : x.2.length = 64 := by
  simp only [Core.progress] at h
  split at h
  · cases h; simp
  · split at h
    · cases h; simp
    · cases h

/-- The state area has 8 KiB (Table 3.5). -/
theorem stateArea_length (c : Core) (free : Nat) : (stateArea c free).length = 8192 := by
  have h8 : ∀ l : List Nat, (l.flatMap fun r => toBytes 8 (c.getS r).toNat).length = l.length * 8 :=
    flatMap_length fun r => by simp
  have h64 : ∀ l : List Nat, (l.flatMap fun n => toBytes 64 (tabGet (fun _ => (0 : DescWord)) c.t n).toNat).length = l.length * 64 :=
    flatMap_length fun r => by simp
  have hq : ∀ l : List Nat, (l.flatMap fun q => toBytes 8 (c.getCred q).acquired ++ toBytes 8 (c.getCred q).released ++
      toBytes 2 (c.getCred q).depth ++ toBytes 1 (c.getCred q).peer ++
        toBytes 1 (b2n (c.getCred q).isOpen + 2 * b2n (c.getCred q).consumer) ++ zeros 4).length = l.length * 24 :=
    flatMap_length fun r => by simp
  have hp : (match c.progress with | some x => x | none => (0, zeros 64)).2.length = 64 := by
    split
    · exact progress_length ‹_›
    · simp
  simp only [stateArea]
  simp only [List.length_append, fit_length, h8, h64, hq, List.length_range, bitBytes_length, zeros_length]
  split <;> split <;> simp_all
  all_goals (try split) <;> simp_all

/-- A core block without live banks is written into sound memory without an error. -/
theorem writeBlock_sound {s : State} (h : Sound s) {p a : Nat} {c : Core} (hl : c.live = 0)
    (hr : refusedAt s p a 0x82000 true = none) : (writeBlock p a c s).1 = none := by
  have hb : c.liveBanks = [] := by simp [Core.liveBanks, hl]
  have h' : Sound (takeFree s).2 := h
  simp only [writeBlock, hb, List.foldl]
  apply writePart_sound h'
  have : (stateArea c (takeFree s).1 ++ getBytes c.acc 0 0x40000 ++
      (if (c.blocks.isEmpty && c.tiles.all (·.st = .queued)) = true then zeros 0x40000
        else fit 0x40000 (Config.stagingImage (takeFree s).1))).length = 0x82000 := by
    simp only [List.length_append, stateArea_length, getBytes_length]
    split <;> simp
  rw [this]
  exact hr

end Sys2Proof.Machine
end

