-- ==== Sys2Proof/Laws/Bits.lean ====
section
/-!
SUPPORT. Laws/Bits.lean: bit fields of a number (Machine/Ops.lean): what a field reads after a field is set.
-/
namespace Sys2Proof.Machine

/-- The number with a field set, by its parts. -/
theorem setBits_parts (n lo w v : Nat) :
    setBits n lo w v = (n / 2 ^ lo / 2 ^ w * 2 ^ w + v % 2 ^ w) * 2 ^ lo + n % 2 ^ lo := by
  have h1 := Nat.div_add_mod n (2 ^ lo)
  have h2 := Nat.div_add_mod (n / 2 ^ lo) (2 ^ w)
  simp only [setBits, bits, Nat.shiftRight_eq_div_pow]
  generalize n / 2 ^ lo / 2 ^ w = a at *
  generalize n / 2 ^ lo % 2 ^ w = b at *
  generalize n / 2 ^ lo = m at *
  generalize n % 2 ^ lo = l at *
  generalize v % 2 ^ w = u at *
  generalize 2 ^ lo = p at *
  generalize 2 ^ w = q at *
  have h3 : n = (a * q + b) * p + l := by rw [Nat.mul_comm a q, h2, Nat.mul_comm]; exact h1.symm
  rw [h3, Nat.add_mul, Nat.add_mul]
  omega

theorem testBit_setBits (n lo w v i : Nat) :
    (setBits n lo w v).testBit i = if lo ≤ i ∧ i < lo + w then v.testBit (i - lo) else n.testBit i := by
  have hp : 0 < 2 ^ lo := Nat.two_pow_pos lo
  have hq : 0 < 2 ^ w := Nat.two_pow_pos w
  have low : setBits n lo w v % 2 ^ lo = n % 2 ^ lo := by
    rw [setBits_parts, Nat.mul_comm, Nat.mul_add_mod, Nat.mod_mod]
  have up : setBits n lo w v / 2 ^ lo = n / 2 ^ lo / 2 ^ w * 2 ^ w + v % 2 ^ w := by
    rw [setBits_parts, Nat.mul_comm _ (2 ^ lo), Nat.mul_add_div hp, Nat.div_eq_of_lt (Nat.mod_lt _ hp), Nat.add_zero]
  have mid : setBits n lo w v / 2 ^ lo % 2 ^ w = v % 2 ^ w := by
    rw [up, Nat.mul_comm, Nat.mul_add_mod, Nat.mod_mod]
  have top : setBits n lo w v / 2 ^ lo / 2 ^ w = n / 2 ^ lo / 2 ^ w := by
    rw [up, Nat.mul_comm _ (2 ^ w), Nat.mul_add_div hq, Nat.div_eq_of_lt (Nat.mod_lt _ hq), Nat.add_zero]
  by_cases h1 : lo ≤ i
  · by_cases h2 : i < lo + w
    · rw [if_pos ⟨h1, h2⟩]
      have e := congrArg (fun x => Nat.testBit x (i - lo)) mid
      simp only [Nat.testBit_mod_two_pow, Nat.testBit_div_two_pow] at e
      rw [show i - lo + lo = i by omega] at e
      simpa [show i - lo < w by omega] using e
    · rw [if_neg (by omega)]
      have e := congrArg (fun x => Nat.testBit x (i - lo - w)) top
      simp only [Nat.testBit_div_two_pow] at e
      rw [show i - lo - w + w + lo = i by omega] at e
      exact e
  · rw [if_neg (by omega)]
    have e := congrArg (fun x => Nat.testBit x i) low
    simp only [Nat.testBit_mod_two_pow] at e
    simpa [show i < lo by omega] using e

theorem testBit_bits (n lo w i : Nat) : (bits n lo w).testBit i = (decide (i < w) && n.testBit (i + lo)) := by
  simp only [bits, Nat.shiftRight_eq_div_pow, Nat.testBit_mod_two_pow, Nat.testBit_div_two_pow]

/-- A field reads what it was set to. -/
theorem bits_setBits_self (n lo w v : Nat) : bits (setBits n lo w v) lo w = v % 2 ^ w := by
  refine Nat.eq_of_testBit_eq fun i => ?_
  rw [testBit_bits, testBit_setBits, Nat.testBit_mod_two_pow]
  by_cases h : i < w
  · rw [if_pos (by omega), show i + lo - lo = i by omega]
  · simp [h]

/-- A field apart from the one set reads as before. -/
theorem bits_setBits_ne (n lo w v lo' w' : Nat) (h : lo + w ≤ lo' ∨ lo' + w' ≤ lo) :
    bits (setBits n lo w v) lo' w' = bits n lo' w' := by
  refine Nat.eq_of_testBit_eq fun i => ?_
  rw [testBit_bits, testBit_bits, testBit_setBits]
  by_cases hi : i < w'
  · rw [if_neg (by omega)]
  · simp [hi]

/-- A field set twice holds the second value. -/
theorem setBits_setBits_self (n lo w v u : Nat) : setBits (setBits n lo w v) lo w u = setBits n lo w u := by
  refine Nat.eq_of_testBit_eq fun i => ?_
  simp only [testBit_setBits]
  split <;> rfl

/-- Fields apart are set in either order. -/
theorem setBits_comm (n lo w v lo' w' u : Nat) (h : lo + w ≤ lo' ∨ lo' + w' ≤ lo) :
    setBits (setBits n lo w v) lo' w' u = setBits (setBits n lo' w' u) lo w v := by
  refine Nat.eq_of_testBit_eq fun i => ?_
  simp only [testBit_setBits]
  split <;> split <;> first | rfl | omega

/-- A field set to what it reads. -/
theorem setBits_bits (n lo w : Nat) : setBits n lo w (bits n lo w) = n := by
  refine Nat.eq_of_testBit_eq fun i => ?_
  rw [testBit_setBits]
  split
  · rw [testBit_bits, show i - lo + lo = i by omega]
    simp; omega
  · rfl

theorem bits_lt (n lo w : Nat) : bits n lo w < 2 ^ w := Nat.mod_lt _ (Nat.two_pow_pos w)

end Sys2Proof.Machine
end

