-- ==== Sys2Proof/Laws/Tab.lean ====
section
/-!
SUPPORT. Laws/Tab.lean: reading after writing, and the canonical form, for the sparse tables of Machine/Tab.lean.
-/
namespace Sys2Proof.Machine

variable {α : Type}

/-- The canonical form, said by its parts. -/
theorem tabWfFrom_cons [DecidableEq α] {d : Nat → α} {lo : Option Nat} {j : Nat} {v : α} {r : Tab α} :
    tabWfFrom d lo ((j, v) :: r) = true ↔ (∀ l, lo = some l → l < j) ∧ v ≠ d j ∧ tabWfFrom d (some j) r = true := by
  cases lo <;> simp [tabWfFrom, and_assoc]

/-- A table above a bound is above every lower one. -/
theorem tabWfFrom_mono [DecidableEq α] {d : Nat → α} {k j : Nat} {t : Tab α} (hk : k ≤ j)
    (h : tabWfFrom d (some j) t = true) : tabWfFrom d (some k) t = true := by
  cases t with
  | nil => rfl
  | cons e r =>
    obtain ⟨i, v⟩ := e
    rw [tabWfFrom_cons] at h ⊢
    refine ⟨fun l hl => ?_, h.2⟩
    have := h.1 j rfl
    cases hl
    omega

theorem tabWfFrom_none [DecidableEq α] {d : Nat → α} {lo : Option Nat} {t : Tab α} (h : tabWfFrom d lo t = true) :
    tabWfFrom d none t = true := by
  cases t with
  | nil => rfl
  | cons e r =>
    obtain ⟨i, v⟩ := e
    rw [tabWfFrom_cons] at h ⊢
    exact ⟨fun l hl => by simp at hl, h.2⟩

/-- Keys at or below the bound hold the default. -/
theorem tabGet_low [DecidableEq α] {d : Nat → α} {j k : Nat} {t : Tab α} (h : tabWfFrom d (some j) t = true) (hk : k ≤ j) :
    tabGet d t k = d k := by
  cases t with
  | nil => rfl
  | cons e r =>
    obtain ⟨i, v⟩ := e
    have := (tabWfFrom_cons.mp h).1 j rfl
    have h1 : ¬ k = i := by omega
    have h2 : k < i := by omega
    simp [tabGet, h1, h2]

theorem tabCons_wf [DecidableEq α] {d : Nat → α} {lo : Option Nat} {k : Nat} {v : α} {r : Tab α}
    (hl : ∀ l, lo = some l → l < k) (hr : tabWfFrom d (some k) r = true) : tabWfFrom d lo (tabCons d k v r) = true := by
  unfold tabCons
  split
  · cases lo with
    | none => exact tabWfFrom_none hr
    | some l => exact tabWfFrom_mono (Nat.le_of_lt (hl l rfl)) hr
  · exact tabWfFrom_cons.mpr ⟨hl, ‹_›, hr⟩

theorem tabSet_wfFrom [DecidableEq α] {d : Nat → α} {lo : Option Nat} {k : Nat} {v : α} {t : Tab α}
    (h : tabWfFrom d lo t = true) (hk : ∀ l, lo = some l → l < k) : tabWfFrom d lo (tabSet d t k v) = true := by
  induction t generalizing lo with
  | nil => exact tabCons_wf hk rfl
  | cons e r ih =>
    obtain ⟨j, w⟩ := e
    have hc := tabWfFrom_cons.mp h
    unfold tabSet
    split
    · exact tabCons_wf hk (tabWfFrom_cons.mpr ⟨fun l hl => by cases hl; assumption, hc.2⟩)
    · split
      · subst k
        exact tabCons_wf hk hc.2.2
      · exact tabWfFrom_cons.mpr ⟨hc.1, hc.2.1, ih hc.2.2 fun l hl => by cases hl; omega⟩

/-- Writing a key keeps the canonical form. -/
theorem tabSet_wf [DecidableEq α] {d : Nat → α} {k : Nat} {v : α} {t : Tab α} (h : tabWf d t = true) :
    tabWf d (tabSet d t k v) = true := tabSet_wfFrom h fun _ hl => by simp at hl

theorem tabMod_wf [DecidableEq α] {d : Nat → α} {k : Nat} {f : α → α} {t : Tab α} (h : tabWf d t = true) :
    tabWf d (tabMod d t k f) = true := tabSet_wf h

theorem tabGet_cons_self [DecidableEq α] {d : Nat → α} {k : Nat} {v : α} {r : Tab α} (hr : tabWfFrom d (some k) r = true) :
    tabGet d (tabCons d k v r) k = v := by
  unfold tabCons
  split
  · next h => rw [tabGet_low hr (Nat.le_refl k), h]
  · simp [tabGet]

theorem tabGet_cons_ne [DecidableEq α] {d : Nat → α} {k i : Nat} {v : α} {r : Tab α} (hr : tabWfFrom d (some k) r = true)
    (hi : i ≠ k) : tabGet d (tabCons d k v r) i = tabGet d r i := by
  unfold tabCons
  split
  · rfl
  · simp only [tabGet, hi, ↓reduceIte]
    split
    · exact (tabGet_low hr (Nat.le_of_lt ‹_›)).symm
    · rfl

theorem tabGet_set_from [DecidableEq α] {d : Nat → α} {lo : Option Nat} {k i : Nat} {v : α} {t : Tab α}
    (h : tabWfFrom d lo t = true) : tabGet d (tabSet d t k v) i = if i = k then v else tabGet d t i := by
  induction t generalizing lo with
  | nil =>
    unfold tabSet
    split
    · subst i; exact tabGet_cons_self rfl
    · rw [tabGet_cons_ne rfl ‹_›]
  | cons e r ih =>
    obtain ⟨j, w⟩ := e
    have hc := tabWfFrom_cons.mp h
    unfold tabSet
    split
    · have hr : tabWfFrom d (some k) ((j, w) :: r) = true :=
        tabWfFrom_cons.mpr ⟨fun l hl => by cases hl; assumption, hc.2⟩
      split
      · subst i; exact tabGet_cons_self hr
      · exact tabGet_cons_ne hr ‹_›
    · split
      · subst k
        split
        · subst i; exact tabGet_cons_self hc.2.2
        · rw [tabGet_cons_ne hc.2.2 ‹_›]
          rename_i hne
          simp only [tabGet, hne, ↓reduceIte]
          split
          · exact tabGet_low hc.2.2 (Nat.le_of_lt ‹_›)
          · rfl
      · simp only [tabGet]
        split
        · subst i
          split
          · omega
          · rfl
        · split
          · split
            · omega
            · rfl
          · rw [ih hc.2.2]

/-- Reading after writing the same key. -/
theorem tabGet_set_self [DecidableEq α] {d : Nat → α} {k : Nat} {v : α} {t : Tab α} (h : tabWf d t = true) :
    tabGet d (tabSet d t k v) k = v := by rw [tabGet_set_from h]; simp

/-- Reading after writing another key. -/
theorem tabGet_set_ne [DecidableEq α] {d : Nat → α} {k i : Nat} {v : α} {t : Tab α} (h : tabWf d t = true) (hi : i ≠ k) :
    tabGet d (tabSet d t k v) i = tabGet d t i := by rw [tabGet_set_from h]; simp [hi]

/-- Filtering by key keeps the canonical form. -/
theorem tabFilter_wfFrom [DecidableEq α] {d : Nat → α} {lo : Option Nat} {p : Nat × α → Bool} {t : Tab α}
    (h : tabWfFrom d lo t = true) : tabWfFrom d lo (t.filter p) = true := by
  induction t generalizing lo with
  | nil => rfl
  | cons e r ih =>
    obtain ⟨j, w⟩ := e
    have hc := tabWfFrom_cons.mp h
    rw [List.filter_cons]
    split
    · exact tabWfFrom_cons.mpr ⟨hc.1, hc.2.1, ih hc.2.2⟩
    · have := ih hc.2.2
      cases lo with
      | none => exact tabWfFrom_none this
      | some l => exact tabWfFrom_mono (Nat.le_of_lt (hc.1 l rfl)) this

theorem tabErase_wf [DecidableEq α] {d : Nat → α} {t : Tab α} {k n : Nat} (h : tabWf d t = true) :
    tabWf d (tabErase t k n) = true := tabFilter_wfFrom h

/-- Reading a filtered table where the filter looks at the key alone. -/
theorem tabGet_filter [DecidableEq α] {d : Nat → α} {lo : Option Nat} {q : Nat → Bool} {i : Nat} {t : Tab α}
    (h : tabWfFrom d lo t = true) : tabGet d (t.filter fun e => q e.1) i = if q i then tabGet d t i else d i := by
  induction t generalizing lo with
  | nil => cases q i <;> rfl
  | cons e r ih =>
    obtain ⟨j, w⟩ := e
    have hc := tabWfFrom_cons.mp h
    have hr := ih hc.2.2
    rw [List.filter_cons]
    by_cases hj : i = j
    · subst hj
      have low : tabGet d (r.filter fun e => q e.1) i = d i :=
        tabGet_low (tabFilter_wfFrom hc.2.2) (Nat.le_refl i)
      cases hq : q i <;> simp [tabGet, low]
    · by_cases hlt : i < j
      · have low : tabGet d (r.filter fun e => q e.1) i = d i :=
          tabGet_low (tabFilter_wfFrom hc.2.2) (Nat.le_of_lt hlt)
        cases hq : q j <;> simp [tabGet, hj, hlt, low]
      · cases hq : q j <;> simp [tabGet, hj, hlt, hr]

/-- Reading a table from which a range of keys was taken out. -/
theorem tabGet_erase [DecidableEq α] {d : Nat → α} {t : Tab α} {k n i : Nat} (h : tabWf d t = true) :
    tabGet d (tabErase t k n) i = if k ≤ i ∧ i < k + n then d i else tabGet d t i := by
  have := tabGet_filter (q := fun j => !(decide (k ≤ j) && decide (j < k + n))) (i := i) h
  unfold tabErase
  rw [this]
  by_cases hi : k ≤ i ∧ i < k + n
  · simp [hi]
  · rw [if_neg hi, if_pos]
    simp only [not_and, Nat.not_lt] at hi
    simp only [Bool.not_eq_true', Bool.and_eq_false_imp, decide_eq_true_eq, decide_eq_false_iff_not, Nat.not_lt]
    exact hi

/-! ## Bytes -/

/-- The bound of a table may be raised to any key below all of its keys. -/
theorem tabWfFrom_raise [DecidableEq α] {d : Nat → α} {lo : Option Nat} {l : Nat} {u : Tab α} (hu : tabWfFrom d lo u = true)
    (h : ∀ e ∈ u, l < e.1) : tabWfFrom d (some l) u = true := by
  cases u with
  | nil => rfl
  | cons e r =>
    obtain ⟨j, w⟩ := e
    have hc := tabWfFrom_cons.mp hu
    exact tabWfFrom_cons.mpr ⟨fun x hx => by cases hx; exact h _ List.mem_cons_self, hc.2⟩

/-- Two tables joined, the second from `m` up, the first below `m`. -/
theorem tabAppend_wf [DecidableEq α] {d : Nat → α} {lo : Option Nat} {t u : Tab α} {m : Nat}
    (ht : tabWfFrom d lo t = true) (hm : ∀ e ∈ t, e.1 < m) (hlo : ∀ l, lo = some l → l < m) (hu : tabWf d u = true)
    (hum : ∀ e ∈ u, m ≤ e.1) : tabWfFrom d lo (t ++ u) = true := by
  induction t generalizing lo with
  | nil =>
    cases lo with
    | none => exact hu
    | some l => exact tabWfFrom_raise hu fun e he => Nat.lt_of_lt_of_le (hlo l rfl) (hum e he)
  | cons e r ih =>
    obtain ⟨j, w⟩ := e
    have hc := tabWfFrom_cons.mp ht
    rw [List.cons_append]
    refine tabWfFrom_cons.mpr ⟨hc.1, hc.2.1, ih hc.2.2 (fun e he => hm e (List.mem_cons_of_mem _ he)) fun l hl => ?_⟩
    cases hl
    exact hm _ List.mem_cons_self

/-- A key below all keys of a table holds the default. -/
theorem tabGet_below [DecidableEq α] {d : Nat → α} {u : Tab α} {i : Nat} (h : ∀ e ∈ u, i < e.1) : tabGet d u i = d i := by
  cases u with
  | nil => rfl
  | cons e r =>
    obtain ⟨j, w⟩ := e
    have := h _ List.mem_cons_self
    have h1 : ¬ i = j := by simp only at this; omega
    simp [tabGet, h1, this]

theorem tabGet_append [DecidableEq α] {d : Nat → α} {lo : Option Nat} {t u : Tab α} {m i : Nat}
    (ht : tabWfFrom d lo t = true) (hm : ∀ e ∈ t, e.1 < m) (hum : ∀ e ∈ u, m ≤ e.1) :
    tabGet d (t ++ u) i = if i < m then tabGet d t i else tabGet d u i := by
  induction t generalizing lo with
  | nil =>
    split
    · exact tabGet_below fun e he => Nat.lt_of_lt_of_le ‹_› (hum e he)
    · rfl
  | cons e r ih =>
    obtain ⟨j, w⟩ := e
    have hc := tabWfFrom_cons.mp ht
    have hj : j < m := hm _ List.mem_cons_self
    have hr := ih hc.2.2 fun e he => hm e (List.mem_cons_of_mem _ he)
    rw [List.cons_append]
    by_cases h1 : i = j
    · subst h1; simp [tabGet, hj]
    · by_cases h2 : i < j
      · have : i < m := by omega
        simp [tabGet, h1, h2, this]
      · simp [tabGet, h1, h2, hr]

theorem byteRun_keys {k : Nat} {bs : List Byte} : ∀ e ∈ byteRun k bs, k ≤ e.1 ∧ e.1 < k + bs.length := by
  induction bs generalizing k with
  | nil => simp [byteRun]
  | cons b r ih =>
    intro e he
    unfold byteRun at he
    split at he
    · have := ih e he
      simp only [List.length_cons]; omega
    · rcases List.mem_cons.mp he with rfl | he
      · simp
      · have := ih e he
        simp only [List.length_cons]; omega

theorem byteRun_wf {k : Nat} {bs : List Byte} {d : Nat → Byte} (hd : ∀ k, d k = 0) : tabWf d (byteRun k bs) = true := by
  induction bs generalizing k with
  | nil => rfl
  | cons b r ih =>
    unfold byteRun
    split
    · exact ih
    · refine tabWfFrom_cons.mpr ⟨fun l hl => by simp at hl, by rw [hd]; assumption, ?_⟩
      exact tabWfFrom_raise (ih (k := k + 1)) fun e he => (byteRun_keys e he).1

theorem byteRun_get {k i : Nat} {bs : List Byte} {d : Nat → Byte} (hd : ∀ k, d k = 0) :
    tabGet d (byteRun k bs) i = if k ≤ i then bs.getD (i - k) 0 else 0 := by
  induction bs generalizing k with
  | nil => simp [byteRun, tabGet, hd]
  | cons b r ih =>
    have key : ∀ j : Nat, k ≤ j → k ≠ j → (b :: r).getD (j - k) 0 = r.getD (j - (k + 1)) 0 := by
      intro j h1 h2
      have : j - k = (j - (k + 1)) + 1 := by omega
      rw [this, List.getD_cons_succ]
    unfold byteRun
    split
    · next hb =>
      rw [ih]
      by_cases h : k + 1 ≤ i
      · rw [if_pos h, if_pos (by omega), key i (by omega) (by omega)]
      · rw [if_neg h]
        by_cases h2 : k ≤ i
        · have : i = k := by omega
          subst this
          simp [hb]
        · rw [if_neg h2]
    · by_cases h : i = k
      · subst h; simp [tabGet]
      · by_cases h2 : i < k
        · rw [if_neg (by omega)]; simp [tabGet, h, h2, hd]
        · rw [if_pos (by omega), key i (by omega) (by omega)]
          simp only [tabGet, h, h2, ↓reduceIte]
          rw [ih, if_pos (by omega)]

/-- Putting bytes keeps the canonical form. -/
theorem putBytes_wf {t : Tab Byte} {k : Nat} {bs : List Byte} {d : Nat → Byte} (hd : ∀ k, d k = 0) (h : tabWf d t = true) :
    tabWf d (putBytes t k bs) = true := by
  unfold putBytes tabInsertSlice
  refine tabAppend_wf (m := k + bs.length) (tabAppend_wf (m := k) (tabFilter_wfFrom h) ?_ ?_ (byteRun_wf hd) ?_) ?_ ?_
    (tabFilter_wfFrom h) ?_
  · intro e he; simpa using (List.mem_filter.mp he).2
  · intro l hl; simp at hl
  · intro e he; exact (byteRun_keys e he).1
  · intro e he
    rcases List.mem_append.mp he with he | he
    · have : e.1 < k := by simpa using (List.mem_filter.mp he).2
      omega
    · exact (byteRun_keys e he).2
  · intro l hl; simp at hl
  · intro e he; simpa using (List.mem_filter.mp he).2

/-- Reading after putting bytes: the bytes put where they were put, what stood there elsewhere. -/
theorem putBytes_get {t : Tab Byte} {k i : Nat} {bs : List Byte} {d : Nat → Byte} (hd : ∀ k, d k = 0)
    (h : tabWf d t = true) :
    tabGet d (putBytes t k bs) i = if k ≤ i ∧ i < k + bs.length then bs.getD (i - k) 0 else tabGet d t i := by
  have hw1 : tabWfFrom d none (t.filter fun e => decide (e.1 < k)) = true := tabFilter_wfFrom h
  have hk1 : ∀ e ∈ t.filter (fun e => decide (e.1 < k)), e.1 < k := by
    intro e he; simpa using (List.mem_filter.mp he).2
  have hk2 : ∀ e ∈ byteRun k bs, k ≤ e.1 := fun e he => (byteRun_keys e he).1
  have hk3 : ∀ e ∈ t.filter (fun e => decide (k + bs.length ≤ e.1)), k + bs.length ≤ e.1 := by
    intro e he; simpa using (List.mem_filter.mp he).2
  have hw2 : tabWfFrom d none (t.filter (fun e => decide (e.1 < k)) ++ byteRun k bs) = true :=
    tabAppend_wf hw1 hk1 (fun l hl => by simp at hl) (byteRun_wf hd) hk2
  have hk4 : ∀ e ∈ t.filter (fun e => decide (e.1 < k)) ++ byteRun k bs, e.1 < k + bs.length := by
    intro e he
    rcases List.mem_append.mp he with he | he
    · have := hk1 e he; omega
    · exact (byteRun_keys e he).2
  unfold putBytes tabInsertSlice
  rw [tabGet_append hw2 hk4 hk3, tabGet_append hw1 hk1 hk2, byteRun_get hd,
    tabGet_filter (q := fun j => decide (j < k)) h, tabGet_filter (q := fun j => decide (k + bs.length ≤ j)) h]
  by_cases h1 : i < k
  · rw [if_pos (by omega), if_pos h1, if_pos (by simpa using h1), if_neg (by omega)]
  · by_cases h2 : i < k + bs.length
    · rw [if_pos h2, if_neg h1, if_pos (by omega), if_pos (by omega)]
    · rw [if_neg h2, if_pos (by simpa using h2), if_neg (by omega)]

end Sys2Proof.Machine
end

