-- ==== Sys2Proof/Laws/Keeps.lean ====
section
/-!
SUPPORT. Laws/Keeps.lean: what no meaning changes. `Keeps a s` says that `s` may come from `a` by the part's own work: the
queue and the fuses are as they were, time and the count of free values have not gone back, nothing sent is taken back,
and a safe state stays safe. Each operation that changes the state has one lemma that it keeps all this.
-/
namespace Sys2Proof.Machine

structure Keeps (a s : State) : Prop where
  pending : s.pending = a.pending
  fuse : s.fuse = a.fuse
  clk : a.clk ≤ s.clk
  frees : a.frees ≤ s.frees
  outbox : a.outbox <+: s.outbox
  safe : Safe a → Safe s

theorem Keeps.refl (a : State) : Keeps a a :=
  ⟨rfl, rfl, Nat.le_refl _, Nat.le_refl _, List.prefix_refl _, id⟩

/-- A state that agrees with `s` in what safety looks at is safe with it. -/
theorem Safe.same {s t : State} (h : Safe s) (e1 : t.dram = s.dram) (e2 : t.hostMem = s.hostMem)
    (e3 : t.prt.parts = s.prt.parts) : Safe t := by
  obtain ⟨hm, ⟨hp, hg⟩, hi⟩ := h
  refine ⟨?_, ⟨?_, ?_⟩, ?_⟩
  · simpa [memOk, e1, e2] using hm
  · simpa [e3] using hp
  · simpa [getPart, e3] using hg
  · intro p q i j g h hg hh
    simp only [granAt, getPart, e3] at hg hh
    exact hi p q i j g h hg hh

/-- An update of other fields. -/
theorem Keeps.same {a s t : State} (h : Keeps a s) (e1 : t.pending = s.pending) (e2 : t.fuse = s.fuse) (e3 : t.clk = s.clk)
    (e4 : t.frees = s.frees) (e5 : t.outbox = s.outbox) (e6 : t.dram = s.dram) (e7 : t.hostMem = s.hostMem)
    (e8 : t.prt.parts = s.prt.parts) : Keeps a t :=
  ⟨e1.trans h.pending, e2.trans h.fuse, e3 ▸ h.clk, e4 ▸ h.frees, e5 ▸ h.outbox, fun x => (h.safe x).same e6 e7 e8⟩

/-- The same for a state written out: its other fields are free. -/
theorem Keeps.upd {a s : State} {f_corrN : Int} {f_corrS : Int} {f_dies : Tab Die} {f_hubs : Tab Hub} {f_sep : Bool} {f_regs : Tab Word} {f_eff : Tab Word} {f_latch : Tab Word} {f_evr : Evr} {f_hif : Hif} {f_prt : Prt} {f_cores : Tab Core} {f_links : Tab Link} {f_e2e : Tab E2e} {f_ptn : Tab Ptn} {f_drc : Tab Drc} {f_ing : Tab Ing} {f_sdl : Tab Sdl} {f_fus : Tab Fus} {f_isl : Tab Island} {f_records : List ResRec} {f_inj : Inj} {f_sec : Sec} {f_pwr : Pwr} {f_lines : Tab Nat} {f_zeroed : Tab Bool} (h : Keeps a s)
    (hp : f_prt.parts = s.prt.parts) :
    Keeps a (State.mk s.clk f_corrN f_corrS s.fuse f_dies f_hubs f_sep f_regs f_eff f_latch f_evr f_hif f_prt f_cores f_links f_e2e f_ptn f_drc f_ing f_sdl f_fus f_isl f_records f_inj f_sec f_pwr s.dram f_lines f_zeroed s.hostMem s.outbox s.frees s.pending) := h.same rfl rfl rfl rfl rfl rfl rfl hp

theorem Keeps.ite {a s t : State} {c : Prop} [Decidable c] (hs : c → Keeps a s) (ht : ¬c → Keeps a t) :
    Keeps a (if c then s else t) := by
  split
  · exact hs ‹_›
  · exact ht ‹_›

theorem Keeps.ite2 {α : Type} {a : State} {s t : α × State} {c : Prop} [Decidable c] (hs : c → Keeps a s.2)
    (ht : ¬c → Keeps a t.2) : Keeps a (if c then s else t).2 := by
  split
  · exact hs ‹_›
  · exact ht ‹_›

theorem Keeps.ite3 {α β : Type} {a : State} {s t : α × β × State} {c : Prop} [Decidable c] (hs : c → Keeps a s.2.2)
    (ht : ¬c → Keeps a t.2.2) : Keeps a (if c then s else t).2.2 := by
  split
  · exact hs ‹_›
  · exact ht ‹_›

theorem Keeps.ofEq {α : Type} {a s : State} {r : α} {d : α × State} (h : Keeps a d.2) (e : d = (r, s)) : Keeps a s := by
  rw [e] at h
  exact h

theorem Keeps.ofEq2 {α β : Type} {a s : State} {r : α} {q : β} {d : α × β × State} (h : Keeps a d.2.2) (e : d = (r, q, s)) :
    Keeps a s := by
  rw [e] at h
  exact h

theorem Keeps.ofEqL {α : Type} {a s : State} {r : α} {d : State × α} (h : Keeps a d.1) (e : d = (s, r)) : Keeps a s := by
  rw [e] at h
  exact h

theorem Keeps.pair {α : Type} {a s : State} {x : α} (h : Keeps a s) : Keeps a (x, s).2 := h

theorem Keeps.foldl {α : Type} {a s : State} {l : List α} {f : State → α → State} (h : Keeps a s)
    (hf : ∀ s x, Keeps a s → Keeps a (f s x)) : Keeps a (l.foldl f s) := by
  induction l generalizing s with
  | nil => exact h
  | cons x l ih => exact ih (hf s x h)

theorem Keeps.foldl2 {α β : Type} {a : State} {l : List α} {f : β × State → α → β × State} {y : β × State} (h : Keeps a y.2)
    (hf : ∀ y x, Keeps a y.2 → Keeps a (f y x).2) : Keeps a (l.foldl f y).2 := by
  induction l generalizing y with
  | nil => exact h
  | cons x l ih => exact ih (hf y x h)

theorem Keeps.foldlL {α β : Type} {a : State} {l : List α} {f : State × β → α → State × β} {y : State × β} (h : Keeps a y.1)
    (hf : ∀ y x, Keeps a y.1 → Keeps a (f y x).1) : Keeps a (l.foldl f y).1 := by
  induction l generalizing y with
  | nil => exact h
  | cons x l ih => exact ih (hf y x h)

/-! ## Instructions as programs -/

/-- A program of the instruction monad keeps all this. -/
structure KeepsX (a : State) {α : Type} (m : Xm α) : Prop where
  run : ∀ v, Keeps a v.s → Keeps a (m.run.run v).2.s

theorem KeepsX.pure {a : State} {α : Type} (x : α) : KeepsX a (Pure.pure x : Xm α) := ⟨fun _ h => h⟩

theorem KeepsX.throw {a : State} {α : Type} (e : XErr) : KeepsX a (MonadExcept.throw e : Xm α) := ⟨fun _ h => h⟩

theorem KeepsX.bind {a : State} {α β : Type} {m : Xm α} {f : α → Xm β} (hm : KeepsX a m) (hf : ∀ x, KeepsX a (f x)) :
    KeepsX a (m >>= f) := by
  refine ⟨fun v h => ?_⟩
  have h1 := hm.run v h
  have e : (m >>= f).run.run v = (match m.run.run v with
      | (.ok x, v') => (f x).run.run v'
      | (.error e, v') => (.error e, v')) := by
    rw [ExceptT.run_bind, StateT.run_bind]
    rcases m.run.run v with ⟨x | x, v'⟩ <;> rfl
  rw [e]
  rcases hr : m.run.run v with ⟨x | x, v'⟩
  · simpa [hr] using h1
  · exact (hf x).run v' (by simpa [hr] using h1)

theorem KeepsX.seqRight {a : State} {α β : Type} {m : Xm α} {f : Xm β} (hm : KeepsX a m) (hf : KeepsX a f) :
    KeepsX a (do let _ ← m; f) := hm.bind fun _ => hf

theorem KeepsX.get {a : State} {α : Type} {f : Vst → Xm α} (hf : ∀ v, Keeps a v.s → KeepsX a (f v)) :
    KeepsX a (MonadState.get >>= f) := ⟨fun v h => (hf v h).run v h⟩

theorem KeepsX.set {a : State} {v : Vst} (h : Keeps a v.s) : KeepsX a (MonadStateOf.set v : Xm PUnit) := ⟨fun _ _ => h⟩

theorem KeepsX.modify {a : State} {f : Vst → Vst} (h : ∀ v, Keeps a v.s → Keeps a (f v).s) :
    KeepsX a (modify f : Xm PUnit) := ⟨fun v hv => h v hv⟩

theorem KeepsX.ite {α : Type} {a : State} {c : Prop} [Decidable c] {m n : Xm α} (hm : c → KeepsX a m)
    (hn : ¬c → KeepsX a n) : KeepsX a (if c then m else n) := by
  split
  · exact hm ‹_›
  · exact hn ‹_›

theorem KeepsX.map {a : State} {α β : Type} {f : α → β} {m : Xm α} (h : KeepsX a m) : KeepsX a (f <$> m) := by
  have e : f <$> m = m >>= fun x => Pure.pure (f x) := (bind_pure_comp f m).symm
  rw [e]
  exact h.bind fun _ => KeepsX.pure _

theorem KeepsX.foldlM {a : State} {α β : Type} {f : β → α → Xm β} {y : β} {l : List α} (hf : ∀ y x, KeepsX a (f y x)) :
    KeepsX a (l.foldlM f y) := by
  induction l generalizing y with
  | nil => exact KeepsX.pure _
  | cons x l ih =>
    rw [List.foldlM_cons]
    exact (hf y x).bind fun _ => ih

/-- What a program that ran leaves. -/
theorem Keeps.ofRun {a : State} {α : Type} {m : Xm α} {v v' : Vst} {r : Except XErr α} (hm : KeepsX a m) (h : Keeps a v.s)
    (e : m.run v = (r, v')) : Keeps a v'.s := by
  have := hm.run v h
  have e' : m.run.run v = (r, v') := e
  rw [e'] at this
  exact this

/-- DRAM with bytes put in. -/
theorem Keeps.putDram {a s : State} {k : Nat} {bs : List Byte} (h : Keeps a s) :
    Keeps a { s with dram := putBytes s.dram k bs } := by
  refine ⟨h.pending, h.fuse, h.clk, h.frees, h.outbox, fun y => ?_⟩
  obtain ⟨hm, hp, hi⟩ := h.safe y
  refine ⟨?_, hp, hi⟩
  simp only [memOk, Bool.and_eq_true] at hm ⊢
  exact ⟨putBytes_wf (fun _ => rfl) hm.1, hm.2⟩

/-- DRAM with a range cleared, and the lines' marks as they may be. -/
theorem Keeps.eraseDram {a s : State} {k n : Nat} {l : Tab Nat} (h : Keeps a s) :
    Keeps a { s with dram := tabErase s.dram k n, lines := l } := by
  refine ⟨h.pending, h.fuse, h.clk, h.frees, h.outbox, fun y => ?_⟩
  obtain ⟨hm, hp, hi⟩ := h.safe y
  refine ⟨?_, hp, hi⟩
  simp only [memOk, Bool.and_eq_true] at hm ⊢
  exact ⟨tabErase_wf hm.1, hm.2⟩

end Sys2Proof.Machine
end

