-- ==== Sys2Proof/Laws/KeepsOps.lean ====
section
/-!
SUPPORT. Laws/KeepsOps.lean: the operations of Machine/Ops.lean keep what `Keeps` says (Laws/Keeps.lean).
-/
namespace Sys2Proof.Machine

theorem advance_keeps {a s : State} {t : Nat} (h : Keeps a s) : Keeps a (advance t s) :=
  ⟨h.pending, h.fuse, Nat.le_trans h.clk (Nat.le_max_left _ _), h.frees, h.outbox, fun x => (h.safe x).same rfl rfl rfl⟩

theorem modDie_keeps {a : State} {x0 x1 s} (h : Keeps a s) : Keeps a (modDie x0 x1 s) := by
  delta modDie
  refine Keeps.upd ?_ rfl
  assumption

theorem modHub_keeps {a : State} {x0 x1 s} (h : Keeps a s) : Keeps a (modHub x0 x1 s) := by
  delta modHub
  refine Keeps.upd ?_ rfl
  assumption

theorem modFn_keeps {a : State} {x0 x1 s} (h : Keeps a s) : Keeps a (modFn x0 x1 s) := by
  delta modFn
  refine Keeps.upd ?_ rfl
  assumption

theorem modRing_keeps {a : State} {x0 x1 x2 s} (h : Keeps a s) : Keeps a (modRing x0 x1 x2 s) := by
  delta modRing
  refine modFn_keeps ?_
  assumption

theorem modPLink_keeps {a : State} {x0 x1 s} (h : Keeps a s) : Keeps a (modPLink x0 x1 s) := by
  delta modPLink
  refine Keeps.upd ?_ rfl
  assumption

/-- The partition a changed table holds. -/
theorem getPart_modPart {p q : Nat} {f : Part → Part} {s : State} (h : tabWf dPart s.prt.parts = true) :
    getPart (modPart p f s) q = if q = p then f (getPart s p) else getPart s q := tabGet_set_from h

/-- A partition changed: its new granule map is in form, and maps nothing that another partition maps. -/
theorem modPart_safe {p : Nat} {f : Part → Part} {s : State} (hs : Safe s) (hw : tabWf dGran (f (getPart s p)).gmap = true)
    (hi : ∀ i g, tabGet dGran (f (getPart s p)).gmap i = some g → ∀ q j h, q ≠ p → granAt s q j = some h → g.dev ≠ h.dev) :
    Safe (modPart p f s) := by
  obtain ⟨hm, ⟨hp, hg⟩, hi0⟩ := hs
  refine ⟨hm, ⟨tabMod_wf hp, fun q => ?_⟩, fun q r i j g h hgq hgr he => ?_⟩
  · rw [getPart_modPart hp]
    split
    · exact hw
    · exact hg q
  · simp only [granAt, getPart_modPart hp] at hgq hgr
    by_cases h1 : q = p <;> by_cases h2 : r = p
    · rw [h1, h2]
    · rw [if_pos h1] at hgq
      rw [if_neg h2] at hgr
      exact absurd he (hi i g hgq r j h h2 hgr)
    · rw [if_neg h1] at hgq
      rw [if_pos h2] at hgr
      exact absurd he.symm (hi j h hgr q i g h1 hgq)
    · rw [if_neg h1] at hgq
      rw [if_neg h2] at hgr
      exact hi0 q r i j g h hgq hgr he

theorem modPart_keepsOf {p : Nat} {f : Part → Part} {a s : State} (h : Keeps a s)
    (hs : Safe a → Safe s → Safe (modPart p f s)) : Keeps a (modPart p f s) :=
  ⟨h.pending, h.fuse, h.clk, h.frees, h.outbox, fun x => hs x (h.safe x)⟩

theorem modPart_keeps {p : Nat} {f : Part → Part} {a s : State} (h : Keeps a s) (hf : ∀ x, (f x).gmap = x.gmap) :
    Keeps a (modPart p f s) := by
  refine modPart_keepsOf h fun _ hs => modPart_safe hs (by rw [hf]; exact hs.maps.2 p) fun i g hg q j k hq hk he => ?_
  rw [hf] at hg
  exact hq (hs.isolated p q i j g k hg hk he).symm

/-- A partition whose granule map is empty maps nothing. -/
theorem modPart_keeps0 {p : Nat} {f : Part → Part} {a s : State} (h : Keeps a s) (hf : ∀ x, (f x).gmap = []) :
    Keeps a (modPart p f s) := by
  refine modPart_keepsOf h fun _ hs => modPart_safe hs (by rw [hf]; rfl) fun i g hg => ?_
  rw [hf] at hg
  simp [tabGet, dGran] at hg

theorem modCtx_keeps {a : State} {x0 x1 x2 s} (h : Keeps a s) : Keeps a (modCtx x0 x1 x2 s) := by
  delta modCtx
  refine Keeps.upd ?_ rfl
  assumption

theorem modCore_keeps {a : State} {x0 x1 s} (h : Keeps a s) : Keeps a (modCore x0 x1 s) := by
  delta modCore
  refine Keeps.upd ?_ rfl
  assumption

theorem setCore_keeps {a : State} {x0 x1 s} (h : Keeps a s) : Keeps a (setCore x0 x1 s) := by
  delta setCore
  refine Keeps.upd ?_ rfl
  assumption

theorem modLink_keeps {a : State} {x0 x1 s} (h : Keeps a s) : Keeps a (modLink x0 x1 s) := by
  delta modLink
  refine Keeps.upd ?_ rfl
  assumption

theorem modPtn_keeps {a : State} {x0 x1 s} (h : Keeps a s) : Keeps a (modPtn x0 x1 s) := by
  delta modPtn
  refine Keeps.upd ?_ rfl
  assumption

theorem modDrc_keeps {a : State} {x0 x1 s} (h : Keeps a s) : Keeps a (modDrc x0 x1 s) := by
  delta modDrc
  refine Keeps.upd ?_ rfl
  assumption

theorem modIsl_keeps {a : State} {x0 x1 s} (h : Keeps a s) : Keeps a (modIsl x0 x1 s) := by
  delta modIsl
  refine Keeps.upd ?_ rfl
  assumption

theorem modIng_keeps {a : State} {x0 x1 s} (h : Keeps a s) : Keeps a (modIng x0 x1 s) := by
  delta modIng
  refine Keeps.upd ?_ rfl
  assumption

theorem modSdl_keeps {a : State} {x0 x1 s} (h : Keeps a s) : Keeps a (modSdl x0 x1 s) := by
  delta modSdl
  refine Keeps.upd ?_ rfl
  assumption

theorem modFus_keeps {a : State} {x0 x1 s} (h : Keeps a s) : Keeps a (modFus x0 x1 s) := by
  delta modFus
  refine Keeps.upd ?_ rfl
  assumption

theorem send_keeps {a s : State} {o : Out} (h : Keeps a s) : Keeps a (send o s) :=
  ⟨h.pending, h.fuse, h.clk, h.frees, h.outbox.trans (List.prefix_append _ _), fun x => (h.safe x).same rfl rfl rfl⟩

theorem takeFree_keeps {a s : State} (h : Keeps a s) : Keeps a (takeFree s).2 :=
  ⟨h.pending, h.fuse, h.clk, Nat.le_succ_of_le h.frees, h.outbox, fun x => (h.safe x).same rfl rfl rfl⟩

theorem regSet_keeps {a : State} {x0 x1 s} (h : Keeps a s) : Keeps a (regSet x0 x1 s) := by
  delta regSet
  refine Keeps.upd ?_ rfl
  assumption

theorem fldSet_keeps {a : State} {x0 x1 x2 x3 s} (h : Keeps a s) : Keeps a (fldSet x0 x1 x2 x3 s) := by
  delta fldSet
  refine regSet_keeps ?_
  assumption

theorem commit_keeps {a : State} {x0 s} (h : Keeps a s) : Keeps a (commit x0 s) := by
  delta commit
  refine Keeps.upd ?_ rfl
  assumption

theorem stick_keeps {a : State} {x0 x1 x2 x3 s} (h : Keeps a s) : Keeps a (stick x0 x1 x2 x3 s) := by
  delta stick
  extract_lets -merge +onlyGivenNames l0_0
  have h0_0 : Keeps a l0_0 := by
    subst l0_0
    split
    · assumption
    · refine Keeps.ite (fun _ => ?_) (fun _ => ?_)
      · refine fldSet_keeps ?_
        assumption
      assumption
  clear_value l0_0
  refine fldSet_keeps ?_
  assumption

theorem injUse_keeps {a : State} {s} (h : Keeps a s) : Keeps a (injUse s) := by
  delta injUse
  split
  · refine Keeps.upd ?_ rfl
    assumption
  · assumption

theorem injSpend_keeps {a : State} {x0 x1 s} (h : Keeps a s) : Keeps a (injSpend x0 x1 s) := by
  delta injSpend
  refine Keeps.ite (fun _ => ?_) (fun _ => ?_)
  · refine injUse_keeps ?_
    assumption
  refine Keeps.upd ?_ rfl
  assumption

theorem injDetected_keeps {a : State} {x0 s} (h : Keeps a s) : Keeps a (injDetected x0 s) := by
  delta injDetected
  split
  · split
    · refine Keeps.ite (fun _ => ?_) (fun _ => ?_)
      · refine Keeps.upd ?_ rfl
        assumption
      assumption
    · assumption
  · assumption

theorem injOnEvent_keeps {a : State} {x0 s} (h : Keeps a s) : Keeps a (injOnEvent x0 s) := by
  delta injOnEvent
  split
  · refine Keeps.ite (fun _ => ?_) (fun _ => ?_)
    · refine injDetected_keeps ?_
      assumption
    assumption
  · assumption

theorem recordAtHn_keeps {a : State} {x0 s} (h : Keeps a s) : Keeps a (recordAtHn x0 s) := by
  delta recordAtHn
  extract_lets -merge +onlyGivenNames l0_0 l0_1
  have h0_0 : Keeps a l0_0 := by
    subst l0_0
    refine commit_keeps ?_
    refine commit_keeps ?_
    assumption
  clear_value l0_0
  clear_value l0_1
  split
  · extract_lets -merge +onlyGivenNames l9_0 l9_1
    have h9_0 : Keeps a l9_0 := by
      subst l9_0
      refine Keeps.upd ?_ rfl
      assumption
    clear_value l9_0
    have h9_1 : Keeps a l9_1 := by
      subst l9_1
      refine fldSet_keeps ?_
      assumption
    clear_value l9_1
    refine Keeps.ite (fun _ => ?_) (fun _ => ?_)
    · refine Keeps.upd ?_ rfl
      assumption
    assumption

theorem record_keeps {a : State} {x0 x1 x2 x3 x4 s} (h : Keeps a s) : Keeps a (record x0 x1 x2 x3 x4 s) := by
  delta record
  extract_lets -merge +onlyGivenNames l0_0 l0_1 l0_2 l0_3
  clear_value l0_0
  clear_value l0_1
  clear_value l0_2
  have h0_3 : Keeps a l0_3 := by
    subst l0_3
    refine Keeps.ite (fun _ => ?_) (fun _ => ?_)
    · refine recordAtHn_keeps ?_
      assumption
    refine Keeps.ite (fun _ => ?_) (fun _ => ?_)
    · refine Keeps.upd ?_ rfl
      assumption
    refine Keeps.upd ?_ rfl
    assumption
  clear_value l0_3
  refine injOnEvent_keeps ?_
  assumption

theorem event_keeps {a : State} {x0 x1 x2 s} (h : Keeps a s) : Keeps a (event x0 x1 x2 s) := by
  delta event
  refine record_keeps ?_
  assumption

theorem eventFor_keeps {a : State} {x0 x1 x2 x3 s} (h : Keeps a s) : Keeps a (eventFor x0 x1 x2 x3 s) := by
  delta eventFor
  refine record_keeps ?_
  assumption

theorem forwardHeld_keeps {a : State} {s} (h : Keeps a s) : Keeps a (forwardHeld s) := by
  delta forwardHeld
  extract_lets -merge +onlyGivenNames l0_0 l0_1 l0_2 l0_3 l0_4
  clear_value l0_0
  clear_value l0_1
  clear_value l0_2
  have h0_3 : Keeps a l0_3 := by
    subst l0_3
    refine Keeps.upd ?_ rfl
    assumption
  clear_value l0_3
  have h0_4 : Keeps a l0_4 := by
    subst l0_4
    refine Keeps.foldl ?_ fun _ _ _ => ?_
    · assumption
    refine recordAtHn_keeps ?_
    assumption
  clear_value l0_4
  refine Keeps.ite (fun _ => ?_) (fun _ => ?_)
  · assumption
  refine event_keeps ?_
  refine fldSet_keeps ?_
  assumption

end Sys2Proof.Machine
end

