-- ==== Sys2Proof/Laws/KeepsHif.lean ====
section
/-!
SUPPORT. Laws/KeepsHif.lean: the operations of Machine/Hif.lean keep what `Keeps` says (Laws/Keeps.lean).
-/
namespace Sys2Proof.Machine

theorem hostWrite_keeps {a s : State} {x : Nat} {b : List Byte} (h : Keeps a s) : Keeps a (hostWrite x b s) := by
  refine ⟨h.pending, h.fuse, h.clk, h.frees, h.outbox, fun y => ?_⟩
  obtain ⟨hm, hp, hi⟩ := h.safe y
  refine ⟨?_, hp, hi⟩
  simp only [memOk, hostWrite, Bool.and_eq_true] at hm ⊢
  exact ⟨hm.1, putBytes_wf (fun _ => rfl) hm.2⟩

theorem countLost_keeps {a : State} {x0 x1 s} (h : Keeps a s) : Keeps a (countLost x0 x1 s) := by
  delta countLost
  refine modPart_keeps ?_ fun _ => rfl
  refine modFn_keeps ?_
  assumption

theorem sendMsix_keeps {a : State} {x0 x1 s} (h : Keeps a s) : Keeps a (sendMsix x0 x1 s) := by
  delta sendMsix
  refine Keeps.ite (fun _ => ?_) (fun _ => ?_)
  · refine countLost_keeps ?_
    assumption
  refine Keeps.ite (fun _ => ?_) (fun _ => ?_)
  · refine send_keeps ?_
    refine modFn_keeps ?_
    assumption
  refine modFn_keeps ?_
  assumption

theorem fnErr_keeps {a : State} {x0 x1 x2 s} (h : Keeps a s) : Keeps a (fnErr x0 x1 x2 s) := by
  delta fnErr
  extract_lets -merge +onlyGivenNames l0_0 l0_1
  subst l0_0
  try dsimp -zeta -zetaHave -zetaUnused -iota -proj only
  have h0_1 : Keeps a l0_1 := by
    subst l0_1
    refine stick_keeps ?_
    assumption
  clear_value l0_1
  refine Keeps.ite (fun _ => ?_) (fun _ => ?_)
  · refine sendMsix_keeps ?_
    assumption
  assumption

theorem signalRing_keeps {a : State} {x0 x1 s} (h : Keeps a s) : Keeps a (signalRing x0 x1 s) := by
  delta signalRing
  extract_lets -merge +onlyGivenNames l0_0 l0_1
  have h0_0 : Keeps a l0_0 := by
    subst l0_0
    refine modRing_keeps ?_
    assumption
  clear_value l0_0
  have h0_1 : Keeps a l0_1 := by
    subst l0_1
    refine commit_keeps ?_
    assumption
  clear_value l0_1
  split
  · refine sendMsix_keeps ?_
    assumption
  · assumption

theorem writeCqe_keeps {a : State} {x0 x1 s} (h : Keeps a s) : Keeps a (writeCqe x0 x1 s) := by
  delta writeCqe
  extract_lets -merge +onlyGivenNames l0_0 l0_1 l0_2 l0_3 l0_4 l0_5
  clear_value l0_0
  clear_value l0_1
  have h0_2 : Keeps a l0_2 := by
    subst l0_2
    refine hostWrite_keeps ?_
    assumption
  clear_value l0_2
  subst l0_3
  try dsimp -zeta -zetaHave -zetaUnused -iota -proj only
  have h0_4 : Keeps a l0_4 := by
    subst l0_4
    refine modRing_keeps ?_
    assumption
  clear_value l0_4
  have h0_5 : Keeps a l0_5 := by
    subst l0_5
    refine modRing_keeps ?_
    assumption
  clear_value l0_5
  refine Keeps.ite (fun _ => ?_) (fun _ => ?_)
  · refine Keeps.ite (fun _ => ?_) (fun _ => ?_)
    · refine signalRing_keeps ?_
      assumption
    assumption
  assumption

theorem drainHeld_keeps {a s : State} {fn r n : Nat} (h : Keeps a s) : Keeps a (drainHeld fn r n s) := by
  induction n generalizing s with
  | zero => exact h
  | succ n ih =>
    simp only [drainHeld]
    split
    · exact h
    · split
      · exact ih (writeCqe_keeps (modRing_keeps h))
      · exact h

theorem postCqe_keeps {a : State} {x0 x1 s} (h : Keeps a s) : Keeps a (postCqe x0 x1 s) := by
  delta postCqe
  extract_lets -merge +onlyGivenNames l0_0 l0_1 l0_2
  clear_value l0_0
  clear_value l0_1
  have h0_2 : Keeps a l0_2 := by
    subst l0_2
    refine modRing_keeps ?_
    assumption
  clear_value l0_2
  refine Keeps.ite (fun _ => ?_) (fun _ => ?_)
  · refine countLost_keeps ?_
    assumption
  refine Keeps.ite (fun _ => ?_) (fun _ => ?_)
  · assumption
  refine Keeps.ite (fun _ => ?_) (fun _ => ?_)
  · refine writeCqe_keeps ?_
    assumption
  refine Keeps.ite (fun _ => ?_) (fun _ => ?_)
  · refine eventFor_keeps ?_
    refine fnErr_keeps ?_
    assumption
  assumption

theorem setInflight_keeps {a : State} {x0 s} (h : Keeps a s) : Keeps a (setInflight x0 s) := by
  delta setInflight
  refine Keeps.upd ?_ rfl
  assumption

theorem startDesc_keeps {a : State} {x0 s} (h : Keeps a s) : Keeps a (startDesc x0 s) := by
  delta startDesc
  refine setInflight_keeps ?_
  assumption

theorem finish_keeps {a : State} {x0 x1 x2 x3 x4 s} (h : Keeps a s) : Keeps a (finish x0 x1 x2 x3 x4 s) := by
  delta finish
  split
  · assumption
  · extract_lets -merge +onlyGivenNames l2_0 l2_1
    have h2_0 : Keeps a l2_0 := by
      subst l2_0
      refine setInflight_keeps ?_
      assumption
    clear_value l2_0
    have h2_1 : Keeps a l2_1 := by
      subst l2_1
      refine modFn_keeps ?_
      assumption
    clear_value l2_1
    refine Keeps.ite (fun _ => ?_) (fun _ => ?_)
    · refine countLost_keeps ?_
      assumption
    refine postCqe_keeps ?_
    assumption

theorem finishOk_keeps {a : State} {x0 s} (h : Keeps a s) : Keeps a (finishOk x0 s) := by
  delta finishOk
  refine finish_keeps ?_
  assumption

theorem flushRefused_keeps {a s : State} {n : Nat} (h : Keeps a s) : Keeps a (flushRefused n s) := by
  induction n generalizing s with
  | zero => exact h
  | succ n ih =>
    simp only [flushRefused]
    split
    · exact h
    · split
      · exact ih (finish_keeps h)
      · exact h

theorem settleHif_keeps {a : State} {s} (h : Keeps a s) : Keeps a (settleHif s) := by
  delta settleHif
  refine flushRefused_keeps ?_
  assumption

theorem dropBell_keeps {a : State} {x0 s} (h : Keeps a s) : Keeps a (dropBell x0 s) := by
  delta dropBell
  refine modFn_keeps ?_
  assumption

theorem doorbell_keeps {a : State} {x0 x1 x2 x3 s} (h : Keeps a s) (h3 : ∀ y0, Keeps a y0 → Keeps a (x3 y0)) : Keeps a (doorbell x0 x1 x2 x3 s) := by
  delta doorbell
  refine Keeps.ite (fun _ => ?_) (fun _ => ?_)
  · refine dropBell_keeps ?_
    assumption
  refine Keeps.ite (fun _ => ?_) (fun _ => ?_)
  · refine eventFor_keeps ?_
    refine fnErr_keeps ?_
    refine dropBell_keeps ?_
    assumption
  refine Keeps.ite (fun _ => ?_) (fun _ => ?_)
  · refine eventFor_keeps ?_
    refine fnErr_keeps ?_
    refine dropBell_keeps ?_
    assumption
  apply_assumption
  assumption

theorem doSqDoorbell_keeps {a : State} {x0 x1 x2 x3 s} (h : Keeps a s) : Keeps a (doSqDoorbell x0 x1 x2 x3 s) := by
  delta doSqDoorbell
  extract_lets -merge +onlyGivenNames l0_0
  have h0_0 : Keeps a l0_0 := by
    subst l0_0
    refine advance_keeps ?_
    assumption
  clear_value l0_0
  refine Keeps.ite (fun _ => ?_) (fun _ => ?_)
  · refine doorbell_keeps ?_ ?_
    · assumption
    intro _ _
    refine modRing_keeps ?_
    assumption
  assumption

theorem releaseTo_keeps {a : State} {x0 x1 x2 s} (h : Keeps a s) : Keeps a (releaseTo x0 x1 x2 s) := by
  delta releaseTo
  extract_lets -merge +onlyGivenNames l0_0 l0_1 l0_2
  clear_value l0_0
  clear_value l0_1
  have h0_2 : Keeps a l0_2 := by
    subst l0_2
    refine modRing_keeps ?_
    assumption
  clear_value l0_2
  refine drainHeld_keeps ?_
  assumption

theorem doCqDoorbell_keeps {a : State} {x0 x1 x2 x3 s} (h : Keeps a s) : Keeps a (doCqDoorbell x0 x1 x2 x3 s) := by
  delta doCqDoorbell
  extract_lets -merge +onlyGivenNames l0_0
  have h0_0 : Keeps a l0_0 := by
    subst l0_0
    refine advance_keeps ?_
    assumption
  clear_value l0_0
  refine Keeps.ite (fun _ => ?_) (fun _ => ?_)
  · refine doorbell_keeps ?_ ?_
    · assumption
    intro _ _
    refine releaseTo_keeps ?_
    assumption
  assumption

theorem ringError_keeps {a : State} {x0 x1 x2 s} (h : Keeps a s) : Keeps a (ringError x0 x1 x2 s) := by
  delta ringError
  refine sendMsix_keeps ?_
  refine modRing_keeps ?_
  assumption

theorem enableRing_keeps {a : State} {x0 x1 s} (h : Keeps a s) : Keeps a (enableRing x0 x1 s) := by
  delta enableRing
  extract_lets -merge +onlyGivenNames l0_0 l0_1 l0_2 l0_3
  clear_value l0_0
  clear_value l0_1
  have h0_2 : Keeps a l0_2 := by
    subst l0_2
    refine fldSet_keeps ?_
    assumption
  clear_value l0_2
  have h0_3 : Keeps a l0_3 := by
    subst l0_3
    refine modRing_keeps ?_
    assumption
  clear_value l0_3
  refine Keeps.ite (fun _ => ?_) (fun _ => ?_)
  · refine ringError_keeps ?_
    assumption
  refine Keeps.ite (fun _ => ?_) (fun _ => ?_)
  · refine Keeps.ite (fun _ => ?_) (fun _ => ?_)
    · refine modRing_keeps ?_
      assumption
    refine ringError_keeps ?_
    assumption
  refine modRing_keeps ?_
  assumption

theorem doRingEnable_keeps {a : State} {x0 x1 x2 s} (h : Keeps a s) : Keeps a (doRingEnable x0 x1 x2 s) := by
  delta doRingEnable
  extract_lets -merge +onlyGivenNames l0_0
  have h0_0 : Keeps a l0_0 := by
    subst l0_0
    refine advance_keeps ?_
    assumption
  clear_value l0_0
  refine Keeps.ite (fun _ => ?_) (fun _ => ?_)
  · refine enableRing_keeps ?_
    assumption
  assumption

theorem disableRing_keeps {a : State} {x0 x1 s} (h : Keeps a s) : Keeps a (disableRing x0 x1 s) := by
  delta disableRing
  extract_lets -merge +onlyGivenNames l0_0
  clear_value l0_0
  refine Keeps.ite (fun _ => ?_) (fun _ => ?_)
  · split
    · refine modRing_keeps ?_
      refine fldSet_keeps ?_
      assumption
    · refine modRing_keeps ?_
      refine fldSet_keeps ?_
      assumption
    · assumption
  refine Keeps.ite (fun _ => ?_) (fun _ => ?_)
  · refine modRing_keeps ?_
    refine fldSet_keeps ?_
    assumption
  assumption

theorem doRingDisable_keeps {a : State} {x0 x1 x2 s} (h : Keeps a s) : Keeps a (doRingDisable x0 x1 x2 s) := by
  delta doRingDisable
  extract_lets -merge +onlyGivenNames l0_0
  have h0_0 : Keeps a l0_0 := by
    subst l0_0
    refine advance_keeps ?_
    assumption
  clear_value l0_0
  refine Keeps.ite (fun _ => ?_) (fun _ => ?_)
  · refine disableRing_keeps ?_
    assumption
  assumption

theorem doRingDrainDone_keeps {a : State} {x0 x1 x2 s} (h : Keeps a s) : Keeps a (doRingDrainDone x0 x1 x2 s) := by
  delta doRingDrainDone
  extract_lets -merge +onlyGivenNames l0_0
  have h0_0 : Keeps a l0_0 := by
    subst l0_0
    refine advance_keeps ?_
    assumption
  clear_value l0_0
  refine Keeps.ite (fun _ => ?_) (fun _ => ?_)
  · refine modRing_keeps ?_
    assumption
  assumption

theorem doRingFetchError_keeps {a : State} {x0 x1 x2 x3 s} (h : Keeps a s) : Keeps a (doRingFetchError x0 x1 x2 x3 s) := by
  delta doRingFetchError
  extract_lets -merge +onlyGivenNames l0_0 l0_1 l0_2 l0_3
  have h0_0 : Keeps a l0_0 := by
    subst l0_0
    refine advance_keeps ?_
    assumption
  clear_value l0_0
  have h0_1 : Keeps a l0_1 := by
    subst l0_1
    refine fnErr_keeps ?_
    assumption
  clear_value l0_1
  have h0_2 : Keeps a l0_2 := by
    subst l0_2
    refine ringError_keeps ?_
    assumption
  clear_value l0_2
  have h0_3 : Keeps a l0_3 := by
    subst l0_3
    refine eventFor_keeps ?_
    assumption
  clear_value l0_3
  refine Keeps.ite (fun _ => ?_) (fun _ => ?_)
  · refine send_keeps ?_
    assumption
  assumption

theorem doCoalesceTimeout_keeps {a : State} {x0 x1 x2 s} (h : Keeps a s) : Keeps a (doCoalesceTimeout x0 x1 x2 s) := by
  delta doCoalesceTimeout
  extract_lets -merge +onlyGivenNames l0_0 l0_1
  have h0_0 : Keeps a l0_0 := by
    subst l0_0
    refine advance_keeps ?_
    assumption
  clear_value l0_0
  clear_value l0_1
  refine Keeps.ite (fun _ => ?_) (fun _ => ?_)
  · refine signalRing_keeps ?_
    assumption
  assumption

theorem doMsixUnmask_keeps {a : State} {x0 x1 x2 s} (h : Keeps a s) : Keeps a (doMsixUnmask x0 x1 x2 s) := by
  delta doMsixUnmask
  extract_lets -merge +onlyGivenNames l0_0 l0_1 l0_2
  have h0_0 : Keeps a l0_0 := by
    subst l0_0
    refine advance_keeps ?_
    assumption
  clear_value l0_0
  clear_value l0_1
  have h0_2 : Keeps a l0_2 := by
    subst l0_2
    refine modFn_keeps ?_
    assumption
  clear_value l0_2
  refine Keeps.ite (fun _ => ?_) (fun _ => ?_)
  · refine Keeps.ite (fun _ => ?_) (fun _ => ?_)
    · refine sendMsix_keeps ?_
      assumption
    assumption
  assumption

theorem doPcieLinkDown_keeps {a : State} {x0 x1 s} (h : Keeps a s) : Keeps a (doPcieLinkDown x0 x1 s) := by
  delta doPcieLinkDown
  extract_lets -merge +onlyGivenNames l0_0 l0_1 l0_2
  have h0_0 : Keeps a l0_0 := by
    subst l0_0
    refine advance_keeps ?_
    assumption
  clear_value l0_0
  have h0_1 : Keeps a l0_1 := by
    subst l0_1
    refine modPLink_keeps ?_
    assumption
  clear_value l0_1
  have h0_2 : Keeps a l0_2 := by
    subst l0_2
    refine Keeps.foldl ?_ fun _ _ _ => ?_
    · assumption
    refine fnErr_keeps ?_
    assumption
  clear_value l0_2
  refine Keeps.ite (fun _ => ?_) (fun _ => ?_)
  · refine event_keeps ?_
    assumption
  assumption

theorem ringsOff_keeps {a : State} {x0 s} (h : Keeps a s) : Keeps a (ringsOff x0 s) := by
  delta ringsOff
  extract_lets -merge +onlyGivenNames l0_0
  have h0_0 : Keeps a l0_0 := by
    subst l0_0
    refine Keeps.foldl ?_ fun _ _ _ => ?_
    · assumption
    refine fldSet_keeps ?_
    assumption
  clear_value l0_0
  refine modFn_keeps ?_
  assumption

theorem ringsLost_keeps {a : State} {x0 s} (h : Keeps a s) : Keeps a (ringsLost x0 s) := by
  delta ringsLost
  extract_lets -merge +onlyGivenNames l0_0
  have h0_0 : Keeps a l0_0 := by
    subst l0_0
    refine countLost_keeps ?_
    assumption
  clear_value l0_0
  refine ringsOff_keeps ?_
  refine setInflight_keeps ?_
  assumption

theorem doPcieLinkReturn_keeps {a : State} {x0 x1 x2 x3 x4 s} (h : Keeps a s) : Keeps a (doPcieLinkReturn x0 x1 x2 x3 x4 s) := by
  delta doPcieLinkReturn
  extract_lets -merge +onlyGivenNames l0_0 l0_1
  have h0_0 : Keeps a l0_0 := by
    subst l0_0
    refine advance_keeps ?_
    assumption
  clear_value l0_0
  have h0_1 : Keeps a l0_1 := by
    subst l0_1
    refine modPLink_keeps ?_
    assumption
  clear_value l0_1
  refine Keeps.ite (fun _ => ?_) (fun _ => ?_)
  · refine Keeps.foldl ?_ fun _ _ _ => ?_
    · assumption
    refine ringsLost_keeps ?_
    assumption
  assumption

end Sys2Proof.Machine
end

