-- ==== Sys2Proof/Laws/KeepsMemory.lean ====
section
/-!
SUPPORT. Laws/KeepsMemory.lean: the operations of Machine/Memory.lean keep what `Keeps` says (Laws/Keeps.lean).
-/
namespace Sys2Proof.Machine

theorem drcErr_keeps {a : State} {x0 x1 x2 s} (h : Keeps a s) : Keeps a (drcErr x0 x1 x2 s) := by
  delta drcErr
  refine stick_keeps ?_
  assumption

theorem capture_keeps {a : State} {x0 x1 s} (h : Keeps a s) : Keeps a (capture x0 x1 s) := by
  delta capture
  refine Keeps.ite (fun _ => ?_) (fun _ => ?_)
  · assumption
  extract_lets -merge +onlyGivenNames l2_0
  have h2_0 : Keeps a l2_0 := by
    subst l2_0
    refine modDrc_keeps ?_
    assumption
  clear_value l2_0
  refine event_keeps ?_
  refine fldSet_keeps ?_
  assumption

theorem failedRead_keeps {a : State} {x0 x1 x2 s} (h : Keeps a s) : Keeps a (failedRead x0 x1 x2 s) := by
  delta failedRead
  extract_lets -merge +onlyGivenNames l0_0 l0_1 l0_2 l0_3 l0_4 l0_5 l0_6 l0_7 l0_8 l0_9 l0_10 l0_11
  clear_value l0_0
  clear_value l0_1
  clear_value l0_2
  clear_value l0_3
  clear_value l0_4
  subst l0_5
  try dsimp -zeta -zetaHave -zetaUnused -iota -proj only
  clear_value l0_6
  clear_value l0_7
  have h0_8 : Keeps a l0_8 := by
    subst l0_8
    refine modDrc_keeps ?_
    assumption
  clear_value l0_8
  have h0_9 : Keeps a l0_9 := by
    subst l0_9
    refine Keeps.ite (fun _ => ?_) (fun _ => ?_)
    · assumption
    refine Keeps.upd ?_ rfl
    assumption
  clear_value l0_9
  have h0_10 : Keeps a l0_10 := by
    subst l0_10
    refine drcErr_keeps ?_
    assumption
  clear_value l0_10
  have h0_11 : Keeps a l0_11 := by
    subst l0_11
    refine Keeps.ite (fun _ => ?_) (fun _ => ?_)
    · refine eventFor_keeps ?_
      assumption
    refine eventFor_keeps ?_
    assumption
  clear_value l0_11
  refine Keeps.ite (fun _ => ?_) (fun _ => ?_)
  · refine capture_keeps ?_
    assumption
  assumption

theorem checkLines_keeps {a : State} {x0 x1 x2 s} (h : Keeps a s) : Keeps a (checkLines x0 x1 x2 s).2 := by
  delta checkLines
  split
  · refine Keeps.pair ?_
    assumption
  · refine Keeps.pair ?_
    refine failedRead_keeps ?_
    assumption
  · refine Keeps.pair ?_
    refine failedRead_keeps ?_
    assumption

theorem healLines_keeps {a : State} {x0 x1 s} (h : Keeps a s) : Keeps a (healLines x0 x1 s) := by
  delta healLines
  extract_lets -merge +onlyGivenNames l0_0 l0_1 l0_2 l0_3 l0_4
  clear_value l0_0
  clear_value l0_1
  clear_value l0_2
  clear_value l0_3
  clear_value l0_4
  refine Keeps.upd ?_ rfl
  assumption

theorem writeDev_keeps {a : State} {x0 x1 x2 s} (h : Keeps a s) : Keeps a (writeDev x0 x1 x2 s).2 := by
  delta writeDev
  extract_lets -merge +onlyGivenNames l0_0 l0_1 l0_2 l0_3 l0_4
  clear_value l0_0
  clear_value l0_1
  subst l0_2
  try dsimp -zeta -zetaHave -zetaUnused -iota -proj only
  clear_value l0_3
  clear_value l0_4
  refine Keeps.ite2 (fun _ => ?_) (fun _ => ?_)
  · refine Keeps.pair ?_
    assumption
  refine Keeps.ite2 (fun _ => ?_) (fun _ => ?_)
  · refine Keeps.pair ?_
    refine failedRead_keeps ?_
    assumption
  split
  · rename_i hq
    have hk := Keeps.ofEq (a := a) (by
      refine Keeps.ite2 (fun _ => ?_) (fun _ => ?_)
      · refine checkLines_keeps ?_
        assumption
      refine Keeps.pair ?_
      assumption) hq
    split
    · rename_i hq
      have hk := Keeps.ofEq (a := a) (by
        refine Keeps.ite2 (fun _ => ?_) (fun _ => ?_)
        · refine checkLines_keeps ?_
          assumption
        refine Keeps.pair ?_
        assumption) hq
      extract_lets -merge +onlyGivenNames l30_0 l30_1 l30_2
      clear_value l30_0
      clear_value l30_1
      have h30_2 : Keeps a l30_2 := by
        subst l30_2
        refine Keeps.putDram ?_
        assumption
      clear_value l30_2
      refine Keeps.pair ?_
      refine healLines_keeps ?_
      assumption

theorem enqueue_keeps {a : State} {x0 x1 x2 s} (h : Keeps a s) : Keeps a (enqueue x0 x1 x2 s) := by
  delta enqueue
  extract_lets -merge +onlyGivenNames l0_0 l0_1
  have h0_0 : Keeps a l0_0 := by
    subst l0_0
    refine Keeps.ite (fun _ => ?_) (fun _ => ?_)
    · refine commit_keeps ?_
      assumption
    assumption
  clear_value l0_0
  have h0_1 : Keeps a l0_1 := by
    subst l0_1
    refine modPtn_keeps ?_
    assumption
  clear_value l0_1
  refine Keeps.ite (fun _ => ?_) (fun _ => ?_)
  · refine eventFor_keeps ?_
    refine stick_keeps ?_
    refine modPtn_keeps ?_
    assumption
  assumption

theorem mirrorWrite_keeps {a : State} {x0 x1 x2 s} (h : Keeps a s) : Keeps a (mirrorWrite x0 x1 x2 s) := by
  delta mirrorWrite
  refine Keeps.ite (fun _ => ?_) (fun _ => ?_)
  · assumption
  refine Keeps.foldl ?_ fun _ _ _ => ?_
  · assumption
  extract_lets -merge +onlyGivenNames l4_0
  clear_value l4_0
  refine Keeps.ite (fun _ => ?_) (fun _ => ?_)
  · refine enqueue_keeps ?_
    assumption
  assumption

theorem mirrorSem_keeps {a : State} {x0 x1 x2 x3 s} (h : Keeps a s) : Keeps a (mirrorSem x0 x1 x2 x3 s) := by
  delta mirrorSem
  refine Keeps.foldl ?_ fun _ _ _ => ?_
  · assumption
  extract_lets -merge +onlyGivenNames l2_0 l2_1
  clear_value l2_0
  clear_value l2_1
  refine Keeps.ite (fun _ => ?_) (fun _ => ?_)
  · refine enqueue_keeps ?_
    assumption
  assumption

theorem readPart_keeps {a : State} {x0 x1 x2 x3 s} (h : Keeps a s) : Keeps a (readPart x0 x1 x2 x3 s).2 := by
  delta readPart
  split
  · refine Keeps.pair ?_
    assumption
  · refine Keeps.foldl2 ?_ fun _ _ _ => ?_
    · refine Keeps.pair ?_
      assumption
    split
    · assumption
    · extract_lets -merge +onlyGivenNames l8_0
      clear_value l8_0
      split
      · rename_i hq
        have hk := Keeps.ofEq (a := a) (by
          refine checkLines_keeps ?_
          assumption) hq
        refine Keeps.pair ?_
        assumption
      · rename_i hq
        have hk := Keeps.ofEq (a := a) (by
          refine checkLines_keeps ?_
          assumption) hq
        refine Keeps.pair ?_
        assumption

theorem writePart_keeps {a : State} {x0 x1 x2 x3 s} (h : Keeps a s) : Keeps a (writePart x0 x1 x2 x3 s).2 := by
  delta writePart
  split
  · refine Keeps.pair ?_
    assumption
  · split
    · rename_i hq
      have hk := Keeps.ofEq (a := a) (by
        refine Keeps.foldl2 ?_ fun _ _ _ => ?_
        · refine Keeps.pair ?_
          assumption
        split
        · rename_i hq
          have hk := Keeps.ofEq (a := a) (by
            refine writeDev_keeps ?_
            assumption) hq
          refine Keeps.pair ?_
          assumption) hq
      refine Keeps.pair ?_
      refine mirrorWrite_keeps ?_
      assumption

theorem writeCtx_keeps {a : State} {x0 x1 x2 x3 s} (h : Keeps a s) : Keeps a (writeCtx x0 x1 x2 x3 s).2 := by
  delta writeCtx
  split
  · refine Keeps.pair ?_
    assumption
  · refine writePart_keeps ?_
    assumption

theorem zeroGranule_keeps {a : State} {x0 s} (h : Keeps a s) : Keeps a (zeroGranule x0 s) := by
  delta zeroGranule
  refine Keeps.eraseDram ?_
  assumption

end Sys2Proof.Machine
end

