-- ==== Sys2Proof/Laws/KeepsRecord.lean ====
section
/-!
SUPPORT. Laws/KeepsRecord.lean: the operations of Machine/Record.lean keep what `Keeps` says (Laws/Keeps.lean).
-/
namespace Sys2Proof.Machine

theorem poke_keeps {a : State} {x0 x1 x2 s} (h : Keeps a s) : Keeps a (poke x0 x1 x2 s) := by
  delta poke
  refine writePart_keeps ?_
  assumption

theorem recDispatch_keeps {a : State} {x0 x1 x2 x3 x4 x5 s} (h : Keeps a s) : Keeps a (recDispatch x0 x1 x2 x3 x4 x5 s).1 := by
  delta recDispatch
  split
  · show Keeps a _
    assumption
  · extract_lets -merge +onlyGivenNames l3_0 l3_1 l3_2 l3_3 l3_4 l3_5 l3_6
    clear_value l3_0
    clear_value l3_1
    have h3_2 : Keeps a l3_2 := by
      subst l3_2
      refine modCtx_keeps ?_
      assumption
    clear_value l3_2
    clear_value l3_3
    clear_value l3_4
    clear_value l3_5
    clear_value l3_6
    split
    · show Keeps a _
      refine poke_keeps ?_
      assumption
    · show Keeps a _
      refine poke_keeps ?_
      assumption

theorem recFinish_keeps {a : State} {x0 x1 x2 x3 s} (h : Keeps a s) : Keeps a (recFinish x0 x1 x2 x3 s) := by
  delta recFinish
  extract_lets -merge +onlyGivenNames l0_0
  clear_value l0_0
  split
  · split
    · extract_lets -merge +onlyGivenNames l4_0 l4_1 l4_2
      have h4_0 : Keeps a l4_0 := by
        subst l4_0
        refine poke_keeps ?_
        assumption
      clear_value l4_0
      have h4_1 : Keeps a l4_1 := by
        subst l4_1
        refine poke_keeps ?_
        assumption
      clear_value l4_1
      have h4_2 : Keeps a l4_2 := by
        subst l4_2
        refine poke_keeps ?_
        assumption
      clear_value l4_2
      refine modCtx_keeps ?_
      assumption
    · assumption
  · assumption

theorem recStop_keeps {a : State} {x0 x1 x2 s} (h : Keeps a s) : Keeps a (recStop x0 x1 x2 s) := by
  delta recStop
  split
  · assumption
  · extract_lets -merge +onlyGivenNames l2_0 l2_1
    have h2_0 : Keeps a l2_0 := by
      subst l2_0
      refine poke_keeps ?_
      assumption
    clear_value l2_0
    have h2_1 : Keeps a l2_1 := by
      subst l2_1
      refine poke_keeps ?_
      assumption
    clear_value l2_1
    refine modCtx_keeps ?_
    assumption

theorem writeDigest_keeps {a : State} {x0 x1 x2 s} (h : Keeps a s) : Keeps a (writeDigest x0 x1 x2 s) := by
  delta writeDigest
  refine Keeps.ite (fun _ => ?_) (fun _ => ?_)
  · refine hostWrite_keeps ?_
    assumption
  assumption

end Sys2Proof.Machine
end

