-- ==== Sys2Proof/Laws/KeepsPrt.lean ====
section
/-!
SUPPORT. Laws/KeepsPrt.lean: the operations of Machine/Prt.lean keep what `Keeps` says (Laws/Keeps.lean).
-/
namespace Sys2Proof.Machine

theorem wake_keeps {a : State} {x0 s} (h : Keeps a s) : Keeps a (wake x0 s) := by
  delta wake
  refine Keeps.upd ?_ rfl
  assumption

theorem changed_keeps {a : State} {s} (h : Keeps a s) : Keeps a (changed s) := by
  delta changed
  refine Keeps.upd ?_ rfl
  assumption

theorem prtErr_keeps {a : State} {x0 x1 s} (h : Keeps a s) : Keeps a (prtErr x0 x1 s) := by
  delta prtErr
  refine stick_keeps ?_
  assumption

theorem freeCore_keeps {a : State} {x0 s} (h : Keeps a s) : Keeps a (freeCore x0 s) := by
  delta freeCore
  refine modCore_keeps ?_
  assumption

theorem releaseCores_keeps {a : State} {x0 x1 s} (h : Keeps a s) : Keeps a (releaseCores x0 x1 s) := by
  delta releaseCores
  extract_lets -merge +onlyGivenNames l0_0
  have h0_0 : Keeps a l0_0 := by
    subst l0_0
    refine Keeps.foldl ?_ fun _ _ _ => ?_
    · assumption
    refine freeCore_keeps ?_
    assumption
  clear_value l0_0
  refine wake_keeps ?_
  refine modCtx_keeps ?_
  assumption

theorem stopClock_keeps {a : State} {x0 x1 s} (h : Keeps a s) : Keeps a (stopClock x0 x1 s) := by
  delta stopClock
  refine modCtx_keeps ?_
  assumption

theorem startClock_keeps {a : State} {x0 x1 s} (h : Keeps a s) : Keeps a (startClock x0 x1 s) := by
  delta startClock
  refine modCtx_keeps ?_
  assumption

theorem setSem_keeps {a : State} {x0 x1 x2 s} (h : Keeps a s) : Keeps a (setSem x0 x1 x2 s) := by
  delta setSem
  refine modPart_keeps ?_ fun _ => rfl
  assumption

theorem setMutex_keeps {a : State} {x0 x1 x2 s} (h : Keeps a s) : Keeps a (setMutex x0 x1 x2 s) := by
  delta setMutex
  refine modPart_keeps ?_ fun _ => rfl
  assumption

theorem dropWaiting_keeps {a : State} {x0 x1 s} (h : Keeps a s) : Keeps a (dropWaiting x0 x1 s) := by
  delta dropWaiting
  refine modPart_keeps ?_ fun _ => rfl
  assumption

theorem refreshBlocked_keeps {a : State} {x0 x1 s} (h : Keeps a s) : Keeps a (refreshBlocked x0 x1 s) := by
  delta refreshBlocked
  refine Keeps.ite (fun _ => ?_) (fun _ => ?_)
  · refine modCtx_keeps ?_
    assumption
  assumption

theorem answerCore_keeps {a : State} {x0 x1 x2 x3 x4 s} (h : Keeps a s) : Keeps a (answerCore x0 x1 x2 x3 x4 s) := by
  delta answerCore
  extract_lets -merge +onlyGivenNames l0_0 l0_1
  clear_value l0_0
  have h0_1 : Keeps a l0_1 := by
    subst l0_1
    refine modCtx_keeps ?_
    assumption
  clear_value l0_1
  split
  · refine Keeps.ite (fun _ => ?_) (fun _ => ?_)
    · refine modCtx_keeps ?_
      assumption
    refine refreshBlocked_keeps ?_
    refine modCtx_keeps ?_
    refine modCore_keeps ?_
    assumption
  · refine Keeps.ite (fun _ => ?_) (fun _ => ?_)
    · refine wake_keeps ?_
      refine modCtx_keeps ?_
      assumption
    assumption

theorem answer_keeps {a : State} {x0 x1 x2 s} (h : Keeps a s) : Keeps a (answer x0 x1 x2 s) := by
  delta answer
  split
  · refine answerCore_keeps ?_
    assumption
  · refine finish_keeps ?_
    assumption

theorem serveSem_keeps {a : State} {x0 x1 x2 s} (h : Keeps a s) : Keeps a (serveSem x0 x1 x2 s) := by
  induction x2 generalizing x0 x1 s with
  | zero =>
    rw [serveSem.eq_1]
    assumption
  | succ n ih =>
    rw [serveSem.eq_2]
    split
    · assumption
    · extract_lets -merge +onlyGivenNames l2_0 l2_1
      have h2_0 : Keeps a l2_0 := by
        subst l2_0
        refine dropWaiting_keeps ?_
        assumption
      clear_value l2_0
      have h2_1 : Keeps a l2_1 := by
        subst l2_1
        split
        · refine setSem_keeps ?_
          assumption
        · assumption
      clear_value l2_1
      refine ih ?_
      refine answer_keeps ?_
      assumption

theorem semOp_keeps {a : State} {x0 x1 x2 x3 s} (h : Keeps a s) : Keeps a (semOp x0 x1 x2 x3 s) := by
  delta semOp
  extract_lets -merge +onlyGivenNames l0_0 l0_1
  clear_value l0_0
  have h0_1 : Keeps a l0_1 := by
    subst l0_1
    refine changed_keeps ?_
    refine setSem_keeps ?_
    assumption
  clear_value l0_1
  refine mirrorSem_keeps ?_
  refine serveSem_keeps ?_
  assumption

theorem serveMutex_keeps {a : State} {x0 x1 s} (h : Keeps a s) : Keeps a (serveMutex x0 x1 s) := by
  delta serveMutex
  extract_lets -merge +onlyGivenNames l0_0
  clear_value l0_0
  refine Keeps.ite (fun _ => ?_) (fun _ => ?_)
  · assumption
  split
  · assumption
  · split
    · extract_lets -merge +onlyGivenNames l7_0
      have h7_0 : Keeps a l7_0 := by
        subst l7_0
        refine setMutex_keeps ?_
        refine dropWaiting_keeps ?_
        assumption
      clear_value l7_0
      refine answer_keeps ?_
      assumption
    · assumption

theorem releaseMutex_keeps {a : State} {x0 x1 x2 s} (h : Keeps a s) : Keeps a (releaseMutex x0 x1 x2 s) := by
  delta releaseMutex
  extract_lets -merge +onlyGivenNames l0_0 l0_1
  have h0_0 : Keeps a l0_0 := by
    subst l0_0
    refine setMutex_keeps ?_
    assumption
  clear_value l0_0
  have h0_1 : Keeps a l0_1 := by
    subst l0_1
    refine Keeps.ite (fun _ => ?_) (fun _ => ?_)
    · refine modPart_keeps ?_ fun _ => rfl
      assumption
    assumption
  clear_value l0_1
  refine changed_keeps ?_
  refine serveMutex_keeps ?_
  assumption

theorem abandonAll_keeps {a : State} {x0 x1 s} (h : Keeps a s) : Keeps a (abandonAll x0 x1 s) := by
  delta abandonAll
  refine Keeps.foldl ?_ fun _ _ _ => ?_
  · assumption
  refine releaseMutex_keeps ?_
  assumption

theorem heelIn_keeps {a : State} {x0 x1 x2 x3 s} (h : Keeps a s) : Keeps a (heelIn x0 x1 x2 x3 s) := by
  delta heelIn
  extract_lets -merge +onlyGivenNames l0_0 l0_1 l0_2
  clear_value l0_0
  have h0_1 : Keeps a l0_1 := by
    subst l0_1
    refine stopClock_keeps ?_
    assumption
  clear_value l0_1
  have h0_2 : Keeps a l0_2 := by
    subst l0_2
    refine modCtx_keeps ?_
    assumption
  clear_value l0_2
  refine Keeps.ite (fun _ => ?_) (fun _ => ?_)
  · refine changed_keeps ?_
    refine Keeps.foldl ?_ fun _ _ _ => ?_
    · assumption
    refine modCore_keeps ?_
    assumption
  assumption

theorem inheritOne_keeps {a : State} {x0 x1 x2 s} (h : Keeps a s) : Keeps a (inheritOne x0 x1 x2 s) := by
  delta inheritOne
  split
  · assumption
  · extract_lets -merge +onlyGivenNames l2_0 l2_1 l2_2 l2_3 l2_4
    clear_value l2_0
    clear_value l2_1
    have h2_2 : Keeps a l2_2 := by
      subst l2_2
      refine modCtx_keeps ?_
      assumption
    clear_value l2_2
    have h2_3 : Keeps a l2_3 := by
      subst l2_3
      refine modPart_keeps ?_ fun _ => rfl
      assumption
    clear_value l2_3
    have h2_4 : Keeps a l2_4 := by
      subst l2_4
      refine record_keeps ?_
      assumption
    clear_value l2_4
    refine Keeps.ite (fun _ => ?_) (fun _ => ?_)
    · refine wake_keeps ?_
      refine heelIn_keeps ?_
      assumption
    assumption

theorem inheritAll_keeps {a : State} {x0 s} (h : Keeps a s) : Keeps a (inheritAll x0 s) := by
  delta inheritAll
  refine Keeps.foldl ?_ fun _ _ _ => ?_
  · assumption
  split
  · refine inheritOne_keeps ?_
    assumption
  · assumption

theorem heelNow_keeps {a : State} {x0 x1 x2 s} (h : Keeps a s) : Keeps a (heelNow x0 x1 x2 s) := by
  delta heelNow
  refine inheritAll_keeps ?_
  refine heelIn_keeps ?_
  assumption

theorem stopContext_keeps {a : State} {x0 x1 s} (h : Keeps a s) : Keeps a (stopContext x0 x1 s) := by
  delta stopContext
  extract_lets -merge +onlyGivenNames l0_0 l0_1 l0_2
  have h0_0 : Keeps a l0_0 := by
    subst l0_0
    refine modPart_keeps ?_ fun _ => rfl
    assumption
  clear_value l0_0
  have h0_1 : Keeps a l0_1 := by
    subst l0_1
    refine abandonAll_keeps ?_
    assumption
  clear_value l0_1
  have h0_2 : Keeps a l0_2 := by
    subst l0_2
    refine Keeps.foldl ?_ fun _ _ _ => ?_
    · assumption
    refine freeCore_keeps ?_
    assumption
  clear_value l0_2
  refine wake_keeps ?_
  refine modCtx_keeps ?_
  assumption

theorem swatchResult_keeps {a : State} {x0 x1 x2 s} (h : Keeps a s) : Keeps a (swatchResult x0 x1 x2 s) := by
  delta swatchResult
  extract_lets -merge +onlyGivenNames l0_0
  clear_value l0_0
  refine modIsl_keeps ?_
  assumption

theorem teardown_keeps {a : State} {x0 x1 x2 x3 x4 x5 x6 s} (h : Keeps a s) : Keeps a (teardown x0 x1 x2 x3 x4 x5 x6 s) := by
  delta teardown
  extract_lets -merge +onlyGivenNames l0_0 l0_1 l0_2 l0_3 l0_4 l0_5 l0_6 l0_7 l0_8 l0_9 l0_10 l0_11 l0_12 l0_13
  clear_value l0_0
  clear_value l0_1
  have h0_2 : Keeps a l0_2 := by
    subst l0_2
    refine stopClock_keeps ?_
    assumption
  clear_value l0_2
  have h0_3 : Keeps a l0_3 := by
    subst l0_3
    refine stopContext_keeps ?_
    assumption
  clear_value l0_3
  have h0_4 : Keeps a l0_4 := by
    subst l0_4
    refine recFinish_keeps ?_
    assumption
  clear_value l0_4
  have h0_5 : Keeps a l0_5 := by
    subst l0_5
    refine recStop_keeps ?_
    assumption
  clear_value l0_5
  clear_value l0_6
  have h0_7 : Keeps a l0_7 := by
    subst l0_7
    split
    · refine finish_keeps ?_
      assumption
    · assumption
  clear_value l0_7
  have h0_8 : Keeps a l0_8 := by
    subst l0_8
    split
    · refine swatchResult_keeps ?_
      assumption
    · assumption
  clear_value l0_8
  have h0_9 : Keeps a l0_9 := by
    subst l0_9
    refine modCtx_keeps ?_
    assumption
  clear_value l0_9
  have h0_10 : Keeps a l0_10 := by
    subst l0_10
    refine Keeps.foldl ?_ fun _ _ _ => ?_
    · assumption
    refine finish_keeps ?_
    assumption
  clear_value l0_10
  have h0_11 : Keeps a l0_11 := by
    subst l0_11
    refine Keeps.foldl ?_ fun _ _ _ => ?_
    · assumption
    refine finish_keeps ?_
    assumption
  clear_value l0_11
  have h0_12 : Keeps a l0_12 := by
    subst l0_12
    refine modPart_keeps ?_ fun _ => rfl
    assumption
  clear_value l0_12
  clear_value l0_13
  refine Keeps.ite (fun _ => ?_) (fun _ => ?_)
  · assumption
  refine changed_keeps ?_
  refine record_keeps ?_
  assumption

theorem coreFaultAt_keeps {a : State} {x0 x1 x2 x3 x4 s} (h : Keeps a s) : Keeps a (coreFaultAt x0 x1 x2 x3 x4 s) := by
  delta coreFaultAt
  extract_lets -merge +onlyGivenNames l0_0 l0_1
  clear_value l0_0
  have h0_1 : Keeps a l0_1 := by
    subst l0_1
    refine record_keeps ?_
    assumption
  clear_value l0_1
  refine teardown_keeps ?_
  assumption

theorem coreFault_keeps {a : State} {x0 x1 x2 x3 s} (h : Keeps a s) : Keeps a (coreFault x0 x1 x2 x3 s) := by
  delta coreFault
  refine coreFaultAt_keeps ?_
  assumption

theorem coreMemErrAt_keeps {a : State} {x0 x1 x2 s} (h : Keeps a s) : Keeps a (coreMemErrAt x0 x1 x2 s) := by
  delta coreMemErrAt
  extract_lets -merge +onlyGivenNames l0_0 l0_1
  clear_value l0_0
  have h0_1 : Keeps a l0_1 := by
    subst l0_1
    refine record_keeps ?_
    assumption
  clear_value l0_1
  split
  · refine coreFaultAt_keeps ?_
    assumption
  · refine teardown_keeps ?_
    assumption
  · refine teardown_keeps ?_
    assumption

theorem coreMemErr_keeps {a : State} {x0 x1 s} (h : Keeps a s) : Keeps a (coreMemErr x0 x1 s) := by
  delta coreMemErr
  refine coreMemErrAt_keeps ?_
  assumption

theorem startProgram_keeps {a : State} {x0 x1 x2 x3 s} (h : Keeps a s) : Keeps a (startProgram x0 x1 x2 x3 s) := by
  delta startProgram
  extract_lets -merge +onlyGivenNames l0_0
  clear_value l0_0
  split
  · rename_i hq
    have hk := Keeps.ofEq (a := a) (by
      refine readPart_keeps ?_
      assumption) hq
    split
    · split
      · assumption
      · refine coreMemErr_keeps ?_
        assumption
    · extract_lets -merge +onlyGivenNames l12_0
      have h12_0 : Keeps a l12_0 := by
        subst l12_0
        refine Keeps.foldl ?_ fun _ _ _ => ?_
        · assumption
        refine modCore_keeps ?_
        assumption
      clear_value l12_0
      split
      · refine coreFault_keeps ?_
        assumption
      · assumption

theorem dispatchLaunch_keeps {a : State} {x0 x1 x2 s} (h : Keeps a s) : Keeps a (dispatchLaunch x0 x1 x2 s) := by
  delta dispatchLaunch
  split
  · rename_i hq
    have hk := Keeps.ofEq (a := a) (by
      refine Keeps.ite2 (fun _ => ?_) (fun _ => ?_)
      · refine Keeps.pair ?_
        assumption
      refine readPart_keeps ?_
      assumption) hq
    split
    · split
      · assumption
      · refine coreMemErr_keeps ?_
        assumption
    · extract_lets -merge +onlyGivenNames l13_0 l13_1 l13_2 l13_3 l13_4
      clear_value l13_0
      clear_value l13_1
      clear_value l13_2
      clear_value l13_3
      clear_value l13_4
      split
      · rename_i hq
        have hk := Keeps.ofEqL (a := a) (by
          split
          · refine recDispatch_keeps ?_
            assumption
          · show Keeps a _
            assumption) hq
        extract_lets -merge +onlyGivenNames l27_0
        clear_value l27_0
        refine startProgram_keeps ?_
        refine modCtx_keeps ?_
        assumption

theorem replayFinish_keeps {a : State} {x0 x1 s} (h : Keeps a s) : Keeps a (replayFinish x0 x1 s) := by
  delta replayFinish
  extract_lets -merge +onlyGivenNames l0_0
  clear_value l0_0
  split
  · assumption
  · extract_lets -merge +onlyGivenNames l4_0 l4_1 l4_2 l4_3
    clear_value l4_0
    have h4_1 : Keeps a l4_1 := by
      subst l4_1
      refine writeDigest_keeps ?_
      assumption
    clear_value l4_1
    have h4_2 : Keeps a l4_2 := by
      subst l4_2
      refine releaseCores_keeps ?_
      refine abandonAll_keeps ?_
      assumption
    clear_value l4_2
    have h4_3 : Keeps a l4_3 := by
      subst l4_3
      refine modCtx_keeps ?_
      assumption
    clear_value l4_3
    split
    · refine changed_keeps ?_
      refine finish_keeps ?_
      assumption
    · refine changed_keeps ?_
      assumption

theorem replayNext_keeps {a : State} {x0 x1 x2 s} (h : Keeps a s) : Keeps a (replayNext x0 x1 x2 s) := by
  induction x2 generalizing x0 x1 s with
  | zero =>
    rw [replayNext.eq_1]
    refine replayFinish_keeps ?_
    assumption
  | succ n ih =>
    rw [replayNext.eq_2]
    split
    · assumption
    · split
      · assumption
      · refine Keeps.ite (fun _ => ?_) (fun _ => ?_)
        · refine replayFinish_keeps ?_
          assumption
        extract_lets -merge +onlyGivenNames l7_0 l7_1 l7_2 l7_3 l7_4 l7_5 l7_6 l7_7 l7_8 l7_9 l7_10
        clear_value l7_0
        clear_value l7_1
        clear_value l7_2
        clear_value l7_3
        clear_value l7_4
        subst l7_5
        try dsimp -zeta -zetaHave -zetaUnused -iota -proj only
        clear_value l7_6
        clear_value l7_7
        clear_value l7_8
        clear_value l7_9
        clear_value l7_10
        refine Keeps.ite (fun _ => ?_) (fun _ => ?_)
        · refine ih ?_
          refine modCtx_keeps ?_
          assumption
        refine Keeps.ite (fun _ => ?_) (fun _ => ?_)
        · refine ih ?_
          refine modCtx_keeps ?_
          refine poke_keeps ?_
          assumption
        refine Keeps.ite (fun _ => ?_) (fun _ => ?_)
        · refine ih ?_
          refine modCtx_keeps ?_
          refine poke_keeps ?_
          assumption
        split
        · rename_i hq
          have hk := Keeps.ofEqL (a := a) (by
            refine Keeps.foldlL ?_ fun _ _ _ => ?_
            · show Keeps a _
              assumption
            show Keeps a _
            refine poke_keeps ?_
            assumption) hq
          extract_lets -merge +onlyGivenNames l43_0 l43_1
          clear_value l43_0
          clear_value l43_1
          refine startProgram_keeps ?_
          refine modCtx_keeps ?_
          assumption

theorem place_keeps {a : State} {x0 x1 s} (h : Keeps a s) : Keeps a (place x0 x1 s) := by
  delta place
  extract_lets -merge +onlyGivenNames l0_0 l0_1 l0_2 l0_3 l0_4
  clear_value l0_0
  clear_value l0_1
  have h0_2 : Keeps a l0_2 := by
    subst l0_2
    refine Keeps.foldl ?_ fun _ _ _ => ?_
    · assumption
    refine modCore_keeps ?_
    assumption
  clear_value l0_2
  have h0_3 : Keeps a l0_3 := by
    subst l0_3
    refine modCtx_keeps ?_
    assumption
  clear_value l0_3
  have h0_4 : Keeps a l0_4 := by
    subst l0_4
    refine modCtx_keeps ?_
    assumption
  clear_value l0_4
  refine Keeps.ite (fun _ => ?_) (fun _ => ?_)
  · refine changed_keeps ?_
    refine modCtx_keeps ?_
    assumption
  split
  · assumption
  · split
    · refine changed_keeps ?_
      refine replayNext_keeps ?_
      refine startClock_keeps ?_
      assumption
    · refine changed_keeps ?_
      refine dispatchLaunch_keeps ?_
      assumption

theorem schedLoop_keeps {a : State} {x0 x1 s} (h : Keeps a s) : Keeps a (schedLoop x0 x1 s) := by
  induction x1 generalizing x0 s with
  | nil =>
    rw [schedLoop.eq_1]
    assumption
  | cons hd tl ih =>
    rw [schedLoop.eq_2]
    refine Keeps.ite (fun _ => ?_) (fun _ => ?_)
    · refine ih ?_
      refine place_keeps ?_
      assumption
    extract_lets -merge +onlyGivenNames l4_0 l4_1
    clear_value l4_0
    clear_value l4_1
    refine Keeps.ite (fun _ => ?_) (fun _ => ?_)
    · refine Keeps.foldl ?_ fun _ _ _ => ?_
      · assumption
      refine heelIn_keeps ?_
      assumption
    assumption

theorem schedule_keeps {a : State} {x0 s} (h : Keeps a s) : Keeps a (schedule x0 s) := by
  delta schedule
  extract_lets -merge +onlyGivenNames l0_0 l0_1 l0_2
  have h0_0 : Keeps a l0_0 := by
    subst l0_0
    refine commit_keeps ?_
    assumption
  clear_value l0_0
  have h0_1 : Keeps a l0_1 := by
    subst l0_1
    refine inheritAll_keeps ?_
    assumption
  clear_value l0_1
  have h0_2 : Keeps a l0_2 := by
    subst l0_2
    refine schedLoop_keeps ?_
    assumption
  clear_value l0_2
  refine inheritAll_keeps ?_
  assumption

theorem settlePrt_keeps {a : State} {x0 s} (h : Keeps a s) : Keeps a (settlePrt x0 s) := by
  induction x0 generalizing s with
  | zero =>
    rw [settlePrt.eq_1]
    assumption
  | succ n ih =>
    rw [settlePrt.eq_2]
    split
    · assumption
    · refine ih ?_
      refine schedule_keeps ?_
      refine Keeps.upd ?_ rfl
      assumption

theorem freeSlot_keeps {a : State} {x0 x1 s} (h : Keeps a s) : Keeps a (freeSlot x0 x1 s) := by
  delta freeSlot
  refine changed_keeps ?_
  refine modCtx_keeps ?_
  assumption

theorem settleDestroy_keeps {a : State} {x0 s} (h : Keeps a s) : Keeps a (settleDestroy x0 s) := by
  induction x0 generalizing s with
  | zero =>
    rw [settleDestroy.eq_1]
    assumption
  | succ n ih =>
    rw [settleDestroy.eq_2]
    split
    · assumption
    · split
      · assumption
      · extract_lets -merge +onlyGivenNames l4_0 l4_1 l4_2
        clear_value l4_0
        clear_value l4_1
        have h4_2 : Keeps a l4_2 := by
          subst l4_2
          refine recStop_keeps ?_
          refine stopContext_keeps ?_
          assumption
        clear_value l4_2
        refine ih ?_
        refine finishOk_keeps ?_
        refine freeSlot_keeps ?_
        assumption

theorem settle_keeps {a : State} {s} (h : Keeps a s) : Keeps a (settle s) := by
  delta settle
  extract_lets -merge +onlyGivenNames l0_0
  subst l0_0
  try dsimp -zeta -zetaHave -zetaUnused -iota -proj only
  refine settleHif_keeps ?_
  refine settlePrt_keeps ?_
  refine settleDestroy_keeps ?_
  refine settleHif_keeps ?_
  refine settlePrt_keeps ?_
  refine settleDestroy_keeps ?_
  refine settleHif_keeps ?_
  assumption

end Sys2Proof.Machine
end

