-- ==== Sys2Proof/Laws/KeepsFlags.lean ====
section
/-!
SUPPORT. Laws/KeepsFlags.lean: the operations of Machine/Flags.lean keep what `Keeps` says (Laws/Keeps.lean).
-/
namespace Sys2Proof.Machine

theorem applyTally_keeps {a : State} {x0 x1 s} (h : Keeps a s) : Keeps a (applyTally x0 x1 s).2 := by
  delta applyTally
  extract_lets -merge +onlyGivenNames l0_0 l0_1
  clear_value l0_0
  have h0_1 : Keeps a l0_1 := by
    subst l0_1
    refine modCore_keeps ?_
    assumption
  clear_value l0_1
  refine Keeps.pair ?_
  refine modCtx_keeps ?_
  assumption

end Sys2Proof.Machine
end

