-- ==== Sys2Proof/Laws/KeepsOperands.lean ====
section
/-!
SUPPORT. Laws/KeepsOperands.lean: the operations of Machine/Operands.lean keep what `Keeps` says (Laws/Keeps.lean).
-/
namespace Sys2Proof.Machine

theorem stopX_keeps {a : State} {α : Type} {c x : Nat} : KeepsX a (stopX c x : Xm α) := KeepsX.throw _

theorem need_keeps {a : State} {x0 x1} : KeepsX a (need x0 x1) := by
  delta need
  refine KeepsX.ite (fun _ => ?_) (fun _ => ?_)
  · exact KeepsX.pure _
  refine stopX_keeps

theorem num_keeps {a : State} {α : Type} {m : Num α} : KeepsX a (num m) := by
  delta num
  refine KeepsX.get fun v hv => ?_
  split
  refine KeepsX.bind (KeepsX.set ?_) fun _ => KeepsX.pure _
  exact hv

theorem peekX_keeps {a : State} {α : Type} {f : State → α} : KeepsX a (peekX f) := by
  delta peekX
  exact KeepsX.get fun v hv => KeepsX.pure _

theorem actX_keeps {a : State} {x0} (h0 : ∀ y0, Keeps a y0 → Keeps a (x0 y0)) : KeepsX a (actX x0) := by
  delta actX
  refine KeepsX.modify fun _ _ => ?_
  show Keeps a _
  apply_assumption
  assumption

theorem eachX_keeps {a : State} {α : Type} {f : α → Xm Unit} {l : List α} (hf : ∀ x, KeepsX a (f x)) : KeepsX a (eachX f l) := by
  induction l with
  | nil => exact KeepsX.pure _
  | cons x l ih => exact (hf x).bind fun _ => ih

theorem mapX_keeps {a : State} {α β : Type} {f : α → Xm β} {l : List α} (hf : ∀ x, KeepsX a (f x)) : KeepsX a (mapX f l) := by
  induction l with
  | nil => exact KeepsX.pure _
  | cons x l ih => exact (hf x).bind fun _ => ih.bind fun _ => KeepsX.pure _

theorem countCore_keeps {a : State} {x0 x1 x2 s} (h : Keeps a s) : Keeps a (countCore x0 x1 x2 s) := by
  delta countCore
  refine Keeps.ite (fun _ => ?_) (fun _ => ?_)
  · assumption
  refine modCore_keeps ?_
  assumption

theorem injSram_keeps {a : State} {x0 x1 s} (h : Keeps a s) : Keeps a (injSram x0 x1 s) := by
  delta injSram
  extract_lets -merge +onlyGivenNames l0_0
  subst l0_0
  try dsimp -zeta -zetaHave -zetaUnused -iota -proj only
  refine Keeps.ite (fun _ => ?_) (fun _ => ?_)
  · refine injUse_keeps ?_
    refine modCore_keeps ?_
    assumption
  refine Keeps.ite (fun _ => ?_) (fun _ => ?_)
  · refine injUse_keeps ?_
    refine modCore_keeps ?_
    assumption
  assumption

theorem eccCheck_keeps {a : State} {x0 x1 x2 x3} : KeepsX a (eccCheck x0 x1 x2 x3) := by
  delta eccCheck
  extract_lets -merge +onlyGivenNames l0_0 l0_1
  clear_value l0_0
  clear_value l0_1
  refine KeepsX.bind ?_ fun _ => ?_
  · refine actX_keeps ?_
    intro _ _
    refine Keeps.ite (fun _ => ?_) (fun _ => ?_)
    · assumption
    refine injSram_keeps ?_
    assumption
  refine KeepsX.bind ?_ fun _ => ?_
  · refine peekX_keeps
  refine eachX_keeps ?_
  intro _
  extract_lets -merge +onlyGivenNames l14_0
  clear_value l14_0
  refine KeepsX.ite (fun _ => ?_) (fun _ => ?_)
  · exact KeepsX.throw _
  refine actX_keeps ?_
  intro _ _
  extract_lets -merge +onlyGivenNames l20_0
  have h20_0 : Keeps a l20_0 := by
    subst l20_0
    refine modCore_keeps ?_
    assumption
  clear_value l20_0
  refine record_keeps ?_
  refine countCore_keeps ?_
  assumption

theorem spRead_keeps {a : State} {x0 x1 x2} : KeepsX a (spRead x0 x1 x2) := by
  delta spRead
  refine KeepsX.bind ?_ fun _ => ?_
  · refine eccCheck_keeps
  refine peekX_keeps

theorem accRead_keeps {a : State} {x0 x1 x2} : KeepsX a (accRead x0 x1 x2) := by
  delta accRead
  refine KeepsX.bind ?_ fun _ => ?_
  · refine eccCheck_keeps
  refine peekX_keeps

theorem spWrite_keeps {a : State} {x0 x1 x2} : KeepsX a (spWrite x0 x1 x2) := by
  delta spWrite
  refine actX_keeps ?_
  intro _ _
  refine modCore_keeps ?_
  assumption

theorem accWrite_keeps {a : State} {x0 x1 x2} : KeepsX a (accWrite x0 x1 x2) := by
  delta accWrite
  refine actX_keeps ?_
  intro _ _
  refine modCore_keeps ?_
  assumption

theorem needSpan_keeps {a : State} {x0 x1 x2} : KeepsX a (needSpan x0 x1 x2) := by
  delta needSpan
  refine KeepsX.bind ?_ fun _ => ?_
  · refine peekX_keeps
  split
  · exact KeepsX.pure _
  · refine stopX_keeps

theorem spaceRead_keeps {a : State} {x0 x1 x2 x3} : KeepsX a (spaceRead x0 x1 x2 x3) := by
  delta spaceRead
  split
  · refine accRead_keeps
  · refine KeepsX.get fun _ _ => ?_
    extract_lets -merge +onlyGivenNames l3_0
    clear_value l3_0
    split
    · rename_i hq
      have hk := Keeps.ofEq (a := a) (by
        refine readPart_keeps ?_
        assumption) hq
      refine KeepsX.bind ?_ fun _ => ?_
      · refine KeepsX.set ?_
        show Keeps a _
        assumption
      split
      · exact KeepsX.pure _
      · exact KeepsX.throw _
  · refine KeepsX.bind ?_ fun _ => ?_
    · refine peekX_keeps
    refine spRead_keeps

theorem spaceWrite_keeps {a : State} {x0 x1 x2 x3} : KeepsX a (spaceWrite x0 x1 x2 x3) := by
  delta spaceWrite
  split
  · refine accWrite_keeps
  · refine KeepsX.get fun _ _ => ?_
    extract_lets -merge +onlyGivenNames l3_0
    clear_value l3_0
    split
    · rename_i hq
      have hk := Keeps.ofEq (a := a) (by
        refine writeCtx_keeps ?_
        assumption) hq
      refine KeepsX.bind ?_ fun _ => ?_
      · refine KeepsX.set ?_
        show Keeps a _
        assumption
      split
      · exact KeepsX.pure _
      · exact KeepsX.throw _
  · refine KeepsX.bind ?_ fun _ => ?_
    · refine peekX_keeps
    refine spWrite_keeps

theorem rowCodes_keeps {a : State} {x0 x1 x2} : KeepsX a (rowCodes x0 x1 x2) := by
  delta rowCodes
  refine KeepsX.bind ?_ fun _ => ?_
  · refine spaceRead_keeps
  exact KeepsX.pure _

theorem putCodes_keeps {a : State} {x0 x1 x2 x3} : KeepsX a (putCodes x0 x1 x2 x3) := by
  delta putCodes
  refine spaceWrite_keeps

theorem elemCode_keeps {a : State} {x0 x1 x2 x3} : KeepsX a (elemCode x0 x1 x2 x3) := by
  delta elemCode
  extract_lets -merge +onlyGivenNames l0_0
  clear_value l0_0
  refine KeepsX.bind ?_ fun _ => ?_
  · refine spaceRead_keeps
  extract_lets -merge +onlyGivenNames l4_0
  clear_value l4_0
  exact KeepsX.pure _

theorem recSlot_keeps {a : State} {x0 x1 x2 x3 x4 x5} : KeepsX a (recSlot x0 x1 x2 x3 x4 x5) := by
  delta recSlot
  refine KeepsX.ite (fun _ => ?_) (fun _ => ?_)
  · refine stopX_keeps
  refine KeepsX.bind ?_ fun _ => ?_
  · refine spRead_keeps
  refine KeepsX.ite (fun _ => ?_) (fun _ => ?_)
  · exact KeepsX.pure _
  refine stopX_keeps

theorem scaleOf_keeps {a : State} {x0 x1 x2} : KeepsX a (scaleOf x0 x1 x2) := by
  delta scaleOf
  refine KeepsX.bind ?_ fun _ => ?_
  · refine recSlot_keeps
  refine KeepsX.ite (fun _ => ?_) (fun _ => ?_)
  · refine KeepsX.bind ?_ fun _ => ?_
    · refine recSlot_keeps
    exact KeepsX.pure _
  exact KeepsX.pure _

theorem rowVals_keeps {a : State} {x0 x1 x2} : KeepsX a (rowVals x0 x1 x2) := by
  delta rowVals
  refine KeepsX.bind ?_ fun _ => ?_
  · refine rowCodes_keeps
  refine KeepsX.ite (fun _ => ?_) (fun _ => ?_)
  · exact KeepsX.pure _
  refine KeepsX.bind ?_ fun _ => ?_
  · refine peekX_keeps
  extract_lets -merge +onlyGivenNames l6_0 l6_1
  clear_value l6_0
  clear_value l6_1
  refine KeepsX.ite (fun _ => ?_) (fun _ => ?_)
  · refine num_keeps
  refine KeepsX.bind ?_ fun _ => ?_
  · refine mapX_keeps ?_
    intro _
    refine KeepsX.bind ?_ fun _ => ?_
    · refine scaleOf_keeps
    refine num_keeps
  exact KeepsX.pure _

theorem putRow_keeps {a : State} {x0 x1 x2 x3 x4} : KeepsX a (putRow x0 x1 x2 x3 x4) := by
  delta putRow
  extract_lets -merge +onlyGivenNames l0_0
  clear_value l0_0
  refine KeepsX.bind ?_ fun _ => ?_
  · refine mapX_keeps ?_
    intro _
    extract_lets -merge +onlyGivenNames l5_0
    subst l5_0
    try dsimp -zeta -zetaHave -zetaUnused -iota -proj only
    refine KeepsX.ite (fun _ => ?_) (fun _ => ?_)
    · refine KeepsX.bind ?_ fun _ => ?_
      · exact KeepsX.pure _
      refine num_keeps
    refine KeepsX.bind ?_ fun _ => ?_
    · refine scaleOf_keeps
    refine num_keeps
  refine putCodes_keeps

theorem putRecords_keeps {a : State} {x0 x1 x2} : KeepsX a (putRecords x0 x1 x2) := by
  delta putRecords
  extract_lets -merge +onlyGivenNames l0_0
  clear_value l0_0
  refine eachX_keeps ?_
  intro _
  extract_lets -merge +onlyGivenNames l4_0 l4_1 l4_2
  clear_value l4_0
  clear_value l4_1
  clear_value l4_2
  refine KeepsX.bind ?_ fun _ => ?_
  · refine spWrite_keeps
  refine KeepsX.ite (fun _ => ?_) (fun _ => ?_)
  · refine spWrite_keeps
  exact KeepsX.pure _

theorem putFresh_keeps {a : State} {x0 x1 x2 x3} : KeepsX a (putFresh x0 x1 x2 x3) := by
  delta putFresh
  extract_lets -merge +onlyGivenNames l0_0
  clear_value l0_0
  refine KeepsX.bind ?_ fun _ => ?_
  · refine putRecords_keeps
  refine eachX_keeps ?_
  intro _
  refine KeepsX.bind ?_ fun _ => ?_
  · refine mapX_keeps ?_
    intro _
    extract_lets -merge +onlyGivenNames l9_0
    subst l9_0
    try dsimp -zeta -zetaHave -zetaUnused -iota -proj only
    refine KeepsX.ite (fun _ => ?_) (fun _ => ?_)
    · refine KeepsX.bind ?_ fun _ => ?_
      · refine num_keeps
      refine num_keeps
    refine num_keeps
  refine putCodes_keeps

theorem stopCore_keeps {a : State} {x0 x1 x2 s} (h : Keeps a s) : Keeps a (stopCore x0 x1 x2 s) := by
  delta stopCore
  refine settle_keeps ?_
  refine coreFault_keeps ?_
  assumption

theorem failXAt_keeps {a : State} {x0 x1 x2 s} (h : Keeps a s) : Keeps a (failXAt x0 x1 x2 s) := by
  delta failXAt
  split
  · refine settle_keeps ?_
    refine coreFaultAt_keeps ?_
    assumption
  · refine settle_keeps ?_
    refine coreMemErrAt_keeps ?_
    assumption
  · extract_lets -merge +onlyGivenNames l7_0 l7_1 l7_2
    clear_value l7_0
    have h7_1 : Keeps a l7_1 := by
      subst l7_1
      refine stick_keeps ?_
      assumption
    clear_value l7_1
    have h7_2 : Keeps a l7_2 := by
      subst l7_2
      refine record_keeps ?_
      assumption
    clear_value l7_2
    refine settle_keeps ?_
    refine teardown_keeps ?_
    assumption

theorem failX_keeps {a : State} {x0 x1 s} (h : Keeps a s) : Keeps a (failX x0 x1 s) := by
  delta failX
  refine failXAt_keeps ?_
  assumption

theorem runXAt_keeps {a : State} {x0 x1 x2 x3 s} (h : Keeps a s) (h2 : KeepsX a x2) (h3 : ∀ y0, Keeps a y0 → Keeps a (x3 y0)) : Keeps a (runXAt x0 x1 x2 x3 s) := by
  delta runXAt
  split
  · rename_i hq
    have hk := Keeps.ofRun (a := a) (by
      assumption) (by
      show Keeps a _
      assumption) hq
    split
    · rename_i hq
      have hk := Keeps.ofEq (a := a) (by
        refine applyTally_keeps ?_
        assumption) hq
      refine Keeps.ite (fun _ => ?_) (fun _ => ?_)
      · refine settle_keeps ?_
        refine coreFaultAt_keeps ?_
        assumption
      split
      · refine failXAt_keeps ?_
        assumption
      · apply_assumption
        assumption

theorem runX_keeps {a : State} {x0 x1 x2 s} (h : Keeps a s) (h1 : KeepsX a x1) (h2 : ∀ y0, Keeps a y0 → Keeps a (x2 y0)) : Keeps a (runX x0 x1 x2 s) := by
  delta runX
  refine runXAt_keeps ?_ ?_ ?_
  · assumption
  · assumption
  assumption

theorem nextPc_keeps {a : State} {x0 s} (h : Keeps a s) : Keeps a (nextPc x0 s) := by
  delta nextPc
  refine modCore_keeps ?_
  assumption

end Sys2Proof.Machine
end

