-- ==== Sys2Proof/Laws/KeepsIssue.lean ====
section
/-!
SUPPORT. Laws/KeepsIssue.lean: the operations of Machine/Issue.lean keep what `Keeps` says (Laws/Keeps.lean).
-/
namespace Sys2Proof.Machine

theorem checked_keeps {a : State} {x0 x1 x2 x3 s} (h : Keeps a s) (h3 : ∀ y0, Keeps a y0 → Keeps a (x3 y0)) : Keeps a (checked x0 x1 x2 x3 s) := by
  delta checked
  extract_lets -merge +onlyGivenNames l0_0
  clear_value l0_0
  refine Keeps.ite (fun _ => ?_) (fun _ => ?_)
  · refine stopCore_keeps ?_
    assumption
  refine Keeps.ite (fun _ => ?_) (fun _ => ?_)
  · apply_assumption
    assumption
  refine nextPc_keeps ?_
  assumption

theorem issue_keeps {a : State} {x0 x1 x2 x3 s} (h : Keeps a s) (h3 : ∀ y0 y1, Keeps a y1 → Keeps a (x3 y0 y1)) : Keeps a (issue x0 x1 x2 x3 s) := by
  delta issue
  extract_lets -merge +onlyGivenNames l0_0
  clear_value l0_0
  split
  · refine Keeps.ite (fun _ => ?_) (fun _ => ?_)
    · refine checked_keeps ?_ ?_
      · assumption
      intro _ _
      apply_assumption
      assumption
    assumption
  · assumption

theorem launchComplete_keeps {a : State} {x0 x1 x2 s} (h : Keeps a s) : Keeps a (launchComplete x0 x1 x2 s) := by
  delta launchComplete
  extract_lets -merge +onlyGivenNames l0_0
  clear_value l0_0
  split
  · refine Keeps.ite (fun _ => ?_) (fun _ => ?_)
    · refine finish_keeps ?_
      assumption
    refine finish_keeps ?_
    assumption
  · refine finish_keeps ?_
    assumption

theorem launchEnd_keeps {a : State} {x0 x1 x2 s} (h : Keeps a s) : Keeps a (launchEnd x0 x1 x2 s) := by
  delta launchEnd
  extract_lets -merge +onlyGivenNames l0_0 l0_1 l0_2 l0_3 l0_4 l0_5 l0_6 l0_7 l0_8
  clear_value l0_0
  have h0_1 : Keeps a l0_1 := by
    subst l0_1
    refine writeDigest_keeps ?_
    assumption
  clear_value l0_1
  clear_value l0_2
  have h0_3 : Keeps a l0_3 := by
    subst l0_3
    split
    · refine recFinish_keeps ?_
      assumption
    · assumption
  clear_value l0_3
  clear_value l0_4
  have h0_5 : Keeps a l0_5 := by
    subst l0_5
    refine releaseCores_keeps ?_
    refine abandonAll_keeps ?_
    assumption
  clear_value l0_5
  have h0_6 : Keeps a l0_6 := by
    subst l0_6
    refine modCtx_keeps ?_
    assumption
  clear_value l0_6
  have h0_7 : Keeps a l0_7 := by
    subst l0_7
    split
    · refine launchComplete_keeps ?_
      assumption
    · assumption
  clear_value l0_7
  have h0_8 : Keeps a l0_8 := by
    subst l0_8
    split
    · refine swatchResult_keeps ?_
      assumption
    · assumption
  clear_value l0_8
  refine changed_keeps ?_
  assumption

theorem replayEntryEnd_keeps {a : State} {x0 x1 x2 x3 s} (h : Keeps a s) : Keeps a (replayEntryEnd x0 x1 x2 x3 s) := by
  delta replayEntryEnd
  extract_lets -merge +onlyGivenNames l0_0 l0_1 l0_2 l0_3 l0_4 l0_5 l0_6 l0_7
  clear_value l0_0
  clear_value l0_1
  clear_value l0_2
  subst l0_3
  try dsimp -zeta -zetaHave -zetaUnused -iota -proj only
  have h0_4 : Keeps a l0_4 := by
    subst l0_4
    refine poke_keeps ?_
    refine poke_keeps ?_
    assumption
  clear_value l0_4
  have h0_5 : Keeps a l0_5 := by
    subst l0_5
    refine abandonAll_keeps ?_
    assumption
  clear_value l0_5
  clear_value l0_6
  have h0_7 : Keeps a l0_7 := by
    subst l0_7
    refine modCtx_keeps ?_
    assumption
  clear_value l0_7
  refine replayNext_keeps ?_
  assumption

theorem haltCheck_keeps {a : State} {x0 x1 s} (h : Keeps a s) : Keeps a (haltCheck x0 x1 s) := by
  delta haltCheck
  extract_lets -merge +onlyGivenNames l0_0
  clear_value l0_0
  refine Keeps.ite (fun _ => ?_) (fun _ => ?_)
  · split
    · assumption
    · split
      · refine replayEntryEnd_keeps ?_
        assumption
      · refine launchEnd_keeps ?_
        assumption
  assumption

theorem resume_keeps {a : State} {x0 s} (h : Keeps a s) : Keeps a (resume x0 s) := by
  delta resume
  refine Keeps.foldl ?_ fun _ _ _ => ?_
  · assumption
  refine modCore_keeps ?_
  assumption

theorem barCheck_keeps {a : State} {x0 x1 s} (h : Keeps a s) : Keeps a (barCheck x0 x1 s) := by
  delta barCheck
  extract_lets -merge +onlyGivenNames l0_0 l0_1 l0_2
  clear_value l0_0
  clear_value l0_1
  have h0_2 : Keeps a l0_2 := by
    subst l0_2
    refine Keeps.ite (fun _ => ?_) (fun _ => ?_)
    · refine resume_keeps ?_
      assumption
    assumption
  clear_value l0_2
  refine Keeps.foldl ?_ fun _ _ _ => ?_
  · assumption
  extract_lets -merge +onlyGivenNames l12_0
  clear_value l12_0
  refine Keeps.ite (fun _ => ?_) (fun _ => ?_)
  · refine resume_keeps ?_
    assumption
  assumption

end Sys2Proof.Machine
end

