-- ==== Sys2Proof/Laws/KeepsScalar.lean ====
section
/-!
SUPPORT. Laws/KeepsScalar.lean: the operations of Machine/Scalar.lean keep what `Keeps` says (Laws/Keeps.lean).
-/
namespace Sys2Proof.Machine

theorem retireS_keeps {a : State} {x0 x1 x2 s} (h : Keeps a s) : Keeps a (retireS x0 x1 x2 s) := by
  delta retireS
  refine modCore_keeps ?_
  assumption

theorem jump_keeps {a : State} {x0 x1 s} (h : Keeps a s) : Keeps a (jump x0 x1 s) := by
  delta jump
  refine Keeps.ite (fun _ => ?_) (fun _ => ?_)
  · refine stopCore_keeps ?_
    assumption
  refine modCore_keeps ?_
  assumption

theorem alu_keeps {a : State} {x0 x1 x2 x3 s} (h : Keeps a s) : Keeps a (alu x0 x1 x2 x3 s) := by
  delta alu
  refine issue_keeps ?_ ?_
  · assumption
  intro _ _ _
  extract_lets -merge +onlyGivenNames l3_0
  clear_value l3_0
  refine retireS_keeps ?_
  assumption

theorem doAdd_keeps {a : State} {x0 s} (h : Keeps a s) : Keeps a (doAdd x0 s) := by
  delta doAdd
  refine alu_keeps ?_
  assumption

theorem doSub_keeps {a : State} {x0 s} (h : Keeps a s) : Keeps a (doSub x0 s) := by
  delta doSub
  refine alu_keeps ?_
  assumption

theorem doMul_keeps {a : State} {x0 s} (h : Keeps a s) : Keeps a (doMul x0 s) := by
  delta doMul
  refine alu_keeps ?_
  assumption

theorem doAnd_keeps {a : State} {x0 s} (h : Keeps a s) : Keeps a (doAnd x0 s) := by
  delta doAnd
  refine alu_keeps ?_
  assumption

theorem doOr_keeps {a : State} {x0 s} (h : Keeps a s) : Keeps a (doOr x0 s) := by
  delta doOr
  refine alu_keeps ?_
  assumption

theorem doXor_keeps {a : State} {x0 s} (h : Keeps a s) : Keeps a (doXor x0 s) := by
  delta doXor
  refine alu_keeps ?_
  assumption

theorem doShl_keeps {a : State} {x0 s} (h : Keeps a s) : Keeps a (doShl x0 s) := by
  delta doShl
  refine alu_keeps ?_
  assumption

theorem doShr_keeps {a : State} {x0 s} (h : Keeps a s) : Keeps a (doShr x0 s) := by
  delta doShr
  refine alu_keeps ?_
  assumption

theorem doMin_keeps {a : State} {x0 s} (h : Keeps a s) : Keeps a (doMin x0 s) := by
  delta doMin
  refine alu_keeps ?_
  assumption

theorem doMax_keeps {a : State} {x0 s} (h : Keeps a s) : Keeps a (doMax x0 s) := by
  delta doMax
  refine alu_keeps ?_
  assumption

theorem doLi_keeps {a : State} {x0 s} (h : Keeps a s) : Keeps a (doLi x0 s) := by
  delta doLi
  refine issue_keeps ?_ ?_
  · assumption
  intro _ _ _
  refine retireS_keeps ?_
  assumption

theorem doCmp_keeps {a : State} {x0 s} (h : Keeps a s) : Keeps a (doCmp x0 s) := by
  delta doCmp
  refine issue_keeps ?_ ?_
  · assumption
  intro _ _ _
  extract_lets -merge +onlyGivenNames l3_0
  clear_value l3_0
  split
  · refine stopCore_keeps ?_
    assumption
  · refine retireS_keeps ?_
    assumption

theorem doInstructionNop_keeps {a : State} {x0 s} (h : Keeps a s) : Keeps a (doInstructionNop x0 s) := by
  delta doInstructionNop
  refine issue_keeps ?_ ?_
  · assumption
  intro _ _ _
  refine nextPc_keeps ?_
  assumption

theorem doBr_keeps {a : State} {x0 s} (h : Keeps a s) : Keeps a (doBr x0 s) := by
  delta doBr
  refine issue_keeps ?_ ?_
  · assumption
  intro _ _ _
  refine jump_keeps ?_
  assumption

theorem doBrc_keeps {a : State} {x0 s} (h : Keeps a s) : Keeps a (doBrc x0 s) := by
  delta doBrc
  refine issue_keeps ?_ ?_
  · assumption
  intro _ _ _
  extract_lets -merge +onlyGivenNames l3_0
  clear_value l3_0
  split
  · refine stopCore_keeps ?_
    assumption
  · refine jump_keeps ?_
    assumption
  · refine nextPc_keeps ?_
    assumption

theorem doLoop_keeps {a : State} {x0 s} (h : Keeps a s) : Keeps a (doLoop x0 s) := by
  delta doLoop
  refine issue_keeps ?_ ?_
  · assumption
  intro _ _ _
  extract_lets -merge +onlyGivenNames l3_0 l3_1 l3_2
  clear_value l3_0
  clear_value l3_1
  clear_value l3_2
  refine Keeps.ite (fun _ => ?_) (fun _ => ?_)
  · refine stopCore_keeps ?_
    assumption
  refine Keeps.ite (fun _ => ?_) (fun _ => ?_)
  · refine modCore_keeps ?_
    assumption
  refine Keeps.ite (fun _ => ?_) (fun _ => ?_)
  · refine stopCore_keeps ?_
    assumption
  refine modCore_keeps ?_
  assumption

theorem doEndl_keeps {a : State} {x0 s} (h : Keeps a s) : Keeps a (doEndl x0 s) := by
  delta doEndl
  refine issue_keeps ?_ ?_
  · assumption
  intro _ _ _
  extract_lets -merge +onlyGivenNames l3_0
  clear_value l3_0
  split
  · refine stopCore_keeps ?_
    assumption
  · refine Keeps.ite (fun _ => ?_) (fun _ => ?_)
    · refine stopCore_keeps ?_
      assumption
    refine Keeps.ite (fun _ => ?_) (fun _ => ?_)
    · refine modCore_keeps ?_
      assumption
    refine modCore_keeps ?_
    assumption

theorem doCall_keeps {a : State} {x0 s} (h : Keeps a s) : Keeps a (doCall x0 s) := by
  delta doCall
  refine issue_keeps ?_ ?_
  · assumption
  intro _ _ _
  extract_lets -merge +onlyGivenNames l3_0
  clear_value l3_0
  refine Keeps.ite (fun _ => ?_) (fun _ => ?_)
  · refine stopCore_keeps ?_
    assumption
  refine Keeps.ite (fun _ => ?_) (fun _ => ?_)
  · refine stopCore_keeps ?_
    assumption
  refine modCore_keeps ?_
  assumption

theorem doRet_keeps {a : State} {x0 s} (h : Keeps a s) : Keeps a (doRet x0 s) := by
  delta doRet
  refine issue_keeps ?_ ?_
  · assumption
  intro _ _ _
  split
  · refine stopCore_keeps ?_
    assumption
  · refine modCore_keeps ?_
    assumption

theorem doHalt_keeps {a : State} {x0 s} (h : Keeps a s) : Keeps a (doHalt x0 s) := by
  delta doHalt
  refine issue_keeps ?_ ?_
  · assumption
  intro _ _ _
  extract_lets -merge +onlyGivenNames l3_0 l3_1
  clear_value l3_0
  have h3_1 : Keeps a l3_1 := by
    subst l3_1
    refine modCore_keeps ?_
    assumption
  clear_value l3_1
  refine Keeps.ite (fun _ => ?_) (fun _ => ?_)
  · refine settle_keeps ?_
    refine haltCheck_keeps ?_
    refine refreshBlocked_keeps ?_
    assumption
  assumption

theorem doYield_keeps {a : State} {x0 s} (h : Keeps a s) : Keeps a (doYield x0 s) := by
  delta doYield
  refine issue_keeps ?_ ?_
  · assumption
  intro _ _ _
  extract_lets -merge +onlyGivenNames l3_0 l3_1 l3_2 l3_3 l3_4
  clear_value l3_0
  clear_value l3_1
  have h3_2 : Keeps a l3_2 := by
    subst l3_2
    refine refreshBlocked_keeps ?_
    refine modCore_keeps ?_
    assumption
  clear_value l3_2
  clear_value l3_3
  have h3_4 : Keeps a l3_4 := by
    subst l3_4
    refine refreshBlocked_keeps ?_
    refine resume_keeps ?_
    assumption
  clear_value l3_4
  refine Keeps.ite (fun _ => ?_) (fun _ => ?_)
  · refine settle_keeps ?_
    refine Keeps.ite (fun _ => ?_) (fun _ => ?_)
    · refine heelNow_keeps ?_
      assumption
    assumption
  assumption

theorem doTrap_keeps {a : State} {x0 s} (h : Keeps a s) : Keeps a (doTrap x0 s) := by
  delta doTrap
  refine issue_keeps ?_ ?_
  · assumption
  intro _ _ _
  refine settle_keeps ?_
  refine coreFault_keeps ?_
  assumption

theorem doIllegalOpcode_keeps {a : State} {x0 s} (h : Keeps a s) : Keeps a (doIllegalOpcode x0 s) := by
  delta doIllegalOpcode
  split
  · refine Keeps.ite (fun _ => ?_) (fun _ => ?_)
    · refine stopCore_keeps ?_
      assumption
    assumption
  · assumption

theorem special_keeps {a : State} {x0 x1 s} (h : Keeps a s) : Keeps a (special x0 x1 s).2 := by
  delta special
  extract_lets -merge +onlyGivenNames l0_0 l0_1 l0_2
  clear_value l0_0
  clear_value l0_1
  clear_value l0_2
  split
  · refine Keeps.pair ?_
    assumption
  · refine Keeps.pair ?_
    assumption
  · refine Keeps.pair ?_
    assumption
  · refine Keeps.pair ?_
    assumption
  · refine Keeps.pair ?_
    assumption
  · refine Keeps.pair ?_
    assumption
  · refine Keeps.pair ?_
    assumption
  · refine Keeps.pair ?_
    assumption
  · refine Keeps.pair ?_
    assumption
  · refine Keeps.pair ?_
    assumption
  · refine takeFree_keeps ?_
    assumption
  · refine Keeps.pair ?_
    assumption
  · refine Keeps.pair ?_
    assumption

theorem doLd_keeps {a : State} {x0 s} (h : Keeps a s) : Keeps a (doLd x0 s) := by
  delta doLd
  refine issue_keeps ?_ ?_
  · assumption
  intro _ _ _
  refine Keeps.ite (fun _ => ?_) (fun _ => ?_)
  · split
    · rename_i hq
      have hk := Keeps.ofEq (a := a) (by
        refine special_keeps ?_
        assumption) hq
      refine retireS_keeps ?_
      assumption
  extract_lets -merge +onlyGivenNames l11_0
  clear_value l11_0
  split
  · refine stopCore_keeps ?_
    assumption
  · refine Keeps.ite (fun _ => ?_) (fun _ => ?_)
    · assumption
    split
    · rename_i hq
      have hk := Keeps.ofRun (a := a) (by
        refine KeepsX.ite (fun _ => ?_) (fun _ => ?_)
        · refine accRead_keeps
        refine spRead_keeps) (by
        show Keeps a _
        assumption) hq
      split
      · refine failX_keeps ?_
        assumption
      · extract_lets -merge +onlyGivenNames l29_0 l29_1
        clear_value l29_0
        clear_value l29_1
        refine retireS_keeps ?_
        assumption

theorem doSt_keeps {a : State} {x0 s} (h : Keeps a s) : Keeps a (doSt x0 s) := by
  delta doSt
  refine issue_keeps ?_ ?_
  · assumption
  intro _ _ _
  extract_lets -merge +onlyGivenNames l3_0 l3_1 l3_2
  clear_value l3_0
  clear_value l3_1
  clear_value l3_2
  refine Keeps.ite (fun _ => ?_) (fun _ => ?_)
  · refine Keeps.ite (fun _ => ?_) (fun _ => ?_)
    · refine stopCore_keeps ?_
      assumption
    refine Keeps.ite (fun _ => ?_) (fun _ => ?_)
    · refine stopCore_keeps ?_
      assumption
    refine nextPc_keeps ?_
    refine modCore_keeps ?_
    assumption
  split
  · refine stopCore_keeps ?_
    assumption
  · refine Keeps.ite (fun _ => ?_) (fun _ => ?_)
    · assumption
    refine nextPc_keeps ?_
    refine modCore_keeps ?_
    assumption

theorem doTdld_keeps {a : State} {x0 s} (h : Keeps a s) : Keeps a (doTdld x0 s) := by
  delta doTdld
  refine issue_keeps ?_ ?_
  · assumption
  intro _ _ _
  split
  · refine stopCore_keeps ?_
    assumption
  · refine Keeps.ite (fun _ => ?_) (fun _ => ?_)
    · assumption
    split
    · rename_i hq
      have hk := Keeps.ofRun (a := a) (by
        refine spRead_keeps) (by
        show Keeps a _
        assumption) hq
      split
      · refine failX_keeps ?_
        assumption
      · refine nextPc_keeps ?_
        refine modCore_keeps ?_
        assumption

theorem doTdst_keeps {a : State} {x0 s} (h : Keeps a s) : Keeps a (doTdst x0 s) := by
  delta doTdst
  refine issue_keeps ?_ ?_
  · assumption
  intro _ _ _
  split
  · refine stopCore_keeps ?_
    assumption
  · refine Keeps.ite (fun _ => ?_) (fun _ => ?_)
    · assumption
    refine nextPc_keeps ?_
    refine modCore_keeps ?_
    assumption

theorem icFill_keeps {a : State} {x0 x1 x2 s} (h : Keeps a s) : Keeps a (icFill x0 x1 x2 s) := by
  delta icFill
  extract_lets -merge +onlyGivenNames l0_0 l0_1
  clear_value l0_0
  clear_value l0_1
  split
  · rename_i hq
    have hk := Keeps.ofEqL (a := a) (by
      split
      · show Keeps a _
        assumption
      · split
        · rename_i hq
          have hk := Keeps.ofEq (a := a) (by
            refine takeFree_keeps ?_
            assumption) hq
          show Keeps a _
          assumption) hq
    extract_lets -merge +onlyGivenNames l16_0
    clear_value l16_0
    refine countCore_keeps ?_
    refine setCore_keeps ?_
    assumption

theorem doIcacheFill_keeps {a : State} {x0 x1 x2 s} (h : Keeps a s) : Keeps a (doIcacheFill x0 x1 x2 s) := by
  delta doIcacheFill
  extract_lets -merge +onlyGivenNames l0_0 l0_1 l0_2 l0_3 l0_4
  have h0_0 : Keeps a l0_0 := by
    subst l0_0
    refine advance_keeps ?_
    assumption
  clear_value l0_0
  clear_value l0_1
  clear_value l0_2
  clear_value l0_3
  have h0_4 : Keeps a l0_4 := by
    subst l0_4
    refine Keeps.ite (fun _ => ?_) (fun _ => ?_)
    · refine injUse_keeps ?_
      refine record_keeps ?_
      refine stick_keeps ?_
      assumption
    assumption
  clear_value l0_4
  refine Keeps.ite (fun _ => ?_) (fun _ => ?_)
  · refine Keeps.ite (fun _ => ?_) (fun _ => ?_)
    · refine stopCore_keeps ?_
      assumption
    refine Keeps.ite (fun _ => ?_) (fun _ => ?_)
    · assumption
    split
    · rename_i hq
      have hk := Keeps.ofEq (a := a) (by
        refine readPart_keeps ?_
        assumption) hq
      split
      · refine icFill_keeps ?_
        assumption
      · refine settle_keeps ?_
        refine coreMemErr_keeps ?_
        assumption
  assumption

end Sys2Proof.Machine
end

