-- ==== Sys2Proof/Laws/KeepsSync.lean ====
section
/-!
SUPPORT. Laws/KeepsSync.lean: the operations of Machine/Sync.lean keep what `Keeps` says (Laws/Keeps.lean).
-/
namespace Sys2Proof.Machine

theorem queueSema_keeps {a : State} {x0 x1 x2 x3 s} (h : Keeps a s) : Keeps a (queueSema x0 x1 x2 x3 s) := by
  delta queueSema
  extract_lets -merge +onlyGivenNames l0_0 l0_1 l0_2
  clear_value l0_0
  clear_value l0_1
  have h0_2 : Keeps a l0_2 := by
    subst l0_2
    refine modCore_keeps ?_
    assumption
  clear_value l0_2
  refine refreshBlocked_keeps ?_
  refine modPart_keeps ?_ fun _ => rfl
  assumption

theorem semaMutex_keeps {a : State} {x0 x1 s} (h : Keeps a s) : Keeps a (semaMutex x0 x1 s) := by
  delta semaMutex
  extract_lets -merge +onlyGivenNames l0_0 l0_1 l0_2 l0_3 l0_4 l0_5 l0_6
  clear_value l0_0
  clear_value l0_1
  clear_value l0_2
  clear_value l0_3
  have h0_4 : Keeps a l0_4 := by
    subst l0_4
    refine changed_keeps ?_
    refine setMutex_keeps ?_
    assumption
  clear_value l0_4
  clear_value l0_5
  have h0_6 : Keeps a l0_6 := by
    subst l0_6
    refine Keeps.ite (fun _ => ?_) (fun _ => ?_)
    · refine modCtx_keeps ?_
      assumption
    assumption
  clear_value l0_6
  split
  · refine Keeps.ite (fun _ => ?_) (fun _ => ?_)
    · refine stopCore_keeps ?_
      assumption
    refine settle_keeps ?_
    refine wake_keeps ?_
    refine serveMutex_keeps ?_
    refine queueSema_keeps ?_
    assumption
  · split
    · refine Keeps.ite (fun _ => ?_) (fun _ => ?_)
      · refine stopCore_keeps ?_
        assumption
      refine retireS_keeps ?_
      assumption
    · refine retireS_keeps ?_
      assumption
  · refine Keeps.ite (fun _ => ?_) (fun _ => ?_)
    · refine stopCore_keeps ?_
      assumption
    refine settle_keeps ?_
    refine wake_keeps ?_
    refine retireS_keeps ?_
    refine releaseMutex_keeps ?_
    assumption

theorem semaCount_keeps {a : State} {x0 x1 s} (h : Keeps a s) : Keeps a (semaCount x0 x1 s) := by
  delta semaCount
  extract_lets -merge +onlyGivenNames l0_0 l0_1 l0_2 l0_3
  clear_value l0_0
  clear_value l0_1
  clear_value l0_2
  clear_value l0_3
  refine Keeps.ite (fun _ => ?_) (fun _ => ?_)
  · refine retireS_keeps ?_
    assumption
  split
  · refine settle_keeps ?_
    refine semOp_keeps ?_
    refine retireS_keeps ?_
    assumption
  · refine settle_keeps ?_
    refine semOp_keeps ?_
    refine retireS_keeps ?_
    assumption
  · refine settle_keeps ?_
    refine changed_keeps ?_
    refine serveSem_keeps ?_
    refine queueSema_keeps ?_
    assumption
  · refine settle_keeps ?_
    refine changed_keeps ?_
    refine serveSem_keeps ?_
    refine queueSema_keeps ?_
    assumption

theorem doSema_keeps {a : State} {x0 s} (h : Keeps a s) : Keeps a (doSema x0 s) := by
  delta doSema
  refine issue_keeps ?_ ?_
  · assumption
  intro _ _ _
  refine Keeps.ite (fun _ => ?_) (fun _ => ?_)
  · refine stopCore_keeps ?_
    assumption
  refine Keeps.ite (fun _ => ?_) (fun _ => ?_)
  · refine stopCore_keeps ?_
    assumption
  refine Keeps.ite (fun _ => ?_) (fun _ => ?_)
  · refine semaCount_keeps ?_
    assumption
  refine semaMutex_keeps ?_
  assumption

theorem doBar_keeps {a : State} {x0 s} (h : Keeps a s) : Keeps a (doBar x0 s) := by
  delta doBar
  refine issue_keeps ?_ ?_
  · assumption
  intro _ _ _
  extract_lets -merge +onlyGivenNames l3_0 l3_1 l3_2 l3_3
  clear_value l3_0
  have h3_1 : Keeps a l3_1 := by
    subst l3_1
    refine commit_keeps ?_
    assumption
  clear_value l3_1
  clear_value l3_2
  have h3_3 : Keeps a l3_3 := by
    subst l3_3
    refine modCore_keeps ?_
    assumption
  clear_value l3_3
  refine refreshBlocked_keeps ?_
  refine barCheck_keeps ?_
  refine refreshBlocked_keeps ?_
  assumption

theorem credBoth_keeps {a : State} {x0 x1 x2 s} (h : Keeps a s) : Keeps a (credBoth x0 x1 x2 s) := by
  delta credBoth
  extract_lets -merge +onlyGivenNames l0_0 l0_1
  clear_value l0_0
  have h0_1 : Keeps a l0_1 := by
    subst l0_1
    refine modCore_keeps ?_
    assumption
  clear_value l0_1
  split
  · assumption
  · refine Keeps.ite (fun _ => ?_) (fun _ => ?_)
    · assumption
    refine modCore_keeps ?_
    assumption

theorem credOpen_keeps {a : State} {x0 x1 x2 x3 x4 s} (h : Keeps a s) : Keeps a (credOpen x0 x1 x2 x3 x4 s) := by
  delta credOpen
  extract_lets -merge +onlyGivenNames l0_0 l0_1 l0_2 l0_3
  clear_value l0_0
  clear_value l0_1
  have h0_2 : Keeps a l0_2 := by
    subst l0_2
    refine modCore_keeps ?_
    assumption
  clear_value l0_2
  have h0_3 : Keeps a l0_3 := by
    subst l0_3
    split
    · assumption
    · extract_lets -merge +onlyGivenNames l12_0
      clear_value l12_0
      refine modCore_keeps ?_
      assumption
  clear_value l0_3
  refine Keeps.ite (fun _ => ?_) (fun _ => ?_)
  · refine stopCore_keeps ?_
    assumption
  refine nextPc_keeps ?_
  assumption

theorem credStep_keeps {a : State} {x0 x1 s} (h : Keeps a s) : Keeps a (credStep x0 x1 s) := by
  delta credStep
  extract_lets -merge +onlyGivenNames l0_0 l0_1 l0_2
  clear_value l0_0
  clear_value l0_1
  clear_value l0_2
  split
  · refine credOpen_keeps ?_
    assumption
  · refine Keeps.ite (fun _ => ?_) (fun _ => ?_)
    · refine stopCore_keeps ?_
      assumption
    refine Keeps.ite (fun _ => ?_) (fun _ => ?_)
    · refine nextPc_keeps ?_
      refine credBoth_keeps ?_
      assumption
    assumption
  · refine Keeps.ite (fun _ => ?_) (fun _ => ?_)
    · refine stopCore_keeps ?_
      assumption
    refine nextPc_keeps ?_
    refine credBoth_keeps ?_
    assumption
  · refine Keeps.ite (fun _ => ?_) (fun _ => ?_)
    · refine stopCore_keeps ?_
      assumption
    refine Keeps.ite (fun _ => ?_) (fun _ => ?_)
    · refine nextPc_keeps ?_
      refine modCore_keeps ?_
      assumption
    assumption

theorem doCred_keeps {a : State} {x0 s} (h : Keeps a s) : Keeps a (doCred x0 s) := by
  delta doCred
  refine issue_keeps ?_ ?_
  · assumption
  intro _ _ _
  extract_lets -merge +onlyGivenNames l3_0
  clear_value l3_0
  refine Keeps.ite (fun _ => ?_) (fun _ => ?_)
  · refine stopCore_keeps ?_
    assumption
  refine credStep_keeps ?_
  assumption

theorem sendRecord_keeps {a : State} {x0 x1 x2 x3 s} (h : Keeps a s) : Keeps a (sendRecord x0 x1 x2 x3 s) := by
  delta sendRecord
  extract_lets -merge +onlyGivenNames l0_0 l0_1
  clear_value l0_0
  clear_value l0_1
  split
  · assumption
  · refine Keeps.ite (fun _ => ?_) (fun _ => ?_)
    · assumption
    split
    · refine record_keeps ?_
      assumption
    · extract_lets -merge +onlyGivenNames l10_0
      have h10_0 : Keeps a l10_0 := by
        subst l10_0
        refine Keeps.upd ?_ rfl
        assumption
      clear_value l10_0
      refine modCtx_keeps ?_
      assumption

theorem evtWrite_keeps {a : State} {x0 x1 x2 x3} : KeepsX a (evtWrite x0 x1 x2 x3) := by
  delta evtWrite
  refine KeepsX.bind ?_ fun _ => ?_
  · refine need_keeps
  refine KeepsX.get fun _ _ => ?_
  extract_lets -merge +onlyGivenNames l3_0 l3_1
  clear_value l3_0
  subst l3_1
  try dsimp -zeta -zetaHave -zetaUnused -iota -proj only
  split
  · refine KeepsX.bind ?_ fun _ => ?_
    · exact KeepsX.throw _
    refine KeepsX.bind ?_ fun _ => ?_
    · refine need_keeps
    refine KeepsX.bind ?_ fun _ => ?_
    · refine spRead_keeps
    refine KeepsX.get fun _ _ => ?_
    extract_lets -merge +onlyGivenNames l15_0
    clear_value l15_0
    split
    · rename_i hq
      have hk := Keeps.ofEq (a := a) (by
        refine writeCtx_keeps ?_
        assumption) hq
      refine KeepsX.bind ?_ fun _ => ?_
      · refine KeepsX.set ?_
        show Keeps a _
        assumption
      split
      · exact KeepsX.throw _
      · refine KeepsX.ite (fun _ => ?_) (fun _ => ?_)
        · exact KeepsX.pure _
        refine actX_keeps ?_
        intro _ _
        refine sendRecord_keeps ?_
        assumption
  · refine KeepsX.bind ?_ fun _ => ?_
    · refine need_keeps
    refine KeepsX.bind ?_ fun _ => ?_
    · refine spRead_keeps
    refine KeepsX.get fun _ _ => ?_
    extract_lets -merge +onlyGivenNames l39_0
    clear_value l39_0
    split
    · rename_i hq
      have hk := Keeps.ofEq (a := a) (by
        refine writeCtx_keeps ?_
        assumption) hq
      refine KeepsX.bind ?_ fun _ => ?_
      · refine KeepsX.set ?_
        show Keeps a _
        assumption
      split
      · exact KeepsX.throw _
      · refine KeepsX.ite (fun _ => ?_) (fun _ => ?_)
        · exact KeepsX.pure _
        refine actX_keeps ?_
        intro _ _
        refine sendRecord_keeps ?_
        assumption

theorem doEvt_keeps {a : State} {x0 s} (h : Keeps a s) : Keeps a (doEvt x0 s) := by
  delta doEvt
  refine issue_keeps ?_ ?_
  · assumption
  intro _ _ _
  extract_lets -merge +onlyGivenNames l3_0 l3_1
  clear_value l3_0
  clear_value l3_1
  refine Keeps.ite (fun _ => ?_) (fun _ => ?_)
  · refine Keeps.ite (fun _ => ?_) (fun _ => ?_)
    · refine stopCore_keeps ?_
      assumption
    refine Keeps.ite (fun _ => ?_) (fun _ => ?_)
    · refine runX_keeps ?_ ?_ ?_
      · assumption
      · refine evtWrite_keeps
      intro _ _
      refine nextPc_keeps ?_
      assumption
    assumption
  refine Keeps.ite (fun _ => ?_) (fun _ => ?_)
  · refine stopCore_keeps ?_
    assumption
  refine Keeps.ite (fun _ => ?_) (fun _ => ?_)
  · refine nextPc_keeps ?_
    assumption
  refine nextPc_keeps ?_
  refine sendMsix_keeps ?_
  assumption

end Sys2Proof.Machine
end

