-- ==== Sys2Proof/Laws/KeepsData.lean ====
section
/-!
SUPPORT. Laws/KeepsData.lean: the operations of Machine/Data.lean keep what `Keeps` says (Laws/Keeps.lean).
-/
namespace Sys2Proof.Machine

theorem tdArg_keeps {a : State} {x0 x1 x2} : KeepsX a (tdArg x0 x1 x2) := by
  delta tdArg
  refine KeepsX.bind ?_ fun _ => ?_
  · refine peekX_keeps
  extract_lets -merge +onlyGivenNames l2_0
  clear_value l2_0
  refine KeepsX.bind ?_ fun _ => ?_
  · refine need_keeps
  exact KeepsX.pure _

theorem dmaChecks_keeps {a : State} {x0 x1 x2} : KeepsX a (dmaChecks x0 x1 x2) := by
  delta dmaChecks
  refine KeepsX.bind ?_ fun _ => ?_
  · refine tdArg_keeps
  refine KeepsX.bind ?_ fun _ => ?_
  · refine tdArg_keeps
  refine KeepsX.bind ?_ fun _ => ?_
  · refine need_keeps
  extract_lets -merge +onlyGivenNames l6_0
  subst l6_0
  try dsimp -zeta -zetaHave -zetaUnused -iota -proj only
  refine KeepsX.ite (fun _ => ?_) (fun _ => ?_)
  · refine KeepsX.ite (fun _ => ?_) (fun _ => ?_)
    · exact KeepsX.pure _
    refine needSpan_keeps
  refine KeepsX.bind ?_ fun _ => ?_
  · refine needSpan_keeps
  refine KeepsX.ite (fun _ => ?_) (fun _ => ?_)
  · exact KeepsX.pure _
  refine needSpan_keeps

theorem dmaPut_keeps {a : State} {x0 x1 x2 x3 x4 s} (h : Keeps a s) : Keeps a (dmaPut x0 x1 x2 x3 x4 s) := by
  delta dmaPut
  refine modCore_keeps ?_
  assumption

theorem doDma_keeps {a : State} {x0 s} (h : Keeps a s) : Keeps a (doDma x0 s) := by
  delta doDma
  refine issue_keeps ?_ ?_
  · assumption
  intro _ _ _
  extract_lets -merge +onlyGivenNames l3_0 l3_1
  clear_value l3_0
  clear_value l3_1
  refine Keeps.ite (fun _ => ?_) (fun _ => ?_)
  · assumption
  refine runX_keeps ?_ ?_ ?_
  · assumption
  · refine dmaChecks_keeps
  intro _ _
  refine dmaPut_keeps ?_
  assumption

theorem doDmaw_keeps {a : State} {x0 s} (h : Keeps a s) : Keeps a (doDmaw x0 s) := by
  delta doDmaw
  refine issue_keeps ?_ ?_
  · assumption
  intro _ _ _
  extract_lets -merge +onlyGivenNames l3_0
  clear_value l3_0
  refine Keeps.ite (fun _ => ?_) (fun _ => ?_)
  · refine nextPc_keeps ?_
    assumption
  assumption

theorem dmaRead_keeps {a : State} {x0 x1} : KeepsX a (dmaRead x0 x1) := by
  delta dmaRead
  refine mapX_keeps ?_
  intro _
  refine spaceRead_keeps

theorem dmaSet_keeps {a : State} {x0 x1 x2 x3 s} (h : Keeps a s) : Keeps a (dmaSet x0 x1 x2 x3 s) := by
  delta dmaSet
  refine modCore_keeps ?_
  assumption

theorem dmaStart_keeps {a : State} {x0 x1 s} (h : Keeps a s) : Keeps a (dmaStart x0 x1 s) := by
  delta dmaStart
  extract_lets -merge +onlyGivenNames l0_0
  clear_value l0_0
  refine Keeps.ite (fun _ => ?_) (fun _ => ?_)
  · split
    · assumption
    · split
      · assumption
      · split
        · rename_i hq
          have hk := Keeps.ofRun (a := a) (by
            refine dmaRead_keeps) (by
            show Keeps a _
            assumption) hq
          split
          · refine failXAt_keeps ?_
            assumption
          · refine dmaSet_keeps ?_
            assumption
  assumption

theorem doDmaEntryStart_keeps {a : State} {x0 x1 x2 s} (h : Keeps a s) : Keeps a (doDmaEntryStart x0 x1 x2 s) := by
  delta doDmaEntryStart
  refine dmaStart_keeps ?_
  refine advance_keeps ?_
  assumption

theorem dmaWrite_keeps {a : State} {x0 x1 x2} : KeepsX a (dmaWrite x0 x1 x2) := by
  delta dmaWrite
  refine eachX_keeps ?_
  intro _
  refine spaceWrite_keeps

theorem dmaFinish_keeps {a : State} {x0 x1 s} (h : Keeps a s) : Keeps a (dmaFinish x0 x1 s) := by
  delta dmaFinish
  extract_lets -merge +onlyGivenNames l0_0
  clear_value l0_0
  refine Keeps.ite (fun _ => ?_) (fun _ => ?_)
  · split
    · assumption
    · split
      · assumption
      · split
        · rename_i hq
          have hk := Keeps.ofRun (a := a) (by
            refine dmaWrite_keeps) (by
            show Keeps a _
            assumption) hq
          split
          · refine failXAt_keeps ?_
            assumption
          · refine modCore_keeps ?_
            assumption
  assumption

theorem doDmaEntryDone_keeps {a : State} {x0 x1 x2 s} (h : Keeps a s) : Keeps a (doDmaEntryDone x0 x1 x2 s) := by
  delta doDmaEntryDone
  refine dmaFinish_keeps ?_
  refine advance_keeps ?_
  assumption

theorem prefLine_keeps {a : State} {x0 s x2} (h : Keeps a s) : Keeps a (prefLine x0 s x2) := by
  delta prefLine
  extract_lets -merge +onlyGivenNames l0_0 l0_1 l0_2
  clear_value l0_0
  clear_value l0_1
  clear_value l0_2
  refine Keeps.ite (fun _ => ?_) (fun _ => ?_)
  · assumption
  refine Keeps.ite (fun _ => ?_) (fun _ => ?_)
  · assumption
  split
  · rename_i hq
    have hk := Keeps.ofEq (a := a) (by
      refine readPart_keeps ?_
      assumption) hq
    refine icFill_keeps ?_
    assumption
  · rename_i hq
    have hk := Keeps.ofEq (a := a) (by
      refine readPart_keeps ?_
      assumption) hq
    assumption

theorem doPref_keeps {a : State} {x0 s} (h : Keeps a s) : Keeps a (doPref x0 s) := by
  delta doPref
  refine issue_keeps ?_ ?_
  · assumption
  intro _ _ _
  refine Keeps.ite (fun _ => ?_) (fun _ => ?_)
  · extract_lets -merge +onlyGivenNames l4_0
    clear_value l4_0
    refine Keeps.ite (fun _ => ?_) (fun _ => ?_)
    · assumption
    refine nextPc_keeps ?_
    refine modCore_keeps ?_
    assumption
  extract_lets -merge +onlyGivenNames l11_0 l11_1
  clear_value l11_0
  clear_value l11_1
  refine Keeps.ite (fun _ => ?_) (fun _ => ?_)
  · refine stopCore_keeps ?_
    assumption
  refine nextPc_keeps ?_
  refine Keeps.foldl ?_ fun _ _ _ => ?_
  · assumption
  refine prefLine_keeps ?_
  assumption

theorem haloSend_keeps {a : State} {x0 x1 x2 x3 x4 x5} : KeepsX a (haloSend x0 x1 x2 x3 x4 x5) := by
  delta haloSend
  refine KeepsX.bind ?_ fun _ => ?_
  · refine tdArg_keeps
  refine KeepsX.bind ?_ fun _ => ?_
  · refine need_keeps
  extract_lets -merge +onlyGivenNames l4_0 l4_1 l4_2 l4_3
  clear_value l4_0
  clear_value l4_1
  clear_value l4_2
  subst l4_3
  try dsimp -zeta -zetaHave -zetaUnused -iota -proj only
  refine KeepsX.bind ?_ fun _ => ?_
  · refine need_keeps
  refine KeepsX.bind ?_ fun _ => ?_
  · refine needSpan_keeps
  refine KeepsX.ite (fun _ => ?_) (fun _ => ?_)
  · refine KeepsX.bind ?_ fun _ => ?_
    · refine dmaRead_keeps
    extract_lets -merge +onlyGivenNames l17_0
    subst l17_0
    try dsimp -zeta -zetaHave -zetaUnused -iota -proj only
    refine KeepsX.ite (fun _ => ?_) (fun _ => ?_)
    · refine KeepsX.bind ?_ fun _ => ?_
      · exact KeepsX.pure _
      refine KeepsX.bind ?_ fun _ => ?_
      · refine spWrite_keeps
      refine KeepsX.bind ?_ fun _ => ?_
      · refine spWrite_keeps
      refine spWrite_keeps
    refine KeepsX.bind ?_ fun _ => ?_
    · refine spRead_keeps
    refine KeepsX.bind ?_ fun _ => ?_
    · refine spWrite_keeps
    refine KeepsX.bind ?_ fun _ => ?_
    · refine spWrite_keeps
    refine spWrite_keeps
  refine KeepsX.bind ?_ fun _ => ?_
  · refine eachX_keeps ?_
    intro _
    refine KeepsX.bind ?_ fun _ => ?_
    · refine scaleOf_keeps
    exact KeepsX.pure _
  refine KeepsX.bind ?_ fun _ => ?_
  · refine dmaRead_keeps
  extract_lets -merge +onlyGivenNames l43_0
  subst l43_0
  try dsimp -zeta -zetaHave -zetaUnused -iota -proj only
  refine KeepsX.ite (fun _ => ?_) (fun _ => ?_)
  · refine KeepsX.bind ?_ fun _ => ?_
    · exact KeepsX.pure _
    refine KeepsX.bind ?_ fun _ => ?_
    · refine spWrite_keeps
    refine KeepsX.bind ?_ fun _ => ?_
    · refine spWrite_keeps
    refine spWrite_keeps
  refine KeepsX.bind ?_ fun _ => ?_
  · refine spRead_keeps
  refine KeepsX.bind ?_ fun _ => ?_
  · refine spWrite_keeps
  refine KeepsX.bind ?_ fun _ => ?_
  · refine spWrite_keeps
  refine spWrite_keeps

theorem haloWait_keeps {a : State} {x0 x1 x2 x3 s} (h : Keeps a s) : Keeps a (haloWait x0 x1 x2 x3 s) := by
  delta haloWait
  refine Keeps.ite (fun _ => ?_) (fun _ => ?_)
  · refine nextPc_keeps ?_
    refine modCore_keeps ?_
    assumption
  assumption

theorem haloRelease_keeps {a : State} {x0 x1 x2 x3 s} (h : Keeps a s) : Keeps a (haloRelease x0 x1 x2 x3 s) := by
  delta haloRelease
  extract_lets -merge +onlyGivenNames l0_0
  clear_value l0_0
  refine Keeps.ite (fun _ => ?_) (fun _ => ?_)
  · refine stopCore_keeps ?_
    assumption
  refine Keeps.ite (fun _ => ?_) (fun _ => ?_)
  · assumption
  refine nextPc_keeps ?_
  refine modCore_keeps ?_
  assumption

theorem doHalo_keeps {a : State} {x0 s} (h : Keeps a s) : Keeps a (doHalo x0 s) := by
  delta doHalo
  refine issue_keeps ?_ ?_
  · assumption
  intro _ _ _
  extract_lets -merge +onlyGivenNames l3_0 l3_1 l3_2 l3_3 l3_4 l3_5 l3_6
  clear_value l3_0
  clear_value l3_1
  clear_value l3_2
  clear_value l3_3
  clear_value l3_4
  clear_value l3_5
  clear_value l3_6
  refine Keeps.ite (fun _ => ?_) (fun _ => ?_)
  · refine stopCore_keeps ?_
    assumption
  refine Keeps.ite (fun _ => ?_) (fun _ => ?_)
  · refine stopCore_keeps ?_
    assumption
  split
  · split
    · assumption
    · refine Keeps.ite (fun _ => ?_) (fun _ => ?_)
      · assumption
      refine runX_keeps ?_ ?_ ?_
      · assumption
      · refine haloSend_keeps
      intro _ _
      refine nextPc_keeps ?_
      assumption
  · refine haloWait_keeps ?_
    assumption
  · refine haloRelease_keeps ?_
    assumption

theorem doMeshPacketLost_keeps {a : State} {x0 x1 x2 x3 x4 x5 s} (h : Keeps a s) : Keeps a (doMeshPacketLost x0 x1 x2 x3 x4 x5 s) := by
  delta doMeshPacketLost
  extract_lets -merge +onlyGivenNames l0_0 l0_1 l0_2 l0_3 l0_4 l0_5 l0_6
  have h0_0 : Keeps a l0_0 := by
    subst l0_0
    refine advance_keeps ?_
    assumption
  clear_value l0_0
  clear_value l0_1
  clear_value l0_2
  have h0_3 : Keeps a l0_3 := by
    subst l0_3
    refine stick_keeps ?_
    assumption
  clear_value l0_3
  have h0_4 : Keeps a l0_4 := by
    subst l0_4
    refine stick_keeps ?_
    assumption
  clear_value l0_4
  have h0_5 : Keeps a l0_5 := by
    subst l0_5
    refine record_keeps ?_
    assumption
  clear_value l0_5
  clear_value l0_6
  refine Keeps.ite (fun _ => ?_) (fun _ => ?_)
  · assumption
  refine settle_keeps ?_
  refine teardown_keeps ?_
  assumption

end Sys2Proof.Machine
end

