-- ==== Sys2Proof/Laws/KeepsWindow.lean ====
section
/-!
SUPPORT. Laws/KeepsWindow.lean: the operations of Machine/Window.lean keep what `Keeps` says (Laws/Keeps.lean).
-/
namespace Sys2Proof.Machine

theorem seamsFor_keeps {a : State} {x0 x1 x2} : KeepsX a (seamsFor x0 x1 x2) := by
  delta seamsFor
  refine KeepsX.bind ?_ fun _ => ?_
  · refine peekX_keeps
  refine KeepsX.bind ?_ fun _ => ?_
  · refine need_keeps
  refine KeepsX.bind ?_ fun _ => ?_
  · refine peekX_keeps
  exact KeepsX.pure _

theorem seamFits_keeps {a : State} {x0 x1 x2 x3 x4} : KeepsX a (seamFits x0 x1 x2 x3 x4) := by
  delta seamFits
  split
  · exact KeepsX.pure _
  · extract_lets -merge +onlyGivenNames l2_0
    clear_value l2_0
    refine KeepsX.bind ?_ fun _ => ?_
    · refine peekX_keeps
    refine need_keeps

theorem winShape_keeps {a : State} {x0 x1 x2 x3 x4 x5} : KeepsX a (winShape x0 x1 x2 x3 x4 x5) := by
  delta winShape
  refine KeepsX.bind ?_ fun _ => ?_
  · refine need_keeps
  refine KeepsX.bind ?_ fun _ => ?_
  · refine need_keeps
  extract_lets -merge +onlyGivenNames l4_0 l4_1
  clear_value l4_0
  clear_value l4_1
  refine KeepsX.bind ?_ fun _ => ?_
  · refine need_keeps
  refine KeepsX.bind ?_ fun _ => ?_
  · refine need_keeps
  refine KeepsX.bind ?_ fun _ => ?_
  · refine seamFits_keeps
  refine seamFits_keeps

theorem seamCode_keeps {a : State} {x0 x1 x2 x3 x4 x5} : KeepsX a (seamCode x0 x1 x2 x3 x4 x5) := by
  delta seamCode
  extract_lets -merge +onlyGivenNames l0_0
  clear_value l0_0
  refine KeepsX.bind ?_ fun _ => ?_
  · refine spRead_keeps
  extract_lets -merge +onlyGivenNames l4_0
  clear_value l4_0
  exact KeepsX.pure _

theorem seamScale_keeps {a : State} {x0 x1 x2 x3 x4 x5} : KeepsX a (seamScale x0 x1 x2 x3 x4 x5) := by
  delta seamScale
  refine KeepsX.bind ?_ fun _ => ?_
  · refine peekX_keeps
  extract_lets -merge +onlyGivenNames l2_0 l2_1
  clear_value l2_0
  clear_value l2_1
  refine KeepsX.bind ?_ fun _ => ?_
  · refine recSlot_keeps
  refine KeepsX.ite (fun _ => ?_) (fun _ => ?_)
  · refine KeepsX.bind ?_ fun _ => ?_
    · refine recSlot_keeps
    exact KeepsX.pure _
  exact KeepsX.pure _

theorem tapVal_keeps {a : State} {x0 x1 x2 x3 x4 x5 x6 x7} : KeepsX a (tapVal x0 x1 x2 x3 x4 x5 x6 x7) := by
  delta tapVal
  refine KeepsX.bind ?_ fun _ => ?_
  · refine peekX_keeps
  split
  · exact KeepsX.pure _
  · exact KeepsX.pure _
  · refine KeepsX.bind ?_ fun _ => ?_
    · refine elemCode_keeps
    exact KeepsX.pure _
  · refine KeepsX.bind ?_ fun _ => ?_
    · refine seamCode_keeps
    exact KeepsX.pure _

theorem tapScale_keeps {a : State} {x0 x1 x2 x3 x4 x5} : KeepsX a (tapScale x0 x1 x2 x3 x4 x5) := by
  delta tapScale
  split
  · refine scaleOf_keeps
  · refine seamScale_keeps
  · exact KeepsX.pure _

end Sys2Proof.Machine
end

