-- ==== Sys2Proof/Laws/KeepsTensor.lean ====
section
/-!
SUPPORT. Laws/KeepsTensor.lean: the operations of Machine/Tensor.lean keep what `Keeps` says (Laws/Keeps.lean).
-/
namespace Sys2Proof.Machine

theorem actRow_keeps {a : State} {x0 x1 x2 x3 x4 x5 x6 x7 x8} : KeepsX a (actRow x0 x1 x2 x3 x4 x5 x6 x7 x8) := by
  delta actRow
  refine KeepsX.ite (fun _ => ?_) (fun _ => ?_)
  · split
    · extract_lets -merge +onlyGivenNames l2_0
      clear_value l2_0
      refine KeepsX.bind ?_ fun _ => ?_
      · refine mapX_keeps ?_
        intro _
        split
        · exact KeepsX.pure _
        · refine tapVal_keeps
      refine KeepsX.bind ?_ fun _ => ?_
      · split
        · refine KeepsX.bind ?_ fun _ => ?_
          · refine tapScale_keeps
          exact KeepsX.pure _
        · exact KeepsX.pure _
      exact KeepsX.pure _
  extract_lets -merge +onlyGivenNames l17_0
  clear_value l17_0
  refine KeepsX.bind ?_ fun _ => ?_
  · refine peekX_keeps
  refine KeepsX.bind ?_ fun _ => ?_
  · refine mapX_keeps ?_
    intro _
    extract_lets -merge +onlyGivenNames l24_0 l24_1
    clear_value l24_0
    subst l24_1
    try dsimp -zeta -zetaHave -zetaUnused -iota -proj only
    refine KeepsX.ite (fun _ => ?_) (fun _ => ?_)
    · exact KeepsX.pure _
    refine KeepsX.ite (fun _ => ?_) (fun _ => ?_)
    · refine KeepsX.bind ?_ fun _ => ?_
      · refine elemCode_keeps
      exact KeepsX.pure _
    refine KeepsX.bind ?_ fun _ => ?_
    · refine elemCode_keeps
    exact KeepsX.pure _
  extract_lets -merge +onlyGivenNames l37_0
  subst l37_0
  try dsimp -zeta -zetaHave -zetaUnused -iota -proj only
  refine KeepsX.ite (fun _ => ?_) (fun _ => ?_)
  · refine KeepsX.bind ?_ fun _ => ?_
    · exact KeepsX.pure _
    exact KeepsX.pure _
  refine KeepsX.bind ?_ fun _ => ?_
  · refine scaleOf_keeps
  refine KeepsX.bind ?_ fun _ => ?_
  · exact KeepsX.pure _
  exact KeepsX.pure _

theorem wtCol_keeps {a : State} {x0 x1 x2 x3 x4 x5} : KeepsX a (wtCol x0 x1 x2 x3 x4 x5) := by
  delta wtCol
  refine KeepsX.bind ?_ fun _ => ?_
  · refine peekX_keeps
  extract_lets -merge +onlyGivenNames l2_0 l2_1 l2_2
  clear_value l2_0
  clear_value l2_1
  subst l2_2
  try dsimp -zeta -zetaHave -zetaUnused -iota -proj only
  refine KeepsX.ite (fun _ => ?_) (fun _ => ?_)
  · refine KeepsX.bind ?_ fun _ => ?_
    · refine mapX_keeps ?_
      intro _
      split
      · exact KeepsX.pure _
      · refine KeepsX.bind ?_ fun _ => ?_
        · refine elemCode_keeps
        exact KeepsX.pure _
    refine KeepsX.bind ?_ fun _ => ?_
    · split
      · refine KeepsX.bind ?_ fun _ => ?_
        · refine scaleOf_keeps
        exact KeepsX.pure _
      · exact KeepsX.pure _
    exact KeepsX.pure _
  refine KeepsX.bind ?_ fun _ => ?_
  · refine mapX_keeps ?_
    intro _
    extract_lets -merge +onlyGivenNames l26_0
    clear_value l26_0
    refine KeepsX.ite (fun _ => ?_) (fun _ => ?_)
    · exact KeepsX.pure _
    refine KeepsX.ite (fun _ => ?_) (fun _ => ?_)
    · refine KeepsX.bind ?_ fun _ => ?_
      · refine elemCode_keeps
      exact KeepsX.pure _
    refine KeepsX.bind ?_ fun _ => ?_
    · refine elemCode_keeps
    exact KeepsX.pure _
  extract_lets -merge +onlyGivenNames l37_0
  subst l37_0
  try dsimp -zeta -zetaHave -zetaUnused -iota -proj only
  refine KeepsX.ite (fun _ => ?_) (fun _ => ?_)
  · refine KeepsX.bind ?_ fun _ => ?_
    · exact KeepsX.pure _
    exact KeepsX.pure _
  refine KeepsX.bind ?_ fun _ => ?_
  · refine scaleOf_keeps
  refine KeepsX.bind ?_ fun _ => ?_
  · exact KeepsX.pure _
  exact KeepsX.pure _

theorem tileLeaf_keeps {a : State} {x0 x1 x2 x3 x4 x5} : KeepsX a (tileLeaf x0 x1 x2 x3 x4 x5) := by
  delta tileLeaf
  split
  · extract_lets -merge +onlyGivenNames l1_0 l1_1 l1_2
    clear_value l1_0
    clear_value l1_1
    clear_value l1_2
    refine KeepsX.bind ?_ fun _ => ?_
    · refine mapX_keeps ?_
      intro _
      refine KeepsX.bind ?_ fun _ => ?_
      · refine wtCol_keeps
      exact KeepsX.pure _
    refine KeepsX.bind ?_ fun _ => ?_
    · refine mapX_keeps ?_
      intro _
      refine KeepsX.bind ?_ fun _ => ?_
      · refine actRow_keeps
      refine mapX_keeps ?_
      intro _
      extract_lets -merge +onlyGivenNames l18_0
      subst l18_0
      try dsimp -zeta -zetaHave -zetaUnused -iota -proj only
      refine KeepsX.ite (fun _ => ?_) (fun _ => ?_)
      · refine KeepsX.bind ?_ fun _ => ?_
        · refine actRow_keeps
        refine num_keeps
      refine KeepsX.bind ?_ fun _ => ?_
      · exact KeepsX.pure _
      refine num_keeps
    exact KeepsX.pure _

theorem biasOf_keeps {a : State} {x0 x1 x2} : KeepsX a (biasOf x0 x1 x2) := by
  delta biasOf
  refine KeepsX.ite (fun _ => ?_) (fun _ => ?_)
  · refine KeepsX.bind ?_ fun _ => ?_
    · refine mapX_keeps ?_
      intro _
      refine KeepsX.bind ?_ fun _ => ?_
      · refine elemCode_keeps
      exact KeepsX.pure _
    exact KeepsX.pure _
  exact KeepsX.pure _

theorem writeRoot_keeps {a : State} {x0 x1 x2 x3} : KeepsX a (writeRoot x0 x1 x2 x3) := by
  delta writeRoot
  extract_lets -merge +onlyGivenNames l0_0
  clear_value l0_0
  refine eachX_keeps ?_
  intro _
  extract_lets -merge +onlyGivenNames l4_0 l4_1
  clear_value l4_0
  subst l4_1
  try dsimp -zeta -zetaHave -zetaUnused -iota -proj only
  refine KeepsX.ite (fun _ => ?_) (fun _ => ?_)
  · refine KeepsX.bind ?_ fun _ => ?_
    · refine accRead_keeps
    refine KeepsX.bind ?_ fun _ => ?_
    · refine num_keeps
    refine accWrite_keeps
  refine KeepsX.bind ?_ fun _ => ?_
  · exact KeepsX.pure _
  refine accWrite_keeps

theorem combineTurn_keeps {a : State} {x0 x1} : KeepsX a (combineTurn x0 x1) := by
  delta combineTurn
  split
  · refine KeepsX.bind ?_ fun _ => ?_
    · refine KeepsX.modify fun _ _ => ?_
      assumption
    refine KeepsX.bind ?_ fun _ => ?_
    · refine biasOf_keeps
    refine KeepsX.bind ?_ fun _ => ?_
    · refine num_keeps
    refine actX_keeps ?_
    intro _ _
    refine modCore_keeps ?_
    assumption
  · refine KeepsX.bind ?_ fun _ => ?_
    · refine biasOf_keeps
    extract_lets -merge +onlyGivenNames l14_0
    clear_value l14_0
    refine KeepsX.bind ?_ fun _ => ?_
    · refine num_keeps
    refine actX_keeps ?_
    intro _ _
    refine modCore_keeps ?_
    assumption
  · refine KeepsX.bind ?_ fun _ => ?_
    · refine writeRoot_keeps
    refine actX_keeps ?_
    intro _ _
    refine modCore_keeps ?_
    assumption

theorem combineAll_keeps {a : State} {x0 x1} : KeepsX a (combineAll x0 x1) := by
  induction x1 generalizing x0 with
  | zero =>
    rw [combineAll.eq_1]
    exact KeepsX.pure _
  | succ n ih =>
    rw [combineAll.eq_2]
    refine KeepsX.bind ?_ fun _ => ?_
    · refine peekX_keeps
    split
    · exact KeepsX.pure _
    · refine KeepsX.bind ?_ fun _ => ?_
      · refine combineTurn_keeps
      refine KeepsX.bind ?_ fun _ => ?_
      · refine actX_keeps ?_
        intro _ _
        refine modCore_keeps ?_
        assumption
      refine ih

theorem pump_keeps {a : State} {x0} : KeepsX a (pump x0) := by
  delta pump
  refine KeepsX.bind ?_ fun _ => ?_
  · refine actX_keeps ?_
    intro _ _
    refine modCore_keeps ?_
    assumption
  refine KeepsX.bind ?_ fun _ => ?_
  · refine peekX_keeps
  refine combineAll_keeps

theorem startRun_keeps {a : State} {x0 x1 x2} : KeepsX a (startRun x0 x1 x2) := by
  delta startRun
  refine KeepsX.bind ?_ fun _ => ?_
  · refine actX_keeps ?_
    intro _ _
    refine modCore_keeps ?_
    assumption
  refine pump_keeps

theorem mmCheck_keeps {a : State} {x0 x1} : KeepsX a (mmCheck x0 x1) := by
  delta mmCheck
  refine KeepsX.bind ?_ fun _ => ?_
  · refine tdArg_keeps
  refine KeepsX.bind ?_ fun _ => ?_
  · refine tdArg_keeps
  refine KeepsX.bind ?_ fun _ => ?_
  · refine tdArg_keeps
  refine KeepsX.bind ?_ fun _ => ?_
  · refine need_keeps
  refine KeepsX.bind ?_ fun _ => ?_
  · refine need_keeps
  refine KeepsX.bind ?_ fun _ => ?_
  · refine need_keeps
  extract_lets -merge +onlyGivenNames l12_0 l12_1 l12_2 l12_3
  clear_value l12_0
  clear_value l12_1
  clear_value l12_2
  clear_value l12_3
  refine KeepsX.bind ?_ fun _ => ?_
  · refine need_keeps
  refine KeepsX.bind ?_ fun _ => ?_
  · refine need_keeps
  refine KeepsX.bind ?_ fun _ => ?_
  · refine needSpan_keeps
  refine KeepsX.bind ?_ fun _ => ?_
  · refine needSpan_keeps
  refine needSpan_keeps

theorem doMm_keeps {a : State} {x0 x1 s} (h : Keeps a s) : Keeps a (doMm x0 x1 s) := by
  delta doMm
  refine issue_keeps ?_ ?_
  · assumption
  intro _ _ _
  extract_lets -merge +onlyGivenNames l3_0 l3_1
  clear_value l3_0
  clear_value l3_1
  refine Keeps.ite (fun _ => ?_) (fun _ => ?_)
  · refine runX_keeps ?_ ?_ ?_
    · assumption
    · refine KeepsX.bind ?_ fun _ => ?_
      · refine mmCheck_keeps
      refine startRun_keeps
    intro _ _
    refine nextPc_keeps ?_
    assumption
  assumption

theorem convCheck_keeps {a : State} {x0 x1 x2} : KeepsX a (convCheck x0 x1 x2) := by
  delta convCheck
  extract_lets -merge +onlyGivenNames l0_0 l0_1
  clear_value l0_0
  subst l0_1
  try dsimp -zeta -zetaHave -zetaUnused -iota -proj only
  refine KeepsX.bind ?_ fun _ => ?_
  · refine need_keeps
  refine KeepsX.ite (fun _ => ?_) (fun _ => ?_)
  · refine KeepsX.bind ?_ fun _ => ?_
    · exact KeepsX.pure _
    refine KeepsX.bind ?_ fun _ => ?_
    · refine tdArg_keeps
    refine KeepsX.bind ?_ fun _ => ?_
    · refine tdArg_keeps
    refine KeepsX.bind ?_ fun _ => ?_
    · refine tdArg_keeps
    refine KeepsX.bind ?_ fun _ => ?_
    · refine need_keeps
    refine KeepsX.bind ?_ fun _ => ?_
    · refine need_keeps
    extract_lets -merge +onlyGivenNames l19_0 l19_1
    subst l19_0
    try dsimp -zeta -zetaHave -zetaUnused -iota -proj only
    subst l19_1
    try dsimp -zeta -zetaHave -zetaUnused -iota -proj only
    refine KeepsX.ite (fun _ => ?_) (fun _ => ?_)
    · refine KeepsX.bind ?_ fun _ => ?_
      · refine tdArg_keeps
      refine KeepsX.bind ?_ fun _ => ?_
      · refine need_keeps
      extract_lets -merge +onlyGivenNames l29_0 l29_1 l29_2
      clear_value l29_0
      clear_value l29_1
      clear_value l29_2
      refine KeepsX.bind ?_ fun _ => ?_
      · refine need_keeps
      refine KeepsX.bind ?_ fun _ => ?_
      · refine need_keeps
      refine KeepsX.bind ?_ fun _ => ?_
      · refine winShape_keeps
      refine KeepsX.bind ?_ fun _ => ?_
      · refine needSpan_keeps
      refine KeepsX.bind ?_ fun _ => ?_
      · refine needSpan_keeps
      refine KeepsX.bind ?_ fun _ => ?_
      · refine needSpan_keeps
      refine KeepsX.ite (fun _ => ?_) (fun _ => ?_)
      · refine KeepsX.bind ?_ fun _ => ?_
        · refine needSpan_keeps
        exact KeepsX.pure _
      exact KeepsX.pure _
    refine KeepsX.bind ?_ fun _ => ?_
    · exact KeepsX.pure _
    refine KeepsX.bind ?_ fun _ => ?_
    · refine need_keeps
    extract_lets -merge +onlyGivenNames l54_0 l54_1 l54_2
    clear_value l54_0
    clear_value l54_1
    clear_value l54_2
    refine KeepsX.bind ?_ fun _ => ?_
    · refine need_keeps
    refine KeepsX.bind ?_ fun _ => ?_
    · refine need_keeps
    refine KeepsX.bind ?_ fun _ => ?_
    · refine winShape_keeps
    refine KeepsX.bind ?_ fun _ => ?_
    · refine needSpan_keeps
    refine KeepsX.bind ?_ fun _ => ?_
    · refine needSpan_keeps
    refine KeepsX.bind ?_ fun _ => ?_
    · refine needSpan_keeps
    refine KeepsX.ite (fun _ => ?_) (fun _ => ?_)
    · refine KeepsX.bind ?_ fun _ => ?_
      · refine needSpan_keeps
      exact KeepsX.pure _
    exact KeepsX.pure _
  refine KeepsX.bind ?_ fun _ => ?_
  · refine seamsFor_keeps
  refine KeepsX.bind ?_ fun _ => ?_
  · refine tdArg_keeps
  refine KeepsX.bind ?_ fun _ => ?_
  · refine tdArg_keeps
  refine KeepsX.bind ?_ fun _ => ?_
  · refine tdArg_keeps
  refine KeepsX.bind ?_ fun _ => ?_
  · refine need_keeps
  refine KeepsX.bind ?_ fun _ => ?_
  · refine need_keeps
  extract_lets -merge +onlyGivenNames l87_0 l87_1
  subst l87_0
  try dsimp -zeta -zetaHave -zetaUnused -iota -proj only
  subst l87_1
  try dsimp -zeta -zetaHave -zetaUnused -iota -proj only
  refine KeepsX.ite (fun _ => ?_) (fun _ => ?_)
  · refine KeepsX.bind ?_ fun _ => ?_
    · refine tdArg_keeps
    refine KeepsX.bind ?_ fun _ => ?_
    · refine need_keeps
    extract_lets -merge +onlyGivenNames l97_0 l97_1 l97_2
    clear_value l97_0
    clear_value l97_1
    clear_value l97_2
    refine KeepsX.bind ?_ fun _ => ?_
    · refine need_keeps
    refine KeepsX.bind ?_ fun _ => ?_
    · refine need_keeps
    refine KeepsX.bind ?_ fun _ => ?_
    · refine winShape_keeps
    refine KeepsX.bind ?_ fun _ => ?_
    · refine needSpan_keeps
    refine KeepsX.bind ?_ fun _ => ?_
    · refine needSpan_keeps
    refine KeepsX.bind ?_ fun _ => ?_
    · refine needSpan_keeps
    refine KeepsX.ite (fun _ => ?_) (fun _ => ?_)
    · refine KeepsX.bind ?_ fun _ => ?_
      · refine needSpan_keeps
      exact KeepsX.pure _
    exact KeepsX.pure _
  refine KeepsX.bind ?_ fun _ => ?_
  · exact KeepsX.pure _
  refine KeepsX.bind ?_ fun _ => ?_
  · refine need_keeps
  extract_lets -merge +onlyGivenNames l122_0 l122_1 l122_2
  clear_value l122_0
  clear_value l122_1
  clear_value l122_2
  refine KeepsX.bind ?_ fun _ => ?_
  · refine need_keeps
  refine KeepsX.bind ?_ fun _ => ?_
  · refine need_keeps
  refine KeepsX.bind ?_ fun _ => ?_
  · refine winShape_keeps
  refine KeepsX.bind ?_ fun _ => ?_
  · refine needSpan_keeps
  refine KeepsX.bind ?_ fun _ => ?_
  · refine needSpan_keeps
  refine KeepsX.bind ?_ fun _ => ?_
  · refine needSpan_keeps
  refine KeepsX.ite (fun _ => ?_) (fun _ => ?_)
  · refine KeepsX.bind ?_ fun _ => ?_
    · refine needSpan_keeps
    exact KeepsX.pure _
  exact KeepsX.pure _

theorem doConvOp_keeps {a : State} {x0 x1 x2 s} (h : Keeps a s) : Keeps a (doConvOp x0 x1 x2 s) := by
  delta doConvOp
  refine issue_keeps ?_ ?_
  · assumption
  intro _ _ _
  extract_lets -merge +onlyGivenNames l3_0 l3_1
  clear_value l3_0
  clear_value l3_1
  refine Keeps.ite (fun _ => ?_) (fun _ => ?_)
  · refine runX_keeps ?_ ?_ ?_
    · assumption
    · refine KeepsX.bind ?_ fun _ => ?_
      · refine convCheck_keeps
      refine startRun_keeps
    intro _ _
    refine nextPc_keeps ?_
    assumption
  assumption

theorem doCbld_keeps {a : State} {x0 s} (h : Keeps a s) : Keeps a (doCbld x0 s) := by
  delta doCbld
  refine issue_keeps ?_ ?_
  · assumption
  intro _ _ _
  extract_lets -merge +onlyGivenNames l3_0 l3_1
  clear_value l3_0
  clear_value l3_1
  refine Keeps.ite (fun _ => ?_) (fun _ => ?_)
  · refine runX_keeps ?_ ?_ ?_
    · assumption
    · refine KeepsX.bind ?_ fun _ => ?_
      · refine need_keeps
      refine KeepsX.bind ?_ fun _ => ?_
      · refine need_keeps
      refine KeepsX.bind ?_ fun _ => ?_
      · refine spRead_keeps
      refine actX_keeps ?_
      intro _ _
      refine modCore_keeps ?_
      assumption
    intro _ _
    refine nextPc_keeps ?_
    assumption
  assumption

theorem computeLeaf_keeps {a : State} {x0 x1 x2 x3 s} (h : Keeps a s) : Keeps a (computeLeaf x0 x1 x2 x3 s) := by
  delta computeLeaf
  extract_lets -merge +onlyGivenNames l0_0
  clear_value l0_0
  split
  · assumption
  · split
    · rename_i hq
      have hk := Keeps.ofRun (a := a) (by
        refine tileLeaf_keeps) (by
        show Keeps a _
        assumption) hq
      split
      · refine failXAt_keeps ?_
        assumption
      · refine modCore_keeps ?_
        assumption

theorem doTileIssue_keeps {a : State} {x0 x1 x2 s} (h : Keeps a s) : Keeps a (doTileIssue x0 x1 x2 s) := by
  delta doTileIssue
  extract_lets -merge +onlyGivenNames l0_0 l0_1
  have h0_0 : Keeps a l0_0 := by
    subst l0_0
    refine advance_keeps ?_
    assumption
  clear_value l0_0
  clear_value l0_1
  split
  · assumption
  · extract_lets -merge +onlyGivenNames l9_0
    clear_value l9_0
    refine Keeps.ite (fun _ => ?_) (fun _ => ?_)
    · refine computeLeaf_keeps ?_
      assumption
    assumption

theorem dropLent_keeps {a : State} {x0 x1 s} (h : Keeps a s) : Keeps a (dropLent x0 x1 s) := by
  delta dropLent
  refine modCore_keeps ?_
  assumption

theorem deliver_keeps {a : State} {x0 x1 x2 x3 s} (h : Keeps a s) : Keeps a (deliver x0 x1 x2 x3 s) := by
  delta deliver
  extract_lets -merge +onlyGivenNames l0_0 l0_1
  have h0_0 : Keeps a l0_0 := by
    subst l0_0
    refine countCore_keeps ?_
    assumption
  clear_value l0_0
  clear_value l0_1
  refine runXAt_keeps ?_ ?_ ?_
  · assumption
  · refine KeepsX.bind ?_ fun _ => ?_
    · refine actX_keeps ?_
      intro _ _
      refine modCore_keeps ?_
      assumption
    refine pump_keeps
  intro _ _
  assumption

theorem doLeafDeliver_keeps {a : State} {x0 x1 x2 s} (h : Keeps a s) : Keeps a (doLeafDeliver x0 x1 x2 s) := by
  delta doLeafDeliver
  extract_lets -merge +onlyGivenNames l0_0 l0_1
  have h0_0 : Keeps a l0_0 := by
    subst l0_0
    refine advance_keeps ?_
    assumption
  clear_value l0_0
  clear_value l0_1
  split
  · assumption
  · refine Keeps.ite (fun _ => ?_) (fun _ => ?_)
    · assumption
    split
    · refine deliver_keeps ?_
      assumption
    · extract_lets -merge +onlyGivenNames l14_0 l14_1 l14_2
      clear_value l14_0
      have h14_1 : Keeps a l14_1 := by
        subst l14_1
        refine computeLeaf_keeps ?_
        assumption
      clear_value l14_1
      have h14_2 : Keeps a l14_2 := by
        subst l14_2
        refine dropLent_keeps ?_
        assumption
      clear_value l14_2
      split
      · assumption
      · refine refreshBlocked_keeps ?_
        refine deliver_keeps ?_
        refine countCore_keeps ?_
        assumption
    · assumption

theorem doGleanRequest_keeps {a : State} {x0 x1 s} (h : Keeps a s) : Keeps a (doGleanRequest x0 x1 s) := by
  delta doGleanRequest
  extract_lets -merge +onlyGivenNames l0_0 l0_1
  have h0_0 : Keeps a l0_0 := by
    subst l0_0
    refine advance_keeps ?_
    assumption
  clear_value l0_0
  clear_value l0_1
  refine Keeps.ite (fun _ => ?_) (fun _ => ?_)
  · split
    · assumption
    · refine modCore_keeps ?_
      assumption
  assumption

theorem doGleanGrant_keeps {a : State} {x0 x1 s} (h : Keeps a s) : Keeps a (doGleanGrant x0 x1 s) := by
  delta doGleanGrant
  extract_lets -merge +onlyGivenNames l0_0 l0_1 l0_2 l0_3 l0_4
  have h0_0 : Keeps a l0_0 := by
    subst l0_0
    refine advance_keeps ?_
    assumption
  clear_value l0_0
  clear_value l0_1
  have h0_2 : Keeps a l0_2 := by
    subst l0_2
    refine countCore_keeps ?_
    assumption
  clear_value l0_2
  clear_value l0_3
  subst l0_4
  try dsimp -zeta -zetaHave -zetaUnused -iota -proj only
  split
  · assumption
  · extract_lets -merge +onlyGivenNames l17_0 l17_1 l17_2 l17_3
    clear_value l17_0
    clear_value l17_1
    clear_value l17_2
    clear_value l17_3
    split
    · extract_lets -merge +onlyGivenNames l23_0 l23_1
      have h23_0 : Keeps a l23_0 := by
        subst l23_0
        refine modCore_keeps ?_
        assumption
      clear_value l23_0
      have h23_1 : Keeps a l23_1 := by
        subst l23_1
        refine countCore_keeps ?_
        assumption
      clear_value l23_1
      refine modCore_keeps ?_
      assumption
    · refine modCore_keeps ?_
      assumption

theorem doGleanBackoffExpiry_keeps {a : State} {x0 x1 s} (h : Keeps a s) : Keeps a (doGleanBackoffExpiry x0 x1 s) := by
  delta doGleanBackoffExpiry
  extract_lets -merge +onlyGivenNames l0_0
  have h0_0 : Keeps a l0_0 := by
    subst l0_0
    refine advance_keeps ?_
    assumption
  clear_value l0_0
  refine Keeps.ite (fun _ => ?_) (fun _ => ?_)
  · refine modCore_keeps ?_
    assumption
  assumption

end Sys2Proof.Machine
end

