-- ==== Sys2Proof/Laws/KeepsVector.lean ====
section
/-!
SUPPORT. Laws/KeepsVector.lean: the operations of Machine/Vector.lean keep what `Keeps` says (Laws/Keeps.lean).
-/
namespace Sys2Proof.Machine

theorem axisOk_keeps {a : State} {x0 x1} : KeepsX a (axisOk x0 x1) := by
  delta axisOk
  refine KeepsX.bind ?_ fun _ => ?_
  · refine peekX_keeps
  refine need_keeps

theorem freeX_keeps {a : State} : KeepsX a freeX := by
  delta freeX
  refine KeepsX.get fun _ _ => ?_
  split
  · rename_i hq
    have hk := Keeps.ofEq (a := a) (by
      refine takeFree_keeps ?_
      assumption) hq
    refine KeepsX.bind ?_ fun _ => ?_
    · refine KeepsX.set ?_
      show Keeps a _
      assumption
    exact KeepsX.pure _

theorem tensorVals_keeps {a : State} {x0 x1} : KeepsX a (tensorVals x0 x1) := by
  delta tensorVals
  refine mapX_keeps ?_
  intro _
  refine KeepsX.bind ?_ fun _ => ?_
  · refine rowVals_keeps
  exact KeepsX.pure _

theorem vecIssue_keeps {a : State} {x0 x1 x2 x3 x4 s} (h : Keeps a s) (h4 : ∀ y0, KeepsX a (x4 y0)) : Keeps a (vecIssue x0 x1 x2 x3 x4 s) := by
  delta vecIssue
  refine issue_keeps ?_ ?_
  · assumption
  intro _ _ _
  extract_lets -merge +onlyGivenNames l3_0
  clear_value l3_0
  refine Keeps.ite (fun _ => ?_) (fun _ => ?_)
  · refine runX_keeps ?_ ?_ ?_
    · assumption
    · apply_assumption
    intro _ _
    refine nextPc_keeps ?_
    assumption
  assumption

theorem vopBody_keeps {a : State} {x0 x1} : KeepsX a (vopBody x0 x1) := by
  delta vopBody
  extract_lets -merge +onlyGivenNames l0_0 l0_1
  clear_value l0_0
  clear_value l0_1
  refine KeepsX.bind ?_ fun _ => ?_
  · refine need_keeps
  refine KeepsX.bind ?_ fun _ => ?_
  · refine axisOk_keeps
  refine KeepsX.bind ?_ fun _ => ?_
  · refine tdArg_keeps
  refine KeepsX.bind ?_ fun _ => ?_
  · refine tdArg_keeps
  extract_lets -merge +onlyGivenNames l11_0
  subst l11_0
  try dsimp -zeta -zetaHave -zetaUnused -iota -proj only
  refine KeepsX.ite (fun _ => ?_) (fun _ => ?_)
  · refine KeepsX.bind ?_ fun _ => ?_
    · refine tdArg_keeps
    extract_lets -merge +onlyGivenNames l17_0
    subst l17_0
    try dsimp -zeta -zetaHave -zetaUnused -iota -proj only
    refine KeepsX.ite (fun _ => ?_) (fun _ => ?_)
    · refine KeepsX.bind ?_ fun _ => ?_
      · refine tdArg_keeps
      extract_lets -merge +onlyGivenNames l23_0 l23_1
      clear_value l23_0
      clear_value l23_1
      refine KeepsX.bind ?_ fun _ => ?_
      · refine need_keeps
      refine KeepsX.bind ?_ fun _ => ?_
      · refine need_keeps
      refine KeepsX.bind ?_ fun _ => ?_
      · refine needSpan_keeps
      refine KeepsX.bind ?_ fun _ => ?_
      · refine eachX_keeps ?_
        intro _
        refine needSpan_keeps
      refine KeepsX.bind ?_ fun _ => ?_
      · refine peekX_keeps
      refine eachX_keeps ?_
      intro _
      refine KeepsX.bind ?_ fun _ => ?_
      · refine rowVals_keeps
      extract_lets -merge +onlyGivenNames l42_0
      subst l42_0
      try dsimp -zeta -zetaHave -zetaUnused -iota -proj only
      refine KeepsX.ite (fun _ => ?_) (fun _ => ?_)
      · refine KeepsX.bind ?_ fun _ => ?_
        · refine KeepsX.ite (fun _ => ?_) (fun _ => ?_)
          · exact KeepsX.pure _
          refine rowVals_keeps
        extract_lets -merge +onlyGivenNames l50_0
        subst l50_0
        try dsimp -zeta -zetaHave -zetaUnused -iota -proj only
        refine KeepsX.ite (fun _ => ?_) (fun _ => ?_)
        · refine KeepsX.bind ?_ fun _ => ?_
          · refine rowVals_keeps
          extract_lets -merge +onlyGivenNames l56_0
          clear_value l56_0
          refine KeepsX.ite (fun _ => ?_) (fun _ => ?_)
          · refine putCodes_keeps
          refine KeepsX.bind ?_ fun _ => ?_
          · refine num_keeps
          refine putRow_keeps
        refine KeepsX.bind ?_ fun _ => ?_
        · exact KeepsX.pure _
        extract_lets -merge +onlyGivenNames l65_0
        clear_value l65_0
        refine KeepsX.ite (fun _ => ?_) (fun _ => ?_)
        · refine putCodes_keeps
        refine KeepsX.bind ?_ fun _ => ?_
        · refine num_keeps
        refine putRow_keeps
      refine KeepsX.bind ?_ fun _ => ?_
      · exact KeepsX.pure _
      extract_lets -merge +onlyGivenNames l74_0
      subst l74_0
      try dsimp -zeta -zetaHave -zetaUnused -iota -proj only
      refine KeepsX.ite (fun _ => ?_) (fun _ => ?_)
      · refine KeepsX.bind ?_ fun _ => ?_
        · refine rowVals_keeps
        extract_lets -merge +onlyGivenNames l80_0
        clear_value l80_0
        refine KeepsX.ite (fun _ => ?_) (fun _ => ?_)
        · refine putCodes_keeps
        refine KeepsX.bind ?_ fun _ => ?_
        · refine num_keeps
        refine putRow_keeps
      refine KeepsX.bind ?_ fun _ => ?_
      · exact KeepsX.pure _
      extract_lets -merge +onlyGivenNames l89_0
      clear_value l89_0
      refine KeepsX.ite (fun _ => ?_) (fun _ => ?_)
      · refine putCodes_keeps
      refine KeepsX.bind ?_ fun _ => ?_
      · refine num_keeps
      refine putRow_keeps
    refine KeepsX.bind ?_ fun _ => ?_
    · exact KeepsX.pure _
    extract_lets -merge +onlyGivenNames l98_0 l98_1
    clear_value l98_0
    clear_value l98_1
    refine KeepsX.bind ?_ fun _ => ?_
    · refine need_keeps
    refine KeepsX.bind ?_ fun _ => ?_
    · refine need_keeps
    refine KeepsX.bind ?_ fun _ => ?_
    · refine needSpan_keeps
    refine KeepsX.bind ?_ fun _ => ?_
    · refine eachX_keeps ?_
      intro _
      refine needSpan_keeps
    refine KeepsX.bind ?_ fun _ => ?_
    · refine peekX_keeps
    refine eachX_keeps ?_
    intro _
    refine KeepsX.bind ?_ fun _ => ?_
    · refine rowVals_keeps
    extract_lets -merge +onlyGivenNames l117_0
    subst l117_0
    try dsimp -zeta -zetaHave -zetaUnused -iota -proj only
    refine KeepsX.ite (fun _ => ?_) (fun _ => ?_)
    · refine KeepsX.bind ?_ fun _ => ?_
      · refine KeepsX.ite (fun _ => ?_) (fun _ => ?_)
        · exact KeepsX.pure _
        refine rowVals_keeps
      extract_lets -merge +onlyGivenNames l125_0
      subst l125_0
      try dsimp -zeta -zetaHave -zetaUnused -iota -proj only
      refine KeepsX.ite (fun _ => ?_) (fun _ => ?_)
      · refine KeepsX.bind ?_ fun _ => ?_
        · refine rowVals_keeps
        extract_lets -merge +onlyGivenNames l131_0
        clear_value l131_0
        refine KeepsX.ite (fun _ => ?_) (fun _ => ?_)
        · refine putCodes_keeps
        refine KeepsX.bind ?_ fun _ => ?_
        · refine num_keeps
        refine putRow_keeps
      refine KeepsX.bind ?_ fun _ => ?_
      · exact KeepsX.pure _
      extract_lets -merge +onlyGivenNames l140_0
      clear_value l140_0
      refine KeepsX.ite (fun _ => ?_) (fun _ => ?_)
      · refine putCodes_keeps
      refine KeepsX.bind ?_ fun _ => ?_
      · refine num_keeps
      refine putRow_keeps
    refine KeepsX.bind ?_ fun _ => ?_
    · exact KeepsX.pure _
    extract_lets -merge +onlyGivenNames l149_0
    subst l149_0
    try dsimp -zeta -zetaHave -zetaUnused -iota -proj only
    refine KeepsX.ite (fun _ => ?_) (fun _ => ?_)
    · refine KeepsX.bind ?_ fun _ => ?_
      · refine rowVals_keeps
      extract_lets -merge +onlyGivenNames l155_0
      clear_value l155_0
      refine KeepsX.ite (fun _ => ?_) (fun _ => ?_)
      · refine putCodes_keeps
      refine KeepsX.bind ?_ fun _ => ?_
      · refine num_keeps
      refine putRow_keeps
    refine KeepsX.bind ?_ fun _ => ?_
    · exact KeepsX.pure _
    extract_lets -merge +onlyGivenNames l164_0
    clear_value l164_0
    refine KeepsX.ite (fun _ => ?_) (fun _ => ?_)
    · refine putCodes_keeps
    refine KeepsX.bind ?_ fun _ => ?_
    · refine num_keeps
    refine putRow_keeps
  refine KeepsX.bind ?_ fun _ => ?_
  · exact KeepsX.pure _
  extract_lets -merge +onlyGivenNames l173_0
  subst l173_0
  try dsimp -zeta -zetaHave -zetaUnused -iota -proj only
  refine KeepsX.ite (fun _ => ?_) (fun _ => ?_)
  · refine KeepsX.bind ?_ fun _ => ?_
    · refine tdArg_keeps
    extract_lets -merge +onlyGivenNames l179_0 l179_1
    clear_value l179_0
    clear_value l179_1
    refine KeepsX.bind ?_ fun _ => ?_
    · refine need_keeps
    refine KeepsX.bind ?_ fun _ => ?_
    · refine need_keeps
    refine KeepsX.bind ?_ fun _ => ?_
    · refine needSpan_keeps
    refine KeepsX.bind ?_ fun _ => ?_
    · refine eachX_keeps ?_
      intro _
      refine needSpan_keeps
    refine KeepsX.bind ?_ fun _ => ?_
    · refine peekX_keeps
    refine eachX_keeps ?_
    intro _
    refine KeepsX.bind ?_ fun _ => ?_
    · refine rowVals_keeps
    extract_lets -merge +onlyGivenNames l198_0
    subst l198_0
    try dsimp -zeta -zetaHave -zetaUnused -iota -proj only
    refine KeepsX.ite (fun _ => ?_) (fun _ => ?_)
    · refine KeepsX.bind ?_ fun _ => ?_
      · refine KeepsX.ite (fun _ => ?_) (fun _ => ?_)
        · exact KeepsX.pure _
        refine rowVals_keeps
      extract_lets -merge +onlyGivenNames l206_0
      subst l206_0
      try dsimp -zeta -zetaHave -zetaUnused -iota -proj only
      refine KeepsX.ite (fun _ => ?_) (fun _ => ?_)
      · refine KeepsX.bind ?_ fun _ => ?_
        · refine rowVals_keeps
        extract_lets -merge +onlyGivenNames l212_0
        clear_value l212_0
        refine KeepsX.ite (fun _ => ?_) (fun _ => ?_)
        · refine putCodes_keeps
        refine KeepsX.bind ?_ fun _ => ?_
        · refine num_keeps
        refine putRow_keeps
      refine KeepsX.bind ?_ fun _ => ?_
      · exact KeepsX.pure _
      extract_lets -merge +onlyGivenNames l221_0
      clear_value l221_0
      refine KeepsX.ite (fun _ => ?_) (fun _ => ?_)
      · refine putCodes_keeps
      refine KeepsX.bind ?_ fun _ => ?_
      · refine num_keeps
      refine putRow_keeps
    refine KeepsX.bind ?_ fun _ => ?_
    · exact KeepsX.pure _
    extract_lets -merge +onlyGivenNames l230_0
    subst l230_0
    try dsimp -zeta -zetaHave -zetaUnused -iota -proj only
    refine KeepsX.ite (fun _ => ?_) (fun _ => ?_)
    · refine KeepsX.bind ?_ fun _ => ?_
      · refine rowVals_keeps
      extract_lets -merge +onlyGivenNames l236_0
      clear_value l236_0
      refine KeepsX.ite (fun _ => ?_) (fun _ => ?_)
      · refine putCodes_keeps
      refine KeepsX.bind ?_ fun _ => ?_
      · refine num_keeps
      refine putRow_keeps
    refine KeepsX.bind ?_ fun _ => ?_
    · exact KeepsX.pure _
    extract_lets -merge +onlyGivenNames l245_0
    clear_value l245_0
    refine KeepsX.ite (fun _ => ?_) (fun _ => ?_)
    · refine putCodes_keeps
    refine KeepsX.bind ?_ fun _ => ?_
    · refine num_keeps
    refine putRow_keeps
  refine KeepsX.bind ?_ fun _ => ?_
  · exact KeepsX.pure _
  extract_lets -merge +onlyGivenNames l254_0 l254_1
  clear_value l254_0
  clear_value l254_1
  refine KeepsX.bind ?_ fun _ => ?_
  · refine need_keeps
  refine KeepsX.bind ?_ fun _ => ?_
  · refine need_keeps
  refine KeepsX.bind ?_ fun _ => ?_
  · refine needSpan_keeps
  refine KeepsX.bind ?_ fun _ => ?_
  · refine eachX_keeps ?_
    intro _
    refine needSpan_keeps
  refine KeepsX.bind ?_ fun _ => ?_
  · refine peekX_keeps
  refine eachX_keeps ?_
  intro _
  refine KeepsX.bind ?_ fun _ => ?_
  · refine rowVals_keeps
  extract_lets -merge +onlyGivenNames l273_0
  subst l273_0
  try dsimp -zeta -zetaHave -zetaUnused -iota -proj only
  refine KeepsX.ite (fun _ => ?_) (fun _ => ?_)
  · refine KeepsX.bind ?_ fun _ => ?_
    · refine KeepsX.ite (fun _ => ?_) (fun _ => ?_)
      · exact KeepsX.pure _
      refine rowVals_keeps
    extract_lets -merge +onlyGivenNames l281_0
    subst l281_0
    try dsimp -zeta -zetaHave -zetaUnused -iota -proj only
    refine KeepsX.ite (fun _ => ?_) (fun _ => ?_)
    · refine KeepsX.bind ?_ fun _ => ?_
      · refine rowVals_keeps
      extract_lets -merge +onlyGivenNames l287_0
      clear_value l287_0
      refine KeepsX.ite (fun _ => ?_) (fun _ => ?_)
      · refine putCodes_keeps
      refine KeepsX.bind ?_ fun _ => ?_
      · refine num_keeps
      refine putRow_keeps
    refine KeepsX.bind ?_ fun _ => ?_
    · exact KeepsX.pure _
    extract_lets -merge +onlyGivenNames l296_0
    clear_value l296_0
    refine KeepsX.ite (fun _ => ?_) (fun _ => ?_)
    · refine putCodes_keeps
    refine KeepsX.bind ?_ fun _ => ?_
    · refine num_keeps
    refine putRow_keeps
  refine KeepsX.bind ?_ fun _ => ?_
  · exact KeepsX.pure _
  extract_lets -merge +onlyGivenNames l305_0
  subst l305_0
  try dsimp -zeta -zetaHave -zetaUnused -iota -proj only
  refine KeepsX.ite (fun _ => ?_) (fun _ => ?_)
  · refine KeepsX.bind ?_ fun _ => ?_
    · refine rowVals_keeps
    extract_lets -merge +onlyGivenNames l311_0
    clear_value l311_0
    refine KeepsX.ite (fun _ => ?_) (fun _ => ?_)
    · refine putCodes_keeps
    refine KeepsX.bind ?_ fun _ => ?_
    · refine num_keeps
    refine putRow_keeps
  refine KeepsX.bind ?_ fun _ => ?_
  · exact KeepsX.pure _
  extract_lets -merge +onlyGivenNames l320_0
  clear_value l320_0
  refine KeepsX.ite (fun _ => ?_) (fun _ => ?_)
  · refine putCodes_keeps
  refine KeepsX.bind ?_ fun _ => ?_
  · refine num_keeps
  refine putRow_keeps

theorem doVop_keeps {a : State} {x0 s} (h : Keeps a s) : Keeps a (doVop x0 s) := by
  delta doVop
  refine vecIssue_keeps ?_ ?_
  · assumption
  intro _
  refine vopBody_keeps

theorem redI_keeps {a : State} {x0 x1} : KeepsX a (redI x0 x1) := by
  delta redI
  split
  · exact KeepsX.pure _
  · exact KeepsX.pure _
  · exact KeepsX.pure _
  · extract_lets -merge +onlyGivenNames l4_0
    clear_value l4_0
    refine KeepsX.ite (fun _ => ?_) (fun _ => ?_)
    · exact KeepsX.pure _
    refine KeepsX.bind ?_ fun _ => ?_
    · refine freeX_keeps
    exact KeepsX.pure _
  · refine KeepsX.bind ?_ fun _ => ?_
    · refine num_keeps
    refine num_keeps

theorem vredBody_keeps {a : State} {x0 x1} : KeepsX a (vredBody x0 x1) := by
  delta vredBody
  extract_lets -merge +onlyGivenNames l0_0 l0_1
  clear_value l0_0
  clear_value l0_1
  refine KeepsX.bind ?_ fun _ => ?_
  · refine need_keeps
  refine KeepsX.bind ?_ fun _ => ?_
  · refine axisOk_keeps
  refine KeepsX.bind ?_ fun _ => ?_
  · refine tdArg_keeps
  refine KeepsX.bind ?_ fun _ => ?_
  · refine tdArg_keeps
  extract_lets -merge +onlyGivenNames l11_0
  clear_value l11_0
  refine KeepsX.bind ?_ fun _ => ?_
  · refine need_keeps
  refine KeepsX.bind ?_ fun _ => ?_
  · refine need_keeps
  refine KeepsX.bind ?_ fun _ => ?_
  · refine need_keeps
  refine KeepsX.bind ?_ fun _ => ?_
  · refine needSpan_keeps
  refine KeepsX.bind ?_ fun _ => ?_
  · refine needSpan_keeps
  refine KeepsX.bind ?_ fun _ => ?_
  · refine tensorVals_keeps
  refine eachX_keeps ?_
  intro _
  refine KeepsX.bind ?_ fun _ => ?_
  · refine mapX_keeps ?_
    intro _
    extract_lets -merge +onlyGivenNames l30_0
    clear_value l30_0
    refine KeepsX.ite (fun _ => ?_) (fun _ => ?_)
    · refine redI_keeps
    refine num_keeps
  refine KeepsX.ite (fun _ => ?_) (fun _ => ?_)
  · refine putCodes_keeps
  refine putRow_keeps

theorem doVred_keeps {a : State} {x0 s} (h : Keeps a s) : Keeps a (doVred x0 s) := by
  delta doVred
  refine vecIssue_keeps ?_ ?_
  · assumption
  intro _
  refine vredBody_keeps

theorem vsfnBody_keeps {a : State} {x0 x1} : KeepsX a (vsfnBody x0 x1) := by
  delta vsfnBody
  extract_lets -merge +onlyGivenNames l0_0 l0_1
  clear_value l0_0
  clear_value l0_1
  refine KeepsX.bind ?_ fun _ => ?_
  · refine need_keeps
  refine KeepsX.bind ?_ fun _ => ?_
  · refine axisOk_keeps
  refine KeepsX.bind ?_ fun _ => ?_
  · refine tdArg_keeps
  refine KeepsX.bind ?_ fun _ => ?_
  · refine tdArg_keeps
  refine KeepsX.bind ?_ fun _ => ?_
  · refine need_keeps
  refine KeepsX.bind ?_ fun _ => ?_
  · refine need_keeps
  refine KeepsX.bind ?_ fun _ => ?_
  · refine need_keeps
  refine KeepsX.bind ?_ fun _ => ?_
  · refine needSpan_keeps
  refine KeepsX.bind ?_ fun _ => ?_
  · refine needSpan_keeps
  refine KeepsX.ite (fun _ => ?_) (fun _ => ?_)
  · refine eachX_keeps ?_
    intro _
    refine KeepsX.bind ?_ fun _ => ?_
    · refine rowVals_keeps
    refine KeepsX.bind ?_ fun _ => ?_
    · refine num_keeps
    refine putRow_keeps
  refine KeepsX.bind ?_ fun _ => ?_
  · refine tensorVals_keeps
  refine KeepsX.bind ?_ fun _ => ?_
  · refine num_keeps
  refine eachX_keeps ?_
  intro _
  refine putRow_keeps

theorem doVsfn_keeps {a : State} {x0 s} (h : Keeps a s) : Keeps a (doVsfn x0 s) := by
  delta doVsfn
  refine vecIssue_keeps ?_ ?_
  · assumption
  intro _
  refine vsfnBody_keeps

theorem vnormBody_keeps {a : State} {x0 x1} : KeepsX a (vnormBody x0 x1) := by
  delta vnormBody
  extract_lets -merge +onlyGivenNames l0_0 l0_1
  clear_value l0_0
  clear_value l0_1
  refine KeepsX.bind ?_ fun _ => ?_
  · refine need_keeps
  refine KeepsX.bind ?_ fun _ => ?_
  · refine axisOk_keeps
  refine KeepsX.bind ?_ fun _ => ?_
  · refine tdArg_keeps
  refine KeepsX.bind ?_ fun _ => ?_
  · refine tdArg_keeps
  refine KeepsX.bind ?_ fun _ => ?_
  · refine tdArg_keeps
  extract_lets -merge +onlyGivenNames l13_0
  subst l13_0
  try dsimp -zeta -zetaHave -zetaUnused -iota -proj only
  refine KeepsX.ite (fun _ => ?_) (fun _ => ?_)
  · refine KeepsX.bind ?_ fun _ => ?_
    · refine tdArg_keeps
    extract_lets -merge +onlyGivenNames l19_0
    clear_value l19_0
    refine KeepsX.bind ?_ fun _ => ?_
    · refine need_keeps
    refine KeepsX.bind ?_ fun _ => ?_
    · refine need_keeps
    refine KeepsX.bind ?_ fun _ => ?_
    · refine need_keeps
    refine KeepsX.bind ?_ fun _ => ?_
    · refine needSpan_keeps
    refine KeepsX.bind ?_ fun _ => ?_
    · refine eachX_keeps ?_
      intro _
      refine needSpan_keeps
    refine KeepsX.bind ?_ fun _ => ?_
    · refine peekX_keeps
    refine KeepsX.bind ?_ fun _ => ?_
    · refine tensorVals_keeps
    refine KeepsX.bind ?_ fun _ => ?_
    · refine tensorVals_keeps
    extract_lets -merge +onlyGivenNames l39_0
    subst l39_0
    try dsimp -zeta -zetaHave -zetaUnused -iota -proj only
    refine KeepsX.ite (fun _ => ?_) (fun _ => ?_)
    · refine KeepsX.bind ?_ fun _ => ?_
      · refine tensorVals_keeps
      refine KeepsX.bind ?_ fun _ => ?_
      · refine num_keeps
      refine eachX_keeps ?_
      intro _
      refine putRow_keeps
    refine KeepsX.bind ?_ fun _ => ?_
    · exact KeepsX.pure _
    refine KeepsX.bind ?_ fun _ => ?_
    · refine num_keeps
    refine eachX_keeps ?_
    intro _
    refine putRow_keeps
  refine KeepsX.bind ?_ fun _ => ?_
  · exact KeepsX.pure _
  extract_lets -merge +onlyGivenNames l59_0
  clear_value l59_0
  refine KeepsX.bind ?_ fun _ => ?_
  · refine need_keeps
  refine KeepsX.bind ?_ fun _ => ?_
  · refine need_keeps
  refine KeepsX.bind ?_ fun _ => ?_
  · refine need_keeps
  refine KeepsX.bind ?_ fun _ => ?_
  · refine needSpan_keeps
  refine KeepsX.bind ?_ fun _ => ?_
  · refine eachX_keeps ?_
    intro _
    refine needSpan_keeps
  refine KeepsX.bind ?_ fun _ => ?_
  · refine peekX_keeps
  refine KeepsX.bind ?_ fun _ => ?_
  · refine tensorVals_keeps
  refine KeepsX.bind ?_ fun _ => ?_
  · refine tensorVals_keeps
  extract_lets -merge +onlyGivenNames l79_0
  subst l79_0
  try dsimp -zeta -zetaHave -zetaUnused -iota -proj only
  refine KeepsX.ite (fun _ => ?_) (fun _ => ?_)
  · refine KeepsX.bind ?_ fun _ => ?_
    · refine tensorVals_keeps
    refine KeepsX.bind ?_ fun _ => ?_
    · refine num_keeps
    refine eachX_keeps ?_
    intro _
    refine putRow_keeps
  refine KeepsX.bind ?_ fun _ => ?_
  · exact KeepsX.pure _
  refine KeepsX.bind ?_ fun _ => ?_
  · refine num_keeps
  refine eachX_keeps ?_
  intro _
  refine putRow_keeps

theorem doVnorm_keeps {a : State} {x0 s} (h : Keeps a s) : Keeps a (doVnorm x0 s) := by
  delta doVnorm
  refine vecIssue_keeps ?_ ?_
  · assumption
  intro _
  refine vnormBody_keeps

theorem srRetire_keeps {a : State} {x0} : KeepsX a (srRetire x0) := by
  delta srRetire
  refine actX_keeps ?_
  intro _ _
  refine modCore_keeps ?_
  assumption

theorem vcvtBody_keeps {a : State} {x0 x1} : KeepsX a (vcvtBody x0 x1) := by
  delta vcvtBody
  refine KeepsX.bind ?_ fun _ => ?_
  · refine need_keeps
  refine KeepsX.bind ?_ fun _ => ?_
  · refine axisOk_keeps
  refine KeepsX.bind ?_ fun _ => ?_
  · refine tdArg_keeps
  refine KeepsX.bind ?_ fun _ => ?_
  · refine tdArg_keeps
  refine KeepsX.bind ?_ fun _ => ?_
  · refine need_keeps
  refine KeepsX.bind ?_ fun _ => ?_
  · refine need_keeps
  refine KeepsX.bind ?_ fun _ => ?_
  · refine needSpan_keeps
  refine KeepsX.bind ?_ fun _ => ?_
  · refine needSpan_keeps
  refine KeepsX.bind ?_ fun _ => ?_
  · refine peekX_keeps
  extract_lets -merge +onlyGivenNames l18_0 l18_1
  clear_value l18_0
  subst l18_1
  try dsimp -zeta -zetaHave -zetaUnused -iota -proj only
  refine KeepsX.bind ?_ fun _ => ?_
  · refine mapX_keeps ?_
    intro _
    refine KeepsX.bind ?_ fun _ => ?_
    · refine rowVals_keeps
    exact KeepsX.pure _
  refine KeepsX.ite (fun _ => ?_) (fun _ => ?_)
  · refine KeepsX.bind ?_ fun _ => ?_
    · refine need_keeps
    refine KeepsX.bind ?_ fun _ => ?_
    · refine putFresh_keeps
    refine KeepsX.ite (fun _ => ?_) (fun _ => ?_)
    · refine srRetire_keeps
    exact KeepsX.pure _
  refine KeepsX.bind ?_ fun _ => ?_
  · refine eachX_keeps ?_
    intro _
    refine putRow_keeps
  refine KeepsX.ite (fun _ => ?_) (fun _ => ?_)
  · refine srRetire_keeps
  exact KeepsX.pure _

theorem doVcvt_keeps {a : State} {x0 s} (h : Keeps a s) : Keeps a (doVcvt x0 s) := by
  delta doVcvt
  refine vecIssue_keeps ?_ ?_
  · assumption
  intro _
  refine vcvtBody_keeps

theorem vgatherBody_keeps {a : State} {x0 x1} : KeepsX a (vgatherBody x0 x1) := by
  delta vgatherBody
  refine KeepsX.bind ?_ fun _ => ?_
  · refine need_keeps
  refine KeepsX.bind ?_ fun _ => ?_
  · refine axisOk_keeps
  refine KeepsX.bind ?_ fun _ => ?_
  · refine tdArg_keeps
  refine KeepsX.bind ?_ fun _ => ?_
  · refine tdArg_keeps
  refine KeepsX.bind ?_ fun _ => ?_
  · refine tdArg_keeps
  refine KeepsX.bind ?_ fun _ => ?_
  · refine need_keeps
  refine KeepsX.bind ?_ fun _ => ?_
  · refine need_keeps
  refine KeepsX.bind ?_ fun _ => ?_
  · refine needSpan_keeps
  refine KeepsX.bind ?_ fun _ => ?_
  · refine needSpan_keeps
  refine KeepsX.bind ?_ fun _ => ?_
  · refine needSpan_keeps
  refine KeepsX.bind ?_ fun _ => ?_
  · refine rowVals_keeps
  refine KeepsX.bind ?_ fun _ => ?_
  · refine need_keeps
  refine eachX_keeps ?_
  intro _
  refine KeepsX.bind ?_ fun _ => ?_
  · refine spaceRead_keeps
  refine spaceWrite_keeps

theorem doVgather_keeps {a : State} {x0 s} (h : Keeps a s) : Keeps a (doVgather x0 s) := by
  delta doVgather
  refine vecIssue_keeps ?_ ?_
  · assumption
  intro _
  refine vgatherBody_keeps

theorem useSlot_keeps {a : State} {x0 x1} : KeepsX a (useSlot x0 x1) := by
  delta useSlot
  split
  · refine KeepsX.ite (fun _ => ?_) (fun _ => ?_)
    · refine KeepsX.ite (fun _ => ?_) (fun _ => ?_)
      · exact KeepsX.pure _
      refine freeX_keeps
    exact KeepsX.pure _
  · refine KeepsX.ite (fun _ => ?_) (fun _ => ?_)
    · exact KeepsX.pure _
    refine freeX_keeps

theorem nextScale_keeps {a : State} {x0 x1 x2} : KeepsX a (nextScale x0 x1 x2) := by
  delta nextScale
  split
  · split
    · exact KeepsX.pure _
  · exact KeepsX.pure _
  · refine KeepsX.bind ?_ fun _ => ?_
    · refine freeX_keeps
    exact KeepsX.pure _

theorem scaleDelayed_keeps {a : State} {x0 x1 x2 x3} : KeepsX a (scaleDelayed x0 x1 x2 x3) := by
  delta scaleDelayed
  refine KeepsX.bind ?_ fun _ => ?_
  · refine spRead_keeps
  refine KeepsX.bind ?_ fun _ => ?_
  · refine need_keeps
  refine KeepsX.bind ?_ fun _ => ?_
  · refine useSlot_keeps
  extract_lets -merge +onlyGivenNames l6_0 l6_1 l6_2 l6_3 l6_4 l6_5 l6_6 l6_7 l6_8
  clear_value l6_0
  clear_value l6_1
  clear_value l6_2
  clear_value l6_3
  clear_value l6_4
  clear_value l6_5
  clear_value l6_6
  clear_value l6_7
  subst l6_8
  try dsimp -zeta -zetaHave -zetaUnused -iota -proj only
  refine KeepsX.bind ?_ fun _ => ?_
  · refine putRecords_keeps
  refine KeepsX.bind ?_ fun _ => ?_
  · refine eachX_keeps ?_
    intro _
    refine KeepsX.ite (fun _ => ?_) (fun _ => ?_)
    · refine num_keeps
    exact KeepsX.pure _
  refine KeepsX.ite (fun _ => ?_) (fun _ => ?_)
  · refine KeepsX.bind ?_ fun _ => ?_
    · exact KeepsX.pure _
    refine KeepsX.bind ?_ fun _ => ?_
    · refine num_keeps
    refine spWrite_keeps
  refine KeepsX.bind ?_ fun _ => ?_
  · refine nextScale_keeps
  refine KeepsX.bind ?_ fun _ => ?_
  · refine num_keeps
  refine spWrite_keeps

theorem scaleBody_keeps {a : State} {x0 x1} : KeepsX a (scaleBody x0 x1) := by
  delta scaleBody
  refine KeepsX.bind ?_ fun _ => ?_
  · refine tdArg_keeps
  refine KeepsX.bind ?_ fun _ => ?_
  · refine tdArg_keeps
  refine KeepsX.bind ?_ fun _ => ?_
  · refine need_keeps
  refine KeepsX.bind ?_ fun _ => ?_
  · refine needSpan_keeps
  refine KeepsX.bind ?_ fun _ => ?_
  · refine need_keeps
  refine KeepsX.bind ?_ fun _ => ?_
  · refine peekX_keeps
  extract_lets -merge +onlyGivenNames l12_0
  subst l12_0
  try dsimp -zeta -zetaHave -zetaUnused -iota -proj only
  refine KeepsX.ite (fun _ => ?_) (fun _ => ?_)
  · refine KeepsX.bind ?_ fun _ => ?_
    · refine need_keeps
    refine KeepsX.bind ?_ fun _ => ?_
    · refine need_keeps
    refine KeepsX.bind ?_ fun _ => ?_
    · refine mapX_keeps ?_
      intro _
      refine KeepsX.bind ?_ fun _ => ?_
      · refine rowVals_keeps
      exact KeepsX.pure _
    refine KeepsX.ite (fun _ => ?_) (fun _ => ?_)
    · refine scaleDelayed_keeps
    extract_lets -merge +onlyGivenNames l28_0
    clear_value l28_0
    refine KeepsX.bind ?_ fun _ => ?_
    · refine putRecords_keeps
    refine eachX_keeps ?_
    intro _
    refine KeepsX.ite (fun _ => ?_) (fun _ => ?_)
    · refine num_keeps
    exact KeepsX.pure _
  refine KeepsX.bind ?_ fun _ => ?_
  · refine mapX_keeps ?_
    intro _
    refine KeepsX.bind ?_ fun _ => ?_
    · refine rowVals_keeps
    exact KeepsX.pure _
  refine KeepsX.ite (fun _ => ?_) (fun _ => ?_)
  · refine scaleDelayed_keeps
  extract_lets -merge +onlyGivenNames l45_0
  clear_value l45_0
  refine KeepsX.bind ?_ fun _ => ?_
  · refine putRecords_keeps
  refine eachX_keeps ?_
  intro _
  refine KeepsX.ite (fun _ => ?_) (fun _ => ?_)
  · refine num_keeps
  exact KeepsX.pure _

theorem doScale_keeps {a : State} {x0 s} (h : Keeps a s) : Keeps a (doScale x0 s) := by
  delta doScale
  refine issue_keeps ?_ ?_
  · assumption
  intro _ _ _
  extract_lets -merge +onlyGivenNames l3_0 l3_1 l3_2 l3_3
  clear_value l3_0
  clear_value l3_1
  clear_value l3_2
  clear_value l3_3
  refine Keeps.ite (fun _ => ?_) (fun _ => ?_)
  · assumption
  refine runX_keeps ?_ ?_ ?_
  · assumption
  · refine scaleBody_keeps
  intro _ _
  refine nextPc_keeps ?_
  assumption

theorem tapWord_keeps {a : State} {x0 x1 x2 x3 x4 x5 x6 x7} : KeepsX a (tapWord x0 x1 x2 x3 x4 x5 x6 x7) := by
  delta tapWord
  refine KeepsX.bind ?_ fun _ => ?_
  · refine tapVal_keeps
  extract_lets -merge +onlyGivenNames l2_0 l2_1
  clear_value l2_0
  subst l2_1
  try dsimp -zeta -zetaHave -zetaUnused -iota -proj only
  split
  · refine num_keeps
  · refine KeepsX.ite (fun _ => ?_) (fun _ => ?_)
    · refine KeepsX.bind ?_ fun _ => ?_
      · exact KeepsX.pure _
      refine num_keeps
    refine KeepsX.bind ?_ fun _ => ?_
    · refine tapScale_keeps
    refine num_keeps

theorem windowArgs_keeps {a : State} {x0 x1} : KeepsX a (windowArgs x0 x1) := by
  delta windowArgs
  refine KeepsX.bind ?_ fun _ => ?_
  · refine tdArg_keeps
  refine KeepsX.bind ?_ fun _ => ?_
  · refine tdArg_keeps
  refine KeepsX.bind ?_ fun _ => ?_
  · refine need_keeps
  exact KeepsX.pure _

theorem poolBody_keeps {a : State} {x0 x1} : KeepsX a (poolBody x0 x1) := by
  delta poolBody
  extract_lets -merge +onlyGivenNames l0_0
  clear_value l0_0
  refine KeepsX.bind ?_ fun _ => ?_
  · refine need_keeps
  refine KeepsX.bind ?_ fun _ => ?_
  · refine seamsFor_keeps
  refine KeepsX.bind ?_ fun _ => ?_
  · refine windowArgs_keeps
  split
  · refine KeepsX.bind ?_ fun _ => ?_
    · refine need_keeps
    refine KeepsX.bind ?_ fun _ => ?_
    · refine winShape_keeps
    refine KeepsX.bind ?_ fun _ => ?_
    · refine needSpan_keeps
    refine KeepsX.bind ?_ fun _ => ?_
    · refine needSpan_keeps
    refine KeepsX.bind ?_ fun _ => ?_
    · refine peekX_keeps
    refine eachX_keeps ?_
    intro _
    extract_lets -merge +onlyGivenNames l21_0 l21_1 l21_2 l21_3
    clear_value l21_0
    clear_value l21_1
    clear_value l21_2
    subst l21_3
    try dsimp -zeta -zetaHave -zetaUnused -iota -proj only
    refine KeepsX.ite (fun _ => ?_) (fun _ => ?_)
    · refine KeepsX.bind ?_ fun _ => ?_
      · refine rowVals_keeps
      refine KeepsX.bind ?_ fun _ => ?_
      · refine mapX_keeps ?_
        intro _
        refine KeepsX.bind ?_ fun _ => ?_
        · refine mapX_keeps ?_
          intro _
          refine KeepsX.bind ?_ fun _ => ?_
          · refine tapWord_keeps
          exact KeepsX.pure _
        refine KeepsX.bind ?_ fun _ => ?_
        · refine num_keeps
        refine KeepsX.ite (fun _ => ?_) (fun _ => ?_)
        · refine num_keeps
        exact KeepsX.pure _
      refine putRow_keeps
    refine KeepsX.bind ?_ fun _ => ?_
    · exact KeepsX.pure _
    refine KeepsX.bind ?_ fun _ => ?_
    · refine mapX_keeps ?_
      intro _
      refine KeepsX.bind ?_ fun _ => ?_
      · refine mapX_keeps ?_
        intro _
        refine KeepsX.bind ?_ fun _ => ?_
        · refine tapWord_keeps
        exact KeepsX.pure _
      refine KeepsX.bind ?_ fun _ => ?_
      · refine num_keeps
      refine KeepsX.ite (fun _ => ?_) (fun _ => ?_)
      · refine num_keeps
      exact KeepsX.pure _
    refine putRow_keeps

theorem doPool_keeps {a : State} {x0 s} (h : Keeps a s) : Keeps a (doPool x0 s) := by
  delta doPool
  refine vecIssue_keeps ?_ ?_
  · assumption
  intro _
  refine poolBody_keeps

theorem vdwBody_keeps {a : State} {x0 x1} : KeepsX a (vdwBody x0 x1) := by
  delta vdwBody
  extract_lets -merge +onlyGivenNames l0_0
  clear_value l0_0
  refine KeepsX.bind ?_ fun _ => ?_
  · refine need_keeps
  refine KeepsX.bind ?_ fun _ => ?_
  · refine seamsFor_keeps
  refine KeepsX.bind ?_ fun _ => ?_
  · refine windowArgs_keeps
  split
  · refine KeepsX.bind ?_ fun _ => ?_
    · refine tdArg_keeps
    refine KeepsX.bind ?_ fun _ => ?_
    · refine need_keeps
    extract_lets -merge +onlyGivenNames l13_0
    subst l13_0
    try dsimp -zeta -zetaHave -zetaUnused -iota -proj only
    refine KeepsX.ite (fun _ => ?_) (fun _ => ?_)
    · refine KeepsX.bind ?_ fun _ => ?_
      · refine tdArg_keeps
      refine KeepsX.bind ?_ fun _ => ?_
      · refine need_keeps
      refine KeepsX.bind ?_ fun _ => ?_
      · refine need_keeps
      refine KeepsX.bind ?_ fun _ => ?_
      · refine winShape_keeps
      refine KeepsX.bind ?_ fun _ => ?_
      · refine needSpan_keeps
      refine KeepsX.bind ?_ fun _ => ?_
      · refine needSpan_keeps
      refine KeepsX.bind ?_ fun _ => ?_
      · refine needSpan_keeps
      extract_lets -merge +onlyGivenNames l31_0
      subst l31_0
      try dsimp -zeta -zetaHave -zetaUnused -iota -proj only
      refine KeepsX.ite (fun _ => ?_) (fun _ => ?_)
      · refine KeepsX.bind ?_ fun _ => ?_
        · refine needSpan_keeps
        refine KeepsX.bind ?_ fun _ => ?_
        · refine peekX_keeps
        refine KeepsX.bind ?_ fun _ => ?_
        · refine tensorVals_keeps
        extract_lets -merge +onlyGivenNames l41_0
        subst l41_0
        try dsimp -zeta -zetaHave -zetaUnused -iota -proj only
        refine KeepsX.ite (fun _ => ?_) (fun _ => ?_)
        · refine KeepsX.bind ?_ fun _ => ?_
          · refine rowVals_keeps
          refine eachX_keeps ?_
          intro _
          extract_lets -merge +onlyGivenNames l49_0 l49_1 l49_2 l49_3
          clear_value l49_0
          clear_value l49_1
          clear_value l49_2
          subst l49_3
          try dsimp -zeta -zetaHave -zetaUnused -iota -proj only
          refine KeepsX.ite (fun _ => ?_) (fun _ => ?_)
          · refine KeepsX.bind ?_ fun _ => ?_
            · refine rowVals_keeps
            refine KeepsX.bind ?_ fun _ => ?_
            · refine mapX_keeps ?_
              intro _
              refine KeepsX.bind ?_ fun _ => ?_
              · refine mapX_keeps ?_
                intro _
                refine KeepsX.bind ?_ fun _ => ?_
                · refine tapWord_keeps
                refine num_keeps
              refine KeepsX.bind ?_ fun _ => ?_
              · refine num_keeps
              extract_lets -merge +onlyGivenNames l69_0
              subst l69_0
              try dsimp -zeta -zetaHave -zetaUnused -iota -proj only
              refine KeepsX.ite (fun _ => ?_) (fun _ => ?_)
              · refine KeepsX.bind ?_ fun _ => ?_
                · refine num_keeps
                refine KeepsX.ite (fun _ => ?_) (fun _ => ?_)
                · refine num_keeps
                exact KeepsX.pure _
              refine KeepsX.bind ?_ fun _ => ?_
              · exact KeepsX.pure _
              refine KeepsX.ite (fun _ => ?_) (fun _ => ?_)
              · refine num_keeps
              exact KeepsX.pure _
            refine putRow_keeps
          refine KeepsX.bind ?_ fun _ => ?_
          · exact KeepsX.pure _
          refine KeepsX.bind ?_ fun _ => ?_
          · refine mapX_keeps ?_
            intro _
            refine KeepsX.bind ?_ fun _ => ?_
            · refine mapX_keeps ?_
              intro _
              refine KeepsX.bind ?_ fun _ => ?_
              · refine tapWord_keeps
              refine num_keeps
            refine KeepsX.bind ?_ fun _ => ?_
            · refine num_keeps
            extract_lets -merge +onlyGivenNames l97_0
            subst l97_0
            try dsimp -zeta -zetaHave -zetaUnused -iota -proj only
            refine KeepsX.ite (fun _ => ?_) (fun _ => ?_)
            · refine KeepsX.bind ?_ fun _ => ?_
              · refine num_keeps
              refine KeepsX.ite (fun _ => ?_) (fun _ => ?_)
              · refine num_keeps
              exact KeepsX.pure _
            refine KeepsX.bind ?_ fun _ => ?_
            · exact KeepsX.pure _
            refine KeepsX.ite (fun _ => ?_) (fun _ => ?_)
            · refine num_keeps
            exact KeepsX.pure _
          refine putRow_keeps
        refine KeepsX.bind ?_ fun _ => ?_
        · exact KeepsX.pure _
        refine eachX_keeps ?_
        intro _
        extract_lets -merge +onlyGivenNames l116_0 l116_1 l116_2 l116_3
        clear_value l116_0
        clear_value l116_1
        clear_value l116_2
        subst l116_3
        try dsimp -zeta -zetaHave -zetaUnused -iota -proj only
        refine KeepsX.ite (fun _ => ?_) (fun _ => ?_)
        · refine KeepsX.bind ?_ fun _ => ?_
          · refine rowVals_keeps
          refine KeepsX.bind ?_ fun _ => ?_
          · refine mapX_keeps ?_
            intro _
            refine KeepsX.bind ?_ fun _ => ?_
            · refine mapX_keeps ?_
              intro _
              refine KeepsX.bind ?_ fun _ => ?_
              · refine tapWord_keeps
              refine num_keeps
            refine KeepsX.bind ?_ fun _ => ?_
            · refine num_keeps
            extract_lets -merge +onlyGivenNames l136_0
            subst l136_0
            try dsimp -zeta -zetaHave -zetaUnused -iota -proj only
            refine KeepsX.ite (fun _ => ?_) (fun _ => ?_)
            · refine KeepsX.bind ?_ fun _ => ?_
              · refine num_keeps
              refine KeepsX.ite (fun _ => ?_) (fun _ => ?_)
              · refine num_keeps
              exact KeepsX.pure _
            refine KeepsX.bind ?_ fun _ => ?_
            · exact KeepsX.pure _
            refine KeepsX.ite (fun _ => ?_) (fun _ => ?_)
            · refine num_keeps
            exact KeepsX.pure _
          refine putRow_keeps
        refine KeepsX.bind ?_ fun _ => ?_
        · exact KeepsX.pure _
        refine KeepsX.bind ?_ fun _ => ?_
        · refine mapX_keeps ?_
          intro _
          refine KeepsX.bind ?_ fun _ => ?_
          · refine mapX_keeps ?_
            intro _
            refine KeepsX.bind ?_ fun _ => ?_
            · refine tapWord_keeps
            refine num_keeps
          refine KeepsX.bind ?_ fun _ => ?_
          · refine num_keeps
          extract_lets -merge +onlyGivenNames l164_0
          subst l164_0
          try dsimp -zeta -zetaHave -zetaUnused -iota -proj only
          refine KeepsX.ite (fun _ => ?_) (fun _ => ?_)
          · refine KeepsX.bind ?_ fun _ => ?_
            · refine num_keeps
            refine KeepsX.ite (fun _ => ?_) (fun _ => ?_)
            · refine num_keeps
            exact KeepsX.pure _
          refine KeepsX.bind ?_ fun _ => ?_
          · exact KeepsX.pure _
          refine KeepsX.ite (fun _ => ?_) (fun _ => ?_)
          · refine num_keeps
          exact KeepsX.pure _
        refine putRow_keeps
      refine KeepsX.bind ?_ fun _ => ?_
      · refine peekX_keeps
      refine KeepsX.bind ?_ fun _ => ?_
      · refine tensorVals_keeps
      extract_lets -merge +onlyGivenNames l183_0
      subst l183_0
      try dsimp -zeta -zetaHave -zetaUnused -iota -proj only
      refine KeepsX.ite (fun _ => ?_) (fun _ => ?_)
      · refine KeepsX.bind ?_ fun _ => ?_
        · refine rowVals_keeps
        refine eachX_keeps ?_
        intro _
        extract_lets -merge +onlyGivenNames l191_0 l191_1 l191_2 l191_3
        clear_value l191_0
        clear_value l191_1
        clear_value l191_2
        subst l191_3
        try dsimp -zeta -zetaHave -zetaUnused -iota -proj only
        refine KeepsX.ite (fun _ => ?_) (fun _ => ?_)
        · refine KeepsX.bind ?_ fun _ => ?_
          · refine rowVals_keeps
          refine KeepsX.bind ?_ fun _ => ?_
          · refine mapX_keeps ?_
            intro _
            refine KeepsX.bind ?_ fun _ => ?_
            · refine mapX_keeps ?_
              intro _
              refine KeepsX.bind ?_ fun _ => ?_
              · refine tapWord_keeps
              refine num_keeps
            refine KeepsX.bind ?_ fun _ => ?_
            · refine num_keeps
            extract_lets -merge +onlyGivenNames l211_0
            subst l211_0
            try dsimp -zeta -zetaHave -zetaUnused -iota -proj only
            refine KeepsX.ite (fun _ => ?_) (fun _ => ?_)
            · refine KeepsX.bind ?_ fun _ => ?_
              · refine num_keeps
              refine KeepsX.ite (fun _ => ?_) (fun _ => ?_)
              · refine num_keeps
              exact KeepsX.pure _
            refine KeepsX.bind ?_ fun _ => ?_
            · exact KeepsX.pure _
            refine KeepsX.ite (fun _ => ?_) (fun _ => ?_)
            · refine num_keeps
            exact KeepsX.pure _
          refine putRow_keeps
        refine KeepsX.bind ?_ fun _ => ?_
        · exact KeepsX.pure _
        refine KeepsX.bind ?_ fun _ => ?_
        · refine mapX_keeps ?_
          intro _
          refine KeepsX.bind ?_ fun _ => ?_
          · refine mapX_keeps ?_
            intro _
            refine KeepsX.bind ?_ fun _ => ?_
            · refine tapWord_keeps
            refine num_keeps
          refine KeepsX.bind ?_ fun _ => ?_
          · refine num_keeps
          extract_lets -merge +onlyGivenNames l239_0
          subst l239_0
          try dsimp -zeta -zetaHave -zetaUnused -iota -proj only
          refine KeepsX.ite (fun _ => ?_) (fun _ => ?_)
          · refine KeepsX.bind ?_ fun _ => ?_
            · refine num_keeps
            refine KeepsX.ite (fun _ => ?_) (fun _ => ?_)
            · refine num_keeps
            exact KeepsX.pure _
          refine KeepsX.bind ?_ fun _ => ?_
          · exact KeepsX.pure _
          refine KeepsX.ite (fun _ => ?_) (fun _ => ?_)
          · refine num_keeps
          exact KeepsX.pure _
        refine putRow_keeps
      refine KeepsX.bind ?_ fun _ => ?_
      · exact KeepsX.pure _
      refine eachX_keeps ?_
      intro _
      extract_lets -merge +onlyGivenNames l258_0 l258_1 l258_2 l258_3
      clear_value l258_0
      clear_value l258_1
      clear_value l258_2
      subst l258_3
      try dsimp -zeta -zetaHave -zetaUnused -iota -proj only
      refine KeepsX.ite (fun _ => ?_) (fun _ => ?_)
      · refine KeepsX.bind ?_ fun _ => ?_
        · refine rowVals_keeps
        refine KeepsX.bind ?_ fun _ => ?_
        · refine mapX_keeps ?_
          intro _
          refine KeepsX.bind ?_ fun _ => ?_
          · refine mapX_keeps ?_
            intro _
            refine KeepsX.bind ?_ fun _ => ?_
            · refine tapWord_keeps
            refine num_keeps
          refine KeepsX.bind ?_ fun _ => ?_
          · refine num_keeps
          extract_lets -merge +onlyGivenNames l278_0
          subst l278_0
          try dsimp -zeta -zetaHave -zetaUnused -iota -proj only
          refine KeepsX.ite (fun _ => ?_) (fun _ => ?_)
          · refine KeepsX.bind ?_ fun _ => ?_
            · refine num_keeps
            refine KeepsX.ite (fun _ => ?_) (fun _ => ?_)
            · refine num_keeps
            exact KeepsX.pure _
          refine KeepsX.bind ?_ fun _ => ?_
          · exact KeepsX.pure _
          refine KeepsX.ite (fun _ => ?_) (fun _ => ?_)
          · refine num_keeps
          exact KeepsX.pure _
        refine putRow_keeps
      refine KeepsX.bind ?_ fun _ => ?_
      · exact KeepsX.pure _
      refine KeepsX.bind ?_ fun _ => ?_
      · refine mapX_keeps ?_
        intro _
        refine KeepsX.bind ?_ fun _ => ?_
        · refine mapX_keeps ?_
          intro _
          refine KeepsX.bind ?_ fun _ => ?_
          · refine tapWord_keeps
          refine num_keeps
        refine KeepsX.bind ?_ fun _ => ?_
        · refine num_keeps
        extract_lets -merge +onlyGivenNames l306_0
        subst l306_0
        try dsimp -zeta -zetaHave -zetaUnused -iota -proj only
        refine KeepsX.ite (fun _ => ?_) (fun _ => ?_)
        · refine KeepsX.bind ?_ fun _ => ?_
          · refine num_keeps
          refine KeepsX.ite (fun _ => ?_) (fun _ => ?_)
          · refine num_keeps
          exact KeepsX.pure _
        refine KeepsX.bind ?_ fun _ => ?_
        · exact KeepsX.pure _
        refine KeepsX.ite (fun _ => ?_) (fun _ => ?_)
        · refine num_keeps
        exact KeepsX.pure _
      refine putRow_keeps
    refine KeepsX.bind ?_ fun _ => ?_
    · exact KeepsX.pure _
    refine KeepsX.bind ?_ fun _ => ?_
    · refine need_keeps
    refine KeepsX.bind ?_ fun _ => ?_
    · refine need_keeps
    refine KeepsX.bind ?_ fun _ => ?_
    · refine winShape_keeps
    refine KeepsX.bind ?_ fun _ => ?_
    · refine needSpan_keeps
    refine KeepsX.bind ?_ fun _ => ?_
    · refine needSpan_keeps
    refine KeepsX.bind ?_ fun _ => ?_
    · refine needSpan_keeps
    extract_lets -merge +onlyGivenNames l335_0
    subst l335_0
    try dsimp -zeta -zetaHave -zetaUnused -iota -proj only
    refine KeepsX.ite (fun _ => ?_) (fun _ => ?_)
    · refine KeepsX.bind ?_ fun _ => ?_
      · refine needSpan_keeps
      refine KeepsX.bind ?_ fun _ => ?_
      · refine peekX_keeps
      refine KeepsX.bind ?_ fun _ => ?_
      · refine tensorVals_keeps
      extract_lets -merge +onlyGivenNames l345_0
      subst l345_0
      try dsimp -zeta -zetaHave -zetaUnused -iota -proj only
      refine KeepsX.ite (fun _ => ?_) (fun _ => ?_)
      · refine KeepsX.bind ?_ fun _ => ?_
        · refine rowVals_keeps
        refine eachX_keeps ?_
        intro _
        extract_lets -merge +onlyGivenNames l353_0 l353_1 l353_2 l353_3
        clear_value l353_0
        clear_value l353_1
        clear_value l353_2
        subst l353_3
        try dsimp -zeta -zetaHave -zetaUnused -iota -proj only
        refine KeepsX.ite (fun _ => ?_) (fun _ => ?_)
        · refine KeepsX.bind ?_ fun _ => ?_
          · refine rowVals_keeps
          refine KeepsX.bind ?_ fun _ => ?_
          · refine mapX_keeps ?_
            intro _
            refine KeepsX.bind ?_ fun _ => ?_
            · refine mapX_keeps ?_
              intro _
              refine KeepsX.bind ?_ fun _ => ?_
              · refine tapWord_keeps
              refine num_keeps
            refine KeepsX.bind ?_ fun _ => ?_
            · refine num_keeps
            extract_lets -merge +onlyGivenNames l373_0
            subst l373_0
            try dsimp -zeta -zetaHave -zetaUnused -iota -proj only
            refine KeepsX.ite (fun _ => ?_) (fun _ => ?_)
            · refine KeepsX.bind ?_ fun _ => ?_
              · refine num_keeps
              refine KeepsX.ite (fun _ => ?_) (fun _ => ?_)
              · refine num_keeps
              exact KeepsX.pure _
            refine KeepsX.bind ?_ fun _ => ?_
            · exact KeepsX.pure _
            refine KeepsX.ite (fun _ => ?_) (fun _ => ?_)
            · refine num_keeps
            exact KeepsX.pure _
          refine putRow_keeps
        refine KeepsX.bind ?_ fun _ => ?_
        · exact KeepsX.pure _
        refine KeepsX.bind ?_ fun _ => ?_
        · refine mapX_keeps ?_
          intro _
          refine KeepsX.bind ?_ fun _ => ?_
          · refine mapX_keeps ?_
            intro _
            refine KeepsX.bind ?_ fun _ => ?_
            · refine tapWord_keeps
            refine num_keeps
          refine KeepsX.bind ?_ fun _ => ?_
          · refine num_keeps
          extract_lets -merge +onlyGivenNames l401_0
          subst l401_0
          try dsimp -zeta -zetaHave -zetaUnused -iota -proj only
          refine KeepsX.ite (fun _ => ?_) (fun _ => ?_)
          · refine KeepsX.bind ?_ fun _ => ?_
            · refine num_keeps
            refine KeepsX.ite (fun _ => ?_) (fun _ => ?_)
            · refine num_keeps
            exact KeepsX.pure _
          refine KeepsX.bind ?_ fun _ => ?_
          · exact KeepsX.pure _
          refine KeepsX.ite (fun _ => ?_) (fun _ => ?_)
          · refine num_keeps
          exact KeepsX.pure _
        refine putRow_keeps
      refine KeepsX.bind ?_ fun _ => ?_
      · exact KeepsX.pure _
      refine eachX_keeps ?_
      intro _
      extract_lets -merge +onlyGivenNames l420_0 l420_1 l420_2 l420_3
      clear_value l420_0
      clear_value l420_1
      clear_value l420_2
      subst l420_3
      try dsimp -zeta -zetaHave -zetaUnused -iota -proj only
      refine KeepsX.ite (fun _ => ?_) (fun _ => ?_)
      · refine KeepsX.bind ?_ fun _ => ?_
        · refine rowVals_keeps
        refine KeepsX.bind ?_ fun _ => ?_
        · refine mapX_keeps ?_
          intro _
          refine KeepsX.bind ?_ fun _ => ?_
          · refine mapX_keeps ?_
            intro _
            refine KeepsX.bind ?_ fun _ => ?_
            · refine tapWord_keeps
            refine num_keeps
          refine KeepsX.bind ?_ fun _ => ?_
          · refine num_keeps
          extract_lets -merge +onlyGivenNames l440_0
          subst l440_0
          try dsimp -zeta -zetaHave -zetaUnused -iota -proj only
          refine KeepsX.ite (fun _ => ?_) (fun _ => ?_)
          · refine KeepsX.bind ?_ fun _ => ?_
            · refine num_keeps
            refine KeepsX.ite (fun _ => ?_) (fun _ => ?_)
            · refine num_keeps
            exact KeepsX.pure _
          refine KeepsX.bind ?_ fun _ => ?_
          · exact KeepsX.pure _
          refine KeepsX.ite (fun _ => ?_) (fun _ => ?_)
          · refine num_keeps
          exact KeepsX.pure _
        refine putRow_keeps
      refine KeepsX.bind ?_ fun _ => ?_
      · exact KeepsX.pure _
      refine KeepsX.bind ?_ fun _ => ?_
      · refine mapX_keeps ?_
        intro _
        refine KeepsX.bind ?_ fun _ => ?_
        · refine mapX_keeps ?_
          intro _
          refine KeepsX.bind ?_ fun _ => ?_
          · refine tapWord_keeps
          refine num_keeps
        refine KeepsX.bind ?_ fun _ => ?_
        · refine num_keeps
        extract_lets -merge +onlyGivenNames l468_0
        subst l468_0
        try dsimp -zeta -zetaHave -zetaUnused -iota -proj only
        refine KeepsX.ite (fun _ => ?_) (fun _ => ?_)
        · refine KeepsX.bind ?_ fun _ => ?_
          · refine num_keeps
          refine KeepsX.ite (fun _ => ?_) (fun _ => ?_)
          · refine num_keeps
          exact KeepsX.pure _
        refine KeepsX.bind ?_ fun _ => ?_
        · exact KeepsX.pure _
        refine KeepsX.ite (fun _ => ?_) (fun _ => ?_)
        · refine num_keeps
        exact KeepsX.pure _
      refine putRow_keeps
    refine KeepsX.bind ?_ fun _ => ?_
    · refine peekX_keeps
    refine KeepsX.bind ?_ fun _ => ?_
    · refine tensorVals_keeps
    extract_lets -merge +onlyGivenNames l487_0
    subst l487_0
    try dsimp -zeta -zetaHave -zetaUnused -iota -proj only
    refine KeepsX.ite (fun _ => ?_) (fun _ => ?_)
    · refine KeepsX.bind ?_ fun _ => ?_
      · refine rowVals_keeps
      refine eachX_keeps ?_
      intro _
      extract_lets -merge +onlyGivenNames l495_0 l495_1 l495_2 l495_3
      clear_value l495_0
      clear_value l495_1
      clear_value l495_2
      subst l495_3
      try dsimp -zeta -zetaHave -zetaUnused -iota -proj only
      refine KeepsX.ite (fun _ => ?_) (fun _ => ?_)
      · refine KeepsX.bind ?_ fun _ => ?_
        · refine rowVals_keeps
        refine KeepsX.bind ?_ fun _ => ?_
        · refine mapX_keeps ?_
          intro _
          refine KeepsX.bind ?_ fun _ => ?_
          · refine mapX_keeps ?_
            intro _
            refine KeepsX.bind ?_ fun _ => ?_
            · refine tapWord_keeps
            refine num_keeps
          refine KeepsX.bind ?_ fun _ => ?_
          · refine num_keeps
          extract_lets -merge +onlyGivenNames l515_0
          subst l515_0
          try dsimp -zeta -zetaHave -zetaUnused -iota -proj only
          refine KeepsX.ite (fun _ => ?_) (fun _ => ?_)
          · refine KeepsX.bind ?_ fun _ => ?_
            · refine num_keeps
            refine KeepsX.ite (fun _ => ?_) (fun _ => ?_)
            · refine num_keeps
            exact KeepsX.pure _
          refine KeepsX.bind ?_ fun _ => ?_
          · exact KeepsX.pure _
          refine KeepsX.ite (fun _ => ?_) (fun _ => ?_)
          · refine num_keeps
          exact KeepsX.pure _
        refine putRow_keeps
      refine KeepsX.bind ?_ fun _ => ?_
      · exact KeepsX.pure _
      refine KeepsX.bind ?_ fun _ => ?_
      · refine mapX_keeps ?_
        intro _
        refine KeepsX.bind ?_ fun _ => ?_
        · refine mapX_keeps ?_
          intro _
          refine KeepsX.bind ?_ fun _ => ?_
          · refine tapWord_keeps
          refine num_keeps
        refine KeepsX.bind ?_ fun _ => ?_
        · refine num_keeps
        extract_lets -merge +onlyGivenNames l543_0
        subst l543_0
        try dsimp -zeta -zetaHave -zetaUnused -iota -proj only
        refine KeepsX.ite (fun _ => ?_) (fun _ => ?_)
        · refine KeepsX.bind ?_ fun _ => ?_
          · refine num_keeps
          refine KeepsX.ite (fun _ => ?_) (fun _ => ?_)
          · refine num_keeps
          exact KeepsX.pure _
        refine KeepsX.bind ?_ fun _ => ?_
        · exact KeepsX.pure _
        refine KeepsX.ite (fun _ => ?_) (fun _ => ?_)
        · refine num_keeps
        exact KeepsX.pure _
      refine putRow_keeps
    refine KeepsX.bind ?_ fun _ => ?_
    · exact KeepsX.pure _
    refine eachX_keeps ?_
    intro _
    extract_lets -merge +onlyGivenNames l562_0 l562_1 l562_2 l562_3
    clear_value l562_0
    clear_value l562_1
    clear_value l562_2
    subst l562_3
    try dsimp -zeta -zetaHave -zetaUnused -iota -proj only
    refine KeepsX.ite (fun _ => ?_) (fun _ => ?_)
    · refine KeepsX.bind ?_ fun _ => ?_
      · refine rowVals_keeps
      refine KeepsX.bind ?_ fun _ => ?_
      · refine mapX_keeps ?_
        intro _
        refine KeepsX.bind ?_ fun _ => ?_
        · refine mapX_keeps ?_
          intro _
          refine KeepsX.bind ?_ fun _ => ?_
          · refine tapWord_keeps
          refine num_keeps
        refine KeepsX.bind ?_ fun _ => ?_
        · refine num_keeps
        extract_lets -merge +onlyGivenNames l582_0
        subst l582_0
        try dsimp -zeta -zetaHave -zetaUnused -iota -proj only
        refine KeepsX.ite (fun _ => ?_) (fun _ => ?_)
        · refine KeepsX.bind ?_ fun _ => ?_
          · refine num_keeps
          refine KeepsX.ite (fun _ => ?_) (fun _ => ?_)
          · refine num_keeps
          exact KeepsX.pure _
        refine KeepsX.bind ?_ fun _ => ?_
        · exact KeepsX.pure _
        refine KeepsX.ite (fun _ => ?_) (fun _ => ?_)
        · refine num_keeps
        exact KeepsX.pure _
      refine putRow_keeps
    refine KeepsX.bind ?_ fun _ => ?_
    · exact KeepsX.pure _
    refine KeepsX.bind ?_ fun _ => ?_
    · refine mapX_keeps ?_
      intro _
      refine KeepsX.bind ?_ fun _ => ?_
      · refine mapX_keeps ?_
        intro _
        refine KeepsX.bind ?_ fun _ => ?_
        · refine tapWord_keeps
        refine num_keeps
      refine KeepsX.bind ?_ fun _ => ?_
      · refine num_keeps
      extract_lets -merge +onlyGivenNames l610_0
      subst l610_0
      try dsimp -zeta -zetaHave -zetaUnused -iota -proj only
      refine KeepsX.ite (fun _ => ?_) (fun _ => ?_)
      · refine KeepsX.bind ?_ fun _ => ?_
        · refine num_keeps
        refine KeepsX.ite (fun _ => ?_) (fun _ => ?_)
        · refine num_keeps
        exact KeepsX.pure _
      refine KeepsX.bind ?_ fun _ => ?_
      · exact KeepsX.pure _
      refine KeepsX.ite (fun _ => ?_) (fun _ => ?_)
      · refine num_keeps
      exact KeepsX.pure _
    refine putRow_keeps

theorem doVdw_keeps {a : State} {x0 s} (h : Keeps a s) : Keeps a (doVdw x0 s) := by
  delta doVdw
  refine vecIssue_keeps ?_ ?_
  · assumption
  intro _
  refine vdwBody_keeps

end Sys2Proof.Machine
end

