-- ==== Sys2Proof/Laws/KeepsTraining.lean ====
section
/-!
SUPPORT. Laws/KeepsTraining.lean: the operations of Machine/Training.lean keep what `Keeps` says (Laws/Keeps.lean).
-/
namespace Sys2Proof.Machine

theorem putCoded_keeps {a : State} {x0 x1 x2 x3 x4} : KeepsX a (putCoded x0 x1 x2 x3 x4) := by
  delta putCoded
  extract_lets -merge +onlyGivenNames l0_0 l0_1
  clear_value l0_0
  clear_value l0_1
  refine KeepsX.bind ?_ fun _ => ?_
  · refine putRecords_keeps
  refine eachX_keeps ?_
  intro _
  refine KeepsX.bind ?_ fun _ => ?_
  · refine mapX_keeps ?_
    intro _
    extract_lets -merge +onlyGivenNames l10_0
    subst l10_0
    try dsimp -zeta -zetaHave -zetaUnused -iota -proj only
    refine KeepsX.ite (fun _ => ?_) (fun _ => ?_)
    · refine KeepsX.bind ?_ fun _ => ?_
      · refine num_keeps
      refine num_keeps
    refine num_keeps
  refine putCodes_keeps

theorem putOutput_keeps {a : State} {x0 x1 x2 x3 x4} : KeepsX a (putOutput x0 x1 x2 x3 x4) := by
  delta putOutput
  extract_lets -merge +onlyGivenNames l0_0
  clear_value l0_0
  refine KeepsX.ite (fun _ => ?_) (fun _ => ?_)
  · refine putCoded_keeps
  refine KeepsX.ite (fun _ => ?_) (fun _ => ?_)
  · refine eachX_keeps ?_
    intro _
    refine putRow_keeps
  refine putFresh_keeps

theorem optRows_keeps {a : State} {x0 x1 x2 x3 x4 x5 x6} : KeepsX a (optRows x0 x1 x2 x3 x4 x5 x6) := by
  delta optRows
  refine mapX_keeps ?_
  intro _
  refine KeepsX.bind ?_ fun _ => ?_
  · refine rowVals_keeps
  refine KeepsX.bind ?_ fun _ => ?_
  · refine rowVals_keeps
  refine KeepsX.bind ?_ fun _ => ?_
  · refine rowVals_keeps
  extract_lets -merge +onlyGivenNames l8_0
  subst l8_0
  try dsimp -zeta -zetaHave -zetaUnused -iota -proj only
  refine KeepsX.ite (fun _ => ?_) (fun _ => ?_)
  · refine KeepsX.bind ?_ fun _ => ?_
    · refine rowVals_keeps
    refine KeepsX.bind ?_ fun _ => ?_
    · refine num_keeps
    exact KeepsX.pure _
  refine KeepsX.bind ?_ fun _ => ?_
  · exact KeepsX.pure _
  refine KeepsX.bind ?_ fun _ => ?_
  · refine num_keeps
  exact KeepsX.pure _

theorem voptUpdate_keeps {a : State} {x0 x1 x2 x3} : KeepsX a (voptUpdate x0 x1 x2 x3) := by
  delta voptUpdate
  extract_lets -merge +onlyGivenNames l0_0 l0_1 l0_2 l0_3 l0_4
  subst l0_0
  try dsimp -zeta -zetaHave -zetaUnused -iota -proj only
  clear_value l0_1
  clear_value l0_2
  clear_value l0_3
  subst l0_4
  try dsimp -zeta -zetaHave -zetaUnused -iota -proj only
  refine KeepsX.bind ?_ fun _ => ?_
  · refine tdArg_keeps
  refine KeepsX.bind ?_ fun _ => ?_
  · refine tdArg_keeps
  refine KeepsX.bind ?_ fun _ => ?_
  · refine tdArg_keeps
  extract_lets -merge +onlyGivenNames l14_0
  subst l14_0
  try dsimp -zeta -zetaHave -zetaUnused -iota -proj only
  refine KeepsX.ite (fun _ => ?_) (fun _ => ?_)
  · refine KeepsX.bind ?_ fun _ => ?_
    · refine tdArg_keeps
    refine KeepsX.bind ?_ fun _ => ?_
    · refine need_keeps
    refine KeepsX.bind ?_ fun _ => ?_
    · refine need_keeps
    refine KeepsX.bind ?_ fun _ => ?_
    · refine need_keeps
    refine KeepsX.bind ?_ fun _ => ?_
    · refine needSpan_keeps
    refine KeepsX.bind ?_ fun _ => ?_
    · refine eachX_keeps ?_
      intro _
      refine KeepsX.bind ?_ fun _ => ?_
      · refine needSpan_keeps
      refine need_keeps
    refine KeepsX.bind ?_ fun _ => ?_
    · refine peekX_keeps
    extract_lets -merge +onlyGivenNames l36_0 l36_1 l36_2 l36_3 l36_4 l36_5
    clear_value l36_0
    clear_value l36_1
    clear_value l36_2
    subst l36_3
    try dsimp -zeta -zetaHave -zetaUnused -iota -proj only
    clear_value l36_4
    subst l36_5
    try dsimp -zeta -zetaHave -zetaUnused -iota -proj only
    refine KeepsX.bind ?_ fun _ => ?_
    · refine need_keeps
    refine KeepsX.ite (fun _ => ?_) (fun _ => ?_)
    · refine srRetire_keeps
    refine KeepsX.bind ?_ fun _ => ?_
    · refine need_keeps
    refine KeepsX.ite (fun _ => ?_) (fun _ => ?_)
    · refine KeepsX.bind ?_ fun _ => ?_
      · refine num_keeps
      extract_lets -merge +onlyGivenNames l54_0
      subst l54_0
      try dsimp -zeta -zetaHave -zetaUnused -iota -proj only
      refine KeepsX.ite (fun _ => ?_) (fun _ => ?_)
      · refine KeepsX.bind ?_ fun _ => ?_
        · refine num_keeps
        refine KeepsX.bind ?_ fun _ => ?_
        · refine num_keeps
        refine KeepsX.bind ?_ fun _ => ?_
        · refine optRows_keeps
        extract_lets -merge +onlyGivenNames l64_0 l64_1 l64_2
        clear_value l64_0
        subst l64_1
        try dsimp -zeta -zetaHave -zetaUnused -iota -proj only
        subst l64_2
        try dsimp -zeta -zetaHave -zetaUnused -iota -proj only
        refine KeepsX.bind ?_ fun _ => ?_
        · refine putOutput_keeps
        refine KeepsX.bind ?_ fun _ => ?_
        · refine putOutput_keeps
        refine KeepsX.ite (fun _ => ?_) (fun _ => ?_)
        · refine KeepsX.bind ?_ fun _ => ?_
          · refine putOutput_keeps
          split
          · refine KeepsX.ite (fun _ => ?_) (fun _ => ?_)
            · refine KeepsX.bind ?_ fun _ => ?_
              · refine spWrite_keeps
              refine srRetire_keeps
            refine srRetire_keeps
          · refine KeepsX.bind ?_ fun _ => ?_
            · refine putOutput_keeps
            refine KeepsX.ite (fun _ => ?_) (fun _ => ?_)
            · refine KeepsX.bind ?_ fun _ => ?_
              · refine spWrite_keeps
              refine srRetire_keeps
            refine srRetire_keeps
        split
        · refine KeepsX.ite (fun _ => ?_) (fun _ => ?_)
          · refine KeepsX.bind ?_ fun _ => ?_
            · refine spWrite_keeps
            refine srRetire_keeps
          refine srRetire_keeps
        · refine KeepsX.bind ?_ fun _ => ?_
          · refine putOutput_keeps
          refine KeepsX.ite (fun _ => ?_) (fun _ => ?_)
          · refine KeepsX.bind ?_ fun _ => ?_
            · refine spWrite_keeps
            refine srRetire_keeps
          refine srRetire_keeps
      refine KeepsX.bind ?_ fun _ => ?_
      · exact KeepsX.pure _
      refine KeepsX.bind ?_ fun _ => ?_
      · refine num_keeps
      refine KeepsX.bind ?_ fun _ => ?_
      · refine optRows_keeps
      extract_lets -merge +onlyGivenNames l109_0 l109_1 l109_2
      clear_value l109_0
      subst l109_1
      try dsimp -zeta -zetaHave -zetaUnused -iota -proj only
      subst l109_2
      try dsimp -zeta -zetaHave -zetaUnused -iota -proj only
      refine KeepsX.bind ?_ fun _ => ?_
      · refine putOutput_keeps
      refine KeepsX.bind ?_ fun _ => ?_
      · refine putOutput_keeps
      refine KeepsX.ite (fun _ => ?_) (fun _ => ?_)
      · refine KeepsX.bind ?_ fun _ => ?_
        · refine putOutput_keeps
        split
        · refine KeepsX.ite (fun _ => ?_) (fun _ => ?_)
          · refine KeepsX.bind ?_ fun _ => ?_
            · refine spWrite_keeps
            refine srRetire_keeps
          refine srRetire_keeps
        · refine KeepsX.bind ?_ fun _ => ?_
          · refine putOutput_keeps
          refine KeepsX.ite (fun _ => ?_) (fun _ => ?_)
          · refine KeepsX.bind ?_ fun _ => ?_
            · refine spWrite_keeps
            refine srRetire_keeps
          refine srRetire_keeps
      split
      · refine KeepsX.ite (fun _ => ?_) (fun _ => ?_)
        · refine KeepsX.bind ?_ fun _ => ?_
          · refine spWrite_keeps
          refine srRetire_keeps
        refine srRetire_keeps
      · refine KeepsX.bind ?_ fun _ => ?_
        · refine putOutput_keeps
        refine KeepsX.ite (fun _ => ?_) (fun _ => ?_)
        · refine KeepsX.bind ?_ fun _ => ?_
          · refine spWrite_keeps
          refine srRetire_keeps
        refine srRetire_keeps
    refine KeepsX.bind ?_ fun _ => ?_
    · exact KeepsX.pure _
    extract_lets -merge +onlyGivenNames l150_0
    subst l150_0
    try dsimp -zeta -zetaHave -zetaUnused -iota -proj only
    refine KeepsX.ite (fun _ => ?_) (fun _ => ?_)
    · refine KeepsX.bind ?_ fun _ => ?_
      · refine num_keeps
      refine KeepsX.bind ?_ fun _ => ?_
      · refine num_keeps
      refine KeepsX.bind ?_ fun _ => ?_
      · refine optRows_keeps
      extract_lets -merge +onlyGivenNames l160_0 l160_1 l160_2
      clear_value l160_0
      subst l160_1
      try dsimp -zeta -zetaHave -zetaUnused -iota -proj only
      subst l160_2
      try dsimp -zeta -zetaHave -zetaUnused -iota -proj only
      refine KeepsX.bind ?_ fun _ => ?_
      · refine putOutput_keeps
      refine KeepsX.bind ?_ fun _ => ?_
      · refine putOutput_keeps
      refine KeepsX.ite (fun _ => ?_) (fun _ => ?_)
      · refine KeepsX.bind ?_ fun _ => ?_
        · refine putOutput_keeps
        split
        · refine KeepsX.ite (fun _ => ?_) (fun _ => ?_)
          · refine KeepsX.bind ?_ fun _ => ?_
            · refine spWrite_keeps
            refine srRetire_keeps
          refine srRetire_keeps
        · refine KeepsX.bind ?_ fun _ => ?_
          · refine putOutput_keeps
          refine KeepsX.ite (fun _ => ?_) (fun _ => ?_)
          · refine KeepsX.bind ?_ fun _ => ?_
            · refine spWrite_keeps
            refine srRetire_keeps
          refine srRetire_keeps
      split
      · refine KeepsX.ite (fun _ => ?_) (fun _ => ?_)
        · refine KeepsX.bind ?_ fun _ => ?_
          · refine spWrite_keeps
          refine srRetire_keeps
        refine srRetire_keeps
      · refine KeepsX.bind ?_ fun _ => ?_
        · refine putOutput_keeps
        refine KeepsX.ite (fun _ => ?_) (fun _ => ?_)
        · refine KeepsX.bind ?_ fun _ => ?_
          · refine spWrite_keeps
          refine srRetire_keeps
        refine srRetire_keeps
    refine KeepsX.bind ?_ fun _ => ?_
    · exact KeepsX.pure _
    refine KeepsX.bind ?_ fun _ => ?_
    · refine num_keeps
    refine KeepsX.bind ?_ fun _ => ?_
    · refine optRows_keeps
    extract_lets -merge +onlyGivenNames l205_0 l205_1 l205_2
    clear_value l205_0
    subst l205_1
    try dsimp -zeta -zetaHave -zetaUnused -iota -proj only
    subst l205_2
    try dsimp -zeta -zetaHave -zetaUnused -iota -proj only
    refine KeepsX.bind ?_ fun _ => ?_
    · refine putOutput_keeps
    refine KeepsX.bind ?_ fun _ => ?_
    · refine putOutput_keeps
    refine KeepsX.ite (fun _ => ?_) (fun _ => ?_)
    · refine KeepsX.bind ?_ fun _ => ?_
      · refine putOutput_keeps
      split
      · refine KeepsX.ite (fun _ => ?_) (fun _ => ?_)
        · refine KeepsX.bind ?_ fun _ => ?_
          · refine spWrite_keeps
          refine srRetire_keeps
        refine srRetire_keeps
      · refine KeepsX.bind ?_ fun _ => ?_
        · refine putOutput_keeps
        refine KeepsX.ite (fun _ => ?_) (fun _ => ?_)
        · refine KeepsX.bind ?_ fun _ => ?_
          · refine spWrite_keeps
          refine srRetire_keeps
        refine srRetire_keeps
    split
    · refine KeepsX.ite (fun _ => ?_) (fun _ => ?_)
      · refine KeepsX.bind ?_ fun _ => ?_
        · refine spWrite_keeps
        refine srRetire_keeps
      refine srRetire_keeps
    · refine KeepsX.bind ?_ fun _ => ?_
      · refine putOutput_keeps
      refine KeepsX.ite (fun _ => ?_) (fun _ => ?_)
      · refine KeepsX.bind ?_ fun _ => ?_
        · refine spWrite_keeps
        refine srRetire_keeps
      refine srRetire_keeps
  refine KeepsX.bind ?_ fun _ => ?_
  · exact KeepsX.pure _
  refine KeepsX.bind ?_ fun _ => ?_
  · refine need_keeps
  refine KeepsX.bind ?_ fun _ => ?_
  · refine need_keeps
  refine KeepsX.bind ?_ fun _ => ?_
  · refine need_keeps
  refine KeepsX.bind ?_ fun _ => ?_
  · refine needSpan_keeps
  refine KeepsX.bind ?_ fun _ => ?_
  · refine eachX_keeps ?_
    intro _
    refine KeepsX.bind ?_ fun _ => ?_
    · refine needSpan_keeps
    refine need_keeps
  refine KeepsX.bind ?_ fun _ => ?_
  · refine peekX_keeps
  extract_lets -merge +onlyGivenNames l262_0 l262_1 l262_2 l262_3 l262_4 l262_5
  clear_value l262_0
  clear_value l262_1
  clear_value l262_2
  subst l262_3
  try dsimp -zeta -zetaHave -zetaUnused -iota -proj only
  clear_value l262_4
  subst l262_5
  try dsimp -zeta -zetaHave -zetaUnused -iota -proj only
  refine KeepsX.bind ?_ fun _ => ?_
  · refine need_keeps
  refine KeepsX.ite (fun _ => ?_) (fun _ => ?_)
  · refine srRetire_keeps
  refine KeepsX.bind ?_ fun _ => ?_
  · refine need_keeps
  refine KeepsX.ite (fun _ => ?_) (fun _ => ?_)
  · refine KeepsX.bind ?_ fun _ => ?_
    · refine num_keeps
    extract_lets -merge +onlyGivenNames l280_0
    subst l280_0
    try dsimp -zeta -zetaHave -zetaUnused -iota -proj only
    refine KeepsX.ite (fun _ => ?_) (fun _ => ?_)
    · refine KeepsX.bind ?_ fun _ => ?_
      · refine num_keeps
      refine KeepsX.bind ?_ fun _ => ?_
      · refine num_keeps
      refine KeepsX.bind ?_ fun _ => ?_
      · refine optRows_keeps
      extract_lets -merge +onlyGivenNames l290_0 l290_1 l290_2
      clear_value l290_0
      subst l290_1
      try dsimp -zeta -zetaHave -zetaUnused -iota -proj only
      subst l290_2
      try dsimp -zeta -zetaHave -zetaUnused -iota -proj only
      refine KeepsX.bind ?_ fun _ => ?_
      · refine putOutput_keeps
      refine KeepsX.bind ?_ fun _ => ?_
      · refine putOutput_keeps
      refine KeepsX.ite (fun _ => ?_) (fun _ => ?_)
      · refine KeepsX.bind ?_ fun _ => ?_
        · refine putOutput_keeps
        split
        · refine KeepsX.ite (fun _ => ?_) (fun _ => ?_)
          · refine KeepsX.bind ?_ fun _ => ?_
            · refine spWrite_keeps
            refine srRetire_keeps
          refine srRetire_keeps
        · refine KeepsX.bind ?_ fun _ => ?_
          · refine putOutput_keeps
          refine KeepsX.ite (fun _ => ?_) (fun _ => ?_)
          · refine KeepsX.bind ?_ fun _ => ?_
            · refine spWrite_keeps
            refine srRetire_keeps
          refine srRetire_keeps
      split
      · refine KeepsX.ite (fun _ => ?_) (fun _ => ?_)
        · refine KeepsX.bind ?_ fun _ => ?_
          · refine spWrite_keeps
          refine srRetire_keeps
        refine srRetire_keeps
      · refine KeepsX.bind ?_ fun _ => ?_
        · refine putOutput_keeps
        refine KeepsX.ite (fun _ => ?_) (fun _ => ?_)
        · refine KeepsX.bind ?_ fun _ => ?_
          · refine spWrite_keeps
          refine srRetire_keeps
        refine srRetire_keeps
    refine KeepsX.bind ?_ fun _ => ?_
    · exact KeepsX.pure _
    refine KeepsX.bind ?_ fun _ => ?_
    · refine num_keeps
    refine KeepsX.bind ?_ fun _ => ?_
    · refine optRows_keeps
    extract_lets -merge +onlyGivenNames l335_0 l335_1 l335_2
    clear_value l335_0
    subst l335_1
    try dsimp -zeta -zetaHave -zetaUnused -iota -proj only
    subst l335_2
    try dsimp -zeta -zetaHave -zetaUnused -iota -proj only
    refine KeepsX.bind ?_ fun _ => ?_
    · refine putOutput_keeps
    refine KeepsX.bind ?_ fun _ => ?_
    · refine putOutput_keeps
    refine KeepsX.ite (fun _ => ?_) (fun _ => ?_)
    · refine KeepsX.bind ?_ fun _ => ?_
      · refine putOutput_keeps
      split
      · refine KeepsX.ite (fun _ => ?_) (fun _ => ?_)
        · refine KeepsX.bind ?_ fun _ => ?_
          · refine spWrite_keeps
          refine srRetire_keeps
        refine srRetire_keeps
      · refine KeepsX.bind ?_ fun _ => ?_
        · refine putOutput_keeps
        refine KeepsX.ite (fun _ => ?_) (fun _ => ?_)
        · refine KeepsX.bind ?_ fun _ => ?_
          · refine spWrite_keeps
          refine srRetire_keeps
        refine srRetire_keeps
    split
    · refine KeepsX.ite (fun _ => ?_) (fun _ => ?_)
      · refine KeepsX.bind ?_ fun _ => ?_
        · refine spWrite_keeps
        refine srRetire_keeps
      refine srRetire_keeps
    · refine KeepsX.bind ?_ fun _ => ?_
      · refine putOutput_keeps
      refine KeepsX.ite (fun _ => ?_) (fun _ => ?_)
      · refine KeepsX.bind ?_ fun _ => ?_
        · refine spWrite_keeps
        refine srRetire_keeps
      refine srRetire_keeps
  refine KeepsX.bind ?_ fun _ => ?_
  · exact KeepsX.pure _
  extract_lets -merge +onlyGivenNames l376_0
  subst l376_0
  try dsimp -zeta -zetaHave -zetaUnused -iota -proj only
  refine KeepsX.ite (fun _ => ?_) (fun _ => ?_)
  · refine KeepsX.bind ?_ fun _ => ?_
    · refine num_keeps
    refine KeepsX.bind ?_ fun _ => ?_
    · refine num_keeps
    refine KeepsX.bind ?_ fun _ => ?_
    · refine optRows_keeps
    extract_lets -merge +onlyGivenNames l386_0 l386_1 l386_2
    clear_value l386_0
    subst l386_1
    try dsimp -zeta -zetaHave -zetaUnused -iota -proj only
    subst l386_2
    try dsimp -zeta -zetaHave -zetaUnused -iota -proj only
    refine KeepsX.bind ?_ fun _ => ?_
    · refine putOutput_keeps
    refine KeepsX.bind ?_ fun _ => ?_
    · refine putOutput_keeps
    refine KeepsX.ite (fun _ => ?_) (fun _ => ?_)
    · refine KeepsX.bind ?_ fun _ => ?_
      · refine putOutput_keeps
      split
      · refine KeepsX.ite (fun _ => ?_) (fun _ => ?_)
        · refine KeepsX.bind ?_ fun _ => ?_
          · refine spWrite_keeps
          refine srRetire_keeps
        refine srRetire_keeps
      · refine KeepsX.bind ?_ fun _ => ?_
        · refine putOutput_keeps
        refine KeepsX.ite (fun _ => ?_) (fun _ => ?_)
        · refine KeepsX.bind ?_ fun _ => ?_
          · refine spWrite_keeps
          refine srRetire_keeps
        refine srRetire_keeps
    split
    · refine KeepsX.ite (fun _ => ?_) (fun _ => ?_)
      · refine KeepsX.bind ?_ fun _ => ?_
        · refine spWrite_keeps
        refine srRetire_keeps
      refine srRetire_keeps
    · refine KeepsX.bind ?_ fun _ => ?_
      · refine putOutput_keeps
      refine KeepsX.ite (fun _ => ?_) (fun _ => ?_)
      · refine KeepsX.bind ?_ fun _ => ?_
        · refine spWrite_keeps
        refine srRetire_keeps
      refine srRetire_keeps
  refine KeepsX.bind ?_ fun _ => ?_
  · exact KeepsX.pure _
  refine KeepsX.bind ?_ fun _ => ?_
  · refine num_keeps
  refine KeepsX.bind ?_ fun _ => ?_
  · refine optRows_keeps
  extract_lets -merge +onlyGivenNames l431_0 l431_1 l431_2
  clear_value l431_0
  subst l431_1
  try dsimp -zeta -zetaHave -zetaUnused -iota -proj only
  subst l431_2
  try dsimp -zeta -zetaHave -zetaUnused -iota -proj only
  refine KeepsX.bind ?_ fun _ => ?_
  · refine putOutput_keeps
  refine KeepsX.bind ?_ fun _ => ?_
  · refine putOutput_keeps
  refine KeepsX.ite (fun _ => ?_) (fun _ => ?_)
  · refine KeepsX.bind ?_ fun _ => ?_
    · refine putOutput_keeps
    split
    · refine KeepsX.ite (fun _ => ?_) (fun _ => ?_)
      · refine KeepsX.bind ?_ fun _ => ?_
        · refine spWrite_keeps
        refine srRetire_keeps
      refine srRetire_keeps
    · refine KeepsX.bind ?_ fun _ => ?_
      · refine putOutput_keeps
      refine KeepsX.ite (fun _ => ?_) (fun _ => ?_)
      · refine KeepsX.bind ?_ fun _ => ?_
        · refine spWrite_keeps
        refine srRetire_keeps
      refine srRetire_keeps
  split
  · refine KeepsX.ite (fun _ => ?_) (fun _ => ?_)
    · refine KeepsX.bind ?_ fun _ => ?_
      · refine spWrite_keeps
      refine srRetire_keeps
    refine srRetire_keeps
  · refine KeepsX.bind ?_ fun _ => ?_
    · refine putOutput_keeps
    refine KeepsX.ite (fun _ => ?_) (fun _ => ?_)
    · refine KeepsX.bind ?_ fun _ => ?_
      · refine spWrite_keeps
      refine srRetire_keeps
    refine srRetire_keeps

theorem voptCheck_keeps {a : State} {x0 x1 x2 x3} : KeepsX a (voptCheck x0 x1 x2 x3) := by
  delta voptCheck
  refine KeepsX.bind ?_ fun _ => ?_
  · refine tdArg_keeps
  refine KeepsX.bind ?_ fun _ => ?_
  · refine need_keeps
  refine KeepsX.bind ?_ fun _ => ?_
  · refine needSpan_keeps
  refine KeepsX.get fun _ _ => ?_
  refine KeepsX.bind ?_ fun _ => ?_
  · refine tensorVals_keeps
  refine KeepsX.bind ?_ fun _ => ?_
  · refine KeepsX.modify fun _ _ => ?_
    assumption
  extract_lets -merge +onlyGivenNames l12_0 l12_1 l12_2
  clear_value l12_0
  clear_value l12_1
  clear_value l12_2
  refine KeepsX.bind ?_ fun _ => ?_
  · refine spWrite_keeps
  refine srRetire_keeps

theorem voptLoss_keeps {a : State} {x0 x1 x2 x3} : KeepsX a (voptLoss x0 x1 x2 x3) := by
  delta voptLoss
  extract_lets -merge +onlyGivenNames l0_0 l0_1 l0_2
  clear_value l0_0
  subst l0_1
  try dsimp -zeta -zetaHave -zetaUnused -iota -proj only
  clear_value l0_2
  split
  · refine KeepsX.bind ?_ fun _ => ?_
    · refine spWrite_keeps
    refine KeepsX.bind ?_ fun _ => ?_
    · refine spWrite_keeps
    refine KeepsX.bind ?_ fun _ => ?_
    · refine spWrite_keeps
    refine srRetire_keeps

theorem voptBody_keeps {a : State} {x0 x1} : KeepsX a (voptBody x0 x1) := by
  delta voptBody
  extract_lets -merge +onlyGivenNames l0_0
  clear_value l0_0
  refine KeepsX.bind ?_ fun _ => ?_
  · refine need_keeps
  refine KeepsX.bind ?_ fun _ => ?_
  · refine peekX_keeps
  refine KeepsX.bind ?_ fun _ => ?_
  · refine need_keeps
  refine KeepsX.bind ?_ fun _ => ?_
  · refine need_keeps
  refine KeepsX.bind ?_ fun _ => ?_
  · refine spRead_keeps
  refine KeepsX.bind ?_ fun _ => ?_
  · refine need_keeps
  split
  · refine voptCheck_keeps
  · refine KeepsX.bind ?_ fun _ => ?_
    · refine peekX_keeps
    refine voptLoss_keeps
  · refine voptUpdate_keeps

theorem doVopt_keeps {a : State} {x0 s} (h : Keeps a s) : Keeps a (doVopt x0 s) := by
  delta doVopt
  refine issue_keeps ?_ ?_
  · assumption
  intro _ _ _
  extract_lets -merge +onlyGivenNames l3_0 l3_1
  clear_value l3_0
  clear_value l3_1
  refine Keeps.ite (fun _ => ?_) (fun _ => ?_)
  · refine runX_keeps ?_ ?_ ?_
    · assumption
    · refine voptBody_keeps
    intro _ _
    refine nextPc_keeps ?_
    assumption
  assumption

end Sys2Proof.Machine
end

