-- ==== Sys2Proof/Laws/KeepsDesc.lean ====
section
/-!
SUPPORT. Laws/KeepsDesc.lean: the operations of Machine/Desc.lean keep what `Keeps` says (Laws/Keeps.lean).
-/
namespace Sys2Proof.Machine

theorem runDesc_keeps {a : State} {x0 x1 x2 x3 x4 s} (h : Keeps a s) (h4 : ∀ y0 y1, Keeps a y1 → Keeps a (x4 y0 y1)) : Keeps a (runDesc x0 x1 x2 x3 x4 s) := by
  delta runDesc
  extract_lets -merge +onlyGivenNames l0_0
  have h0_0 : Keeps a l0_0 := by
    subst l0_0
    refine advance_keeps ?_
    assumption
  clear_value l0_0
  split
  · assumption
  · refine Keeps.ite (fun _ => ?_) (fun _ => ?_)
    · refine settle_keeps ?_
      split
      · refine finish_keeps ?_
        assumption
      · split
        · refine finish_keeps ?_
          assumption
        · apply_assumption
          refine startDesc_keeps ?_
          assumption
    assumption

theorem descMemErr_keeps {a : State} {x0 x1 s} (h : Keeps a s) : Keeps a (descMemErr x0 x1 s) := by
  delta descMemErr
  extract_lets -merge +onlyGivenNames l0_0
  clear_value l0_0
  split
  · split
    · refine finish_keeps ?_
      assumption
    · refine teardown_keeps ?_
      assumption

theorem doNop_keeps {a : State} {x0 x1 s} (h : Keeps a s) : Keeps a (doNop x0 x1 s) := by
  delta doNop
  refine runDesc_keeps ?_ ?_
  · assumption
  intro _ _ _
  refine finishOk_keeps ?_
  assumption

theorem makeReady_keeps {a : State} {x0 x1 x2 s} (h : Keeps a s) : Keeps a (makeReady x0 x1 x2 s) := by
  delta makeReady
  refine wake_keeps ?_
  refine changed_keeps ?_
  refine modCtx_keeps ?_
  assumption

theorem doLaunch_keeps {a : State} {x0 x1 s} (h : Keeps a s) : Keeps a (doLaunch x0 x1 s) := by
  delta doLaunch
  refine Keeps.ite (fun _ => ?_) (fun _ => ?_)
  · refine runDesc_keeps ?_ ?_
    · assumption
    intro _ _ _
    split
    · refine makeReady_keeps ?_
      assumption
    · assumption
  refine advance_keeps ?_
  assumption

theorem doReplay_keeps {a : State} {x0 x1 s} (h : Keeps a s) : Keeps a (doReplay x0 x1 s) := by
  delta doReplay
  refine Keeps.ite (fun _ => ?_) (fun _ => ?_)
  · refine runDesc_keeps ?_ ?_
    · assumption
    intro _ _ _
    split
    · assumption
    · extract_lets -merge +onlyGivenNames l6_0
      clear_value l6_0
      refine makeReady_keeps ?_
      assumption
  refine advance_keeps ?_
  assumption

theorem copyBody_keeps {a : State} {x0 x1 s} (h : Keeps a s) : Keeps a (copyBody x0 x1 s) := by
  delta copyBody
  extract_lets -merge +onlyGivenNames l0_0 l0_1 l0_2
  clear_value l0_0
  clear_value l0_1
  clear_value l0_2
  split
  · refine finish_keeps ?_
    assumption
  · split
    · refine descMemErr_keeps ?_
      assumption
    · split
      · rename_i hq
        have hk := Keeps.ofEq (a := a) (by
          refine Keeps.ite2 (fun _ => ?_) (fun _ => ?_)
          · refine Keeps.pair ?_
            assumption
          refine readPart_keeps ?_
          assumption) hq
        split
        · refine descMemErr_keeps ?_
          assumption
        · refine Keeps.ite (fun _ => ?_) (fun _ => ?_)
          · extract_lets -merge +onlyGivenNames l22_0 l22_1
            clear_value l22_0
            have h22_1 : Keeps a l22_1 := by
              subst l22_1
              refine Keeps.ite (fun _ => ?_) (fun _ => ?_)
              · refine hostWrite_keeps ?_
                assumption
              assumption
            clear_value l22_1
            refine finish_keeps ?_
            assumption
          split
          · rename_i hq
            have hk := Keeps.ofEq (a := a) (by
              refine writePart_keeps ?_
              assumption) hq
            refine descMemErr_keeps ?_
            assumption
          · rename_i hq
            have hk := Keeps.ofEq (a := a) (by
              refine writePart_keeps ?_
              assumption) hq
            refine finish_keeps ?_
            assumption

theorem doCopy_keeps {a : State} {x0 x1 x2 s} (h : Keeps a s) : Keeps a (doCopy x0 x1 x2 s) := by
  delta doCopy
  refine runDesc_keeps ?_ ?_
  · assumption
  intro _ _ _
  refine copyBody_keeps ?_
  assumption

theorem doFill_keeps {a : State} {x0 x1 s} (h : Keeps a s) : Keeps a (doFill x0 x1 s) := by
  delta doFill
  refine runDesc_keeps ?_ ?_
  · assumption
  intro _ _ _
  extract_lets -merge +onlyGivenNames l3_0
  clear_value l3_0
  refine Keeps.ite (fun _ => ?_) (fun _ => ?_)
  · refine finish_keeps ?_
    assumption
  split
  · refine descMemErr_keeps ?_
    assumption
  · split
    · rename_i hq
      have hk := Keeps.ofEq (a := a) (by
        refine writePart_keeps ?_
        assumption) hq
      refine descMemErr_keeps ?_
      assumption
    · rename_i hq
      have hk := Keeps.ofEq (a := a) (by
        refine writePart_keeps ?_
        assumption) hq
      refine finish_keeps ?_
      assumption

theorem doWait_keeps {a : State} {x0 x1 s} (h : Keeps a s) : Keeps a (doWait x0 x1 s) := by
  delta doWait
  refine runDesc_keeps ?_ ?_
  · assumption
  intro _ _ _
  extract_lets -merge +onlyGivenNames l3_0
  clear_value l3_0
  refine Keeps.ite (fun _ => ?_) (fun _ => ?_)
  · refine finish_keeps ?_
    assumption
  refine modPart_keeps ?_ fun _ => rfl
  assumption

theorem doSignal_keeps {a : State} {x0 x1 s} (h : Keeps a s) : Keeps a (doSignal x0 x1 s) := by
  delta doSignal
  refine runDesc_keeps ?_ ?_
  · assumption
  intro _ _ _
  refine finishOk_keeps ?_
  refine semOp_keeps ?_
  assumption

theorem hold_keeps {a : State} {x0 x1 s} (h : Keeps a s) : Keeps a (hold x0 x1 s) := by
  delta hold
  refine changed_keeps ?_
  refine modCtx_keeps ?_
  assumption

theorem preemptBody_keeps {a : State} {x0 s} (h : Keeps a s) : Keeps a (preemptBody x0 s) := by
  delta preemptBody
  split
  · assumption
  · extract_lets -merge +onlyGivenNames l2_0
    clear_value l2_0
    split
    · refine finishOk_keeps ?_
      refine wake_keeps ?_
      refine hold_keeps ?_
      assumption
    · refine finishOk_keeps ?_
      refine wake_keeps ?_
      refine hold_keeps ?_
      assumption
    · refine finishOk_keeps ?_
      refine wake_keeps ?_
      refine hold_keeps ?_
      assumption
    · refine heelNow_keeps ?_
      refine modCtx_keeps ?_
      assumption
    · refine heelNow_keeps ?_
      refine modCtx_keeps ?_
      assumption
    · refine modCtx_keeps ?_
      assumption
    · refine modCtx_keeps ?_
      assumption
    · refine finishOk_keeps ?_
      assumption

theorem doPreempt_keeps {a : State} {x0 x1 s} (h : Keeps a s) : Keeps a (doPreempt x0 x1 s) := by
  delta doPreempt
  refine runDesc_keeps ?_ ?_
  · assumption
  intro _ _ _
  refine preemptBody_keeps ?_
  assumption

theorem resumeBody_keeps {a : State} {x0 s} (h : Keeps a s) : Keeps a (resumeBody x0 s) := by
  delta resumeBody
  split
  · assumption
  · extract_lets -merge +onlyGivenNames l2_0
    clear_value l2_0
    refine Keeps.ite (fun _ => ?_) (fun _ => ?_)
    · refine finishOk_keeps ?_
      refine wake_keeps ?_
      refine changed_keeps ?_
      refine modCtx_keeps ?_
      assumption
    refine finishOk_keeps ?_
    assumption

theorem doResume_keeps {a : State} {x0 x1 s} (h : Keeps a s) : Keeps a (doResume x0 x1 s) := by
  delta doResume
  refine runDesc_keeps ?_ ?_
  · assumption
  intro _ _ _
  refine resumeBody_keeps ?_
  assumption

theorem doDigest_keeps {a : State} {x0 x1 s} (h : Keeps a s) : Keeps a (doDigest x0 x1 s) := by
  delta doDigest
  refine runDesc_keeps ?_ ?_
  · assumption
  intro _ _ _
  extract_lets -merge +onlyGivenNames l3_0 l3_1 l3_2
  clear_value l3_0
  clear_value l3_1
  clear_value l3_2
  refine Keeps.ite (fun _ => ?_) (fun _ => ?_)
  · refine finish_keeps ?_
    assumption
  split
  · rename_i hq
    have hk := Keeps.ofEq (a := a) (by
      refine readPart_keeps ?_
      assumption) hq
    refine descMemErr_keeps ?_
    assumption
  · rename_i hq
    have hk := Keeps.ofEq (a := a) (by
      refine readPart_keeps ?_
      assumption) hq
    extract_lets -merge +onlyGivenNames l21_0
    have h21_0 : Keeps a l21_0 := by
      subst l21_0
      refine Keeps.ite (fun _ => ?_) (fun _ => ?_)
      · refine hostWrite_keeps ?_
        assumption
      assumption
    clear_value l21_0
    refine finish_keeps ?_
    assumption

theorem recordStart_keeps {a : State} {x0 s} (h : Keeps a s) : Keeps a (recordStart x0 s) := by
  delta recordStart
  split
  · assumption
  · extract_lets -merge +onlyGivenNames l2_0 l2_1 l2_2 l2_3 l2_4 l2_5
    clear_value l2_0
    clear_value l2_1
    clear_value l2_2
    have h2_3 : Keeps a l2_3 := by
      subst l2_3
      refine poke_keeps ?_
      assumption
    clear_value l2_3
    have h2_4 : Keeps a l2_4 := by
      subst l2_4
      refine poke_keeps ?_
      assumption
    clear_value l2_4
    have h2_5 : Keeps a l2_5 := by
      subst l2_5
      refine poke_keeps ?_
      assumption
    clear_value l2_5
    refine finishOk_keeps ?_
    refine modCtx_keeps ?_
    assumption

theorem doRecordStart_keeps {a : State} {x0 x1 s} (h : Keeps a s) : Keeps a (doRecordStart x0 x1 s) := by
  delta doRecordStart
  refine Keeps.ite (fun _ => ?_) (fun _ => ?_)
  · refine runDesc_keeps ?_ ?_
    · assumption
    intro _ _ _
    refine recordStart_keeps ?_
    assumption
  refine advance_keeps ?_
  assumption

theorem doRecordStop_keeps {a : State} {x0 x1 s} (h : Keeps a s) : Keeps a (doRecordStop x0 x1 s) := by
  delta doRecordStop
  refine Keeps.ite (fun _ => ?_) (fun _ => ?_)
  · refine runDesc_keeps ?_ ?_
    · assumption
    intro _ _ _
    split
    · assumption
    · refine finishOk_keeps ?_
      refine recStop_keeps ?_
      assumption
  refine advance_keeps ?_
  assumption

end Sys2Proof.Machine
end

