-- ==== Sys2Proof/Laws/KeepsAttention.lean ====
section
/-!
SUPPORT. Laws/KeepsAttention.lean: the operations of Machine/Attention.lean keep what `Keeps` says (Laws/Keeps.lean).
-/
namespace Sys2Proof.Machine

theorem kvRead_keeps {a : State} {x0 x1 x2} : KeepsX a (kvRead x0 x1 x2) := by
  delta kvRead
  refine KeepsX.get fun _ _ => ?_
  extract_lets -merge +onlyGivenNames l1_0
  clear_value l1_0
  split
  · rename_i hq
    have hk := Keeps.ofEq (a := a) (by
      refine readPart_keeps ?_
      assumption) hq
    refine KeepsX.bind ?_ fun _ => ?_
    · refine KeepsX.set ?_
      show Keeps a _
      assumption
    split
    · exact KeepsX.pure _
    · exact KeepsX.throw _

theorem kvWrite_keeps {a : State} {x0 x1 x2} : KeepsX a (kvWrite x0 x1 x2) := by
  delta kvWrite
  refine KeepsX.get fun _ _ => ?_
  extract_lets -merge +onlyGivenNames l1_0
  clear_value l1_0
  split
  · rename_i hq
    have hk := Keeps.ofEq (a := a) (by
      refine writeCtx_keeps ?_
      assumption) hq
    refine KeepsX.bind ?_ fun _ => ?_
    · refine KeepsX.set ?_
      show Keeps a _
      assumption
    split
    · exact KeepsX.pure _
    · exact KeepsX.throw _

theorem kvHeader_keeps {a : State} {x0 x1} : KeepsX a (kvHeader x0 x1) := by
  delta kvHeader
  refine KeepsX.bind ?_ fun _ => ?_
  · refine kvRead_keeps
  split
  · exact KeepsX.pure _
  · refine stopX_keeps

theorem kvEntry_keeps {a : State} {x0 x1 x2 x3} : KeepsX a (kvEntry x0 x1 x2 x3) := by
  delta kvEntry
  refine KeepsX.bind ?_ fun _ => ?_
  · refine peekX_keeps
  split
  · exact KeepsX.pure _
  · refine KeepsX.bind ?_ fun _ => ?_
    · refine kvRead_keeps
    extract_lets -merge +onlyGivenNames l6_0
    clear_value l6_0
    refine KeepsX.bind ?_ fun _ => ?_
    · refine actX_keeps ?_
      intro _ _
      refine modCore_keeps ?_
      assumption
    exact KeepsX.pure _

theorem kvStep_keeps {a : State} {x0 x1} : KeepsX a (kvStep x0 x1) := by
  delta kvStep
  refine mapX_keeps ?_
  intro _
  refine kvEntry_keeps

theorem kvMapped_keeps {a : State} {x0 x1 x2 x3} : KeepsX a (kvMapped x0 x1 x2 x3) := by
  delta kvMapped
  extract_lets -merge +onlyGivenNames l0_0
  clear_value l0_0
  refine KeepsX.bind ?_ fun _ => ?_
  · refine peekX_keeps
  split
  · refine KeepsX.ite (fun _ => ?_) (fun _ => ?_)
    · refine stopX_keeps
    exact KeepsX.pure _
  · exact KeepsX.pure _

theorem kvCodes_keeps {a : State} {x0 x1 x2 x3 x4 x5} : KeepsX a (kvCodes x0 x1 x2 x3 x4 x5) := by
  delta kvCodes
  extract_lets -merge +onlyGivenNames l0_0
  clear_value l0_0
  refine KeepsX.bind ?_ fun _ => ?_
  · refine kvRead_keeps
  exact KeepsX.pure _

theorem kvScale_keeps {a : State} {x0 x1 x2 x3 x4 x5 x6} : KeepsX a (kvScale x0 x1 x2 x3 x4 x5 x6) := by
  delta kvScale
  refine KeepsX.ite (fun _ => ?_) (fun _ => ?_)
  · exact KeepsX.pure _
  extract_lets -merge +onlyGivenNames l2_0
  clear_value l2_0
  refine KeepsX.bind ?_ fun _ => ?_
  · refine kvRead_keeps
  refine KeepsX.bind ?_ fun _ => ?_
  · refine need_keeps
  exact KeepsX.pure _

theorem maskOf_keeps {a : State} {x0 x1} : KeepsX a (maskOf x0 x1) := by
  delta maskOf
  refine rowCodes_keeps

theorem attnCheck_keeps {a : State} {x0 x1} : KeepsX a (attnCheck x0 x1) := by
  delta attnCheck
  refine KeepsX.bind ?_ fun _ => ?_
  · refine peekX_keeps
  refine KeepsX.bind ?_ fun _ => ?_
  · refine need_keeps
  refine KeepsX.bind ?_ fun _ => ?_
  · refine tdArg_keeps
  refine KeepsX.bind ?_ fun _ => ?_
  · refine tdArg_keeps
  extract_lets -merge +onlyGivenNames l8_0 l8_1 l8_2
  clear_value l8_0
  clear_value l8_1
  subst l8_2
  try dsimp -zeta -zetaHave -zetaUnused -iota -proj only
  refine KeepsX.ite (fun _ => ?_) (fun _ => ?_)
  · refine KeepsX.bind ?_ fun _ => ?_
    · refine tdArg_keeps
    refine KeepsX.bind ?_ fun _ => ?_
    · refine need_keeps
    refine KeepsX.bind ?_ fun _ => ?_
    · refine need_keeps
    refine KeepsX.bind ?_ fun _ => ?_
    · refine need_keeps
    refine KeepsX.bind ?_ fun _ => ?_
    · refine need_keeps
    refine KeepsX.bind ?_ fun _ => ?_
    · refine need_keeps
    refine KeepsX.bind ?_ fun _ => ?_
    · refine needSpan_keeps
    refine KeepsX.bind ?_ fun _ => ?_
    · refine needSpan_keeps
    refine KeepsX.ite (fun _ => ?_) (fun _ => ?_)
    · refine KeepsX.bind ?_ fun _ => ?_
      · refine needSpan_keeps
      refine KeepsX.bind ?_ fun _ => ?_
      · refine maskOf_keeps
      refine need_keeps
    exact KeepsX.pure _
  refine KeepsX.bind ?_ fun _ => ?_
  · exact KeepsX.pure _
  refine KeepsX.bind ?_ fun _ => ?_
  · refine need_keeps
  refine KeepsX.bind ?_ fun _ => ?_
  · refine need_keeps
  refine KeepsX.bind ?_ fun _ => ?_
  · refine need_keeps
  refine KeepsX.bind ?_ fun _ => ?_
  · refine need_keeps
  refine KeepsX.bind ?_ fun _ => ?_
  · refine need_keeps
  refine KeepsX.bind ?_ fun _ => ?_
  · refine needSpan_keeps
  refine KeepsX.bind ?_ fun _ => ?_
  · refine needSpan_keeps
  refine KeepsX.ite (fun _ => ?_) (fun _ => ?_)
  · refine KeepsX.bind ?_ fun _ => ?_
    · refine needSpan_keeps
    refine KeepsX.bind ?_ fun _ => ?_
    · refine maskOf_keeps
    refine need_keeps
  exact KeepsX.pure _

theorem startWalk_keeps {a : State} {x0 x1} : KeepsX a (startWalk x0 x1) := by
  delta startWalk
  refine actX_keeps ?_
  intro _ _
  refine modCore_keeps ?_
  assumption

theorem setWalk_keeps {a : State} {x0 x1} : KeepsX a (setWalk x0 x1) := by
  delta setWalk
  refine actX_keeps ?_
  intro _ _
  refine modCore_keeps ?_
  assumption

theorem walkStart_keeps {a : State} {x0 x1 x2} : KeepsX a (walkStart x0 x1 x2) := by
  delta walkStart
  refine KeepsX.bind ?_ fun _ => ?_
  · refine need_keeps
  refine KeepsX.bind ?_ fun _ => ?_
  · refine kvHeader_keeps
  refine KeepsX.bind ?_ fun _ => ?_
  · refine need_keeps
  extract_lets -merge +onlyGivenNames l6_0
  clear_value l6_0
  refine KeepsX.bind ?_ fun _ => ?_
  · refine kvStep_keeps
  refine setWalk_keeps

theorem walkMismatch_keeps {a : State} {x0 x1 x2} : KeepsX a (walkMismatch x0 x1 x2) := by
  delta walkMismatch
  refine KeepsX.bind ?_ fun _ => ?_
  · refine kvRead_keeps
  extract_lets -merge +onlyGivenNames l2_0
  clear_value l2_0
  exact KeepsX.pure _

theorem walkReplay_keeps {a : State} {x0 x1 x2} : KeepsX a (walkReplay x0 x1 x2) := by
  delta walkReplay
  refine KeepsX.ite (fun _ => ?_) (fun _ => ?_)
  · refine stopX_keeps
  refine KeepsX.bind ?_ fun _ => ?_
  · refine setWalk_keeps
  refine actX_keeps ?_
  intro _ _
  extract_lets -merge +onlyGivenNames l6_0 l6_1
  clear_value l6_0
  have h6_1 : Keeps a l6_1 := by
    subst l6_1
    refine modCtx_keeps ?_
    assumption
  clear_value l6_1
  refine record_keeps ?_
  assumption

theorem queryScales_keeps {a : State} {x0 x1 x2} : KeepsX a (queryScales x0 x1 x2) := by
  delta queryScales
  refine KeepsX.ite (fun _ => ?_) (fun _ => ?_)
  · exact KeepsX.pure _
  refine mapX_keeps ?_
  intro _
  refine KeepsX.map ?_
  refine scaleOf_keeps

theorem queryRows_keeps {a : State} {x0 x1 x2 x3 x4 x5} : KeepsX a (queryRows x0 x1 x2 x3 x4 x5) := by
  delta queryRows
  extract_lets -merge +onlyGivenNames l0_0 l0_1 l0_2
  clear_value l0_0
  clear_value l0_1
  clear_value l0_2
  refine mapX_keeps ?_
  intro _
  extract_lets -merge +onlyGivenNames l6_0 l6_1 l6_2
  clear_value l6_0
  clear_value l6_1
  clear_value l6_2
  refine KeepsX.bind ?_ fun _ => ?_
  · refine rowCodes_keeps
  refine KeepsX.bind ?_ fun _ => ?_
  · refine queryScales_keeps
  exact KeepsX.pure _

theorem chunkData_keeps {a : State} {x0 x1 x2 x3 x4 x5} : KeepsX a (chunkData x0 x1 x2 x3 x4 x5) := by
  delta chunkData
  split
  · refine KeepsX.bind ?_ fun _ => ?_
    · refine peekX_keeps
    refine mapX_keeps ?_
    intro _
    extract_lets -merge +onlyGivenNames l5_0
    clear_value l5_0
    refine KeepsX.ite (fun _ => ?_) (fun _ => ?_)
    · exact KeepsX.pure _
    refine KeepsX.bind ?_ fun _ => ?_
    · refine kvCodes_keeps
    refine KeepsX.bind ?_ fun _ => ?_
    · refine mapX_keeps ?_
      intro _
      refine kvScale_keeps
    refine KeepsX.bind ?_ fun _ => ?_
    · refine kvCodes_keeps
    refine KeepsX.bind ?_ fun _ => ?_
    · refine mapX_keeps ?_
      intro _
      refine kvScale_keeps
    refine KeepsX.bind ?_ fun _ => ?_
    · refine num_keeps
    exact KeepsX.pure _

theorem attnEntry_keeps {a : State} {x0 x1 x2 x3 x4 x5 x6 x7 x8 x9} : KeepsX a (attnEntry x0 x1 x2 x3 x4 x5 x6 x7 x8 x9) := by
  delta attnEntry
  refine KeepsX.foldlM fun _ _ => ?_
  extract_lets -merge +onlyGivenNames l1_0
  clear_value l1_0
  refine KeepsX.bind ?_ fun _ => ?_
  · refine chunkData_keeps
  refine mapX_keeps ?_
  intro _
  split
  · refine num_keeps

theorem attnStep_keeps {a : State} {x0 x1 x2 x3 x4 x5 x6} : KeepsX a (attnStep x0 x1 x2 x3 x4 x5 x6) := by
  delta attnStep
  refine KeepsX.foldlM fun _ _ => ?_
  refine KeepsX.bind ?_ fun _ => ?_
  · refine peekX_keeps
  refine KeepsX.bind ?_ fun _ => ?_
  · refine peekX_keeps
  refine KeepsX.bind ?_ fun _ => ?_
  · refine need_keeps
  refine KeepsX.bind ?_ fun _ => ?_
  · refine kvMapped_keeps
  extract_lets -merge +onlyGivenNames l9_0
  subst l9_0
  try dsimp -zeta -zetaHave -zetaUnused -iota -proj only
  refine KeepsX.ite (fun _ => ?_) (fun _ => ?_)
  · refine KeepsX.bind ?_ fun _ => ?_
    · refine attnEntry_keeps
    exact KeepsX.pure _
  refine KeepsX.bind ?_ fun _ => ?_
  · exact KeepsX.pure _
  exact KeepsX.pure _

theorem attnWrite_keeps {a : State} {x0 x1 x2 x3} : KeepsX a (attnWrite x0 x1 x2 x3) := by
  delta attnWrite
  refine eachX_keeps ?_
  intro _
  split
  · extract_lets -merge +onlyGivenNames l3_0
    subst l3_0
    try dsimp -zeta -zetaHave -zetaUnused -iota -proj only
    refine KeepsX.ite (fun _ => ?_) (fun _ => ?_)
    · refine KeepsX.bind ?_ fun _ => ?_
      · exact KeepsX.pure _
      refine putRow_keeps
    refine KeepsX.bind ?_ fun _ => ?_
    · refine num_keeps
    refine putRow_keeps

theorem attnEnd_keeps {a : State} {x0 x1} : KeepsX a (attnEnd x0 x1) := by
  delta attnEnd
  extract_lets -merge +onlyGivenNames l0_0 l0_1 l0_2 l0_3
  clear_value l0_0
  clear_value l0_1
  clear_value l0_2
  clear_value l0_3
  refine KeepsX.bind ?_ fun _ => ?_
  · refine kvHeader_keeps
  refine KeepsX.get fun _ _ => ?_
  extract_lets -merge +onlyGivenNames l8_0 l8_1
  clear_value l8_0
  subst l8_1
  try dsimp -zeta -zetaHave -zetaUnused -iota -proj only
  refine KeepsX.ite (fun _ => ?_) (fun _ => ?_)
  · refine KeepsX.bind ?_ fun _ => ?_
    · refine maskOf_keeps
    refine KeepsX.bind ?_ fun _ => ?_
    · refine queryRows_keeps
    extract_lets -merge +onlyGivenNames l17_0
    clear_value l17_0
    refine KeepsX.bind ?_ fun _ => ?_
    · refine kvStep_keeps
    refine KeepsX.bind ?_ fun _ => ?_
    · refine attnStep_keeps
    split
    · refine KeepsX.bind ?_ fun _ => ?_
      · refine walkMismatch_keeps
      split
      · refine KeepsX.ite (fun _ => ?_) (fun _ => ?_)
        · refine KeepsX.bind ?_ fun _ => ?_
          · refine KeepsX.modify fun _ _ => ?_
            assumption
          refine walkReplay_keeps
        refine KeepsX.ite (fun _ => ?_) (fun _ => ?_)
        · refine setWalk_keeps
        refine KeepsX.bind ?_ fun _ => ?_
        · refine need_keeps
        refine KeepsX.bind ?_ fun _ => ?_
        · refine attnWrite_keeps
        refine KeepsX.ite (fun _ => ?_) (fun _ => ?_)
        · refine setWalk_keeps
        refine KeepsX.ite (fun _ => ?_) (fun _ => ?_)
        · refine setWalk_keeps
        refine KeepsX.bind ?_ fun _ => ?_
        · refine setWalk_keeps
        refine actX_keeps ?_
        intro _ _
        refine nextPc_keeps ?_
        assumption
  refine KeepsX.bind ?_ fun _ => ?_
  · exact KeepsX.pure _
  refine KeepsX.bind ?_ fun _ => ?_
  · refine queryRows_keeps
  extract_lets -merge +onlyGivenNames l52_0
  clear_value l52_0
  refine KeepsX.bind ?_ fun _ => ?_
  · refine kvStep_keeps
  refine KeepsX.bind ?_ fun _ => ?_
  · refine attnStep_keeps
  split
  · refine KeepsX.bind ?_ fun _ => ?_
    · refine walkMismatch_keeps
    split
    · refine KeepsX.ite (fun _ => ?_) (fun _ => ?_)
      · refine KeepsX.bind ?_ fun _ => ?_
        · refine KeepsX.modify fun _ _ => ?_
          assumption
        refine walkReplay_keeps
      refine KeepsX.ite (fun _ => ?_) (fun _ => ?_)
      · refine setWalk_keeps
      refine KeepsX.bind ?_ fun _ => ?_
      · refine need_keeps
      refine KeepsX.bind ?_ fun _ => ?_
      · refine attnWrite_keeps
      refine KeepsX.ite (fun _ => ?_) (fun _ => ?_)
      · refine setWalk_keeps
      refine KeepsX.ite (fun _ => ?_) (fun _ => ?_)
      · refine setWalk_keeps
      refine KeepsX.bind ?_ fun _ => ?_
      · refine setWalk_keeps
      refine actX_keeps ?_
      intro _ _
      refine nextPc_keeps ?_
      assumption

theorem walkStage_keeps {a : State} {x0 x1 x2 x3 x4 s} (h : Keeps a s) (h2 : KeepsX a x2) (h4 : ∀ y0, KeepsX a (x4 y0)) : Keeps a (walkStage x0 x1 x2 x3 x4 s) := by
  delta walkStage
  split
  · refine runX_keeps ?_ ?_ ?_
    · assumption
    · refine KeepsX.bind ?_ fun _ => ?_
      · assumption
      refine startWalk_keeps
    intro _ _
    assumption
  · refine Keeps.ite (fun _ => ?_) (fun _ => ?_)
    · refine runX_keeps ?_ ?_ ?_
      · assumption
      · apply_assumption
      intro _ _
      assumption
    refine runX_keeps ?_ ?_ ?_
    · assumption
    · refine walkStart_keeps
    intro _ _
    assumption

theorem doAttn_keeps {a : State} {x0 s} (h : Keeps a s) : Keeps a (doAttn x0 s) := by
  delta doAttn
  refine issue_keeps ?_ ?_
  · assumption
  intro _ _ _
  extract_lets -merge +onlyGivenNames l3_0 l3_1
  clear_value l3_0
  clear_value l3_1
  refine Keeps.ite (fun _ => ?_) (fun _ => ?_)
  · refine walkStage_keeps ?_ ?_ ?_
    · assumption
    · refine attnCheck_keeps
    intro _
    refine attnEnd_keeps
  assumption

theorem putSlot_keeps {a : State} {x0 x1 x2 x3 x4 x5 x6} : KeepsX a (putSlot x0 x1 x2 x3 x4 x5 x6) := by
  delta putSlot
  extract_lets -merge +onlyGivenNames l0_0 l0_1
  clear_value l0_0
  clear_value l0_1
  refine KeepsX.bind ?_ fun _ => ?_
  · refine kvRead_keeps
  extract_lets -merge +onlyGivenNames l5_0
  clear_value l5_0
  refine kvWrite_keeps

theorem kvPut_keeps {a : State} {x0 x1 x2 x3 x4 x5 x6} : KeepsX a (kvPut x0 x1 x2 x3 x4 x5 x6) := by
  delta kvPut
  extract_lets -merge +onlyGivenNames l0_0 l0_1 l0_2
  clear_value l0_0
  clear_value l0_1
  clear_value l0_2
  refine KeepsX.bind ?_ fun _ => ?_
  · refine mapX_keeps ?_
    intro _
    extract_lets -merge +onlyGivenNames l7_0 l7_1 l7_2
    clear_value l7_0
    clear_value l7_1
    subst l7_2
    try dsimp -zeta -zetaHave -zetaUnused -iota -proj only
    refine KeepsX.ite (fun _ => ?_) (fun _ => ?_)
    · refine num_keeps
    refine KeepsX.ite (fun _ => ?_) (fun _ => ?_)
    · refine KeepsX.bind ?_ fun _ => ?_
      · refine num_keeps
      refine KeepsX.bind ?_ fun _ => ?_
      · refine putSlot_keeps
      refine num_keeps
    refine KeepsX.bind ?_ fun _ => ?_
    · refine putSlot_keeps
    refine num_keeps
  refine kvWrite_keeps

theorem kvwCheck_keeps {a : State} {x0 x1} : KeepsX a (kvwCheck x0 x1) := by
  delta kvwCheck
  refine KeepsX.bind ?_ fun _ => ?_
  · refine need_keeps
  refine KeepsX.ite (fun _ => ?_) (fun _ => ?_)
  · exact KeepsX.pure _
  refine KeepsX.bind ?_ fun _ => ?_
  · refine tdArg_keeps
  refine KeepsX.ite (fun _ => ?_) (fun _ => ?_)
  · refine KeepsX.bind ?_ fun _ => ?_
    · refine need_keeps
    refine needSpan_keeps
  refine KeepsX.bind ?_ fun _ => ?_
  · refine tdArg_keeps
  refine KeepsX.bind ?_ fun _ => ?_
  · refine need_keeps
  refine KeepsX.bind ?_ fun _ => ?_
  · refine need_keeps
  refine KeepsX.bind ?_ fun _ => ?_
  · refine needSpan_keeps
  refine needSpan_keeps

theorem kvwEntries_keeps {a : State} {x0 x1 x2} : KeepsX a (kvwEntries x0 x1 x2) := by
  delta kvwEntries
  refine eachX_keeps ?_
  intro _
  refine KeepsX.bind ?_ fun _ => ?_
  · refine peekX_keeps
  refine KeepsX.bind ?_ fun _ => ?_
  · refine peekX_keeps
  refine need_keeps

theorem kvwAppend_keeps {a : State} {x0 x1} : KeepsX a (kvwAppend x0 x1) := by
  delta kvwAppend
  extract_lets -merge +onlyGivenNames l0_0 l0_1
  clear_value l0_0
  clear_value l0_1
  refine KeepsX.bind ?_ fun _ => ?_
  · refine kvHeader_keeps
  refine KeepsX.bind ?_ fun _ => ?_
  · refine need_keeps
  refine KeepsX.get fun _ _ => ?_
  refine KeepsX.bind ?_ fun _ => ?_
  · refine kvStep_keeps
  refine KeepsX.bind ?_ fun _ => ?_
  · refine kvwEntries_keeps
  extract_lets -merge +onlyGivenNames l12_0 l12_1
  clear_value l12_0
  clear_value l12_1
  refine KeepsX.bind ?_ fun _ => ?_
  · refine eachX_keeps ?_
    intro _
    split
    · exact KeepsX.pure _
    · refine KeepsX.bind ?_ fun _ => ?_
      · refine need_keeps
      refine KeepsX.bind ?_ fun _ => ?_
      · refine need_keeps
      refine KeepsX.bind ?_ fun _ => ?_
      · refine kvMapped_keeps
      split
      · refine eachX_keeps ?_
        intro _
        refine KeepsX.bind ?_ fun _ => ?_
        · refine rowVals_keeps
        refine KeepsX.bind ?_ fun _ => ?_
        · refine kvPut_keeps
        refine KeepsX.bind ?_ fun _ => ?_
        · refine rowVals_keeps
        refine kvPut_keeps
  refine KeepsX.bind ?_ fun _ => ?_
  · refine walkMismatch_keeps
  split
  · refine KeepsX.ite (fun _ => ?_) (fun _ => ?_)
    · refine KeepsX.bind ?_ fun _ => ?_
      · refine KeepsX.modify fun _ _ => ?_
        assumption
      refine walkReplay_keeps
    refine KeepsX.ite (fun _ => ?_) (fun _ => ?_)
    · refine setWalk_keeps
    refine KeepsX.bind ?_ fun _ => ?_
    · refine need_keeps
    refine KeepsX.bind ?_ fun _ => ?_
    · refine setWalk_keeps
    refine actX_keeps ?_
    intro _ _
    refine nextPc_keeps ?_
    assumption

theorem kvCopy_keeps {a : State} {x0 x1 x2 x3 x4 x5} : KeepsX a (kvCopy x0 x1 x2 x3 x4 x5) := by
  delta kvCopy
  extract_lets -merge +onlyGivenNames l0_0 l0_1 l0_2 l0_3
  clear_value l0_0
  clear_value l0_1
  clear_value l0_2
  clear_value l0_3
  refine KeepsX.bind ?_ fun _ => ?_
  · refine need_keeps
  refine KeepsX.bind ?_ fun _ => ?_
  · refine kvRead_keeps
  extract_lets -merge +onlyGivenNames l9_0
  subst l9_0
  try dsimp -zeta -zetaHave -zetaUnused -iota -proj only
  refine KeepsX.ite (fun _ => ?_) (fun _ => ?_)
  · refine kvWrite_keeps
  refine KeepsX.bind ?_ fun _ => ?_
  · refine eachX_keeps ?_
    intro _
    extract_lets -merge +onlyGivenNames l17_0
    clear_value l17_0
    refine KeepsX.bind ?_ fun _ => ?_
    · refine kvRead_keeps
    refine KeepsX.bind ?_ fun _ => ?_
    · refine need_keeps
    refine putSlot_keeps
  refine kvWrite_keeps

theorem kvwCommit_keeps {a : State} {x0 x1} : KeepsX a (kvwCommit x0 x1) := by
  delta kvwCommit
  refine KeepsX.bind ?_ fun _ => ?_
  · refine kvHeader_keeps
  refine KeepsX.bind ?_ fun _ => ?_
  · refine rowCodes_keeps
  extract_lets -merge +onlyGivenNames l4_0
  clear_value l4_0
  refine KeepsX.bind ?_ fun _ => ?_
  · refine need_keeps
  refine KeepsX.bind ?_ fun _ => ?_
  · refine mapX_keeps ?_
    intro _
    refine kvEntry_keeps
  refine KeepsX.bind ?_ fun _ => ?_
  · refine kvwEntries_keeps
  extract_lets -merge +onlyGivenNames l14_0
  clear_value l14_0
  refine KeepsX.bind ?_ fun _ => ?_
  · refine eachX_keeps ?_
    intro _
    split
    · refine KeepsX.bind ?_ fun _ => ?_
      · refine need_keeps
      refine KeepsX.bind ?_ fun _ => ?_
      · refine kvMapped_keeps
      refine KeepsX.bind ?_ fun _ => ?_
      · refine kvMapped_keeps
      refine KeepsX.ite (fun _ => ?_) (fun _ => ?_)
      · exact KeepsX.pure _
      refine eachX_keeps ?_
      intro _
      refine KeepsX.bind ?_ fun _ => ?_
      · refine kvCopy_keeps
      refine kvCopy_keeps
    · refine stopX_keeps
  refine KeepsX.bind ?_ fun _ => ?_
  · refine walkMismatch_keeps
  split
  · refine KeepsX.ite (fun _ => ?_) (fun _ => ?_)
    · refine walkReplay_keeps
    refine KeepsX.bind ?_ fun _ => ?_
    · refine kvRead_keeps
    refine KeepsX.bind ?_ fun _ => ?_
    · refine kvWrite_keeps
    refine KeepsX.bind ?_ fun _ => ?_
    · refine setWalk_keeps
    refine actX_keeps ?_
    intro _ _
    refine nextPc_keeps ?_
    assumption

theorem kvwRewind_keeps {a : State} {x0 x1} : KeepsX a (kvwRewind x0 x1) := by
  delta kvwRewind
  refine KeepsX.bind ?_ fun _ => ?_
  · refine need_keeps
  refine KeepsX.bind ?_ fun _ => ?_
  · refine kvRead_keeps
  refine KeepsX.bind ?_ fun _ => ?_
  · refine kvWrite_keeps
  refine KeepsX.bind ?_ fun _ => ?_
  · refine setWalk_keeps
  refine actX_keeps ?_
  intro _ _
  refine nextPc_keeps ?_
  assumption

theorem kvwEnd_keeps {a : State} {x0 x1} : KeepsX a (kvwEnd x0 x1) := by
  delta kvwEnd
  refine KeepsX.ite (fun _ => ?_) (fun _ => ?_)
  · refine kvwRewind_keeps
  refine KeepsX.ite (fun _ => ?_) (fun _ => ?_)
  · refine kvwCommit_keeps
  refine kvwAppend_keeps

theorem doKvw_keeps {a : State} {x0 s} (h : Keeps a s) : Keeps a (doKvw x0 s) := by
  delta doKvw
  refine issue_keeps ?_ ?_
  · assumption
  intro _ _ _
  extract_lets -merge +onlyGivenNames l3_0 l3_1
  clear_value l3_0
  clear_value l3_1
  refine Keeps.ite (fun _ => ?_) (fun _ => ?_)
  · refine walkStage_keeps ?_ ?_ ?_
    · assumption
    · refine kvwCheck_keeps
    intro _
    refine kvwEnd_keeps
  assumption

theorem writeDesc_keeps {a : State} {x0 x1 x2 s} (h : Keeps a s) : Keeps a (writeDesc x0 x1 x2 s).2 := by
  delta writeDesc
  split
  · refine Keeps.pair ?_
    assumption
  · refine writePart_keeps ?_
    assumption

theorem doKvMap_keeps {a : State} {x0 x1 s} (h : Keeps a s) : Keeps a (doKvMap x0 x1 s) := by
  delta doKvMap
  refine runDesc_keeps ?_ ?_
  · assumption
  intro _ _ _
  extract_lets -merge +onlyGivenNames l3_0 l3_1 l3_2
  clear_value l3_0
  clear_value l3_1
  clear_value l3_2
  split
  · rename_i hq
    have hk := Keeps.ofEq (a := a) (by
      refine readPart_keeps ?_
      assumption) hq
    refine descMemErr_keeps ?_
    assumption
  · rename_i hq
    have hk := Keeps.ofEq (a := a) (by
      refine readPart_keeps ?_
      assumption) hq
    extract_lets -merge +onlyGivenNames l18_0 l18_1
    clear_value l18_0
    clear_value l18_1
    split
    · rename_i hq
      have hk := Keeps.ofEq (a := a) (by
        refine writeDesc_keeps ?_
        assumption) hq
      split
      · refine descMemErr_keeps ?_
        assumption
      · refine Keeps.ite (fun _ => ?_) (fun _ => ?_)
        · split
          · rename_i hq
            have hk := Keeps.ofEq (a := a) (by
              refine writeDesc_keeps ?_
              assumption) hq
            split
            · refine descMemErr_keeps ?_
              assumption
            · refine finishOk_keeps ?_
              assumption
        refine finishOk_keeps ?_
        assumption

end Sys2Proof.Machine
end

