-- ==== Sys2Proof/Laws/KeepsPart.lean ====
section
/-!
SUPPORT. Laws/KeepsPart.lean: the operations of Machine/Part.lean keep what `Keeps` says (Laws/Keeps.lean).
-/
namespace Sys2Proof.Machine

theorem modScion_keeps {a : State} {x0 x1 s} (h : Keeps a s) : Keeps a (modScion x0 x1 s) := by
  delta modScion
  refine Keeps.upd ?_ rfl
  assumption

theorem runScion_keeps {a : State} {x0 x1 x2 x3 x4 s} (h : Keeps a s) (h4 : ∀ y0 y1, Keeps a y1 → Keeps a (x4 y0 y1)) : Keeps a (runScion x0 x1 x2 x3 x4 s) := by
  delta runScion
  split
  · refine advance_keeps ?_
    assumption
  · refine runDesc_keeps ?_ ?_
    · assumption
    assumption
  · refine runDesc_keeps ?_ ?_
    · assumption
    assumption

theorem newEpoch_keeps {a : State} {x0 s} (h : Keeps a s) : Keeps a (newEpoch x0 s) := by
  delta newEpoch
  refine Keeps.foldl ?_ fun _ _ _ => ?_
  · assumption
  refine modDrc_keeps ?_
  assumption

theorem partCreateBody_keeps {a : State} {x0 s} (h : Keeps a s) : Keeps a (partCreateBody x0 s) := by
  delta partCreateBody
  extract_lets -merge +onlyGivenNames l0_0 l0_1 l0_2 l0_3 l0_4 l0_5
  clear_value l0_0
  clear_value l0_1
  subst l0_2
  try dsimp -zeta -zetaHave -zetaUnused -iota -proj only
  clear_value l0_3
  have h0_4 : Keeps a l0_4 := by
    subst l0_4
    refine modPart_keeps0 ?_ fun _ => rfl
    refine Keeps.upd ?_ rfl
    assumption
  clear_value l0_4
  have h0_5 : Keeps a l0_5 := by
    subst l0_5
    refine newEpoch_keeps ?_
    assumption
  clear_value l0_5
  refine finishOk_keeps ?_
  refine changed_keeps ?_
  refine record_keeps ?_
  assumption

theorem doPartCreate_keeps {a : State} {x0 x1 s} (h : Keeps a s) : Keeps a (doPartCreate x0 x1 s) := by
  delta doPartCreate
  refine runScion_keeps ?_ ?_
  · assumption
  intro _ _ _
  refine partCreateBody_keeps ?_
  assumption

theorem doCtxCreate_keeps {a : State} {x0 x1 s} (h : Keeps a s) : Keeps a (doCtxCreate x0 x1 s) := by
  delta doCtxCreate
  refine runDesc_keeps ?_ ?_
  · assumption
  intro _ _ _
  extract_lets -merge +onlyGivenNames l3_0 l3_1
  have h3_0 : Keeps a l3_0 := by
    subst l3_0
    refine freeSlot_keeps ?_
    assumption
  clear_value l3_0
  have h3_1 : Keeps a l3_1 := by
    subst l3_1
    refine modCtx_keeps ?_
    assumption
  clear_value l3_1
  refine finishOk_keeps ?_
  refine modPart_keeps ?_ fun _ => rfl
  assumption

theorem destroyForced_keeps {a : State} {x0 x1 x2 s} (h : Keeps a s) : Keeps a (destroyForced x0 x1 x2 s) := by
  delta destroyForced
  extract_lets -merge +onlyGivenNames l0_0 l0_1 l0_2 l0_3 l0_4 l0_5 l0_6
  clear_value l0_0
  have h0_1 : Keeps a l0_1 := by
    subst l0_1
    refine stopClock_keeps ?_
    assumption
  clear_value l0_1
  have h0_2 : Keeps a l0_2 := by
    subst l0_2
    refine stopContext_keeps ?_
    assumption
  clear_value l0_2
  have h0_3 : Keeps a l0_3 := by
    subst l0_3
    refine recStop_keeps ?_
    refine recFinish_keeps ?_
    assumption
  clear_value l0_3
  have h0_4 : Keeps a l0_4 := by
    subst l0_4
    split
    · refine swatchResult_keeps ?_
      assumption
    · assumption
  clear_value l0_4
  have h0_5 : Keeps a l0_5 := by
    subst l0_5
    refine freeSlot_keeps ?_
    assumption
  clear_value l0_5
  clear_value l0_6
  refine Keeps.ite (fun _ => ?_) (fun _ => ?_)
  · assumption
  refine Keeps.foldl ?_ fun _ _ _ => ?_
  · assumption
  refine finish_keeps ?_
  assumption

theorem ctxDestroyBody_keeps {a : State} {x0 s} (h : Keeps a s) : Keeps a (ctxDestroyBody x0 s) := by
  delta ctxDestroyBody
  extract_lets -merge +onlyGivenNames l0_0 l0_1
  clear_value l0_0
  clear_value l0_1
  refine Keeps.ite (fun _ => ?_) (fun _ => ?_)
  · refine finishOk_keeps ?_
    refine freeSlot_keeps ?_
    assumption
  refine Keeps.ite (fun _ => ?_) (fun _ => ?_)
  · refine finishOk_keeps ?_
    refine destroyForced_keeps ?_
    assumption
  refine settleDestroy_keeps ?_
  refine modCtx_keeps ?_
  assumption

theorem doCtxDestroy_keeps {a : State} {x0 x1 s} (h : Keeps a s) : Keeps a (doCtxDestroy x0 x1 s) := by
  delta doCtxDestroy
  refine runDesc_keeps ?_ ?_
  · assumption
  intro _ _ _
  refine ctxDestroyBody_keeps ?_
  assumption

theorem firstZero_keeps {a : State} {x0 s} (h : Keeps a s) : Keeps a (firstZero x0 s) := by
  delta firstZero
  refine Keeps.ite (fun _ => ?_) (fun _ => ?_)
  · assumption
  extract_lets -merge +onlyGivenNames l2_0
  have h2_0 : Keeps a l2_0 := by
    subst l2_0
    refine zeroGranule_keeps ?_
    assumption
  clear_value l2_0
  refine Keeps.upd ?_ rfl
  assumption

/-- An entry that says more than the default is listed. -/
theorem tabGet_mem {α : Type} {d : Nat → α} {t : Tab α} {k : Nat} (h : tabGet d t k ≠ d k) : (k, tabGet d t k) ∈ t := by
  induction t with
  | nil => exact absurd rfl h
  | cons e r ih =>
    obtain ⟨j, v⟩ := e
    by_cases h1 : k = j
    · subst h1
      simp [tabGet]
    · by_cases h2 : k < j
      · simp [tabGet, h1, h2] at h
      · simp only [tabGet, h1, h2, ↓reduceIte] at h ⊢
        exact List.mem_cons_of_mem _ (ih h)

/-- No other partition maps a granule of `[g, g + n)`. -/
def Free (s : State) (p g n : Nat) : Prop :=
  ∀ q j e, q ≠ p → granAt s q j = some e → e.dev < g ∨ g + n ≤ e.dev

/-- What R88 checks of the device granules leaves them free for the partition. -/
theorem devGranulesOk_free {s : State} {p g n : Nat} (h : devGranulesOk s p g n = true) : Free s p g n := by
  intro q j e hq he
  simp only [devGranulesOk, Bool.and_eq_true, List.all_eq_true] at h
  have hp := h.2
  have hne : getPart s q ≠ dPart q := by
    intro hx
    rw [granAt, hx] at he
    simp [dPart, tabGet] at he
  have hm : (q, getPart s q) ∈ s.prt.parts := tabGet_mem hne
  have hx := hp _ hm
  simp only [hq, decide_false, Bool.false_or, List.all_eq_true] at hx
  have hj : (j, some e) ∈ (getPart s q).gmap := by
    have h1 : tabGet (fun _ => none) (getPart s q).gmap j ≠ none := by
      intro hn
      rw [granAt, hn] at he
      simp at he
    have h2 := tabGet_mem (d := fun _ => none) h1
    rw [granAt] at he
    rwa [he] at h2
  have hy := hx _ hj
  simpa using hy

theorem mapOne_granAt {s : State} {p i g q j : Nat} {r w : Bool} (hs : Safe s) (hq : q ≠ p) :
    granAt (mapOne p i g r w s) q j = granAt s q j := by
  unfold mapOne firstZero
  split <;> simp only [granAt] <;> congr 1
  · exact congrArg Part.gmap ((getPart_modPart hs.maps.1).trans (if_neg hq))
  · exact congrArg Part.gmap ((getPart_modPart hs.maps.1).trans (if_neg hq))

theorem mapOne_keepsOf {a s : State} {p i g : Nat} {r w : Bool} (h : Keeps a s) (hf : Safe a → Free s p g 1) :
    Keeps a (mapOne p i g r w s) := by
  unfold mapOne
  refine firstZero_keeps (modPart_keepsOf h fun ha hs => modPart_safe hs (tabSet_wf (hs.maps.2 p)) ?_)
  intro k e he q j f hq hf'
  have hw : tabWf (fun _ => (none : Option Granule)) (getPart s p).gmap = true := hs.maps.2 p
  have he' : tabGet (fun _ => none) (tabSet (fun _ => none) (getPart s p).gmap i (some { dev := g, read := r, write := w })) k
      = some e := he
  rw [tabGet_set_from hw] at he'
  split at he'
  · simp only [Option.some.injEq] at he'
    subst he'
    have := hf ha q j f hq hf'
    simp only
    omega
  · intro hd
    exact hq (hs.isolated p q k j e f he' hf' hd).symm

theorem mapFold_keeps {a s : State} {p i g n : Nat} {r w : Bool} {l : List Nat} (h : Keeps a s)
    (hf : Safe a → Free s p g n) (hl : ∀ x ∈ l, x < n) :
    Keeps a (l.foldl (fun s x => mapOne p (i + x) (g + x) r w s) s) := by
  induction l generalizing s with
  | nil => exact h
  | cons x l ih =>
    have hx := hl x List.mem_cons_self
    refine ih (mapOne_keepsOf h fun ha q j e hq he => ?_) (fun ha q j e hq he => ?_)
      fun y hy => hl y (List.mem_cons_of_mem _ hy)
    · have := hf ha q j e hq he
      omega
    · rw [mapOne_granAt (h.safe ha) hq] at he
      exact hf ha q j e hq he

theorem memMapBody_keepsOf {a s : State} {d : Desc} (h : Keeps a s)
    (hf : Safe a → Free s (d.u 8 1) (d.u 24 8 / granuleBytes) (d.u 32 4)) : Keeps a (memMapBody d s) := by
  unfold memMapBody
  exact finishOk_keeps (changed_keeps (mapFold_keeps h hf fun x hx => List.mem_range.mp hx))

/-- A descriptor whose body keeps all this under what its check has found. -/
theorem runDesc_keepsOf {a s : State} {t id op : Nat} {check : State → Desc → Option Refused} {body : Desc → State → State}
    (h : Keeps a s) (hb : ∀ d s, check s d = none → Keeps a s → Keeps a (body d (startDesc id s))) :
    Keeps a (runDesc t id op check body s) := by
  have h1 : Keeps a (advance t s) := advance_keeps h
  unfold runDesc
  simp only
  split
  · exact h1
  · split
    · refine settle_keeps ?_
      split
      · exact finish_keeps h1
      · split
        · exact finish_keeps h1
        · exact hb _ _ ‹_› h1
    · exact h1

theorem firstOf_none {l : List (Bool × Refused)} (h : firstOf l = none) : ∀ x ∈ l, x.1 = false := by
  intro x hx
  have : l.find? (·.1) = none := by simpa [firstOf] using h
  simpa using List.find?_eq_none.mp this x hx

theorem memMapCheck_free {s : State} {d : Desc} (h : memMapCheck s d = none) :
    Free s (d.u 8 1) (d.u 24 8 / granuleBytes) (d.u 32 4) := by
  have := firstOf_none h (!devGranulesOk s (d.u 8 1) (d.u 24 8 / granuleBytes) (d.u 32 4), bad 24) (by simp)
  exact devGranulesOk_free (by simpa using this)

theorem doMemMap_keeps {a s : State} {t id : Nat} (h : Keeps a s) : Keeps a (doMemMap t id s) := by
  unfold doMemMap runScion
  split
  · split
    · exact advance_keeps h
    · exact runDesc_keepsOf h fun d s hc => by simp at hc
    · exact runDesc_keepsOf h fun d s hc hs => memMapBody_keepsOf (startDesc_keeps hs) fun _ => memMapCheck_free hc
  · exact advance_keeps h

theorem unmapHeels_keeps {a : State} {x0 x1 x2 s} (h : Keeps a s) : Keeps a (unmapHeels x0 x1 x2 s) := by
  delta unmapHeels
  refine Keeps.foldl ?_ fun _ _ _ => ?_
  · assumption
  extract_lets -merge +onlyGivenNames l2_0 l2_1
  clear_value l2_0
  clear_value l2_1
  refine Keeps.ite (fun _ => ?_) (fun _ => ?_)
  · refine teardown_keeps ?_
    assumption
  assumption

theorem unmapPolicy_keeps {a : State} {x0 x1 x2 s} (h : Keeps a s) : Keeps a (unmapPolicy x0 x1 x2 s) := by
  delta unmapPolicy
  split
  · assumption
  · refine Keeps.ite (fun _ => ?_) (fun _ => ?_)
    · refine record_keeps ?_
      refine modPart_keeps ?_ fun _ => rfl
      assumption
    assumption

theorem unmapGranules_keeps {a s : State} {p g n : Nat} (h : Keeps a s) : Keeps a (unmapGranules p g n s) := by
  unfold unmapGranules
  simp only
  refine Keeps.foldl (modPart_keepsOf h fun _ hs => modPart_safe hs (tabErase_wf (hs.maps.2 p)) ?_)
    fun _ _ h => zeroGranule_keeps h
  intro k e he q j f hq hf' hd
  have hw : tabWf (fun _ => (none : Option Granule)) (getPart s p).gmap = true := hs.maps.2 p
  have he' : tabGet (fun _ => none) (tabErase (getPart s p).gmap g n) k = some e := he
  rw [tabGet_erase hw] at he'
  split at he'
  · simp at he'
  · exact hq (hs.isolated p q k j e f he' hf' hd).symm

theorem memUnmapBody_keeps {a : State} {x0 s} (h : Keeps a s) : Keeps a (memUnmapBody x0 s) := by
  delta memUnmapBody
  extract_lets -merge +onlyGivenNames l0_0 l0_1 l0_2 l0_3 l0_4
  clear_value l0_0
  clear_value l0_1
  clear_value l0_2
  have h0_3 : Keeps a l0_3 := by
    subst l0_3
    refine unmapHeels_keeps ?_
    assumption
  clear_value l0_3
  have h0_4 : Keeps a l0_4 := by
    subst l0_4
    refine unmapPolicy_keeps ?_
    assumption
  clear_value l0_4
  refine finishOk_keeps ?_
  refine changed_keeps ?_
  refine unmapGranules_keeps ?_
  assumption

theorem doMemUnmap_keeps {a : State} {x0 x1 s} (h : Keeps a s) : Keeps a (doMemUnmap x0 x1 s) := by
  delta doMemUnmap
  refine Keeps.ite (fun _ => ?_) (fun _ => ?_)
  · refine runScion_keeps ?_ ?_
    · assumption
    intro _ _ _
    refine memUnmapBody_keeps ?_
    assumption
  refine advance_keeps ?_
  assumption

theorem doQuantumExpiry_keeps {a : State} {x0 x1 x2 s} (h : Keeps a s) : Keeps a (doQuantumExpiry x0 x1 x2 s) := by
  delta doQuantumExpiry
  extract_lets -merge +onlyGivenNames l0_0 l0_1
  have h0_0 : Keeps a l0_0 := by
    subst l0_0
    refine advance_keeps ?_
    assumption
  clear_value l0_0
  clear_value l0_1
  refine Keeps.ite (fun _ => ?_) (fun _ => ?_)
  · refine settle_keeps ?_
    refine heelNow_keeps ?_
    assumption
  assumption

theorem doBudgetExpiry_keeps {a : State} {x0 x1 x2 s} (h : Keeps a s) : Keeps a (doBudgetExpiry x0 x1 x2 s) := by
  delta doBudgetExpiry
  extract_lets -merge +onlyGivenNames l0_0 l0_1
  have h0_0 : Keeps a l0_0 := by
    subst l0_0
    refine advance_keeps ?_
    assumption
  clear_value l0_0
  clear_value l0_1
  split
  · refine Keeps.ite (fun _ => ?_) (fun _ => ?_)
    · refine settle_keeps ?_
      refine coreFault_keeps ?_
      assumption
    assumption
  · assumption

theorem doSemaphoreTimeout_keeps {a : State} {x0 x1 x2 s} (h : Keeps a s) : Keeps a (doSemaphoreTimeout x0 x1 x2 s) := by
  delta doSemaphoreTimeout
  extract_lets -merge +onlyGivenNames l0_0
  have h0_0 : Keeps a l0_0 := by
    subst l0_0
    refine advance_keeps ?_
    assumption
  clear_value l0_0
  split
  · assumption
  · split
    · assumption
    · refine Keeps.ite (fun _ => ?_) (fun _ => ?_)
      · extract_lets -merge +onlyGivenNames l11_0
        have h11_0 : Keeps a l11_0 := by
          subst l11_0
          refine answer_keeps ?_
          refine dropWaiting_keeps ?_
          assumption
        clear_value l11_0
        refine settle_keeps ?_
        refine Keeps.ite (fun _ => ?_) (fun _ => ?_)
        · refine serveSem_keeps ?_
          assumption
        assumption
      assumption

theorem doHoldBudgetExpiry_keeps {a : State} {x0 x1 x2 s} (h : Keeps a s) : Keeps a (doHoldBudgetExpiry x0 x1 x2 s) := by
  delta doHoldBudgetExpiry
  extract_lets -merge +onlyGivenNames l0_0
  have h0_0 : Keeps a l0_0 := by
    subst l0_0
    refine advance_keeps ?_
    assumption
  clear_value l0_0
  split
  · assumption
  · refine Keeps.ite (fun _ => ?_) (fun _ => ?_)
    · extract_lets -merge +onlyGivenNames l9_0 l9_1
      have h9_0 : Keeps a l9_0 := by
        subst l9_0
        refine record_keeps ?_
        assumption
      clear_value l9_0
      have h9_1 : Keeps a l9_1 := by
        subst l9_1
        refine modPart_keeps ?_ fun _ => rfl
        assumption
      clear_value l9_1
      refine settle_keeps ?_
      refine teardown_keeps ?_
      assumption
    assumption

theorem mirrorLost_keeps {a : State} {s} (h : Keeps a s) : Keeps a (mirrorLost s) := by
  delta mirrorLost
  refine Keeps.ite (fun _ => ?_) (fun _ => ?_)
  · refine event_keeps ?_
    refine prtErr_keeps ?_
    refine Keeps.upd ?_ rfl
    assumption
  assumption

theorem doMirrorApply_keeps {a : State} {x0 s} (h : Keeps a s) : Keeps a (doMirrorApply x0 s) := by
  delta doMirrorApply
  extract_lets -merge +onlyGivenNames l0_0 l0_1 l0_2
  have h0_0 : Keeps a l0_0 := by
    subst l0_0
    refine advance_keeps ?_
    assumption
  clear_value l0_0
  clear_value l0_1
  subst l0_2
  try dsimp -zeta -zetaHave -zetaUnused -iota -proj only
  refine Keeps.ite (fun _ => ?_) (fun _ => ?_)
  · refine Keeps.ite (fun _ => ?_) (fun _ => ?_)
    · refine mirrorLost_keeps ?_
      refine injUse_keeps ?_
      assumption
    refine Keeps.upd ?_ rfl
    assumption
  assumption

theorem doMirrorLost_keeps {a : State} {x0 s} (h : Keeps a s) : Keeps a (doMirrorLost x0 s) := by
  delta doMirrorLost
  extract_lets -merge +onlyGivenNames l0_0
  have h0_0 : Keeps a l0_0 := by
    subst l0_0
    refine advance_keeps ?_
    assumption
  clear_value l0_0
  refine Keeps.ite (fun _ => ?_) (fun _ => ?_)
  · refine mirrorLost_keeps ?_
    assumption
  assumption

end Sys2Proof.Machine
end

