-- ==== Sys2Proof/Laws/KeepsIngest.lean ====
section
/-!
SUPPORT. Laws/KeepsIngest.lean: the operations of Machine/Ingest.lean keep what `Keeps` says (Laws/Keeps.lean).
-/
namespace Sys2Proof.Machine

theorem modStr_keeps {a : State} {x0 x1 x2 s} (h : Keeps a s) : Keeps a (modStr x0 x1 x2 s) := by
  delta modStr
  refine modIng_keeps ?_
  assumption

theorem ingErr_keeps {a : State} {x0 x1 x2 s} (h : Keeps a s) : Keeps a (ingErr x0 x1 x2 s) := by
  delta ingErr
  refine stick_keeps ?_
  assumption

theorem tellIslands_keeps {a : State} {x0 x1 x2 x3 s} (h : Keeps a s) : Keeps a (tellIslands x0 x1 x2 x3 s) := by
  delta tellIslands
  refine Keeps.foldl ?_ fun _ _ _ => ?_
  · assumption
  refine modIsl_keeps ?_
  assumption

theorem freshen_keeps {a : State} {x0 x1 x2 x3 s} (h : Keeps a s) : Keeps a (freshen x0 x1 x2 x3 s) := by
  delta freshen
  extract_lets -merge +onlyGivenNames l0_0 l0_1 l0_2 l0_3 l0_4
  clear_value l0_0
  clear_value l0_1
  clear_value l0_2
  have h0_3 : Keeps a l0_3 := by
    subst l0_3
    refine modStr_keeps ?_
    assumption
  clear_value l0_3
  have h0_4 : Keeps a l0_4 := by
    subst l0_4
    refine eventFor_keeps ?_
    assumption
  clear_value l0_4
  refine Keeps.ite (fun _ => ?_) (fun _ => ?_)
  · assumption
  refine Keeps.ite (fun _ => ?_) (fun _ => ?_)
  · assumption
  refine Keeps.ite (fun _ => ?_) (fun _ => ?_)
  · refine Keeps.ite (fun _ => ?_) (fun _ => ?_)
    · refine tellIslands_keeps ?_
      assumption
    assumption
  refine Keeps.ite (fun _ => ?_) (fun _ => ?_)
  · refine tellIslands_keeps ?_
    assumption
  refine Keeps.ite (fun _ => ?_) (fun _ => ?_)
  · refine tellIslands_keeps ?_
    assumption
  assumption

theorem writeCopy_keeps {a : State} {x0 x1 x2 s} (h : Keeps a s) : Keeps a (writeCopy x0 x1 x2 s).2 := by
  delta writeCopy
  extract_lets -merge +onlyGivenNames l0_0 l0_1 l0_2 l0_3
  clear_value l0_0
  clear_value l0_1
  clear_value l0_2
  clear_value l0_3
  refine Keeps.ite2 (fun _ => ?_) (fun _ => ?_)
  · refine writePart_keeps ?_
    assumption
  refine Keeps.pair ?_
  assumption

theorem slotDone_keeps {a : State} {x0 x1 x2 x3 s} (h : Keeps a s.2) : Keeps a (slotDone x0 x1 x2 x3 s) := by
  delta slotDone
  refine Keeps.ite (fun _ => ?_) (fun _ => ?_)
  · refine eventFor_keeps ?_
    refine ingErr_keeps ?_
    assumption
  assumption

theorem writeSlot_keeps {a : State} {x0 x1 x2 x3 x4 x5 x6 s} (h : Keeps a s) : Keeps a (writeSlot x0 x1 x2 x3 x4 x5 x6 s) := by
  delta writeSlot
  extract_lets -merge +onlyGivenNames l0_0 l0_1 l0_2 l0_3 l0_4
  clear_value l0_0
  clear_value l0_1
  clear_value l0_2
  clear_value l0_3
  clear_value l0_4
  refine slotDone_keeps ?_
  refine writePart_keeps ?_
  assumption

theorem writeRecord_keeps {a : State} {x0 x1 x2 x3 x4 x5 s} (h : Keeps a s) : Keeps a (writeRecord x0 x1 x2 x3 x4 x5 s) := by
  delta writeRecord
  extract_lets -merge +onlyGivenNames l0_0 l0_1 l0_2
  clear_value l0_0
  have h0_1 : Keeps a l0_1.2 := by
    subst l0_1
    refine writeCopy_keeps ?_
    assumption
  clear_value l0_1
  have h0_2 : Keeps a l0_2 := by
    subst l0_2
    refine Keeps.ite (fun _ => ?_) (fun _ => ?_)
    · assumption
    refine writeSlot_keeps ?_
    assumption
  clear_value l0_2
  refine settle_keeps ?_
  refine semOp_keeps ?_
  assumption

theorem modSrc_keeps {a : State} {x0 x1 x2 s} (h : Keeps a s) : Keeps a (modSrc x0 x1 x2 s) := by
  delta modSrc
  refine modFus_keeps ?_
  assumption

theorem fusDiscard_keeps {a : State} {x0 x1 x2 x3 s} (h : Keeps a s) : Keeps a (fusDiscard x0 x1 x2 x3 s) := by
  delta fusDiscard
  extract_lets -merge +onlyGivenNames l0_0 l0_1 l0_2
  clear_value l0_0
  clear_value l0_1
  have h0_2 : Keeps a l0_2 := by
    subst l0_2
    refine Keeps.foldl ?_ fun _ _ _ => ?_
    · assumption
    refine modSrc_keeps ?_
    assumption
  clear_value l0_2
  refine Keeps.ite (fun _ => ?_) (fun _ => ?_)
  · refine modStr_keeps ?_
    assumption
  assumption

theorem endFrame_keeps {a : State} {x0 x1 x2 x3 s} (h : Keeps a s) : Keeps a (endFrame x0 x1 x2 x3 s) := by
  delta endFrame
  extract_lets -merge +onlyGivenNames l0_0 l0_1 l0_2
  clear_value l0_0
  have h0_1 : Keeps a l0_1 := by
    subst l0_1
    refine modStr_keeps ?_
    assumption
  clear_value l0_1
  clear_value l0_2
  split
  · assumption
  · refine Keeps.ite (fun _ => ?_) (fun _ => ?_)
    · assumption
    extract_lets -merge +onlyGivenNames l12_0 l12_1 l12_2 l12_3 l12_4 l12_5 l12_6 l12_7 l12_8 l12_9 l12_10
    clear_value l12_0
    clear_value l12_1
    have h12_2 : Keeps a l12_2 := by
      subst l12_2
      split
      · refine eventFor_keeps ?_
        refine ingErr_keeps ?_
        assumption
      · assumption
    clear_value l12_2
    clear_value l12_3
    clear_value l12_4
    clear_value l12_5
    clear_value l12_6
    have h12_7 : Keeps a l12_7 := by
      subst l12_7
      refine modStr_keeps ?_
      assumption
    clear_value l12_7
    clear_value l12_8
    have h12_9 : Keeps a l12_9 := by
      subst l12_9
      refine freshen_keeps ?_
      assumption
    clear_value l12_9
    have h12_10 : Keeps a l12_10 := by
      subst l12_10
      refine fusDiscard_keeps ?_
      assumption
    clear_value l12_10
    refine writeRecord_keeps ?_
    assumption

theorem startFrame_keeps {a : State} {x0 x1 x2 s} (h : Keeps a s) : Keeps a (startFrame x0 x1 x2 s) := by
  delta startFrame
  extract_lets -merge +onlyGivenNames l0_0 l0_1 l0_2 l0_3 l0_4 l0_5 l0_6 l0_7 l0_8 l0_9 l0_10 l0_11 l0_12 l0_13 l0_14 l0_15 l0_16 l0_17 l0_18 l0_19
  clear_value l0_0
  have h0_1 : Keeps a l0_1 := by
    subst l0_1
    refine endFrame_keeps ?_
    assumption
  clear_value l0_1
  have h0_2 : Keeps a l0_2 := by
    subst l0_2
    refine Keeps.foldl ?_ fun _ _ _ => ?_
    · assumption
    refine commit_keeps ?_
    assumption
  clear_value l0_2
  clear_value l0_3
  clear_value l0_4
  clear_value l0_5
  clear_value l0_6
  clear_value l0_7
  clear_value l0_8
  clear_value l0_9
  clear_value l0_10
  subst l0_11
  try dsimp -zeta -zetaHave -zetaUnused -iota -proj only
  clear_value l0_12
  have h0_13 : Keeps a l0_13 := by
    subst l0_13
    refine Keeps.ite (fun _ => ?_) (fun _ => ?_)
    · refine injUse_keeps ?_
      assumption
    assumption
  clear_value l0_13
  have h0_14 : Keeps a l0_14 := by
    subst l0_14
    refine modStr_keeps ?_
    assumption
  clear_value l0_14
  clear_value l0_15
  have h0_16 : Keeps a l0_16 := by
    subst l0_16
    refine modStr_keeps ?_
    assumption
  clear_value l0_16
  have h0_17 : Keeps a l0_17 := by
    subst l0_17
    refine modStr_keeps ?_
    assumption
  clear_value l0_17
  have h0_18 : Keeps a l0_18 := by
    subst l0_18
    refine eventFor_keeps ?_
    refine ingErr_keeps ?_
    assumption
  clear_value l0_18
  have h0_19 : Keeps a l0_19 := by
    subst l0_19
    refine freshen_keeps ?_
    assumption
  clear_value l0_19
  refine Keeps.ite (fun _ => ?_) (fun _ => ?_)
  · assumption
  refine writeRecord_keeps ?_
  assumption

theorem addLine_keeps {a : State} {x0 x1 x2 x3 x4 x5 s} (h : Keeps a s) : Keeps a (addLine x0 x1 x2 x3 x4 x5 s) := by
  delta addLine
  extract_lets -merge +onlyGivenNames l0_0 l0_1 l0_2
  clear_value l0_0
  clear_value l0_1
  clear_value l0_2
  split
  · assumption
  · refine Keeps.ite (fun _ => ?_) (fun _ => ?_)
    · refine endFrame_keeps ?_
      assumption
    extract_lets -merge +onlyGivenNames l9_0 l9_1 l9_2 l9_3 l9_4 l9_5 l9_6
    clear_value l9_0
    clear_value l9_1
    clear_value l9_2
    clear_value l9_3
    clear_value l9_4
    clear_value l9_5
    have h9_6 : Keeps a l9_6 := by
      subst l9_6
      refine Keeps.ite (fun _ => ?_) (fun _ => ?_)
      · refine ingErr_keeps ?_
        assumption
      assumption
    clear_value l9_6
    refine modStr_keeps ?_
    assumption

theorem csiLine_keeps {a : State} {x0 x1 x2 x3 x4 x5 x6 x7 s} (h : Keeps a s) : Keeps a (csiLine x0 x1 x2 x3 x4 x5 x6 x7 s) := by
  delta csiLine
  split
  · refine modIng_keeps ?_
    assumption
  · refine Keeps.ite (fun _ => ?_) (fun _ => ?_)
    · refine modIng_keeps ?_
      assumption
    refine Keeps.ite (fun _ => ?_) (fun _ => ?_)
    · refine Keeps.ite (fun _ => ?_) (fun _ => ?_)
      · assumption
      refine injUse_keeps ?_
      assumption
    extract_lets -merge +onlyGivenNames l11_0 l11_1 l11_2
    clear_value l11_0
    clear_value l11_1
    have h11_2 : Keeps a l11_2 := by
      subst l11_2
      refine Keeps.ite (fun _ => ?_) (fun _ => ?_)
      · refine injUse_keeps ?_
        assumption
      assumption
    clear_value l11_2
    refine addLine_keeps ?_
    assumption

theorem doCsiLongPacket_keeps {a : State} {x0 x1 x2 x3 x4 x5 x6 x7 x8 x9 s} (h : Keeps a s) : Keeps a (doCsiLongPacket x0 x1 x2 x3 x4 x5 x6 x7 x8 x9 s) := by
  delta doCsiLongPacket
  extract_lets -merge +onlyGivenNames l0_0 l0_1 l0_2
  have h0_0 : Keeps a l0_0 := by
    subst l0_0
    refine advance_keeps ?_
    assumption
  clear_value l0_0
  clear_value l0_1
  have h0_2 : Keeps a l0_2 := by
    subst l0_2
    refine Keeps.ite (fun _ => ?_) (fun _ => ?_)
    · refine injUse_keeps ?_
      assumption
    assumption
  clear_value l0_2
  refine Keeps.ite (fun _ => ?_) (fun _ => ?_)
  · refine Keeps.ite (fun _ => ?_) (fun _ => ?_)
    · refine event_keeps ?_
      refine ingErr_keeps ?_
      assumption
    refine csiLine_keeps ?_
    assumption
  assumption

theorem doFrameStart_keeps {a : State} {x0 x1 x2 x3 x4 s} (h : Keeps a s) : Keeps a (doFrameStart x0 x1 x2 x3 x4 s) := by
  delta doFrameStart
  extract_lets -merge +onlyGivenNames l0_0
  have h0_0 : Keeps a l0_0 := by
    subst l0_0
    refine advance_keeps ?_
    assumption
  clear_value l0_0
  refine Keeps.ite (fun _ => ?_) (fun _ => ?_)
  · split
    · assumption
    · refine Keeps.ite (fun _ => ?_) (fun _ => ?_)
      · refine injSpend_keeps ?_
        refine modStr_keeps ?_
        assumption
      refine Keeps.ite (fun _ => ?_) (fun _ => ?_)
      · refine endFrame_keeps ?_
        assumption
      refine startFrame_keeps ?_
      assumption
  assumption

theorem doFrameEnd_keeps {a : State} {x0 x1 x2 x3 s} (h : Keeps a s) : Keeps a (doFrameEnd x0 x1 x2 x3 s) := by
  delta doFrameEnd
  extract_lets -merge +onlyGivenNames l0_0
  have h0_0 : Keeps a l0_0 := by
    subst l0_0
    refine advance_keeps ?_
    assumption
  clear_value l0_0
  refine Keeps.ite (fun _ => ?_) (fun _ => ?_)
  · split
    · assumption
    · extract_lets -merge +onlyGivenNames l9_0
      clear_value l9_0
      refine Keeps.ite (fun _ => ?_) (fun _ => ?_)
      · assumption
      split
      · assumption
      · refine endFrame_keeps ?_
        assumption
  assumption

theorem ethTake_keeps {a : State} {x0 x1 x2 x3 x4 s} (h : Keeps a s) : Keeps a (ethTake x0 x1 x2 x3 x4 s) := by
  delta ethTake
  extract_lets -merge +onlyGivenNames l0_0 l0_1
  have h0_0 : Keeps a l0_0 := by
    subst l0_0
    split
    · assumption
    · refine Keeps.ite (fun _ => ?_) (fun _ => ?_)
      · assumption
      refine startFrame_keeps ?_
      assumption
  clear_value l0_0
  have h0_1 : Keeps a l0_1 := by
    subst l0_1
    refine addLine_keeps ?_
    assumption
  clear_value l0_1
  split
  · refine Keeps.ite (fun _ => ?_) (fun _ => ?_)
    · refine endFrame_keeps ?_
      assumption
    assumption
  · assumption

theorem ethLine_keeps {a : State} {x0 x1 x2 x3 x4 s} (h : Keeps a s) : Keeps a (ethLine x0 x1 x2 x3 x4 s) := by
  delta ethLine
  extract_lets -merge +onlyGivenNames l0_0
  clear_value l0_0
  refine Keeps.ite (fun _ => ?_) (fun _ => ?_)
  · refine Keeps.ite (fun _ => ?_) (fun _ => ?_)
    · assumption
    refine injUse_keeps ?_
    assumption
  refine Keeps.ite (fun _ => ?_) (fun _ => ?_)
  · refine Keeps.ite (fun _ => ?_) (fun _ => ?_)
    · refine injSpend_keeps ?_
      refine modStr_keeps ?_
      assumption
    refine modStr_keeps ?_
    assumption
  refine ethTake_keeps ?_
  assumption

theorem doEthFrame_keeps {a : State} {x0 x1 x2 x3 x4 x5 x6 x7 x8 x9 x10 x11 s} (h : Keeps a s) : Keeps a (doEthFrame x0 x1 x2 x3 x4 x5 x6 x7 x8 x9 x10 x11 s) := by
  delta doEthFrame
  extract_lets -merge +onlyGivenNames l0_0 l0_1 l0_2 l0_3 l0_4
  have h0_0 : Keeps a l0_0 := by
    subst l0_0
    refine advance_keeps ?_
    assumption
  clear_value l0_0
  clear_value l0_1
  have h0_2 : Keeps a l0_2 := by
    subst l0_2
    refine Keeps.ite (fun _ => ?_) (fun _ => ?_)
    · refine injUse_keeps ?_
      assumption
    assumption
  clear_value l0_2
  subst l0_3
  try dsimp -zeta -zetaHave -zetaUnused -iota -proj only
  clear_value l0_4
  refine Keeps.ite (fun _ => ?_) (fun _ => ?_)
  · refine Keeps.ite (fun _ => ?_) (fun _ => ?_)
    · refine event_keeps ?_
      assumption
    refine Keeps.ite (fun _ => ?_) (fun _ => ?_)
    · refine event_keeps ?_
      assumption
    split
    · refine ethLine_keeps ?_
      refine Keeps.ite (fun _ => ?_) (fun _ => ?_)
      · refine injUse_keeps ?_
        assumption
      assumption
    · refine Keeps.ite (fun _ => ?_) (fun _ => ?_)
      · assumption
      refine event_keeps ?_
      assumption
  assumption

theorem doFrameGapExpiry_keeps {a : State} {x0 x1 x2 s} (h : Keeps a s) : Keeps a (doFrameGapExpiry x0 x1 x2 s) := by
  delta doFrameGapExpiry
  extract_lets -merge +onlyGivenNames l0_0 l0_1
  have h0_0 : Keeps a l0_0 := by
    subst l0_0
    refine advance_keeps ?_
    assumption
  clear_value l0_0
  have h0_1 : Keeps a l0_1 := by
    subst l0_1
    refine Keeps.ite (fun _ => ?_) (fun _ => ?_)
    · refine injUse_keeps ?_
      assumption
    assumption
  clear_value l0_1
  split
  · assumption
  · extract_lets -merge +onlyGivenNames l15_0
    clear_value l15_0
    refine Keeps.ite (fun _ => ?_) (fun _ => ?_)
    · refine endFrame_keeps ?_
      assumption
    assumption

theorem doMissingDeadline_keeps {a : State} {x0 x1 x2 s} (h : Keeps a s) : Keeps a (doMissingDeadline x0 x1 x2 s) := by
  delta doMissingDeadline
  extract_lets -merge +onlyGivenNames l0_0 l0_1
  have h0_0 : Keeps a l0_0 := by
    subst l0_0
    refine advance_keeps ?_
    assumption
  clear_value l0_0
  clear_value l0_1
  split
  · assumption
  · refine Keeps.ite (fun _ => ?_) (fun _ => ?_)
    · extract_lets -merge +onlyGivenNames l10_0
      have h10_0 : Keeps a l10_0 := by
        subst l10_0
        refine modStr_keeps ?_
        assumption
      clear_value l10_0
      refine freshen_keeps ?_
      assumption
    assumption

theorem clearStream_keeps {a : State} {x0 x1 s} (h : Keeps a s) : Keeps a (clearStream x0 x1 s) := by
  delta clearStream
  refine modStr_keeps ?_
  assumption

theorem unbindDone_keeps {a : State} {x0 x1 s} (h : Keeps a s) : Keeps a (unbindDone x0 x1 s) := by
  delta unbindDone
  extract_lets -merge +onlyGivenNames l0_0 l0_1
  clear_value l0_0
  have h0_1 : Keeps a l0_1 := by
    subst l0_1
    refine clearStream_keeps ?_
    assumption
  clear_value l0_1
  refine Keeps.ite (fun _ => ?_) (fun _ => ?_)
  · split
    · refine settle_keeps ?_
      refine finishOk_keeps ?_
      assumption
    · assumption
  assumption

theorem doFrameRelease_keeps {a : State} {x0 x1 x2 x3 s} (h : Keeps a s) : Keeps a (doFrameRelease x0 x1 x2 x3 s) := by
  delta doFrameRelease
  extract_lets -merge +onlyGivenNames l0_0
  have h0_0 : Keeps a l0_0 := by
    subst l0_0
    refine advance_keeps ?_
    assumption
  clear_value l0_0
  split
  · assumption
  · refine Keeps.ite (fun _ => ?_) (fun _ => ?_)
    · refine unbindDone_keeps ?_
      refine modStr_keeps ?_
      assumption
    assumption

theorem unbind_keeps {a : State} {x0 x1 s} (h : Keeps a s) : Keeps a (unbind x0 x1 s) := by
  delta unbind
  extract_lets -merge +onlyGivenNames l0_0 l0_1
  clear_value l0_0
  have h0_1 : Keeps a l0_1 := by
    subst l0_1
    refine Keeps.ite (fun _ => ?_) (fun _ => ?_)
    · assumption
    refine Keeps.ite (fun _ => ?_) (fun _ => ?_)
    · assumption
    refine tellIslands_keeps ?_
    refine eventFor_keeps ?_
    assumption
  clear_value l0_1
  refine modStr_keeps ?_
  assumption

theorem doStreamBind_keeps {a : State} {x0 x1 s} (h : Keeps a s) : Keeps a (doStreamBind x0 x1 s) := by
  delta doStreamBind
  refine runDesc_keeps ?_ ?_
  · assumption
  intro _ _ _
  extract_lets -merge +onlyGivenNames l3_0 l3_1 l3_2
  clear_value l3_0
  clear_value l3_1
  clear_value l3_2
  refine Keeps.ite (fun _ => ?_) (fun _ => ?_)
  · refine unbindDone_keeps ?_
    refine modStr_keeps ?_
    refine unbind_keeps ?_
    assumption
  refine finishOk_keeps ?_
  refine modStr_keeps ?_
  assumption

theorem unbindPart_keeps {a : State} {x0 s} (h : Keeps a s) : Keeps a (unbindPart x0 s) := by
  delta unbindPart
  refine Keeps.foldl ?_ fun _ _ _ => ?_
  · assumption
  refine Keeps.foldl ?_ fun _ _ _ => ?_
  · assumption
  refine Keeps.ite (fun _ => ?_) (fun _ => ?_)
  · extract_lets -merge +onlyGivenNames l5_0 l5_1 l5_2
    clear_value l5_0
    have h5_1 : Keeps a l5_1 := by
      subst l5_1
      refine Keeps.ite (fun _ => ?_) (fun _ => ?_)
      · assumption
      refine unbind_keeps ?_
      assumption
    clear_value l5_1
    have h5_2 : Keeps a l5_2 := by
      subst l5_2
      refine clearStream_keeps ?_
      assumption
    clear_value l5_2
    split
    · refine finishOk_keeps ?_
      assumption
    · assumption
  assumption

theorem setCorr_keeps {a : State} {x0 x1 s} (h : Keeps a s) : Keeps a (setCorr x0 x1 s) := by
  delta setCorr
  refine Keeps.ite (fun _ => ?_) (fun _ => ?_)
  · refine Keeps.upd ?_ rfl
    assumption
  refine Keeps.upd ?_ rfl
  assumption

theorem slew_keeps {a : State} {x0 x1 x2 x3 s} (h : Keeps a s) : Keeps a (slew x0 x1 x2 x3 s) := by
  delta slew
  extract_lets -merge +onlyGivenNames l0_0
  clear_value l0_0
  refine modIng_keeps ?_
  refine setCorr_keeps ?_
  assumption

theorem timeEvent_keeps {a : State} {x0 x1 x2 s} (h : Keeps a s) : Keeps a (timeEvent x0 x1 x2 s) := by
  delta timeEvent
  refine event_keeps ?_
  assumption

theorem doSyncReceived_keeps {a : State} {x0 x1 x2 x3 s} (h : Keeps a s) : Keeps a (doSyncReceived x0 x1 x2 x3 s) := by
  delta doSyncReceived
  extract_lets -merge +onlyGivenNames l0_0 l0_1 l0_2 l0_3 l0_4 l0_5 l0_6 l0_7 l0_8 l0_9 l0_10
  clear_value l0_0
  have h0_1 : Keeps a l0_1 := by
    subst l0_1
    refine advance_keeps ?_
    assumption
  clear_value l0_1
  clear_value l0_2
  subst l0_3
  try dsimp -zeta -zetaHave -zetaUnused -iota -proj only
  clear_value l0_4
  have h0_5 : Keeps a l0_5 := by
    subst l0_5
    refine Keeps.ite (fun _ => ?_) (fun _ => ?_)
    · assumption
    refine slew_keeps ?_
    assumption
  clear_value l0_5
  have h0_6 : Keeps a l0_6 := by
    subst l0_6
    refine Keeps.ite (fun _ => ?_) (fun _ => ?_)
    · refine timeEvent_keeps ?_
      assumption
    assumption
  clear_value l0_6
  clear_value l0_7
  clear_value l0_8
  clear_value l0_9
  have h0_10 : Keeps a l0_10 := by
    subst l0_10
    refine modIng_keeps ?_
    assumption
  clear_value l0_10
  refine Keeps.ite (fun _ => ?_) (fun _ => ?_)
  · refine Keeps.ite (fun _ => ?_) (fun _ => ?_)
    · refine timeEvent_keeps ?_
      assumption
    refine Keeps.ite (fun _ => ?_) (fun _ => ?_)
    · refine timeEvent_keeps ?_
      assumption
    assumption
  assumption

theorem doSyncTimeout_keeps {a : State} {x0 x1 s} (h : Keeps a s) : Keeps a (doSyncTimeout x0 x1 s) := by
  delta doSyncTimeout
  extract_lets -merge +onlyGivenNames l0_0
  have h0_0 : Keeps a l0_0 := by
    subst l0_0
    refine advance_keeps ?_
    assumption
  clear_value l0_0
  refine Keeps.ite (fun _ => ?_) (fun _ => ?_)
  · refine modIng_keeps ?_
    assumption
  assumption

theorem doTimeFollow_keeps {a : State} {x0 x1 s} (h : Keeps a s) : Keeps a (doTimeFollow x0 x1 s) := by
  delta doTimeFollow
  extract_lets -merge +onlyGivenNames l0_0 l0_1
  clear_value l0_0
  have h0_1 : Keeps a l0_1 := by
    subst l0_1
    refine advance_keeps ?_
    assumption
  clear_value l0_1
  refine Keeps.ite (fun _ => ?_) (fun _ => ?_)
  · refine modIng_keeps ?_
    refine slew_keeps ?_
    assumption
  refine modIng_keeps ?_
  assumption

theorem doTimeStep_keeps {a : State} {x0 x1 s} (h : Keeps a s) : Keeps a (doTimeStep x0 x1 s) := by
  delta doTimeStep
  extract_lets -merge +onlyGivenNames l0_0
  have h0_0 : Keeps a l0_0 := by
    subst l0_0
    refine advance_keeps ?_
    assumption
  clear_value l0_0
  refine Keeps.ite (fun _ => ?_) (fun _ => ?_)
  · split
    · refine Keeps.ite (fun _ => ?_) (fun _ => ?_)
      · extract_lets -merge +onlyGivenNames l9_0
        clear_value l9_0
        refine timeEvent_keeps ?_
        refine fldSet_keeps ?_
        refine setCorr_keeps ?_
        assumption
      refine ingErr_keeps ?_
      assumption
    · refine ingErr_keeps ?_
      assumption
  assumption

end Sys2Proof.Machine
end

