-- ==== Sys2Proof/Laws/KeepsSeedling.lean ====
section
/-!
SUPPORT. Laws/KeepsSeedling.lean: the operations of Machine/Seedling.lean keep what `Keeps` says (Laws/Keeps.lean).
-/
namespace Sys2Proof.Machine

theorem modEnt_keeps {a : State} {x0 x1 x2 s} (h : Keeps a s) : Keeps a (modEnt x0 x1 x2 s) := by
  delta modEnt
  refine modSdl_keeps ?_
  assumption

theorem sdlErr_keeps {a : State} {x0 x1 x2 s} (h : Keeps a s) : Keeps a (sdlErr x0 x1 x2 s) := by
  delta sdlErr
  refine stick_keeps ?_
  assumption

theorem sdlRead_keeps {a : State} {x0 x1 x2 s} (h : Keeps a s) : Keeps a (sdlRead x0 x1 x2 s).2 := by
  delta sdlRead
  split
  · rename_i hq
    have hk := Keeps.ofEq (a := a) (by
      refine readPart_keeps ?_
      assumption) hq
    refine Keeps.pair ?_
    assumption
  · rename_i hq
    have hk := Keeps.ofEq (a := a) (by
      refine readPart_keeps ?_
      assumption) hq
    refine Keeps.pair ?_
    assumption

theorem loadScales_keeps {a : State} {x0 x1 x2 x3 s} (h : Keeps a s) : Keeps a (loadScales x0 x1 x2 x3 s).2 := by
  induction x2 generalizing x0 x1 x3 s with
  | zero =>
    rw [loadScales.eq_1]
    refine Keeps.pair ?_
    assumption
  | succ n ih =>
    rw [loadScales.eq_2]
    split
    · rename_i hq
      have hk := Keeps.ofEq (a := a) (by
        refine Keeps.ite2 (fun _ => ?_) (fun _ => ?_)
        · refine Keeps.pair ?_
          assumption
        split
        · rename_i hq
          have hk := Keeps.ofEq (a := a) (by
            refine takeFree_keeps ?_
            assumption) hq
          refine Keeps.pair ?_
          assumption) hq
      split
      · rename_i hq
        have hk := Keeps.ofEq (a := a) (by
          refine ih ?_
          assumption) hq
        refine Keeps.pair ?_
        assumption

theorem loadJob_keeps {a : State} {x0 x1 s} (h : Keeps a s) : Keeps a (loadJob x0 x1 s).2 := by
  delta loadJob
  extract_lets -merge +onlyGivenNames l0_0 l0_1
  clear_value l0_0
  clear_value l0_1
  split
  · rename_i hq
    have hk := Keeps.ofEq (a := a) (by
      refine sdlRead_keeps ?_
      assumption) hq
    refine Keeps.pair ?_
    assumption
  · rename_i hq
    have hk := Keeps.ofEq (a := a) (by
      refine sdlRead_keeps ?_
      assumption) hq
    split
    · rename_i hq
      have hk := Keeps.ofEq (a := a) (by
        refine Keeps.ite2 (fun _ => ?_) (fun _ => ?_)
        · refine Keeps.pair ?_
          assumption
        refine sdlRead_keeps ?_
        assumption) hq
      refine Keeps.pair ?_
      assumption
    · rename_i hq
      have hk := Keeps.ofEq (a := a) (by
        refine Keeps.ite2 (fun _ => ?_) (fun _ => ?_)
        · refine Keeps.pair ?_
          assumption
        refine sdlRead_keeps ?_
        assumption) hq
      split
      · rename_i hq
        have hk := Keeps.ofEq (a := a) (by
          refine Keeps.ite2 (fun _ => ?_) (fun _ => ?_)
          · refine sdlRead_keeps ?_
            assumption
          refine Keeps.pair ?_
          assumption) hq
        refine Keeps.pair ?_
        assumption
      · rename_i hq
        have hk := Keeps.ofEq (a := a) (by
          refine Keeps.ite2 (fun _ => ?_) (fun _ => ?_)
          · refine sdlRead_keeps ?_
            assumption
          refine Keeps.pair ?_
          assumption) hq
        split
        · rename_i hq
          have hk := Keeps.ofEq (a := a) (by
            refine Keeps.ite2 (fun _ => ?_) (fun _ => ?_)
            · refine Keeps.pair ?_
              assumption
            refine loadScales_keeps ?_
            assumption) hq
          refine Keeps.pair ?_
          assumption

theorem dropReader_keeps {a : State} {x0 x1 x2 s} (h : Keeps a s) : Keeps a (dropReader x0 x1 x2 s) := by
  delta dropReader
  extract_lets -merge +onlyGivenNames l0_0
  clear_value l0_0
  refine Keeps.foldl ?_ fun _ _ _ => ?_
  · assumption
  refine modStr_keeps ?_
  assumption

theorem frameRead_keeps {a : State} {x0 x1 x2 s} (h : Keeps a s) : Keeps a (frameRead x0 x1 x2 s) := by
  delta frameRead
  extract_lets -merge +onlyGivenNames l0_0
  clear_value l0_0
  refine modStr_keeps ?_
  assumption

theorem refuseEnt_keeps {a : State} {x0 x1 x2 s} (h : Keeps a s) : Keeps a (refuseEnt x0 x1 x2 s) := by
  delta refuseEnt
  extract_lets -merge +onlyGivenNames l0_0
  have h0_0 : Keeps a l0_0 := by
    subst l0_0
    refine dropReader_keeps ?_
    refine modEnt_keeps ?_
    assumption
  clear_value l0_0
  refine record_keeps ?_
  refine sdlErr_keeps ?_
  assumption

theorem commitEnt_keeps {a : State} {x0 x1 s} (h : Keeps a s) : Keeps a (commitEnt x0 x1 s) := by
  delta commitEnt
  extract_lets -merge +onlyGivenNames l0_0
  clear_value l0_0
  split
  · rename_i hq
    have hk := Keeps.ofEq (a := a) (by
      refine sdlRead_keeps ?_
      assumption) hq
    split
    · refine refuseEnt_keeps ?_
      assumption
    · refine Keeps.ite (fun _ => ?_) (fun _ => ?_)
      · refine refuseEnt_keeps ?_
        assumption
      refine Keeps.ite (fun _ => ?_) (fun _ => ?_)
      · refine refuseEnt_keeps ?_
        assumption
      refine Keeps.ite (fun _ => ?_) (fun _ => ?_)
      · refine refuseEnt_keeps ?_
        assumption
      refine Keeps.ite (fun _ => ?_) (fun _ => ?_)
      · refine refuseEnt_keeps ?_
        assumption
      refine Keeps.ite (fun _ => ?_) (fun _ => ?_)
      · refine refuseEnt_keeps ?_
        assumption
      refine Keeps.ite (fun _ => ?_) (fun _ => ?_)
      · refine refuseEnt_keeps ?_
        assumption
      split
      · rename_i hq
        have hk := Keeps.ofEq (a := a) (by
          refine loadJob_keeps ?_
          assumption) hq
        refine refuseEnt_keeps ?_
        assumption
      · rename_i hq
        have hk := Keeps.ofEq (a := a) (by
          refine loadJob_keeps ?_
          assumption) hq
        extract_lets -merge +onlyGivenNames l39_0 l39_1 l39_2
        clear_value l39_0
        have h39_1 : Keeps a l39_1 := by
          subst l39_1
          refine modEnt_keeps ?_
          assumption
        clear_value l39_1
        have h39_2 : Keeps a l39_2 := by
          subst l39_2
          refine dropReader_keeps ?_
          assumption
        clear_value l39_2
        split
        · refine frameRead_keeps ?_
          assumption
        · assumption

theorem doSdlEntryCommit_keeps {a : State} {x0 x1 x2 s} (h : Keeps a s) : Keeps a (doSdlEntryCommit x0 x1 x2 s) := by
  delta doSdlEntryCommit
  extract_lets -merge +onlyGivenNames l0_0 l0_1
  have h0_0 : Keeps a l0_0 := by
    subst l0_0
    refine advance_keeps ?_
    assumption
  clear_value l0_0
  have h0_1 : Keeps a l0_1 := by
    subst l0_1
    refine Keeps.foldl ?_ fun _ _ _ => ?_
    · assumption
    refine commit_keeps ?_
    assumption
  clear_value l0_1
  refine Keeps.ite (fun _ => ?_) (fun _ => ?_)
  · refine Keeps.ite (fun _ => ?_) (fun _ => ?_)
    · refine commitEnt_keeps ?_
      assumption
    refine dropReader_keeps ?_
    refine modEnt_keeps ?_
    assumption
  assumption

theorem sdlPut_keeps {a : State} {x0 x1 x2 x3 x4 x5 x6 x7 s} (h : Keeps a s) : Keeps a (sdlPut x0 x1 x2 x3 x4 x5 x6 x7 s).2 := by
  delta sdlPut
  refine Keeps.ite2 (fun _ => ?_) (fun _ => ?_)
  · split
    · refine Keeps.pair ?_
      assumption
    · refine Keeps.pair ?_
      refine modCore_keeps ?_
      assumption
  extract_lets -merge +onlyGivenNames l7_0 l7_1 l7_2
  clear_value l7_0
  clear_value l7_1
  clear_value l7_2
  split
  · rename_i hq
    have hk := Keeps.ofEq (a := a) (by
      refine writePart_keeps ?_
      assumption) hq
    refine Keeps.pair ?_
    assumption

theorem putRecs_keeps {a : State} {p slot i : Nat} {direct : Bool} {r : JobRec} {w : Nat} {final : Bool} {n : Nat} {q} {s}
    (h : Keeps a s.2) : Keeps a (putRecs p slot i direct r w final n q s).2.2 := by
  induction n generalizing q s with
  | zero => exact h
  | succ n ih =>
    obtain ⟨k, bl⟩ := q
    obtain ⟨ok, s⟩ := s
    simp only [putRecs]
    split
    · exact h
    · exact ih (sdlPut_keeps h)

theorem firstBlocks_keeps {a : State} {x0 x1 x2 s} (h : Keeps a s) : Keeps a (firstBlocks x0 x1 x2 s).2 := by
  delta firstBlocks
  extract_lets -merge +onlyGivenNames l0_0
  clear_value l0_0
  split
  · rename_i hq
    have hk := Keeps.ofEq (a := a) (by
      refine Keeps.foldl2 ?_ fun _ _ _ => ?_
      · refine Keeps.pair ?_
        assumption
      split
      · rename_i hq
        have hk := Keeps.ofEq (a := a) (by
          refine takeFree_keeps ?_
          assumption) hq
        refine Keeps.pair ?_
        assumption) hq
    refine Keeps.pair ?_
    assumption

theorem deliverRow_keeps {a : State} {x0 x1 x2 x3 x4 x5 x6 x7 x8 x9 x10 s} (h : Keeps a s) : Keeps a (deliverRow x0 x1 x2 x3 x4 x5 x6 x7 x8 x9 x10 s).2 := by
  delta deliverRow
  extract_lets -merge +onlyGivenNames l0_0 l0_1
  clear_value l0_0
  clear_value l0_1
  refine Keeps.foldl2 ?_ fun _ _ _ => ?_
  · refine Keeps.pair ?_
    assumption
  split
  · refine Keeps.ite2 (fun _ => ?_) (fun _ => ?_)
    · assumption
    split
    · rename_i hq
      have hk := Keeps.ofEq (a := a) (by
        refine sdlPut_keeps ?_
        assumption) hq
      refine Keeps.ite2 (fun _ => ?_) (fun _ => ?_)
      · split
        · rename_i hq
          have hk := Keeps.ofEq (a := a) (by
            refine Keeps.ite2 (fun _ => ?_) (fun _ => ?_)
            · refine firstBlocks_keeps ?_
              assumption
            refine Keeps.pair ?_
            assumption) hq
          split
          · rename_i hq
            have hk := Keeps.ofEq2 (a := a) (by
              refine putRecs_keeps ?_
              refine Keeps.pair ?_
              assumption) hq
            extract_lets -merge +onlyGivenNames l29_0
            have h29_0 : Keeps a l29_0 := by
              subst l29_0
              refine modEnt_keeps ?_
              assumption
            clear_value l29_0
            refine Keeps.pair ?_
            assumption
      refine Keeps.pair ?_
      assumption

theorem noteSpill_keeps {a : State} {x0 x1 x2 x3 x4 x5 x6 x7 x8 s} (h : Keeps a s) : Keeps a (noteSpill x0 x1 x2 x3 x4 x5 x6 x7 x8 s).2 := by
  delta noteSpill
  extract_lets -merge +onlyGivenNames l0_0
  clear_value l0_0
  refine Keeps.foldl2 ?_ fun _ _ _ => ?_
  · refine Keeps.pair ?_
    assumption
  split
  · extract_lets -merge +onlyGivenNames l6_0 l6_1 l6_2 l6_3 l6_4
    clear_value l6_0
    clear_value l6_1
    clear_value l6_2
    clear_value l6_3
    have h6_4 : Keeps a l6_4 := by
      subst l6_4
      refine modEnt_keeps ?_
      assumption
    clear_value l6_4
    refine Keeps.ite2 (fun _ => ?_) (fun _ => ?_)
    · assumption
    split
    · rename_i hq
      have hk := Keeps.ofEq (a := a) (by
        refine writePart_keeps ?_
        assumption) hq
      refine Keeps.pair ?_
      assumption

theorem sdlDrop_keeps {a : State} {x0 x1 x2 x3 x4 s} (h : Keeps a s) : Keeps a (sdlDrop x0 x1 x2 x3 x4 s) := by
  delta sdlDrop
  extract_lets -merge +onlyGivenNames l0_0
  have h0_0 : Keeps a l0_0 := by
    subst l0_0
    refine frameRead_keeps ?_
    refine modEnt_keeps ?_
    assumption
  clear_value l0_0
  refine record_keeps ?_
  refine sdlErr_keeps ?_
  assumption

theorem sdlDelivered_keeps {a : State} {x0 x1 x2 x3 s} (h : Keeps a s) : Keeps a (sdlDelivered x0 x1 x2 x3 s) := by
  delta sdlDelivered
  refine settle_keeps ?_
  refine semOp_keeps ?_
  refine modEnt_keeps ?_
  assumption

theorem beginSlice_keeps {a : State} {x0 x1 s} (h : Keeps a s) : Keeps a (beginSlice x0 x1 s) := by
  delta beginSlice
  split
  · assumption
  · extract_lets -merge +onlyGivenNames l2_0
    clear_value l2_0
    refine modEnt_keeps ?_
    refine modSdl_keeps ?_
    assumption

theorem spend_keeps {a : State} {x0 x1 s} (h : Keeps a s) : Keeps a (spend x0 x1 s) := by
  delta spend
  refine modSdl_keeps ?_
  assumption

theorem openFrame_keeps {a : State} {x0 x1 x2 x3 s} (h : Keeps a s) : Keeps a (openFrame x0 x1 x2 x3 s) := by
  delta openFrame
  refine Keeps.ite (fun _ => ?_) (fun _ => ?_)
  · assumption
  extract_lets -merge +onlyGivenNames l2_0 l2_1 l2_2
  clear_value l2_0
  clear_value l2_1
  have h2_2 : Keeps a l2_2 := by
    subst l2_2
    refine Keeps.ite (fun _ => ?_) (fun _ => ?_)
    · assumption
    refine changed_keeps ?_
    refine setSem_keeps ?_
    assumption
  clear_value l2_2
  refine modEnt_keeps ?_
  assumption

theorem runBand_keeps {a : State} {x0 x1 x2 x3 x4 x5 s} (h : Keeps a s) : Keeps a (runBand x0 x1 x2 x3 x4 x5 s) := by
  delta runBand
  extract_lets -merge +onlyGivenNames l0_0 l0_1 l0_2 l0_3 l0_4 l0_5 l0_6 l0_7 l0_8 l0_9 l0_10
  clear_value l0_0
  clear_value l0_1
  clear_value l0_2
  clear_value l0_3
  clear_value l0_4
  subst l0_5
  try dsimp -zeta -zetaHave -zetaUnused -iota -proj only
  have h0_6 : Keeps a l0_6 := by
    subst l0_6
    refine openFrame_keeps ?_
    assumption
  clear_value l0_6
  clear_value l0_7
  clear_value l0_8
  clear_value l0_9
  clear_value l0_10
  split
  · extract_lets -merge +onlyGivenNames l18_0 l18_1 l18_2 l18_3 l18_4 l18_5
    clear_value l18_0
    clear_value l18_1
    clear_value l18_2
    clear_value l18_3
    have h18_4 : Keeps a l18_4 := by
      subst l18_4
      refine modEnt_keeps ?_
      assumption
    clear_value l18_4
    clear_value l18_5
    refine Keeps.ite (fun _ => ?_) (fun _ => ?_)
    · refine sdlDrop_keeps ?_
      assumption
    split
    · rename_i hq
      have hk := Keeps.ofEq (a := a) (by
        refine Keeps.ite2 (fun _ => ?_) (fun _ => ?_)
        · refine Keeps.pair ?_
          assumption
        refine noteSpill_keeps ?_
        assumption) hq
      extract_lets -merge +onlyGivenNames l40_0 l40_1
      clear_value l40_0
      have h40_1 : Keeps a l40_1 := by
        subst l40_1
        refine Keeps.ite (fun _ => ?_) (fun _ => ?_)
        · assumption
        refine record_keeps ?_
        assumption
      clear_value l40_1
      split
      · rename_i hq
        have hk := Keeps.ofEq (a := a) (by
          refine Keeps.foldl2 ?_ fun _ _ _ => ?_
          · refine Keeps.pair ?_
            assumption
          split
          · split
            · rename_i hq
              have hk := Keeps.ofEq (a := a) (by
                refine deliverRow_keeps ?_
                assumption) hq
              refine Keeps.pair ?_
              assumption) hq
        refine Keeps.ite (fun _ => ?_) (fun _ => ?_)
        · refine sdlDrop_keeps ?_
          assumption
        refine Keeps.ite (fun _ => ?_) (fun _ => ?_)
        · refine modEnt_keeps ?_
          assumption
        extract_lets -merge +onlyGivenNames l69_0
        have h69_0 : Keeps a l69_0 := by
          subst l69_0
          refine frameRead_keeps ?_
          refine modEnt_keeps ?_
          assumption
        clear_value l69_0
        refine Keeps.ite (fun _ => ?_) (fun _ => ?_)
        · refine sdlDelivered_keeps ?_
          assumption
        refine modEnt_keeps ?_
        assumption

theorem doSdlBand_keeps {a : State} {x0 x1 x2 s} (h : Keeps a s) : Keeps a (doSdlBand x0 x1 x2 s) := by
  delta doSdlBand
  extract_lets -merge +onlyGivenNames l0_0 l0_1
  have h0_0 : Keeps a l0_0 := by
    subst l0_0
    refine advance_keeps ?_
    assumption
  clear_value l0_0
  clear_value l0_1
  refine Keeps.ite (fun _ => ?_) (fun _ => ?_)
  · split
    · split
      · extract_lets -merge +onlyGivenNames l10_0
        clear_value l10_0
        refine runBand_keeps ?_
        refine spend_keeps ?_
        refine beginSlice_keeps ?_
        assumption
    · assumption
  assumption

theorem lastRows_keeps {a : State} {x0 x1 x2 x3 s} (h : Keeps a s) : Keeps a (lastRows x0 x1 x2 x3 s).2 := by
  induction x2 generalizing x0 x1 x3 s with
  | zero =>
    rw [lastRows.eq_1]
    refine Keeps.pair ?_
    assumption
  | succ n ih =>
    rw [lastRows.eq_2]
    split
    · rename_i hq
      have hk := Keeps.ofEq (a := a) (by
        refine sdlRead_keeps ?_
        assumption) hq
      refine Keeps.pair ?_
      assumption
    · rename_i hq
      have hk := Keeps.ofEq (a := a) (by
        refine sdlRead_keeps ?_
        assumption) hq
      split
      · rename_i hq
        have hk := Keeps.ofEq (a := a) (by
          refine ih ?_
          assumption) hq
        refine Keeps.pair ?_
        assumption
      · rename_i hq
        have hk := Keeps.ofEq (a := a) (by
          refine ih ?_
          assumption) hq
        refine Keeps.pair ?_
        assumption

theorem lastDrop_keeps {a : State} {x0 x1 s} (h : Keeps a s) : Keeps a (lastDrop x0 x1 s) := by
  delta lastDrop
  refine record_keeps ?_
  refine sdlErr_keeps ?_
  assumption

theorem runJob_keeps {a : State} {x0 x1 x2 s} (h : Keeps a s) : Keeps a (runJob x0 x1 x2 s) := by
  delta runJob
  extract_lets -merge +onlyGivenNames l0_0 l0_1 l0_2 l0_3 l0_4
  clear_value l0_0
  clear_value l0_1
  clear_value l0_2
  clear_value l0_3
  have h0_4 : Keeps a l0_4 := by
    subst l0_4
    refine changed_keeps ?_
    refine setSem_keeps ?_
    assumption
  clear_value l0_4
  split
  · rename_i hq
    have hk := Keeps.ofEq (a := a) (by
      refine lastRows_keeps ?_
      assumption) hq
    refine lastDrop_keeps ?_
    assumption
  · rename_i hq
    have hk := Keeps.ofEq (a := a) (by
      refine lastRows_keeps ?_
      assumption) hq
    extract_lets -merge +onlyGivenNames l22_0
    clear_value l22_0
    split
    · rename_i hq
      have hk := Keeps.ofEq (a := a) (by
        refine writePart_keeps ?_
        assumption) hq
      refine lastDrop_keeps ?_
      assumption
    · rename_i hq
      have hk := Keeps.ofEq (a := a) (by
        refine writePart_keeps ?_
        assumption) hq
      refine settle_keeps ?_
      refine semOp_keeps ?_
      refine modEnt_keeps ?_
      assumption

theorem doSdlJobStart_keeps {a : State} {x0 x1 x2 s} (h : Keeps a s) : Keeps a (doSdlJobStart x0 x1 x2 s) := by
  delta doSdlJobStart
  extract_lets -merge +onlyGivenNames l0_0
  have h0_0 : Keeps a l0_0 := by
    subst l0_0
    refine advance_keeps ?_
    assumption
  clear_value l0_0
  refine Keeps.ite (fun _ => ?_) (fun _ => ?_)
  · split
    · assumption
    · refine runJob_keeps ?_
      refine spend_keeps ?_
      refine beginSlice_keeps ?_
      assumption
  assumption

theorem sdlSliceEnd_keeps {a : State} {x0 s} (h : Keeps a s) : Keeps a (sdlSliceEnd x0 s) := by
  delta sdlSliceEnd
  extract_lets -merge +onlyGivenNames l0_0
  clear_value l0_0
  split
  · assumption
  · refine Keeps.ite (fun _ => ?_) (fun _ => ?_)
    · extract_lets -merge +onlyGivenNames l5_0
      have h5_0 : Keeps a l5_0 := by
        subst l5_0
        refine commit_keeps ?_
        refine modSdl_keeps ?_
        assumption
      clear_value l5_0
      refine modEnt_keeps ?_
      assumption
    assumption

theorem unspill_keeps {a : State} {x0 x1 x2 x3 x4 s} (h : Keeps a s) : Keeps a (unspill x0 x1 x2 x3 x4 s) := by
  delta unspill
  split
  · assumption
  · extract_lets -merge +onlyGivenNames l2_0 l2_1 l2_2
    clear_value l2_0
    clear_value l2_1
    have h2_2 : Keeps a l2_2 := by
      subst l2_2
      refine Keeps.foldl ?_ fun _ _ _ => ?_
      · assumption
      extract_lets -merge +onlyGivenNames l9_0
      clear_value l9_0
      refine modCore_keeps ?_
      assumption
    clear_value l2_2
    refine Keeps.foldl ?_ fun _ _ _ => ?_
    · assumption
    extract_lets -merge +onlyGivenNames l16_0
    clear_value l16_0
    refine modCore_keeps ?_
    assumption

theorem replantSpills_keeps {a : State} {x0 x1 s} (h : Keeps a s) : Keeps a (replantSpills x0 x1 s) := by
  delta replantSpills
  refine Keeps.foldl ?_ fun _ _ _ => ?_
  · assumption
  refine Keeps.foldl ?_ fun _ _ _ => ?_
  · assumption
  split
  · assumption
  · refine Keeps.ite (fun _ => ?_) (fun _ => ?_)
    · extract_lets -merge +onlyGivenNames l7_0 l7_1 l7_2
      clear_value l7_0
      have h7_1 : Keeps a l7_1 := by
        subst l7_1
        refine Keeps.foldl ?_ fun _ _ _ => ?_
        · assumption
        refine unspill_keeps ?_
        assumption
      clear_value l7_1
      have h7_2 : Keeps a l7_2 := by
        subst l7_2
        refine modEnt_keeps ?_
        assumption
      clear_value l7_2
      refine Keeps.ite (fun _ => ?_) (fun _ => ?_)
      · refine sdlDelivered_keeps ?_
        assumption
      assumption
    assumption

end Sys2Proof.Machine
end

