-- ==== Sys2Proof/Laws/KeepsHeel.lean ====
section
/-!
SUPPORT. Laws/KeepsHeel.lean: the operations of Machine/Heel.lean keep what `Keeps` says (Laws/Keeps.lean).
-/
namespace Sys2Proof.Machine

theorem writeBlock_keeps {a : State} {x0 x1 x2 s} (h : Keeps a s) : Keeps a (writeBlock x0 x1 x2 s).2 := by
  delta writeBlock
  split
  · rename_i hq
    have hk := Keeps.ofEq (a := a) (by
      refine takeFree_keeps ?_
      assumption) hq
    extract_lets -merge +onlyGivenNames l5_0
    clear_value l5_0
    split
    · rename_i hq
      have hk := Keeps.ofEq (a := a) (by
        refine writePart_keeps ?_
        assumption) hq
      refine Keeps.foldl2 ?_ fun _ _ _ => ?_
      · refine Keeps.pair ?_
        assumption
      split
      · rename_i hq
        have hk := Keeps.ofEq (a := a) (by
          refine writePart_keeps ?_
          assumption) hq
        refine Keeps.pair ?_
        assumption

theorem giveBack_keeps {a : State} {x0 s} (h : Keeps a s) : Keeps a (giveBack x0 s) := by
  delta giveBack
  extract_lets -merge +onlyGivenNames l0_0 l0_1
  have h0_0 : Keeps a l0_0 := by
    subst l0_0
    refine Keeps.foldl ?_ fun _ _ _ => ?_
    · assumption
    refine modCore_keeps ?_
    assumption
  clear_value l0_0
  clear_value l0_1
  refine Keeps.foldl ?_ fun _ _ _ => ?_
  · assumption
  refine modCore_keeps ?_
  assumption

theorem doStopPointReached_keeps {a : State} {x0 x1 s} (h : Keeps a s) : Keeps a (doStopPointReached x0 x1 s) := by
  delta doStopPointReached
  extract_lets -merge +onlyGivenNames l0_0
  have h0_0 : Keeps a l0_0 := by
    subst l0_0
    refine advance_keeps ?_
    assumption
  clear_value l0_0
  refine Keeps.ite (fun _ => ?_) (fun _ => ?_)
  · refine modCore_keeps ?_
    refine giveBack_keeps ?_
    assumption
  assumption

theorem doDrainDone_keeps {a : State} {x0 x1 s} (h : Keeps a s) : Keeps a (doDrainDone x0 x1 s) := by
  delta doDrainDone
  extract_lets -merge +onlyGivenNames l0_0 l0_1 l0_2
  have h0_0 : Keeps a l0_0 := by
    subst l0_0
    refine advance_keeps ?_
    assumption
  clear_value l0_0
  clear_value l0_1
  clear_value l0_2
  refine Keeps.ite (fun _ => ?_) (fun _ => ?_)
  · refine Keeps.ite (fun _ => ?_) (fun _ => ?_)
    · refine modCore_keeps ?_
      assumption
    split
    · rename_i hq
      have hk := Keeps.ofEq (a := a) (by
        refine writeBlock_keeps ?_
        assumption) hq
      split
      · refine settle_keeps ?_
        refine coreMemErr_keeps ?_
        assumption
      · refine modCtx_keeps ?_
        refine modCore_keeps ?_
        assumption
  assumption

theorem heelEnd_keeps {a : State} {x0 x1 s} (h : Keeps a s) : Keeps a (heelEnd x0 x1 s) := by
  delta heelEnd
  extract_lets -merge +onlyGivenNames l0_0 l0_1 l0_2 l0_3 l0_4 l0_5 l0_6 l0_7
  clear_value l0_0
  clear_value l0_1
  clear_value l0_2
  clear_value l0_3
  have h0_4 : Keeps a l0_4 := by
    subst l0_4
    refine releaseCores_keeps ?_
    assumption
  clear_value l0_4
  have h0_5 : Keeps a l0_5 := by
    subst l0_5
    refine modCtx_keeps ?_
    assumption
  clear_value l0_5
  have h0_6 : Keeps a l0_6 := by
    subst l0_6
    refine modPart_keeps ?_ fun _ => rfl
    assumption
  clear_value l0_6
  have h0_7 : Keeps a l0_7 := by
    subst l0_7
    refine Keeps.foldl ?_ fun _ _ _ => ?_
    · assumption
    refine finish_keeps ?_
    assumption
  clear_value l0_7
  refine settle_keeps ?_
  refine changed_keeps ?_
  assumption

theorem doHeelInDone_keeps {a : State} {x0 x1 x2 s} (h : Keeps a s) : Keeps a (doHeelInDone x0 x1 x2 s) := by
  delta doHeelInDone
  extract_lets -merge +onlyGivenNames l0_0 l0_1
  have h0_0 : Keeps a l0_0 := by
    subst l0_0
    refine advance_keeps ?_
    assumption
  clear_value l0_0
  clear_value l0_1
  refine Keeps.ite (fun _ => ?_) (fun _ => ?_)
  · split
    · rename_i hq
      have hk := Keeps.ofEq (a := a) (by
        refine writePart_keeps ?_
        assumption) hq
      split
      · refine settle_keeps ?_
        refine coreMemErr_keeps ?_
        assumption
      · refine heelEnd_keeps ?_
        assumption
  assumption

theorem addBank_keeps {a : State} {x0 x1 s} (h : Keeps a s.2) : Keeps a (addBank x0 x1 s).2 := by
  delta addBank
  refine Keeps.pair ?_
  assumption

theorem readBanks_keeps {a : State} {x0 x1 x2 s} (h : Keeps a s) : Keeps a (readBanks x0 x1 x2 s).2 := by
  delta readBanks
  refine Keeps.foldl2 ?_ fun _ _ _ => ?_
  · refine Keeps.pair ?_
    assumption
  split
  · assumption
  · refine addBank_keeps ?_
    refine readPart_keeps ?_
    assumption

theorem seatCore_keeps {a : State} {x0 x1 x2 x3 x4 s} (h : Keeps a s.2) : Keeps a (seatCore x0 x1 x2 x3 x4 s).2 := by
  delta seatCore
  split
  · refine Keeps.pair ?_
    assumption
  · extract_lets -merge +onlyGivenNames l3_0
    clear_value l3_0
    refine Keeps.pair ?_
    refine modCore_keeps ?_
    assumption

theorem seatBlock_keeps {a : State} {x0 x1 x2 x3 x4 s} (h : Keeps a s.2) : Keeps a (seatBlock x0 x1 x2 x3 x4 s).2 := by
  delta seatBlock
  split
  · refine Keeps.pair ?_
    assumption
  · refine seatCore_keeps ?_
    refine readBanks_keeps ?_
    assumption

theorem replantCore_keeps {a : State} {x0 x1 x2 x3 s} (h : Keeps a s) : Keeps a (replantCore x0 x1 x2 x3 s).2 := by
  delta replantCore
  extract_lets -merge +onlyGivenNames l0_0
  clear_value l0_0
  refine seatBlock_keeps ?_
  refine readPart_keeps ?_
  assumption

theorem replantErr_keeps {a : State} {x0 x1 x2 s} (h : Keeps a s) : Keeps a (replantErr x0 x1 x2 s) := by
  delta replantErr
  split
  · refine settle_keeps ?_
    refine teardown_keeps ?_
    assumption

theorem applyKept_keeps {a : State} {x0 x1 s} (h : Keeps a s) : Keeps a (applyKept x0 x1 s) := by
  delta applyKept
  extract_lets -merge +onlyGivenNames l0_0 l0_1
  clear_value l0_0
  have h0_1 : Keeps a l0_1 := by
    subst l0_1
    refine Keeps.foldl ?_ fun _ _ _ => ?_
    · assumption
    split
    · refine modCore_keeps ?_
      assumption
    · assumption
  clear_value l0_1
  refine modCtx_keeps ?_
  assumption

theorem runAgain_keeps {a : State} {x0 x1 s} (h : Keeps a s) : Keeps a (runAgain x0 x1 s) := by
  delta runAgain
  extract_lets -merge +onlyGivenNames l0_0
  have h0_0 : Keeps a l0_0 := by
    subst l0_0
    refine refreshBlocked_keeps ?_
    refine startClock_keeps ?_
    refine modCtx_keeps ?_
    assumption
  clear_value l0_0
  refine settle_keeps ?_
  refine changed_keeps ?_
  refine Keeps.ite (fun _ => ?_) (fun _ => ?_)
  · refine heelNow_keeps ?_
    assumption
  assumption

theorem replantCores_keeps {a : State} {x0 x1 s} (h : Keeps a s) : Keeps a (replantCores x0 x1 s).2 := by
  delta replantCores
  extract_lets -merge +onlyGivenNames l0_0
  clear_value l0_0
  refine Keeps.foldl2 ?_ fun _ _ _ => ?_
  · refine Keeps.pair ?_
    assumption
  split
  · assumption
  · refine replantCore_keeps ?_
    assumption

theorem replantDone_keeps {a : State} {x0 x1 s} (h : Keeps a s) : Keeps a (replantDone x0 x1 s) := by
  delta replantDone
  extract_lets -merge +onlyGivenNames l0_0
  clear_value l0_0
  split
  · rename_i hq
    have hk := Keeps.ofEq (a := a) (by
      refine readPart_keeps ?_
      assumption) hq
    refine replantErr_keeps ?_
    assumption
  · rename_i hq
    have hk := Keeps.ofEq (a := a) (by
      refine readPart_keeps ?_
      assumption) hq
    extract_lets -merge +onlyGivenNames l13_0 l13_1 l13_2 l13_3
    clear_value l13_0
    clear_value l13_1
    have h13_2 : Keeps a l13_2 := by
      subst l13_2
      refine Keeps.ite (fun _ => ?_) (fun _ => ?_)
      · refine injUse_keeps ?_
        assumption
      assumption
    clear_value l13_2
    have h13_3 : Keeps a l13_3 := by
      subst l13_3
      refine record_keeps ?_
      refine prtErr_keeps ?_
      assumption
    clear_value l13_3
    refine Keeps.ite (fun _ => ?_) (fun _ => ?_)
    · refine settle_keeps ?_
      refine teardown_keeps ?_
      assumption
    split
    · rename_i hq
      have hk := Keeps.ofEq (a := a) (by
        refine replantCores_keeps ?_
        assumption) hq
      refine replantErr_keeps ?_
      assumption
    · rename_i hq
      have hk := Keeps.ofEq (a := a) (by
        refine replantCores_keeps ?_
        assumption) hq
      extract_lets -merge +onlyGivenNames l44_0 l44_1
      have h44_0 : Keeps a l44_0 := by
        subst l44_0
        refine applyKept_keeps ?_
        refine replantSpills_keeps ?_
        assumption
      clear_value l44_0
      have h44_1 : Keeps a l44_1 := by
        subst l44_1
        refine modCtx_keeps ?_
        assumption
      clear_value l44_1
      refine runAgain_keeps ?_
      assumption

theorem doReplantDone_keeps {a : State} {x0 x1 x2 s} (h : Keeps a s) : Keeps a (doReplantDone x0 x1 x2 s) := by
  delta doReplantDone
  extract_lets -merge +onlyGivenNames l0_0
  have h0_0 : Keeps a l0_0 := by
    subst l0_0
    refine advance_keeps ?_
    assumption
  clear_value l0_0
  refine Keeps.ite (fun _ => ?_) (fun _ => ?_)
  · refine replantDone_keeps ?_
    assumption
  assumption

theorem coreMove_keeps {a : State} {x0 x1 x2 x3 s} (h : Keeps a s) : Keeps a (coreMove x0 x1 x2 x3 s) := by
  delta coreMove
  extract_lets -merge +onlyGivenNames l0_0 l0_1 l0_2 l0_3 l0_4 l0_5 l0_6
  clear_value l0_0
  have h0_1 : Keeps a l0_1 := by
    subst l0_1
    refine modCore_keeps ?_
    assumption
  clear_value l0_1
  clear_value l0_2
  have h0_3 : Keeps a l0_3 := by
    subst l0_3
    refine modCore_keeps ?_
    assumption
  clear_value l0_3
  have h0_4 : Keeps a l0_4 := by
    subst l0_4
    refine Keeps.ite (fun _ => ?_) (fun _ => ?_)
    · refine modDie_keeps ?_
      assumption
    assumption
  clear_value l0_4
  have h0_5 : Keeps a l0_5 := by
    subst l0_5
    refine modCtx_keeps ?_
    assumption
  clear_value l0_5
  have h0_6 : Keeps a l0_6 := by
    subst l0_6
    refine Keeps.foldl ?_ fun _ _ _ => ?_
    · assumption
    refine modCore_keeps ?_
    assumption
  clear_value l0_6
  refine runAgain_keeps ?_
  refine applyKept_keeps ?_
  assumption

theorem beginScan_keeps {a : State} {x0 x1 s} (h : Keeps a s) : Keeps a (beginScan x0 x1 s) := by
  delta beginScan
  extract_lets -merge +onlyGivenNames l0_0
  clear_value l0_0
  refine modIsl_keeps ?_
  assumption

theorem doCoreMove_keeps {a : State} {x0 x1 s} (h : Keeps a s) : Keeps a (doCoreMove x0 x1 s) := by
  delta doCoreMove
  extract_lets -merge +onlyGivenNames l0_0 l0_1 l0_2 l0_3
  have h0_0 : Keeps a l0_0 := by
    subst l0_0
    refine advance_keeps ?_
    assumption
  clear_value l0_0
  clear_value l0_1
  clear_value l0_2
  clear_value l0_3
  split
  · assumption
  · refine Keeps.ite (fun _ => ?_) (fun _ => ?_)
    · refine coreMove_keeps ?_
      refine Keeps.ite (fun _ => ?_) (fun _ => ?_)
      · refine beginScan_keeps ?_
        assumption
      assumption
    assumption

end Sys2Proof.Machine
end

