-- ==== Sys2Proof/Laws/KeepsFusion.lean ====
section
/-!
SUPPORT. Laws/KeepsFusion.lean: the operations of Machine/Fusion.lean keep what `Keeps` says (Laws/Keeps.lean).
-/
namespace Sys2Proof.Machine

theorem modSensor_keeps {a : State} {x0 x1 x2 s} (h : Keeps a s) : Keeps a (modSensor x0 x1 x2 s) := by
  delta modSensor
  refine modFus_keeps ?_
  assumption

theorem modInst_keeps {a : State} {x0 x1 x2 s} (h : Keeps a s) : Keeps a (modInst x0 x1 x2 s) := by
  delta modInst
  refine modFus_keeps ?_
  assumption

theorem fusErr_keeps {a : State} {x0 x1 s} (h : Keeps a s) : Keeps a (fusErr x0 x1 s) := by
  delta fusErr
  refine stick_keeps ?_
  assumption

theorem fusEvent_keeps {a : State} {x0 x1 x2 s} (h : Keeps a s) : Keeps a (fusEvent x0 x1 x2 s) := by
  delta fusEvent
  refine eventFor_keeps ?_
  assumption

theorem calBody_keeps {a : State} {x0 s} (h : Keeps a s) : Keeps a (calBody x0 s) := by
  delta calBody
  extract_lets -merge +onlyGivenNames l0_0 l0_1 l0_2
  clear_value l0_0
  clear_value l0_1
  have h0_2 : Keeps a l0_2 := by
    subst l0_2
    refine modSensor_keeps ?_
    assumption
  clear_value l0_2
  refine finishOk_keeps ?_
  assumption

theorem doCalLoad_keeps {a : State} {x0 x1 s} (h : Keeps a s) : Keeps a (doCalLoad x0 x1 s) := by
  delta doCalLoad
  refine runDesc_keeps ?_ ?_
  · assumption
  intro _ _ _
  refine calBody_keeps ?_
  assumption

theorem calSwitch_keeps {a : State} {x0 x1 x2 x3 s} (h : Keeps a s) : Keeps a (calSwitch x0 x1 x2 x3 s) := by
  delta calSwitch
  refine modSensor_keeps ?_
  assumption

theorem dropFrames_keeps {a : State} {x0 x1 s} (h : Keeps a s) : Keeps a (dropFrames x0 x1 s) := by
  delta dropFrames
  refine modIng_keeps ?_
  assumption

theorem fusStop_keeps {a : State} {x0 s} (h : Keeps a s) : Keeps a (fusStop x0 s) := by
  delta fusStop
  extract_lets -merge +onlyGivenNames l0_0
  have h0_0 : Keeps a l0_0 := by
    subst l0_0
    refine dropFrames_keeps ?_
    assumption
  clear_value l0_0
  refine modFus_keeps ?_
  assumption

theorem fusStart_keeps {a : State} {x0 s} (h : Keeps a s) : Keeps a (fusStart x0 s) := by
  delta fusStart
  extract_lets -merge +onlyGivenNames l0_0 l0_1
  clear_value l0_0
  clear_value l0_1
  split
  · rename_i hq
    have hk := Keeps.ofEq (a := a) (by
      refine readPart_keeps ?_
      assumption) hq
    split
    · refine fusErr_keeps ?_
      assumption
    · refine Keeps.ite (fun _ => ?_) (fun _ => ?_)
      · extract_lets -merge +onlyGivenNames l12_0 l12_1 l12_2
        clear_value l12_0
        clear_value l12_1
        clear_value l12_2
        refine modFus_keeps ?_
        assumption
      refine fusErr_keeps ?_
      assumption

theorem doFusionEnable_keeps {a : State} {x0 x1 s} (h : Keeps a s) : Keeps a (doFusionEnable x0 x1 s) := by
  delta doFusionEnable
  extract_lets -merge +onlyGivenNames l0_0
  have h0_0 : Keeps a l0_0 := by
    subst l0_0
    refine advance_keeps ?_
    assumption
  clear_value l0_0
  refine Keeps.ite (fun _ => ?_) (fun _ => ?_)
  · refine fusStart_keeps ?_
    refine fldSet_keeps ?_
    assumption
  assumption

theorem doFusionDisable_keeps {a : State} {x0 x1 s} (h : Keeps a s) : Keeps a (doFusionDisable x0 x1 s) := by
  delta doFusionDisable
  extract_lets -merge +onlyGivenNames l0_0
  have h0_0 : Keeps a l0_0 := by
    subst l0_0
    refine advance_keeps ?_
    assumption
  clear_value l0_0
  refine Keeps.ite (fun _ => ?_) (fun _ => ?_)
  · refine fusStop_keeps ?_
    refine fldSet_keeps ?_
    assumption
  assumption

theorem fusDestroy_keeps {a : State} {x0 s} (h : Keeps a s) : Keeps a (fusDestroy x0 s) := by
  delta fusDestroy
  refine Keeps.foldl ?_ fun _ _ _ => ?_
  · assumption
  refine Keeps.ite (fun _ => ?_) (fun _ => ?_)
  · refine modFus_keeps ?_
    refine fusStop_keeps ?_
    refine fldSet_keeps ?_
    assumption
  assumption

theorem srcCommit_keeps {a : State} {x0 x1 s} (h : Keeps a s) : Keeps a (srcCommit x0 x1 s) := by
  delta srcCommit
  extract_lets -merge +onlyGivenNames l0_0 l0_1 l0_2 l0_3
  clear_value l0_0
  have h0_1 : Keeps a l0_1 := by
    subst l0_1
    refine Keeps.foldl ?_ fun _ _ _ => ?_
    · assumption
    refine commit_keeps ?_
    assumption
  clear_value l0_1
  clear_value l0_2
  subst l0_3
  try dsimp -zeta -zetaHave -zetaUnused -iota -proj only
  refine Keeps.ite (fun _ => ?_) (fun _ => ?_)
  · assumption
  refine Keeps.ite (fun _ => ?_) (fun _ => ?_)
  · refine dropFrames_keeps ?_
    refine modSrc_keeps ?_
    assumption
  split
  · rename_i hq
    have hk := Keeps.ofEq (a := a) (by
      refine readPart_keeps ?_
      assumption) hq
    split
    · refine fusEvent_keeps ?_
      refine modSrc_keeps ?_
      assumption
    · split
      · refine fusEvent_keeps ?_
        refine modSrc_keeps ?_
        assumption
      · refine modSrc_keeps ?_
        assumption

theorem doFusionSourceCommit_keeps {a : State} {x0 x1 x2 s} (h : Keeps a s) : Keeps a (doFusionSourceCommit x0 x1 x2 s) := by
  delta doFusionSourceCommit
  extract_lets -merge +onlyGivenNames l0_0
  have h0_0 : Keeps a l0_0 := by
    subst l0_0
    refine advance_keeps ?_
    assumption
  clear_value l0_0
  refine Keeps.ite (fun _ => ?_) (fun _ => ?_)
  · refine srcCommit_keeps ?_
    assumption
  assumption

theorem doPointListRead_keeps {a : State} {x0 x1 x2 s} (h : Keeps a s) : Keeps a (doPointListRead x0 x1 x2 s) := by
  delta doPointListRead
  extract_lets -merge +onlyGivenNames l0_0 l0_1 l0_2 l0_3 l0_4 l0_5
  have h0_0 : Keeps a l0_0 := by
    subst l0_0
    refine advance_keeps ?_
    assumption
  clear_value l0_0
  clear_value l0_1
  clear_value l0_2
  clear_value l0_3
  have h0_4 : Keeps a l0_4 := by
    subst l0_4
    refine changed_keeps ?_
    refine setSem_keeps ?_
    assumption
  clear_value l0_4
  clear_value l0_5
  refine Keeps.ite (fun _ => ?_) (fun _ => ?_)
  · split
    · rename_i hq
      have hk := Keeps.ofEq (a := a) (by
        refine readPart_keeps ?_
        assumption) hq
      split
      · rename_i hq
        have hk := Keeps.ofEq (a := a) (by
          split
          · refine Keeps.pair ?_
            assumption
          · refine Keeps.ite2 (fun _ => ?_) (fun _ => ?_)
            · split
              · rename_i hq
                have hk := Keeps.ofEq (a := a) (by
                  refine readPart_keeps ?_
                  assumption) hq
                refine Keeps.pair ?_
                assumption
              · rename_i hq
                have hk := Keeps.ofEq (a := a) (by
                  refine readPart_keeps ?_
                  assumption) hq
                refine Keeps.pair ?_
                assumption
            refine Keeps.pair ?_
            assumption) hq
        extract_lets -merge +onlyGivenNames l44_0
        have h44_0 : Keeps a l44_0 := by
          subst l44_0
          split
          · refine fusEvent_keeps ?_
            assumption
          · extract_lets -merge +onlyGivenNames l50_0
            have h50_0 : Keeps a l50_0 := by
              subst l50_0
              refine calSwitch_keeps ?_
              assumption
            clear_value l50_0
            refine modSrc_keeps ?_
            assumption
        clear_value l44_0
        refine settle_keeps ?_
        refine semOp_keeps ?_
        assumption
  assumption

theorem fusWriteErr_keeps {a : State} {x0 x1 s} (h : Keeps a s) : Keeps a (fusWriteErr x0 x1 s) := by
  delta fusWriteErr
  refine fusEvent_keeps ?_
  refine fusErr_keeps ?_
  refine modInst_keeps ?_
  assumption

theorem enterPt_keeps {a : State} {x0 x1 x2 x3 s} (h : Keeps a s) : Keeps a (enterPt x0 x1 x2 x3 s) := by
  delta enterPt
  extract_lets -merge +onlyGivenNames l0_0 l0_1
  clear_value l0_0
  clear_value l0_1
  refine Keeps.ite (fun _ => ?_) (fun _ => ?_)
  · refine fusEvent_keeps ?_
    refine modInst_keeps ?_
    assumption
  split
  · rename_i hq
    have hk := Keeps.ofEq (a := a) (by
      refine writePart_keeps ?_
      assumption) hq
    extract_lets -merge +onlyGivenNames l12_0 l12_1
    have h12_0 : Keeps a l12_0 := by
      subst l12_0
      refine modInst_keeps ?_
      assumption
    clear_value l12_0
    have h12_1 : Keeps a l12_1 := by
      subst l12_1
      refine modSrc_keeps ?_
      assumption
    clear_value l12_1
    refine Keeps.ite (fun _ => ?_) (fun _ => ?_)
    · refine fusWriteErr_keeps ?_
      assumption
    assumption

theorem dropLate_keeps {a : State} {x0 x1 x2 x3 s} (h : Keeps a s) : Keeps a (dropLate x0 x1 x2 x3 s) := by
  delta dropLate
  extract_lets -merge +onlyGivenNames l0_0 l0_1
  have h0_0 : Keeps a l0_0 := by
    subst l0_0
    refine modInst_keeps ?_
    assumption
  clear_value l0_0
  have h0_1 : Keeps a l0_1 := by
    subst l0_1
    refine modSrc_keeps ?_
    assumption
  clear_value l0_1
  refine fusEvent_keeps ?_
  assumption

theorem admitPt_keeps {a : State} {x0 x1 x2 x3 s} (h : Keeps a s) : Keeps a (admitPt x0 x1 x2 x3 s) := by
  delta admitPt
  extract_lets -merge +onlyGivenNames l0_0 l0_1
  clear_value l0_0
  clear_value l0_1
  split
  · refine dropLate_keeps ?_
    assumption
  · refine Keeps.ite (fun _ => ?_) (fun _ => ?_)
    · refine modSrc_keeps ?_
      assumption
    refine Keeps.ite (fun _ => ?_) (fun _ => ?_)
    · refine enterPt_keeps ?_
      assumption
    extract_lets -merge +onlyGivenNames l12_0
    clear_value l12_0
    refine Keeps.ite (fun _ => ?_) (fun _ => ?_)
    · refine enterPt_keeps ?_
      assumption
    refine dropLate_keeps ?_
    assumption

theorem runPt_keeps {a : State} {x0 x1 x2 x3 x4 x5 x6 s} (h : Keeps a s) : Keeps a (runPt x0 x1 x2 x3 x4 x5 x6 s) := by
  delta runPt
  extract_lets -merge +onlyGivenNames l0_0
  clear_value l0_0
  split
  · rename_i hq
    have hk := Keeps.ofEq (a := a) (by
      refine takeFree_keeps ?_
      assumption) hq
    split
    · assumption
    · extract_lets -merge +onlyGivenNames l9_0
      clear_value l9_0
      refine Keeps.ite (fun _ => ?_) (fun _ => ?_)
      · refine admitPt_keeps ?_
        assumption
      assumption

theorem fusSlice_keeps {a : State} {x0 x1 s} (h : Keeps a s) : Keeps a (fusSlice x0 x1 s) := by
  delta fusSlice
  split
  · assumption
  · extract_lets -merge +onlyGivenNames l2_0
    clear_value l2_0
    refine modSrc_keeps ?_
    refine modFus_keeps ?_
    assumption

theorem srcDone_keeps {a : State} {x0 x1 x2 s} (h : Keeps a s) : Keeps a (srcDone x0 x1 x2 s) := by
  delta srcDone
  extract_lets -merge +onlyGivenNames l0_0 l0_1
  clear_value l0_0
  have h0_1 : Keeps a l0_1 := by
    subst l0_1
    refine modSrc_keeps ?_
    assumption
  clear_value l0_1
  refine Keeps.ite (fun _ => ?_) (fun _ => ?_)
  · assumption
  refine modStr_keeps ?_
  assumption

theorem fusBatch_keeps {a : State} {x0 x1 s} (h : Keeps a s) : Keeps a (fusBatch x0 x1 s) := by
  delta fusBatch
  split
  · assumption
  · extract_lets -merge +onlyGivenNames l2_0 l2_1 l2_2 l2_3 l2_4 l2_5 l2_6 l2_7 l2_8 l2_9 l2_10
    have h2_0 : Keeps a l2_0 := by
      subst l2_0
      refine fusSlice_keeps ?_
      assumption
    clear_value l2_0
    clear_value l2_1
    subst l2_2
    try dsimp -zeta -zetaHave -zetaUnused -iota -proj only
    clear_value l2_3
    have h2_4 : Keeps a l2_4 := by
      subst l2_4
      split
      · refine Keeps.ite (fun _ => ?_) (fun _ => ?_)
        · refine calSwitch_keeps ?_
          assumption
        assumption
      · assumption
    clear_value l2_4
    clear_value l2_5
    clear_value l2_6
    clear_value l2_7
    clear_value l2_8
    have h2_9 : Keeps a l2_9 := by
      subst l2_9
      refine modFus_keeps ?_
      assumption
    clear_value l2_9
    have h2_10 : Keeps a l2_10 := by
      subst l2_10
      refine Keeps.foldl ?_ fun _ _ _ => ?_
      · assumption
      split
      · refine runPt_keeps ?_
        assumption
      · assumption
    clear_value l2_10
    refine Keeps.ite (fun _ => ?_) (fun _ => ?_)
    · refine srcDone_keeps ?_
      assumption
    refine modSrc_keeps ?_
    assumption

theorem doFusionPointBatch_keeps {a : State} {x0 x1 x2 s} (h : Keeps a s) : Keeps a (doFusionPointBatch x0 x1 x2 s) := by
  delta doFusionPointBatch
  extract_lets -merge +onlyGivenNames l0_0
  have h0_0 : Keeps a l0_0 := by
    subst l0_0
    refine advance_keeps ?_
    assumption
  clear_value l0_0
  refine Keeps.ite (fun _ => ?_) (fun _ => ?_)
  · refine fusBatch_keeps ?_
    assumption
  assumption

theorem fusSliceEnd_keeps {a : State} {x0 s} (h : Keeps a s) : Keeps a (fusSliceEnd x0 s) := by
  delta fusSliceEnd
  extract_lets -merge +onlyGivenNames l0_0
  clear_value l0_0
  split
  · assumption
  · refine Keeps.ite (fun _ => ?_) (fun _ => ?_)
    · extract_lets -merge +onlyGivenNames l5_0
      have h5_0 : Keeps a l5_0 := by
        subst l5_0
        refine modFus_keeps ?_
        assumption
      clear_value l5_0
      refine modSrc_keeps ?_
      assumption
    assumption

theorem snapshot_keeps {a : State} {x0 x1 x2 s} (h : Keeps a s) : Keeps a (snapshot x0 x1 x2 s).2 := by
  delta snapshot
  extract_lets -merge +onlyGivenNames l0_0 l0_1 l0_2 l0_3
  clear_value l0_0
  have h0_1 : Keeps a l0_1 := by
    subst l0_1
    refine modFus_keeps ?_
    assumption
  clear_value l0_1
  clear_value l0_2
  clear_value l0_3
  refine Keeps.ite2 (fun _ => ?_) (fun _ => ?_)
  · refine Keeps.pair ?_
    assumption
  split
  · rename_i hq
    have hk := Keeps.ofEq (a := a) (by
      refine writePart_keeps ?_
      assumption) hq
    extract_lets -merge +onlyGivenNames l17_0 l17_1
    have h17_0 : Keeps a l17_0 := by
      subst l17_0
      refine Keeps.ite (fun _ => ?_) (fun _ => ?_)
      · refine fusWriteErr_keeps ?_
        assumption
      assumption
    clear_value l17_0
    clear_value l17_1
    refine Keeps.ite2 (fun _ => ?_) (fun _ => ?_)
    · split
      · rename_i hq
        have hk := Keeps.ofEq (a := a) (by
          refine writePart_keeps ?_
          assumption) hq
        refine Keeps.pair ?_
        refine Keeps.ite (fun _ => ?_) (fun _ => ?_)
        · refine fusWriteErr_keeps ?_
          assumption
        assumption
    refine Keeps.pair ?_
    assumption

theorem writeResult_keeps {a : State} {x0 x1 x2 s} (h : Keeps a s) : Keeps a (writeResult x0 x1 x2 s) := by
  delta writeResult
  extract_lets -merge +onlyGivenNames l0_0 l0_1 l0_2 l0_3
  clear_value l0_0
  clear_value l0_1
  clear_value l0_2
  clear_value l0_3
  split
  · rename_i hq
    have hk := Keeps.ofEq (a := a) (by
      refine writePart_keeps ?_
      assumption) hq
    extract_lets -merge +onlyGivenNames l10_0 l10_1 l10_2
    have h10_0 : Keeps a l10_0 := by
      subst l10_0
      refine Keeps.ite (fun _ => ?_) (fun _ => ?_)
      · refine fusWriteErr_keeps ?_
        assumption
      assumption
    clear_value l10_0
    have h10_1 : Keeps a l10_1 := by
      subst l10_1
      refine semOp_keeps ?_
      assumption
    clear_value l10_1
    have h10_2 : Keeps a l10_2 := by
      subst l10_2
      refine Keeps.ite (fun _ => ?_) (fun _ => ?_)
      · split
        · refine fusEvent_keeps ?_
          assumption
        · refine Keeps.upd ?_ rfl
          assumption
      assumption
    clear_value l10_2
    refine settle_keeps ?_
    assumption

theorem readPrior_keeps {a : State} {x0 s} (h : Keeps a s) : Keeps a (readPrior x0 s).2 := by
  delta readPrior
  extract_lets -merge +onlyGivenNames l0_0
  clear_value l0_0
  refine Keeps.ite2 (fun _ => ?_) (fun _ => ?_)
  · refine Keeps.pair ?_
    assumption
  split
  · rename_i hq
    have hk := Keeps.ofEq (a := a) (by
      refine readPart_keeps ?_
      assumption) hq
    refine Keeps.pair ?_
    assumption
  · rename_i hq
    have hk := Keeps.ofEq (a := a) (by
      refine readPart_keeps ?_
      assumption) hq
    refine Keeps.pair ?_
    assumption

theorem gridEcc_keeps {a : State} {x0 x1 x2 s} (h : Keeps a s) : Keeps a (gridEcc x0 x1 x2 s) := by
  delta gridEcc
  refine fusEvent_keeps ?_
  refine fusErr_keeps ?_
  refine modFus_keeps ?_
  assumption

theorem fusBoundary_keeps {a : State} {x0 s} (h : Keeps a s) : Keeps a (fusBoundary x0 s) := by
  delta fusBoundary
  refine Keeps.foldl ?_ fun _ _ _ => ?_
  · refine Keeps.foldl ?_ fun _ _ _ => ?_
    · assumption
    refine commit_keeps ?_
    assumption
  refine srcCommit_keeps ?_
  assumption

theorem closeInstant_keeps {a : State} {x0 x1 s} (h : Keeps a s) : Keeps a (closeInstant x0 x1 s) := by
  delta closeInstant
  extract_lets -merge +onlyGivenNames l0_0 l0_1 l0_2 l0_3 l0_4 l0_5 l0_6
  have h0_0 : Keeps a l0_0 := by
    subst l0_0
    refine fusBoundary_keeps ?_
    assumption
  clear_value l0_0
  clear_value l0_1
  have h0_2 : Keeps a l0_2 := by
    subst l0_2
    refine Keeps.ite (fun _ => ?_) (fun _ => ?_)
    · refine gridEcc_keeps ?_
      refine injUse_keeps ?_
      assumption
    assumption
  clear_value l0_2
  have h0_3 : Keeps a l0_3 := by
    subst l0_3
    refine Keeps.foldl ?_ fun _ _ _ => ?_
    · assumption
    refine gridEcc_keeps ?_
    assumption
  clear_value l0_3
  clear_value l0_4
  clear_value l0_5
  clear_value l0_6
  split
  · rename_i hq
    have hk := Keeps.ofEq (a := a) (by
      refine readPrior_keeps ?_
      assumption) hq
    split
    · extract_lets -merge +onlyGivenNames l31_0 l31_1 l31_2 l31_3 l31_4 l31_5 l31_6 l31_7 l31_8 l31_9
      have h31_0 : Keeps a l31_0 := by
        subst l31_0
        refine Keeps.ite (fun _ => ?_) (fun _ => ?_)
        · assumption
        refine fusEvent_keeps ?_
        assumption
      clear_value l31_0
      have h31_1 : Keeps a l31_1 := by
        subst l31_1
        refine modFus_keeps ?_
        assumption
      clear_value l31_1
      clear_value l31_2
      clear_value l31_3
      clear_value l31_4
      have h31_5 : Keeps a l31_5 := by
        subst l31_5
        refine Keeps.ite (fun _ => ?_) (fun _ => ?_)
        · refine modFus_keeps ?_
          assumption
        assumption
      clear_value l31_5
      clear_value l31_6
      clear_value l31_7
      clear_value l31_8
      have h31_9 : Keeps a l31_9 := by
        subst l31_9
        refine modFus_keeps ?_
        assumption
      clear_value l31_9
      split
      · rename_i hq
        have hk := Keeps.ofEq (a := a) (by
          refine snapshot_keeps ?_
          assumption) hq
        extract_lets -merge +onlyGivenNames l67_0 l67_1 l67_2 l67_3 l67_4 l67_5 l67_6 l67_7
        clear_value l67_0
        clear_value l67_1
        clear_value l67_2
        have h67_3 : Keeps a l67_3 := by
          subst l67_3
          refine writeResult_keeps ?_
          assumption
        clear_value l67_3
        have h67_4 : Keeps a l67_4 := by
          subst l67_4
          refine Keeps.foldl ?_ fun _ _ _ => ?_
          · assumption
          refine modSensor_keeps ?_
          assumption
        clear_value l67_4
        clear_value l67_5
        subst l67_6
        try dsimp -zeta -zetaHave -zetaUnused -iota -proj only
        have h67_7 : Keeps a l67_7 := by
          subst l67_7
          refine modFus_keeps ?_
          assumption
        clear_value l67_7
        refine Keeps.ite (fun _ => ?_) (fun _ => ?_)
        · refine fusEvent_keeps ?_
          refine fusErr_keeps ?_
          assumption
        assumption

theorem doInstantClose_keeps {a : State} {x0 x1 x2 s} (h : Keeps a s) : Keeps a (doInstantClose x0 x1 x2 s) := by
  delta doInstantClose
  extract_lets -merge +onlyGivenNames l0_0
  have h0_0 : Keeps a l0_0 := by
    subst l0_0
    refine advance_keeps ?_
    assumption
  clear_value l0_0
  refine Keeps.ite (fun _ => ?_) (fun _ => ?_)
  · refine closeInstant_keeps ?_
    assumption
  assumption

theorem doSliceEnd_keeps {a : State} {x0 x1 x2 s} (h : Keeps a s) : Keeps a (doSliceEnd x0 x1 x2 s) := by
  delta doSliceEnd
  extract_lets -merge +onlyGivenNames l0_0
  have h0_0 : Keeps a l0_0 := by
    subst l0_0
    refine advance_keeps ?_
    assumption
  clear_value l0_0
  refine Keeps.ite (fun _ => ?_) (fun _ => ?_)
  · refine Keeps.ite (fun _ => ?_) (fun _ => ?_)
    · refine sdlSliceEnd_keeps ?_
      assumption
    refine Keeps.ite (fun _ => ?_) (fun _ => ?_)
    · refine fusSliceEnd_keeps ?_
      assumption
    assumption
  assumption

end Sys2Proof.Machine
end

