-- ==== Sys2Proof/Laws/KeepsHostReset.lean ====
section
/-!
SUPPORT. Laws/KeepsHostReset.lean: the operations of Machine/HostReset.lean keep what `Keeps` says (Laws/Keeps.lean).
-/
namespace Sys2Proof.Machine

theorem setPerst_keeps {a : State} {x0 x1 s} (h : Keeps a s) : Keeps a (setPerst x0 x1 s) := by
  delta setPerst
  refine Keeps.upd ?_ rfl
  assumption

theorem abandon_keeps {a : State} {x0 s} (h : Keeps a s) : Keeps a (abandon x0 s) := by
  delta abandon
  extract_lets -merge +onlyGivenNames l0_0 l0_1
  clear_value l0_0
  clear_value l0_1
  refine Keeps.foldl ?_ fun _ _ _ => ?_
  · refine setInflight_keeps ?_
    assumption
  refine modPart_keeps ?_ fun _ => rfl
  assumption

theorem resetRegs_keeps {a : State} {x0 x1 s} (h : Keeps a s) : Keeps a (resetRegs x0 x1 s) := by
  delta resetRegs
  refine Keeps.upd ?_ rfl
  assumption

theorem vfReset_keeps {a : State} {x0 s} (h : Keeps a s) : Keeps a (vfReset x0 s) := by
  delta vfReset
  extract_lets -merge +onlyGivenNames l0_0 l0_1
  have h0_0 : Keeps a l0_0 := by
    subst l0_0
    refine ringsOff_keeps ?_
    refine abandon_keeps ?_
    assumption
  clear_value l0_0
  have h0_1 : Keeps a l0_1 := by
    subst l0_1
    refine Keeps.foldl ?_ fun _ _ _ => ?_
    · assumption
    refine destroyForced_keeps ?_
    assumption
  clear_value l0_1
  refine modFn_keeps ?_
  refine resetRegs_keeps ?_
  assumption

theorem doVfFlr_keeps {a : State} {x0 x1 s} (h : Keeps a s) : Keeps a (doVfFlr x0 x1 s) := by
  delta doVfFlr
  extract_lets -merge +onlyGivenNames l0_0
  have h0_0 : Keeps a l0_0 := by
    subst l0_0
    refine advance_keeps ?_
    assumption
  clear_value l0_0
  refine Keeps.ite (fun _ => ?_) (fun _ => ?_)
  · refine settle_keeps ?_
    refine eventFor_keeps ?_
    refine vfReset_keeps ?_
    assumption
  assumption

theorem clearVfs_keeps {a : State} {x0 s} (h : Keeps a s) : Keeps a (clearVfs x0 s) := by
  delta clearVfs
  extract_lets -merge +onlyGivenNames l0_0
  have h0_0 : Keeps a l0_0 := by
    subst l0_0
    refine modPLink_keeps ?_
    assumption
  clear_value l0_0
  refine Keeps.foldl ?_ fun _ _ _ => ?_
  · assumption
  refine vfReset_keeps ?_
  assumption

theorem pfReset_keeps {a : State} {x0 s} (h : Keeps a s) : Keeps a (pfReset x0 s) := by
  delta pfReset
  refine clearVfs_keeps ?_
  refine Keeps.ite (fun _ => ?_) (fun _ => ?_)
  · refine ringsOff_keeps ?_
    refine abandon_keeps ?_
    assumption
  assumption

theorem clearCounts_keeps {a : State} {x0 s} (h : Keeps a s) : Keeps a (clearCounts x0 s) := by
  delta clearCounts
  refine modFn_keeps ?_
  assumption

theorem doPfFlr_keeps {a : State} {x0 x1 s} (h : Keeps a s) : Keeps a (doPfFlr x0 x1 s) := by
  delta doPfFlr
  extract_lets -merge +onlyGivenNames l0_0 l0_1
  have h0_0 : Keeps a l0_0 := by
    subst l0_0
    refine advance_keeps ?_
    assumption
  clear_value l0_0
  have h0_1 : Keeps a l0_1 := by
    subst l0_1
    refine pfReset_keeps ?_
    assumption
  clear_value l0_1
  refine Keeps.ite (fun _ => ?_) (fun _ => ?_)
  · refine Keeps.ite (fun _ => ?_) (fun _ => ?_)
    · refine settle_keeps ?_
      refine event_keeps ?_
      refine clearCounts_keeps ?_
      assumption
    split
    · rename_i hq
      have hk := Keeps.ofEq (a := a) (by
        refine takeFree_keeps ?_
        assumption) hq
      refine settle_keeps ?_
      refine event_keeps ?_
      assumption
  assumption

theorem portReset_keeps {a : State} {x0 s} (h : Keeps a s) : Keeps a (portReset x0 s) := by
  delta portReset
  refine Keeps.foldl ?_ fun _ _ _ => ?_
  · assumption
  refine Keeps.ite (fun _ => ?_) (fun _ => ?_)
  · refine modPLink_keeps ?_
    refine pfReset_keeps ?_
    assumption
  assumption

theorem doPortReset_keeps {a : State} {x0 x1 x2 s} (h : Keeps a s) : Keeps a (doPortReset x0 x1 x2 s) := by
  delta doPortReset
  extract_lets -merge +onlyGivenNames l0_0
  have h0_0 : Keeps a l0_0 := by
    subst l0_0
    refine portReset_keeps ?_
    refine advance_keeps ?_
    assumption
  clear_value l0_0
  refine settle_keeps ?_
  refine Keeps.ite (fun _ => ?_) (fun _ => ?_)
  · refine setPerst_keeps ?_
    assumption
  assumption

theorem doVfEnableWrite_keeps {a : State} {x0 x1 x2 x3 s} (h : Keeps a s) : Keeps a (doVfEnableWrite x0 x1 x2 x3 s) := by
  delta doVfEnableWrite
  extract_lets -merge +onlyGivenNames l0_0 l0_1
  have h0_0 : Keeps a l0_0 := by
    subst l0_0
    refine advance_keeps ?_
    assumption
  clear_value l0_0
  have h0_1 : Keeps a l0_1 := by
    subst l0_1
    refine modPLink_keeps ?_
    assumption
  clear_value l0_1
  refine Keeps.ite (fun _ => ?_) (fun _ => ?_)
  · refine Keeps.ite (fun _ => ?_) (fun _ => ?_)
    · refine modPLink_keeps ?_
      assumption
    refine Keeps.ite (fun _ => ?_) (fun _ => ?_)
    · refine settle_keeps ?_
      refine clearVfs_keeps ?_
      assumption
    assumption
  assumption

end Sys2Proof.Machine
end

