-- ==== Sys2Proof/Laws/KeepsIslands.lean ====
section
/-!
SUPPORT. Laws/KeepsIslands.lean: the operations of Machine/Islands.lean keep what `Keeps` says (Laws/Keeps.lean).
-/
namespace Sys2Proof.Machine

theorem islErr_keeps {a : State} {x0 x1 s} (h : Keeps a s) : Keeps a (islErr x0 x1 s) := by
  delta islErr
  refine stick_keeps ?_
  assumption

theorem modSs_keeps {a : State} {x0 x1 x2 s} (h : Keeps a s) : Keeps a (modSs x0 x1 x2 s) := by
  delta modSs
  refine modIsl_keeps ?_
  assumption

theorem ssEvent_keeps {a : State} {x0 x1 x2 x3 s} (h : Keeps a s) : Keeps a (ssEvent x0 x1 x2 x3 s) := by
  delta ssEvent
  refine record_keeps ?_
  assumption

theorem goBusOff_keeps {a : State} {x0 s} (h : Keeps a s) : Keeps a (goBusOff x0 s) := by
  delta goBusOff
  refine event_keeps ?_
  refine islErr_keeps ?_
  refine modIsl_keeps ?_
  assumption

theorem canSend_keeps {a : State} {x0 s} (h : Keeps a s) : Keeps a (canSend x0 s) := by
  delta canSend
  extract_lets -merge +onlyGivenNames l0_0 l0_1 l0_2 l0_3 l0_4
  have h0_0 : Keeps a l0_0 := by
    subst l0_0
    refine commit_keeps ?_
    assumption
  clear_value l0_0
  clear_value l0_1
  have h0_2 : Keeps a l0_2 := by
    subst l0_2
    refine injSpend_keeps ?_
    refine modIsl_keeps ?_
    assumption
  clear_value l0_2
  clear_value l0_3
  have h0_4 : Keeps a l0_4 := by
    subst l0_4
    refine send_keeps ?_
    assumption
  clear_value l0_4
  refine Keeps.ite (fun _ => ?_) (fun _ => ?_)
  · assumption
  refine Keeps.ite (fun _ => ?_) (fun _ => ?_)
  · refine Keeps.ite (fun _ => ?_) (fun _ => ?_)
    · refine goBusOff_keeps ?_
      assumption
    assumption
  refine modIsl_keeps ?_
  assumption

theorem doCanStatusFrame_keeps {a : State} {x0 x1 s} (h : Keeps a s) : Keeps a (doCanStatusFrame x0 x1 s) := by
  delta doCanStatusFrame
  extract_lets -merge +onlyGivenNames l0_0 l0_1
  have h0_0 : Keeps a l0_0 := by
    subst l0_0
    refine advance_keeps ?_
    assumption
  clear_value l0_0
  clear_value l0_1
  refine Keeps.ite (fun _ => ?_) (fun _ => ?_)
  · refine canSend_keeps ?_
    assumption
  assumption

theorem doCanBusoff_keeps {a : State} {x0 x1 s} (h : Keeps a s) : Keeps a (doCanBusoff x0 x1 s) := by
  delta doCanBusoff
  extract_lets -merge +onlyGivenNames l0_0
  have h0_0 : Keeps a l0_0 := by
    subst l0_0
    refine advance_keeps ?_
    assumption
  clear_value l0_0
  refine Keeps.ite (fun _ => ?_) (fun _ => ?_)
  · refine goBusOff_keeps ?_
    assumption
  assumption

theorem doCanBusoffRecovery_keeps {a : State} {x0 x1 s} (h : Keeps a s) : Keeps a (doCanBusoffRecovery x0 x1 s) := by
  delta doCanBusoffRecovery
  refine modIsl_keeps ?_
  refine advance_keeps ?_
  assumption

theorem markRecord_keeps {a : State} {x0 x1 x2 s} (h : Keeps a s) : Keeps a (markRecord x0 x1 x2 s) := by
  delta markRecord
  extract_lets -merge +onlyGivenNames l0_0
  clear_value l0_0
  refine writePart_keeps ?_
  assumption

theorem enterSafe_keeps {a : State} {x0 x1 x2 x3 s} (h : Keeps a s) : Keeps a (enterSafe x0 x1 x2 x3 s) := by
  delta enterSafe
  extract_lets -merge +onlyGivenNames l0_0 l0_1 l0_2 l0_3 l0_4
  clear_value l0_0
  have h0_1 : Keeps a l0_1 := by
    subst l0_1
    refine Keeps.foldl ?_ fun _ _ _ => ?_
    · assumption
    refine Keeps.foldl ?_ fun _ _ _ => ?_
    · assumption
    refine markRecord_keeps ?_
    assumption
  clear_value l0_1
  have h0_2 : Keeps a l0_2 := by
    subst l0_2
    refine modIsl_keeps ?_
    assumption
  clear_value l0_2
  have h0_3 : Keeps a l0_3 := by
    subst l0_3
    refine canSend_keeps ?_
    assumption
  clear_value l0_3
  have h0_4 : Keeps a l0_4 := by
    subst l0_4
    refine modIsl_keeps ?_
    assumption
  clear_value l0_4
  refine event_keeps ?_
  assumption

theorem detect_keeps {a : State} {x0 x1 x2 x3 s} (h : Keeps a s) : Keeps a (detect x0 x1 x2 x3 s) := by
  delta detect
  split
  · refine enterSafe_keeps ?_
    assumption
  · refine enterSafe_keeps ?_
    assumption
  · refine modIsl_keeps ?_
    assumption
  · assumption
  · assumption

theorem degrade_keeps {a : State} {x0 x1 x2 x3 s} (h : Keeps a s) : Keeps a (degrade x0 x1 x2 x3 s) := by
  delta degrade
  refine modIsl_keeps ?_
  assumption

theorem restore_keeps {a : State} {x0 x1 x2 s} (h : Keeps a s) : Keeps a (restore x0 x1 x2 s) := by
  delta restore
  refine modIsl_keeps ?_
  assumption

theorem eachIsland_keeps {a : State} {x0 s} (h : Keeps a s) (h0 : ∀ y0 y1, Keeps a y1 → Keeps a (x0 y0 y1)) : Keeps a (eachIsland x0 s) := by
  delta eachIsland
  apply_assumption
  apply_assumption
  assumption

theorem applyCfg_keeps {a : State} {x0 x1 x2 s} (h : Keeps a s) : Keeps a (applyCfg x0 x1 x2 s) := by
  delta applyCfg
  split
  · refine modSs_keeps ?_
    assumption
  · extract_lets -merge +onlyGivenNames l3_0
    clear_value l3_0
    refine modSs_keeps ?_
    assumption

theorem safetyBody_keeps {a : State} {x0 x1 s} (h : Keeps a s) : Keeps a (safetyBody x0 x1 s) := by
  delta safetyBody
  extract_lets -merge +onlyGivenNames l0_0 l0_1 l0_2
  clear_value l0_0
  clear_value l0_1
  clear_value l0_2
  refine finishOk_keeps ?_
  refine Keeps.ite (fun _ => ?_) (fun _ => ?_)
  · refine modSs_keeps ?_
    assumption
  refine applyCfg_keeps ?_
  assumption

theorem doSafetyCfg_keeps {a : State} {x0 x1 x2 s} (h : Keeps a s) : Keeps a (doSafetyCfg x0 x1 x2 s) := by
  delta doSafetyCfg
  refine runScion_keeps ?_ ?_
  · assumption
  intro _ _ _
  refine safetyBody_keeps ?_
  assumption

theorem removeStreams_keeps {a : State} {x0 s} (h : Keeps a s) : Keeps a (removeStreams x0 s) := by
  delta removeStreams
  refine eachIsland_keeps ?_ ?_
  · assumption
  intro _ _ _
  refine Keeps.foldl ?_ fun _ _ _ => ?_
  · assumption
  extract_lets -merge +onlyGivenNames l5_0
  clear_value l5_0
  refine Keeps.ite (fun _ => ?_) (fun _ => ?_)
  · refine modSs_keeps ?_
    assumption
  refine Keeps.ite (fun _ => ?_) (fun _ => ?_)
  · refine modSs_keeps ?_
    assumption
  assumption

theorem modSw_keeps {a : State} {x0 x1 x2 x3 s} (h : Keeps a s) : Keeps a (modSw x0 x1 x2 x3 s) := by
  delta modSw
  refine modSs_keeps ?_
  assumption

theorem swatchFail_keeps {a : State} {x0 x1 x2 x3 s} (h : Keeps a s) : Keeps a (swatchFail x0 x1 x2 x3 s) := by
  delta swatchFail
  extract_lets -merge +onlyGivenNames l0_0 l0_1
  clear_value l0_0
  have h0_1 : Keeps a l0_1 := by
    subst l0_1
    refine record_keeps ?_
    assumption
  clear_value l0_1
  refine detect_keeps ?_
  assumption

theorem swatchDue_keeps {a : State} {x0 x1 x2 s} (h : Keeps a s) : Keeps a (swatchDue x0 x1 x2 s) := by
  delta swatchDue
  extract_lets -merge +onlyGivenNames l0_0 l0_1
  clear_value l0_0
  clear_value l0_1
  split
  · rename_i hq
    have hk := Keeps.ofEq (a := a) (by
      refine readPart_keeps ?_
      assumption) hq
    split
    · refine swatchFail_keeps ?_
      refine modSw_keeps ?_
      assumption
    · extract_lets -merge +onlyGivenNames l12_0 l12_1 l12_2
      clear_value l12_0
      have h12_1 : Keeps a l12_1 := by
        subst l12_1
        refine modSw_keeps ?_
        assumption
      clear_value l12_1
      have h12_2 : Keeps a l12_2 := by
        subst l12_2
        refine Keeps.ite (fun _ => ?_) (fun _ => ?_)
        · refine injUse_keeps ?_
          assumption
        assumption
      clear_value l12_2
      refine Keeps.ite (fun _ => ?_) (fun _ => ?_)
      · assumption
      refine swatchFail_keeps ?_
      assumption

theorem swatchTry_keeps {a : State} {x0 x1 x2 s} (h : Keeps a s) : Keeps a (swatchTry x0 x1 x2 s) := by
  delta swatchTry
  extract_lets -merge +onlyGivenNames l0_0 l0_1 l0_2 l0_3 l0_4 l0_5 l0_6 l0_7 l0_8 l0_9
  have h0_0 : Keeps a l0_0 := by
    subst l0_0
    refine modSw_keeps ?_
    assumption
  clear_value l0_0
  clear_value l0_1
  clear_value l0_2
  clear_value l0_3
  clear_value l0_4
  clear_value l0_5
  have h0_6 : Keeps a l0_6 := by
    subst l0_6
    refine Keeps.ite (fun _ => ?_) (fun _ => ?_)
    · assumption
    refine Keeps.ite (fun _ => ?_) (fun _ => ?_)
    · refine injSpend_keeps ?_
      refine modSw_keeps ?_
      assumption
    refine Keeps.ite (fun _ => ?_) (fun _ => ?_)
    · refine makeReady_keeps ?_
      assumption
    refine modSw_keeps ?_
    assumption
  clear_value l0_6
  clear_value l0_7
  have h0_8 : Keeps a l0_8 := by
    subst l0_8
    refine record_keeps ?_
    refine islErr_keeps ?_
    assumption
  clear_value l0_8
  have h0_9 : Keeps a l0_9 := by
    subst l0_9
    refine modSw_keeps ?_
    assumption
  clear_value l0_9
  refine Keeps.ite (fun _ => ?_) (fun _ => ?_)
  · refine degrade_keeps ?_
    refine modSs_keeps ?_
    assumption
  assumption

theorem swatchCount_keeps {a : State} {x0 x1 x2 s} (h : Keeps a s) : Keeps a (swatchCount x0 x1 x2 s) := by
  delta swatchCount
  extract_lets -merge +onlyGivenNames l0_0 l0_1
  clear_value l0_0
  have h0_1 : Keeps a l0_1 := by
    subst l0_1
    refine modSw_keeps ?_
    assumption
  clear_value l0_1
  refine Keeps.ite (fun _ => ?_) (fun _ => ?_)
  · assumption
  refine Keeps.ite (fun _ => ?_) (fun _ => ?_)
  · refine swatchTry_keeps ?_
    assumption
  refine Keeps.ite (fun _ => ?_) (fun _ => ?_)
  · refine swatchDue_keeps ?_
    assumption
  assumption

theorem doSwatchDone_keeps {a : State} {x0 x1 x2 x3 s} (h : Keeps a s) : Keeps a (doSwatchDone x0 x1 x2 x3 s) := by
  delta doSwatchDone
  extract_lets -merge +onlyGivenNames l0_0 l0_1
  have h0_0 : Keeps a l0_0 := by
    subst l0_0
    refine advance_keeps ?_
    assumption
  clear_value l0_0
  clear_value l0_1
  split
  · assumption
  · refine Keeps.ite (fun _ => ?_) (fun _ => ?_)
    · refine restore_keeps ?_
      refine modSs_keeps ?_
      refine modSw_keeps ?_
      assumption
    refine swatchFail_keeps ?_
    refine modSw_keeps ?_
    assumption

theorem unmatched_keeps {a : State} {x0 x1 x2 s} (h : Keeps a s) : Keeps a (unmatched x0 x1 x2 s) := by
  delta unmatched
  extract_lets -merge +onlyGivenNames l0_0 l0_1
  clear_value l0_0
  have h0_1 : Keeps a l0_1 := by
    subst l0_1
    refine markRecord_keeps ?_
    assumption
  clear_value l0_1
  refine modSs_keeps ?_
  assumption

theorem passed_keeps {a : State} {x0 x1 s} (h : Keeps a s) : Keeps a (passed x0 x1 s) := by
  delta passed
  extract_lets -merge +onlyGivenNames l0_0
  clear_value l0_0
  refine modSs_keeps ?_
  assumption

theorem mismatched_keeps {a : State} {x0 x1 x2 x3 x4 x5 s} (h : Keeps a s) : Keeps a (mismatched x0 x1 x2 x3 x4 x5 s) := by
  delta mismatched
  extract_lets -merge +onlyGivenNames l0_0
  have h0_0 : Keeps a l0_0 := by
    subst l0_0
    refine modSs_keeps ?_
    assumption
  clear_value l0_0
  split
  · rename_i hq
    have hk := Keeps.ofEq (a := a) (by
      split
      · refine Keeps.pair ?_
        assumption
      · refine takeFree_keeps ?_
        assumption) hq
    extract_lets -merge +onlyGivenNames l14_0 l14_1
    have h14_0 : Keeps a l14_0 := by
      subst l14_0
      refine ssEvent_keeps ?_
      assumption
    clear_value l14_0
    clear_value l14_1
    refine Keeps.ite (fun _ => ?_) (fun _ => ?_)
    · refine detect_keeps ?_
      assumption
    assumption

theorem tooOld_keeps {a : State} {x0 x1 x2 x3 x4 s} (h : Keeps a s) : Keeps a (tooOld x0 x1 x2 x3 x4 s) := by
  delta tooOld
  refine detect_keeps ?_
  refine ssEvent_keeps ?_
  assumption

theorem judge_keeps {a : State} {x0 x1 x2 s} (h : Keeps a s) : Keeps a (judge x0 x1 x2 s) := by
  delta judge
  extract_lets -merge +onlyGivenNames l0_0 l0_1 l0_2 l0_3
  clear_value l0_0
  clear_value l0_1
  have h0_2 : Keeps a l0_2 := by
    subst l0_2
    refine Keeps.ite (fun _ => ?_) (fun _ => ?_)
    · refine injUse_keeps ?_
      assumption
    assumption
  clear_value l0_2
  clear_value l0_3
  split
  · assumption
  · extract_lets -merge +onlyGivenNames l13_0 l13_1 l13_2 l13_3 l13_4
    clear_value l13_0
    clear_value l13_1
    clear_value l13_2
    clear_value l13_3
    have h13_4 : Keeps a l13_4 := by
      subst l13_4
      refine modSs_keeps ?_
      assumption
    clear_value l13_4
    split
    · extract_lets -merge +onlyGivenNames l24_0
      have h24_0 : Keeps a l24_0 := by
        subst l24_0
        refine Keeps.ite (fun _ => ?_) (fun _ => ?_)
        · assumption
        refine Keeps.foldl ?_ fun _ _ _ => ?_
        · assumption
        refine markRecord_keeps ?_
        assumption
      clear_value l24_0
      split
      · refine passed_keeps ?_
        assumption
      · refine tooOld_keeps ?_
        assumption
      · assumption
      · refine mismatched_keeps ?_
        assumption

theorem dropPast_keeps {a : State} {x0 x1 s} (h : Keeps a s) : Keeps a (dropPast x0 x1 s) := by
  delta dropPast
  extract_lets -merge +onlyGivenNames l0_0
  clear_value l0_0
  split
  · assumption
  · extract_lets -merge +onlyGivenNames l4_0 l4_1
    clear_value l4_0
    have h4_1 : Keeps a l4_1 := by
      subst l4_1
      refine modSs_keeps ?_
      assumption
    clear_value l4_1
    refine Keeps.foldl ?_ fun _ _ _ => ?_
    · assumption
    refine unmatched_keeps ?_
    assumption

theorem keepRecord_keeps {a : State} {x0 x1 x2 s} (h : Keeps a s) : Keeps a (keepRecord x0 x1 x2 s) := by
  delta keepRecord
  extract_lets -merge +onlyGivenNames l0_0 l0_1
  clear_value l0_0
  have h0_1 : Keeps a l0_1 := by
    subst l0_1
    split
    · refine Keeps.ite (fun _ => ?_) (fun _ => ?_)
      · assumption
      refine unmatched_keeps ?_
      refine modSs_keeps ?_
      assumption
    · assumption
  clear_value l0_1
  refine modSs_keeps ?_
  assumption

theorem pairRecord_keeps {a : State} {x0 x1 x2 s} (h : Keeps a s) : Keeps a (pairRecord x0 x1 x2 s) := by
  delta pairRecord
  extract_lets -merge +onlyGivenNames l0_0 l0_1 l0_2
  clear_value l0_0
  clear_value l0_1
  clear_value l0_2
  refine Keeps.ite (fun _ => ?_) (fun _ => ?_)
  · refine unmatched_keeps ?_
    assumption
  split
  · refine keepRecord_keeps ?_
    assumption
  · extract_lets -merge +onlyGivenNames l10_0
    have h10_0 : Keeps a l10_0 := by
      subst l10_0
      refine modSs_keeps ?_
      assumption
    clear_value l10_0
    refine dropPast_keeps ?_
    refine judge_keeps ?_
    assumption

theorem safeRecord_keeps {a : State} {x0 x1 x2 s} (h : Keeps a s) : Keeps a (safeRecord x0 x1 x2 s) := by
  delta safeRecord
  refine Keeps.ite (fun _ => ?_) (fun _ => ?_)
  · assumption
  refine markRecord_keeps ?_
  assumption

theorem takeRecord_keeps {a : State} {x0 x1 x2 s} (h : Keeps a s) : Keeps a (takeRecord x0 x1 x2 s) := by
  delta takeRecord
  extract_lets -merge +onlyGivenNames l0_0
  have h0_0 : Keeps a l0_0 := by
    subst l0_0
    refine swatchCount_keeps ?_
    assumption
  clear_value l0_0
  refine Keeps.ite (fun _ => ?_) (fun _ => ?_)
  · refine safeRecord_keeps ?_
    assumption
  refine Keeps.ite (fun _ => ?_) (fun _ => ?_)
  · refine judge_keeps ?_
    assumption
  refine pairRecord_keeps ?_
  assumption

theorem receiveRecord_keeps {a : State} {x0 x1 s} (h : Keeps a s) : Keeps a (receiveRecord x0 x1 s) := by
  delta receiveRecord
  extract_lets -merge +onlyGivenNames l0_0 l0_1 l0_2 l0_3 l0_4 l0_5 l0_6
  clear_value l0_0
  clear_value l0_1
  subst l0_2
  try dsimp -zeta -zetaHave -zetaUnused -iota -proj only
  clear_value l0_3
  clear_value l0_4
  have h0_5 : Keeps a l0_5 := by
    subst l0_5
    refine Keeps.ite (fun _ => ?_) (fun _ => ?_)
    · refine injUse_keeps ?_
      assumption
    assumption
  clear_value l0_5
  clear_value l0_6
  refine Keeps.ite (fun _ => ?_) (fun _ => ?_)
  · assumption
  split
  · refine Keeps.ite (fun _ => ?_) (fun _ => ?_)
    · refine injSpend_keeps ?_
      assumption
    refine takeRecord_keeps ?_
    assumption
  · refine Keeps.ite (fun _ => ?_) (fun _ => ?_)
    · assumption
    refine markRecord_keeps ?_
    assumption
  · assumption
  · assumption
  · assumption

theorem doResultRecord_keeps {a : State} {x0 x1 s} (h : Keeps a s) : Keeps a (doResultRecord x0 x1 s) := by
  delta doResultRecord
  extract_lets -merge +onlyGivenNames l0_0
  have h0_0 : Keeps a l0_0 := by
    subst l0_0
    refine advance_keeps ?_
    assumption
  clear_value l0_0
  split
  · assumption
  · refine Keeps.ite (fun _ => ?_) (fun _ => ?_)
    · assumption
    refine settle_keeps ?_
    refine receiveRecord_keeps ?_
    refine Keeps.upd ?_ rfl
    assumption

theorem doUnmatchedExpiry_keeps {a : State} {x0 x1 x2 s} (h : Keeps a s) : Keeps a (doUnmatchedExpiry x0 x1 x2 s) := by
  delta doUnmatchedExpiry
  extract_lets -merge +onlyGivenNames l0_0 l0_1 l0_2 l0_3
  have h0_0 : Keeps a l0_0 := by
    subst l0_0
    refine advance_keeps ?_
    assumption
  clear_value l0_0
  clear_value l0_1
  clear_value l0_2
  clear_value l0_3
  refine Keeps.ite (fun _ => ?_) (fun _ => ?_)
  · refine Keeps.foldl ?_ fun _ _ _ => ?_
    · refine modSs_keeps ?_
      assumption
    refine unmatched_keeps ?_
    assumption
  assumption

theorem doResultDeadline_keeps {a : State} {x0 x1 x2 s} (h : Keeps a s) : Keeps a (doResultDeadline x0 x1 x2 s) := by
  delta doResultDeadline
  extract_lets -merge +onlyGivenNames l0_0 l0_1 l0_2 l0_3 l0_4
  have h0_0 : Keeps a l0_0 := by
    subst l0_0
    refine advance_keeps ?_
    assumption
  clear_value l0_0
  clear_value l0_1
  clear_value l0_2
  have h0_3 : Keeps a l0_3 := by
    subst l0_3
    refine modSs_keeps ?_
    assumption
  clear_value l0_3
  clear_value l0_4
  refine Keeps.ite (fun _ => ?_) (fun _ => ?_)
  · refine Keeps.ite (fun _ => ?_) (fun _ => ?_)
    · refine detect_keeps ?_
      refine ssEvent_keeps ?_
      assumption
    assumption
  assumption

theorem depStale_keeps {a : State} {x0 x1 x2 x3 x4 s} (h : Keeps a s) : Keeps a (depStale x0 x1 x2 x3 x4 s) := by
  delta depStale
  extract_lets -merge +onlyGivenNames l0_0 l0_1 l0_2
  clear_value l0_0
  have h0_1 : Keeps a l0_1 := by
    subst l0_1
    refine modSs_keeps ?_
    assumption
  clear_value l0_1
  have h0_2 : Keeps a l0_2 := by
    subst l0_2
    refine ssEvent_keeps ?_
    assumption
  clear_value l0_2
  refine Keeps.ite (fun _ => ?_) (fun _ => ?_)
  · refine Keeps.ite (fun _ => ?_) (fun _ => ?_)
    · refine detect_keeps ?_
      assumption
    assumption
  assumption

theorem depFresh_keeps {a : State} {x0 x1 x2 x3 s} (h : Keeps a s) : Keeps a (depFresh x0 x1 x2 x3 s) := by
  delta depFresh
  refine modSs_keeps ?_
  assumption

theorem doStaleNotice_keeps {a : State} {x0 x1 s} (h : Keeps a s) : Keeps a (doStaleNotice x0 x1 s) := by
  delta doStaleNotice
  extract_lets -merge +onlyGivenNames l0_0 l0_1
  have h0_0 : Keeps a l0_0 := by
    subst l0_0
    refine advance_keeps ?_
    assumption
  clear_value l0_0
  clear_value l0_1
  split
  · assumption
  · refine Keeps.ite (fun _ => ?_) (fun _ => ?_)
    · assumption
    extract_lets -merge +onlyGivenNames l11_0 l11_1
    clear_value l11_0
    have h11_1 : Keeps a l11_1 := by
      subst l11_1
      refine modIsl_keeps ?_
      assumption
    clear_value l11_1
    refine Keeps.foldl ?_ fun _ _ _ => ?_
    · assumption
    refine Keeps.ite (fun _ => ?_) (fun _ => ?_)
    · refine depStale_keeps ?_
      assumption
    refine depFresh_keeps ?_
    assumption

theorem doLockstepError_keeps {a : State} {x0 x1 s} (h : Keeps a s) : Keeps a (doLockstepError x0 x1 s) := by
  delta doLockstepError
  extract_lets -merge +onlyGivenNames l0_0 l0_1
  have h0_0 : Keeps a l0_0 := by
    subst l0_0
    refine advance_keeps ?_
    assumption
  clear_value l0_0
  clear_value l0_1
  refine Keeps.ite (fun _ => ?_) (fun _ => ?_)
  · refine detect_keeps ?_
    assumption
  assumption

theorem doInputDisagreement_keeps {a : State} {x0 x1 s} (h : Keeps a s) : Keeps a (doInputDisagreement x0 x1 s) := by
  delta doInputDisagreement
  extract_lets -merge +onlyGivenNames l0_0
  have h0_0 : Keeps a l0_0 := by
    subst l0_0
    refine advance_keeps ?_
    assumption
  clear_value l0_0
  refine Keeps.ite (fun _ => ?_) (fun _ => ?_)
  · refine detect_keeps ?_
    assumption
  assumption

theorem doClockCheck_keeps {a : State} {x0 x1 x2 x3 s} (h : Keeps a s) : Keeps a (doClockCheck x0 x1 x2 x3 s) := by
  delta doClockCheck
  extract_lets -merge +onlyGivenNames l0_0 l0_1 l0_2
  have h0_0 : Keeps a l0_0 := by
    subst l0_0
    refine advance_keeps ?_
    assumption
  clear_value l0_0
  clear_value l0_1
  have h0_2 : Keeps a l0_2 := by
    subst l0_2
    refine Keeps.ite (fun _ => ?_) (fun _ => ?_)
    · refine injUse_keeps ?_
      assumption
    assumption
  clear_value l0_2
  refine Keeps.ite (fun _ => ?_) (fun _ => ?_)
  · refine Keeps.ite (fun _ => ?_) (fun _ => ?_)
    · refine detect_keeps ?_
      assumption
    assumption
  assumption

theorem doIslandHeartbeat_keeps {a : State} {x0 x1 x2 s} (h : Keeps a s) : Keeps a (doIslandHeartbeat x0 x1 x2 s) := by
  delta doIslandHeartbeat
  extract_lets -merge +onlyGivenNames l0_0 l0_1 l0_2
  have h0_0 : Keeps a l0_0 := by
    subst l0_0
    refine advance_keeps ?_
    assumption
  clear_value l0_0
  clear_value l0_1
  have h0_2 : Keeps a l0_2 := by
    subst l0_2
    refine modIsl_keeps ?_
    assumption
  clear_value l0_2
  refine Keeps.ite (fun _ => ?_) (fun _ => ?_)
  · refine Keeps.ite (fun _ => ?_) (fun _ => ?_)
    · assumption
    refine modIsl_keeps ?_
    assumption
  assumption

theorem doIslLinkLoss_keeps {a : State} {x0 x1 s} (h : Keeps a s) : Keeps a (doIslLinkLoss x0 x1 s) := by
  delta doIslLinkLoss
  extract_lets -merge +onlyGivenNames l0_0 l0_1 l0_2 l0_3
  have h0_0 : Keeps a l0_0 := by
    subst l0_0
    refine advance_keeps ?_
    assumption
  clear_value l0_0
  clear_value l0_1
  clear_value l0_2
  have h0_3 : Keeps a l0_3 := by
    subst l0_3
    refine modIsl_keeps ?_
    assumption
  clear_value l0_3
  refine Keeps.ite (fun _ => ?_) (fun _ => ?_)
  · refine detect_keeps ?_
    refine event_keeps ?_
    refine islErr_keeps ?_
    assumption
  assumption

theorem doIslandLinkMessage_keeps {a : State} {x0 x1 x2 s} (h : Keeps a s) : Keeps a (doIslandLinkMessage x0 x1 x2 s) := by
  delta doIslandLinkMessage
  extract_lets -merge +onlyGivenNames l0_0
  have h0_0 : Keeps a l0_0 := by
    subst l0_0
    refine advance_keeps ?_
    assumption
  clear_value l0_0
  split
  · assumption
  · extract_lets -merge +onlyGivenNames l8_0
    have h8_0 : Keeps a l8_0 := by
      subst l8_0
      refine modIsl_keeps ?_
      assumption
    clear_value l8_0
    refine Keeps.ite (fun _ => ?_) (fun _ => ?_)
    · assumption
    refine Keeps.ite (fun _ => ?_) (fun _ => ?_)
    · refine modIsl_keeps ?_
      assumption
    refine detect_keeps ?_
    assumption

theorem startIsland_keeps {a : State} {x0 x1 s} (h : Keeps a s) : Keeps a (startIsland x0 x1 s) := by
  delta startIsland
  extract_lets -merge +onlyGivenNames l0_0
  have h0_0 : Keeps a l0_0 := by
    subst l0_0
    refine modIsl_keeps ?_
    assumption
  clear_value l0_0
  refine Keeps.ite (fun _ => ?_) (fun _ => ?_)
  · assumption
  refine enterSafe_keeps ?_
  assumption

theorem doIslandResetRelease_keeps {a : State} {x0 x1 x2 s} (h : Keeps a s) : Keeps a (doIslandResetRelease x0 x1 x2 s) := by
  delta doIslandResetRelease
  extract_lets -merge +onlyGivenNames l0_0
  have h0_0 : Keeps a l0_0 := by
    subst l0_0
    refine advance_keeps ?_
    assumption
  clear_value l0_0
  refine Keeps.ite (fun _ => ?_) (fun _ => ?_)
  · refine startIsland_keeps ?_
    assumption
  assumption

theorem doIslandRun_keeps {a : State} {x0 x1 s} (h : Keeps a s) : Keeps a (doIslandRun x0 x1 s) := by
  delta doIslandRun
  extract_lets -merge +onlyGivenNames l0_0 l0_1 l0_2
  have h0_0 : Keeps a l0_0 := by
    subst l0_0
    refine advance_keeps ?_
    assumption
  clear_value l0_0
  clear_value l0_1
  clear_value l0_2
  refine Keeps.ite (fun _ => ?_) (fun _ => ?_)
  · refine modIsl_keeps ?_
    assumption
  assumption

theorem restartStream_keeps {a : State} {x0 x1 s} (h : Keeps a s) : Keeps a (restartStream x0 x1 s) := by
  delta restartStream
  split
  · refine applyCfg_keeps ?_
    assumption
  · refine modSs_keeps ?_
    assumption

theorem doIslandRestart_keeps {a : State} {x0 x1 x2 x3 s} (h : Keeps a s) : Keeps a (doIslandRestart x0 x1 x2 x3 s) := by
  delta doIslandRestart
  extract_lets -merge +onlyGivenNames l0_0 l0_1 l0_2 l0_3 l0_4
  have h0_0 : Keeps a l0_0 := by
    subst l0_0
    refine advance_keeps ?_
    assumption
  clear_value l0_0
  clear_value l0_1
  have h0_2 : Keeps a l0_2 := by
    subst l0_2
    refine event_keeps ?_
    assumption
  clear_value l0_2
  have h0_3 : Keeps a l0_3 := by
    subst l0_3
    refine modIsl_keeps ?_
    assumption
  clear_value l0_3
  have h0_4 : Keeps a l0_4 := by
    subst l0_4
    refine Keeps.foldl ?_ fun _ _ _ => ?_
    · assumption
    refine restartStream_keeps ?_
    assumption
  clear_value l0_4
  refine Keeps.ite (fun _ => ?_) (fun _ => ?_)
  · refine startIsland_keeps ?_
    assumption
  assumption

theorem doIslandResetAssert_keeps {a : State} {x0 x1 s} (h : Keeps a s) : Keeps a (doIslandResetAssert x0 x1 s) := by
  delta doIslandResetAssert
  extract_lets -merge +onlyGivenNames l0_0
  have h0_0 : Keeps a l0_0 := by
    subst l0_0
    refine resetRegs_keeps ?_
    refine advance_keeps ?_
    assumption
  clear_value l0_0
  refine modIsl_keeps ?_
  assumption

theorem doIslandDebugHalt_keeps {a : State} {x0 x1 s} (h : Keeps a s) : Keeps a (doIslandDebugHalt x0 x1 s) := by
  delta doIslandDebugHalt
  extract_lets -merge +onlyGivenNames l0_0
  have h0_0 : Keeps a l0_0 := by
    subst l0_0
    refine advance_keeps ?_
    assumption
  clear_value l0_0
  refine Keeps.ite (fun _ => ?_) (fun _ => ?_)
  · refine modIsl_keeps ?_
    refine detect_keeps ?_
    assumption
  assumption

theorem doIslandDebugResume_keeps {a : State} {x0 x1 x2 s} (h : Keeps a s) : Keeps a (doIslandDebugResume x0 x1 x2 s) := by
  delta doIslandDebugResume
  extract_lets -merge +onlyGivenNames l0_0
  have h0_0 : Keeps a l0_0 := by
    subst l0_0
    refine advance_keeps ?_
    assumption
  clear_value l0_0
  refine Keeps.ite (fun _ => ?_) (fun _ => ?_)
  · refine modIsl_keeps ?_
    assumption
  assumption

theorem doIslandPllUnlock_keeps {a : State} {x0 x1 s} (h : Keeps a s) : Keeps a (doIslandPllUnlock x0 x1 s) := by
  delta doIslandPllUnlock
  refine modIsl_keeps ?_
  refine advance_keeps ?_
  assumption

theorem doQuietWindowOpen_keeps {a : State} {x0 x1 x2 s} (h : Keeps a s) : Keeps a (doQuietWindowOpen x0 x1 x2 s) := by
  delta doQuietWindowOpen
  extract_lets -merge +onlyGivenNames l0_0 l0_1
  have h0_0 : Keeps a l0_0 := by
    subst l0_0
    refine advance_keeps ?_
    assumption
  clear_value l0_0
  clear_value l0_1
  refine Keeps.ite (fun _ => ?_) (fun _ => ?_)
  · refine modSs_keeps ?_
    assumption
  assumption

theorem doIslandPeriodicTest_keeps {a : State} {x0 x1 x2 s} (h : Keeps a s) : Keeps a (doIslandPeriodicTest x0 x1 x2 s) := by
  delta doIslandPeriodicTest
  extract_lets -merge +onlyGivenNames l0_0 l0_1 l0_2 l0_3 l0_4
  have h0_0 : Keeps a l0_0 := by
    subst l0_0
    refine advance_keeps ?_
    assumption
  clear_value l0_0
  clear_value l0_1
  clear_value l0_2
  have h0_3 : Keeps a l0_3 := by
    subst l0_3
    refine modIsl_keeps ?_
    assumption
  clear_value l0_3
  have h0_4 : Keeps a l0_4 := by
    subst l0_4
    refine restore_keeps ?_
    assumption
  clear_value l0_4
  refine Keeps.ite (fun _ => ?_) (fun _ => ?_)
  · refine Keeps.ite (fun _ => ?_) (fun _ => ?_)
    · refine detect_keeps ?_
      assumption
    assumption
  assumption

theorem coverCore_keeps {a : State} {x0 x1 x2 s} (h : Keeps a s) : Keeps a (coverCore x0 x1 x2 s) := by
  delta coverCore
  refine Keeps.ite (fun _ => ?_) (fun _ => ?_)
  · assumption
  extract_lets -merge +onlyGivenNames l2_0
  have h2_0 : Keeps a l2_0 := by
    subst l2_0
    refine event_keeps ?_
    refine islErr_keeps ?_
    assumption
  clear_value l2_0
  refine degrade_keeps ?_
  refine modIsl_keeps ?_
  assumption

theorem coverIsland_keeps {a : State} {x0 s} (h : Keeps a s) : Keeps a (coverIsland x0 s) := by
  delta coverIsland
  refine Keeps.ite (fun _ => ?_) (fun _ => ?_)
  · assumption
  split
  · rename_i hq
    have hk := Keeps.ofEq (a := a) (by
      refine takeFree_keeps ?_
      assumption) hq
    extract_lets -merge +onlyGivenNames l7_0
    have h7_0 : Keeps a l7_0 := by
      subst l7_0
      refine event_keeps ?_
      refine islErr_keeps ?_
      assumption
    clear_value l7_0
    refine degrade_keeps ?_
    refine modIsl_keeps ?_
    assumption

theorem doCoverageCheck_keeps {a : State} {x0 x1 s} (h : Keeps a s) : Keeps a (doCoverageCheck x0 x1 s) := by
  delta doCoverageCheck
  extract_lets -merge +onlyGivenNames l0_0 l0_1 l0_2
  have h0_0 : Keeps a l0_0 := by
    subst l0_0
    refine advance_keeps ?_
    assumption
  clear_value l0_0
  clear_value l0_1
  have h0_2 : Keeps a l0_2 := by
    subst l0_2
    refine Keeps.foldl ?_ fun _ _ _ => ?_
    · assumption
    refine coverCore_keeps ?_
    assumption
  clear_value l0_2
  refine Keeps.ite (fun _ => ?_) (fun _ => ?_)
  · refine Keeps.ite (fun _ => ?_) (fun _ => ?_)
    · refine coverIsland_keeps ?_
      assumption
    assumption
  assumption

theorem clearScan_keeps {a : State} {x0 s} (h : Keeps a s) : Keeps a (clearScan x0 s) := by
  delta clearScan
  refine modIsl_keeps ?_
  assumption

theorem startTest_keeps {a : State} {x0 x1 s} (h : Keeps a s) : Keeps a (startTest x0 x1 s) := by
  delta startTest
  extract_lets -merge +onlyGivenNames l0_0 l0_1 l0_2
  clear_value l0_0
  have h0_1 : Keeps a l0_1 := by
    subst l0_1
    refine modCore_keeps ?_
    assumption
  clear_value l0_1
  clear_value l0_2
  split
  · refine beginScan_keeps ?_
    refine modDie_keeps ?_
    assumption
  · refine Keeps.ite (fun _ => ?_) (fun _ => ?_)
    · refine modCtx_keeps ?_
      refine heelNow_keeps ?_
      assumption
    assumption
  · assumption

theorem doRollingTestStart_keeps {a : State} {x0 x1 s} (h : Keeps a s) : Keeps a (doRollingTestStart x0 x1 s) := by
  delta doRollingTestStart
  extract_lets -merge +onlyGivenNames l0_0 l0_1 l0_2 l0_3 l0_4 l0_5
  have h0_0 : Keeps a l0_0 := by
    subst l0_0
    refine advance_keeps ?_
    assumption
  clear_value l0_0
  clear_value l0_1
  clear_value l0_2
  clear_value l0_3
  clear_value l0_4
  have h0_5 : Keeps a l0_5 := by
    subst l0_5
    refine commit_keeps ?_
    assumption
  clear_value l0_5
  split
  · extract_lets -merge +onlyGivenNames l16_0 l16_1 l16_2
    clear_value l16_0
    have h16_1 : Keeps a l16_1 := by
      subst l16_1
      refine Keeps.ite (fun _ => ?_) (fun _ => ?_)
      · refine coverCore_keeps ?_
        refine injUse_keeps ?_
        assumption
      assumption
    clear_value l16_1
    have h16_2 : Keeps a l16_2 := by
      subst l16_2
      refine modIsl_keeps ?_
      assumption
    clear_value l16_2
    refine Keeps.ite (fun _ => ?_) (fun _ => ?_)
    · refine settle_keeps ?_
      refine startTest_keeps ?_
      assumption
    assumption
  · assumption

theorem scanFailed_keeps {a : State} {x0 x1 x2 s} (h : Keeps a s) : Keeps a (scanFailed x0 x1 x2 s) := by
  delta scanFailed
  extract_lets -merge +onlyGivenNames l0_0 l0_1 l0_2 l0_3 l0_4 l0_5 l0_6 l0_7
  clear_value l0_0
  clear_value l0_1
  have h0_2 : Keeps a l0_2 := by
    subst l0_2
    refine modCore_keeps ?_
    assumption
  clear_value l0_2
  have h0_3 : Keeps a l0_3 := by
    subst l0_3
    refine modDie_keeps ?_
    assumption
  clear_value l0_3
  clear_value l0_4
  have h0_5 : Keeps a l0_5 := by
    subst l0_5
    refine changed_keeps ?_
    refine modDie_keeps ?_
    assumption
  clear_value l0_5
  clear_value l0_6
  have h0_7 : Keeps a l0_7 := by
    subst l0_7
    refine event_keeps ?_
    refine islErr_keeps ?_
    assumption
  clear_value l0_7
  refine eachIsland_keeps ?_ ?_
  · assumption
  intro _ _ _
  refine Keeps.ite (fun _ => ?_) (fun _ => ?_)
  · refine detect_keeps ?_
    assumption
  assumption

theorem doScanTestDone_keeps {a : State} {x0 x1 x2 s} (h : Keeps a s) : Keeps a (doScanTestDone x0 x1 x2 s) := by
  delta doScanTestDone
  extract_lets -merge +onlyGivenNames l0_0 l0_1 l0_2 l0_3 l0_4 l0_5
  have h0_0 : Keeps a l0_0 := by
    subst l0_0
    refine advance_keeps ?_
    assumption
  clear_value l0_0
  clear_value l0_1
  clear_value l0_2
  have h0_3 : Keeps a l0_3 := by
    subst l0_3
    refine clearScan_keeps ?_
    refine Keeps.ite (fun _ => ?_) (fun _ => ?_)
    · refine injUse_keeps ?_
      assumption
    assumption
  clear_value l0_3
  have h0_4 : Keeps a l0_4 := by
    subst l0_4
    refine modCore_keeps ?_
    assumption
  clear_value l0_4
  have h0_5 : Keeps a l0_5 := by
    subst l0_5
    refine modIsl_keeps ?_
    assumption
  clear_value l0_5
  split
  · assumption
  · refine Keeps.ite (fun _ => ?_) (fun _ => ?_)
    · refine Keeps.ite (fun _ => ?_) (fun _ => ?_)
      · refine settle_keeps ?_
        refine changed_keeps ?_
        refine restore_keeps ?_
        refine modDie_keeps ?_
        assumption
      refine settle_keeps ?_
      refine scanFailed_keeps ?_
      assumption
    assumption

end Sys2Proof.Machine
end

