-- ==== Sys2Proof/Laws/KeepsInject.lean ====
section
/-!
SUPPORT. Laws/KeepsInject.lean: the operations of Machine/Inject.lean keep what `Keeps` says (Laws/Keeps.lean).
-/
namespace Sys2Proof.Machine

theorem injErr_keeps {a : State} {x0 x1 s} (h : Keeps a s) : Keeps a (injErr x0 x1 s) := by
  delta injErr
  refine stick_keeps ?_
  assumption

theorem doInjFire_keeps {a : State} {x0 x1 s} (h : Keeps a s) : Keeps a (doInjFire x0 x1 s) := by
  delta doInjFire
  extract_lets -merge +onlyGivenNames l0_0 l0_1 l0_2 l0_3 l0_4 l0_5 l0_6
  have h0_0 : Keeps a l0_0 := by
    subst l0_0
    refine advance_keeps ?_
    assumption
  clear_value l0_0
  clear_value l0_1
  clear_value l0_2
  clear_value l0_3
  have h0_4 : Keeps a l0_4 := by
    subst l0_4
    refine commit_keeps ?_
    assumption
  clear_value l0_4
  clear_value l0_5
  clear_value l0_6
  refine Keeps.ite (fun _ => ?_) (fun _ => ?_)
  · refine Keeps.ite (fun _ => ?_) (fun _ => ?_)
    · refine injErr_keeps ?_
      assumption
    refine event_keeps ?_
    refine Keeps.upd ?_ rfl
    assumption
  assumption

theorem injNow_keeps {a : State} {x0 x1 s} (h : Keeps a s) : Keeps a (injNow x0 x1 s) := by
  delta injNow
  split
  · refine detect_keeps ?_
    assumption
  · refine detect_keeps ?_
    assumption
  · refine modIsl_keeps ?_
    assumption
  · assumption

theorem doInjectionEffect_keeps {a : State} {x0 s} (h : Keeps a s) : Keeps a (doInjectionEffect x0 s) := by
  delta doInjectionEffect
  extract_lets -merge +onlyGivenNames l0_0 l0_1
  have h0_0 : Keeps a l0_0 := by
    subst l0_0
    refine advance_keeps ?_
    assumption
  clear_value l0_0
  clear_value l0_1
  split
  · assumption
  · refine Keeps.ite (fun _ => ?_) (fun _ => ?_)
    · assumption
    extract_lets -merge +onlyGivenNames l11_0
    clear_value l11_0
    refine injNow_keeps ?_
    refine Keeps.upd ?_ rfl
    assumption

theorem doInjectionTimeout_keeps {a : State} {x0 s} (h : Keeps a s) : Keeps a (doInjectionTimeout x0 s) := by
  delta doInjectionTimeout
  extract_lets -merge +onlyGivenNames l0_0 l0_1
  have h0_0 : Keeps a l0_0 := by
    subst l0_0
    refine advance_keeps ?_
    assumption
  clear_value l0_0
  clear_value l0_1
  split
  · assumption
  · split
    · assumption
    · refine Keeps.ite (fun _ => ?_) (fun _ => ?_)
      · extract_lets -merge +onlyGivenNames l12_0
        have h12_0 : Keeps a l12_0 := by
          subst l12_0
          refine Keeps.upd ?_ rfl
          assumption
        clear_value l12_0
        refine event_keeps ?_
        refine injErr_keeps ?_
        assumption
      assumption

end Sys2Proof.Machine
end

