-- ==== Sys2Proof/Laws/KeepsDrc.lean ====
section
/-!
SUPPORT. Laws/KeepsDrc.lean: the operations of Machine/Drc.lean keep what `Keeps` says (Laws/Keeps.lean).
-/
namespace Sys2Proof.Machine

theorem modChan_keeps {a : State} {x0 x1 x2 s} (h : Keeps a s) : Keeps a (modChan x0 x1 x2 s) := by
  delta modChan
  refine modDrc_keeps ?_
  assumption

theorem modBank_keeps {a : State} {x0 x1 x2 x3 s} (h : Keeps a s) : Keeps a (modBank x0 x1 x2 x3 s) := by
  delta modBank
  refine modDrc_keeps ?_
  assumption

theorem enterQueue_keeps {a : State} {x0 x1 s} (h : Keeps a s) : Keeps a (enterQueue x0 x1 s) := by
  delta enterQueue
  refine modChan_keeps ?_
  assumption

theorem serveTurn_keeps {a : State} {x0 x1 x2 x3 s} (h : Keeps a s) : Keeps a (serveTurn x0 x1 x2 x3 s).2 := by
  induction x3 generalizing x0 x1 x2 s with
  | nil =>
    rw [serveTurn.eq_1]
    refine Keeps.pair ?_
    assumption
  | cons hd tl ih =>
    rw [serveTurn.eq_2]
    refine Keeps.ite2 (fun _ => ?_) (fun _ => ?_)
    · refine Keeps.pair ?_
      assumption
    refine ih ?_
    refine Keeps.foldl ?_ fun _ _ _ => ?_
    · assumption
    refine enterQueue_keeps ?_
    assumption

theorem doCryptoTurn_keeps {a : State} {x0 x1 x2 s} (h : Keeps a s) : Keeps a (doCryptoTurn x0 x1 x2 s) := by
  delta doCryptoTurn
  extract_lets -merge +onlyGivenNames l0_0 l0_1 l0_2 l0_3
  have h0_0 : Keeps a l0_0 := by
    subst l0_0
    refine advance_keeps ?_
    assumption
  clear_value l0_0
  clear_value l0_1
  clear_value l0_2
  clear_value l0_3
  refine Keeps.ite (fun _ => ?_) (fun _ => ?_)
  · split
    · refine modDrc_keeps ?_
      assumption
    · extract_lets -merge +onlyGivenNames l13_0 l13_1 l13_2 l13_3 l13_4
      clear_value l13_0
      clear_value l13_1
      clear_value l13_2
      have h13_3 : Keeps a l13_3 := by
        subst l13_3
        refine modDrc_keeps ?_
        assumption
      clear_value l13_3
      clear_value l13_4
      split
      · rename_i hq
        have hk := Keeps.ofEq (a := a) (by
          refine serveTurn_keeps ?_
          assumption) hq
        extract_lets -merge +onlyGivenNames l28_0
        clear_value l28_0
        refine modDrc_keeps ?_
        assumption
  assumption

theorem activate_keeps {a : State} {x0 x1 x2 x3 x4 s} (h : Keeps a s) : Keeps a (activate x0 x1 x2 x3 x4 s) := by
  delta activate
  split
  · extract_lets -merge +onlyGivenNames l1_0 l1_1 l1_2
    clear_value l1_0
    clear_value l1_1
    have h1_2 : Keeps a l1_2 := by
      subst l1_2
      refine Keeps.ite (fun _ => ?_) (fun _ => ?_)
      · refine injUse_keeps ?_
        assumption
      assumption
    clear_value l1_2
    split
    · extract_lets -merge +onlyGivenNames l12_0 l12_1 l12_2 l12_3 l12_4 l12_5 l12_6 l12_7
      clear_value l12_0
      clear_value l12_1
      clear_value l12_2
      clear_value l12_3
      subst l12_4
      try dsimp -zeta -zetaHave -zetaUnused -iota -proj only
      clear_value l12_5
      clear_value l12_6
      have h12_7 : Keeps a l12_7 := by
        subst l12_7
        refine modBank_keeps ?_
        assumption
      clear_value l12_7
      refine Keeps.ite (fun _ => ?_) (fun _ => ?_)
      · split
        · refine record_keeps ?_
          refine drcErr_keeps ?_
          assumption
      assumption

theorem accessRow_keeps {a : State} {x0 x1 x2 x3 x4 s} (h : Keeps a s) : Keeps a (accessRow x0 x1 x2 x3 x4 s) := by
  delta accessRow
  refine Keeps.ite (fun _ => ?_) (fun _ => ?_)
  · refine modBank_keeps ?_
    assumption
  refine activate_keeps ?_
  assumption

theorem touchMeta_keeps {a : State} {x0 x1 x2 x3 x4 x5 s} (h : Keeps a s) : Keeps a (touchMeta x0 x1 x2 x3 x4 x5 s) := by
  delta touchMeta
  extract_lets -merge +onlyGivenNames l0_0 l0_1 l0_2 l0_3 l0_4
  clear_value l0_0
  clear_value l0_1
  clear_value l0_2
  have h0_3 : Keeps a l0_3 := by
    subst l0_3
    refine Keeps.ite (fun _ => ?_) (fun _ => ?_)
    · assumption
    split
    · rename_i hq
      have hk := Keeps.ofEq (a := a) (by
        refine takeFree_keeps ?_
        assumption) hq
      split
      · assumption
      · extract_lets -merge +onlyGivenNames l15_0 l15_1
        clear_value l15_0
        have h15_1 : Keeps a l15_1 := by
          subst l15_1
          refine Keeps.ite (fun _ => ?_) (fun _ => ?_)
          · refine accessRow_keeps ?_
            assumption
          assumption
        clear_value l15_1
        refine modChan_keeps ?_
        assumption
  clear_value l0_3
  clear_value l0_4
  refine Keeps.ite (fun _ => ?_) (fun _ => ?_)
  · refine modChan_keeps ?_
    assumption
  refine modChan_keeps ?_
  refine accessRow_keeps ?_
  assumption

theorem takeReq_keeps {a : State} {x0 x1 x2 s} (h : Keeps a s) : Keeps a (takeReq x0 x1 x2 s) := by
  delta takeReq
  extract_lets -merge +onlyGivenNames l0_0 l0_1
  clear_value l0_0
  have h0_1 : Keeps a l0_1 := by
    subst l0_1
    refine modChan_keeps ?_
    assumption
  clear_value l0_1
  refine Keeps.ite (fun _ => ?_) (fun _ => ?_)
  · assumption
  split
  · refine touchMeta_keeps ?_
    refine accessRow_keeps ?_
    assumption

theorem answerFail_keeps {a : State} {x0 x1 x2 s} (h : Keeps a s) : Keeps a (answerFail x0 x1 x2 s) := by
  delta answerFail
  split
  · split
    · refine teardown_keeps ?_
      assumption
  · refine Keeps.ite (fun _ => ?_) (fun _ => ?_)
    · extract_lets -merge +onlyGivenNames l5_0
      clear_value l5_0
      refine event_keeps ?_
      assumption
    assumption

theorem lineRead_keeps {a : State} {x0 x1 x2 x3 s} (h : Keeps a s) : Keeps a (lineRead x0 x1 x2 x3 s).2 := by
  delta lineRead
  extract_lets -merge +onlyGivenNames l0_0
  clear_value l0_0
  refine Keeps.ite2 (fun _ => ?_) (fun _ => ?_)
  · refine Keeps.pair ?_
    refine failedRead_keeps ?_
    assumption
  refine Keeps.ite2 (fun _ => ?_) (fun _ => ?_)
  · refine Keeps.pair ?_
    refine failedRead_keeps ?_
    assumption
  refine Keeps.ite2 (fun _ => ?_) (fun _ => ?_)
  · refine Keeps.pair ?_
    refine event_keeps ?_
    refine modDrc_keeps ?_
    assumption
  refine Keeps.pair ?_
  assumption

theorem withInj_keeps {a : State} {x0 x1 x2 s} (h : Keeps a s) : Keeps a (withInj x0 x1 x2 s).2 := by
  delta withInj
  extract_lets -merge +onlyGivenNames l0_0
  clear_value l0_0
  refine Keeps.ite2 (fun _ => ?_) (fun _ => ?_)
  · refine Keeps.pair ?_
    refine injUse_keeps ?_
    assumption
  refine Keeps.ite2 (fun _ => ?_) (fun _ => ?_)
  · refine Keeps.pair ?_
    refine injUse_keeps ?_
    assumption
  refine Keeps.ite2 (fun _ => ?_) (fun _ => ?_)
  · refine Keeps.pair ?_
    refine injUse_keeps ?_
    assumption
  refine Keeps.pair ?_
  assumption

theorem linkEcc_keeps {a : State} {x0 x1 s} (h : Keeps a s) : Keeps a (linkEcc x0 x1 s) := by
  delta linkEcc
  refine Keeps.ite (fun _ => ?_) (fun _ => ?_)
  · refine modDrc_keeps ?_
    assumption
  assumption

theorem doDramRead_keeps {a : State} {x0 x1 x2 x3 x4 s} (h : Keeps a s) : Keeps a (doDramRead x0 x1 x2 x3 x4 s) := by
  delta doDramRead
  extract_lets -merge +onlyGivenNames l0_0
  have h0_0 : Keeps a l0_0 := by
    subst l0_0
    refine advance_keeps ?_
    assumption
  clear_value l0_0
  refine Keeps.ite (fun _ => ?_) (fun _ => ?_)
  · split
    · assumption
    · refine Keeps.ite (fun _ => ?_) (fun _ => ?_)
      · assumption
      extract_lets -merge +onlyGivenNames l11_0
      have h11_0 : Keeps a l11_0 := by
        subst l11_0
        refine linkEcc_keeps ?_
        refine takeReq_keeps ?_
        assumption
      clear_value l11_0
      refine Keeps.ite (fun _ => ?_) (fun _ => ?_)
      · refine answerFail_keeps ?_
        assumption
      split
      · rename_i hq
        have hk := Keeps.ofEq (a := a) (by
          refine withInj_keeps ?_
          assumption) hq
        split
        · rename_i hq
          have hk := Keeps.ofEq (a := a) (by
            refine lineRead_keeps ?_
            assumption) hq
          assumption
        · rename_i hq
          have hk := Keeps.ofEq (a := a) (by
            refine lineRead_keeps ?_
            assumption) hq
          refine settle_keeps ?_
          refine answerFail_keeps ?_
          assumption
  assumption

theorem doDramWrite_keeps {a : State} {x0 x1 x2 x3 x4 s} (h : Keeps a s) : Keeps a (doDramWrite x0 x1 x2 x3 x4 s) := by
  delta doDramWrite
  extract_lets -merge +onlyGivenNames l0_0
  have h0_0 : Keeps a l0_0 := by
    subst l0_0
    refine advance_keeps ?_
    assumption
  clear_value l0_0
  refine Keeps.ite (fun _ => ?_) (fun _ => ?_)
  · split
    · assumption
    · refine Keeps.ite (fun _ => ?_) (fun _ => ?_)
      · assumption
      extract_lets -merge +onlyGivenNames l11_0 l11_1
      have h11_0 : Keeps a l11_0 := by
        subst l11_0
        refine linkEcc_keeps ?_
        refine takeReq_keeps ?_
        assumption
      clear_value l11_0
      clear_value l11_1
      refine Keeps.ite (fun _ => ?_) (fun _ => ?_)
      · refine answerFail_keeps ?_
        assumption
      split
      · rename_i hq
        have hk := Keeps.ofEq (a := a) (by
          refine Keeps.ite2 (fun _ => ?_) (fun _ => ?_)
          · refine withInj_keeps ?_
            assumption
          refine Keeps.pair ?_
          assumption) hq
        split
        · rename_i hq
          have hk := Keeps.ofEq (a := a) (by
            refine Keeps.ite2 (fun _ => ?_) (fun _ => ?_)
            · refine lineRead_keeps ?_
              assumption
            refine Keeps.pair ?_
            assumption) hq
          split
          · refine settle_keeps ?_
            refine answerFail_keeps ?_
            assumption
          · extract_lets -merge +onlyGivenNames l42_0
            have h42_0 : Keeps a l42_0 := by
              subst l42_0
              refine writeDev_keeps ?_
              assumption
            clear_value l42_0
            split
            · refine mirrorWrite_keeps ?_
              assumption
            · assumption
  assumption

theorem precharge_keeps {a : State} {x0 x1 s} (h : Keeps a s) : Keeps a (precharge x0 x1 s) := by
  delta precharge
  refine Keeps.foldl ?_ fun _ _ _ => ?_
  · assumption
  refine modBank_keeps ?_
  assumption

theorem doRefresh_keeps {a : State} {x0 x1 x2 s} (h : Keeps a s) : Keeps a (doRefresh x0 x1 x2 s) := by
  delta doRefresh
  extract_lets -merge +onlyGivenNames l0_0 l0_1
  have h0_0 : Keeps a l0_0 := by
    subst l0_0
    refine advance_keeps ?_
    assumption
  clear_value l0_0
  have h0_1 : Keeps a l0_1 := by
    subst l0_1
    refine Keeps.foldl ?_ fun _ _ _ => ?_
    · assumption
    refine commit_keeps ?_
    assumption
  clear_value l0_1
  refine Keeps.ite (fun _ => ?_) (fun _ => ?_)
  · refine precharge_keeps ?_
    refine modChan_keeps ?_
    assumption
  assumption

theorem doRatWindowEnd_keeps {a : State} {x0 x1 x2 s} (h : Keeps a s) : Keeps a (doRatWindowEnd x0 x1 x2 s) := by
  delta doRatWindowEnd
  extract_lets -merge +onlyGivenNames l0_0
  have h0_0 : Keeps a l0_0 := by
    subst l0_0
    refine advance_keeps ?_
    assumption
  clear_value l0_0
  refine Keeps.ite (fun _ => ?_) (fun _ => ?_)
  · refine Keeps.foldl ?_ fun _ _ _ => ?_
    · assumption
    refine modBank_keeps ?_
    assumption
  assumption

theorem doPatrolScrub_keeps {a : State} {x0 x1 x2 s} (h : Keeps a s) : Keeps a (doPatrolScrub x0 x1 x2 s) := by
  delta doPatrolScrub
  extract_lets -merge +onlyGivenNames l0_0 l0_1 l0_2 l0_3 l0_4 l0_5 l0_6
  have h0_0 : Keeps a l0_0 := by
    subst l0_0
    refine advance_keeps ?_
    assumption
  clear_value l0_0
  clear_value l0_1
  clear_value l0_2
  clear_value l0_3
  clear_value l0_4
  have h0_5 : Keeps a l0_5 := by
    subst l0_5
    refine modDrc_keeps ?_
    assumption
  clear_value l0_5
  clear_value l0_6
  refine Keeps.ite (fun _ => ?_) (fun _ => ?_)
  · refine Keeps.ite (fun _ => ?_) (fun _ => ?_)
    · refine failedRead_keeps ?_
      assumption
    refine Keeps.ite (fun _ => ?_) (fun _ => ?_)
    · refine event_keeps ?_
      refine modDrc_keeps ?_
      assumption
    assumption
  assumption

theorem trainFail_keeps {a : State} {x0 x1 x2 x3 s} (h : Keeps a s) : Keeps a (trainFail x0 x1 x2 x3 s) := by
  delta trainFail
  refine event_keeps ?_
  refine drcErr_keeps ?_
  assumption

theorem doWck2dqTrack_keeps {a : State} {x0 x1 x2 x3 s} (h : Keeps a s) : Keeps a (doWck2dqTrack x0 x1 x2 x3 s) := by
  delta doWck2dqTrack
  extract_lets -merge +onlyGivenNames l0_0 l0_1 l0_2
  have h0_0 : Keeps a l0_0 := by
    subst l0_0
    refine advance_keeps ?_
    assumption
  clear_value l0_0
  clear_value l0_1
  have h0_2 : Keeps a l0_2 := by
    subst l0_2
    refine Keeps.ite (fun _ => ?_) (fun _ => ?_)
    · refine injUse_keeps ?_
      assumption
    assumption
  clear_value l0_2
  refine Keeps.ite (fun _ => ?_) (fun _ => ?_)
  · refine Keeps.ite (fun _ => ?_) (fun _ => ?_)
    · refine trainFail_keeps ?_
      assumption
    assumption
  assumption

theorem startChange_keeps {a : State} {x0 s} (h : Keeps a s) : Keeps a (startChange x0 s) := by
  delta startChange
  extract_lets -merge +onlyGivenNames l0_0
  clear_value l0_0
  split
  · extract_lets -merge +onlyGivenNames l3_0
    have h3_0 : Keeps a l3_0 := by
      subst l3_0
      refine modDrc_keeps ?_
      assumption
    clear_value l3_0
    refine Keeps.foldl ?_ fun _ _ _ => ?_
    · assumption
    refine modChan_keeps ?_
    assumption
  · assumption

theorem freqBody_keeps {a : State} {x0 s} (h : Keeps a s) : Keeps a (freqBody x0 s) := by
  delta freqBody
  refine Keeps.foldl ?_ fun _ _ _ => ?_
  · assumption
  refine startChange_keeps ?_
  refine modDrc_keeps ?_
  assumption

theorem doDramFreq_keeps {a : State} {x0 x1 s} (h : Keeps a s) : Keeps a (doDramFreq x0 x1 s) := by
  delta doDramFreq
  refine runDesc_keeps ?_ ?_
  · assumption
  intro _ _ _
  refine freqBody_keeps ?_
  assumption

theorem flushMeta_keeps {a : State} {x0 x1 s} (h : Keeps a s) : Keeps a (flushMeta x0 x1 s) := by
  delta flushMeta
  refine modChan_keeps ?_
  assumption

theorem doFreqGroupSwitch_keeps {a : State} {x0 x1 x2 s} (h : Keeps a s) : Keeps a (doFreqGroupSwitch x0 x1 x2 s) := by
  delta doFreqGroupSwitch
  extract_lets -merge +onlyGivenNames l0_0
  have h0_0 : Keeps a l0_0 := by
    subst l0_0
    refine advance_keeps ?_
    assumption
  clear_value l0_0
  split
  · assumption
  · refine Keeps.ite (fun _ => ?_) (fun _ => ?_)
    · extract_lets -merge +onlyGivenNames l9_0 l9_1 l9_2 l9_3 l9_4 l9_5
      have h9_0 : Keeps a l9_0 := by
        subst l9_0
        refine Keeps.foldl ?_ fun _ _ _ => ?_
        · assumption
        refine modChan_keeps ?_
        refine flushMeta_keeps ?_
        refine precharge_keeps ?_
        assumption
      clear_value l9_0
      have h9_1 : Keeps a l9_1 := by
        subst l9_1
        refine modDrc_keeps ?_
        assumption
      clear_value l9_1
      clear_value l9_2
      have h9_3 : Keeps a l9_3 := by
        subst l9_3
        refine modDrc_keeps ?_
        assumption
      clear_value l9_3
      have h9_4 : Keeps a l9_4 := by
        subst l9_4
        refine event_keeps ?_
        assumption
      clear_value l9_4
      have h9_5 : Keeps a l9_5 := by
        subst l9_5
        refine startChange_keeps ?_
        assumption
      clear_value l9_5
      refine Keeps.ite (fun _ => ?_) (fun _ => ?_)
      · refine Keeps.foldl ?_ fun _ _ _ => ?_
        · assumption
        refine modChan_keeps ?_
        assumption
      refine Keeps.ite (fun _ => ?_) (fun _ => ?_)
      · assumption
      refine settle_keeps ?_
      refine finishOk_keeps ?_
      assumption
    assumption

theorem lp4Sets_keeps {a : State} {x0 s} (h : Keeps a s) : Keeps a (lp4Sets x0 s) := by
  delta lp4Sets
  refine Keeps.foldl ?_ fun _ _ _ => ?_
  · assumption
  refine Keeps.ite (fun _ => ?_) (fun _ => ?_)
  · refine regSet_keeps ?_
    assumption
  assumption

theorem noDram_keeps {a : State} {x0 x1 x2 x3 s} (h : Keeps a s) : Keeps a (noDram x0 x1 x2 x3 s) := by
  delta noDram
  refine trainFail_keeps ?_
  refine modDrc_keeps ?_
  assumption

theorem trainSet_keeps {a : State} {x0 x1 x2 x3 x4 s} (h : Keeps a s.2) : Keeps a (trainSet x0 x1 x2 x3 x4 s).2 := by
  delta trainSet
  extract_lets -merge +onlyGivenNames l0_0 l0_1 l0_2 l0_3
  have h0_0 : Keeps a l0_0 := by
    subst l0_0
    assumption
  clear_value l0_0
  clear_value l0_1
  clear_value l0_2
  have h0_3 : Keeps a l0_3 := by
    subst l0_3
    refine modDrc_keeps ?_
    assumption
  clear_value l0_3
  refine Keeps.ite2 (fun _ => ?_) (fun _ => ?_)
  · assumption
  refine Keeps.ite2 (fun _ => ?_) (fun _ => ?_)
  · refine Keeps.pair ?_
    refine modDrc_keeps ?_
    assumption
  split
  · refine Keeps.pair ?_
    refine noDram_keeps ?_
    assumption
  · refine Keeps.pair ?_
    refine fldSet_keeps ?_
    assumption

theorem zeroHubGranules_keeps {a : State} {x0 s} (h : Keeps a s) : Keeps a (zeroHubGranules x0 s) := by
  delta zeroHubGranules
  extract_lets -merge +onlyGivenNames l0_0
  clear_value l0_0
  refine Keeps.eraseDram ?_
  assumption

theorem trainHub_keeps {a : State} {x0 x1 x2 x3 x4 s} (h : Keeps a s) : Keeps a (trainHub x0 x1 x2 x3 x4 s) := by
  delta trainHub
  split
  · refine noDram_keeps ?_
    assumption
  · extract_lets -merge +onlyGivenNames l3_0 l3_1 l3_2
    have h3_0 : Keeps a l3_0 := by
      subst l3_0
      refine Keeps.ite (fun _ => ?_) (fun _ => ?_)
      · refine lp4Sets_keeps ?_
        assumption
      assumption
    clear_value l3_0
    have h3_1 : Keeps a l3_1 := by
      subst l3_1
      refine modDrc_keeps ?_
      assumption
    clear_value l3_1
    clear_value l3_2
    split
    · rename_i hq
      have hk := Keeps.ofEq (a := a) (by
        refine Keeps.foldl2 ?_ fun _ _ _ => ?_
        · refine Keeps.pair ?_
          assumption
        refine trainSet_keeps ?_
        assumption) hq
      refine Keeps.ite (fun _ => ?_) (fun _ => ?_)
      · refine zeroHubGranules_keeps ?_
        refine modDrc_keeps ?_
        assumption
      assumption

theorem doTrainingGo_keeps {a : State} {x0 x1 x2 x3 x4 x5 s} (h : Keeps a s) : Keeps a (doTrainingGo x0 x1 x2 x3 x4 x5 s) := by
  delta doTrainingGo
  extract_lets -merge +onlyGivenNames l0_0
  have h0_0 : Keeps a l0_0 := by
    subst l0_0
    refine advance_keeps ?_
    assumption
  clear_value l0_0
  refine Keeps.ite (fun _ => ?_) (fun _ => ?_)
  · refine trainHub_keeps ?_
    assumption
  assumption

theorem doTrnWaitExpiry_keeps {a : State} {x0 x1 x2 x3 x4 x5 s} (h : Keeps a s) : Keeps a (doTrnWaitExpiry x0 x1 x2 x3 x4 x5 s) := by
  delta doTrnWaitExpiry
  extract_lets -merge +onlyGivenNames l0_0
  have h0_0 : Keeps a l0_0 := by
    subst l0_0
    refine advance_keeps ?_
    assumption
  clear_value l0_0
  split
  · assumption
  · refine Keeps.ite (fun _ => ?_) (fun _ => ?_)
    · refine trainHub_keeps ?_
      assumption
    assumption

theorem drcStandby_keeps {a : State} {x0 s} (h : Keeps a s) : Keeps a (drcStandby x0 s) := by
  delta drcStandby
  extract_lets -merge +onlyGivenNames l0_0 l0_1 l0_2 l0_3 l0_4 l0_5 l0_6
  have h0_0 : Keeps a l0_0 := by
    subst l0_0
    refine Keeps.foldl ?_ fun _ _ _ => ?_
    · assumption
    refine precharge_keeps ?_
    refine flushMeta_keeps ?_
    assumption
  clear_value l0_0
  clear_value l0_1
  clear_value l0_2
  clear_value l0_3
  clear_value l0_4
  clear_value l0_5
  have h0_6 : Keeps a l0_6 := by
    subst l0_6
    refine modDrc_keeps ?_
    assumption
  clear_value l0_6
  refine Keeps.upd ?_ rfl
  assumption

theorem doCapture_keeps {a : State} {x0 x1 s} (h : Keeps a s) : Keeps a (doCapture x0 x1 s) := by
  delta doCapture
  extract_lets -merge +onlyGivenNames l0_0
  have h0_0 : Keeps a l0_0 := by
    subst l0_0
    refine advance_keeps ?_
    assumption
  clear_value l0_0
  refine Keeps.ite (fun _ => ?_) (fun _ => ?_)
  · refine capture_keeps ?_
    assumption
  assumption

theorem doHold_keeps {a : State} {x0 x1 s} (h : Keeps a s) : Keeps a (doHold x0 x1 s) := by
  delta doHold
  extract_lets -merge +onlyGivenNames l0_0 l0_1 l0_2
  have h0_0 : Keeps a l0_0 := by
    subst l0_0
    refine advance_keeps ?_
    assumption
  clear_value l0_0
  have h0_1 : Keeps a l0_1 := by
    subst l0_1
    refine Keeps.foldl ?_ fun _ _ _ => ?_
    · assumption
    refine precharge_keeps ?_
    refine flushMeta_keeps ?_
    assumption
  clear_value l0_1
  have h0_2 : Keeps a l0_2 := by
    subst l0_2
    refine capture_keeps ?_
    assumption
  clear_value l0_2
  refine Keeps.ite (fun _ => ?_) (fun _ => ?_)
  · refine Keeps.ite (fun _ => ?_) (fun _ => ?_)
    · refine drcErr_keeps ?_
      assumption
    refine modDrc_keeps ?_
    refine fldSet_keeps ?_
    assumption
  assumption

theorem doHoldRelease_keeps {a : State} {x0 x1 s} (h : Keeps a s) : Keeps a (doHoldRelease x0 x1 s) := by
  delta doHoldRelease
  extract_lets -merge +onlyGivenNames l0_0
  have h0_0 : Keeps a l0_0 := by
    subst l0_0
    refine advance_keeps ?_
    assumption
  clear_value l0_0
  refine Keeps.ite (fun _ => ?_) (fun _ => ?_)
  · refine modDrc_keeps ?_
    refine fldSet_keeps ?_
    assumption
  assumption

theorem doDiagLoad_keeps {a : State} {x0 x1 x2 x3 s} (h : Keeps a s) : Keeps a (doDiagLoad x0 x1 x2 x3 s) := by
  delta doDiagLoad
  extract_lets -merge +onlyGivenNames l0_0 l0_1
  have h0_0 : Keeps a l0_0 := by
    subst l0_0
    refine advance_keeps ?_
    assumption
  clear_value l0_0
  have h0_1 : Keeps a l0_1 := by
    subst l0_1
    refine Keeps.ite (fun _ => ?_) (fun _ => ?_)
    · refine regSet_keeps ?_
      assumption
    refine regSet_keeps ?_
    assumption
  clear_value l0_1
  refine Keeps.ite (fun _ => ?_) (fun _ => ?_)
  · refine modDrc_keeps ?_
    assumption
  assumption

end Sys2Proof.Machine
end

