-- ==== Sys2Proof/Laws/KeepsLinks.lean ====
section
/-!
SUPPORT. Laws/KeepsLinks.lean: the operations of Machine/Links.lean keep what `Keeps` says (Laws/Keeps.lean).
-/
namespace Sys2Proof.Machine

theorem modSide_keeps {a : State} {x0 x1 x2 s} (h : Keeps a s) : Keeps a (modSide x0 x1 x2 s) := by
  delta modSide
  refine modLink_keeps ?_
  assumption

theorem lnkErr_keeps {a : State} {x0 x1 s} (h : Keeps a s) : Keeps a (lnkErr x0 x1 s) := by
  delta lnkErr
  refine stick_keeps ?_
  assumption

theorem tearDown_keeps {a : State} {x0 x1 x2 x3 s} (h : Keeps a s) : Keeps a (tearDown x0 x1 x2 x3 s) := by
  delta tearDown
  refine Keeps.foldl ?_ fun _ _ _ => ?_
  · assumption
  refine Keeps.ite (fun _ => ?_) (fun _ => ?_)
  · assumption
  refine teardown_keeps ?_
  assumption

theorem separate_keeps {a : State} {s} (h : Keeps a s) : Keeps a (separate s) := by
  delta separate
  extract_lets -merge +onlyGivenNames l0_0 l0_1 l0_2 l0_3
  clear_value l0_0
  subst l0_1
  try dsimp -zeta -zetaHave -zetaUnused -iota -proj only
  have h0_2 : Keeps a l0_2 := by
    subst l0_2
    refine mirrorLost_keeps ?_
    refine Keeps.upd ?_ rfl
    assumption
  clear_value l0_2
  have h0_3 : Keeps a l0_3 := by
    subst l0_3
    refine eachIsland_keeps ?_ ?_
    · assumption
    intro _ _ _
    refine detect_keeps ?_
    assumption
  clear_value l0_3
  refine tearDown_keeps ?_
  assumption

theorem rejoinHubs_keeps {a : State} {s} (h : Keeps a s) : Keeps a (rejoinHubs s) := by
  delta rejoinHubs
  extract_lets -merge +onlyGivenNames l0_0 l0_1
  have h0_0 : Keeps a l0_0 := by
    subst l0_0
    refine forwardHeld_keeps ?_
    assumption
  clear_value l0_0
  subst l0_1
  try dsimp -zeta -zetaHave -zetaUnused -iota -proj only
  refine Keeps.upd ?_ rfl
  assumption

theorem routesMoved_keeps {a : State} {x0 s} (h : Keeps a s) : Keeps a (routesMoved x0 s) := by
  delta routesMoved
  refine Keeps.ite (fun _ => ?_) (fun _ => ?_)
  · refine separate_keeps ?_
    assumption
  refine Keeps.ite (fun _ => ?_) (fun _ => ?_)
  · refine rejoinHubs_keeps ?_
    assumption
  assumption

theorem withRoutes_keeps {a : State} {x0 s} (h : Keeps a s) (h0 : ∀ y0, Keeps a y0 → Keeps a (x0 y0)) : Keeps a (withRoutes x0 s) := by
  delta withRoutes
  refine settle_keeps ?_
  refine routesMoved_keeps ?_
  apply_assumption
  assumption

theorem ptnLost_keeps {a : State} {x0 s} (h : Keeps a s) : Keeps a (ptnLost x0 s) := by
  delta ptnLost
  extract_lets -merge +onlyGivenNames l0_0 l0_1 l0_2 l0_3 l0_4
  clear_value l0_0
  clear_value l0_1
  clear_value l0_2
  have h0_3 : Keeps a l0_3 := by
    subst l0_3
    refine modPtn_keeps ?_
    assumption
  clear_value l0_3
  have h0_4 : Keeps a l0_4 := by
    subst l0_4
    refine event_keeps ?_
    refine stick_keeps ?_
    assumption
  clear_value l0_4
  refine Keeps.foldl ?_ fun _ _ _ => ?_
  · assumption
  refine finish_keeps ?_
  assumption

theorem sbSend_keeps {a : State} {x0 x1 s} (h : Keeps a s) : Keeps a (sbSend x0 x1 s) := by
  delta sbSend
  refine modLink_keeps ?_
  assumption

theorem beginAttempt_keeps {a : State} {x0 s} (h : Keeps a s) : Keeps a (beginAttempt x0 s) := by
  delta beginAttempt
  extract_lets -merge +onlyGivenNames l0_0 l0_1
  clear_value l0_0
  have h0_1 : Keeps a l0_1 := by
    subst l0_1
    refine modLink_keeps ?_
    assumption
  clear_value l0_1
  refine Keeps.ite (fun _ => ?_) (fun _ => ?_)
  · refine sbSend_keeps ?_
    assumption
  refine modLink_keeps ?_
  assumption

theorem startTraining_keeps {a : State} {x0 x1 x2 x3 s} (h : Keeps a s) : Keeps a (startTraining x0 x1 x2 x3 s) := by
  delta startTraining
  refine beginAttempt_keeps ?_
  refine modLink_keeps ?_
  assumption

theorem wakeLink_keeps {a : State} {x0 s} (h : Keeps a s) : Keeps a (wakeLink x0 s) := by
  delta wakeLink
  refine Keeps.ite (fun _ => ?_) (fun _ => ?_)
  · refine startTraining_keeps ?_
    assumption
  assumption

theorem answerRetrains_keeps {a : State} {x0 x1 s} (h : Keeps a s) : Keeps a (answerRetrains x0 x1 s) := by
  delta answerRetrains
  extract_lets -merge +onlyGivenNames l0_0 l0_1
  clear_value l0_0
  have h0_1 : Keeps a l0_1 := by
    subst l0_1
    refine modLink_keeps ?_
    assumption
  clear_value l0_1
  refine Keeps.foldl ?_ fun _ _ _ => ?_
  · assumption
  refine Keeps.ite (fun _ => ?_) (fun _ => ?_)
  · refine finishOk_keeps ?_
    assumption
  refine finish_keeps ?_
  assumption

theorem trainDown_keeps {a : State} {x0 s} (h : Keeps a s) : Keeps a (trainDown x0 s) := by
  delta trainDown
  extract_lets -merge +onlyGivenNames l0_0 l0_1 l0_2
  clear_value l0_0
  have h0_1 : Keeps a l0_1 := by
    subst l0_1
    refine modLink_keeps ?_
    assumption
  clear_value l0_1
  have h0_2 : Keeps a l0_2 := by
    subst l0_2
    refine event_keeps ?_
    refine lnkErr_keeps ?_
    assumption
  clear_value l0_2
  refine answerRetrains_keeps ?_
  refine Keeps.ite (fun _ => ?_) (fun _ => ?_)
  · assumption
  refine ptnLost_keeps ?_
  assumption

theorem failAttempt_keeps {a : State} {x0 s} (h : Keeps a s) : Keeps a (failAttempt x0 s) := by
  delta failAttempt
  extract_lets -merge +onlyGivenNames l0_0
  have h0_0 : Keeps a l0_0 := by
    subst l0_0
    refine modLink_keeps ?_
    assumption
  clear_value l0_0
  refine Keeps.ite (fun _ => ?_) (fun _ => ?_)
  · refine trainDown_keeps ?_
    assumption
  refine beginAttempt_keeps ?_
  assumption

theorem sealLink_keeps {a : State} {x0 x1 x2 s} (h : Keeps a s) : Keeps a (sealLink x0 x1 x2 s) := by
  delta sealLink
  extract_lets -merge +onlyGivenNames l0_0 l0_1 l0_2
  clear_value l0_0
  have h0_1 : Keeps a l0_1 := by
    subst l0_1
    refine modLink_keeps ?_
    assumption
  clear_value l0_1
  have h0_2 : Keeps a l0_2 := by
    subst l0_2
    refine Keeps.upd ?_ rfl
    assumption
  clear_value l0_2
  refine Keeps.ite (fun _ => ?_) (fun _ => ?_)
  · refine trainDown_keeps ?_
    refine modLink_keeps ?_
    assumption
  refine answerRetrains_keeps ?_
  refine modLink_keeps ?_
  assumption

theorem ptnTrain_keeps {a : State} {x0 x1 x2 x3 x4 s} (h : Keeps a s) : Keeps a (ptnTrain x0 x1 x2 x3 x4 s) := by
  delta ptnTrain
  extract_lets -merge +onlyGivenNames l0_0 l0_1 l0_2 l0_3 l0_4
  clear_value l0_0
  clear_value l0_1
  have h0_2 : Keeps a l0_2 := by
    subst l0_2
    refine modLink_keeps ?_
    assumption
  clear_value l0_2
  clear_value l0_3
  have h0_4 : Keeps a l0_4 := by
    subst l0_4
    refine modPtn_keeps ?_
    refine Keeps.upd ?_ rfl
    assumption
  clear_value l0_4
  refine Keeps.ite (fun _ => ?_) (fun _ => ?_)
  · refine failAttempt_keeps ?_
    refine event_keeps ?_
    assumption
  refine sealLink_keeps ?_
  assumption

theorem doLinkTrain_keeps {a : State} {x0 x1 x2 x3 x4 x5 s} (h : Keeps a s) : Keeps a (doLinkTrain x0 x1 x2 x3 x4 x5 s) := by
  delta doLinkTrain
  extract_lets -merge +onlyGivenNames l0_0 l0_1 l0_2 l0_3 l0_4 l0_5 l0_6 l0_7
  have h0_0 : Keeps a l0_0 := by
    subst l0_0
    refine advance_keeps ?_
    assumption
  clear_value l0_0
  clear_value l0_1
  clear_value l0_2
  clear_value l0_3
  clear_value l0_4
  clear_value l0_5
  clear_value l0_6
  have h0_7 : Keeps a l0_7 := by
    subst l0_7
    refine modLink_keeps ?_
    assumption
  clear_value l0_7
  refine Keeps.ite (fun _ => ?_) (fun _ => ?_)
  · refine Keeps.ite (fun _ => ?_) (fun _ => ?_)
    · refine withRoutes_keeps ?_ ?_
      · assumption
      intro _ _
      refine ptnTrain_keeps ?_
      assumption
    refine sbSend_keeps ?_
    assumption
  assumption

theorem sbReceive_keeps {a : State} {x0 x1 s} (h : Keeps a s) : Keeps a (sbReceive x0 x1 s) := by
  delta sbReceive
  extract_lets -merge +onlyGivenNames l0_0 l0_1 l0_2
  clear_value l0_0
  have h0_1 : Keeps a l0_1 := by
    subst l0_1
    refine modLink_keeps ?_
    assumption
  clear_value l0_1
  have h0_2 : Keeps a l0_2 := by
    subst l0_2
    refine modLink_keeps ?_
    assumption
  clear_value l0_2
  refine Keeps.ite (fun _ => ?_) (fun _ => ?_)
  · assumption
  split
  · refine Keeps.ite (fun _ => ?_) (fun _ => ?_)
    · assumption
    refine Keeps.ite (fun _ => ?_) (fun _ => ?_)
    · refine modLink_keeps ?_
      assumption
    refine sbSend_keeps ?_
    assumption
  · refine Keeps.ite (fun _ => ?_) (fun _ => ?_)
    · refine sbSend_keeps ?_
      assumption
    assumption
  · refine Keeps.ite (fun _ => ?_) (fun _ => ?_)
    · refine Keeps.ite (fun _ => ?_) (fun _ => ?_)
      · refine sbSend_keeps ?_
        refine modLink_keeps ?_
        assumption
      refine failAttempt_keeps ?_
      assumption
    refine Keeps.ite (fun _ => ?_) (fun _ => ?_)
    · refine Keeps.ite (fun _ => ?_) (fun _ => ?_)
      · refine sealLink_keeps ?_
        assumption
      refine failAttempt_keeps ?_
      assumption
    assumption
  · assumption

theorem doSidebandMessage_keeps {a : State} {x0 x1 x2 x3 s} (h : Keeps a s) : Keeps a (doSidebandMessage x0 x1 x2 x3 s) := by
  delta doSidebandMessage
  extract_lets -merge +onlyGivenNames l0_0
  have h0_0 : Keeps a l0_0 := by
    subst l0_0
    refine advance_keeps ?_
    assumption
  clear_value l0_0
  split
  · assumption
  · extract_lets -merge +onlyGivenNames l8_0
    have h8_0 : Keeps a l8_0 := by
      subst l8_0
      refine modLink_keeps ?_
      assumption
    clear_value l8_0
    refine Keeps.ite (fun _ => ?_) (fun _ => ?_)
    · refine withRoutes_keeps ?_ ?_
      · assumption
      intro _ _
      refine sbReceive_keeps ?_
      assumption
    assumption

theorem doSidebandRetry_keeps {a : State} {x0 x1 s} (h : Keeps a s) : Keeps a (doSidebandRetry x0 x1 s) := by
  delta doSidebandRetry
  extract_lets -merge +onlyGivenNames l0_0
  have h0_0 : Keeps a l0_0 := by
    subst l0_0
    refine advance_keeps ?_
    assumption
  clear_value l0_0
  split
  · assumption
  · refine Keeps.ite (fun _ => ?_) (fun _ => ?_)
    · assumption
    refine Keeps.ite (fun _ => ?_) (fun _ => ?_)
    · refine sbSend_keeps ?_
      assumption
    refine event_keeps ?_
    refine lnkErr_keeps ?_
    refine modLink_keeps ?_
    assumption

theorem doTrainTimeout_keeps {a : State} {x0 x1 s} (h : Keeps a s) : Keeps a (doTrainTimeout x0 x1 s) := by
  delta doTrainTimeout
  extract_lets -merge +onlyGivenNames l0_0 l0_1 l0_2
  have h0_0 : Keeps a l0_0 := by
    subst l0_0
    refine advance_keeps ?_
    assumption
  clear_value l0_0
  clear_value l0_1
  clear_value l0_2
  refine Keeps.ite (fun _ => ?_) (fun _ => ?_)
  · refine withRoutes_keeps ?_ ?_
    · assumption
    intro _ _
    refine failAttempt_keeps ?_
    assumption
  assumption

theorem retrainBody_keeps {a : State} {x0 s} (h : Keeps a s) : Keeps a (retrainBody x0 s) := by
  delta retrainBody
  extract_lets -merge +onlyGivenNames l0_0 l0_1 l0_2 l0_3
  clear_value l0_0
  clear_value l0_1
  clear_value l0_2
  subst l0_3
  try dsimp -zeta -zetaHave -zetaUnused -iota -proj only
  refine withRoutes_keeps ?_ ?_
  · assumption
  intro _ _
  refine startTraining_keeps ?_
  refine modLink_keeps ?_
  assumption

theorem doLinkRetrain_keeps {a : State} {x0 x1 s} (h : Keeps a s) : Keeps a (doLinkRetrain x0 x1 s) := by
  delta doLinkRetrain
  refine runScion_keeps ?_ ?_
  · assumption
  intro _ _ _
  refine retrainBody_keeps ?_
  assumption

theorem modE2e_keeps {a : State} {x0 x1 x2 s} (h : Keeps a s) : Keeps a (modE2e x0 x1 x2 s) := by
  delta modE2e
  refine Keeps.upd ?_ rfl
  assumption

theorem passPacket_keeps {a : State} {x0 x1 x2 s} (h : Keeps a s) : Keeps a (passPacket x0 x1 x2 s) := by
  delta passPacket
  split
  · refine Keeps.ite (fun _ => ?_) (fun _ => ?_)
    · refine modE2e_keeps ?_
      assumption
    refine Keeps.ite (fun _ => ?_) (fun _ => ?_)
    · refine modE2e_keeps ?_
      assumption
    assumption

theorem badFlit_keeps {a : State} {x0 x1 x2 s} (h : Keeps a s) : Keeps a (badFlit x0 x1 x2 s) := by
  delta badFlit
  extract_lets -merge +onlyGivenNames l0_0 l0_1
  clear_value l0_0
  have h0_1 : Keeps a l0_1 := by
    subst l0_1
    refine modLink_keeps ?_
    assumption
  clear_value l0_1
  refine modSide_keeps ?_
  assumption

theorem refuseFlit_keeps {a : State} {x0 x1 x2 s} (h : Keeps a s) : Keeps a (refuseFlit x0 x1 x2 s) := by
  delta refuseFlit
  extract_lets -merge +onlyGivenNames l0_0 l0_1 l0_2
  clear_value l0_0
  have h0_1 : Keeps a l0_1 := by
    subst l0_1
    refine modLink_keeps ?_
    assumption
  clear_value l0_1
  have h0_2 : Keeps a l0_2 := by
    subst l0_2
    refine event_keeps ?_
    refine lnkErr_keeps ?_
    refine modSide_keeps ?_
    assumption
  clear_value l0_2
  refine startTraining_keeps ?_
  assumption

theorem goodFlit_keeps {a : State} {x0 x1 x2 s} (h : Keeps a s) : Keeps a (goodFlit x0 x1 x2 s) := by
  delta goodFlit
  extract_lets -merge +onlyGivenNames l0_0 l0_1 l0_2
  have h0_0 : Keeps a l0_0 := by
    subst l0_0
    refine modSide_keeps ?_
    assumption
  clear_value l0_0
  clear_value l0_1
  have h0_2 : Keeps a l0_2 := by
    subst l0_2
    refine modSide_keeps ?_
    assumption
  clear_value l0_2
  refine Keeps.ite (fun _ => ?_) (fun _ => ?_)
  · refine Keeps.ite (fun _ => ?_) (fun _ => ?_)
    · refine Keeps.ite (fun _ => ?_) (fun _ => ?_)
      · refine Keeps.foldl ?_ fun _ _ _ => ?_
        · assumption
        refine passPacket_keeps ?_
        assumption
      refine Keeps.ite (fun _ => ?_) (fun _ => ?_)
      · refine modPtn_keeps ?_
        assumption
      assumption
    assumption
  assumption

theorem receiveFlit_keeps {a : State} {x0 x1 x2 s} (h : Keeps a s) : Keeps a (receiveFlit x0 x1 x2 s) := by
  delta receiveFlit
  extract_lets -merge +onlyGivenNames l0_0 l0_1 l0_2 l0_3 l0_4 l0_5
  clear_value l0_0
  clear_value l0_1
  clear_value l0_2
  clear_value l0_3
  have h0_4 : Keeps a l0_4 := by
    subst l0_4
    refine Keeps.ite (fun _ => ?_) (fun _ => ?_)
    · refine injSpend_keeps ?_
      assumption
    refine Keeps.ite (fun _ => ?_) (fun _ => ?_)
    · refine injUse_keeps ?_
      assumption
    assumption
  clear_value l0_4
  clear_value l0_5
  refine Keeps.ite (fun _ => ?_) (fun _ => ?_)
  · assumption
  refine Keeps.ite (fun _ => ?_) (fun _ => ?_)
  · refine badFlit_keeps ?_
    assumption
  refine Keeps.ite (fun _ => ?_) (fun _ => ?_)
  · assumption
  refine Keeps.ite (fun _ => ?_) (fun _ => ?_)
  · refine refuseFlit_keeps ?_
    assumption
  refine Keeps.ite (fun _ => ?_) (fun _ => ?_)
  · assumption
  refine goodFlit_keeps ?_
  assumption

theorem doFlitReceive_keeps {a : State} {x0 x1 x2 x3 s} (h : Keeps a s) : Keeps a (doFlitReceive x0 x1 x2 x3 s) := by
  delta doFlitReceive
  extract_lets -merge +onlyGivenNames l0_0
  have h0_0 : Keeps a l0_0 := by
    subst l0_0
    refine advance_keeps ?_
    assumption
  clear_value l0_0
  refine Keeps.ite (fun _ => ?_) (fun _ => ?_)
  · refine withRoutes_keeps ?_ ?_
    · assumption
    intro _ _
    refine receiveFlit_keeps ?_
    assumption
  assumption

theorem doNakReceived_keeps {a : State} {x0 x1 s} (h : Keeps a s) : Keeps a (doNakReceived x0 x1 s) := by
  delta doNakReceived
  extract_lets -merge +onlyGivenNames l0_0 l0_1
  have h0_0 : Keeps a l0_0 := by
    subst l0_0
    refine advance_keeps ?_
    assumption
  clear_value l0_0
  clear_value l0_1
  split
  · assumption
  · split
    · extract_lets -merge +onlyGivenNames l10_0 l10_1 l10_2 l10_3
      clear_value l10_0
      have h10_1 : Keeps a l10_1 := by
        subst l10_1
        refine modLink_keeps ?_
        assumption
      clear_value l10_1
      have h10_2 : Keeps a l10_2 := by
        subst l10_2
        refine modSide_keeps ?_
        assumption
      clear_value l10_2
      have h10_3 : Keeps a l10_3 := by
        subst l10_3
        refine event_keeps ?_
        assumption
      clear_value l10_3
      refine Keeps.ite (fun _ => ?_) (fun _ => ?_)
      · refine withRoutes_keeps ?_ ?_
        · assumption
        intro _ _
        refine startTraining_keeps ?_
        assumption
      assumption

theorem doLinkHeartbeat_keeps {a : State} {x0 x1 x2 s} (h : Keeps a s) : Keeps a (doLinkHeartbeat x0 x1 x2 s) := by
  delta doLinkHeartbeat
  extract_lets -merge +onlyGivenNames l0_0 l0_1 l0_2 l0_3
  have h0_0 : Keeps a l0_0 := by
    subst l0_0
    refine advance_keeps ?_
    assumption
  clear_value l0_0
  clear_value l0_1
  clear_value l0_2
  clear_value l0_3
  refine Keeps.ite (fun _ => ?_) (fun _ => ?_)
  · refine modSide_keeps ?_
    assumption
  assumption

theorem doLinkSilence_keeps {a : State} {x0 x1 x2 s} (h : Keeps a s) : Keeps a (doLinkSilence x0 x1 x2 s) := by
  delta doLinkSilence
  extract_lets -merge +onlyGivenNames l0_0 l0_1 l0_2 l0_3
  have h0_0 : Keeps a l0_0 := by
    subst l0_0
    refine advance_keeps ?_
    assumption
  clear_value l0_0
  clear_value l0_1
  have h0_2 : Keeps a l0_2 := by
    subst l0_2
    refine modLink_keeps ?_
    assumption
  clear_value l0_2
  have h0_3 : Keeps a l0_3 := by
    subst l0_3
    refine withRoutes_keeps ?_ ?_
    · assumption
    intro _ _
    refine startTraining_keeps ?_
    assumption
  clear_value l0_3
  refine Keeps.ite (fun _ => ?_) (fun _ => ?_)
  · refine Keeps.foldl ?_ fun _ _ _ => ?_
    · assumption
    refine Keeps.ite (fun _ => ?_) (fun _ => ?_)
    · refine event_keeps ?_
      assumption
    assumption
  assumption

theorem doE2eAck_keeps {a : State} {x0 x1 x2 x3 s} (h : Keeps a s) : Keeps a (doE2eAck x0 x1 x2 x3 s) := by
  delta doE2eAck
  refine modE2e_keeps ?_
  refine advance_keeps ?_
  assumption

theorem loseCores_keeps {a : State} {x0 x1 s} (h : Keeps a s) : Keeps a (loseCores x0 x1 s) := by
  delta loseCores
  extract_lets -merge +onlyGivenNames l0_0 l0_1 l0_2 l0_3 l0_4
  clear_value l0_0
  have h0_1 : Keeps a l0_1 := by
    subst l0_1
    refine Keeps.foldl ?_ fun _ _ _ => ?_
    · assumption
    refine teardown_keeps ?_
    assumption
  clear_value l0_1
  have h0_2 : Keeps a l0_2 := by
    subst l0_2
    refine Keeps.foldl ?_ fun _ _ _ => ?_
    · assumption
    refine modPart_keeps ?_ fun _ => rfl
    assumption
  clear_value l0_2
  have h0_3 : Keeps a l0_3 := by
    subst l0_3
    refine Keeps.foldl ?_ fun _ _ _ => ?_
    · assumption
    refine Keeps.ite (fun _ => ?_) (fun _ => ?_)
    · refine teardown_keeps ?_
      assumption
    assumption
  clear_value l0_3
  have h0_4 : Keeps a l0_4 := by
    subst l0_4
    refine Keeps.foldl ?_ fun _ _ _ => ?_
    · assumption
    refine modCore_keeps ?_
    assumption
  clear_value l0_4
  refine changed_keeps ?_
  refine clearScan_keeps ?_
  refine modDie_keeps ?_
  assumption

theorem resetDie_keeps {a : State} {x0 s} (h : Keeps a s) : Keeps a (resetDie x0 s) := by
  delta resetDie
  extract_lets -merge +onlyGivenNames l0_0
  have h0_0 : Keeps a l0_0 := by
    subst l0_0
    refine modDie_keeps ?_
    assumption
  clear_value l0_0
  refine Keeps.foldl ?_ fun _ _ _ => ?_
  · assumption
  refine modSide_keeps ?_
  assumption

theorem fenceDone_keeps {a : State} {x0 s} (h : Keeps a s) : Keeps a (fenceDone x0 s) := by
  delta fenceDone
  extract_lets -merge +onlyGivenNames l0_0 l0_1 l0_2 l0_3 l0_4 l0_5
  clear_value l0_0
  clear_value l0_1
  clear_value l0_2
  have h0_3 : Keeps a l0_3 := by
    subst l0_3
    refine modDie_keeps ?_
    assumption
  clear_value l0_3
  have h0_4 : Keeps a l0_4 := by
    subst l0_4
    refine event_keeps ?_
    refine lnkErr_keeps ?_
    assumption
  clear_value l0_4
  have h0_5 : Keeps a l0_5 := by
    subst l0_5
    refine loseCores_keeps ?_
    assumption
  clear_value l0_5
  split
  · assumption
  · refine Keeps.ite (fun _ => ?_) (fun _ => ?_)
    · refine finishOk_keeps ?_
      refine modDie_keeps ?_
      assumption
    refine resetDie_keeps ?_
    assumption

theorem declareLost_keeps {a : State} {x0 x1 s} (h : Keeps a s) : Keeps a (declareLost x0 x1 s) := by
  delta declareLost
  extract_lets -merge +onlyGivenNames l0_0 l0_1 l0_2 l0_3
  clear_value l0_0
  clear_value l0_1
  have h0_2 : Keeps a l0_2 := by
    subst l0_2
    refine modDie_keeps ?_
    assumption
  clear_value l0_2
  have h0_3 : Keeps a l0_3 := by
    subst l0_3
    refine Keeps.foldl ?_ fun _ _ _ => ?_
    · assumption
    extract_lets -merge +onlyGivenNames l12_0 l12_1
    have h12_0 : Keeps a l12_0 := by
      subst l12_0
      refine modLink_keeps ?_
      assumption
    clear_value l12_0
    have h12_1 : Keeps a l12_1 := by
      subst l12_1
      refine answerRetrains_keeps ?_
      assumption
    clear_value l12_1
    refine Keeps.ite (fun _ => ?_) (fun _ => ?_)
    · refine modSide_keeps ?_
      assumption
    assumption
  clear_value l0_3
  refine Keeps.ite (fun _ => ?_) (fun _ => ?_)
  · refine fenceDone_keeps ?_
    assumption
  assumption

theorem loseDie_keeps {a : State} {x0 x1 s} (h : Keeps a s) : Keeps a (loseDie x0 x1 s) := by
  delta loseDie
  refine withRoutes_keeps ?_ ?_
  · assumption
  intro _ _
  refine declareLost_keeps ?_
  assumption

theorem doFenceReceive_keeps {a : State} {x0 x1 x2 s} (h : Keeps a s) : Keeps a (doFenceReceive x0 x1 x2 s) := by
  delta doFenceReceive
  extract_lets -merge +onlyGivenNames l0_0 l0_1 l0_2 l0_3
  have h0_0 : Keeps a l0_0 := by
    subst l0_0
    refine advance_keeps ?_
    assumption
  clear_value l0_0
  clear_value l0_1
  have h0_2 : Keeps a l0_2 := by
    subst l0_2
    refine modDie_keeps ?_
    assumption
  clear_value l0_2
  have h0_3 : Keeps a l0_3 := by
    subst l0_3
    refine Keeps.foldl ?_ fun _ _ _ => ?_
    · assumption
    refine Keeps.ite (fun _ => ?_) (fun _ => ?_)
    · refine modSide_keeps ?_
      assumption
    assumption
  clear_value l0_3
  refine Keeps.ite (fun _ => ?_) (fun _ => ?_)
  · refine Keeps.ite (fun _ => ?_) (fun _ => ?_)
    · refine settle_keeps ?_
      refine fenceDone_keeps ?_
      assumption
    assumption
  assumption

theorem doDieHeartbeat_keeps {a : State} {x0 x1 x2 s} (h : Keeps a s) : Keeps a (doDieHeartbeat x0 x1 x2 s) := by
  delta doDieHeartbeat
  extract_lets -merge +onlyGivenNames l0_0 l0_1
  have h0_0 : Keeps a l0_0 := by
    subst l0_0
    refine advance_keeps ?_
    assumption
  clear_value l0_0
  have h0_1 : Keeps a l0_1 := by
    subst l0_1
    refine modDie_keeps ?_
    assumption
  clear_value l0_1
  refine Keeps.ite (fun _ => ?_) (fun _ => ?_)
  · refine Keeps.ite (fun _ => ?_) (fun _ => ?_)
    · assumption
    refine Keeps.ite (fun _ => ?_) (fun _ => ?_)
    · refine loseDie_keeps ?_
      assumption
    refine modDie_keeps ?_
    assumption
  assumption

theorem doDieHeartbeatMiss_keeps {a : State} {x0 x1 s} (h : Keeps a s) : Keeps a (doDieHeartbeatMiss x0 x1 s) := by
  delta doDieHeartbeatMiss
  extract_lets -merge +onlyGivenNames l0_0
  have h0_0 : Keeps a l0_0 := by
    subst l0_0
    refine advance_keeps ?_
    assumption
  clear_value l0_0
  refine Keeps.ite (fun _ => ?_) (fun _ => ?_)
  · refine loseDie_keeps ?_
    assumption
  assumption

theorem doFencedHeartbeat_keeps {a : State} {x0 x1 s} (h : Keeps a s) : Keeps a (doFencedHeartbeat x0 x1 s) := by
  delta doFencedHeartbeat
  extract_lets -merge +onlyGivenNames l0_0
  have h0_0 : Keeps a l0_0 := by
    subst l0_0
    refine advance_keeps ?_
    assumption
  clear_value l0_0
  refine Keeps.ite (fun _ => ?_) (fun _ => ?_)
  · refine event_keeps ?_
    assumption
  assumption

theorem dieResetBody_keeps {a : State} {x0 s} (h : Keeps a s) : Keeps a (dieResetBody x0 s) := by
  delta dieResetBody
  extract_lets -merge +onlyGivenNames l0_0 l0_1 l0_2
  clear_value l0_0
  clear_value l0_1
  have h0_2 : Keeps a l0_2 := by
    subst l0_2
    refine modDie_keeps ?_
    assumption
  clear_value l0_2
  refine Keeps.ite (fun _ => ?_) (fun _ => ?_)
  · refine loseDie_keeps ?_
    refine modDie_keeps ?_
    assumption
  refine Keeps.ite (fun _ => ?_) (fun _ => ?_)
  · refine finishOk_keeps ?_
    assumption
  refine Keeps.ite (fun _ => ?_) (fun _ => ?_)
  · refine resetDie_keeps ?_
    assumption
  assumption

theorem doDieReset_keeps {a : State} {x0 x1 s} (h : Keeps a s) : Keeps a (doDieReset x0 x1 s) := by
  delta doDieReset
  refine runScion_keeps ?_ ?_
  · assumption
  intro _ _ _
  refine dieResetBody_keeps ?_
  assumption

theorem raiseDie_keeps {a : State} {x0 s} (h : Keeps a s) : Keeps a (raiseDie x0 s) := by
  delta raiseDie
  extract_lets -merge +onlyGivenNames l0_0 l0_1 l0_2 l0_3 l0_4 l0_5 l0_6
  clear_value l0_0
  clear_value l0_1
  clear_value l0_2
  clear_value l0_3
  have h0_4 : Keeps a l0_4 := by
    subst l0_4
    refine Keeps.upd ?_ rfl
    assumption
  clear_value l0_4
  have h0_5 : Keeps a l0_5 := by
    subst l0_5
    refine resetRegs_keeps ?_
    refine resetRegs_keeps ?_
    assumption
  clear_value l0_5
  have h0_6 : Keeps a l0_6 := by
    subst l0_6
    refine Keeps.foldl ?_ fun _ _ _ => ?_
    · assumption
    refine modCore_keeps ?_
    assumption
  clear_value l0_6
  refine modDie_keeps ?_
  assumption

theorem rejoinLink_keeps {a : State} {x0 s} (h : Keeps a s) : Keeps a (rejoinLink x0 s) := by
  delta rejoinLink
  refine Keeps.ite (fun _ => ?_) (fun _ => ?_)
  · refine startTraining_keeps ?_
    assumption
  refine Keeps.ite (fun _ => ?_) (fun _ => ?_)
  · refine modLink_keeps ?_
    assumption
  refine modLink_keeps ?_
  assumption

theorem doDieResetRelease_keeps {a : State} {x0 x1 s} (h : Keeps a s) : Keeps a (doDieResetRelease x0 x1 s) := by
  delta doDieResetRelease
  extract_lets -merge +onlyGivenNames l0_0 l0_1
  have h0_0 : Keeps a l0_0 := by
    subst l0_0
    refine advance_keeps ?_
    assumption
  clear_value l0_0
  clear_value l0_1
  refine Keeps.ite (fun _ => ?_) (fun _ => ?_)
  · refine withRoutes_keeps ?_ ?_
    · refine raiseDie_keeps ?_
      assumption
    intro _ _
    refine Keeps.foldl ?_ fun _ _ _ => ?_
    · assumption
    refine rejoinLink_keeps ?_
    assumption
  assumption

theorem dieUpNow_keeps {a : State} {x0 s} (h : Keeps a s) : Keeps a (dieUpNow x0 s) := by
  delta dieUpNow
  extract_lets -merge +onlyGivenNames l0_0 l0_1 l0_2
  clear_value l0_0
  have h0_1 : Keeps a l0_1 := by
    subst l0_1
    refine Keeps.foldl ?_ fun _ _ _ => ?_
    · assumption
    refine modCore_keeps ?_
    assumption
  clear_value l0_1
  clear_value l0_2
  refine changed_keeps ?_
  refine modDie_keeps ?_
  assumption

theorem rejoinFailed_keeps {a : State} {x0 s} (h : Keeps a s) : Keeps a (rejoinFailed x0 s) := by
  delta rejoinFailed
  extract_lets -merge +onlyGivenNames l0_0 l0_1 l0_2 l0_3 l0_4 l0_5
  clear_value l0_0
  clear_value l0_1
  clear_value l0_2
  have h0_3 : Keeps a l0_3 := by
    subst l0_3
    refine modDie_keeps ?_
    assumption
  clear_value l0_3
  have h0_4 : Keeps a l0_4 := by
    subst l0_4
    refine Keeps.foldl ?_ fun _ _ _ => ?_
    · assumption
    refine modLink_keeps ?_
    assumption
  clear_value l0_4
  have h0_5 : Keeps a l0_5 := by
    subst l0_5
    refine event_keeps ?_
    refine lnkErr_keeps ?_
    assumption
  clear_value l0_5
  split
  · refine finish_keeps ?_
    assumption
  · assumption

theorem doDieRejoinDone_keeps {a : State} {x0 x1 s} (h : Keeps a s) : Keeps a (doDieRejoinDone x0 x1 s) := by
  delta doDieRejoinDone
  extract_lets -merge +onlyGivenNames l0_0 l0_1 l0_2 l0_3
  have h0_0 : Keeps a l0_0 := by
    subst l0_0
    refine advance_keeps ?_
    assumption
  clear_value l0_0
  clear_value l0_1
  clear_value l0_2
  have h0_3 : Keeps a l0_3 := by
    subst l0_3
    refine dieUpNow_keeps ?_
    assumption
  clear_value l0_3
  refine Keeps.ite (fun _ => ?_) (fun _ => ?_)
  · refine Keeps.ite (fun _ => ?_) (fun _ => ?_)
    · refine settle_keeps ?_
      split
      · refine finishOk_keeps ?_
        assumption
      · assumption
    refine withRoutes_keeps ?_ ?_
    · assumption
    intro _ _
    refine rejoinFailed_keeps ?_
    assumption
  assumption

end Sys2Proof.Machine
end

