-- ==== Sys2Proof/Laws/KeepsPartner.lean ====
section
/-!
SUPPORT. Laws/KeepsPartner.lean: the operations of Machine/Partner.lean keep what `Keeps` says (Laws/Keeps.lean).
-/
namespace Sys2Proof.Machine

theorem doPartnerEnable_keeps {a : State} {x0 x1 x2 x3 s} (h : Keeps a s) : Keeps a (doPartnerEnable x0 x1 x2 x3 s) := by
  delta doPartnerEnable
  extract_lets -merge +onlyGivenNames l0_0 l0_1 l0_2 l0_3
  have h0_0 : Keeps a l0_0 := by
    subst l0_0
    refine advance_keeps ?_
    assumption
  clear_value l0_0
  clear_value l0_1
  have h0_2 : Keeps a l0_2 := by
    subst l0_2
    refine modPtn_keeps ?_
    assumption
  clear_value l0_2
  have h0_3 : Keeps a l0_3 := by
    subst l0_3
    refine modLink_keeps ?_
    assumption
  clear_value l0_3
  refine Keeps.ite (fun _ => ?_) (fun _ => ?_)
  · refine Keeps.ite (fun _ => ?_) (fun _ => ?_)
    · refine wakeLink_keeps ?_
      assumption
    refine Keeps.ite (fun _ => ?_) (fun _ => ?_)
    · refine answerRetrains_keeps ?_
      refine ptnLost_keeps ?_
      assumption
    assumption
  assumption

theorem doPartnerLost_keeps {a : State} {x0 x1 s} (h : Keeps a s) : Keeps a (doPartnerLost x0 x1 s) := by
  delta doPartnerLost
  extract_lets -merge +onlyGivenNames l0_0
  have h0_0 : Keeps a l0_0 := by
    subst l0_0
    refine advance_keeps ?_
    assumption
  clear_value l0_0
  refine Keeps.ite (fun _ => ?_) (fun _ => ?_)
  · refine settle_keeps ?_
    refine ptnLost_keeps ?_
    assumption
  assumption

theorem placeRange_keeps {a : State} {x0 x1 s} (h : Keeps a s) : Keeps a (placeRange x0 x1 s) := by
  delta placeRange
  refine modPtn_keeps ?_
  assumption

theorem mirrorAddBody_keeps {a : State} {x0 s} (h : Keeps a s) : Keeps a (mirrorAddBody x0 s) := by
  delta mirrorAddBody
  refine Keeps.foldl ?_ fun _ _ _ => ?_
  · assumption
  refine placeRange_keeps ?_
  assumption

theorem doMirrorCfgAdd_keeps {a : State} {x0 x1 x2 s} (h : Keeps a s) : Keeps a (doMirrorCfgAdd x0 x1 x2 s) := by
  delta doMirrorCfgAdd
  refine Keeps.ite (fun _ => ?_) (fun _ => ?_)
  · refine advance_keeps ?_
    assumption
  refine runScion_keeps ?_ ?_
  · assumption
  intro _ _ _
  refine mirrorAddBody_keeps ?_
  assumption

theorem mirrorRemoveBody_keeps {a : State} {x0 s} (h : Keeps a s) : Keeps a (mirrorRemoveBody x0 s) := by
  delta mirrorRemoveBody
  extract_lets -merge +onlyGivenNames l0_0 l0_1
  clear_value l0_0
  have h0_1 : Keeps a l0_1 := by
    subst l0_1
    refine Keeps.foldl ?_ fun _ _ _ => ?_
    · assumption
    refine modPtn_keeps ?_
    assumption
  clear_value l0_1
  refine finishOk_keeps ?_
  assumption

theorem doMirrorCfgRemove_keeps {a : State} {x0 x1 s} (h : Keeps a s) : Keeps a (doMirrorCfgRemove x0 x1 s) := by
  delta doMirrorCfgRemove
  refine Keeps.ite (fun _ => ?_) (fun _ => ?_)
  · refine runScion_keeps ?_ ?_
    · assumption
    intro _ _ _
    refine mirrorRemoveBody_keeps ?_
    assumption
  refine advance_keeps ?_
  assumption

theorem doRangeInSync_keeps {a : State} {x0 x1 s} (h : Keeps a s) : Keeps a (doRangeInSync x0 x1 s) := by
  delta doRangeInSync
  extract_lets -merge +onlyGivenNames l0_0 l0_1
  have h0_0 : Keeps a l0_0 := by
    subst l0_0
    refine advance_keeps ?_
    assumption
  clear_value l0_0
  clear_value l0_1
  split
  · assumption
  · refine Keeps.ite (fun _ => ?_) (fun _ => ?_)
    · assumption
    extract_lets -merge +onlyGivenNames l11_0
    have h11_0 : Keeps a l11_0 := by
      subst l11_0
      refine Keeps.foldl ?_ fun _ _ _ => ?_
      · assumption
      extract_lets -merge +onlyGivenNames l16_0 l16_1
      have h16_0 : Keeps a l16_0 := by
        subst l16_0
        refine modPtn_keeps ?_
        assumption
      clear_value l16_0
      have h16_1 : Keeps a l16_1 := by
        subst l16_1
        refine Keeps.ite (fun _ => ?_) (fun _ => ?_)
        · refine send_keeps ?_
          assumption
        assumption
      clear_value l16_1
      refine eventFor_keeps ?_
      assumption
    clear_value l11_0
    refine settle_keeps ?_
    refine finishOk_keeps ?_
    assumption

theorem applyPkt_keeps {a : State} {x0 x1 s} (h : Keeps a s) : Keeps a (applyPkt x0 x1 s) := by
  delta applyPkt
  split
  · extract_lets -merge +onlyGivenNames l1_0
    clear_value l1_0
    refine Keeps.foldl ?_ fun _ _ _ => ?_
    · assumption
    refine Keeps.ite (fun _ => ?_) (fun _ => ?_)
    · refine writeDev_keeps ?_
      assumption
    assumption
  · refine Keeps.ite (fun _ => ?_) (fun _ => ?_)
    · extract_lets -merge +onlyGivenNames l10_0 l10_1
      clear_value l10_0
      have h10_1 : Keeps a l10_1 := by
        subst l10_1
        refine changed_keeps ?_
        refine setSem_keeps ?_
        assumption
      clear_value l10_1
      refine serveSem_keeps ?_
      assumption
    assumption

theorem sendFront_keeps {a : State} {x0 x1 x2 s} (h : Keeps a s) : Keeps a (sendFront x0 x1 x2 s) := by
  delta sendFront
  extract_lets -merge +onlyGivenNames l0_0 l0_1 l0_2 l0_3
  clear_value l0_0
  have h0_1 : Keeps a l0_1 := by
    subst l0_1
    refine modPtn_keeps ?_
    assumption
  clear_value l0_1
  have h0_2 : Keeps a l0_2 := by
    subst l0_2
    refine send_keeps ?_
    assumption
  clear_value l0_2
  have h0_3 : Keeps a l0_3 := by
    subst l0_3
    split
    · assumption
    · refine Keeps.ite (fun _ => ?_) (fun _ => ?_)
      · refine modPtn_keeps ?_
        assumption
      assumption
  clear_value l0_3
  refine Keeps.ite (fun _ => ?_) (fun _ => ?_)
  · refine commit_keeps ?_
    assumption
  assumption

theorem doPartnerMirrorApply_keeps {a : State} {x0 x1 x2 x3 s} (h : Keeps a s) : Keeps a (doPartnerMirrorApply x0 x1 x2 x3 s) := by
  delta doPartnerMirrorApply
  extract_lets -merge +onlyGivenNames l0_0 l0_1 l0_2 l0_3
  have h0_0 : Keeps a l0_0 := by
    subst l0_0
    refine advance_keeps ?_
    assumption
  clear_value l0_0
  clear_value l0_1
  have h0_2 : Keeps a l0_2 := by
    subst l0_2
    refine Keeps.ite (fun _ => ?_) (fun _ => ?_)
    · refine injUse_keeps ?_
      assumption
    assumption
  clear_value l0_2
  have h0_3 : Keeps a l0_3 := by
    subst l0_3
    refine event_keeps ?_
    refine modPtn_keeps ?_
    assumption
  clear_value l0_3
  refine Keeps.ite (fun _ => ?_) (fun _ => ?_)
  · assumption
  split
  · split
    · assumption
    · refine sendFront_keeps ?_
      assumption
  · refine Keeps.ite (fun _ => ?_) (fun _ => ?_)
    · refine withRoutes_keeps ?_ ?_
      · assumption
      intro _ _
      refine startTraining_keeps ?_
      assumption
    refine settle_keeps ?_
    refine applyPkt_keeps ?_
    assumption

end Sys2Proof.Machine
end

