-- ==== Sys2Proof/Laws/KeepsHubReset.lean ====
section
/-!
SUPPORT. Laws/KeepsHubReset.lean: the operations of Machine/HubReset.lean keep what `Keeps` says (Laws/Keeps.lean).
-/
namespace Sys2Proof.Machine

theorem linksOff_keeps {a : State} {x0 s} (h : Keeps a s) : Keeps a (linksOff x0 s) := by
  delta linksOff
  extract_lets -merge +onlyGivenNames l0_0 l0_1 l0_2
  have h0_0 : Keeps a l0_0 := by
    subst l0_0
    refine Keeps.foldl ?_ fun _ _ _ => ?_
    · assumption
    extract_lets -merge +onlyGivenNames l5_0
    have h5_0 : Keeps a l5_0 := by
      subst l5_0
      refine modLink_keeps ?_
      assumption
    clear_value l5_0
    refine answerRetrains_keeps ?_
    refine modSide_keeps ?_
    assumption
  clear_value l0_0
  clear_value l0_1
  have h0_2 : Keeps a l0_2 := by
    subst l0_2
    refine modLink_keeps ?_
    assumption
  clear_value l0_2
  refine answerRetrains_keeps ?_
  refine Keeps.ite (fun _ => ?_) (fun _ => ?_)
  · refine ptnLost_keeps ?_
    assumption
  assumption

theorem pcieOff_keeps {a : State} {x0 s} (h : Keeps a s) : Keeps a (pcieOff x0 s) := by
  delta pcieOff
  refine Keeps.foldl ?_ fun _ _ _ => ?_
  · assumption
  extract_lets -merge +onlyGivenNames l2_0
  have h2_0 : Keeps a l2_0 := by
    subst l2_0
    refine Keeps.foldl ?_ fun _ _ _ => ?_
    · assumption
    refine ringsOff_keeps ?_
    refine abandon_keeps ?_
    assumption
  clear_value l2_0
  refine modPLink_keeps ?_
  assumption

theorem unitsLost_keeps {a : State} {x0 s} (h : Keeps a s) : Keeps a (unitsLost x0 s) := by
  delta unitsLost
  extract_lets -merge +onlyGivenNames l0_0 l0_1 l0_2
  clear_value l0_0
  clear_value l0_1
  clear_value l0_2
  refine Keeps.foldl ?_ fun _ _ _ => ?_
  · assumption
  refine finish_keeps ?_
  assumption

theorem blocksReset_keeps {a : State} {x0 s} (h : Keeps a s) : Keeps a (blocksReset x0 s) := by
  delta blocksReset
  extract_lets -merge +onlyGivenNames l0_0 l0_1 l0_2 l0_3
  clear_value l0_0
  have h0_1 : Keeps a l0_1 := by
    subst l0_1
    refine Keeps.foldl ?_ fun _ _ _ => ?_
    · refine unitsLost_keeps ?_
      assumption
    refine tellIslands_keeps ?_
    assumption
  clear_value l0_1
  have h0_2 : Keeps a l0_2 := by
    subst l0_2
    refine Keeps.foldl ?_ fun _ _ _ => ?_
    · assumption
    refine resetRegs_keeps ?_
    assumption
  clear_value l0_2
  have h0_3 : Keeps a l0_3 := by
    subst l0_3
    refine modDrc_keeps ?_
    assumption
  clear_value l0_3
  refine modPtn_keeps ?_
  refine modFus_keeps ?_
  refine modSdl_keeps ?_
  refine modIng_keeps ?_
  assumption

theorem hubReset_keeps {a : State} {x0 s} (h : Keeps a s) : Keeps a (hubReset x0 s) := by
  delta hubReset
  extract_lets -merge +onlyGivenNames l0_0 l0_1 l0_2 l0_3 l0_4 l0_5 l0_6 l0_7 l0_8 l0_9
  clear_value l0_0
  have h0_1 : Keeps a l0_1 := by
    subst l0_1
    refine Keeps.upd ?_ rfl
    assumption
  clear_value l0_1
  have h0_2 : Keeps a l0_2 := by
    subst l0_2
    refine pcieOff_keeps ?_
    assumption
  clear_value l0_2
  have h0_3 : Keeps a l0_3 := by
    subst l0_3
    refine linksOff_keeps ?_
    assumption
  clear_value l0_3
  subst l0_4
  try dsimp -zeta -zetaHave -zetaUnused -iota -proj only
  have h0_5 : Keeps a l0_5 := by
    subst l0_5
    refine mirrorLost_keeps ?_
    refine Keeps.upd ?_ rfl
    assumption
  clear_value l0_5
  have h0_6 : Keeps a l0_6 := by
    subst l0_6
    refine tearDown_keeps ?_
    assumption
  clear_value l0_6
  have h0_7 : Keeps a l0_7 := by
    subst l0_7
    refine blocksReset_keeps ?_
    assumption
  clear_value l0_7
  have h0_8 : Keeps a l0_8 := by
    subst l0_8
    refine modScion_keeps ?_
    assumption
  clear_value l0_8
  have h0_9 : Keeps a l0_9 := by
    subst l0_9
    refine detect_keeps ?_
    assumption
  clear_value l0_9
  refine settle_keeps ?_
  refine Keeps.ite (fun _ => ?_) (fun _ => ?_)
  · refine detect_keeps ?_
    assumption
  refine modIsl_keeps ?_
  assumption

theorem doHubDieReset_keeps {a : State} {x0 x1 s} (h : Keeps a s) : Keeps a (doHubDieReset x0 x1 s) := by
  delta doHubDieReset
  extract_lets -merge +onlyGivenNames l0_0
  have h0_0 : Keeps a l0_0 := by
    subst l0_0
    refine advance_keeps ?_
    assumption
  clear_value l0_0
  refine Keeps.ite (fun _ => ?_) (fun _ => ?_)
  · refine hubReset_keeps ?_
    assumption
  assumption

theorem doHubResetCmd_keeps {a : State} {x0 x1 x2 s} (h : Keeps a s) : Keeps a (doHubResetCmd x0 x1 x2 s) := by
  delta doHubResetCmd
  extract_lets -merge +onlyGivenNames l0_0 l0_1
  have h0_0 : Keeps a l0_0 := by
    subst l0_0
    refine advance_keeps ?_
    assumption
  clear_value l0_0
  have h0_1 : Keeps a l0_1 := by
    subst l0_1
    refine fldSet_keeps ?_
    assumption
  clear_value l0_1
  refine Keeps.ite (fun _ => ?_) (fun _ => ?_)
  · refine Keeps.ite (fun _ => ?_) (fun _ => ?_)
    · refine hubReset_keeps ?_
      assumption
    assumption
  assumption

theorem doPllUnlock_keeps {a : State} {x0 x1 s} (h : Keeps a s) : Keeps a (doPllUnlock x0 x1 s) := by
  delta doPllUnlock
  extract_lets -merge +onlyGivenNames l0_0
  have h0_0 : Keeps a l0_0 := by
    subst l0_0
    refine advance_keeps ?_
    assumption
  clear_value l0_0
  refine Keeps.ite (fun _ => ?_) (fun _ => ?_)
  · refine Keeps.ite (fun _ => ?_) (fun _ => ?_)
    · refine loseDie_keeps ?_
      refine modDie_keeps ?_
      assumption
    assumption
  refine Keeps.ite (fun _ => ?_) (fun _ => ?_)
  · refine hubReset_keeps ?_
    assumption
  assumption

theorem beginDie_keeps {a : State} {x0 s} (h : Keeps a s) : Keeps a (beginDie x0 s) := by
  delta beginDie
  refine Keeps.ite (fun _ => ?_) (fun _ => ?_)
  · refine modDie_keeps ?_
    refine Keeps.upd ?_ rfl
    assumption
  assumption

theorem powerHub_keeps {a : State} {x0 s} (h : Keeps a s) : Keeps a (powerHub x0 s) := by
  delta powerHub
  refine Keeps.ite (fun _ => ?_) (fun _ => ?_)
  · refine Keeps.upd ?_ rfl
    assumption
  refine Keeps.upd ?_ rfl
  assumption

theorem hubReturn_keeps {a : State} {x0 s} (h : Keeps a s) : Keeps a (hubReturn x0 s) := by
  delta hubReturn
  extract_lets -merge +onlyGivenNames l0_0 l0_1 l0_2 l0_3 l0_4 l0_5 l0_6
  have h0_0 : Keeps a l0_0 := by
    subst l0_0
    refine Keeps.upd ?_ rfl
    assumption
  clear_value l0_0
  have h0_1 : Keeps a l0_1 := by
    subst l0_1
    refine powerHub_keeps ?_
    assumption
  clear_value l0_1
  have h0_2 : Keeps a l0_2 := by
    subst l0_2
    refine modDrc_keeps ?_
    assumption
  clear_value l0_2
  have h0_3 : Keeps a l0_3 := by
    subst l0_3
    refine modScion_keeps ?_
    assumption
  clear_value l0_3
  subst l0_4
  try dsimp -zeta -zetaHave -zetaUnused -iota -proj only
  have h0_5 : Keeps a l0_5 := by
    subst l0_5
    refine Keeps.ite (fun _ => ?_) (fun _ => ?_)
    · refine Keeps.upd ?_ rfl
      assumption
    assumption
  clear_value l0_5
  have h0_6 : Keeps a l0_6 := by
    subst l0_6
    refine Keeps.ite (fun _ => ?_) (fun _ => ?_)
    · refine beginDie_keeps ?_
      refine beginDie_keeps ?_
      assumption
    assumption
  clear_value l0_6
  refine withRoutes_keeps ?_ ?_
  · assumption
  intro _ _
  refine Keeps.foldl ?_ fun _ _ _ => ?_
  · assumption
  refine wakeLink_keeps ?_
  assumption

theorem doHubReturn_keeps {a : State} {x0 x1 s} (h : Keeps a s) : Keeps a (doHubReturn x0 x1 s) := by
  delta doHubReturn
  extract_lets -merge +onlyGivenNames l0_0
  have h0_0 : Keeps a l0_0 := by
    subst l0_0
    refine advance_keeps ?_
    assumption
  clear_value l0_0
  refine Keeps.ite (fun _ => ?_) (fun _ => ?_)
  · refine hubReturn_keeps ?_
    assumption
  assumption

end Sys2Proof.Machine
end

