-- ==== Sys2Proof/Laws/KeepsLocks.lean ====
section
/-!
SUPPORT. Laws/KeepsLocks.lean: the operations of Machine/Locks.lean keep what `Keeps` says (Laws/Keeps.lean).
-/
namespace Sys2Proof.Machine

theorem markFree_keeps {a : State} {x0 x1 x2 x3 s} (h : Keeps a s) : Keeps a (markFree x0 x1 x2 x3 s) := by
  delta markFree
  split
  · rename_i hq
    have hk := Keeps.ofEq (a := a) (by
      refine takeFree_keeps ?_
      assumption) hq
    refine stick_keeps ?_
    assumption

theorem lockedWrite_keeps {a : State} {x0 s} (h : Keeps a s) : Keeps a (lockedWrite x0 s) := by
  delta lockedWrite
  split
  · assumption
  · extract_lets -merge +onlyGivenNames l2_0 l2_1
    clear_value l2_0
    subst l2_1
    try dsimp -zeta -zetaHave -zetaUnused -iota -proj only
    split
    · assumption
    · assumption
    · refine event_keeps ?_
      refine fnErr_keeps ?_
      assumption
    · refine eventFor_keeps ?_
      refine fnErr_keeps ?_
      assumption
    · refine event_keeps ?_
      refine stick_keeps ?_
      assumption
    · refine event_keeps ?_
      refine fldSet_keeps ?_
      assumption
    · refine event_keeps ?_
      refine fldSet_keeps ?_
      assumption
    · refine event_keeps ?_
      refine fldSet_keeps ?_
      assumption
    · refine event_keeps ?_
      refine markFree_keeps ?_
      assumption
    · refine event_keeps ?_
      refine markFree_keeps ?_
      assumption
    · refine event_keeps ?_
      refine stick_keeps ?_
      assumption
    · refine event_keeps ?_
      refine fldSet_keeps ?_
      assumption
    · refine event_keeps ?_
      refine fldSet_keeps ?_
      assumption
    · refine event_keeps ?_
      refine fldSet_keeps ?_
      assumption
    · refine event_keeps ?_
      refine fldSet_keeps ?_
      assumption
    · refine event_keeps ?_
      refine fldSet_keeps ?_
      assumption
    · refine stick_keeps ?_
      assumption

end Sys2Proof.Machine
end

