-- ==== Sys2Proof/Laws/KeepsPower.lean ====
section
/-!
SUPPORT. Laws/KeepsPower.lean: the operations of Machine/Power.lean keep what `Keeps` says (Laws/Keeps.lean).
-/
namespace Sys2Proof.Machine

theorem pwrErr_keeps {a : State} {x0 s} (h : Keeps a s) : Keeps a (pwrErr x0 s) := by
  delta pwrErr
  refine fldSet_keeps ?_
  assumption

theorem modPD_keeps {a : State} {x0 x1 s} (h : Keeps a s) : Keeps a (modPD x0 x1 s) := by
  delta modPD
  refine Keeps.upd ?_ rfl
  assumption

theorem modHot_keeps {a : State} {x0 x1 s} (h : Keeps a s) : Keeps a (modHot x0 x1 s) := by
  delta modHot
  refine Keeps.upd ?_ rfl
  assumption

theorem setPoint_keeps {a : State} {s x1} (h : Keeps a s) : Keeps a (setPoint s x1) := by
  delta setPoint
  extract_lets -merge +onlyGivenNames l0_0
  clear_value l0_0
  refine modPD_keeps ?_
  assumption

theorem dvfs_keeps {a : State} {s} (h : Keeps a s) : Keeps a (dvfs s) := by
  delta dvfs
  refine Keeps.foldl ?_ fun _ _ _ => ?_
  · assumption
  refine setPoint_keeps ?_
  assumption

theorem doVoltageReached_keeps {a : State} {x0 x1 s} (h : Keeps a s) : Keeps a (doVoltageReached x0 x1 s) := by
  delta doVoltageReached
  extract_lets -merge +onlyGivenNames l0_0
  have h0_0 : Keeps a l0_0 := by
    subst l0_0
    refine advance_keeps ?_
    assumption
  clear_value l0_0
  refine Keeps.ite (fun _ => ?_) (fun _ => ?_)
  · refine modPD_keeps ?_
    assumption
  assumption

theorem doCurrentCheck_keeps {a : State} {x0 x1 x2 s} (h : Keeps a s) : Keeps a (doCurrentCheck x0 x1 x2 s) := by
  delta doCurrentCheck
  extract_lets -merge +onlyGivenNames l0_0 l0_1 l0_2 l0_3
  have h0_0 : Keeps a l0_0 := by
    subst l0_0
    refine advance_keeps ?_
    assumption
  clear_value l0_0
  clear_value l0_1
  have h0_2 : Keeps a l0_2 := by
    subst l0_2
    refine modPD_keeps ?_
    assumption
  clear_value l0_2
  clear_value l0_3
  refine Keeps.ite (fun _ => ?_) (fun _ => ?_)
  · assumption
  refine Keeps.ite (fun _ => ?_) (fun _ => ?_)
  · refine Keeps.ite (fun _ => ?_) (fun _ => ?_)
    · assumption
    split
    · rename_i hq
      have hk := Keeps.ofEq (a := a) (by
        refine takeFree_keeps ?_
        assumption) hq
      refine event_keeps ?_
      assumption
  refine Keeps.ite (fun _ => ?_) (fun _ => ?_)
  · refine modPD_keeps ?_
    assumption
  refine Keeps.ite (fun _ => ?_) (fun _ => ?_)
  · refine modPD_keeps ?_
    assumption
  refine modPD_keeps ?_
  assumption

theorem capStep_keeps {a : State} {x0 x1 x2 s} (h : Keeps a s) : Keeps a (capStep x0 x1 x2 s) := by
  delta capStep
  refine event_keeps ?_
  refine modPD_keeps ?_
  assumption

theorem commitPwr_keeps {a : State} {s} (h : Keeps a s) : Keeps a (commitPwr s) := by
  delta commitPwr
  refine Keeps.foldl ?_ fun _ _ _ => ?_
  · assumption
  refine commit_keeps ?_
  assumption

theorem capTick_keeps {a : State} {x0 x1 s} (h : Keeps a s) : Keeps a (capTick x0 x1 s) := by
  delta capTick
  extract_lets -merge +onlyGivenNames l0_0 l0_1 l0_2 l0_3 l0_4 l0_5 l0_6 l0_7 l0_8 l0_9 l0_10 l0_11
  have h0_0 : Keeps a l0_0 := by
    subst l0_0
    refine commitPwr_keeps ?_
    assumption
  clear_value l0_0
  clear_value l0_1
  clear_value l0_2
  clear_value l0_3
  have h0_4 : Keeps a l0_4 := by
    subst l0_4
    refine Keeps.upd ?_ rfl
    assumption
  clear_value l0_4
  clear_value l0_5
  have h0_6 : Keeps a l0_6 := by
    subst l0_6
    refine Keeps.upd ?_ rfl
    assumption
  clear_value l0_6
  clear_value l0_7
  clear_value l0_8
  have h0_9 : Keeps a l0_9 := by
    subst l0_9
    refine Keeps.upd ?_ rfl
    assumption
  clear_value l0_9
  clear_value l0_10
  clear_value l0_11
  refine Keeps.ite (fun _ => ?_) (fun _ => ?_)
  · split
    · refine capStep_keeps ?_
      assumption
    · assumption
  refine Keeps.ite (fun _ => ?_) (fun _ => ?_)
  · refine Keeps.ite (fun _ => ?_) (fun _ => ?_)
    · split
      · refine capStep_keeps ?_
        assumption
      · assumption
    refine Keeps.upd ?_ rfl
    assumption
  refine Keeps.upd ?_ rfl
  assumption

theorem doCapTick_keeps {a : State} {x0 x1 x2 s} (h : Keeps a s) : Keeps a (doCapTick x0 x1 x2 s) := by
  delta doCapTick
  refine dvfs_keeps ?_
  refine capTick_keeps ?_
  refine advance_keeps ?_
  assumption

theorem quadOff_keeps {a : State} {x0 x1 s} (h : Keeps a s) : Keeps a (quadOff x0 x1 s) := by
  delta quadOff
  extract_lets -merge +onlyGivenNames l0_0 l0_1
  have h0_0 : Keeps a l0_0 := by
    subst l0_0
    refine Keeps.foldl ?_ fun _ _ _ => ?_
    · assumption
    refine modCore_keeps ?_
    assumption
  clear_value l0_0
  clear_value l0_1
  refine Keeps.upd ?_ rfl
  assumption

theorem gateQuad_keeps {a : State} {x0 x1 s} (h : Keeps a s) : Keeps a (gateQuad x0 x1 s) := by
  delta gateQuad
  refine Keeps.ite (fun _ => ?_) (fun _ => ?_)
  · split
    · assumption
    · extract_lets -merge +onlyGivenNames l3_0
      have h3_0 : Keeps a l3_0 := by
        subst l3_0
        refine quadOff_keeps ?_
        refine modDie_keeps ?_
        assumption
      clear_value l3_0
      refine Keeps.ite (fun _ => ?_) (fun _ => ?_)
      · refine changed_keeps ?_
        assumption
      assumption
  assumption

theorem ungateQuad_keeps {a : State} {x0 x1 s} (h : Keeps a s) : Keeps a (ungateQuad x0 x1 s) := by
  delta ungateQuad
  refine Keeps.ite (fun _ => ?_) (fun _ => ?_)
  · assumption
  extract_lets -merge +onlyGivenNames l2_0 l2_1 l2_2
  clear_value l2_0
  have h2_1 : Keeps a l2_1 := by
    subst l2_1
    refine Keeps.upd ?_ rfl
    assumption
  clear_value l2_1
  have h2_2 : Keeps a l2_2 := by
    subst l2_2
    refine Keeps.foldl ?_ fun _ _ _ => ?_
    · assumption
    refine Keeps.ite (fun _ => ?_) (fun _ => ?_)
    · refine freeCore_keeps ?_
      assumption
    assumption
  clear_value l2_2
  refine changed_keeps ?_
  assumption

theorem doQuadrantGate_keeps {a : State} {x0 x1 x2 s} (h : Keeps a s) : Keeps a (doQuadrantGate x0 x1 x2 s) := by
  delta doQuadrantGate
  extract_lets -merge +onlyGivenNames l0_0
  have h0_0 : Keeps a l0_0 := by
    subst l0_0
    refine advance_keeps ?_
    assumption
  clear_value l0_0
  refine Keeps.ite (fun _ => ?_) (fun _ => ?_)
  · refine settle_keeps ?_
    refine gateQuad_keeps ?_
    assumption
  assumption

theorem doQuadrantUngate_keeps {a : State} {x0 x1 x2 s} (h : Keeps a s) : Keeps a (doQuadrantUngate x0 x1 x2 s) := by
  delta doQuadrantUngate
  extract_lets -merge +onlyGivenNames l0_0
  have h0_0 : Keeps a l0_0 := by
    subst l0_0
    refine advance_keeps ?_
    assumption
  clear_value l0_0
  refine Keeps.ite (fun _ => ?_) (fun _ => ?_)
  · refine settle_keeps ?_
    refine ungateQuad_keeps ?_
    assumption
  assumption

theorem modeEvent_keeps {a : State} {x0 x1 x2 s} (h : Keeps a s) : Keeps a (modeEvent x0 x1 x2 s) := by
  delta modeEvent
  refine event_keeps ?_
  assumption

theorem parkCores_keeps {a : State} {s} (h : Keeps a s) : Keeps a (parkCores s) := by
  delta parkCores
  extract_lets -merge +onlyGivenNames l0_0
  have h0_0 : Keeps a l0_0 := by
    subst l0_0
    split
    · refine Keeps.ite (fun _ => ?_) (fun _ => ?_)
      · assumption
      split
      · refine modDie_keeps ?_
        assumption
      · assumption
    · assumption
  clear_value l0_0
  refine Keeps.foldl ?_ fun _ _ _ => ?_
  · assumption
  extract_lets -merge +onlyGivenNames l14_0 l14_1 l14_2 l14_3
  clear_value l14_0
  clear_value l14_1
  clear_value l14_2
  clear_value l14_3
  split
  · refine Keeps.ite (fun _ => ?_) (fun _ => ?_)
    · refine modCtx_keeps ?_
      refine heelNow_keeps ?_
      assumption
    assumption
  · assumption

theorem doModeRequest_keeps {a : State} {x0 x1 x2 s} (h : Keeps a s) : Keeps a (doModeRequest x0 x1 x2 s) := by
  delta doModeRequest
  extract_lets -merge +onlyGivenNames l0_0 l0_1 l0_2 l0_3 l0_4
  have h0_0 : Keeps a l0_0 := by
    subst l0_0
    refine advance_keeps ?_
    assumption
  clear_value l0_0
  clear_value l0_1
  have h0_2 : Keeps a l0_2 := by
    subst l0_2
    refine fldSet_keeps ?_
    assumption
  clear_value l0_2
  clear_value l0_3
  have h0_4 : Keeps a l0_4 := by
    subst l0_4
    refine Keeps.upd ?_ rfl
    assumption
  clear_value l0_4
  refine Keeps.ite (fun _ => ?_) (fun _ => ?_)
  · assumption
  refine Keeps.ite (fun _ => ?_) (fun _ => ?_)
  · refine Keeps.ite (fun _ => ?_) (fun _ => ?_)
    · assumption
    refine lockedWrite_keeps ?_
    assumption
  refine Keeps.ite (fun _ => ?_) (fun _ => ?_)
  · assumption
  refine Keeps.ite (fun _ => ?_) (fun _ => ?_)
  · refine settle_keeps ?_
    refine Keeps.ite (fun _ => ?_) (fun _ => ?_)
    · refine parkCores_keeps ?_
      assumption
    assumption
  refine modeEvent_keeps ?_
  refine pwrErr_keeps ?_
  assumption

theorem meshOff_keeps {a : State} {x0 s} (h : Keeps a s) : Keeps a (meshOff x0 s) := by
  delta meshOff
  extract_lets -merge +onlyGivenNames l0_0 l0_1 l0_2 l0_3
  have h0_0 : Keeps a l0_0 := by
    subst l0_0
    refine Keeps.foldl ?_ fun _ _ _ => ?_
    · assumption
    refine quadOff_keeps ?_
    assumption
  clear_value l0_0
  have h0_1 : Keeps a l0_1 := by
    subst l0_1
    refine Keeps.foldl ?_ fun _ _ _ => ?_
    · assumption
    extract_lets -merge +onlyGivenNames l12_0
    have h12_0 : Keeps a l12_0 := by
      subst l12_0
      refine modLink_keeps ?_
      assumption
    clear_value l12_0
    refine answerRetrains_keeps ?_
    refine modSide_keeps ?_
    assumption
  clear_value l0_1
  have h0_2 : Keeps a l0_2 := by
    subst l0_2
    refine clearScan_keeps ?_
    refine modDie_keeps ?_
    assumption
  clear_value l0_2
  clear_value l0_3
  refine Keeps.upd ?_ rfl
  assumption

theorem meshUp_keeps {a : State} {x0 s} (h : Keeps a s) : Keeps a (meshUp x0 s) := by
  delta meshUp
  refine Keeps.ite (fun _ => ?_) (fun _ => ?_)
  · assumption
  extract_lets -merge +onlyGivenNames l2_0 l2_1
  clear_value l2_0
  have h2_1 : Keeps a l2_1 := by
    subst l2_1
    refine Keeps.upd ?_ rfl
    assumption
  clear_value l2_1
  refine Keeps.ite (fun _ => ?_) (fun _ => ?_)
  · refine modDie_keeps ?_
    assumption
  assumption

theorem fewDies_keeps {a : State} {x0 s} (h : Keeps a s) : Keeps a (fewDies x0 s) := by
  delta fewDies
  extract_lets -merge +onlyGivenNames l0_0 l0_1 l0_2
  have h0_0 : Keeps a l0_0 := by
    subst l0_0
    refine Keeps.foldl ?_ fun _ _ _ => ?_
    · assumption
    refine gateQuad_keeps ?_
    assumption
  clear_value l0_0
  have h0_1 : Keeps a l0_1 := by
    subst l0_1
    refine Keeps.ite (fun _ => ?_) (fun _ => ?_)
    · refine ungateQuad_keeps ?_
      assumption
    refine gateQuad_keeps ?_
    assumption
  clear_value l0_1
  have h0_2 : Keeps a l0_2 := by
    subst l0_2
    refine Keeps.foldl ?_ fun _ _ _ => ?_
    · assumption
    refine gateQuad_keeps ?_
    assumption
  clear_value l0_2
  refine withRoutes_keeps ?_ ?_
  · assumption
  intro _ _
  refine meshOff_keeps ?_
  refine meshOff_keeps ?_
  assumption

theorem saveLife_keeps {a : State} {x0 s} (h : Keeps a s) : Keeps a (saveLife x0 s) := by
  delta saveLife
  refine Keeps.ite (fun _ => ?_) (fun _ => ?_)
  · refine send_keeps ?_
    refine Keeps.upd ?_ rfl
    assumption
  refine event_keeps ?_
  refine pwrErr_keeps ?_
  assumption

theorem intoStandby_keeps {a : State} {x0 s} (h : Keeps a s) : Keeps a (intoStandby x0 s) := by
  delta intoStandby
  extract_lets -merge +onlyGivenNames l0_0 l0_1 l0_2 l0_3 l0_4
  have h0_0 : Keeps a l0_0 := by
    subst l0_0
    refine saveLife_keeps ?_
    refine drcStandby_keeps ?_
    refine drcStandby_keeps ?_
    assumption
  clear_value l0_0
  have h0_1 : Keeps a l0_1 := by
    subst l0_1
    refine Keeps.upd ?_ rfl
    assumption
  clear_value l0_1
  have h0_2 : Keeps a l0_2 := by
    subst l0_2
    refine Keeps.foldl ?_ fun _ _ _ => ?_
    · assumption
    refine linksOff_keeps ?_
    refine pcieOff_keeps ?_
    assumption
  clear_value l0_2
  have h0_3 : Keeps a l0_3 := by
    subst l0_3
    refine Keeps.foldl ?_ fun _ _ _ => ?_
    · assumption
    refine meshOff_keeps ?_
    assumption
  clear_value l0_3
  clear_value l0_4
  refine Keeps.upd ?_ rfl
  assumption

theorem changeMode_keeps {a : State} {x0 x1 s} (h : Keeps a s) : Keeps a (changeMode x0 x1 s) := by
  delta changeMode
  extract_lets -merge +onlyGivenNames l0_0 l0_1 l0_2
  clear_value l0_0
  have h0_1 : Keeps a l0_1 := by
    subst l0_1
    split
    · refine Keeps.foldl ?_ fun _ _ _ => ?_
      · assumption
      refine meshUp_keeps ?_
      assumption
    · refine fewDies_keeps ?_
      assumption
    · refine fewDies_keeps ?_
      assumption
    · refine intoStandby_keeps ?_
      assumption
  clear_value l0_1
  clear_value l0_2
  refine settle_keeps ?_
  refine dvfs_keeps ?_
  refine modeEvent_keeps ?_
  refine Keeps.upd ?_ rfl
  assumption

theorem doModeChangeDone_keeps {a : State} {x0 x1 s} (h : Keeps a s) : Keeps a (doModeChangeDone x0 x1 s) := by
  delta doModeChangeDone
  extract_lets -merge +onlyGivenNames l0_0
  have h0_0 : Keeps a l0_0 := by
    subst l0_0
    refine advance_keeps ?_
    assumption
  clear_value l0_0
  split
  · assumption
  · refine Keeps.ite (fun _ => ?_) (fun _ => ?_)
    · assumption
    refine Keeps.ite (fun _ => ?_) (fun _ => ?_)
    · refine settle_keeps ?_
      refine parkCores_keeps ?_
      assumption
    refine changeMode_keeps ?_
    assumption

theorem leaveStandby_keeps {a : State} {s} (h : Keeps a s) : Keeps a (leaveStandby s) := by
  delta leaveStandby
  extract_lets -merge +onlyGivenNames l0_0 l0_1 l0_2 l0_3 l0_4 l0_5
  have h0_0 : Keeps a l0_0 := by
    subst l0_0
    refine Keeps.upd ?_ rfl
    assumption
  clear_value l0_0
  have h0_1 : Keeps a l0_1 := by
    subst l0_1
    refine powerHub_keeps ?_
    refine powerHub_keeps ?_
    assumption
  clear_value l0_1
  have h0_2 : Keeps a l0_2 := by
    subst l0_2
    refine Keeps.foldl ?_ fun _ _ _ => ?_
    · assumption
    refine modScion_keeps ?_
    assumption
  clear_value l0_2
  have h0_3 : Keeps a l0_3 := by
    subst l0_3
    refine meshUp_keeps ?_
    refine meshUp_keeps ?_
    assumption
  clear_value l0_3
  clear_value l0_4
  have h0_5 : Keeps a l0_5 := by
    subst l0_5
    refine modeEvent_keeps ?_
    refine Keeps.upd ?_ rfl
    assumption
  clear_value l0_5
  refine withRoutes_keeps ?_ ?_
  · assumption
  intro _ _
  refine wakeLink_keeps ?_
  refine wakeLink_keeps ?_
  assumption

theorem perstReleased_keeps {a : State} {x0 s} (h : Keeps a s) : Keeps a (perstReleased x0 s) := by
  delta perstReleased
  extract_lets -merge +onlyGivenNames l0_0
  have h0_0 : Keeps a l0_0 := by
    subst l0_0
    refine setPerst_keeps ?_
    assumption
  clear_value l0_0
  refine Keeps.ite (fun _ => ?_) (fun _ => ?_)
  · refine leaveStandby_keeps ?_
    assumption
  assumption

theorem doStandbyExit_keeps {a : State} {x0 x1 s} (h : Keeps a s) : Keeps a (doStandbyExit x0 x1 s) := by
  delta doStandbyExit
  extract_lets -merge +onlyGivenNames l0_0
  have h0_0 : Keeps a l0_0 := by
    subst l0_0
    refine advance_keeps ?_
    assumption
  clear_value l0_0
  refine Keeps.ite (fun _ => ?_) (fun _ => ?_)
  · refine perstReleased_keeps ?_
    assumption
  assumption

theorem setThermal_keeps {a : State} {x0 x1 s} (h : Keeps a s) : Keeps a (setThermal x0 x1 s) := by
  delta setThermal
  refine Keeps.ite (fun _ => ?_) (fun _ => ?_)
  · assumption
  refine event_keeps ?_
  refine modPD_keeps ?_
  assumption

theorem fenceAndGate_keeps {a : State} {x0 x1 s} (h : Keeps a s) : Keeps a (fenceAndGate x0 x1 s) := by
  delta fenceAndGate
  extract_lets -merge +onlyGivenNames l0_0 l0_1 l0_2
  have h0_0 : Keeps a l0_0 := by
    subst l0_0
    refine Keeps.ite (fun _ => ?_) (fun _ => ?_)
    · refine loseDie_keeps ?_
      assumption
    assumption
  clear_value l0_0
  have h0_1 : Keeps a l0_1 := by
    subst l0_1
    refine Keeps.foldl ?_ fun _ _ _ => ?_
    · assumption
    refine quadOff_keeps ?_
    assumption
  clear_value l0_1
  clear_value l0_2
  refine Keeps.ite (fun _ => ?_) (fun _ => ?_)
  · refine Keeps.upd ?_ rfl
    assumption
  assumption

theorem thermalStep_keeps {a : State} {x0 s} (h : Keeps a s) : Keeps a (thermalStep x0 s) := by
  delta thermalStep
  split
  · extract_lets -merge +onlyGivenNames l1_0 l1_1 l1_2 l1_3 l1_4 l1_5 l1_6 l1_7 l1_8 l1_9 l1_10 l1_11 l1_12 l1_13 l1_14 l1_15
    clear_value l1_0
    clear_value l1_1
    clear_value l1_2
    clear_value l1_3
    have h1_4 : Keeps a l1_4 := by
      subst l1_4
      refine Keeps.ite (fun _ => ?_) (fun _ => ?_)
      · refine event_keeps ?_
        assumption
      assumption
    clear_value l1_4
    clear_value l1_5
    clear_value l1_6
    have h1_7 : Keeps a l1_7 := by
      subst l1_7
      refine Keeps.foldl ?_ fun _ _ _ => ?_
      · assumption
      refine fenceAndGate_keeps ?_
      assumption
    clear_value l1_7
    have h1_8 : Keeps a l1_8 := by
      subst l1_8
      refine Keeps.ite (fun _ => ?_) (fun _ => ?_)
      · refine event_keeps ?_
        refine pwrErr_keeps ?_
        assumption
      assumption
    clear_value l1_8
    have h1_9 : Keeps a l1_9 := by
      subst l1_9
      refine Keeps.ite (fun _ => ?_) (fun _ => ?_)
      · refine Keeps.foldl ?_ fun _ _ _ => ?_
        · assumption
        refine setThermal_keeps ?_
        assumption
      assumption
    clear_value l1_9
    clear_value l1_10
    clear_value l1_11
    have h1_12 : Keeps a l1_12 := by
      subst l1_12
      refine Keeps.ite (fun _ => ?_) (fun _ => ?_)
      · refine Keeps.foldl ?_ fun _ _ _ => ?_
        · assumption
        refine setThermal_keeps ?_
        assumption
      assumption
    clear_value l1_12
    clear_value l1_13
    clear_value l1_14
    have h1_15 : Keeps a l1_15 := by
      subst l1_15
      refine Keeps.ite (fun _ => ?_) (fun _ => ?_)
      · refine Keeps.foldl ?_ fun _ _ _ => ?_
        · assumption
        refine setThermal_keeps ?_
        assumption
      assumption
    clear_value l1_15
    refine modHot_keeps ?_
    assumption

theorem countCycle_keeps {a : State} {s} (h : Keeps a s) : Keeps a (countCycle s) := by
  delta countCycle
  extract_lets -merge +onlyGivenNames l0_0 l0_1 l0_2 l0_3 l0_4 l0_5
  clear_value l0_0
  clear_value l0_1
  clear_value l0_2
  clear_value l0_3
  clear_value l0_4
  clear_value l0_5
  split
  · refine Keeps.upd ?_ rfl
    assumption
  · refine Keeps.ite (fun _ => ?_) (fun _ => ?_)
    · refine Keeps.upd ?_ rfl
      assumption
    refine Keeps.ite (fun _ => ?_) (fun _ => ?_)
    · refine Keeps.upd ?_ rfl
      assumption
    refine Keeps.ite (fun _ => ?_) (fun _ => ?_)
    · refine Keeps.upd ?_ rfl
      assumption
    refine Keeps.upd ?_ rfl
    assumption

theorem doThermalSample_keeps {a : State} {x0 x1 x2 x3 s} (h : Keeps a s) : Keeps a (doThermalSample x0 x1 x2 x3 s) := by
  delta doThermalSample
  extract_lets -merge +onlyGivenNames l0_0 l0_1 l0_2 l0_3
  have h0_0 : Keeps a l0_0 := by
    subst l0_0
    refine advance_keeps ?_
    assumption
  clear_value l0_0
  clear_value l0_1
  clear_value l0_2
  have h0_3 : Keeps a l0_3 := by
    subst l0_3
    refine Keeps.upd ?_ rfl
    assumption
  clear_value l0_3
  refine Keeps.ite (fun _ => ?_) (fun _ => ?_)
  · assumption
  refine settle_keeps ?_
  refine dvfs_keeps ?_
  refine thermalStep_keeps ?_
  refine countCycle_keeps ?_
  assumption

theorem doCoolantCheck_keeps {a : State} {x0 x1 x2 x3 x4 x5 x6 s} (h : Keeps a s) : Keeps a (doCoolantCheck x0 x1 x2 x3 x4 x5 x6 s) := by
  delta doCoolantCheck
  extract_lets -merge +onlyGivenNames l0_0 l0_1 l0_2 l0_3 l0_4 l0_5 l0_6 l0_7 l0_8 l0_9
  have h0_0 : Keeps a l0_0 := by
    subst l0_0
    refine advance_keeps ?_
    assumption
  clear_value l0_0
  clear_value l0_1
  clear_value l0_2
  clear_value l0_3
  clear_value l0_4
  have h0_5 : Keeps a l0_5 := by
    subst l0_5
    refine Keeps.upd ?_ rfl
    assumption
  clear_value l0_5
  clear_value l0_6
  clear_value l0_7
  clear_value l0_8
  have h0_9 : Keeps a l0_9 := by
    subst l0_9
    refine event_keeps ?_
    refine Keeps.upd ?_ rfl
    assumption
  clear_value l0_9
  refine Keeps.ite (fun _ => ?_) (fun _ => ?_)
  · assumption
  refine Keeps.ite (fun _ => ?_) (fun _ => ?_)
  · assumption
  refine dvfs_keeps ?_
  assumption

theorem railOff_keeps {a : State} {x0 s} (h : Keeps a s) : Keeps a (railOff x0 s) := by
  delta railOff
  refine withRoutes_keeps ?_ ?_
  · assumption
  intro _ _
  refine modDie_keeps ?_
  refine meshOff_keeps ?_
  assumption

theorem doRailFault_keeps {a : State} {x0 x1 x2 s} (h : Keeps a s) : Keeps a (doRailFault x0 x1 x2 s) := by
  delta doRailFault
  extract_lets -merge +onlyGivenNames l0_0 l0_1 l0_2 l0_3
  have h0_0 : Keeps a l0_0 := by
    subst l0_0
    refine advance_keeps ?_
    assumption
  clear_value l0_0
  clear_value l0_1
  clear_value l0_2
  have h0_3 : Keeps a l0_3 := by
    subst l0_3
    refine event_keeps ?_
    refine Keeps.ite (fun _ => ?_) (fun _ => ?_)
    · refine pwrErr_keeps ?_
      assumption
    assumption
  clear_value l0_3
  refine Keeps.ite (fun _ => ?_) (fun _ => ?_)
  · assumption
  refine Keeps.ite (fun _ => ?_) (fun _ => ?_)
  · refine Keeps.ite (fun _ => ?_) (fun _ => ?_)
    · refine railOff_keeps ?_
      assumption
    refine settle_keeps ?_
    refine fenceAndGate_keeps ?_
    assumption
  refine Keeps.ite (fun _ => ?_) (fun _ => ?_)
  · refine Keeps.ite (fun _ => ?_) (fun _ => ?_)
    · refine hubReset_keeps ?_
      assumption
    assumption
  assumption

theorem doAgeingMeasure_keeps {a : State} {x0 x1 x2 s} (h : Keeps a s) : Keeps a (doAgeingMeasure x0 x1 x2 s) := by
  delta doAgeingMeasure
  extract_lets -merge +onlyGivenNames l0_0 l0_1 l0_2 l0_3 l0_4 l0_5 l0_6 l0_7 l0_8 l0_9
  have h0_0 : Keeps a l0_0 := by
    subst l0_0
    refine advance_keeps ?_
    assumption
  clear_value l0_0
  clear_value l0_1
  clear_value l0_2
  clear_value l0_3
  clear_value l0_4
  clear_value l0_5
  clear_value l0_6
  clear_value l0_7
  have h0_8 : Keeps a l0_8 := by
    subst l0_8
    refine Keeps.upd ?_ rfl
    assumption
  clear_value l0_8
  have h0_9 : Keeps a l0_9 := by
    subst l0_9
    refine Keeps.foldl ?_ fun _ _ _ => ?_
    · assumption
    refine event_keeps ?_
    assumption
  clear_value l0_9
  refine Keeps.ite (fun _ => ?_) (fun _ => ?_)
  · assumption
  refine Keeps.ite (fun _ => ?_) (fun _ => ?_)
  · refine dvfs_keeps ?_
    refine modPD_keeps ?_
    assumption
  assumption

theorem countHours_keeps {a : State} {x0 s} (h : Keeps a s) : Keeps a (countHours x0 s) := by
  delta countHours
  extract_lets -merge +onlyGivenNames l0_0 l0_1 l0_2 l0_3
  clear_value l0_0
  clear_value l0_1
  clear_value l0_2
  clear_value l0_3
  refine Keeps.upd ?_ rfl
  assumption

theorem doLifetimeSave_keeps {a : State} {x0 x1 s} (h : Keeps a s) : Keeps a (doLifetimeSave x0 x1 s) := by
  delta doLifetimeSave
  extract_lets -merge +onlyGivenNames l0_0 l0_1 l0_2 l0_3
  have h0_0 : Keeps a l0_0 := by
    subst l0_0
    refine advance_keeps ?_
    assumption
  clear_value l0_0
  clear_value l0_1
  clear_value l0_2
  have h0_3 : Keeps a l0_3 := by
    subst l0_3
    refine countHours_keeps ?_
    refine Keeps.upd ?_ rfl
    assumption
  clear_value l0_3
  refine Keeps.ite (fun _ => ?_) (fun _ => ?_)
  · assumption
  refine saveLife_keeps ?_
  assumption

/-- PORST keeps all but time: that starts again at 0 (R490). -/
theorem porst_keeps {s : State} :
    (porst s).pending = s.pending ∧ (porst s).fuse = s.fuse ∧ (porst s).frees = s.frees ∧ (porst s).outbox = s.outbox ∧
      (Safe s → Safe (porst s)) := by
  refine ⟨rfl, rfl, rfl, rfl, fun h => ⟨h.mem, ⟨rfl, fun q => ?_⟩, fun p q i j g h hg => ?_⟩⟩
  · rfl
  · simp [granAt, getPart, porst, State.reset, tabGet, dPart] at hg

theorem doPorst_keeps {t : Nat} {s : State} :
    (doPorst t s).pending = s.pending ∧ (doPorst t s).fuse = s.fuse ∧ (doPorst t s).frees = s.frees ∧
      (doPorst t s).outbox = s.outbox ∧ (Safe s → Safe (doPorst t s)) := by
  refine ⟨rfl, rfl, rfl, rfl, fun h => ?_⟩
  unfold doPorst
  exact porst_keeps.2.2.2.2 ((advance_keeps (Keeps.refl s)).safe h)

end Sys2Proof.Machine
end

