-- ==== Sys2Proof/Laws/KeepsKeys.lean ====
section
/-!
SUPPORT. Laws/KeepsKeys.lean: the operations of Machine/Keys.lean keep what `Keeps` says (Laws/Keeps.lean).
-/
namespace Sys2Proof.Machine

theorem secErr_keeps {a : State} {x0 x1 s} (h : Keeps a s) : Keeps a (secErr x0 x1 s) := by
  delta secErr
  extract_lets -merge +onlyGivenNames l0_0
  have h0_0 : Keeps a l0_0 := by
    subst l0_0
    refine Keeps.ite (fun _ => ?_) (fun _ => ?_)
    · refine fldSet_keeps ?_
      assumption
    assumption
  clear_value l0_0
  refine fldSet_keeps ?_
  assumption

theorem importRefused_keeps {a : State} {x0 x1 x2 s} (h : Keeps a s) : Keeps a (importRefused x0 x1 x2 s) := by
  delta importRefused
  extract_lets -merge +onlyGivenNames l0_0 l0_1 l0_2
  clear_value l0_0
  have h0_1 : Keeps a l0_1 := by
    subst l0_1
    refine modPart_keeps ?_ fun _ => rfl
    assumption
  clear_value l0_1
  have h0_2 : Keeps a l0_2 := by
    subst l0_2
    refine record_keeps ?_
    refine secErr_keeps ?_
    assumption
  clear_value l0_2
  refine finish_keeps ?_
  assumption

theorem importBody_keeps {a : State} {x0 x1 s} (h : Keeps a s) : Keeps a (importBody x0 x1 s) := by
  delta importBody
  extract_lets -merge +onlyGivenNames l0_0 l0_1 l0_2 l0_3
  clear_value l0_0
  clear_value l0_1
  clear_value l0_2
  have h0_3 : Keeps a l0_3 := by
    subst l0_3
    refine modPart_keeps ?_ fun _ => rfl
    assumption
  clear_value l0_3
  split
  · refine importRefused_keeps ?_
    assumption
  · split
    · refine importRefused_keeps ?_
      assumption
    · refine Keeps.ite (fun _ => ?_) (fun _ => ?_)
      · refine modPart_keeps ?_ fun _ => rfl
        assumption
      refine finishOk_keeps ?_
      refine modPart_keeps ?_ fun _ => rfl
      assumption

theorem doKeyImport_keeps {a : State} {x0 x1 x2 s} (h : Keeps a s) : Keeps a (doKeyImport x0 x1 x2 s) := by
  delta doKeyImport
  refine runDesc_keeps ?_ ?_
  · assumption
  intro _ _ _
  refine importBody_keeps ?_
  assumption

theorem processRegion_keeps {a : State} {x0 x1 x2 x3 s} (h : Keeps a s) : Keeps a (processRegion x0 x1 x2 x3 s).2 := by
  delta processRegion
  split
  · rename_i hq
    have hk := Keeps.ofEq (a := a) (by
      refine readPart_keeps ?_
      assumption) hq
    refine Keeps.pair ?_
    assumption
  · rename_i hq
    have hk := Keeps.ofEq (a := a) (by
      refine readPart_keeps ?_
      assumption) hq
    extract_lets -merge +onlyGivenNames l11_0 l11_1 l11_2
    clear_value l11_0
    clear_value l11_1
    clear_value l11_2
    split
    · rename_i hq
      have hk := Keeps.ofEq (a := a) (by
        refine writePart_keeps ?_
        assumption) hq
      refine Keeps.pair ?_
      assumption
    · rename_i hq
      have hk := Keeps.ofEq (a := a) (by
        refine writePart_keeps ?_
        assumption) hq
      refine Keeps.pair ?_
      assumption

theorem processRegions_keeps {a : State} {x0 x1 x2 x3 s} (h : Keeps a s) : Keeps a (processRegions x0 x1 x2 x3 s).2.2 := by
  induction x2 generalizing x0 x1 x3 s with
  | nil =>
    rw [processRegions.eq_1]
    show Keeps a (Prod.snd _)
    refine Keeps.pair ?_
    assumption
  | cons hd tl ih =>
    rw [processRegions.eq_2]
    refine Keeps.ite3 (fun _ => ?_) (fun _ => ?_)
    · refine ih ?_
      assumption
    extract_lets -merge +onlyGivenNames l3_0
    clear_value l3_0
    split
    · rename_i hq
      have hk := Keeps.ofEq (a := a) (by
        refine processRegion_keeps ?_
        assumption) hq
      refine ih ?_
      assumption
    · rename_i hq
      have hk := Keeps.ofEq (a := a) (by
        refine processRegion_keeps ?_
        assumption) hq
      show Keeps a (Prod.snd _)
      refine Keeps.pair ?_
      assumption

theorem installPolicy_keeps {a : State} {x0 x1 s} (h : Keeps a s) : Keeps a (installPolicy x0 x1 s) := by
  delta installPolicy
  extract_lets -merge +onlyGivenNames l0_0 l0_1 l0_2 l0_3
  clear_value l0_0
  clear_value l0_1
  have h0_2 : Keeps a l0_2 := by
    subst l0_2
    refine modPart_keeps ?_ fun _ => rfl
    assumption
  clear_value l0_2
  clear_value l0_3
  split
  · refine importRefused_keeps ?_
    assumption
  · split
    · rename_i hq
      have hk := Keeps.ofEq2 (a := a) (by
        refine processRegions_keeps ?_
        assumption) hq
      refine importRefused_keeps ?_
      assumption
    · rename_i hq
      have hk := Keeps.ofEq2 (a := a) (by
        refine processRegions_keeps ?_
        assumption) hq
      refine descMemErr_keeps ?_
      refine modPart_keeps ?_ fun _ => rfl
      assumption
    · rename_i hq
      have hk := Keeps.ofEq2 (a := a) (by
        refine processRegions_keeps ?_
        assumption) hq
      extract_lets -merge +onlyGivenNames l30_0
      have h30_0 : Keeps a l30_0 := by
        subst l30_0
        refine modPart_keeps ?_ fun _ => rfl
        assumption
      clear_value l30_0
      refine finishOk_keeps ?_
      assumption

theorem doPolicyInstall_keeps {a : State} {x0 x1 s} (h : Keeps a s) : Keeps a (doPolicyInstall x0 x1 s) := by
  delta doPolicyInstall
  extract_lets -merge +onlyGivenNames l0_0
  have h0_0 : Keeps a l0_0 := by
    subst l0_0
    refine advance_keeps ?_
    assumption
  clear_value l0_0
  split
  · assumption
  · split
    · refine Keeps.ite (fun _ => ?_) (fun _ => ?_)
      · refine settle_keeps ?_
        refine installPolicy_keeps ?_
        assumption
      assumption
    · assumption

theorem attestBody_keeps {a : State} {x0 s} (h : Keeps a s) : Keeps a (attestBody x0 s) := by
  delta attestBody
  extract_lets -merge +onlyGivenNames l0_0 l0_1 l0_2
  clear_value l0_0
  clear_value l0_1
  have h0_2 : Keeps a l0_2 := by
    subst l0_2
    refine Keeps.ite (fun _ => ?_) (fun _ => ?_)
    · refine hostWrite_keeps ?_
      assumption
    assumption
  clear_value l0_2
  refine finishOk_keeps ?_
  assumption

theorem doAttest_keeps {a : State} {x0 x1 s} (h : Keeps a s) : Keeps a (doAttest x0 x1 s) := by
  delta doAttest
  refine runDesc_keeps ?_ ?_
  · assumption
  intro _ _ _
  refine attestBody_keeps ?_
  assumption

end Sys2Proof.Machine
end

