-- ==== Sys2Proof/Laws/KeepsRegWrite.lean ====
section
/-!
SUPPORT. Laws/KeepsRegWrite.lean: the operations of Machine/RegWrite.lean keep what `Keeps` says (Laws/Keeps.lean).
-/
namespace Sys2Proof.Machine

theorem answerRead_keeps {a : State} {x0 x1 x2 s} (h : Keeps a s) : Keeps a (answerRead x0 x1 x2 s) := by
  delta answerRead
  split
  · refine send_keeps ?_
    assumption
  · assumption

theorem noteAccess_keeps {a : State} {x0 x1 x2 s} (h : Keeps a s) : Keeps a (noteAccess x0 x1 x2 s) := by
  delta noteAccess
  extract_lets -merge +onlyGivenNames l0_0 l0_1 l0_2 l0_3 l0_4
  clear_value l0_0
  clear_value l0_1
  clear_value l0_2
  subst l0_3
  try dsimp -zeta -zetaHave -zetaUnused -iota -proj only
  have h0_4 : Keeps a l0_4 := by
    subst l0_4
    refine modHub_keeps ?_
    assumption
  clear_value l0_4
  split
  · split
    · rename_i hq
      have hk := Keeps.ofEq (a := a) (by
        refine takeFree_keeps ?_
        assumption) hq
      refine event_keeps ?_
      assumption
  · refine event_keeps ?_
    assumption

theorem notAnswered_keeps {a : State} {x0 x1 x2 x3 s} (h : Keeps a s) : Keeps a (notAnswered x0 x1 x2 x3 s) := by
  delta notAnswered
  extract_lets -merge +onlyGivenNames l0_0 l0_1
  clear_value l0_0
  have h0_1 : Keeps a l0_1 := by
    subst l0_1
    refine noteAccess_keeps ?_
    assumption
  clear_value l0_1
  refine Keeps.ite (fun _ => ?_) (fun _ => ?_)
  · assumption
  refine answerRead_keeps ?_
  assumption

theorem doMisalignedAccess_keeps {a : State} {x0 x1 x2 x3 x4 s} (h : Keeps a s) : Keeps a (doMisalignedAccess x0 x1 x2 x3 x4 s) := by
  delta doMisalignedAccess
  extract_lets -merge +onlyGivenNames l0_0 l0_1
  have h0_0 : Keeps a l0_0 := by
    subst l0_0
    refine advance_keeps ?_
    assumption
  clear_value l0_0
  have h0_1 : Keeps a l0_1 := by
    subst l0_1
    refine noteAccess_keeps ?_
    assumption
  clear_value l0_1
  refine Keeps.ite (fun _ => ?_) (fun _ => ?_)
  · assumption
  split
  · refine Keeps.ite (fun _ => ?_) (fun _ => ?_)
    · assumption
    refine send_keeps ?_
    assumption
  · assumption

theorem doUnreachableAccess_keeps {a : State} {x0 x1 x2 x3 x4 s} (h : Keeps a s) : Keeps a (doUnreachableAccess x0 x1 x2 x3 x4 s) := by
  delta doUnreachableAccess
  extract_lets -merge +onlyGivenNames l0_0
  have h0_0 : Keeps a l0_0 := by
    subst l0_0
    refine advance_keeps ?_
    assumption
  clear_value l0_0
  split
  · refine notAnswered_keeps ?_
    assumption
  · refine notAnswered_keeps ?_
    assumption
  · refine Keeps.ite (fun _ => ?_) (fun _ => ?_)
    · refine notAnswered_keeps ?_
      assumption
    assumption

theorem loadPresets_keeps {a : State} {x0 x1 s} (h : Keeps a s) : Keeps a (loadPresets x0 x1 s) := by
  delta loadPresets
  extract_lets -merge +onlyGivenNames l0_0 l0_1 l0_2
  clear_value l0_0
  clear_value l0_1
  clear_value l0_2
  split
  · rename_i hq
    have hk := Keeps.ofEq (a := a) (by
      refine Keeps.ite2 (fun _ => ?_) (fun _ => ?_)
      · refine takeFree_keeps ?_
        assumption
      refine Keeps.pair ?_
      assumption) hq
    extract_lets -merge +onlyGivenNames l12_0 l12_1
    clear_value l12_0
    have h12_1 : Keeps a l12_1 := by
      subst l12_1
      refine regSet_keeps ?_
      assumption
    clear_value l12_1
    refine Keeps.upd ?_ rfl
    assumption

theorem loadCopies_keeps {a : State} {x0 s} (h : Keeps a s) : Keeps a (loadCopies x0 s) := by
  delta loadCopies
  extract_lets -merge +onlyGivenNames l0_0
  clear_value l0_0
  split
  · refine modDrc_keeps ?_
    assumption
  · refine Keeps.upd ?_ rfl
    assumption
  · assumption

theorem raiseExpert_keeps {a : State} {x0 s} (h : Keeps a s) : Keeps a (raiseExpert x0 s) := by
  delta raiseExpert
  refine Keeps.foldl ?_ fun _ _ _ => ?_
  · refine loadCopies_keeps ?_
    assumption
  refine loadPresets_keeps ?_
  assumption

theorem takeEffect_keeps {a : State} {x0 x1 s} (h : Keeps a s) : Keeps a (takeEffect x0 x1 s) := by
  delta takeEffect
  extract_lets -merge +onlyGivenNames l0_0 l0_1
  clear_value l0_0
  clear_value l0_1
  refine Keeps.upd ?_ rfl
  assumption

theorem commitNow_keeps {a : State} {x0 x1 s} (h : Keeps a s) : Keeps a (commitNow x0 x1 s) := by
  delta commitNow
  extract_lets -merge +onlyGivenNames l0_0
  clear_value l0_0
  split
  · refine Keeps.ite (fun _ => ?_) (fun _ => ?_)
    · refine commit_keeps ?_
      assumption
    assumption
  · refine Keeps.ite (fun _ => ?_) (fun _ => ?_)
    · refine commit_keeps ?_
      assumption
    assumption
  · refine Keeps.ite (fun _ => ?_) (fun _ => ?_)
    · refine commit_keeps ?_
      assumption
    assumption
  · refine Keeps.ite (fun _ => ?_) (fun _ => ?_)
    · refine commit_keeps ?_
      assumption
    assumption
  · assumption

theorem afterWrite_keeps {a : State} {x0 x1 x2 s} (h : Keeps a s) : Keeps a (afterWrite x0 x1 x2 s) := by
  delta afterWrite
  split
  · refine Keeps.ite (fun _ => ?_) (fun _ => ?_)
    · refine modIng_keeps ?_
      assumption
    assumption
  · refine Keeps.ite (fun _ => ?_) (fun _ => ?_)
    · refine regSet_keeps ?_
      assumption
    assumption
  · assumption

theorem writeReg_keeps {a : State} {x0 x1 x2 s} (h : Keeps a s) : Keeps a (writeReg x0 x1 x2 s) := by
  delta writeReg
  extract_lets -merge +onlyGivenNames l0_0 l0_1 l0_2 l0_3
  clear_value l0_0
  clear_value l0_1
  clear_value l0_2
  clear_value l0_3
  split
  · extract_lets -merge +onlyGivenNames l6_0 l6_1 l6_2
    have h6_0 : Keeps a l6_0 := by
      subst l6_0
      refine takeEffect_keeps ?_
      refine regSet_keeps ?_
      assumption
    clear_value l6_0
    have h6_1 : Keeps a l6_1 := by
      subst l6_1
      refine Keeps.ite (fun _ => ?_) (fun _ => ?_)
      · refine lockedWrite_keeps ?_
        assumption
      assumption
    clear_value l6_1
    have h6_2 : Keeps a l6_2 := by
      subst l6_2
      refine Keeps.ite (fun _ => ?_) (fun _ => ?_)
      · refine raiseExpert_keeps ?_
        assumption
      assumption
    clear_value l6_2
    refine afterWrite_keeps ?_
    refine commitNow_keeps ?_
    assumption

theorem writeAt_keeps {a : State} {x0 x1 x2 x3 s} (h : Keeps a s) : Keeps a (writeAt x0 x1 x2 x3 s) := by
  delta writeAt
  refine Keeps.ite (fun _ => ?_) (fun _ => ?_)
  · assumption
  split
  · refine Keeps.ite (fun _ => ?_) (fun _ => ?_)
    · refine modHub_keeps ?_
      assumption
    assumption
  · refine Keeps.ite (fun _ => ?_) (fun _ => ?_)
    · refine modDrc_keeps ?_
      assumption
    refine writeReg_keeps ?_
    assumption
  · refine Keeps.ite (fun _ => ?_) (fun _ => ?_)
    · refine writeReg_keeps ?_
      assumption
    refine Keeps.ite (fun _ => ?_) (fun _ => ?_)
    · assumption
    refine Keeps.ite (fun _ => ?_) (fun _ => ?_)
    · refine Keeps.upd ?_ rfl
      assumption
    refine Keeps.ite (fun _ => ?_) (fun _ => ?_)
    · refine Keeps.ite (fun _ => ?_) (fun _ => ?_)
      · assumption
      refine lockedWrite_keeps ?_
      assumption
    refine writeReg_keeps ?_
    assumption
  · refine writeReg_keeps ?_
    assumption

theorem registerWrite_keeps {a : State} {x0 x1 x2 s} (h : Keeps a s) : Keeps a (registerWrite x0 x1 x2 s) := by
  delta registerWrite
  refine Keeps.ite (fun _ => ?_) (fun _ => ?_)
  · assumption
  split
  · assumption
  · split
    · assumption
    · split
      · refine notAnswered_keeps ?_
        assumption
      · refine notAnswered_keeps ?_
        assumption
      · refine Keeps.ite (fun _ => ?_) (fun _ => ?_)
        · refine writeAt_keeps ?_
          assumption
        assumption

theorem doRegisterWrite_keeps {a : State} {x0 x1 x2 x3 s} (h : Keeps a s) : Keeps a (doRegisterWrite x0 x1 x2 x3 s) := by
  delta doRegisterWrite
  refine Keeps.ite (fun _ => ?_) (fun _ => ?_)
  · refine doMisalignedAccess_keeps ?_
    assumption
  refine registerWrite_keeps ?_
  refine advance_keeps ?_
  assumption

theorem doExpertEnable_keeps {a : State} {x0 x1 x2 s} (h : Keeps a s) : Keeps a (doExpertEnable x0 x1 x2 s) := by
  delta doExpertEnable
  split
  · refine advance_keeps ?_
    assumption
  · split
    · refine Keeps.ite (fun _ => ?_) (fun _ => ?_)
      · refine doRegisterWrite_keeps ?_
        assumption
      refine advance_keeps ?_
      assumption
    · refine advance_keeps ?_
      assumption

theorem commitBlk_keeps {a : State} {x0 s} (h : Keeps a s) : Keeps a (commitBlk x0 s) := by
  delta commitBlk
  extract_lets -merge +onlyGivenNames l0_0 l0_1
  subst l0_0
  try dsimp -zeta -zetaHave -zetaUnused -iota -proj only
  have h0_1 : Keeps a l0_1 := by
    subst l0_1
    refine Keeps.foldl ?_ fun _ _ _ => ?_
    · assumption
    refine commit_keeps ?_
    assumption
  clear_value l0_1
  split
  · refine Keeps.foldl ?_ fun _ _ _ => ?_
    · assumption
    refine Keeps.ite (fun _ => ?_) (fun _ => ?_)
    · refine commit_keeps ?_
      assumption
    assumption
  · refine Keeps.foldl ?_ fun _ _ _ => ?_
    · assumption
    refine commit_keeps ?_
    assumption
  · refine Keeps.foldl ?_ fun _ _ _ => ?_
    · assumption
    refine commit_keeps ?_
    assumption
  · refine Keeps.ite (fun _ => ?_) (fun _ => ?_)
    · refine Keeps.foldl ?_ fun _ _ _ => ?_
      · assumption
      refine commit_keeps ?_
      assumption
    assumption
  · refine Keeps.ite (fun _ => ?_) (fun _ => ?_)
    · refine Keeps.foldl ?_ fun _ _ _ => ?_
      · assumption
      refine commit_keeps ?_
      assumption
    assumption
  · refine dvfs_keeps ?_
    refine commitPwr_keeps ?_
    assumption
  · refine Keeps.foldl ?_ fun _ _ _ => ?_
    · assumption
    refine commit_keeps ?_
    assumption
  · refine Keeps.foldl ?_ fun _ _ _ => ?_
    · assumption
    refine commit_keeps ?_
    assumption
  · refine Keeps.foldl ?_ fun _ _ _ => ?_
    · assumption
    refine commit_keeps ?_
    assumption
  · refine Keeps.foldl ?_ fun _ _ _ => ?_
    · assumption
    refine modChan_keeps ?_
    assumption
  · assumption

theorem doShadowCommit_keeps {a : State} {x0 x1 s} (h : Keeps a s) : Keeps a (doShadowCommit x0 x1 s) := by
  delta doShadowCommit
  extract_lets -merge +onlyGivenNames l0_0
  have h0_0 : Keeps a l0_0 := by
    subst l0_0
    refine advance_keeps ?_
    assumption
  clear_value l0_0
  split
  · refine Keeps.ite (fun _ => ?_) (fun _ => ?_)
    · refine commitBlk_keeps ?_
      assumption
    assumption
  · assumption

theorem registerRead_keeps {a : State} {x0 x1 s} (h : Keeps a s) : Keeps a (registerRead x0 x1 s) := by
  delta registerRead
  refine Keeps.ite (fun _ => ?_) (fun _ => ?_)
  · split
    · refine send_keeps ?_
      assumption
    · assumption
  split
  · refine answerRead_keeps ?_
    assumption
  · split
    · refine answerRead_keeps ?_
      assumption
    · split
      · refine notAnswered_keeps ?_
        assumption
      · refine notAnswered_keeps ?_
        assumption
      · extract_lets -merge +onlyGivenNames l16_0 l16_1
        clear_value l16_0
        have h16_1 : Keeps a l16_1 := by
          subst l16_1
          split
          · refine Keeps.ite (fun _ => ?_) (fun _ => ?_)
            · assumption
            refine Keeps.upd ?_ rfl
            assumption
          · assumption
        clear_value l16_1
        refine answerRead_keeps ?_
        assumption

theorem doLatchingLoRead_keeps {a : State} {x0 x1 x2 s} (h : Keeps a s) : Keeps a (doLatchingLoRead x0 x1 x2 s) := by
  delta doLatchingLoRead
  refine Keeps.ite (fun _ => ?_) (fun _ => ?_)
  · refine doMisalignedAccess_keeps ?_
    assumption
  refine registerRead_keeps ?_
  refine advance_keeps ?_
  assumption

theorem doCoreCntClr_keeps {a : State} {x0 x1 x2 s} (h : Keeps a s) : Keeps a (doCoreCntClr x0 x1 x2 s) := by
  delta doCoreCntClr
  extract_lets -merge +onlyGivenNames l0_0
  have h0_0 : Keeps a l0_0 := by
    subst l0_0
    refine advance_keeps ?_
    assumption
  clear_value l0_0
  split
  · assumption
  · split
    · refine Keeps.ite (fun _ => ?_) (fun _ => ?_)
      · refine modCore_keeps ?_
        assumption
      assumption
    · assumption

end Sys2Proof.Machine
end

