-- ==== Sys2Proof/Laws/KeepsCluster.lean ====
section
/-!
SUPPORT. Laws/KeepsCluster.lean: the operations of Machine/Cluster.lean keep what `Keeps` says (Laws/Keeps.lean).
-/
namespace Sys2Proof.Machine

theorem busErr_keeps {a : State} {x0 x1 x2 x3 s} (h : Keeps a s) : Keeps a (busErr x0 x1 x2 x3 s) := by
  delta busErr
  refine send_keeps ?_
  refine event_keeps ?_
  assumption

theorem clusterDram_keeps {a : State} {x0 x1 x2 x3 x4 x5 x6 s} (h : Keeps a s) : Keeps a (clusterDram x0 x1 x2 x3 x4 x5 x6 s) := by
  delta clusterDram
  refine Keeps.ite (fun _ => ?_) (fun _ => ?_)
  · refine busErr_keeps ?_
    assumption
  refine Keeps.ite (fun _ => ?_) (fun _ => ?_)
  · refine busErr_keeps ?_
    assumption
  refine Keeps.ite (fun _ => ?_) (fun _ => ?_)
  · assumption
  refine Keeps.ite (fun _ => ?_) (fun _ => ?_)
  · split
    · rename_i hq
      have hk := Keeps.ofEq (a := a) (by
        refine writeDev_keeps ?_
        assumption) hq
      refine busErr_keeps ?_
      assumption
    · rename_i hq
      have hk := Keeps.ofEq (a := a) (by
        refine writeDev_keeps ?_
        assumption) hq
      assumption
  split
  · rename_i hq
    have hk := Keeps.ofEq (a := a) (by
      refine checkLines_keeps ?_
      assumption) hq
    refine busErr_keeps ?_
    assumption
  · rename_i hq
    have hk := Keeps.ofEq (a := a) (by
      refine checkLines_keeps ?_
      assumption) hq
    refine send_keeps ?_
    assumption

theorem freeBytes_keeps {a : State} {x0 s} (h : Keeps a s) : Keeps a (freeBytes x0 s).2 := by
  induction x0 generalizing s with
  | zero =>
    rw [freeBytes.eq_1]
    refine Keeps.pair ?_
    assumption
  | succ n ih =>
    rw [freeBytes.eq_2]
    split
    · rename_i hq
      have hk := Keeps.ofEq (a := a) (by
        refine takeFree_keeps ?_
        assumption) hq
      split
      · rename_i hq
        have hk := Keeps.ofEq (a := a) (by
          refine ih ?_
          assumption) hq
        refine Keeps.pair ?_
        assumption

theorem doManagementClusterAccess_keeps {a : State} {x0 x1 x2 x3 x4 x5 x6 s} (h : Keeps a s) : Keeps a (doManagementClusterAccess x0 x1 x2 x3 x4 x5 x6 s) := by
  delta doManagementClusterAccess
  extract_lets -merge +onlyGivenNames l0_0 l0_1
  have h0_0 : Keeps a l0_0 := by
    subst l0_0
    refine advance_keeps ?_
    assumption
  clear_value l0_0
  clear_value l0_1
  refine Keeps.ite (fun _ => ?_) (fun _ => ?_)
  · assumption
  refine Keeps.ite (fun _ => ?_) (fun _ => ?_)
  · refine busErr_keeps ?_
    assumption
  split
  · refine busErr_keeps ?_
    assumption
  · refine clusterDram_keeps ?_
    assumption
  · refine Keeps.ite (fun _ => ?_) (fun _ => ?_)
    · assumption
    split
    · rename_i hq
      have hk := Keeps.ofEq (a := a) (by
        refine freeBytes_keeps ?_
        assumption) hq
      refine send_keeps ?_
      assumption
  · refine Keeps.ite (fun _ => ?_) (fun _ => ?_)
    · refine doMisalignedAccess_keeps ?_
      assumption
    refine Keeps.ite (fun _ => ?_) (fun _ => ?_)
    · refine doRegisterWrite_keeps ?_
      assumption
    refine doLatchingLoRead_keeps ?_
    assumption

end Sys2Proof.Machine
end

