-- ==== Sys2Proof/Laws/KeepsDestroy.lean ====
section
/-!
SUPPORT. Laws/KeepsDestroy.lean: the operations of Machine/Destroy.lean keep what `Keeps` says (Laws/Keeps.lean).
-/
namespace Sys2Proof.Machine

theorem endPartDesc_keeps {a : State} {x0 x1 s} (h : Keeps a s) : Keeps a (endPartDesc x0 x1 s) := by
  delta endPartDesc
  split
  · assumption
  · refine finish_keeps ?_
    assumption
  · refine Keeps.ite (fun _ => ?_) (fun _ => ?_)
    · extract_lets -merge +onlyGivenNames l5_0
      have h5_0 : Keeps a l5_0 := by
        subst l5_0
        refine modPart_keeps ?_ fun _ => rfl
        assumption
      clear_value l5_0
      refine finish_keeps ?_
      assumption
    split
    · refine Keeps.ite (fun _ => ?_) (fun _ => ?_)
      · refine installPolicy_keeps ?_
        assumption
      assumption
    · assumption

theorem endContexts_keeps {a : State} {x0 s} (h : Keeps a s) : Keeps a (endContexts x0 s) := by
  delta endContexts
  extract_lets -merge +onlyGivenNames l0_0
  have h0_0 : Keeps a l0_0 := by
    subst l0_0
    refine Keeps.foldl ?_ fun _ _ _ => ?_
    · assumption
    refine destroyForced_keeps ?_
    assumption
  clear_value l0_0
  refine Keeps.foldl ?_ fun _ _ _ => ?_
  · assumption
  refine endPartDesc_keeps ?_
  assumption

theorem endRanges_keeps {a : State} {x0 s} (h : Keeps a s) : Keeps a (endRanges x0 s) := by
  delta endRanges
  refine Keeps.foldl ?_ fun _ _ _ => ?_
  · assumption
  extract_lets -merge +onlyGivenNames l2_0 l2_1
  clear_value l2_0
  have h2_1 : Keeps a l2_1 := by
    subst l2_1
    refine modPtn_keeps ?_
    assumption
  clear_value l2_1
  refine Keeps.foldl ?_ fun _ _ _ => ?_
  · assumption
  refine finish_keeps ?_
  assumption

theorem destroyPart_keeps {a : State} {x0 s} (h : Keeps a s) : Keeps a (destroyPart x0 s) := by
  delta destroyPart
  extract_lets -merge +onlyGivenNames l0_0 l0_1 l0_2 l0_3 l0_4
  have h0_0 : Keeps a l0_0 := by
    subst l0_0
    refine endContexts_keeps ?_
    refine modPart_keeps ?_ fun _ => rfl
    assumption
  clear_value l0_0
  have h0_1 : Keeps a l0_1 := by
    subst l0_1
    refine endRanges_keeps ?_
    refine fusDestroy_keeps ?_
    refine unbindPart_keeps ?_
    refine removeStreams_keeps ?_
    assumption
  clear_value l0_1
  clear_value l0_2
  have h0_3 : Keeps a l0_3 := by
    subst l0_3
    refine Keeps.foldl ?_ fun _ _ _ => ?_
    · assumption
    refine zeroGranule_keeps ?_
    assumption
  clear_value l0_3
  have h0_4 : Keeps a l0_4 := by
    subst l0_4
    refine Keeps.foldl ?_ fun _ _ _ => ?_
    · assumption
    refine modCtx_keeps ?_
    assumption
  clear_value l0_4
  refine changed_keeps ?_
  refine record_keeps ?_
  refine modPart_keeps0 ?_ fun _ => rfl
  assumption

theorem doPartDestroy_keeps {a : State} {x0 x1 s} (h : Keeps a s) : Keeps a (doPartDestroy x0 x1 s) := by
  delta doPartDestroy
  refine runScion_keeps ?_ ?_
  · assumption
  intro _ _ _
  refine finishOk_keeps ?_
  refine destroyPart_keeps ?_
  assumption

end Sys2Proof.Machine
end

