-- ==== Sys2Proof/Laws/KeepsEvr.lean ====
section
/-!
SUPPORT. Laws/KeepsEvr.lean: the operations of Machine/Evr.lean keep what `Keeps` says (Laws/Keeps.lean).
-/
namespace Sys2Proof.Machine

theorem doEvrCursorLoad_keeps {a : State} {x0 x1 x2 x3 s} (h : Keeps a s) : Keeps a (doEvrCursorLoad x0 x1 x2 x3 s) := by
  delta doEvrCursorLoad
  extract_lets -merge +onlyGivenNames l0_0 l0_1 l0_2 l0_3 l0_4 l0_5 l0_6 l0_7 l0_8 l0_9
  have h0_0 : Keeps a l0_0 := by
    subst l0_0
    refine advance_keeps ?_
    assumption
  clear_value l0_0
  clear_value l0_1
  clear_value l0_2
  have h0_3 : Keeps a l0_3 := by
    subst l0_3
    refine Keeps.ite (fun _ => ?_) (fun _ => ?_)
    · refine injUse_keeps ?_
      assumption
    assumption
  clear_value l0_3
  clear_value l0_4
  have h0_5 : Keeps a l0_5 := by
    subst l0_5
    refine Keeps.ite (fun _ => ?_) (fun _ => ?_)
    · refine Keeps.upd ?_ rfl
      assumption
    assumption
  clear_value l0_5
  clear_value l0_6
  clear_value l0_7
  clear_value l0_8
  have h0_9 : Keeps a l0_9 := by
    subst l0_9
    split
    · refine Keeps.upd ?_ rfl
      assumption
    · refine Keeps.upd ?_ rfl
      assumption
  clear_value l0_9
  refine Keeps.ite (fun _ => ?_) (fun _ => ?_)
  · refine Keeps.ite (fun _ => ?_) (fun _ => ?_)
    · refine event_keeps ?_
      refine fldSet_keeps ?_
      assumption
    assumption
  assumption

theorem cleared_keeps {a : State} {x0 x1 s} (h : Keeps a s) : Keeps a (cleared x0 x1 s) := by
  delta cleared
  split
  · split
    · rename_i hq
      have hk := Keeps.ofEq (a := a) (by
        refine takeFree_keeps ?_
        assumption) hq
      refine event_keeps ?_
      assumption
  · refine event_keeps ?_
    assumption

theorem doClearCirculating_keeps {a : State} {x0 x1 s} (h : Keeps a s) : Keeps a (doClearCirculating x0 x1 s) := by
  delta doClearCirculating
  extract_lets -merge +onlyGivenNames l0_0
  have h0_0 : Keeps a l0_0 := by
    subst l0_0
    refine advance_keeps ?_
    assumption
  clear_value l0_0
  refine Keeps.ite (fun _ => ?_) (fun _ => ?_)
  · refine cleared_keeps ?_
    refine Keeps.upd ?_ rfl
    assumption
  assumption

theorem doClearKept_keeps {a : State} {x0 x1 s} (h : Keeps a s) : Keeps a (doClearKept x0 x1 s) := by
  delta doClearKept
  extract_lets -merge +onlyGivenNames l0_0 l0_1
  have h0_0 : Keeps a l0_0 := by
    subst l0_0
    refine advance_keeps ?_
    assumption
  clear_value l0_0
  clear_value l0_1
  refine Keeps.ite (fun _ => ?_) (fun _ => ?_)
  · split
    · refine fldSet_keeps ?_
      assumption
    · refine cleared_keeps ?_
      refine Keeps.upd ?_ rfl
      assumption
  assumption

theorem doVddAonLoss_keeps {a : State} {x0 s} (h : Keeps a s) : Keeps a (doVddAonLoss x0 s) := by
  delta doVddAonLoss
  extract_lets -merge +onlyGivenNames l0_0 l0_1 l0_2
  have h0_0 : Keeps a l0_0 := by
    subst l0_0
    refine advance_keeps ?_
    assumption
  clear_value l0_0
  clear_value l0_1
  clear_value l0_2
  refine Keeps.upd ?_ rfl
  assumption

end Sys2Proof.Machine
end

