-- ==== Sys2Proof/Laws/KeepsQuery.lean ====
section
/-!
SUPPORT. Laws/KeepsQuery.lean: the operations of Machine/Query.lean keep what `Keeps` says (Laws/Keeps.lean).
-/
namespace Sys2Proof.Machine

theorem queryAnswer_keeps {a : State} {x0 s} (h : Keeps a s) : Keeps a (queryAnswer x0 s).2 := by
  delta queryAnswer
  split
  · refine Keeps.pair ?_
    assumption
  · refine Keeps.pair ?_
    assumption
  · refine Keeps.pair ?_
    assumption
  · refine Keeps.pair ?_
    assumption
  · extract_lets -merge +onlyGivenNames l9_0
    clear_value l9_0
    refine Keeps.ite2 (fun _ => ?_) (fun _ => ?_)
    · refine Keeps.pair ?_
      assumption
    split
    · rename_i hq
      have hk := Keeps.ofEq (a := a) (by
        refine takeFree_keeps ?_
        assumption) hq
      refine Keeps.pair ?_
      assumption

theorem queryBody_keeps {a : State} {x0 s} (h : Keeps a s) : Keeps a (queryBody x0 s) := by
  delta queryBody
  extract_lets -merge +onlyGivenNames l0_0
  clear_value l0_0
  split
  · rename_i hq
    have hk := Keeps.ofEq (a := a) (by
      refine queryAnswer_keeps ?_
      assumption) hq
    extract_lets -merge +onlyGivenNames l7_0
    have h7_0 : Keeps a l7_0 := by
      subst l7_0
      refine Keeps.ite (fun _ => ?_) (fun _ => ?_)
      · refine hostWrite_keeps ?_
        assumption
      assumption
    clear_value l7_0
    refine finish_keeps ?_
    assumption

theorem doQuery_keeps {a : State} {x0 x1 s} (h : Keeps a s) : Keeps a (doQuery x0 x1 s) := by
  delta doQuery
  refine runDesc_keeps ?_ ?_
  · assumption
  intro _ _ _
  refine queryBody_keeps ?_
  assumption

end Sys2Proof.Machine
end

