-- ==== Sys2Proof/Laws/KeepsSecurity.lean ====
section
/-!
SUPPORT. Laws/KeepsSecurity.lean: the operations of Machine/Security.lean keep what `Keeps` says (Laws/Keeps.lean).
-/
namespace Sys2Proof.Machine

theorem commitSvn_keeps {a : State} {x0 x1 s} (h : Keeps a s) : Keeps a (commitSvn x0 x1 s) := by
  delta commitSvn
  refine Keeps.ite (fun _ => ?_) (fun _ => ?_)
  · refine Keeps.upd ?_ rfl
    assumption
  assumption

theorem readBundle_keeps {a : State} {x0 x1 x2 s} (h : Keeps a s) : Keeps a (readBundle x0 x1 x2 s).2 := by
  induction x0 generalizing x1 x2 s with
  | zero =>
    rw [readBundle.eq_1]
    refine Keeps.pair ?_
    assumption
  | succ n ih =>
    rw [readBundle.eq_2]
    split
    · refine Keeps.pair ?_
      assumption
    · split
      · rename_i hq
        have hk := Keeps.ofEq (a := a) (by
          refine ih ?_
          refine commitSvn_keeps ?_
          assumption) hq
        refine Keeps.pair ?_
        assumption
      · rename_i hq
        have hk := Keeps.ofEq (a := a) (by
          refine ih ?_
          refine commitSvn_keeps ?_
          assumption) hq
        refine Keeps.pair ?_
        assumption

theorem imageRefused_keeps {a : State} {x0 x1 s} (h : Keeps a s) : Keeps a (imageRefused x0 x1 s) := by
  delta imageRefused
  refine event_keeps ?_
  refine secErr_keeps ?_
  assumption

theorem extend_keeps {a : State} {x0 x1 s} (h : Keeps a s) : Keeps a (extend x0 x1 s) := by
  delta extend
  refine Keeps.upd ?_ rfl
  assumption

theorem bootOn_keeps {a : State} {x0 x1 s} (h : Keeps a s) : Keeps a (bootOn x0 x1 s) := by
  delta bootOn
  extract_lets -merge +onlyGivenNames l0_0 l0_1 l0_2 l0_3 l0_4 l0_5
  clear_value l0_0
  have h0_1 : Keeps a l0_1 := by
    subst l0_1
    refine extend_keeps ?_
    assumption
  clear_value l0_1
  have h0_2 : Keeps a l0_2 := by
    subst l0_2
    refine Keeps.foldl ?_ fun _ _ _ => ?_
    · assumption
    refine extend_keeps ?_
    assumption
  clear_value l0_2
  have h0_3 : Keeps a l0_3 := by
    subst l0_3
    refine extend_keeps ?_
    assumption
  clear_value l0_3
  clear_value l0_4
  clear_value l0_5
  refine Keeps.upd ?_ rfl
  assumption

theorem doBootRom_keeps {a : State} {x0 x1 s} (h : Keeps a s) : Keeps a (doBootRom x0 x1 s) := by
  delta doBootRom
  extract_lets -merge +onlyGivenNames l0_0 l0_1 l0_2
  have h0_0 : Keeps a l0_0 := by
    subst l0_0
    refine advance_keeps ?_
    assumption
  clear_value l0_0
  clear_value l0_1
  have h0_2 : Keeps a l0_2 := by
    subst l0_2
    refine Keeps.upd ?_ rfl
    assumption
  clear_value l0_2
  refine Keeps.ite (fun _ => ?_) (fun _ => ?_)
  · assumption
  split
  · rename_i hq
    have hk := Keeps.ofEq (a := a) (by
      refine readBundle_keeps ?_
      assumption) hq
    refine bootOn_keeps ?_
    assumption
  · rename_i hq
    have hk := Keeps.ofEq (a := a) (by
      refine readBundle_keeps ?_
      assumption) hq
    refine imageRefused_keeps ?_
    refine Keeps.upd ?_ rfl
    assumption

theorem doScionCopy_keeps {a : State} {x0 x1 x2 s} (h : Keeps a s) : Keeps a (doScionCopy x0 x1 x2 s) := by
  delta doScionCopy
  extract_lets -merge +onlyGivenNames l0_0 l0_1
  have h0_0 : Keeps a l0_0 := by
    subst l0_0
    refine advance_keeps ?_
    assumption
  clear_value l0_0
  clear_value l0_1
  refine Keeps.ite (fun _ => ?_) (fun _ => ?_)
  · refine Keeps.ite (fun _ => ?_) (fun _ => ?_)
    · refine modScion_keeps ?_
      refine Keeps.putDram ?_
      assumption
    refine imageRefused_keeps ?_
    assumption
  assumption

theorem bundleRefused_keeps {a : State} {x0 x1 s} (h : Keeps a s) : Keeps a (bundleRefused x0 x1 s) := by
  delta bundleRefused
  refine imageRefused_keeps ?_
  refine Keeps.upd ?_ rfl
  assumption

theorem takeChunk_keeps {a : State} {x0 x1 x2 s} (h : Keeps a s) : Keeps a (takeChunk x0 x1 x2 s) := by
  delta takeChunk
  extract_lets -merge +onlyGivenNames l0_0 l0_1 l0_2 l0_3 l0_4 l0_5
  clear_value l0_0
  have h0_1 : Keeps a l0_1 := by
    subst l0_1
    refine Keeps.ite (fun _ => ?_) (fun _ => ?_)
    · refine Keeps.upd ?_ rfl
      assumption
    assumption
  clear_value l0_1
  clear_value l0_2
  clear_value l0_3
  have h0_4 : Keeps a l0_4 := by
    subst l0_4
    refine Keeps.upd ?_ rfl
    assumption
  clear_value l0_4
  clear_value l0_5
  refine Keeps.ite (fun _ => ?_) (fun _ => ?_)
  · refine bundleRefused_keeps ?_
    assumption
  refine Keeps.ite (fun _ => ?_) (fun _ => ?_)
  · assumption
  split
  · rename_i hq
    have hk := Keeps.ofEq (a := a) (by
      refine readBundle_keeps ?_
      assumption) hq
    refine bundleRefused_keeps ?_
    assumption
  · rename_i hq
    have hk := Keeps.ofEq (a := a) (by
      refine readBundle_keeps ?_
      assumption) hq
    extract_lets -merge +onlyGivenNames l33_0 l33_1
    clear_value l33_0
    have h33_1 : Keeps a l33_1 := by
      subst l33_1
      refine event_keeps ?_
      refine Keeps.upd ?_ rfl
      assumption
    clear_value l33_1
    refine bootOn_keeps ?_
    refine Keeps.ite (fun _ => ?_) (fun _ => ?_)
    · refine send_keeps ?_
      assumption
    assumption

theorem doRecoveryChunk_keeps {a : State} {x0 x1 x2 x3 x4 s} (h : Keeps a s) : Keeps a (doRecoveryChunk x0 x1 x2 x3 x4 s) := by
  delta doRecoveryChunk
  extract_lets -merge +onlyGivenNames l0_0 l0_1
  have h0_0 : Keeps a l0_0 := by
    subst l0_0
    refine advance_keeps ?_
    assumption
  clear_value l0_0
  have h0_1 : Keeps a l0_1 := by
    subst l0_1
    refine regSet_keeps ?_
    assumption
  clear_value l0_1
  refine Keeps.ite (fun _ => ?_) (fun _ => ?_)
  · refine takeChunk_keeps ?_
    assumption
  assumption

theorem doScionHeartbeat_keeps {a : State} {x0 x1 s} (h : Keeps a s) : Keeps a (doScionHeartbeat x0 x1 s) := by
  delta doScionHeartbeat
  extract_lets -merge +onlyGivenNames l0_0 l0_1
  have h0_0 : Keeps a l0_0 := by
    subst l0_0
    refine advance_keeps ?_
    assumption
  clear_value l0_0
  clear_value l0_1
  refine Keeps.ite (fun _ => ?_) (fun _ => ?_)
  · refine modScion_keeps ?_
    assumption
  assumption

theorem doScionWatchdog_keeps {a : State} {x0 x1 x2 s} (h : Keeps a s) : Keeps a (doScionWatchdog x0 x1 x2 s) := by
  delta doScionWatchdog
  extract_lets -merge +onlyGivenNames l0_0 l0_1 l0_2 l0_3 l0_4 l0_5 l0_6
  have h0_0 : Keeps a l0_0 := by
    subst l0_0
    refine advance_keeps ?_
    assumption
  clear_value l0_0
  clear_value l0_1
  clear_value l0_2
  clear_value l0_3
  have h0_4 : Keeps a l0_4 := by
    subst l0_4
    refine modScion_keeps ?_
    refine Keeps.upd ?_ rfl
    assumption
  clear_value l0_4
  have h0_5 : Keeps a l0_5 := by
    subst l0_5
    refine Keeps.ite (fun _ => ?_) (fun _ => ?_)
    · assumption
    split
    · refine commitSvn_keeps ?_
      assumption
    · refine imageRefused_keeps ?_
      refine modScion_keeps ?_
      assumption
  clear_value l0_5
  have h0_6 : Keeps a l0_6 := by
    subst l0_6
    refine event_keeps ?_
    assumption
  clear_value l0_6
  refine Keeps.ite (fun _ => ?_) (fun _ => ?_)
  · refine Keeps.ite (fun _ => ?_) (fun _ => ?_)
    · refine event_keeps ?_
      refine secErr_keeps ?_
      refine modScion_keeps ?_
      assumption
    assumption
  assumption

theorem answerSpdm_keeps {a : State} {x0 s} (h : Keeps a s) : Keeps a (answerSpdm x0 s) := by
  delta answerSpdm
  extract_lets -merge +onlyGivenNames l0_0 l0_1 l0_2 l0_3 l0_4 l0_5
  clear_value l0_0
  subst l0_1
  try dsimp -zeta -zetaHave -zetaUnused -iota -proj only
  clear_value l0_2
  clear_value l0_3
  clear_value l0_4
  clear_value l0_5
  split
  · refine send_keeps ?_
    assumption
  · refine send_keeps ?_
    assumption
  · refine send_keeps ?_
    assumption
  · refine send_keeps ?_
    assumption
  · refine send_keeps ?_
    assumption
  · refine send_keeps ?_
    assumption
  · refine Keeps.ite (fun _ => ?_) (fun _ => ?_)
    · refine send_keeps ?_
      assumption
    refine send_keeps ?_
    assumption
  · refine send_keeps ?_
    refine Keeps.upd ?_ rfl
    assumption
  · refine Keeps.ite (fun _ => ?_) (fun _ => ?_)
    · refine send_keeps ?_
      refine modPLink_keeps ?_
      refine Keeps.upd ?_ rfl
      assumption
    refine send_keeps ?_
    assumption
  · refine send_keeps ?_
    refine Keeps.upd ?_ rfl
    assumption
  · refine send_keeps ?_
    assumption

theorem doSpdmRequest_keeps {a : State} {x0 x1 s} (h : Keeps a s) : Keeps a (doSpdmRequest x0 x1 s) := by
  delta doSpdmRequest
  extract_lets -merge +onlyGivenNames l0_0
  have h0_0 : Keeps a l0_0 := by
    subst l0_0
    refine advance_keeps ?_
    assumption
  clear_value l0_0
  refine Keeps.ite (fun _ => ?_) (fun _ => ?_)
  · refine answerSpdm_keeps ?_
    assumption
  assumption

theorem openDebug_keeps {a : State} {x0 x1 s} (h : Keeps a s) : Keeps a (openDebug x0 x1 s) := by
  delta openDebug
  extract_lets -merge +onlyGivenNames l0_0 l0_1 l0_2 l0_3 l0_4 l0_5
  clear_value l0_0
  clear_value l0_1
  have h0_2 : Keeps a l0_2 := by
    subst l0_2
    refine extend_keeps ?_
    refine Keeps.upd ?_ rfl
    assumption
  clear_value l0_2
  have h0_3 : Keeps a l0_3 := by
    subst l0_3
    refine event_keeps ?_
    assumption
  clear_value l0_3
  have h0_4 : Keeps a l0_4 := by
    subst l0_4
    refine Keeps.foldl ?_ fun _ _ _ => ?_
    · assumption
    refine destroyPart_keeps ?_
    assumption
  clear_value l0_4
  clear_value l0_5
  refine settle_keeps ?_
  refine Keeps.ite (fun _ => ?_) (fun _ => ?_)
  · refine Keeps.upd ?_ rfl
    assumption
  assumption

theorem doDebugToken_keeps {a : State} {x0 x1 x2 x3 x4 x5 s} (h : Keeps a s) : Keeps a (doDebugToken x0 x1 x2 x3 x4 x5 s) := by
  delta doDebugToken
  extract_lets -merge +onlyGivenNames l0_0 l0_1
  have h0_0 : Keeps a l0_0 := by
    subst l0_0
    refine advance_keeps ?_
    assumption
  clear_value l0_0
  clear_value l0_1
  refine Keeps.ite (fun _ => ?_) (fun _ => ?_)
  · refine openDebug_keeps ?_
    refine Keeps.upd ?_ rfl
    assumption
  assumption

theorem doTapAccess_keeps {a : State} {x0 x1 s} (h : Keeps a s) : Keeps a (doTapAccess x0 x1 s) := by
  delta doTapAccess
  extract_lets -merge +onlyGivenNames l0_0 l0_1
  have h0_0 : Keeps a l0_0 := by
    subst l0_0
    refine advance_keeps ?_
    assumption
  clear_value l0_0
  subst l0_1
  try dsimp -zeta -zetaHave -zetaUnused -iota -proj only
  split
  · assumption
  · refine Keeps.ite (fun _ => ?_) (fun _ => ?_)
    · refine event_keeps ?_
      refine secErr_keeps ?_
      assumption
    refine send_keeps ?_
    assumption
  · refine Keeps.ite (fun _ => ?_) (fun _ => ?_)
    · refine event_keeps ?_
      refine secErr_keeps ?_
      assumption
    refine Keeps.ite (fun _ => ?_) (fun _ => ?_)
    · refine modIsl_keeps ?_
      assumption
    assumption

end Sys2Proof.Machine
end

