-- ==== Sys2Proof/Laws/KeepsFetch.lean ====
section
/-!
SUPPORT. Laws/KeepsFetch.lean: the operations of Machine/Fetch.lean keep what `Keeps` says (Laws/Keeps.lean).
-/
namespace Sys2Proof.Machine

theorem fetchOne_keeps {a : State} {x0 x1 x2 s} (h : Keeps a s) : Keeps a (fetchOne x0 x1 x2 s) := by
  delta fetchOne
  extract_lets -merge +onlyGivenNames l0_0 l0_1 l0_2 l0_3 l0_4
  clear_value l0_0
  have h0_1 : Keeps a l0_1 := by
    subst l0_1
    refine modRing_keeps ?_
    assumption
  clear_value l0_1
  clear_value l0_2
  clear_value l0_3
  clear_value l0_4
  refine Keeps.upd ?_ rfl
  assumption

theorem batchMode_keeps {a : State} {x0 x1 s} (h : Keeps a s) : Keeps a (batchMode x0 x1 s) := by
  delta batchMode
  refine Keeps.ite (fun _ => ?_) (fun _ => ?_)
  · refine Keeps.upd ?_ rfl
    assumption
  refine Keeps.ite (fun _ => ?_) (fun _ => ?_)
  · refine Keeps.upd ?_ rfl
    assumption
  assumption

theorem doRingFetch_keeps {a : State} {x0 x1 x2 x3 s} (h : Keeps a s) : Keeps a (doRingFetch x0 x1 x2 x3 s) := by
  delta doRingFetch
  extract_lets -merge +onlyGivenNames l0_0 l0_1 l0_2
  have h0_0 : Keeps a l0_0 := by
    subst l0_0
    refine advance_keeps ?_
    assumption
  clear_value l0_0
  have h0_1 : Keeps a l0_1 := by
    subst l0_1
    refine batchMode_keeps ?_
    assumption
  clear_value l0_1
  clear_value l0_2
  refine Keeps.ite (fun _ => ?_) (fun _ => ?_)
  · assumption
  split
  · assumption
  · extract_lets -merge +onlyGivenNames l16_0 l16_1
    clear_value l16_0
    have h16_1 : Keeps a l16_1 := by
      subst l16_1
      refine Keeps.upd ?_ rfl
      assumption
    clear_value l16_1
    refine Keeps.ite (fun _ => ?_) (fun _ => ?_)
    · refine doRingFetchError_keeps ?_
      assumption
    refine Keeps.ite (fun _ => ?_) (fun _ => ?_)
    · assumption
    refine settle_keeps ?_
    refine Keeps.foldl ?_ fun _ _ _ => ?_
    · assumption
    refine fetchOne_keeps ?_
    assumption

end Sys2Proof.Machine
end

