-- ==== Sys2Proof/Laws/Quiet.lean ====
section
/-!
SUPPORT. Laws/Quiet.lean: what recording an event, setting an error bit, noting a bad line and queueing a copy for the
partner do not touch. `Quiet a s` says that `s` comes from `a` by such bookkeeping: memory, the partitions, the cores and
what was sent are as they were. A read of partition memory is quiet; a write of it changes nothing else.
-/
namespace Sys2Proof.Machine

structure Quiet (a s : State) : Prop where
  dram : s.dram = a.dram
  hostMem : s.hostMem = a.hostMem
  prt : s.prt = a.prt
  cores : s.cores = a.cores
  outbox : s.outbox = a.outbox

theorem Quiet.refl (a : State) : Quiet a a := ⟨rfl, rfl, rfl, rfl, rfl⟩

theorem Quiet.trans {a b c : State} (h : Quiet a b) (g : Quiet b c) : Quiet a c :=
  ⟨g.dram.trans h.dram, g.hostMem.trans h.hostMem, g.prt.trans h.prt, g.cores.trans h.cores, g.outbox.trans h.outbox⟩

theorem Quiet.upd {a s : State} {f_regs : Tab Word} {f_eff : Tab Word} {f_evr : Evr} {f_ptn : Tab Ptn} {f_drc : Tab Drc} {f_inj : Inj} {f_lines : Tab Nat} (h : Quiet a s) :
    Quiet a (State.mk s.clk s.corrN s.corrS s.fuse s.dies s.hubs s.sep f_regs f_eff s.latch f_evr s.hif s.prt s.cores s.links s.e2e f_ptn f_drc s.ing s.sdl s.fus s.isl s.records f_inj s.sec s.pwr s.dram f_lines s.zeroed s.hostMem s.outbox s.frees s.pending) :=
  ⟨h.dram, h.hostMem, h.prt, h.cores, h.outbox⟩

theorem Quiet.ite {a s t : State} {c : Prop} [Decidable c] (hs : c → Quiet a s) (ht : ¬c → Quiet a t) :
    Quiet a (if c then s else t) := by
  split
  · exact hs ‹_›
  · exact ht ‹_›

theorem Quiet.ite2 {α : Type} {a : State} {s t : α × State} {c : Prop} [Decidable c] (hs : c → Quiet a s.2)
    (ht : ¬c → Quiet a t.2) : Quiet a (if c then s else t).2 := by
  split
  · exact hs ‹_›
  · exact ht ‹_›

theorem Quiet.ofEq {α : Type} {a s : State} {r : α} {d : α × State} (h : Quiet a d.2) (e : d = (r, s)) : Quiet a s := by
  rw [e] at h
  exact h

theorem Quiet.pair {α : Type} {a s : State} {x : α} (h : Quiet a s) : Quiet a (x, s).2 := h

theorem Quiet.foldl {α : Type} {a s : State} {l : List α} {f : State → α → State} (h : Quiet a s)
    (hf : ∀ s x, Quiet a s → Quiet a (f s x)) : Quiet a (l.foldl f s) := by
  induction l generalizing s with
  | nil => exact h
  | cons x l ih => exact ih (hf s x h)

theorem Quiet.foldl2 {α β : Type} {a : State} {l : List α} {f : β × State → α → β × State} {y : β × State} (h : Quiet a y.2)
    (hf : ∀ y x, Quiet a y.2 → Quiet a (f y x).2) : Quiet a (l.foldl f y).2 := by
  induction l generalizing y with
  | nil => exact h
  | cons x l ih => exact ih (hf y x h)

theorem modPtn_quiet {a : State} {x0 x1 s} (h : Quiet a s) : Quiet a (modPtn x0 x1 s) := by
  delta modPtn
  refine Quiet.upd ?_
  assumption

theorem modDrc_quiet {a : State} {x0 x1 s} (h : Quiet a s) : Quiet a (modDrc x0 x1 s) := by
  delta modDrc
  refine Quiet.upd ?_
  assumption

theorem regSet_quiet {a : State} {x0 x1 s} (h : Quiet a s) : Quiet a (regSet x0 x1 s) := by
  delta regSet
  refine Quiet.upd ?_
  assumption

theorem fldSet_quiet {a : State} {x0 x1 x2 x3 s} (h : Quiet a s) : Quiet a (fldSet x0 x1 x2 x3 s) := by
  delta fldSet
  refine regSet_quiet ?_
  assumption

theorem commit_quiet {a : State} {x0 s} (h : Quiet a s) : Quiet a (commit x0 s) := by
  delta commit
  refine Quiet.upd ?_
  assumption

theorem stick_quiet {a : State} {x0 x1 x2 x3 s} (h : Quiet a s) : Quiet a (stick x0 x1 x2 x3 s) := by
  delta stick
  extract_lets -merge +onlyGivenNames l0_0
  have h0_0 : Quiet a l0_0 := by
    subst l0_0
    split
    · assumption
    · refine Quiet.ite (fun _ => ?_) (fun _ => ?_)
      · refine fldSet_quiet ?_
        assumption
      assumption
  clear_value l0_0
  refine fldSet_quiet ?_
  assumption

theorem injUse_quiet {a : State} {s} (h : Quiet a s) : Quiet a (injUse s) := by
  delta injUse
  split
  · refine Quiet.upd ?_
    assumption
  · assumption

theorem injDetected_quiet {a : State} {x0 s} (h : Quiet a s) : Quiet a (injDetected x0 s) := by
  delta injDetected
  split
  · split
    · refine Quiet.ite (fun _ => ?_) (fun _ => ?_)
      · refine Quiet.upd ?_
        assumption
      assumption
    · assumption
  · assumption

theorem injOnEvent_quiet {a : State} {x0 s} (h : Quiet a s) : Quiet a (injOnEvent x0 s) := by
  delta injOnEvent
  split
  · refine Quiet.ite (fun _ => ?_) (fun _ => ?_)
    · refine injDetected_quiet ?_
      assumption
    assumption
  · assumption

theorem recordAtHn_quiet {a : State} {x0 s} (h : Quiet a s) : Quiet a (recordAtHn x0 s) := by
  delta recordAtHn
  extract_lets -merge +onlyGivenNames l0_0 l0_1
  have h0_0 : Quiet a l0_0 := by
    subst l0_0
    refine commit_quiet ?_
    refine commit_quiet ?_
    assumption
  clear_value l0_0
  clear_value l0_1
  split
  · extract_lets -merge +onlyGivenNames l9_0 l9_1
    have h9_0 : Quiet a l9_0 := by
      subst l9_0
      refine Quiet.upd ?_
      assumption
    clear_value l9_0
    have h9_1 : Quiet a l9_1 := by
      subst l9_1
      refine fldSet_quiet ?_
      assumption
    clear_value l9_1
    refine Quiet.ite (fun _ => ?_) (fun _ => ?_)
    · refine Quiet.upd ?_
      assumption
    assumption

theorem record_quiet {a : State} {x0 x1 x2 x3 x4 s} (h : Quiet a s) : Quiet a (record x0 x1 x2 x3 x4 s) := by
  delta record
  extract_lets -merge +onlyGivenNames l0_0 l0_1 l0_2 l0_3
  clear_value l0_0
  clear_value l0_1
  clear_value l0_2
  have h0_3 : Quiet a l0_3 := by
    subst l0_3
    refine Quiet.ite (fun _ => ?_) (fun _ => ?_)
    · refine recordAtHn_quiet ?_
      assumption
    refine Quiet.ite (fun _ => ?_) (fun _ => ?_)
    · refine Quiet.upd ?_
      assumption
    refine Quiet.upd ?_
    assumption
  clear_value l0_3
  refine injOnEvent_quiet ?_
  assumption

theorem event_quiet {a : State} {x0 x1 x2 s} (h : Quiet a s) : Quiet a (event x0 x1 x2 s) := by
  delta event
  refine record_quiet ?_
  assumption

theorem eventFor_quiet {a : State} {x0 x1 x2 x3 s} (h : Quiet a s) : Quiet a (eventFor x0 x1 x2 x3 s) := by
  delta eventFor
  refine record_quiet ?_
  assumption

theorem drcErr_quiet {a : State} {x0 x1 x2 s} (h : Quiet a s) : Quiet a (drcErr x0 x1 x2 s) := by
  delta drcErr
  refine stick_quiet ?_
  assumption

theorem capture_quiet {a : State} {x0 x1 s} (h : Quiet a s) : Quiet a (capture x0 x1 s) := by
  delta capture
  refine Quiet.ite (fun _ => ?_) (fun _ => ?_)
  · assumption
  extract_lets -merge +onlyGivenNames l2_0
  have h2_0 : Quiet a l2_0 := by
    subst l2_0
    refine modDrc_quiet ?_
    assumption
  clear_value l2_0
  refine event_quiet ?_
  refine fldSet_quiet ?_
  assumption

theorem failedRead_quiet {a : State} {x0 x1 x2 s} (h : Quiet a s) : Quiet a (failedRead x0 x1 x2 s) := by
  delta failedRead
  extract_lets -merge +onlyGivenNames l0_0 l0_1 l0_2 l0_3 l0_4 l0_5 l0_6 l0_7 l0_8 l0_9 l0_10 l0_11
  clear_value l0_0
  clear_value l0_1
  clear_value l0_2
  clear_value l0_3
  clear_value l0_4
  subst l0_5
  try dsimp -zeta -zetaHave -zetaUnused -iota -proj only
  clear_value l0_6
  clear_value l0_7
  have h0_8 : Quiet a l0_8 := by
    subst l0_8
    refine modDrc_quiet ?_
    assumption
  clear_value l0_8
  have h0_9 : Quiet a l0_9 := by
    subst l0_9
    refine Quiet.ite (fun _ => ?_) (fun _ => ?_)
    · assumption
    refine Quiet.upd ?_
    assumption
  clear_value l0_9
  have h0_10 : Quiet a l0_10 := by
    subst l0_10
    refine drcErr_quiet ?_
    assumption
  clear_value l0_10
  have h0_11 : Quiet a l0_11 := by
    subst l0_11
    refine Quiet.ite (fun _ => ?_) (fun _ => ?_)
    · refine eventFor_quiet ?_
      assumption
    refine eventFor_quiet ?_
    assumption
  clear_value l0_11
  refine Quiet.ite (fun _ => ?_) (fun _ => ?_)
  · refine capture_quiet ?_
    assumption
  assumption

theorem checkLines_quiet {a : State} {x0 x1 x2 s} (h : Quiet a s) : Quiet a (checkLines x0 x1 x2 s).2 := by
  delta checkLines
  split
  · refine Quiet.pair ?_
    assumption
  · refine Quiet.pair ?_
    refine failedRead_quiet ?_
    assumption
  · refine Quiet.pair ?_
    refine failedRead_quiet ?_
    assumption

theorem healLines_quiet {a : State} {x0 x1 s} (h : Quiet a s) : Quiet a (healLines x0 x1 s) := by
  delta healLines
  extract_lets -merge +onlyGivenNames l0_0 l0_1 l0_2 l0_3 l0_4
  clear_value l0_0
  clear_value l0_1
  clear_value l0_2
  clear_value l0_3
  clear_value l0_4
  refine Quiet.upd ?_
  assumption

theorem enqueue_quiet {a : State} {x0 x1 x2 s} (h : Quiet a s) : Quiet a (enqueue x0 x1 x2 s) := by
  delta enqueue
  extract_lets -merge +onlyGivenNames l0_0 l0_1
  have h0_0 : Quiet a l0_0 := by
    subst l0_0
    refine Quiet.ite (fun _ => ?_) (fun _ => ?_)
    · refine commit_quiet ?_
      assumption
    assumption
  clear_value l0_0
  have h0_1 : Quiet a l0_1 := by
    subst l0_1
    refine modPtn_quiet ?_
    assumption
  clear_value l0_1
  refine Quiet.ite (fun _ => ?_) (fun _ => ?_)
  · refine eventFor_quiet ?_
    refine stick_quiet ?_
    refine modPtn_quiet ?_
    assumption
  assumption

theorem mirrorWrite_quiet {a : State} {x0 x1 x2 s} (h : Quiet a s) : Quiet a (mirrorWrite x0 x1 x2 s) := by
  delta mirrorWrite
  refine Quiet.ite (fun _ => ?_) (fun _ => ?_)
  · assumption
  refine Quiet.foldl ?_ fun _ _ _ => ?_
  · assumption
  extract_lets -merge +onlyGivenNames l4_0
  clear_value l4_0
  refine Quiet.ite (fun _ => ?_) (fun _ => ?_)
  · refine enqueue_quiet ?_
    assumption
  assumption

theorem mirrorSem_quiet {a : State} {x0 x1 x2 x3 s} (h : Quiet a s) : Quiet a (mirrorSem x0 x1 x2 x3 s) := by
  delta mirrorSem
  refine Quiet.foldl ?_ fun _ _ _ => ?_
  · assumption
  extract_lets -merge +onlyGivenNames l2_0 l2_1
  clear_value l2_0
  clear_value l2_1
  refine Quiet.ite (fun _ => ?_) (fun _ => ?_)
  · refine enqueue_quiet ?_
    assumption
  assumption

theorem readPart_quiet {a : State} {x0 x1 x2 x3 s} (h : Quiet a s) : Quiet a (readPart x0 x1 x2 x3 s).2 := by
  delta readPart
  split
  · refine Quiet.pair ?_
    assumption
  · refine Quiet.foldl2 ?_ fun _ _ _ => ?_
    · refine Quiet.pair ?_
      assumption
    split
    · assumption
    · extract_lets -merge +onlyGivenNames l8_0
      clear_value l8_0
      split
      · rename_i hq
        have hk := Quiet.ofEq (a := a) (by
          refine checkLines_quiet ?_
          assumption) hq
        refine Quiet.pair ?_
        assumption
      · rename_i hq
        have hk := Quiet.ofEq (a := a) (by
          refine checkLines_quiet ?_
          assumption) hq
        refine Quiet.pair ?_
        assumption

end Sys2Proof.Machine
end

