-- ==== Sys2Proof/Laws/Memory.lean ====
section
/-!
SUPPORT. Laws/Memory.lean: what reads and writes of DRAM answer and change: a run of bytes read, the pieces of a partition
range, one device write.
-/
namespace Sys2Proof.Machine

/-- A run of bytes, read one by one. -/
theorem spread_eq {d : Nat → Byte} (hd : ∀ k, d k = 0) : ∀ (n k : Nat) (u : Tab Byte), tabWfFrom d none u = true →
    (∀ e ∈ u, k ≤ e.1) → spread k n u = (List.range n).map fun i => tabGet d u (k + i) := by
  intro n
  induction n with
  | zero => intro k u _ _; cases u <;> rfl
  | succ n ih =>
    intro k u hw hk
    rw [List.range_succ_eq_map, List.map_cons, List.map_map]
    cases u with
    | nil =>
      have := ih (k + 1) [] rfl (by simp)
      simp only [spread, this, tabGet, hd]
      rfl
    | cons e r =>
      obtain ⟨j, v⟩ := e
      have hc := tabWfFrom_cons.mp hw
      have hj : k ≤ j := hk _ List.mem_cons_self
      simp only [spread]
      split
      · next h =>
        subst h
        have hr : ∀ e ∈ r, j + 1 ≤ e.1 := by
          have aux : ∀ (r : Tab Byte) (lo : Nat), tabWfFrom d (some lo) r = true → ∀ e ∈ r, lo + 1 ≤ e.1 := by
            intro r
            induction r with
            | nil => simp
            | cons x r ihr =>
              intro lo h e he
              obtain ⟨i, w⟩ := x
              have hh := tabWfFrom_cons.mp h
              have h1 := hh.1 lo (by rfl)
              rcases List.mem_cons.mp he with rfl | he
              · simp only at h1 ⊢; omega
              · have := ihr i hh.2.2 e he
                omega
          exact aux r j hc.2.2
        rw [ih (j + 1) r (tabWfFrom_none hc.2.2) hr]
        refine List.cons_eq_cons.mpr ⟨by simp [tabGet], List.map_congr_left fun i _ => ?_⟩
        simp only [Function.comp]
        rw [show j + (i + 1) = j + 1 + i by omega]
        have h1 : ¬ j + 1 + i = j := by omega
        have h2 : ¬ j + 1 + i < j := by omega
        simp [tabGet, h1, h2]
      · next h =>
        have hk' : ∀ e ∈ (j, v) :: r, k + 1 ≤ e.1 := by
          intro e he
          have := hk e he
          rcases List.mem_cons.mp he with rfl | he'
          · simp only at this ⊢; omega
          · have aux : ∀ (r : Tab Byte) (lo : Nat), tabWfFrom d (some lo) r = true → ∀ e ∈ r, lo < e.1 := by
              intro r
              induction r with
              | nil => simp
              | cons x r ihr =>
                intro lo h e he
                obtain ⟨i, w⟩ := x
                have hh := tabWfFrom_cons.mp h
                have h1 := hh.1 lo (by rfl)
                rcases List.mem_cons.mp he with rfl | he
                · exact h1
                · exact Nat.lt_trans h1 (ihr i hh.2.2 e he)
            have := aux r j hc.2.2 e he'
            omega
        rw [ih (k + 1) _ hw hk']
        refine List.cons_eq_cons.mpr ⟨?_, List.map_congr_left fun i _ => ?_⟩
        · have h1 : ¬ k = j := fun x => h x.symm
          have h2 : k < j := by omega
          simp [tabGet, h1, h2, hd]
        · simp only [Function.comp]
          rw [show k + (i + 1) = k + 1 + i by omega]

/-- The bytes at a range are what its keys hold. -/
theorem getBytes_eq {t : Tab Byte} {d : Nat → Byte} (hd : ∀ k, d k = 0) (h : tabWf d t = true) (k n : Nat) :
    getBytes t k n = (List.range n).map fun i => tabGet d t (k + i) := by
  unfold getBytes tabSlice
  rw [spread_eq hd n k _ (tabFilter_wfFrom h) fun e he => by
    have := (List.mem_filter.mp he).2
    simp only [Bool.and_eq_true, decide_eq_true_eq] at this
    exact this.1]
  refine List.map_congr_left fun i hi => ?_
  have hi := List.mem_range.mp hi
  rw [tabGet_filter (q := fun j => decide (k ≤ j) && decide (j < k + n)) h]
  rw [if_pos]
  simp only [Bool.and_eq_true, decide_eq_true_eq]
  omega

/-- Bytes just put are read back. -/
theorem getBytes_putBytes {t : Tab Byte} {d : Nat → Byte} (hd : ∀ k, d k = 0) (h : tabWf d t = true) (k : Nat) (bs : List Byte) :
    getBytes (putBytes t k bs) k bs.length = bs := by
  rw [getBytes_eq hd (putBytes_wf hd h)]
  refine List.ext_getElem (by simp) fun i h1 h2 => ?_
  rw [List.getElem_map, List.getElem_range, putBytes_get hd h, if_pos (by omega)]
  rw [show k + i - k = i by omega, List.getD_eq_getElem?_getD, List.getElem?_eq_getElem h2]
  rfl

/-- A piece of a partition range lies in one granule of it. -/
theorem pieces_mem {a n : Nat} {x : Nat × Nat} (h : x ∈ pieces a n) :
    a ≤ x.1 ∧ x.1 + x.2 ≤ a + n ∧ x.1 / granuleBytes * granuleBytes ≤ x.1 ∧
      x.1 % granuleBytes + x.2 ≤ granuleBytes := by
  unfold pieces at h
  split at h
  · simp at h
  · obtain ⟨i, hi, rfl⟩ := List.mem_map.mp h
    have hi := List.mem_range.mp hi
    simp only [granuleBytes] at *
    omega

/-- One device write: the bytes outside its range are as they were, and nothing but memory and bookkeeping changes. -/
theorem writeDev_frame {dev : Nat} {bs : List Byte} {who : Requester} {s : State} (h : memOk s = true) :
    (writeDev dev bs who s).2.prt = s.prt ∧ (writeDev dev bs who s).2.hostMem = s.hostMem ∧
    (writeDev dev bs who s).2.cores = s.cores ∧ memOk (writeDev dev bs who s).2 = true ∧
    ∀ x, (x < dev ∨ dev + bs.length ≤ x) → tabGet dByte (writeDev dev bs who s).2.dram x = tabGet dByte s.dram x := by
  simp only [memOk, Bool.and_eq_true] at h ⊢
  unfold writeDev
  extract_lets -merge n fp lp lead tail
  split
  · exact ⟨rfl, rfl, rfl, h, fun _ _ => rfl⟩
  split
  · have q := failedRead_quiet (x0 := dev / 64) (x1 := false) (x2 := who) (Quiet.refl s)
    refine ⟨q.prt, q.hostMem, q.cores, ?_, fun x _ => by rw [q.dram]⟩
    rw [q.dram, q.hostMem]; exact h
  split
  next e1 s1 he1 =>
  have q1 : Quiet s s1 := Quiet.ofEq (by
    refine Quiet.ite2 (fun _ => checkLines_quiet (Quiet.refl s)) (fun _ => Quiet.pair (Quiet.refl s))) he1
  split
  next e2 s2 he2 =>
  have q2 : Quiet s s2 := Quiet.ofEq (by
    refine Quiet.ite2 (fun _ => checkLines_quiet q1) (fun _ => Quiet.pair q1)) he2
  extract_lets lo hi s3
  have hlo : lo ≤ n ∧ hi ≤ n := by
    constructor
    · show (if _ then _ else _) ≤ n
      split
      · show (if _ then min n _ else _) ≤ n
        split
        · exact Nat.min_le_left _ _
        · omega
      · omega
    · show (if _ then _ else _) ≤ n
      split
      · exact Nat.sub_le _ _
      · exact Nat.le_refl _
  have q3 := healLines_quiet (x0 := dev) (x1 := n) (Quiet.refl s3)
  have hw : tabWf dByte s2.dram = true := by rw [q2.dram]; exact h.1
  refine ⟨q3.prt.trans q2.prt, q3.hostMem.trans q2.hostMem, q3.cores.trans q2.cores, ?_, fun x hx => ?_⟩
  · rw [q3.dram, q3.hostMem]
    exact ⟨putBytes_wf (fun _ => rfl) hw, by show tabWf dByte s2.hostMem = true; rw [q2.hostMem]; exact h.2⟩
  · rw [q3.dram]
    show tabGet dByte (putBytes s2.dram _ _) x = _
    rw [putBytes_get (d := dByte) (fun _ => rfl) hw, if_neg, q2.dram]
    simp only [List.length_drop, List.length_take]
    show ¬ (dev + lo ≤ x ∧ x < dev + lo + (min hi n - lo))
    have : bs.length = n := rfl
    omega

end Sys2Proof.Machine
end

