-- ==== Sys2Proof/Laws/State.lean ====
section
/-!
SUPPORT. Laws/State.lean: what each named update of the state leaves alone and what it writes: one lemma per field per
update, so that no later proof unfolds a record update.
-/
namespace Sys2Proof.Machine

/-! ## advance -/

@[simp] theorem advance_clk (t : Nat) (s : State) : (advance t s).clk =
    max s.clk t := rfl
@[simp] theorem advance_corrN (t : Nat) (s : State) : (advance t s).corrN = s.corrN := rfl
@[simp] theorem advance_corrS (t : Nat) (s : State) : (advance t s).corrS = s.corrS := rfl
@[simp] theorem advance_fuse (t : Nat) (s : State) : (advance t s).fuse = s.fuse := rfl
@[simp] theorem advance_dies (t : Nat) (s : State) : (advance t s).dies = s.dies := rfl
@[simp] theorem advance_hubs (t : Nat) (s : State) : (advance t s).hubs = s.hubs := rfl
@[simp] theorem advance_sep (t : Nat) (s : State) : (advance t s).sep = s.sep := rfl
@[simp] theorem advance_regs (t : Nat) (s : State) : (advance t s).regs = s.regs := rfl
@[simp] theorem advance_eff (t : Nat) (s : State) : (advance t s).eff = s.eff := rfl
@[simp] theorem advance_latch (t : Nat) (s : State) : (advance t s).latch = s.latch := rfl
@[simp] theorem advance_evr (t : Nat) (s : State) : (advance t s).evr = s.evr := rfl
@[simp] theorem advance_hif (t : Nat) (s : State) : (advance t s).hif = s.hif := rfl
@[simp] theorem advance_prt (t : Nat) (s : State) : (advance t s).prt = s.prt := rfl
@[simp] theorem advance_cores (t : Nat) (s : State) : (advance t s).cores = s.cores := rfl
@[simp] theorem advance_links (t : Nat) (s : State) : (advance t s).links = s.links := rfl
@[simp] theorem advance_e2e (t : Nat) (s : State) : (advance t s).e2e = s.e2e := rfl
@[simp] theorem advance_ptn (t : Nat) (s : State) : (advance t s).ptn = s.ptn := rfl
@[simp] theorem advance_drc (t : Nat) (s : State) : (advance t s).drc = s.drc := rfl
@[simp] theorem advance_ing (t : Nat) (s : State) : (advance t s).ing = s.ing := rfl
@[simp] theorem advance_sdl (t : Nat) (s : State) : (advance t s).sdl = s.sdl := rfl
@[simp] theorem advance_fus (t : Nat) (s : State) : (advance t s).fus = s.fus := rfl
@[simp] theorem advance_isl (t : Nat) (s : State) : (advance t s).isl = s.isl := rfl
@[simp] theorem advance_records (t : Nat) (s : State) : (advance t s).records = s.records := rfl
@[simp] theorem advance_inj (t : Nat) (s : State) : (advance t s).inj = s.inj := rfl
@[simp] theorem advance_sec (t : Nat) (s : State) : (advance t s).sec = s.sec := rfl
@[simp] theorem advance_pwr (t : Nat) (s : State) : (advance t s).pwr = s.pwr := rfl
@[simp] theorem advance_dram (t : Nat) (s : State) : (advance t s).dram = s.dram := rfl
@[simp] theorem advance_lines (t : Nat) (s : State) : (advance t s).lines = s.lines := rfl
@[simp] theorem advance_zeroed (t : Nat) (s : State) : (advance t s).zeroed = s.zeroed := rfl
@[simp] theorem advance_hostMem (t : Nat) (s : State) : (advance t s).hostMem = s.hostMem := rfl
@[simp] theorem advance_outbox (t : Nat) (s : State) : (advance t s).outbox = s.outbox := rfl
@[simp] theorem advance_frees (t : Nat) (s : State) : (advance t s).frees = s.frees := rfl
@[simp] theorem advance_pending (t : Nat) (s : State) : (advance t s).pending = s.pending := rfl

/-! ## send -/

@[simp] theorem send_clk (o : Out) (s : State) : (send o s).clk = s.clk := rfl
@[simp] theorem send_corrN (o : Out) (s : State) : (send o s).corrN = s.corrN := rfl
@[simp] theorem send_corrS (o : Out) (s : State) : (send o s).corrS = s.corrS := rfl
@[simp] theorem send_fuse (o : Out) (s : State) : (send o s).fuse = s.fuse := rfl
@[simp] theorem send_dies (o : Out) (s : State) : (send o s).dies = s.dies := rfl
@[simp] theorem send_hubs (o : Out) (s : State) : (send o s).hubs = s.hubs := rfl
@[simp] theorem send_sep (o : Out) (s : State) : (send o s).sep = s.sep := rfl
@[simp] theorem send_regs (o : Out) (s : State) : (send o s).regs = s.regs := rfl
@[simp] theorem send_eff (o : Out) (s : State) : (send o s).eff = s.eff := rfl
@[simp] theorem send_latch (o : Out) (s : State) : (send o s).latch = s.latch := rfl
@[simp] theorem send_evr (o : Out) (s : State) : (send o s).evr = s.evr := rfl
@[simp] theorem send_hif (o : Out) (s : State) : (send o s).hif = s.hif := rfl
@[simp] theorem send_prt (o : Out) (s : State) : (send o s).prt = s.prt := rfl
@[simp] theorem send_cores (o : Out) (s : State) : (send o s).cores = s.cores := rfl
@[simp] theorem send_links (o : Out) (s : State) : (send o s).links = s.links := rfl
@[simp] theorem send_e2e (o : Out) (s : State) : (send o s).e2e = s.e2e := rfl
@[simp] theorem send_ptn (o : Out) (s : State) : (send o s).ptn = s.ptn := rfl
@[simp] theorem send_drc (o : Out) (s : State) : (send o s).drc = s.drc := rfl
@[simp] theorem send_ing (o : Out) (s : State) : (send o s).ing = s.ing := rfl
@[simp] theorem send_sdl (o : Out) (s : State) : (send o s).sdl = s.sdl := rfl
@[simp] theorem send_fus (o : Out) (s : State) : (send o s).fus = s.fus := rfl
@[simp] theorem send_isl (o : Out) (s : State) : (send o s).isl = s.isl := rfl
@[simp] theorem send_records (o : Out) (s : State) : (send o s).records = s.records := rfl
@[simp] theorem send_inj (o : Out) (s : State) : (send o s).inj = s.inj := rfl
@[simp] theorem send_sec (o : Out) (s : State) : (send o s).sec = s.sec := rfl
@[simp] theorem send_pwr (o : Out) (s : State) : (send o s).pwr = s.pwr := rfl
@[simp] theorem send_dram (o : Out) (s : State) : (send o s).dram = s.dram := rfl
@[simp] theorem send_lines (o : Out) (s : State) : (send o s).lines = s.lines := rfl
@[simp] theorem send_zeroed (o : Out) (s : State) : (send o s).zeroed = s.zeroed := rfl
@[simp] theorem send_hostMem (o : Out) (s : State) : (send o s).hostMem = s.hostMem := rfl
@[simp] theorem send_outbox (o : Out) (s : State) : (send o s).outbox =
    s.outbox ++ [o] := rfl
@[simp] theorem send_frees (o : Out) (s : State) : (send o s).frees = s.frees := rfl
@[simp] theorem send_pending (o : Out) (s : State) : (send o s).pending = s.pending := rfl

/-! ## regSet -/

@[simp] theorem regSet_clk (off : Nat) (v : Word) (s : State) : (regSet off v s).clk = s.clk := rfl
@[simp] theorem regSet_corrN (off : Nat) (v : Word) (s : State) : (regSet off v s).corrN = s.corrN := rfl
@[simp] theorem regSet_corrS (off : Nat) (v : Word) (s : State) : (regSet off v s).corrS = s.corrS := rfl
@[simp] theorem regSet_fuse (off : Nat) (v : Word) (s : State) : (regSet off v s).fuse = s.fuse := rfl
@[simp] theorem regSet_dies (off : Nat) (v : Word) (s : State) : (regSet off v s).dies = s.dies := rfl
@[simp] theorem regSet_hubs (off : Nat) (v : Word) (s : State) : (regSet off v s).hubs = s.hubs := rfl
@[simp] theorem regSet_sep (off : Nat) (v : Word) (s : State) : (regSet off v s).sep = s.sep := rfl
@[simp] theorem regSet_regs (off : Nat) (v : Word) (s : State) : (regSet off v s).regs =
    tabSet regDefault s.regs off v := rfl
@[simp] theorem regSet_eff (off : Nat) (v : Word) (s : State) : (regSet off v s).eff = s.eff := rfl
@[simp] theorem regSet_latch (off : Nat) (v : Word) (s : State) : (regSet off v s).latch = s.latch := rfl
@[simp] theorem regSet_evr (off : Nat) (v : Word) (s : State) : (regSet off v s).evr = s.evr := rfl
@[simp] theorem regSet_hif (off : Nat) (v : Word) (s : State) : (regSet off v s).hif = s.hif := rfl
@[simp] theorem regSet_prt (off : Nat) (v : Word) (s : State) : (regSet off v s).prt = s.prt := rfl
@[simp] theorem regSet_cores (off : Nat) (v : Word) (s : State) : (regSet off v s).cores = s.cores := rfl
@[simp] theorem regSet_links (off : Nat) (v : Word) (s : State) : (regSet off v s).links = s.links := rfl
@[simp] theorem regSet_e2e (off : Nat) (v : Word) (s : State) : (regSet off v s).e2e = s.e2e := rfl
@[simp] theorem regSet_ptn (off : Nat) (v : Word) (s : State) : (regSet off v s).ptn = s.ptn := rfl
@[simp] theorem regSet_drc (off : Nat) (v : Word) (s : State) : (regSet off v s).drc = s.drc := rfl
@[simp] theorem regSet_ing (off : Nat) (v : Word) (s : State) : (regSet off v s).ing = s.ing := rfl
@[simp] theorem regSet_sdl (off : Nat) (v : Word) (s : State) : (regSet off v s).sdl = s.sdl := rfl
@[simp] theorem regSet_fus (off : Nat) (v : Word) (s : State) : (regSet off v s).fus = s.fus := rfl
@[simp] theorem regSet_isl (off : Nat) (v : Word) (s : State) : (regSet off v s).isl = s.isl := rfl
@[simp] theorem regSet_records (off : Nat) (v : Word) (s : State) : (regSet off v s).records = s.records := rfl
@[simp] theorem regSet_inj (off : Nat) (v : Word) (s : State) : (regSet off v s).inj = s.inj := rfl
@[simp] theorem regSet_sec (off : Nat) (v : Word) (s : State) : (regSet off v s).sec = s.sec := rfl
@[simp] theorem regSet_pwr (off : Nat) (v : Word) (s : State) : (regSet off v s).pwr = s.pwr := rfl
@[simp] theorem regSet_dram (off : Nat) (v : Word) (s : State) : (regSet off v s).dram = s.dram := rfl
@[simp] theorem regSet_lines (off : Nat) (v : Word) (s : State) : (regSet off v s).lines = s.lines := rfl
@[simp] theorem regSet_zeroed (off : Nat) (v : Word) (s : State) : (regSet off v s).zeroed = s.zeroed := rfl
@[simp] theorem regSet_hostMem (off : Nat) (v : Word) (s : State) : (regSet off v s).hostMem = s.hostMem := rfl
@[simp] theorem regSet_outbox (off : Nat) (v : Word) (s : State) : (regSet off v s).outbox = s.outbox := rfl
@[simp] theorem regSet_frees (off : Nat) (v : Word) (s : State) : (regSet off v s).frees = s.frees := rfl
@[simp] theorem regSet_pending (off : Nat) (v : Word) (s : State) : (regSet off v s).pending = s.pending := rfl

/-! ## fldSet -/

@[simp] theorem fldSet_clk (off lo w v : Nat) (s : State) : (fldSet off lo w v s).clk = s.clk := rfl
@[simp] theorem fldSet_corrN (off lo w v : Nat) (s : State) : (fldSet off lo w v s).corrN = s.corrN := rfl
@[simp] theorem fldSet_corrS (off lo w v : Nat) (s : State) : (fldSet off lo w v s).corrS = s.corrS := rfl
@[simp] theorem fldSet_fuse (off lo w v : Nat) (s : State) : (fldSet off lo w v s).fuse = s.fuse := rfl
@[simp] theorem fldSet_dies (off lo w v : Nat) (s : State) : (fldSet off lo w v s).dies = s.dies := rfl
@[simp] theorem fldSet_hubs (off lo w v : Nat) (s : State) : (fldSet off lo w v s).hubs = s.hubs := rfl
@[simp] theorem fldSet_sep (off lo w v : Nat) (s : State) : (fldSet off lo w v s).sep = s.sep := rfl
@[simp] theorem fldSet_regs (off lo w v : Nat) (s : State) : (fldSet off lo w v s).regs =
    tabSet regDefault s.regs off (BitVec.ofNat 32 (setBits (regGet s off).toNat lo w v)) := rfl
@[simp] theorem fldSet_eff (off lo w v : Nat) (s : State) : (fldSet off lo w v s).eff = s.eff := rfl
@[simp] theorem fldSet_latch (off lo w v : Nat) (s : State) : (fldSet off lo w v s).latch = s.latch := rfl
@[simp] theorem fldSet_evr (off lo w v : Nat) (s : State) : (fldSet off lo w v s).evr = s.evr := rfl
@[simp] theorem fldSet_hif (off lo w v : Nat) (s : State) : (fldSet off lo w v s).hif = s.hif := rfl
@[simp] theorem fldSet_prt (off lo w v : Nat) (s : State) : (fldSet off lo w v s).prt = s.prt := rfl
@[simp] theorem fldSet_cores (off lo w v : Nat) (s : State) : (fldSet off lo w v s).cores = s.cores := rfl
@[simp] theorem fldSet_links (off lo w v : Nat) (s : State) : (fldSet off lo w v s).links = s.links := rfl
@[simp] theorem fldSet_e2e (off lo w v : Nat) (s : State) : (fldSet off lo w v s).e2e = s.e2e := rfl
@[simp] theorem fldSet_ptn (off lo w v : Nat) (s : State) : (fldSet off lo w v s).ptn = s.ptn := rfl
@[simp] theorem fldSet_drc (off lo w v : Nat) (s : State) : (fldSet off lo w v s).drc = s.drc := rfl
@[simp] theorem fldSet_ing (off lo w v : Nat) (s : State) : (fldSet off lo w v s).ing = s.ing := rfl
@[simp] theorem fldSet_sdl (off lo w v : Nat) (s : State) : (fldSet off lo w v s).sdl = s.sdl := rfl
@[simp] theorem fldSet_fus (off lo w v : Nat) (s : State) : (fldSet off lo w v s).fus = s.fus := rfl
@[simp] theorem fldSet_isl (off lo w v : Nat) (s : State) : (fldSet off lo w v s).isl = s.isl := rfl
@[simp] theorem fldSet_records (off lo w v : Nat) (s : State) : (fldSet off lo w v s).records = s.records := rfl
@[simp] theorem fldSet_inj (off lo w v : Nat) (s : State) : (fldSet off lo w v s).inj = s.inj := rfl
@[simp] theorem fldSet_sec (off lo w v : Nat) (s : State) : (fldSet off lo w v s).sec = s.sec := rfl
@[simp] theorem fldSet_pwr (off lo w v : Nat) (s : State) : (fldSet off lo w v s).pwr = s.pwr := rfl
@[simp] theorem fldSet_dram (off lo w v : Nat) (s : State) : (fldSet off lo w v s).dram = s.dram := rfl
@[simp] theorem fldSet_lines (off lo w v : Nat) (s : State) : (fldSet off lo w v s).lines = s.lines := rfl
@[simp] theorem fldSet_zeroed (off lo w v : Nat) (s : State) : (fldSet off lo w v s).zeroed = s.zeroed := rfl
@[simp] theorem fldSet_hostMem (off lo w v : Nat) (s : State) : (fldSet off lo w v s).hostMem = s.hostMem := rfl
@[simp] theorem fldSet_outbox (off lo w v : Nat) (s : State) : (fldSet off lo w v s).outbox = s.outbox := rfl
@[simp] theorem fldSet_frees (off lo w v : Nat) (s : State) : (fldSet off lo w v s).frees = s.frees := rfl
@[simp] theorem fldSet_pending (off lo w v : Nat) (s : State) : (fldSet off lo w v s).pending = s.pending := rfl

/-! ## commit -/

@[simp] theorem commit_clk (off : Nat) (s : State) : (commit off s).clk = s.clk := rfl
@[simp] theorem commit_corrN (off : Nat) (s : State) : (commit off s).corrN = s.corrN := rfl
@[simp] theorem commit_corrS (off : Nat) (s : State) : (commit off s).corrS = s.corrS := rfl
@[simp] theorem commit_fuse (off : Nat) (s : State) : (commit off s).fuse = s.fuse := rfl
@[simp] theorem commit_dies (off : Nat) (s : State) : (commit off s).dies = s.dies := rfl
@[simp] theorem commit_hubs (off : Nat) (s : State) : (commit off s).hubs = s.hubs := rfl
@[simp] theorem commit_sep (off : Nat) (s : State) : (commit off s).sep = s.sep := rfl
@[simp] theorem commit_regs (off : Nat) (s : State) : (commit off s).regs = s.regs := rfl
@[simp] theorem commit_eff (off : Nat) (s : State) : (commit off s).eff =
    tabSet regDefault s.eff off (regGet s off) := rfl
@[simp] theorem commit_latch (off : Nat) (s : State) : (commit off s).latch = s.latch := rfl
@[simp] theorem commit_evr (off : Nat) (s : State) : (commit off s).evr = s.evr := rfl
@[simp] theorem commit_hif (off : Nat) (s : State) : (commit off s).hif = s.hif := rfl
@[simp] theorem commit_prt (off : Nat) (s : State) : (commit off s).prt = s.prt := rfl
@[simp] theorem commit_cores (off : Nat) (s : State) : (commit off s).cores = s.cores := rfl
@[simp] theorem commit_links (off : Nat) (s : State) : (commit off s).links = s.links := rfl
@[simp] theorem commit_e2e (off : Nat) (s : State) : (commit off s).e2e = s.e2e := rfl
@[simp] theorem commit_ptn (off : Nat) (s : State) : (commit off s).ptn = s.ptn := rfl
@[simp] theorem commit_drc (off : Nat) (s : State) : (commit off s).drc = s.drc := rfl
@[simp] theorem commit_ing (off : Nat) (s : State) : (commit off s).ing = s.ing := rfl
@[simp] theorem commit_sdl (off : Nat) (s : State) : (commit off s).sdl = s.sdl := rfl
@[simp] theorem commit_fus (off : Nat) (s : State) : (commit off s).fus = s.fus := rfl
@[simp] theorem commit_isl (off : Nat) (s : State) : (commit off s).isl = s.isl := rfl
@[simp] theorem commit_records (off : Nat) (s : State) : (commit off s).records = s.records := rfl
@[simp] theorem commit_inj (off : Nat) (s : State) : (commit off s).inj = s.inj := rfl
@[simp] theorem commit_sec (off : Nat) (s : State) : (commit off s).sec = s.sec := rfl
@[simp] theorem commit_pwr (off : Nat) (s : State) : (commit off s).pwr = s.pwr := rfl
@[simp] theorem commit_dram (off : Nat) (s : State) : (commit off s).dram = s.dram := rfl
@[simp] theorem commit_lines (off : Nat) (s : State) : (commit off s).lines = s.lines := rfl
@[simp] theorem commit_zeroed (off : Nat) (s : State) : (commit off s).zeroed = s.zeroed := rfl
@[simp] theorem commit_hostMem (off : Nat) (s : State) : (commit off s).hostMem = s.hostMem := rfl
@[simp] theorem commit_outbox (off : Nat) (s : State) : (commit off s).outbox = s.outbox := rfl
@[simp] theorem commit_frees (off : Nat) (s : State) : (commit off s).frees = s.frees := rfl
@[simp] theorem commit_pending (off : Nat) (s : State) : (commit off s).pending = s.pending := rfl

/-! ## modDie -/

@[simp] theorem modDie_clk (d : Nat) (f : Die → Die) (s : State) : (modDie d f s).clk = s.clk := rfl
@[simp] theorem modDie_corrN (d : Nat) (f : Die → Die) (s : State) : (modDie d f s).corrN = s.corrN := rfl
@[simp] theorem modDie_corrS (d : Nat) (f : Die → Die) (s : State) : (modDie d f s).corrS = s.corrS := rfl
@[simp] theorem modDie_fuse (d : Nat) (f : Die → Die) (s : State) : (modDie d f s).fuse = s.fuse := rfl
@[simp] theorem modDie_dies (d : Nat) (f : Die → Die) (s : State) : (modDie d f s).dies =
    tabMod dDie s.dies d f := rfl
@[simp] theorem modDie_hubs (d : Nat) (f : Die → Die) (s : State) : (modDie d f s).hubs = s.hubs := rfl
@[simp] theorem modDie_sep (d : Nat) (f : Die → Die) (s : State) : (modDie d f s).sep = s.sep := rfl
@[simp] theorem modDie_regs (d : Nat) (f : Die → Die) (s : State) : (modDie d f s).regs = s.regs := rfl
@[simp] theorem modDie_eff (d : Nat) (f : Die → Die) (s : State) : (modDie d f s).eff = s.eff := rfl
@[simp] theorem modDie_latch (d : Nat) (f : Die → Die) (s : State) : (modDie d f s).latch = s.latch := rfl
@[simp] theorem modDie_evr (d : Nat) (f : Die → Die) (s : State) : (modDie d f s).evr = s.evr := rfl
@[simp] theorem modDie_hif (d : Nat) (f : Die → Die) (s : State) : (modDie d f s).hif = s.hif := rfl
@[simp] theorem modDie_prt (d : Nat) (f : Die → Die) (s : State) : (modDie d f s).prt = s.prt := rfl
@[simp] theorem modDie_cores (d : Nat) (f : Die → Die) (s : State) : (modDie d f s).cores = s.cores := rfl
@[simp] theorem modDie_links (d : Nat) (f : Die → Die) (s : State) : (modDie d f s).links = s.links := rfl
@[simp] theorem modDie_e2e (d : Nat) (f : Die → Die) (s : State) : (modDie d f s).e2e = s.e2e := rfl
@[simp] theorem modDie_ptn (d : Nat) (f : Die → Die) (s : State) : (modDie d f s).ptn = s.ptn := rfl
@[simp] theorem modDie_drc (d : Nat) (f : Die → Die) (s : State) : (modDie d f s).drc = s.drc := rfl
@[simp] theorem modDie_ing (d : Nat) (f : Die → Die) (s : State) : (modDie d f s).ing = s.ing := rfl
@[simp] theorem modDie_sdl (d : Nat) (f : Die → Die) (s : State) : (modDie d f s).sdl = s.sdl := rfl
@[simp] theorem modDie_fus (d : Nat) (f : Die → Die) (s : State) : (modDie d f s).fus = s.fus := rfl
@[simp] theorem modDie_isl (d : Nat) (f : Die → Die) (s : State) : (modDie d f s).isl = s.isl := rfl
@[simp] theorem modDie_records (d : Nat) (f : Die → Die) (s : State) : (modDie d f s).records = s.records := rfl
@[simp] theorem modDie_inj (d : Nat) (f : Die → Die) (s : State) : (modDie d f s).inj = s.inj := rfl
@[simp] theorem modDie_sec (d : Nat) (f : Die → Die) (s : State) : (modDie d f s).sec = s.sec := rfl
@[simp] theorem modDie_pwr (d : Nat) (f : Die → Die) (s : State) : (modDie d f s).pwr = s.pwr := rfl
@[simp] theorem modDie_dram (d : Nat) (f : Die → Die) (s : State) : (modDie d f s).dram = s.dram := rfl
@[simp] theorem modDie_lines (d : Nat) (f : Die → Die) (s : State) : (modDie d f s).lines = s.lines := rfl
@[simp] theorem modDie_zeroed (d : Nat) (f : Die → Die) (s : State) : (modDie d f s).zeroed = s.zeroed := rfl
@[simp] theorem modDie_hostMem (d : Nat) (f : Die → Die) (s : State) : (modDie d f s).hostMem = s.hostMem := rfl
@[simp] theorem modDie_outbox (d : Nat) (f : Die → Die) (s : State) : (modDie d f s).outbox = s.outbox := rfl
@[simp] theorem modDie_frees (d : Nat) (f : Die → Die) (s : State) : (modDie d f s).frees = s.frees := rfl
@[simp] theorem modDie_pending (d : Nat) (f : Die → Die) (s : State) : (modDie d f s).pending = s.pending := rfl

/-! ## modHub -/

@[simp] theorem modHub_clk (h : Nat) (f : Hub → Hub) (s : State) : (modHub h f s).clk = s.clk := rfl
@[simp] theorem modHub_corrN (h : Nat) (f : Hub → Hub) (s : State) : (modHub h f s).corrN = s.corrN := rfl
@[simp] theorem modHub_corrS (h : Nat) (f : Hub → Hub) (s : State) : (modHub h f s).corrS = s.corrS := rfl
@[simp] theorem modHub_fuse (h : Nat) (f : Hub → Hub) (s : State) : (modHub h f s).fuse = s.fuse := rfl
@[simp] theorem modHub_dies (h : Nat) (f : Hub → Hub) (s : State) : (modHub h f s).dies = s.dies := rfl
@[simp] theorem modHub_hubs (h : Nat) (f : Hub → Hub) (s : State) : (modHub h f s).hubs =
    tabMod dHub s.hubs h f := rfl
@[simp] theorem modHub_sep (h : Nat) (f : Hub → Hub) (s : State) : (modHub h f s).sep = s.sep := rfl
@[simp] theorem modHub_regs (h : Nat) (f : Hub → Hub) (s : State) : (modHub h f s).regs = s.regs := rfl
@[simp] theorem modHub_eff (h : Nat) (f : Hub → Hub) (s : State) : (modHub h f s).eff = s.eff := rfl
@[simp] theorem modHub_latch (h : Nat) (f : Hub → Hub) (s : State) : (modHub h f s).latch = s.latch := rfl
@[simp] theorem modHub_evr (h : Nat) (f : Hub → Hub) (s : State) : (modHub h f s).evr = s.evr := rfl
@[simp] theorem modHub_hif (h : Nat) (f : Hub → Hub) (s : State) : (modHub h f s).hif = s.hif := rfl
@[simp] theorem modHub_prt (h : Nat) (f : Hub → Hub) (s : State) : (modHub h f s).prt = s.prt := rfl
@[simp] theorem modHub_cores (h : Nat) (f : Hub → Hub) (s : State) : (modHub h f s).cores = s.cores := rfl
@[simp] theorem modHub_links (h : Nat) (f : Hub → Hub) (s : State) : (modHub h f s).links = s.links := rfl
@[simp] theorem modHub_e2e (h : Nat) (f : Hub → Hub) (s : State) : (modHub h f s).e2e = s.e2e := rfl
@[simp] theorem modHub_ptn (h : Nat) (f : Hub → Hub) (s : State) : (modHub h f s).ptn = s.ptn := rfl
@[simp] theorem modHub_drc (h : Nat) (f : Hub → Hub) (s : State) : (modHub h f s).drc = s.drc := rfl
@[simp] theorem modHub_ing (h : Nat) (f : Hub → Hub) (s : State) : (modHub h f s).ing = s.ing := rfl
@[simp] theorem modHub_sdl (h : Nat) (f : Hub → Hub) (s : State) : (modHub h f s).sdl = s.sdl := rfl
@[simp] theorem modHub_fus (h : Nat) (f : Hub → Hub) (s : State) : (modHub h f s).fus = s.fus := rfl
@[simp] theorem modHub_isl (h : Nat) (f : Hub → Hub) (s : State) : (modHub h f s).isl = s.isl := rfl
@[simp] theorem modHub_records (h : Nat) (f : Hub → Hub) (s : State) : (modHub h f s).records = s.records := rfl
@[simp] theorem modHub_inj (h : Nat) (f : Hub → Hub) (s : State) : (modHub h f s).inj = s.inj := rfl
@[simp] theorem modHub_sec (h : Nat) (f : Hub → Hub) (s : State) : (modHub h f s).sec = s.sec := rfl
@[simp] theorem modHub_pwr (h : Nat) (f : Hub → Hub) (s : State) : (modHub h f s).pwr = s.pwr := rfl
@[simp] theorem modHub_dram (h : Nat) (f : Hub → Hub) (s : State) : (modHub h f s).dram = s.dram := rfl
@[simp] theorem modHub_lines (h : Nat) (f : Hub → Hub) (s : State) : (modHub h f s).lines = s.lines := rfl
@[simp] theorem modHub_zeroed (h : Nat) (f : Hub → Hub) (s : State) : (modHub h f s).zeroed = s.zeroed := rfl
@[simp] theorem modHub_hostMem (h : Nat) (f : Hub → Hub) (s : State) : (modHub h f s).hostMem = s.hostMem := rfl
@[simp] theorem modHub_outbox (h : Nat) (f : Hub → Hub) (s : State) : (modHub h f s).outbox = s.outbox := rfl
@[simp] theorem modHub_frees (h : Nat) (f : Hub → Hub) (s : State) : (modHub h f s).frees = s.frees := rfl
@[simp] theorem modHub_pending (h : Nat) (f : Hub → Hub) (s : State) : (modHub h f s).pending = s.pending := rfl

/-! ## modCore -/

@[simp] theorem modCore_clk (g : Nat) (f : Core → Core) (s : State) : (modCore g f s).clk = s.clk := rfl
@[simp] theorem modCore_corrN (g : Nat) (f : Core → Core) (s : State) : (modCore g f s).corrN = s.corrN := rfl
@[simp] theorem modCore_corrS (g : Nat) (f : Core → Core) (s : State) : (modCore g f s).corrS = s.corrS := rfl
@[simp] theorem modCore_fuse (g : Nat) (f : Core → Core) (s : State) : (modCore g f s).fuse = s.fuse := rfl
@[simp] theorem modCore_dies (g : Nat) (f : Core → Core) (s : State) : (modCore g f s).dies = s.dies := rfl
@[simp] theorem modCore_hubs (g : Nat) (f : Core → Core) (s : State) : (modCore g f s).hubs = s.hubs := rfl
@[simp] theorem modCore_sep (g : Nat) (f : Core → Core) (s : State) : (modCore g f s).sep = s.sep := rfl
@[simp] theorem modCore_regs (g : Nat) (f : Core → Core) (s : State) : (modCore g f s).regs = s.regs := rfl
@[simp] theorem modCore_eff (g : Nat) (f : Core → Core) (s : State) : (modCore g f s).eff = s.eff := rfl
@[simp] theorem modCore_latch (g : Nat) (f : Core → Core) (s : State) : (modCore g f s).latch = s.latch := rfl
@[simp] theorem modCore_evr (g : Nat) (f : Core → Core) (s : State) : (modCore g f s).evr = s.evr := rfl
@[simp] theorem modCore_hif (g : Nat) (f : Core → Core) (s : State) : (modCore g f s).hif = s.hif := rfl
@[simp] theorem modCore_prt (g : Nat) (f : Core → Core) (s : State) : (modCore g f s).prt = s.prt := rfl
@[simp] theorem modCore_cores (g : Nat) (f : Core → Core) (s : State) : (modCore g f s).cores =
    tabMod dCore s.cores g f := rfl
@[simp] theorem modCore_links (g : Nat) (f : Core → Core) (s : State) : (modCore g f s).links = s.links := rfl
@[simp] theorem modCore_e2e (g : Nat) (f : Core → Core) (s : State) : (modCore g f s).e2e = s.e2e := rfl
@[simp] theorem modCore_ptn (g : Nat) (f : Core → Core) (s : State) : (modCore g f s).ptn = s.ptn := rfl
@[simp] theorem modCore_drc (g : Nat) (f : Core → Core) (s : State) : (modCore g f s).drc = s.drc := rfl
@[simp] theorem modCore_ing (g : Nat) (f : Core → Core) (s : State) : (modCore g f s).ing = s.ing := rfl
@[simp] theorem modCore_sdl (g : Nat) (f : Core → Core) (s : State) : (modCore g f s).sdl = s.sdl := rfl
@[simp] theorem modCore_fus (g : Nat) (f : Core → Core) (s : State) : (modCore g f s).fus = s.fus := rfl
@[simp] theorem modCore_isl (g : Nat) (f : Core → Core) (s : State) : (modCore g f s).isl = s.isl := rfl
@[simp] theorem modCore_records (g : Nat) (f : Core → Core) (s : State) : (modCore g f s).records = s.records := rfl
@[simp] theorem modCore_inj (g : Nat) (f : Core → Core) (s : State) : (modCore g f s).inj = s.inj := rfl
@[simp] theorem modCore_sec (g : Nat) (f : Core → Core) (s : State) : (modCore g f s).sec = s.sec := rfl
@[simp] theorem modCore_pwr (g : Nat) (f : Core → Core) (s : State) : (modCore g f s).pwr = s.pwr := rfl
@[simp] theorem modCore_dram (g : Nat) (f : Core → Core) (s : State) : (modCore g f s).dram = s.dram := rfl
@[simp] theorem modCore_lines (g : Nat) (f : Core → Core) (s : State) : (modCore g f s).lines = s.lines := rfl
@[simp] theorem modCore_zeroed (g : Nat) (f : Core → Core) (s : State) : (modCore g f s).zeroed = s.zeroed := rfl
@[simp] theorem modCore_hostMem (g : Nat) (f : Core → Core) (s : State) : (modCore g f s).hostMem = s.hostMem := rfl
@[simp] theorem modCore_outbox (g : Nat) (f : Core → Core) (s : State) : (modCore g f s).outbox = s.outbox := rfl
@[simp] theorem modCore_frees (g : Nat) (f : Core → Core) (s : State) : (modCore g f s).frees = s.frees := rfl
@[simp] theorem modCore_pending (g : Nat) (f : Core → Core) (s : State) : (modCore g f s).pending = s.pending := rfl

/-! ## modLink -/

@[simp] theorem modLink_clk (k : Nat) (f : Link → Link) (s : State) : (modLink k f s).clk = s.clk := rfl
@[simp] theorem modLink_corrN (k : Nat) (f : Link → Link) (s : State) : (modLink k f s).corrN = s.corrN := rfl
@[simp] theorem modLink_corrS (k : Nat) (f : Link → Link) (s : State) : (modLink k f s).corrS = s.corrS := rfl
@[simp] theorem modLink_fuse (k : Nat) (f : Link → Link) (s : State) : (modLink k f s).fuse = s.fuse := rfl
@[simp] theorem modLink_dies (k : Nat) (f : Link → Link) (s : State) : (modLink k f s).dies = s.dies := rfl
@[simp] theorem modLink_hubs (k : Nat) (f : Link → Link) (s : State) : (modLink k f s).hubs = s.hubs := rfl
@[simp] theorem modLink_sep (k : Nat) (f : Link → Link) (s : State) : (modLink k f s).sep = s.sep := rfl
@[simp] theorem modLink_regs (k : Nat) (f : Link → Link) (s : State) : (modLink k f s).regs = s.regs := rfl
@[simp] theorem modLink_eff (k : Nat) (f : Link → Link) (s : State) : (modLink k f s).eff = s.eff := rfl
@[simp] theorem modLink_latch (k : Nat) (f : Link → Link) (s : State) : (modLink k f s).latch = s.latch := rfl
@[simp] theorem modLink_evr (k : Nat) (f : Link → Link) (s : State) : (modLink k f s).evr = s.evr := rfl
@[simp] theorem modLink_hif (k : Nat) (f : Link → Link) (s : State) : (modLink k f s).hif = s.hif := rfl
@[simp] theorem modLink_prt (k : Nat) (f : Link → Link) (s : State) : (modLink k f s).prt = s.prt := rfl
@[simp] theorem modLink_cores (k : Nat) (f : Link → Link) (s : State) : (modLink k f s).cores = s.cores := rfl
@[simp] theorem modLink_links (k : Nat) (f : Link → Link) (s : State) : (modLink k f s).links =
    tabMod dLink s.links k f := rfl
@[simp] theorem modLink_e2e (k : Nat) (f : Link → Link) (s : State) : (modLink k f s).e2e = s.e2e := rfl
@[simp] theorem modLink_ptn (k : Nat) (f : Link → Link) (s : State) : (modLink k f s).ptn = s.ptn := rfl
@[simp] theorem modLink_drc (k : Nat) (f : Link → Link) (s : State) : (modLink k f s).drc = s.drc := rfl
@[simp] theorem modLink_ing (k : Nat) (f : Link → Link) (s : State) : (modLink k f s).ing = s.ing := rfl
@[simp] theorem modLink_sdl (k : Nat) (f : Link → Link) (s : State) : (modLink k f s).sdl = s.sdl := rfl
@[simp] theorem modLink_fus (k : Nat) (f : Link → Link) (s : State) : (modLink k f s).fus = s.fus := rfl
@[simp] theorem modLink_isl (k : Nat) (f : Link → Link) (s : State) : (modLink k f s).isl = s.isl := rfl
@[simp] theorem modLink_records (k : Nat) (f : Link → Link) (s : State) : (modLink k f s).records = s.records := rfl
@[simp] theorem modLink_inj (k : Nat) (f : Link → Link) (s : State) : (modLink k f s).inj = s.inj := rfl
@[simp] theorem modLink_sec (k : Nat) (f : Link → Link) (s : State) : (modLink k f s).sec = s.sec := rfl
@[simp] theorem modLink_pwr (k : Nat) (f : Link → Link) (s : State) : (modLink k f s).pwr = s.pwr := rfl
@[simp] theorem modLink_dram (k : Nat) (f : Link → Link) (s : State) : (modLink k f s).dram = s.dram := rfl
@[simp] theorem modLink_lines (k : Nat) (f : Link → Link) (s : State) : (modLink k f s).lines = s.lines := rfl
@[simp] theorem modLink_zeroed (k : Nat) (f : Link → Link) (s : State) : (modLink k f s).zeroed = s.zeroed := rfl
@[simp] theorem modLink_hostMem (k : Nat) (f : Link → Link) (s : State) : (modLink k f s).hostMem = s.hostMem := rfl
@[simp] theorem modLink_outbox (k : Nat) (f : Link → Link) (s : State) : (modLink k f s).outbox = s.outbox := rfl
@[simp] theorem modLink_frees (k : Nat) (f : Link → Link) (s : State) : (modLink k f s).frees = s.frees := rfl
@[simp] theorem modLink_pending (k : Nat) (f : Link → Link) (s : State) : (modLink k f s).pending = s.pending := rfl

/-! ## modPtn -/

@[simp] theorem modPtn_clk (h : Nat) (f : Ptn → Ptn) (s : State) : (modPtn h f s).clk = s.clk := rfl
@[simp] theorem modPtn_corrN (h : Nat) (f : Ptn → Ptn) (s : State) : (modPtn h f s).corrN = s.corrN := rfl
@[simp] theorem modPtn_corrS (h : Nat) (f : Ptn → Ptn) (s : State) : (modPtn h f s).corrS = s.corrS := rfl
@[simp] theorem modPtn_fuse (h : Nat) (f : Ptn → Ptn) (s : State) : (modPtn h f s).fuse = s.fuse := rfl
@[simp] theorem modPtn_dies (h : Nat) (f : Ptn → Ptn) (s : State) : (modPtn h f s).dies = s.dies := rfl
@[simp] theorem modPtn_hubs (h : Nat) (f : Ptn → Ptn) (s : State) : (modPtn h f s).hubs = s.hubs := rfl
@[simp] theorem modPtn_sep (h : Nat) (f : Ptn → Ptn) (s : State) : (modPtn h f s).sep = s.sep := rfl
@[simp] theorem modPtn_regs (h : Nat) (f : Ptn → Ptn) (s : State) : (modPtn h f s).regs = s.regs := rfl
@[simp] theorem modPtn_eff (h : Nat) (f : Ptn → Ptn) (s : State) : (modPtn h f s).eff = s.eff := rfl
@[simp] theorem modPtn_latch (h : Nat) (f : Ptn → Ptn) (s : State) : (modPtn h f s).latch = s.latch := rfl
@[simp] theorem modPtn_evr (h : Nat) (f : Ptn → Ptn) (s : State) : (modPtn h f s).evr = s.evr := rfl
@[simp] theorem modPtn_hif (h : Nat) (f : Ptn → Ptn) (s : State) : (modPtn h f s).hif = s.hif := rfl
@[simp] theorem modPtn_prt (h : Nat) (f : Ptn → Ptn) (s : State) : (modPtn h f s).prt = s.prt := rfl
@[simp] theorem modPtn_cores (h : Nat) (f : Ptn → Ptn) (s : State) : (modPtn h f s).cores = s.cores := rfl
@[simp] theorem modPtn_links (h : Nat) (f : Ptn → Ptn) (s : State) : (modPtn h f s).links = s.links := rfl
@[simp] theorem modPtn_e2e (h : Nat) (f : Ptn → Ptn) (s : State) : (modPtn h f s).e2e = s.e2e := rfl
@[simp] theorem modPtn_ptn (h : Nat) (f : Ptn → Ptn) (s : State) : (modPtn h f s).ptn =
    tabMod dPtn s.ptn h f := rfl
@[simp] theorem modPtn_drc (h : Nat) (f : Ptn → Ptn) (s : State) : (modPtn h f s).drc = s.drc := rfl
@[simp] theorem modPtn_ing (h : Nat) (f : Ptn → Ptn) (s : State) : (modPtn h f s).ing = s.ing := rfl
@[simp] theorem modPtn_sdl (h : Nat) (f : Ptn → Ptn) (s : State) : (modPtn h f s).sdl = s.sdl := rfl
@[simp] theorem modPtn_fus (h : Nat) (f : Ptn → Ptn) (s : State) : (modPtn h f s).fus = s.fus := rfl
@[simp] theorem modPtn_isl (h : Nat) (f : Ptn → Ptn) (s : State) : (modPtn h f s).isl = s.isl := rfl
@[simp] theorem modPtn_records (h : Nat) (f : Ptn → Ptn) (s : State) : (modPtn h f s).records = s.records := rfl
@[simp] theorem modPtn_inj (h : Nat) (f : Ptn → Ptn) (s : State) : (modPtn h f s).inj = s.inj := rfl
@[simp] theorem modPtn_sec (h : Nat) (f : Ptn → Ptn) (s : State) : (modPtn h f s).sec = s.sec := rfl
@[simp] theorem modPtn_pwr (h : Nat) (f : Ptn → Ptn) (s : State) : (modPtn h f s).pwr = s.pwr := rfl
@[simp] theorem modPtn_dram (h : Nat) (f : Ptn → Ptn) (s : State) : (modPtn h f s).dram = s.dram := rfl
@[simp] theorem modPtn_lines (h : Nat) (f : Ptn → Ptn) (s : State) : (modPtn h f s).lines = s.lines := rfl
@[simp] theorem modPtn_zeroed (h : Nat) (f : Ptn → Ptn) (s : State) : (modPtn h f s).zeroed = s.zeroed := rfl
@[simp] theorem modPtn_hostMem (h : Nat) (f : Ptn → Ptn) (s : State) : (modPtn h f s).hostMem = s.hostMem := rfl
@[simp] theorem modPtn_outbox (h : Nat) (f : Ptn → Ptn) (s : State) : (modPtn h f s).outbox = s.outbox := rfl
@[simp] theorem modPtn_frees (h : Nat) (f : Ptn → Ptn) (s : State) : (modPtn h f s).frees = s.frees := rfl
@[simp] theorem modPtn_pending (h : Nat) (f : Ptn → Ptn) (s : State) : (modPtn h f s).pending = s.pending := rfl

/-! ## modDrc -/

@[simp] theorem modDrc_clk (h : Nat) (f : Drc → Drc) (s : State) : (modDrc h f s).clk = s.clk := rfl
@[simp] theorem modDrc_corrN (h : Nat) (f : Drc → Drc) (s : State) : (modDrc h f s).corrN = s.corrN := rfl
@[simp] theorem modDrc_corrS (h : Nat) (f : Drc → Drc) (s : State) : (modDrc h f s).corrS = s.corrS := rfl
@[simp] theorem modDrc_fuse (h : Nat) (f : Drc → Drc) (s : State) : (modDrc h f s).fuse = s.fuse := rfl
@[simp] theorem modDrc_dies (h : Nat) (f : Drc → Drc) (s : State) : (modDrc h f s).dies = s.dies := rfl
@[simp] theorem modDrc_hubs (h : Nat) (f : Drc → Drc) (s : State) : (modDrc h f s).hubs = s.hubs := rfl
@[simp] theorem modDrc_sep (h : Nat) (f : Drc → Drc) (s : State) : (modDrc h f s).sep = s.sep := rfl
@[simp] theorem modDrc_regs (h : Nat) (f : Drc → Drc) (s : State) : (modDrc h f s).regs = s.regs := rfl
@[simp] theorem modDrc_eff (h : Nat) (f : Drc → Drc) (s : State) : (modDrc h f s).eff = s.eff := rfl
@[simp] theorem modDrc_latch (h : Nat) (f : Drc → Drc) (s : State) : (modDrc h f s).latch = s.latch := rfl
@[simp] theorem modDrc_evr (h : Nat) (f : Drc → Drc) (s : State) : (modDrc h f s).evr = s.evr := rfl
@[simp] theorem modDrc_hif (h : Nat) (f : Drc → Drc) (s : State) : (modDrc h f s).hif = s.hif := rfl
@[simp] theorem modDrc_prt (h : Nat) (f : Drc → Drc) (s : State) : (modDrc h f s).prt = s.prt := rfl
@[simp] theorem modDrc_cores (h : Nat) (f : Drc → Drc) (s : State) : (modDrc h f s).cores = s.cores := rfl
@[simp] theorem modDrc_links (h : Nat) (f : Drc → Drc) (s : State) : (modDrc h f s).links = s.links := rfl
@[simp] theorem modDrc_e2e (h : Nat) (f : Drc → Drc) (s : State) : (modDrc h f s).e2e = s.e2e := rfl
@[simp] theorem modDrc_ptn (h : Nat) (f : Drc → Drc) (s : State) : (modDrc h f s).ptn = s.ptn := rfl
@[simp] theorem modDrc_drc (h : Nat) (f : Drc → Drc) (s : State) : (modDrc h f s).drc =
    tabMod dDrc s.drc h f := rfl
@[simp] theorem modDrc_ing (h : Nat) (f : Drc → Drc) (s : State) : (modDrc h f s).ing = s.ing := rfl
@[simp] theorem modDrc_sdl (h : Nat) (f : Drc → Drc) (s : State) : (modDrc h f s).sdl = s.sdl := rfl
@[simp] theorem modDrc_fus (h : Nat) (f : Drc → Drc) (s : State) : (modDrc h f s).fus = s.fus := rfl
@[simp] theorem modDrc_isl (h : Nat) (f : Drc → Drc) (s : State) : (modDrc h f s).isl = s.isl := rfl
@[simp] theorem modDrc_records (h : Nat) (f : Drc → Drc) (s : State) : (modDrc h f s).records = s.records := rfl
@[simp] theorem modDrc_inj (h : Nat) (f : Drc → Drc) (s : State) : (modDrc h f s).inj = s.inj := rfl
@[simp] theorem modDrc_sec (h : Nat) (f : Drc → Drc) (s : State) : (modDrc h f s).sec = s.sec := rfl
@[simp] theorem modDrc_pwr (h : Nat) (f : Drc → Drc) (s : State) : (modDrc h f s).pwr = s.pwr := rfl
@[simp] theorem modDrc_dram (h : Nat) (f : Drc → Drc) (s : State) : (modDrc h f s).dram = s.dram := rfl
@[simp] theorem modDrc_lines (h : Nat) (f : Drc → Drc) (s : State) : (modDrc h f s).lines = s.lines := rfl
@[simp] theorem modDrc_zeroed (h : Nat) (f : Drc → Drc) (s : State) : (modDrc h f s).zeroed = s.zeroed := rfl
@[simp] theorem modDrc_hostMem (h : Nat) (f : Drc → Drc) (s : State) : (modDrc h f s).hostMem = s.hostMem := rfl
@[simp] theorem modDrc_outbox (h : Nat) (f : Drc → Drc) (s : State) : (modDrc h f s).outbox = s.outbox := rfl
@[simp] theorem modDrc_frees (h : Nat) (f : Drc → Drc) (s : State) : (modDrc h f s).frees = s.frees := rfl
@[simp] theorem modDrc_pending (h : Nat) (f : Drc → Drc) (s : State) : (modDrc h f s).pending = s.pending := rfl

/-! ## modIsl -/

@[simp] theorem modIsl_clk (i : Nat) (f : Island → Island) (s : State) : (modIsl i f s).clk = s.clk := rfl
@[simp] theorem modIsl_corrN (i : Nat) (f : Island → Island) (s : State) : (modIsl i f s).corrN = s.corrN := rfl
@[simp] theorem modIsl_corrS (i : Nat) (f : Island → Island) (s : State) : (modIsl i f s).corrS = s.corrS := rfl
@[simp] theorem modIsl_fuse (i : Nat) (f : Island → Island) (s : State) : (modIsl i f s).fuse = s.fuse := rfl
@[simp] theorem modIsl_dies (i : Nat) (f : Island → Island) (s : State) : (modIsl i f s).dies = s.dies := rfl
@[simp] theorem modIsl_hubs (i : Nat) (f : Island → Island) (s : State) : (modIsl i f s).hubs = s.hubs := rfl
@[simp] theorem modIsl_sep (i : Nat) (f : Island → Island) (s : State) : (modIsl i f s).sep = s.sep := rfl
@[simp] theorem modIsl_regs (i : Nat) (f : Island → Island) (s : State) : (modIsl i f s).regs = s.regs := rfl
@[simp] theorem modIsl_eff (i : Nat) (f : Island → Island) (s : State) : (modIsl i f s).eff = s.eff := rfl
@[simp] theorem modIsl_latch (i : Nat) (f : Island → Island) (s : State) : (modIsl i f s).latch = s.latch := rfl
@[simp] theorem modIsl_evr (i : Nat) (f : Island → Island) (s : State) : (modIsl i f s).evr = s.evr := rfl
@[simp] theorem modIsl_hif (i : Nat) (f : Island → Island) (s : State) : (modIsl i f s).hif = s.hif := rfl
@[simp] theorem modIsl_prt (i : Nat) (f : Island → Island) (s : State) : (modIsl i f s).prt = s.prt := rfl
@[simp] theorem modIsl_cores (i : Nat) (f : Island → Island) (s : State) : (modIsl i f s).cores = s.cores := rfl
@[simp] theorem modIsl_links (i : Nat) (f : Island → Island) (s : State) : (modIsl i f s).links = s.links := rfl
@[simp] theorem modIsl_e2e (i : Nat) (f : Island → Island) (s : State) : (modIsl i f s).e2e = s.e2e := rfl
@[simp] theorem modIsl_ptn (i : Nat) (f : Island → Island) (s : State) : (modIsl i f s).ptn = s.ptn := rfl
@[simp] theorem modIsl_drc (i : Nat) (f : Island → Island) (s : State) : (modIsl i f s).drc = s.drc := rfl
@[simp] theorem modIsl_ing (i : Nat) (f : Island → Island) (s : State) : (modIsl i f s).ing = s.ing := rfl
@[simp] theorem modIsl_sdl (i : Nat) (f : Island → Island) (s : State) : (modIsl i f s).sdl = s.sdl := rfl
@[simp] theorem modIsl_fus (i : Nat) (f : Island → Island) (s : State) : (modIsl i f s).fus = s.fus := rfl
@[simp] theorem modIsl_isl (i : Nat) (f : Island → Island) (s : State) : (modIsl i f s).isl =
    tabMod dIsl s.isl i f := rfl
@[simp] theorem modIsl_records (i : Nat) (f : Island → Island) (s : State) : (modIsl i f s).records = s.records := rfl
@[simp] theorem modIsl_inj (i : Nat) (f : Island → Island) (s : State) : (modIsl i f s).inj = s.inj := rfl
@[simp] theorem modIsl_sec (i : Nat) (f : Island → Island) (s : State) : (modIsl i f s).sec = s.sec := rfl
@[simp] theorem modIsl_pwr (i : Nat) (f : Island → Island) (s : State) : (modIsl i f s).pwr = s.pwr := rfl
@[simp] theorem modIsl_dram (i : Nat) (f : Island → Island) (s : State) : (modIsl i f s).dram = s.dram := rfl
@[simp] theorem modIsl_lines (i : Nat) (f : Island → Island) (s : State) : (modIsl i f s).lines = s.lines := rfl
@[simp] theorem modIsl_zeroed (i : Nat) (f : Island → Island) (s : State) : (modIsl i f s).zeroed = s.zeroed := rfl
@[simp] theorem modIsl_hostMem (i : Nat) (f : Island → Island) (s : State) : (modIsl i f s).hostMem = s.hostMem := rfl
@[simp] theorem modIsl_outbox (i : Nat) (f : Island → Island) (s : State) : (modIsl i f s).outbox = s.outbox := rfl
@[simp] theorem modIsl_frees (i : Nat) (f : Island → Island) (s : State) : (modIsl i f s).frees = s.frees := rfl
@[simp] theorem modIsl_pending (i : Nat) (f : Island → Island) (s : State) : (modIsl i f s).pending = s.pending := rfl

/-! ## modIng -/

@[simp] theorem modIng_clk (h : Nat) (f : Ing → Ing) (s : State) : (modIng h f s).clk = s.clk := rfl
@[simp] theorem modIng_corrN (h : Nat) (f : Ing → Ing) (s : State) : (modIng h f s).corrN = s.corrN := rfl
@[simp] theorem modIng_corrS (h : Nat) (f : Ing → Ing) (s : State) : (modIng h f s).corrS = s.corrS := rfl
@[simp] theorem modIng_fuse (h : Nat) (f : Ing → Ing) (s : State) : (modIng h f s).fuse = s.fuse := rfl
@[simp] theorem modIng_dies (h : Nat) (f : Ing → Ing) (s : State) : (modIng h f s).dies = s.dies := rfl
@[simp] theorem modIng_hubs (h : Nat) (f : Ing → Ing) (s : State) : (modIng h f s).hubs = s.hubs := rfl
@[simp] theorem modIng_sep (h : Nat) (f : Ing → Ing) (s : State) : (modIng h f s).sep = s.sep := rfl
@[simp] theorem modIng_regs (h : Nat) (f : Ing → Ing) (s : State) : (modIng h f s).regs = s.regs := rfl
@[simp] theorem modIng_eff (h : Nat) (f : Ing → Ing) (s : State) : (modIng h f s).eff = s.eff := rfl
@[simp] theorem modIng_latch (h : Nat) (f : Ing → Ing) (s : State) : (modIng h f s).latch = s.latch := rfl
@[simp] theorem modIng_evr (h : Nat) (f : Ing → Ing) (s : State) : (modIng h f s).evr = s.evr := rfl
@[simp] theorem modIng_hif (h : Nat) (f : Ing → Ing) (s : State) : (modIng h f s).hif = s.hif := rfl
@[simp] theorem modIng_prt (h : Nat) (f : Ing → Ing) (s : State) : (modIng h f s).prt = s.prt := rfl
@[simp] theorem modIng_cores (h : Nat) (f : Ing → Ing) (s : State) : (modIng h f s).cores = s.cores := rfl
@[simp] theorem modIng_links (h : Nat) (f : Ing → Ing) (s : State) : (modIng h f s).links = s.links := rfl
@[simp] theorem modIng_e2e (h : Nat) (f : Ing → Ing) (s : State) : (modIng h f s).e2e = s.e2e := rfl
@[simp] theorem modIng_ptn (h : Nat) (f : Ing → Ing) (s : State) : (modIng h f s).ptn = s.ptn := rfl
@[simp] theorem modIng_drc (h : Nat) (f : Ing → Ing) (s : State) : (modIng h f s).drc = s.drc := rfl
@[simp] theorem modIng_ing (h : Nat) (f : Ing → Ing) (s : State) : (modIng h f s).ing =
    tabMod dIng s.ing h f := rfl
@[simp] theorem modIng_sdl (h : Nat) (f : Ing → Ing) (s : State) : (modIng h f s).sdl = s.sdl := rfl
@[simp] theorem modIng_fus (h : Nat) (f : Ing → Ing) (s : State) : (modIng h f s).fus = s.fus := rfl
@[simp] theorem modIng_isl (h : Nat) (f : Ing → Ing) (s : State) : (modIng h f s).isl = s.isl := rfl
@[simp] theorem modIng_records (h : Nat) (f : Ing → Ing) (s : State) : (modIng h f s).records = s.records := rfl
@[simp] theorem modIng_inj (h : Nat) (f : Ing → Ing) (s : State) : (modIng h f s).inj = s.inj := rfl
@[simp] theorem modIng_sec (h : Nat) (f : Ing → Ing) (s : State) : (modIng h f s).sec = s.sec := rfl
@[simp] theorem modIng_pwr (h : Nat) (f : Ing → Ing) (s : State) : (modIng h f s).pwr = s.pwr := rfl
@[simp] theorem modIng_dram (h : Nat) (f : Ing → Ing) (s : State) : (modIng h f s).dram = s.dram := rfl
@[simp] theorem modIng_lines (h : Nat) (f : Ing → Ing) (s : State) : (modIng h f s).lines = s.lines := rfl
@[simp] theorem modIng_zeroed (h : Nat) (f : Ing → Ing) (s : State) : (modIng h f s).zeroed = s.zeroed := rfl
@[simp] theorem modIng_hostMem (h : Nat) (f : Ing → Ing) (s : State) : (modIng h f s).hostMem = s.hostMem := rfl
@[simp] theorem modIng_outbox (h : Nat) (f : Ing → Ing) (s : State) : (modIng h f s).outbox = s.outbox := rfl
@[simp] theorem modIng_frees (h : Nat) (f : Ing → Ing) (s : State) : (modIng h f s).frees = s.frees := rfl
@[simp] theorem modIng_pending (h : Nat) (f : Ing → Ing) (s : State) : (modIng h f s).pending = s.pending := rfl

/-! ## modSdl -/

@[simp] theorem modSdl_clk (h : Nat) (f : Sdl → Sdl) (s : State) : (modSdl h f s).clk = s.clk := rfl
@[simp] theorem modSdl_corrN (h : Nat) (f : Sdl → Sdl) (s : State) : (modSdl h f s).corrN = s.corrN := rfl
@[simp] theorem modSdl_corrS (h : Nat) (f : Sdl → Sdl) (s : State) : (modSdl h f s).corrS = s.corrS := rfl
@[simp] theorem modSdl_fuse (h : Nat) (f : Sdl → Sdl) (s : State) : (modSdl h f s).fuse = s.fuse := rfl
@[simp] theorem modSdl_dies (h : Nat) (f : Sdl → Sdl) (s : State) : (modSdl h f s).dies = s.dies := rfl
@[simp] theorem modSdl_hubs (h : Nat) (f : Sdl → Sdl) (s : State) : (modSdl h f s).hubs = s.hubs := rfl
@[simp] theorem modSdl_sep (h : Nat) (f : Sdl → Sdl) (s : State) : (modSdl h f s).sep = s.sep := rfl
@[simp] theorem modSdl_regs (h : Nat) (f : Sdl → Sdl) (s : State) : (modSdl h f s).regs = s.regs := rfl
@[simp] theorem modSdl_eff (h : Nat) (f : Sdl → Sdl) (s : State) : (modSdl h f s).eff = s.eff := rfl
@[simp] theorem modSdl_latch (h : Nat) (f : Sdl → Sdl) (s : State) : (modSdl h f s).latch = s.latch := rfl
@[simp] theorem modSdl_evr (h : Nat) (f : Sdl → Sdl) (s : State) : (modSdl h f s).evr = s.evr := rfl
@[simp] theorem modSdl_hif (h : Nat) (f : Sdl → Sdl) (s : State) : (modSdl h f s).hif = s.hif := rfl
@[simp] theorem modSdl_prt (h : Nat) (f : Sdl → Sdl) (s : State) : (modSdl h f s).prt = s.prt := rfl
@[simp] theorem modSdl_cores (h : Nat) (f : Sdl → Sdl) (s : State) : (modSdl h f s).cores = s.cores := rfl
@[simp] theorem modSdl_links (h : Nat) (f : Sdl → Sdl) (s : State) : (modSdl h f s).links = s.links := rfl
@[simp] theorem modSdl_e2e (h : Nat) (f : Sdl → Sdl) (s : State) : (modSdl h f s).e2e = s.e2e := rfl
@[simp] theorem modSdl_ptn (h : Nat) (f : Sdl → Sdl) (s : State) : (modSdl h f s).ptn = s.ptn := rfl
@[simp] theorem modSdl_drc (h : Nat) (f : Sdl → Sdl) (s : State) : (modSdl h f s).drc = s.drc := rfl
@[simp] theorem modSdl_ing (h : Nat) (f : Sdl → Sdl) (s : State) : (modSdl h f s).ing = s.ing := rfl
@[simp] theorem modSdl_sdl (h : Nat) (f : Sdl → Sdl) (s : State) : (modSdl h f s).sdl =
    tabMod dSdl s.sdl h f := rfl
@[simp] theorem modSdl_fus (h : Nat) (f : Sdl → Sdl) (s : State) : (modSdl h f s).fus = s.fus := rfl
@[simp] theorem modSdl_isl (h : Nat) (f : Sdl → Sdl) (s : State) : (modSdl h f s).isl = s.isl := rfl
@[simp] theorem modSdl_records (h : Nat) (f : Sdl → Sdl) (s : State) : (modSdl h f s).records = s.records := rfl
@[simp] theorem modSdl_inj (h : Nat) (f : Sdl → Sdl) (s : State) : (modSdl h f s).inj = s.inj := rfl
@[simp] theorem modSdl_sec (h : Nat) (f : Sdl → Sdl) (s : State) : (modSdl h f s).sec = s.sec := rfl
@[simp] theorem modSdl_pwr (h : Nat) (f : Sdl → Sdl) (s : State) : (modSdl h f s).pwr = s.pwr := rfl
@[simp] theorem modSdl_dram (h : Nat) (f : Sdl → Sdl) (s : State) : (modSdl h f s).dram = s.dram := rfl
@[simp] theorem modSdl_lines (h : Nat) (f : Sdl → Sdl) (s : State) : (modSdl h f s).lines = s.lines := rfl
@[simp] theorem modSdl_zeroed (h : Nat) (f : Sdl → Sdl) (s : State) : (modSdl h f s).zeroed = s.zeroed := rfl
@[simp] theorem modSdl_hostMem (h : Nat) (f : Sdl → Sdl) (s : State) : (modSdl h f s).hostMem = s.hostMem := rfl
@[simp] theorem modSdl_outbox (h : Nat) (f : Sdl → Sdl) (s : State) : (modSdl h f s).outbox = s.outbox := rfl
@[simp] theorem modSdl_frees (h : Nat) (f : Sdl → Sdl) (s : State) : (modSdl h f s).frees = s.frees := rfl
@[simp] theorem modSdl_pending (h : Nat) (f : Sdl → Sdl) (s : State) : (modSdl h f s).pending = s.pending := rfl

/-! ## modFus -/

@[simp] theorem modFus_clk (h : Nat) (f : Fus → Fus) (s : State) : (modFus h f s).clk = s.clk := rfl
@[simp] theorem modFus_corrN (h : Nat) (f : Fus → Fus) (s : State) : (modFus h f s).corrN = s.corrN := rfl
@[simp] theorem modFus_corrS (h : Nat) (f : Fus → Fus) (s : State) : (modFus h f s).corrS = s.corrS := rfl
@[simp] theorem modFus_fuse (h : Nat) (f : Fus → Fus) (s : State) : (modFus h f s).fuse = s.fuse := rfl
@[simp] theorem modFus_dies (h : Nat) (f : Fus → Fus) (s : State) : (modFus h f s).dies = s.dies := rfl
@[simp] theorem modFus_hubs (h : Nat) (f : Fus → Fus) (s : State) : (modFus h f s).hubs = s.hubs := rfl
@[simp] theorem modFus_sep (h : Nat) (f : Fus → Fus) (s : State) : (modFus h f s).sep = s.sep := rfl
@[simp] theorem modFus_regs (h : Nat) (f : Fus → Fus) (s : State) : (modFus h f s).regs = s.regs := rfl
@[simp] theorem modFus_eff (h : Nat) (f : Fus → Fus) (s : State) : (modFus h f s).eff = s.eff := rfl
@[simp] theorem modFus_latch (h : Nat) (f : Fus → Fus) (s : State) : (modFus h f s).latch = s.latch := rfl
@[simp] theorem modFus_evr (h : Nat) (f : Fus → Fus) (s : State) : (modFus h f s).evr = s.evr := rfl
@[simp] theorem modFus_hif (h : Nat) (f : Fus → Fus) (s : State) : (modFus h f s).hif = s.hif := rfl
@[simp] theorem modFus_prt (h : Nat) (f : Fus → Fus) (s : State) : (modFus h f s).prt = s.prt := rfl
@[simp] theorem modFus_cores (h : Nat) (f : Fus → Fus) (s : State) : (modFus h f s).cores = s.cores := rfl
@[simp] theorem modFus_links (h : Nat) (f : Fus → Fus) (s : State) : (modFus h f s).links = s.links := rfl
@[simp] theorem modFus_e2e (h : Nat) (f : Fus → Fus) (s : State) : (modFus h f s).e2e = s.e2e := rfl
@[simp] theorem modFus_ptn (h : Nat) (f : Fus → Fus) (s : State) : (modFus h f s).ptn = s.ptn := rfl
@[simp] theorem modFus_drc (h : Nat) (f : Fus → Fus) (s : State) : (modFus h f s).drc = s.drc := rfl
@[simp] theorem modFus_ing (h : Nat) (f : Fus → Fus) (s : State) : (modFus h f s).ing = s.ing := rfl
@[simp] theorem modFus_sdl (h : Nat) (f : Fus → Fus) (s : State) : (modFus h f s).sdl = s.sdl := rfl
@[simp] theorem modFus_fus (h : Nat) (f : Fus → Fus) (s : State) : (modFus h f s).fus =
    tabMod dFus s.fus h f := rfl
@[simp] theorem modFus_isl (h : Nat) (f : Fus → Fus) (s : State) : (modFus h f s).isl = s.isl := rfl
@[simp] theorem modFus_records (h : Nat) (f : Fus → Fus) (s : State) : (modFus h f s).records = s.records := rfl
@[simp] theorem modFus_inj (h : Nat) (f : Fus → Fus) (s : State) : (modFus h f s).inj = s.inj := rfl
@[simp] theorem modFus_sec (h : Nat) (f : Fus → Fus) (s : State) : (modFus h f s).sec = s.sec := rfl
@[simp] theorem modFus_pwr (h : Nat) (f : Fus → Fus) (s : State) : (modFus h f s).pwr = s.pwr := rfl
@[simp] theorem modFus_dram (h : Nat) (f : Fus → Fus) (s : State) : (modFus h f s).dram = s.dram := rfl
@[simp] theorem modFus_lines (h : Nat) (f : Fus → Fus) (s : State) : (modFus h f s).lines = s.lines := rfl
@[simp] theorem modFus_zeroed (h : Nat) (f : Fus → Fus) (s : State) : (modFus h f s).zeroed = s.zeroed := rfl
@[simp] theorem modFus_hostMem (h : Nat) (f : Fus → Fus) (s : State) : (modFus h f s).hostMem = s.hostMem := rfl
@[simp] theorem modFus_outbox (h : Nat) (f : Fus → Fus) (s : State) : (modFus h f s).outbox = s.outbox := rfl
@[simp] theorem modFus_frees (h : Nat) (f : Fus → Fus) (s : State) : (modFus h f s).frees = s.frees := rfl
@[simp] theorem modFus_pending (h : Nat) (f : Fus → Fus) (s : State) : (modFus h f s).pending = s.pending := rfl

/-! ## modFn -/

@[simp] theorem modFn_clk (i : Nat) (f : Fn → Fn) (s : State) : (modFn i f s).clk = s.clk := rfl
@[simp] theorem modFn_corrN (i : Nat) (f : Fn → Fn) (s : State) : (modFn i f s).corrN = s.corrN := rfl
@[simp] theorem modFn_corrS (i : Nat) (f : Fn → Fn) (s : State) : (modFn i f s).corrS = s.corrS := rfl
@[simp] theorem modFn_fuse (i : Nat) (f : Fn → Fn) (s : State) : (modFn i f s).fuse = s.fuse := rfl
@[simp] theorem modFn_dies (i : Nat) (f : Fn → Fn) (s : State) : (modFn i f s).dies = s.dies := rfl
@[simp] theorem modFn_hubs (i : Nat) (f : Fn → Fn) (s : State) : (modFn i f s).hubs = s.hubs := rfl
@[simp] theorem modFn_sep (i : Nat) (f : Fn → Fn) (s : State) : (modFn i f s).sep = s.sep := rfl
@[simp] theorem modFn_regs (i : Nat) (f : Fn → Fn) (s : State) : (modFn i f s).regs = s.regs := rfl
@[simp] theorem modFn_eff (i : Nat) (f : Fn → Fn) (s : State) : (modFn i f s).eff = s.eff := rfl
@[simp] theorem modFn_latch (i : Nat) (f : Fn → Fn) (s : State) : (modFn i f s).latch = s.latch := rfl
@[simp] theorem modFn_evr (i : Nat) (f : Fn → Fn) (s : State) : (modFn i f s).evr = s.evr := rfl
@[simp] theorem modFn_hif (i : Nat) (f : Fn → Fn) (s : State) : (modFn i f s).hif =
    { s.hif with fns := tabMod dFn s.hif.fns i f } := rfl
@[simp] theorem modFn_prt (i : Nat) (f : Fn → Fn) (s : State) : (modFn i f s).prt = s.prt := rfl
@[simp] theorem modFn_cores (i : Nat) (f : Fn → Fn) (s : State) : (modFn i f s).cores = s.cores := rfl
@[simp] theorem modFn_links (i : Nat) (f : Fn → Fn) (s : State) : (modFn i f s).links = s.links := rfl
@[simp] theorem modFn_e2e (i : Nat) (f : Fn → Fn) (s : State) : (modFn i f s).e2e = s.e2e := rfl
@[simp] theorem modFn_ptn (i : Nat) (f : Fn → Fn) (s : State) : (modFn i f s).ptn = s.ptn := rfl
@[simp] theorem modFn_drc (i : Nat) (f : Fn → Fn) (s : State) : (modFn i f s).drc = s.drc := rfl
@[simp] theorem modFn_ing (i : Nat) (f : Fn → Fn) (s : State) : (modFn i f s).ing = s.ing := rfl
@[simp] theorem modFn_sdl (i : Nat) (f : Fn → Fn) (s : State) : (modFn i f s).sdl = s.sdl := rfl
@[simp] theorem modFn_fus (i : Nat) (f : Fn → Fn) (s : State) : (modFn i f s).fus = s.fus := rfl
@[simp] theorem modFn_isl (i : Nat) (f : Fn → Fn) (s : State) : (modFn i f s).isl = s.isl := rfl
@[simp] theorem modFn_records (i : Nat) (f : Fn → Fn) (s : State) : (modFn i f s).records = s.records := rfl
@[simp] theorem modFn_inj (i : Nat) (f : Fn → Fn) (s : State) : (modFn i f s).inj = s.inj := rfl
@[simp] theorem modFn_sec (i : Nat) (f : Fn → Fn) (s : State) : (modFn i f s).sec = s.sec := rfl
@[simp] theorem modFn_pwr (i : Nat) (f : Fn → Fn) (s : State) : (modFn i f s).pwr = s.pwr := rfl
@[simp] theorem modFn_dram (i : Nat) (f : Fn → Fn) (s : State) : (modFn i f s).dram = s.dram := rfl
@[simp] theorem modFn_lines (i : Nat) (f : Fn → Fn) (s : State) : (modFn i f s).lines = s.lines := rfl
@[simp] theorem modFn_zeroed (i : Nat) (f : Fn → Fn) (s : State) : (modFn i f s).zeroed = s.zeroed := rfl
@[simp] theorem modFn_hostMem (i : Nat) (f : Fn → Fn) (s : State) : (modFn i f s).hostMem = s.hostMem := rfl
@[simp] theorem modFn_outbox (i : Nat) (f : Fn → Fn) (s : State) : (modFn i f s).outbox = s.outbox := rfl
@[simp] theorem modFn_frees (i : Nat) (f : Fn → Fn) (s : State) : (modFn i f s).frees = s.frees := rfl
@[simp] theorem modFn_pending (i : Nat) (f : Fn → Fn) (s : State) : (modFn i f s).pending = s.pending := rfl

/-! ## modRing -/

@[simp] theorem modRing_clk (i r : Nat) (f : Ring → Ring) (s : State) : (modRing i r f s).clk = s.clk := rfl
@[simp] theorem modRing_corrN (i r : Nat) (f : Ring → Ring) (s : State) : (modRing i r f s).corrN = s.corrN := rfl
@[simp] theorem modRing_corrS (i r : Nat) (f : Ring → Ring) (s : State) : (modRing i r f s).corrS = s.corrS := rfl
@[simp] theorem modRing_fuse (i r : Nat) (f : Ring → Ring) (s : State) : (modRing i r f s).fuse = s.fuse := rfl
@[simp] theorem modRing_dies (i r : Nat) (f : Ring → Ring) (s : State) : (modRing i r f s).dies = s.dies := rfl
@[simp] theorem modRing_hubs (i r : Nat) (f : Ring → Ring) (s : State) : (modRing i r f s).hubs = s.hubs := rfl
@[simp] theorem modRing_sep (i r : Nat) (f : Ring → Ring) (s : State) : (modRing i r f s).sep = s.sep := rfl
@[simp] theorem modRing_regs (i r : Nat) (f : Ring → Ring) (s : State) : (modRing i r f s).regs = s.regs := rfl
@[simp] theorem modRing_eff (i r : Nat) (f : Ring → Ring) (s : State) : (modRing i r f s).eff = s.eff := rfl
@[simp] theorem modRing_latch (i r : Nat) (f : Ring → Ring) (s : State) : (modRing i r f s).latch = s.latch := rfl
@[simp] theorem modRing_evr (i r : Nat) (f : Ring → Ring) (s : State) : (modRing i r f s).evr = s.evr := rfl
@[simp] theorem modRing_hif (i r : Nat) (f : Ring → Ring) (s : State) : (modRing i r f s).hif =
    { s.hif with fns := tabMod dFn s.hif.fns i fun x => { x with rings := tabMod dRing x.rings r f } } := rfl
@[simp] theorem modRing_prt (i r : Nat) (f : Ring → Ring) (s : State) : (modRing i r f s).prt = s.prt := rfl
@[simp] theorem modRing_cores (i r : Nat) (f : Ring → Ring) (s : State) : (modRing i r f s).cores = s.cores := rfl
@[simp] theorem modRing_links (i r : Nat) (f : Ring → Ring) (s : State) : (modRing i r f s).links = s.links := rfl
@[simp] theorem modRing_e2e (i r : Nat) (f : Ring → Ring) (s : State) : (modRing i r f s).e2e = s.e2e := rfl
@[simp] theorem modRing_ptn (i r : Nat) (f : Ring → Ring) (s : State) : (modRing i r f s).ptn = s.ptn := rfl
@[simp] theorem modRing_drc (i r : Nat) (f : Ring → Ring) (s : State) : (modRing i r f s).drc = s.drc := rfl
@[simp] theorem modRing_ing (i r : Nat) (f : Ring → Ring) (s : State) : (modRing i r f s).ing = s.ing := rfl
@[simp] theorem modRing_sdl (i r : Nat) (f : Ring → Ring) (s : State) : (modRing i r f s).sdl = s.sdl := rfl
@[simp] theorem modRing_fus (i r : Nat) (f : Ring → Ring) (s : State) : (modRing i r f s).fus = s.fus := rfl
@[simp] theorem modRing_isl (i r : Nat) (f : Ring → Ring) (s : State) : (modRing i r f s).isl = s.isl := rfl
@[simp] theorem modRing_records (i r : Nat) (f : Ring → Ring) (s : State) : (modRing i r f s).records = s.records := rfl
@[simp] theorem modRing_inj (i r : Nat) (f : Ring → Ring) (s : State) : (modRing i r f s).inj = s.inj := rfl
@[simp] theorem modRing_sec (i r : Nat) (f : Ring → Ring) (s : State) : (modRing i r f s).sec = s.sec := rfl
@[simp] theorem modRing_pwr (i r : Nat) (f : Ring → Ring) (s : State) : (modRing i r f s).pwr = s.pwr := rfl
@[simp] theorem modRing_dram (i r : Nat) (f : Ring → Ring) (s : State) : (modRing i r f s).dram = s.dram := rfl
@[simp] theorem modRing_lines (i r : Nat) (f : Ring → Ring) (s : State) : (modRing i r f s).lines = s.lines := rfl
@[simp] theorem modRing_zeroed (i r : Nat) (f : Ring → Ring) (s : State) : (modRing i r f s).zeroed = s.zeroed := rfl
@[simp] theorem modRing_hostMem (i r : Nat) (f : Ring → Ring) (s : State) : (modRing i r f s).hostMem = s.hostMem := rfl
@[simp] theorem modRing_outbox (i r : Nat) (f : Ring → Ring) (s : State) : (modRing i r f s).outbox = s.outbox := rfl
@[simp] theorem modRing_frees (i r : Nat) (f : Ring → Ring) (s : State) : (modRing i r f s).frees = s.frees := rfl
@[simp] theorem modRing_pending (i r : Nat) (f : Ring → Ring) (s : State) : (modRing i r f s).pending = s.pending := rfl

/-! ## modPLink -/

@[simp] theorem modPLink_clk (n : Nat) (f : PLink → PLink) (s : State) : (modPLink n f s).clk = s.clk := rfl
@[simp] theorem modPLink_corrN (n : Nat) (f : PLink → PLink) (s : State) : (modPLink n f s).corrN = s.corrN := rfl
@[simp] theorem modPLink_corrS (n : Nat) (f : PLink → PLink) (s : State) : (modPLink n f s).corrS = s.corrS := rfl
@[simp] theorem modPLink_fuse (n : Nat) (f : PLink → PLink) (s : State) : (modPLink n f s).fuse = s.fuse := rfl
@[simp] theorem modPLink_dies (n : Nat) (f : PLink → PLink) (s : State) : (modPLink n f s).dies = s.dies := rfl
@[simp] theorem modPLink_hubs (n : Nat) (f : PLink → PLink) (s : State) : (modPLink n f s).hubs = s.hubs := rfl
@[simp] theorem modPLink_sep (n : Nat) (f : PLink → PLink) (s : State) : (modPLink n f s).sep = s.sep := rfl
@[simp] theorem modPLink_regs (n : Nat) (f : PLink → PLink) (s : State) : (modPLink n f s).regs = s.regs := rfl
@[simp] theorem modPLink_eff (n : Nat) (f : PLink → PLink) (s : State) : (modPLink n f s).eff = s.eff := rfl
@[simp] theorem modPLink_latch (n : Nat) (f : PLink → PLink) (s : State) : (modPLink n f s).latch = s.latch := rfl
@[simp] theorem modPLink_evr (n : Nat) (f : PLink → PLink) (s : State) : (modPLink n f s).evr = s.evr := rfl
@[simp] theorem modPLink_hif (n : Nat) (f : PLink → PLink) (s : State) : (modPLink n f s).hif =
    { s.hif with links := tabMod dPLink s.hif.links n f } := rfl
@[simp] theorem modPLink_prt (n : Nat) (f : PLink → PLink) (s : State) : (modPLink n f s).prt = s.prt := rfl
@[simp] theorem modPLink_cores (n : Nat) (f : PLink → PLink) (s : State) : (modPLink n f s).cores = s.cores := rfl
@[simp] theorem modPLink_links (n : Nat) (f : PLink → PLink) (s : State) : (modPLink n f s).links = s.links := rfl
@[simp] theorem modPLink_e2e (n : Nat) (f : PLink → PLink) (s : State) : (modPLink n f s).e2e = s.e2e := rfl
@[simp] theorem modPLink_ptn (n : Nat) (f : PLink → PLink) (s : State) : (modPLink n f s).ptn = s.ptn := rfl
@[simp] theorem modPLink_drc (n : Nat) (f : PLink → PLink) (s : State) : (modPLink n f s).drc = s.drc := rfl
@[simp] theorem modPLink_ing (n : Nat) (f : PLink → PLink) (s : State) : (modPLink n f s).ing = s.ing := rfl
@[simp] theorem modPLink_sdl (n : Nat) (f : PLink → PLink) (s : State) : (modPLink n f s).sdl = s.sdl := rfl
@[simp] theorem modPLink_fus (n : Nat) (f : PLink → PLink) (s : State) : (modPLink n f s).fus = s.fus := rfl
@[simp] theorem modPLink_isl (n : Nat) (f : PLink → PLink) (s : State) : (modPLink n f s).isl = s.isl := rfl
@[simp] theorem modPLink_records (n : Nat) (f : PLink → PLink) (s : State) : (modPLink n f s).records = s.records := rfl
@[simp] theorem modPLink_inj (n : Nat) (f : PLink → PLink) (s : State) : (modPLink n f s).inj = s.inj := rfl
@[simp] theorem modPLink_sec (n : Nat) (f : PLink → PLink) (s : State) : (modPLink n f s).sec = s.sec := rfl
@[simp] theorem modPLink_pwr (n : Nat) (f : PLink → PLink) (s : State) : (modPLink n f s).pwr = s.pwr := rfl
@[simp] theorem modPLink_dram (n : Nat) (f : PLink → PLink) (s : State) : (modPLink n f s).dram = s.dram := rfl
@[simp] theorem modPLink_lines (n : Nat) (f : PLink → PLink) (s : State) : (modPLink n f s).lines = s.lines := rfl
@[simp] theorem modPLink_zeroed (n : Nat) (f : PLink → PLink) (s : State) : (modPLink n f s).zeroed = s.zeroed := rfl
@[simp] theorem modPLink_hostMem (n : Nat) (f : PLink → PLink) (s : State) : (modPLink n f s).hostMem = s.hostMem := rfl
@[simp] theorem modPLink_outbox (n : Nat) (f : PLink → PLink) (s : State) : (modPLink n f s).outbox = s.outbox := rfl
@[simp] theorem modPLink_frees (n : Nat) (f : PLink → PLink) (s : State) : (modPLink n f s).frees = s.frees := rfl
@[simp] theorem modPLink_pending (n : Nat) (f : PLink → PLink) (s : State) : (modPLink n f s).pending = s.pending := rfl

/-! ## modPart -/

@[simp] theorem modPart_clk (p : Nat) (f : Part → Part) (s : State) : (modPart p f s).clk = s.clk := rfl
@[simp] theorem modPart_corrN (p : Nat) (f : Part → Part) (s : State) : (modPart p f s).corrN = s.corrN := rfl
@[simp] theorem modPart_corrS (p : Nat) (f : Part → Part) (s : State) : (modPart p f s).corrS = s.corrS := rfl
@[simp] theorem modPart_fuse (p : Nat) (f : Part → Part) (s : State) : (modPart p f s).fuse = s.fuse := rfl
@[simp] theorem modPart_dies (p : Nat) (f : Part → Part) (s : State) : (modPart p f s).dies = s.dies := rfl
@[simp] theorem modPart_hubs (p : Nat) (f : Part → Part) (s : State) : (modPart p f s).hubs = s.hubs := rfl
@[simp] theorem modPart_sep (p : Nat) (f : Part → Part) (s : State) : (modPart p f s).sep = s.sep := rfl
@[simp] theorem modPart_regs (p : Nat) (f : Part → Part) (s : State) : (modPart p f s).regs = s.regs := rfl
@[simp] theorem modPart_eff (p : Nat) (f : Part → Part) (s : State) : (modPart p f s).eff = s.eff := rfl
@[simp] theorem modPart_latch (p : Nat) (f : Part → Part) (s : State) : (modPart p f s).latch = s.latch := rfl
@[simp] theorem modPart_evr (p : Nat) (f : Part → Part) (s : State) : (modPart p f s).evr = s.evr := rfl
@[simp] theorem modPart_hif (p : Nat) (f : Part → Part) (s : State) : (modPart p f s).hif = s.hif := rfl
@[simp] theorem modPart_prt (p : Nat) (f : Part → Part) (s : State) : (modPart p f s).prt =
    { s.prt with parts := tabMod dPart s.prt.parts p f } := rfl
@[simp] theorem modPart_cores (p : Nat) (f : Part → Part) (s : State) : (modPart p f s).cores = s.cores := rfl
@[simp] theorem modPart_links (p : Nat) (f : Part → Part) (s : State) : (modPart p f s).links = s.links := rfl
@[simp] theorem modPart_e2e (p : Nat) (f : Part → Part) (s : State) : (modPart p f s).e2e = s.e2e := rfl
@[simp] theorem modPart_ptn (p : Nat) (f : Part → Part) (s : State) : (modPart p f s).ptn = s.ptn := rfl
@[simp] theorem modPart_drc (p : Nat) (f : Part → Part) (s : State) : (modPart p f s).drc = s.drc := rfl
@[simp] theorem modPart_ing (p : Nat) (f : Part → Part) (s : State) : (modPart p f s).ing = s.ing := rfl
@[simp] theorem modPart_sdl (p : Nat) (f : Part → Part) (s : State) : (modPart p f s).sdl = s.sdl := rfl
@[simp] theorem modPart_fus (p : Nat) (f : Part → Part) (s : State) : (modPart p f s).fus = s.fus := rfl
@[simp] theorem modPart_isl (p : Nat) (f : Part → Part) (s : State) : (modPart p f s).isl = s.isl := rfl
@[simp] theorem modPart_records (p : Nat) (f : Part → Part) (s : State) : (modPart p f s).records = s.records := rfl
@[simp] theorem modPart_inj (p : Nat) (f : Part → Part) (s : State) : (modPart p f s).inj = s.inj := rfl
@[simp] theorem modPart_sec (p : Nat) (f : Part → Part) (s : State) : (modPart p f s).sec = s.sec := rfl
@[simp] theorem modPart_pwr (p : Nat) (f : Part → Part) (s : State) : (modPart p f s).pwr = s.pwr := rfl
@[simp] theorem modPart_dram (p : Nat) (f : Part → Part) (s : State) : (modPart p f s).dram = s.dram := rfl
@[simp] theorem modPart_lines (p : Nat) (f : Part → Part) (s : State) : (modPart p f s).lines = s.lines := rfl
@[simp] theorem modPart_zeroed (p : Nat) (f : Part → Part) (s : State) : (modPart p f s).zeroed = s.zeroed := rfl
@[simp] theorem modPart_hostMem (p : Nat) (f : Part → Part) (s : State) : (modPart p f s).hostMem = s.hostMem := rfl
@[simp] theorem modPart_outbox (p : Nat) (f : Part → Part) (s : State) : (modPart p f s).outbox = s.outbox := rfl
@[simp] theorem modPart_frees (p : Nat) (f : Part → Part) (s : State) : (modPart p f s).frees = s.frees := rfl
@[simp] theorem modPart_pending (p : Nat) (f : Part → Part) (s : State) : (modPart p f s).pending = s.pending := rfl

/-! ## modCtx -/

@[simp] theorem modCtx_clk (p slot : Nat) (f : Ctx → Ctx) (s : State) : (modCtx p slot f s).clk = s.clk := rfl
@[simp] theorem modCtx_corrN (p slot : Nat) (f : Ctx → Ctx) (s : State) : (modCtx p slot f s).corrN = s.corrN := rfl
@[simp] theorem modCtx_corrS (p slot : Nat) (f : Ctx → Ctx) (s : State) : (modCtx p slot f s).corrS = s.corrS := rfl
@[simp] theorem modCtx_fuse (p slot : Nat) (f : Ctx → Ctx) (s : State) : (modCtx p slot f s).fuse = s.fuse := rfl
@[simp] theorem modCtx_dies (p slot : Nat) (f : Ctx → Ctx) (s : State) : (modCtx p slot f s).dies = s.dies := rfl
@[simp] theorem modCtx_hubs (p slot : Nat) (f : Ctx → Ctx) (s : State) : (modCtx p slot f s).hubs = s.hubs := rfl
@[simp] theorem modCtx_sep (p slot : Nat) (f : Ctx → Ctx) (s : State) : (modCtx p slot f s).sep = s.sep := rfl
@[simp] theorem modCtx_regs (p slot : Nat) (f : Ctx → Ctx) (s : State) : (modCtx p slot f s).regs = s.regs := rfl
@[simp] theorem modCtx_eff (p slot : Nat) (f : Ctx → Ctx) (s : State) : (modCtx p slot f s).eff = s.eff := rfl
@[simp] theorem modCtx_latch (p slot : Nat) (f : Ctx → Ctx) (s : State) : (modCtx p slot f s).latch = s.latch := rfl
@[simp] theorem modCtx_evr (p slot : Nat) (f : Ctx → Ctx) (s : State) : (modCtx p slot f s).evr = s.evr := rfl
@[simp] theorem modCtx_hif (p slot : Nat) (f : Ctx → Ctx) (s : State) : (modCtx p slot f s).hif = s.hif := rfl
@[simp] theorem modCtx_prt (p slot : Nat) (f : Ctx → Ctx) (s : State) : (modCtx p slot f s).prt =
    { s.prt with ctxs := tabMod dCtx s.prt.ctxs (ctxKey p slot) f } := rfl
@[simp] theorem modCtx_cores (p slot : Nat) (f : Ctx → Ctx) (s : State) : (modCtx p slot f s).cores = s.cores := rfl
@[simp] theorem modCtx_links (p slot : Nat) (f : Ctx → Ctx) (s : State) : (modCtx p slot f s).links = s.links := rfl
@[simp] theorem modCtx_e2e (p slot : Nat) (f : Ctx → Ctx) (s : State) : (modCtx p slot f s).e2e = s.e2e := rfl
@[simp] theorem modCtx_ptn (p slot : Nat) (f : Ctx → Ctx) (s : State) : (modCtx p slot f s).ptn = s.ptn := rfl
@[simp] theorem modCtx_drc (p slot : Nat) (f : Ctx → Ctx) (s : State) : (modCtx p slot f s).drc = s.drc := rfl
@[simp] theorem modCtx_ing (p slot : Nat) (f : Ctx → Ctx) (s : State) : (modCtx p slot f s).ing = s.ing := rfl
@[simp] theorem modCtx_sdl (p slot : Nat) (f : Ctx → Ctx) (s : State) : (modCtx p slot f s).sdl = s.sdl := rfl
@[simp] theorem modCtx_fus (p slot : Nat) (f : Ctx → Ctx) (s : State) : (modCtx p slot f s).fus = s.fus := rfl
@[simp] theorem modCtx_isl (p slot : Nat) (f : Ctx → Ctx) (s : State) : (modCtx p slot f s).isl = s.isl := rfl
@[simp] theorem modCtx_records (p slot : Nat) (f : Ctx → Ctx) (s : State) : (modCtx p slot f s).records = s.records := rfl
@[simp] theorem modCtx_inj (p slot : Nat) (f : Ctx → Ctx) (s : State) : (modCtx p slot f s).inj = s.inj := rfl
@[simp] theorem modCtx_sec (p slot : Nat) (f : Ctx → Ctx) (s : State) : (modCtx p slot f s).sec = s.sec := rfl
@[simp] theorem modCtx_pwr (p slot : Nat) (f : Ctx → Ctx) (s : State) : (modCtx p slot f s).pwr = s.pwr := rfl
@[simp] theorem modCtx_dram (p slot : Nat) (f : Ctx → Ctx) (s : State) : (modCtx p slot f s).dram = s.dram := rfl
@[simp] theorem modCtx_lines (p slot : Nat) (f : Ctx → Ctx) (s : State) : (modCtx p slot f s).lines = s.lines := rfl
@[simp] theorem modCtx_zeroed (p slot : Nat) (f : Ctx → Ctx) (s : State) : (modCtx p slot f s).zeroed = s.zeroed := rfl
@[simp] theorem modCtx_hostMem (p slot : Nat) (f : Ctx → Ctx) (s : State) : (modCtx p slot f s).hostMem = s.hostMem := rfl
@[simp] theorem modCtx_outbox (p slot : Nat) (f : Ctx → Ctx) (s : State) : (modCtx p slot f s).outbox = s.outbox := rfl
@[simp] theorem modCtx_frees (p slot : Nat) (f : Ctx → Ctx) (s : State) : (modCtx p slot f s).frees = s.frees := rfl
@[simp] theorem modCtx_pending (p slot : Nat) (f : Ctx → Ctx) (s : State) : (modCtx p slot f s).pending = s.pending := rfl

/-! ## takeFree -/

@[simp] theorem takeFree_clk (s : State) : (takeFree s).2.clk = s.clk := rfl
@[simp] theorem takeFree_corrN (s : State) : (takeFree s).2.corrN = s.corrN := rfl
@[simp] theorem takeFree_corrS (s : State) : (takeFree s).2.corrS = s.corrS := rfl
@[simp] theorem takeFree_fuse (s : State) : (takeFree s).2.fuse = s.fuse := rfl
@[simp] theorem takeFree_dies (s : State) : (takeFree s).2.dies = s.dies := rfl
@[simp] theorem takeFree_hubs (s : State) : (takeFree s).2.hubs = s.hubs := rfl
@[simp] theorem takeFree_sep (s : State) : (takeFree s).2.sep = s.sep := rfl
@[simp] theorem takeFree_regs (s : State) : (takeFree s).2.regs = s.regs := rfl
@[simp] theorem takeFree_eff (s : State) : (takeFree s).2.eff = s.eff := rfl
@[simp] theorem takeFree_latch (s : State) : (takeFree s).2.latch = s.latch := rfl
@[simp] theorem takeFree_evr (s : State) : (takeFree s).2.evr = s.evr := rfl
@[simp] theorem takeFree_hif (s : State) : (takeFree s).2.hif = s.hif := rfl
@[simp] theorem takeFree_prt (s : State) : (takeFree s).2.prt = s.prt := rfl
@[simp] theorem takeFree_cores (s : State) : (takeFree s).2.cores = s.cores := rfl
@[simp] theorem takeFree_links (s : State) : (takeFree s).2.links = s.links := rfl
@[simp] theorem takeFree_e2e (s : State) : (takeFree s).2.e2e = s.e2e := rfl
@[simp] theorem takeFree_ptn (s : State) : (takeFree s).2.ptn = s.ptn := rfl
@[simp] theorem takeFree_drc (s : State) : (takeFree s).2.drc = s.drc := rfl
@[simp] theorem takeFree_ing (s : State) : (takeFree s).2.ing = s.ing := rfl
@[simp] theorem takeFree_sdl (s : State) : (takeFree s).2.sdl = s.sdl := rfl
@[simp] theorem takeFree_fus (s : State) : (takeFree s).2.fus = s.fus := rfl
@[simp] theorem takeFree_isl (s : State) : (takeFree s).2.isl = s.isl := rfl
@[simp] theorem takeFree_records (s : State) : (takeFree s).2.records = s.records := rfl
@[simp] theorem takeFree_inj (s : State) : (takeFree s).2.inj = s.inj := rfl
@[simp] theorem takeFree_sec (s : State) : (takeFree s).2.sec = s.sec := rfl
@[simp] theorem takeFree_pwr (s : State) : (takeFree s).2.pwr = s.pwr := rfl
@[simp] theorem takeFree_dram (s : State) : (takeFree s).2.dram = s.dram := rfl
@[simp] theorem takeFree_lines (s : State) : (takeFree s).2.lines = s.lines := rfl
@[simp] theorem takeFree_zeroed (s : State) : (takeFree s).2.zeroed = s.zeroed := rfl
@[simp] theorem takeFree_hostMem (s : State) : (takeFree s).2.hostMem = s.hostMem := rfl
@[simp] theorem takeFree_outbox (s : State) : (takeFree s).2.outbox = s.outbox := rfl
@[simp] theorem takeFree_frees (s : State) : (takeFree s).2.frees = s.frees + 1 := rfl
@[simp] theorem takeFree_pending (s : State) : (takeFree s).2.pending = s.pending := rfl

/-! ## Reading back what was written -/

theorem getDie_modDie_self (d : Nat) (f : Die → Die) (s : State) (hw : tabWf dDie s.dies = true) :
    getDie (modDie d f s) d = f (getDie s d) := by
  simp [getDie, modDie, tabMod, tabGet_set_self hw]
theorem getDie_modDie_ne (d q : Nat) (f : Die → Die) (s : State) (hw : tabWf dDie s.dies = true) (hq : q ≠ d) :
    getDie (modDie d f s) q = getDie s q := by
  simp [getDie, modDie, tabMod, tabGet_set_ne hw hq]
theorem getHub_modHub_self (h : Nat) (f : Hub → Hub) (s : State) (hw : tabWf dHub s.hubs = true) :
    getHub (modHub h f s) h = f (getHub s h) := by
  simp [getHub, modHub, tabMod, tabGet_set_self hw]
theorem getHub_modHub_ne (h q : Nat) (f : Hub → Hub) (s : State) (hw : tabWf dHub s.hubs = true) (hq : q ≠ h) :
    getHub (modHub h f s) q = getHub s q := by
  simp [getHub, modHub, tabMod, tabGet_set_ne hw hq]
theorem getCore_modCore_self (g : Nat) (f : Core → Core) (s : State) (hw : tabWf dCore s.cores = true) :
    getCore (modCore g f s) g = f (getCore s g) := by
  simp [getCore, modCore, tabMod, tabGet_set_self hw]
theorem getCore_modCore_ne (g q : Nat) (f : Core → Core) (s : State) (hw : tabWf dCore s.cores = true) (hq : q ≠ g) :
    getCore (modCore g f s) q = getCore s q := by
  simp [getCore, modCore, tabMod, tabGet_set_ne hw hq]
theorem getLink_modLink_self (k : Nat) (f : Link → Link) (s : State) (hw : tabWf dLink s.links = true) :
    getLink (modLink k f s) k = f (getLink s k) := by
  simp [getLink, modLink, tabMod, tabGet_set_self hw]
theorem getLink_modLink_ne (k q : Nat) (f : Link → Link) (s : State) (hw : tabWf dLink s.links = true) (hq : q ≠ k) :
    getLink (modLink k f s) q = getLink s q := by
  simp [getLink, modLink, tabMod, tabGet_set_ne hw hq]
theorem getPtn_modPtn_self (h : Nat) (f : Ptn → Ptn) (s : State) (hw : tabWf dPtn s.ptn = true) :
    getPtn (modPtn h f s) h = f (getPtn s h) := by
  simp [getPtn, modPtn, tabMod, tabGet_set_self hw]
theorem getPtn_modPtn_ne (h q : Nat) (f : Ptn → Ptn) (s : State) (hw : tabWf dPtn s.ptn = true) (hq : q ≠ h) :
    getPtn (modPtn h f s) q = getPtn s q := by
  simp [getPtn, modPtn, tabMod, tabGet_set_ne hw hq]
theorem getDrc_modDrc_self (h : Nat) (f : Drc → Drc) (s : State) (hw : tabWf dDrc s.drc = true) :
    getDrc (modDrc h f s) h = f (getDrc s h) := by
  simp [getDrc, modDrc, tabMod, tabGet_set_self hw]
theorem getDrc_modDrc_ne (h q : Nat) (f : Drc → Drc) (s : State) (hw : tabWf dDrc s.drc = true) (hq : q ≠ h) :
    getDrc (modDrc h f s) q = getDrc s q := by
  simp [getDrc, modDrc, tabMod, tabGet_set_ne hw hq]
theorem getIsl_modIsl_self (i : Nat) (f : Island → Island) (s : State) (hw : tabWf dIsl s.isl = true) :
    getIsl (modIsl i f s) i = f (getIsl s i) := by
  simp [getIsl, modIsl, tabMod, tabGet_set_self hw]
theorem getIsl_modIsl_ne (i q : Nat) (f : Island → Island) (s : State) (hw : tabWf dIsl s.isl = true) (hq : q ≠ i) :
    getIsl (modIsl i f s) q = getIsl s q := by
  simp [getIsl, modIsl, tabMod, tabGet_set_ne hw hq]
theorem getIng_modIng_self (h : Nat) (f : Ing → Ing) (s : State) (hw : tabWf dIng s.ing = true) :
    getIng (modIng h f s) h = f (getIng s h) := by
  simp [getIng, modIng, tabMod, tabGet_set_self hw]
theorem getIng_modIng_ne (h q : Nat) (f : Ing → Ing) (s : State) (hw : tabWf dIng s.ing = true) (hq : q ≠ h) :
    getIng (modIng h f s) q = getIng s q := by
  simp [getIng, modIng, tabMod, tabGet_set_ne hw hq]
theorem getSdl_modSdl_self (h : Nat) (f : Sdl → Sdl) (s : State) (hw : tabWf dSdl s.sdl = true) :
    getSdl (modSdl h f s) h = f (getSdl s h) := by
  simp [getSdl, modSdl, tabMod, tabGet_set_self hw]
theorem getSdl_modSdl_ne (h q : Nat) (f : Sdl → Sdl) (s : State) (hw : tabWf dSdl s.sdl = true) (hq : q ≠ h) :
    getSdl (modSdl h f s) q = getSdl s q := by
  simp [getSdl, modSdl, tabMod, tabGet_set_ne hw hq]
theorem getFus_modFus_self (h : Nat) (f : Fus → Fus) (s : State) (hw : tabWf dFus s.fus = true) :
    getFus (modFus h f s) h = f (getFus s h) := by
  simp [getFus, modFus, tabMod, tabGet_set_self hw]
theorem getFus_modFus_ne (h q : Nat) (f : Fus → Fus) (s : State) (hw : tabWf dFus s.fus = true) (hq : q ≠ h) :
    getFus (modFus h f s) q = getFus s q := by
  simp [getFus, modFus, tabMod, tabGet_set_ne hw hq]
theorem getFn_modFn_self (i : Nat) (f : Fn → Fn) (s : State) (hw : tabWf dFn s.hif.fns = true) :
    getFn (modFn i f s) i = f (getFn s i) := by
  simp [getFn, modFn, tabMod, tabGet_set_self hw]
theorem getFn_modFn_ne (i q : Nat) (f : Fn → Fn) (s : State) (hw : tabWf dFn s.hif.fns = true) (hq : q ≠ i) :
    getFn (modFn i f s) q = getFn s q := by
  simp [getFn, modFn, tabMod, tabGet_set_ne hw hq]
theorem getPLink_modPLink_self (n : Nat) (f : PLink → PLink) (s : State) (hw : tabWf dPLink s.hif.links = true) :
    getPLink (modPLink n f s) n = f (getPLink s n) := by
  simp [getPLink, modPLink, tabMod, tabGet_set_self hw]
theorem getPLink_modPLink_ne (n q : Nat) (f : PLink → PLink) (s : State) (hw : tabWf dPLink s.hif.links = true) (hq : q ≠ n) :
    getPLink (modPLink n f s) q = getPLink s q := by
  simp [getPLink, modPLink, tabMod, tabGet_set_ne hw hq]
theorem getPart_modPart_self (p : Nat) (f : Part → Part) (s : State) (hw : tabWf dPart s.prt.parts = true) :
    getPart (modPart p f s) p = f (getPart s p) := by
  simp [getPart, modPart, tabMod, tabGet_set_self hw]
theorem getPart_modPart_ne (p q : Nat) (f : Part → Part) (s : State) (hw : tabWf dPart s.prt.parts = true) (hq : q ≠ p) :
    getPart (modPart p f s) q = getPart s q := by
  simp [getPart, modPart, tabMod, tabGet_set_ne hw hq]
theorem getCtx_modCtx_self (p slot : Nat) (f : Ctx → Ctx) (s : State) (hw : tabWf dCtx s.prt.ctxs = true) :
    getCtx (modCtx p slot f s) p slot = f (getCtx s p slot) := by
  simp [getCtx, modCtx, tabMod, tabGet_set_self hw]
theorem regGet_regSet_self (off : Nat) (v : Word) (s : State) (hw : tabWf regDefault s.regs = true) :
    regGet (regSet off v s) off = v := by
  simp [regGet, regSet, tabGet_set_self hw]
theorem regGet_regSet_ne (off q : Nat) (v : Word) (s : State) (hw : tabWf regDefault s.regs = true) (hq : q ≠ off) :
    regGet (regSet off v s) q = regGet s q := by
  simp [regGet, regSet, tabGet_set_ne hw hq]

end Sys2Proof.Machine
end

