-- ==== Sys2Proof/Machine/Balls.lean ====
section
/-!
DEFINITION. Balls.lean: what stands at the balls of the package (spec/18): the name and place of each ball (R495 to
R503), the rails and their limits (R504, R505, R508), what the outputs show (R509), and the limits of inputs and
reference clocks (R510, R511). No command reads these; they say what an observer at the balls sees of a state.
-/
namespace Sys2Proof.Machine

/-- The 19 row letters (R495). -/
def rowLetters : List String :=
  ["A", "B", "C", "D", "E", "F", "G", "H", "J", "K", "L", "M", "N", "P", "T", "U", "V", "W", "Y"]

/-- Letters of ball row r, 1 to 72 from north (R495). -/
def rowName (r : Nat) : String :=
  (["", "A", "B", "C"].getD ((r - 1) / 19) "") ++ rowLetters.getD ((r - 1) % 19) ""

/-- Name of the ball at row r and column c (R495). -/
def ballName (r c : Nat) : String := rowName r ++ toString c

/-- Place of the ball, east and north of the body centre, in units of 0.01 mm: 0.9 mm is 90 (R495). -/
def ballPlace (r c : Nat) : Int × Int := (45 * (2 * c - 73), 45 * (73 - 2 * r))

/-- Letter of a hub in interface names, N or S (R497). -/
def hubLetter (h : Nat) : String := if h = 0 then "N" else "S"

/-- Letter of the island on a hub, A or B (R497). -/
def islLetter (h : Nat) : String := if h = 0 then "A" else "B"

/-- A ball that HN alone has; its counterpart is RSVD (R497). -/
def hnOnly (h : Nat) (name : String) : String := if h = 0 then name else "RSVD"

/-- One lane tile, at its row b = 0 or 1 and column j (Table 18.3). -/
def serialBall (h t b j : Nat) : String :=
  let n := hubLetter h
  let pick (x y z : String) := [x, y, z].getD j ""
  let lane (p : String) (s : String) := pick (p ++ s ++ "_T") (p ++ s ++ "_C") "VSS"
  if t < 8 then lane ("PCIE_" ++ n ++ (if b = 0 then "_TX" else "_RX")) (toString t)
  else if t < 12 then lane ("PTN_" ++ n ++ (if b = 0 then "_TX" else "_RX")) (toString (t - 8))
  else if t < 16 then lane ("ETH_" ++ n ++ "_" ++ toString (t - 12)) (if b = 0 then "_TX" else "_RX")
  else if t = 16 then
    (if b = 0 then lane ("REFCLK_PCIE_" ++ n) "" else pick "VDD_PCIE" "VDD_PCIE" "VSS")
  else if b = 0 then pick "VDD_PCIE" "VSS" "VDD_PCIE"
  else pick "VSS" "VDD_PCIE" "VSS"

/-- One CSI-2 port tile, at its row b and column j (R499). -/
def csiBall (h p b j : Nat) : String :=
  let pre := "CSI_" ++ hubLetter h ++ "_" ++ toString p ++ "_"
  if b = 0 then pre ++ ["D0_T", "D0_C", "D1_T", "D1_C", "CLK_T", "CLK_C"].getD j ""
  else if j < 4 then pre ++ ["D2_T", "D2_C", "D3_T", "D3_C"].getD j ""
  else "VSS"

/-- Table 18.4, rows i = 0 to 6. `q` stands for VDDQ and `h` for VDD2H of the hub. -/
def memTile : List (List String) :=
  [["DQ0", "DQ1", "DQ2", "DQ3", "VSS", "DQ4", "DQ5", "DQ6", "DQ7"],
   ["DMI0", "RDQS0_T", "RDQS0_C", "q", "VSS", "q", "WCK0_T", "WCK0_C", "VSS"],
   ["q", "VSS", "q", "VSS", "q", "VSS", "q", "VSS", "q"],
   ["CA0", "CA1", "CA2", "CA3", "CK_T", "CK_C", "CA4", "CA5", "CA6"],
   ["CS", "RESET_N", "h", "VSS", "h", "VSS", "h", "VSS", "h"],
   ["DMI1", "RDQS1_T", "RDQS1_C", "q", "VSS", "q", "WCK1_T", "WCK1_C", "VSS"],
   ["DQ8", "DQ9", "DQ10", "DQ11", "VSS", "DQ12", "DQ13", "DQ14", "DQ15"]]

/-- Ball (i, j) of the tile of channel k (R500). -/
def memBall (h k i j : Nat) : String :=
  let x := (memTile.getD i []).getD j ""
  if x = "VSS" then x
  else if x = "q" then "VDDQ_" ++ hubLetter h
  else if x = "h" then "VDD2H_" ++ hubLetter h
  else "DDR_" ++ hubLetter h ++ "_" ++ toString k ++ "_" ++ x

/-- What a memory ball carries with LPDDR4X: RDQS carries DQS, CA6 carries CKE, WCK is left open (R500). -/
def lpddr4Name (x : String) : Option String :=
  match x with
  | "RDQS0_T" => some "DQS0_t"
  | "RDQS0_C" => some "DQS0_c"
  | "RDQS1_T" => some "DQS1_t"
  | "RDQS1_C" => some "DQS1_c"
  | "CA6" => some "CKE"
  | "WCK0_T" => none
  | "WCK0_C" => none
  | "WCK1_T" => none
  | "WCK1_C" => none
  | x => some x

/-- Low-speed signals of rows A to C, columns 49 to 60, at row b and column j (Table 18.5, R497). -/
def lowBall (h b j : Nat) : String :=
  let n := hubLetter h
  let a := islLetter h
  let o := hnOnly h
  let row : List String := match b with
    | 0 => [o "PORST_N", "PERST_N_" ++ n, "XTAL_H" ++ n ++ "_IN", "XTAL_H" ++ n ++ "_OUT", "CLK_ISL_" ++ a,
            "ISL_" ++ a ++ "_RST_N", "FAULT_" ++ a ++ "_N", "ALIVE_" ++ a, "CAN_" ++ a ++ "_TX", "CAN_" ++ a ++ "_RX",
            o "TCK", o "TMS"]
    | 1 => [o "TDI", o "TDO", o "TRST_N", "PMBUS_" ++ n ++ "_SCL", "PMBUS_" ++ n ++ "_SDA",
            "PMBUS_" ++ n ++ "_ALERT_N", "I3C_" ++ n ++ "_SCL", "I3C_" ++ n ++ "_SDA", "COOL_" ++ n ++ "_TIN",
            "COOL_" ++ n ++ "_TOUT", "COOL_" ++ n ++ "_TREF", "COOL_" ++ n ++ "_FLOW"]
    | _ => [o "XSPI_CLK", o "XSPI_CS_N", o "XSPI_DQS", o "XSPI_RST_N", o "XSPI_DQ0", o "XSPI_DQ1", o "XSPI_DQ2",
            o "XSPI_DQ3", o "XSPI_DQ4", o "XSPI_DQ5", o "XSPI_DQ6", o "XSPI_DQ7"]
  row.getD j ""

/-- The ball of hub h that stands at row r, 1 to 24, of HN (R496 to R502). -/
def hubBall (h r c : Nat) : String :=
  if r ≤ 6 then
    if c ≤ 24 then serialBall h (8 * ((r - 1) / 2) + (c - 1) / 3) ((r - 1) % 2) ((c - 1) % 3)
    else if c ≤ 48 then csiBall h (4 * ((r - 1) / 2) + (c - 25) / 6) ((r - 1) % 2) ((c - 25) % 6)
    else if c ≤ 60 then
      if r ≤ 3 then lowBall h (r - 1) (c - 49)
      else if (r + c) % 2 = 0 then "VDDIO18" else "VSS"
    else if c ≤ 63 then "VDD_AON"
    else if c ≤ 66 then "VDD_ISL" ++ islLetter h
    else "VSS"
  else if r ≤ 20 then memBall h (8 * ((r - 7) / 7) + (c - 1) / 9) ((r - 7) % 7) ((c - 1) % 9)
  else if (r + c) % 2 = 1 then "VSS"
  else if c ≤ 48 then "VDD_HUB" ++ hubLetter h
  else "VDD_LNK"

/-- What the ball at row r and column c carries (Table 18.2). -/
def ballAt (r c : Nat) : String :=
  if r ≤ 24 then hubBall 0 r c
  else if r ≤ 48 then
    if (r + c) % 2 = 0 then "VDD_CD" ++ toString (2 * (if r ≤ 36 then 0 else 1) + (if c ≤ 36 then 0 else 1)) else "VSS"
  else hubBall 1 (73 - r) c

/-- A rail of Table 18.6. -/
structure Rail where
  name : String
  /-- nominal with LPDDR5X and with LPDDR4X, mV; of VDD_CDx the value at power-up -/
  nominal : Nat
  nominal4 : Nat
  /-- operating range, ± percent -/
  tol : Nat
  /-- largest continuous current, mA -/
  current : Nat
  balls : Nat
  /-- power-up group: 10 for 1a, 11 for 1b, then 2 to 4 (R505) -/
  group : Nat
  /-- absolute maximum, mV; the minimum is −300 mV (Table 18.8) -/
  most : Nat
  deriving DecidableEq, Repr

def rails : List Rail :=
  [⟨"VDD_AON", 800, 800, 3, 1000, 36, 10, 950⟩,
   ⟨"VDD_ISLA", 800, 800, 3, 500, 18, 11, 950⟩,
   ⟨"VDD_ISLB", 800, 800, 3, 500, 18, 11, 950⟩,
   ⟨"VDDIO18", 1800, 1800, 5, 500, 36, 11, 2100⟩,
   ⟨"VDD_HUBN", 750, 750, 3, 45000, 96, 2, 950⟩,
   ⟨"VDD_HUBS", 750, 750, 3, 45000, 96, 2, 950⟩,
   ⟨"VDD_LNK", 750, 750, 3, 20000, 96, 2, 950⟩,
   ⟨"VDD_PCIE", 850, 850, 3, 12000, 46, 2, 1000⟩,
   ⟨"VDD2H_N", 1050, 1100, 3, 4000, 64, 2, 1400⟩,
   ⟨"VDD2H_S", 1050, 1100, 3, 4000, 64, 2, 1400⟩,
   ⟨"VDDQ_N", 500, 600, 3, 8000, 144, 3, 800⟩,
   ⟨"VDDQ_S", 500, 600, 3, 8000, 144, 3, 800⟩,
   ⟨"VDD_CD0", 750, 750, 3, 125000, 216, 4, 950⟩,
   ⟨"VDD_CD1", 750, 750, 3, 125000, 216, 4, 950⟩,
   ⟨"VDD_CD2", 750, 750, 3, 125000, 216, 4, 950⟩,
   ⟨"VDD_CD3", 750, 750, 3, 125000, 216, 4, 950⟩]

/-- A rail at `uv` µV is within its operating range about the set point `set`, in mV (R504). -/
def railInRange (x : Rail) (set : Nat) (uv : Int) : Bool :=
  decide ((1000 - 10 * (x.tol : Int)) * set ≤ uv) && decide (uv ≤ (1000 + 10 * (x.tol : Int)) * set)

/-- A rail at `uv` µV is within its absolute maximum ratings (R508). -/
def railUnharmed (x : Rail) (uv : Int) : Bool := decide (-300000 ≤ uv) && decide (uv ≤ 1000 * (x.most : Int))

/-- An LVCMOS input at `uv` µV with VDDIO18 at `io` µV is within its absolute maximum ratings (Table 18.8). -/
def inputUnharmed (io uv : Int) : Bool := decide (-300000 ≤ uv) && decide (uv ≤ min (io + 300000) 2100000)

/-- FAULT_x_N and COOL_h_FLOW within their absolute maximum ratings, with or without supply (Table 18.8). -/
def openDrainUnharmed (uv : Int) : Bool := decide (-300000 ≤ uv) && decide (uv ≤ 3600000)

/-- Junction, powered, and storage temperature, °C, within their absolute maximum ratings (Table 18.8). -/
def junctionUnharmed (c : Int) : Bool := decide (-40 ≤ c) && decide (c ≤ 150)
def storageUnharmed (c : Int) : Bool := decide (-55 ≤ c) && decide (c ≤ 150)

/-- A rail may start while exactly the rails named in `up` are within range (R505). -/
def railMayStart (up : List String) (x : Rail) : Bool :=
  let all (p : Rail → Bool) : Bool := rails.all fun y => !p y || up.contains y.name
  if x.group = 10 then true
  else if x.group = 11 then all (fun y => y.group = 10)
  else if x.group = 2 then all (fun y => y.group = 10 || y.group = 11)
  else if x.group = 3 then up.contains (if x.name = "VDDQ_N" then "VDD2H_N" else "VDD2H_S")
  else all (fun y => y.group = 2)

/-- PORST_N may rise: every rail of groups 1 to 4 is within range, and the last has been for 10 µs (R490, R505). -/
def porstMayRise (up : List String) (since now : Nat) : Bool :=
  rails.all (fun y => up.contains y.name) && decide (since + 10000 ≤ now)

/-- Rails on in STANDBY: groups 1 and 3 and the VDD2H rails (R507). -/
def onInStandby (x : Rail) : Bool :=
  x.group = 10 || x.group = 11 || x.group = 3 || x.name = "VDD2H_N" || x.name = "VDD2H_S"

/-- What an LVCMOS input reads at `uv` µV; between VIL and VIH no level is given (Table 18.10). -/
def lvcmosIn (uv : Int) : Option Bool :=
  if 1170000 ≤ uv then some true else if uv ≤ 630000 then some false else none

/-- A reference clock meets Table 18.11: its frequency in Hz, by input: 0 REFCLK_PCIE_h, 1 XTAL_Hh, 2 CLK_ISL_x. -/
def clockMeets (input hz : Nat) : Bool :=
  let nominal := [100000000, 25000000, 20000000].getD input 0
  let ppm := [300, 50, 100].getD input 0
  let slack := nominal / 1000000 * ppm
  -- REFCLK_PCIE_h may also spread down by 0.5 %
  let down := if input = 0 then nominal / 200 else 0
  decide (nominal ≤ hz + slack + down) && decide (hz ≤ nominal + slack)

/-- Groups of outputs of Table 18.9. `x` is an island, `h` a hub. -/
inductive OutBall where
  | fault (x : Nat) | alive (x : Nat) | canTx (x : Nat)
  /-- PCIe link 0 to 3: N0, N1, S0, S1 -/
  | pcieTx (n : Nat)
  | ptnTx (h : Nat) | ethTx (h m : Nat) | ddrResetN (h : Nat) | ddrCs (h : Nat)
  | xspiCs | pmbus (h : Nat) | i3c (h : Nat) | tdo | csi (h p : Nat)
  deriving DecidableEq, Repr

/-- What an output shows. -/
inductive PinState where
  | low | high | recessive | idle | highZ | released | termOff | terminated
  /-- toggling (R398) -/
  | toggling
  /-- driven by the block or logic that owns it -/
  | driven
  deriving DecidableEq, Repr

/-- Outputs while PORST_N is low (Table 18.9). -/
def pinInReset : OutBall → PinState
  | .fault _ | .alive _ | .ddrResetN _ | .ddrCs _ => .low
  | .canTx _ => .recessive
  | .pcieTx _ | .ptnTx _ | .ethTx _ _ => .idle
  | .xspiCs => .high
  | .pmbus _ | .i3c _ => .released
  | .tdo => .highZ
  | .csi _ _ => .termOff

/-- Outputs with PORST_N high: the last two columns of Table 18.9, until the block that owns one drives it (R509). -/
def pinOut (s : State) : OutBall → PinState
  | .fault x => if (getIsl s x).faultHigh then .high else .low
  | .alive x => if (getIsl s x).alive then .toggling else .low
  | .canTx x => match (getIsl s x).st with
    | .run | .safe => if (getIsl s x).noClock || (getIsl s x).busOff then .recessive else .driven
    | _ => .recessive
  | .pcieTx n => if s.pwr.mode = 3 then .highZ else if (getPLink s n).up then .driven else .idle
  | .ptnTx h => if s.pwr.mode = 3 then .highZ else if (getPtn s h).enable then .driven else .idle
  | .ethTx h m =>
    if s.pwr.mode = 3 then .highZ else if fld s (ingBase h + 0x140 + 4 * m) 0 1 = 1 then .driven else .idle
  | .ddrResetN h => if s.pwr.mode = 3 then .high else if (getDrc s h).st = 0 then .low else .high
  | .ddrCs h => if s.pwr.mode = 3 then .low else if (getDrc s h).st = 0 then .low else .driven
  | .xspiCs => if s.pwr.mode = 3 then .high else .driven
  | .pmbus _ | .i3c _ => .driven
  | .tdo => .highZ
  | .csi h p => if s.pwr.mode = 3 then .termOff else if portOn s h p then .terminated else .termOff

end Sys2Proof.Machine
end

