-- ==== Sys2Proof/Machine/Costs.lean ====
section
/-!
DEFINITION. Costs.lean: the times the spec prices or bounds (Tables 3.6, 5.12 and 14.8, R104, R264, R329, R356, R514 to
R520), as functions of the quantities the spec names. No result depends on any of them (R457), and no command reads
them: a command carries the time at which it happens.
-/
namespace Sys2Proof.Machine

/-! ## Instructions, in CORE_CLK cycles without stalls (R185, Table 5.12) -/

/-- Cycles an engine is occupied by a tile (R123): `c` is the cycles per row of Table 4.2. -/
def tileCycles (mLen c : Nat) : Nat := max (mLen * c) 32

/-- MMT, MMA, CONV and CONVT. -/
def tensorCycles (tiles mLen c : Nat) : Nat := 32 + ceilDiv tiles 8 * tileCycles mLen c + 12 + 64

/-- VOP, VCVT and SCALE; `wide` says that an operand is FP32 or INT32. -/
def elementwiseCycles (elements : Nat) (wide : Bool) : Nat := ceilDiv elements (if wide then 256 else 512) + 6

/-- VRED, each reduced row group of T elements with P = 2 ^ `lg` leaves. -/
def reduceCycles (t lg : Nat) : Nat := ceilDiv t 256 + 4 * lg

/-- VSFN; softmax adds two VRED passes, of `red` cycles each. -/
def functionCycles (elements : Nat) (softmax : Bool) (red : Nat) : Nat :=
  4 * ceilDiv elements 256 + 6 + (if softmax then 2 * red else 0)

/-- VNORM: three passes, each of the cycles named. -/
def normCycles (elements : Nat) : Nat := 3 * (ceilDiv elements 256 + 8)

/-- VOPT. -/
def optimiserCycles (parameters : Nat) : Nat := 6 * ceilDiv parameters 256

/-- VGATHER. -/
def gatherCycles (rows rowBytes : Nat) : Nat := rows * (2 + ceilDiv rowBytes 64)

/-- POOL and VDW. -/
def windowCycles (kh kw outputs : Nat) : Nat := kh * kw * ceilDiv outputs 256 + 8

/-- Issue cycles of the instructions with a fixed cost, by opcode (Tables 5.3 and 5.12); `taken` is for BRC. The sequencer
reads the result of LD and MUL later, while independent instructions issue. -/
def issueCycles (op : Nat) (taken : Bool) : Option Nat :=
  match op with
  | 0x00 | 0x03 => some 1
  | 0x01 | 0x05 | 0x06 => some 3
  | 0x02 => some (if taken then 3 else 1)
  | 0x04 => some 0
  | 0x1E => some 4
  | 0x1F => some 1
  | 0x28 => some 40
  | _ => if 0x10 ≤ op ∧ op ≤ 0x1D ∨ 0x38 ≤ op ∧ op ≤ 0x3F then some 1 else none

/-- Cycles after issue at which a result can be read: MUL 4, LD by space (0 scratchpad, 1 accumulators, else special). -/
def resultCycles (op space : Nat) : Nat :=
  if op = 0x12 then 4
  else if op = 0x19 then (match space with | 0 => 5 | 1 => 6 | _ => 2)
  else 1

/-- ATTN: walk steps and m-blocks, with the chunks that hold a present key and the rows of each m-block (R264); `c` is 1
for an FP8 query and 4 for a BF16 query, `d` the head size. `blocks` gives (steps, chunks, rows) of each m-block. -/
def attnCycles (d c : Nat) (blocks : List (Nat × Nat × Nat)) : Nat :=
  32 + (blocks.map fun b =>
    b.1 * 40 + b.2.1 * (ceilDiv (2 * d / 32) 8 * max (b.2.2 * c) 32 + 24) + 64).sum

/-- KVW append and commit, a step (R264). -/
def kvwAppendCycles (elements : Nat) : Nat := ceilDiv elements 256 + 6 + 40
def kvwCommitCycles (positions : Nat) : Nat := 8 * positions + 40

/-! ## Limits, in ns (Tables 3.6 and 14.8) -/

/-- Limits of the partition manager (R119), stages numbered as Table 3.6 lists them: 0 doorbell to dispatch decision,
2 drain, 4 replant read to RUNNING, 5 heel-in of 8 cores with share 160/256 or more, 6 core move, 7 and 8 semaphore to
waiter on the same and on another die, 9 teardown, 10 mirror apply. Stage 1 is 1,024 cycles of CORE_CLK and stage 3 the
rate of `heelRate`. -/
def prtLimit (stage : Nat) : Option Nat :=
  match stage with
  | 0 => some 2500
  | 2 => some 10000
  | 4 => some 2000
  | 5 => some 200000
  | 6 => some 40000
  | 7 => some 1000
  | 8 => some 2000
  | 9 => some 50000
  | 10 => some 2000
  | _ => none

/-- Limits of the safe state (R413), stages in the order of Table 14.8. -/
def safeLimit (stage : Nat) : Option Nat :=
  [100000, 20000, 20000, 100000, 100000, 500000, 2000][stage]?

/-! ## Memory bandwidth, in MB/s -/

/-- Peak of a hub's 16 channels of 16 bits at `rate` MT/s. -/
def hubPeak (rate : Nat) : Nat := 32 * rate

/-- Guaranteed bandwidth of a hub at `rate` MT/s; none while a change runs (R86, R356). -/
def hubGuaranteed (rate : Nat) (changing : Bool) : Nat := if changing then 0 else hubPeak rate * 7 / 8

/-- Least rate of a heel-in or replant behind a hub: share b of 256, others holding `other` of 256 (R104, R519). -/
def heelRate (rate b other : Nat) : Nat := max b (256 - other) * hubGuaranteed rate false / 256

/-- Least rate of a channel under random access, of its peak (R516). -/
def randomRate (peak : Nat) : Nat := peak * 9 / 10

/-- A channel serves random access: fewer than a quarter of its reads of the last 1 ms were row hits (R516). -/
def randomAccess (hits reads : Nat) : Bool := decide (4 * hits < reads)

/-! ## Load -/

/-- Mean latency at a queueing point in ps: idle latency, service time, and the busy fraction p / q below 1 (R514). -/
def meanLatency (idle service p q : Nat) : Nat := idle + service * p / (2 * (q - p))

/-- Service time of a die-link hop for a 4 KiB packet at agreed width w, ps (R517). -/
def hopService (w : Nat) : Nat := 36800 / w

/-- What a replay adds to the flit n places behind the failed one, ns (R517). -/
def replayDelay (n : Nat) : Nat := 2 * (n + 1)

/-- Latest start of a first-layer band after its last input line, ns (R518). -/
def bandStart (n slice : Nat) : Nat := 1000 + (n - 1) * (slice + 12000)

/-- Insertion of a point that crosses `cells` cells, and ego-motion, in FUS_CLK cycles (R329, R520). -/
def insertCycles (cells : Nat) : Nat := max 25 (ceilDiv cells 4)
def egoCycles (candidates keypoints : Nat) : Nat := ceilDiv (candidates * keypoints) 64

/-- A fusion close without its snapshot, in FUS_CLK cycles, which are 1 ns each (R520). -/
def closeCycles (candidates keypoints : Nat) (crossed : List Nat) : Nat :=
  egoCycles candidates keypoints + 1024 + (crossed.map insertCycles).sum

end Sys2Proof.Machine
end

