-- ==== Sys2Proof/Machine/Route.lean ====
section
/-!
DEFINITION. Route.lean: the ways of packets: routes between dies (R16, R17, Table 1.4), the mesh of a compute die
(R22, R144) and where its die links join it (R145, Table 4.5). Which way a packet takes changes times and no result
(R457), so no command reads these; whether a route stands is `dieReaches` and `hubsJoined`.
-/
namespace Sys2Proof.Machine

/-- Die link k joins these two: dies 0 to 3, 4 HN, 5 HS; the first is end A (Table 1.3, R15). -/
def linkJoins (k : Nat) : Nat × Nat :=
  [(4, 0), (4, 1), (5, 2), (5, 3), (0, 1), (2, 3), (0, 2), (1, 3)].getD k (0, 0)

/-- Primary route from a to b, dies 0 to 3, 4 HN, 5 HS, as links in order; `bit12` is bit 12 of a bulk write's
destination address, false for the ordered class (Table 1.4, R16). -/
def routeMain (a b : Nat) (bit12 : Bool) : List Nat :=
  if a = b then []
  else if a < 4 ∧ b < 4 then
    if xPeer a = b then [xLink a]
    else if yPeer a = b then [yLink a]
    else [xLink a, yLink b]
  else if a < 4 then
    if homeHub a + 4 = b then [hLink a] else [yLink a, hLink (yPeer a)]
  else if b < 4 then
    if homeHub b + 4 = a then [hLink b] else [hLink (yPeer b), yLink b]
  else
    let west := [0, 6, 2]
    let east := [1, 7, 3]
    let w := if bit12 then east else west
    if a = 4 then w else w.reverse

/-- Alternative route (Table 1.4). A hub reaches its own dies by the reverse of their way to it. -/
def routeAlt (a b : Nat) (bit12 : Bool) : List Nat :=
  if a = b then []
  else if a < 4 ∧ b < 4 then
    if xPeer a = b then [yLink a, xLink (yPeer a), yLink b]
    else if yPeer a = b then [xLink a, yLink (xPeer a), xLink b]
    else [yLink a, xLink b]
  else if a < 4 then
    if homeHub a + 4 = b then [xLink a, hLink (xPeer a)]
    else [xLink a, yLink (xPeer a), hLink (yPeer (xPeer a))]
  else if b < 4 then
    if homeHub b + 4 = a then [hLink (xPeer b), xLink b]
    else [hLink (yPeer (xPeer b)), yLink (xPeer b), xLink b]
  else routeMain a b (!bit12)

/-- The route in use: the primary one unless a link on it is down, or a die on it fenced (R17). -/
def routeUsed (s : State) (a b : Nat) (bit12 : Bool) : List Nat :=
  if (routeMain a b bit12).all (linkUp s) then routeMain a b bit12 else routeAlt a b bit12

/-- Mesh column and row of core c of a die (R22). -/
def meshXY (c : Nat) : Nat × Nat := (c % 8, c / 8)

/-- Numbers from i to j, both included, in that direction. -/
def walkTo (i j : Nat) : List Nat :=
  if i ≤ j then (List.range (j - i + 1)).map (i + ·) else (List.range (i - j + 1)).map (i - ·)

/-- Routers a packet passes from core a to core b of a die: along the row, then along the column (R144). -/
def meshWay (a b : Nat) : List (Nat × Nat) :=
  let p := meshXY a
  let q := meshXY b
  (walkTo p.1 q.1).map (fun x => (x, p.2)) ++ ((walkTo p.2 q.2).map (fun y => (q.1, y))).tail

/-- Edges of a compute die. -/
inductive Edge where
  | north | east | south | west
  deriving DecidableEq, Repr

/-- Edge that a port faces: port 0 H, 1 X, 2 Y of die d (Table 4.5). -/
def portEdge (d port : Nat) : Edge :=
  match port with
  | 0 => if d < 2 then .north else .south
  | 1 => if d % 2 = 0 then .east else .west
  | _ => if d < 2 then .south else .north

/-- Edge router that bundle b of a port attaches to (R145). -/
def edgeRouter (e : Edge) (b : Nat) : Nat × Nat :=
  match e with
  | .north => ([1, 3, 4, 6].getD b 0, 0)
  | .south => ([1, 3, 4, 6].getD b 0, 3)
  | .east => (7, b)
  | .west => (0, b)

/-- Routers that carry the traffic of a port whose link has the agreed mask `mask`, in bundle order (R145). -/
def portRouters (e : Edge) (mask : Nat) : List (Nat × Nat) :=
  ((List.range 4).filter fun b => mask.testBit b).map (edgeRouter e)

end Sys2Proof.Machine
end

