-- ==== Sys2Proof/WellFormed.lean ====
section
/-!
DEFINITION. WellFormed.lean: the range of each operand of a command. What the spec numbers (functions, rings, cores, dies,
links, streams, partitions, slots) lies in the spec's range; what comes from outside as data is not limited here.
-/
namespace Sys2Proof

/-- An agent of a register access names an existing VF or hub. -/
def agentOk : Agent → Bool
  | .pf => true
  | .vf p => 1 ≤ p && p ≤ 32
  | .scion h => h < 2

/-- An aligned offset in the management PF's BAR0 of 64 MiB (R5, Table 2.2). -/
def offOk (off : Nat) : Bool := off % 4 = 0 && off < 2 ^ 26

/-- Every operand of a command lies in its range. -/
def wellFormed : Instr → Bool
  | .registerWrite _ acc off _ => agentOk acc && offOk off
  | .shadowCommit _ _ => true
  | .expertEnable _ acc off => agentOk acc && offOk off
  | .misalignedAccess _ acc off size _ => agentOk acc && off < 2 ^ 26 && (1 ≤ size && size ≤ 8 && !(size = 4 && off % 4 = 0))
  | .unreachableAccess _ acc off _ _ => agentOk acc && offOk off
  | .latchingLoRead _ acc off => agentOk acc && offOk off
  | .sqDoorbell _ fn ring val => fn ≤ 32 && ring < 4 && val < 2 ^ 32
  | .cqDoorbell _ fn ring val => fn ≤ 32 && (4 ≤ ring && ring < 8) && val < 2 ^ 32
  | .ringEnable _ fn ring => fn ≤ 32 && ring < 8
  | .ringDisable _ fn ring => fn ≤ 32 && ring < 8
  | .ringDrainDone _ fn ring => fn ≤ 32 && ring < 4
  | .ringFetch _ hub load descs => hub < 2 && load ≤ 100 && descs.length ≤ 8
  | .ringFetchError _ fn ring addr => fn ≤ 32 && ring < 4 && addr < 2 ^ 64
  | .coalesceTimeout _ fn ring => fn ≤ 32 && (4 ≤ ring && ring < 8)
  | .msixUnmask _ fn vec => fn ≤ 32 && (vec < (if fn = 0 then 64 else 62))
  | .vfFlr _ p => (1 ≤ p && p ≤ 32)
  | .pfFlr _ link => link < 4
  | .portReset _ hub _ => hub < 2
  | .pcieLinkDown _ link => link < 4
  | .pcieLinkReturn _ link speed width _ => link < 4 && speed < 8 && width < 16
  | .nop _ _ => true
  | .launch _ _ => true
  | .copy _ _ _ => true
  | .fill _ _ => true
  | .wait _ _ => true
  | .signal _ _ => true
  | .preempt _ _ => true
  | .resume _ _ => true
  | .kvMap _ _ => true
  | .streamBind _ _ => true
  | .calLoad _ _ => true
  | .digest _ _ => true
  | .query _ _ => true
  | .recordStart _ _ => true
  | .recordStop _ _ => true
  | .replay _ _ => true
  | .partCreate _ _ => true
  | .partDestroy _ _ => true
  | .ctxCreate _ _ => true
  | .ctxDestroy _ _ => true
  | .memMap _ _ => true
  | .memUnmap _ _ => true
  | .safetyCfg _ _ _ => true
  | .dramFreq _ _ => true
  | .freqGroupSwitch _ hub grp => hub < 2 && grp < 4
  | .linkRetrain _ _ => true
  | .dieReset _ _ => true
  | .keyImport _ _ _ => true
  | .policyInstall _ _ => true
  | .attest _ _ => true
  | .mirrorCfgAdd _ _ _ => true
  | .mirrorCfgRemove _ _ => true
  | .rangeInSync _ _ => true
  | .stopPointReached _ g => g < 128
  | .drainDone _ g => g < 128
  | .heelInDone _ p slot => (1 ≤ p && p ≤ 32) && slot < 16
  | .replantDone _ p slot => (1 ≤ p && p ≤ 32) && slot < 16
  | .quantumExpiry _ p slot => (1 ≤ p && p ≤ 32) && slot < 16
  | .budgetExpiry _ p slot => (1 ≤ p && p ≤ 32) && slot < 16
  | .semaphoreTimeout _ p _ => (1 ≤ p && p ≤ 32)
  | .holdBudgetExpiry _ p slot => (1 ≤ p && p ≤ 32) && slot < 16
  | .mirrorApply _ => true
  | .mirrorLost _ => true
  | .illegalOpcode g => g < 128
  | .br g => g < 128
  | .brc g => g < 128
  | .loopI g => g < 128
  | .endlI g => g < 128
  | .callI g => g < 128
  | .retI g => g < 128
  | .haltI g => g < 128
  | .yieldI g => g < 128
  | .trapI g => g < 128
  | .addI g => g < 128
  | .subI g => g < 128
  | .mulI g => g < 128
  | .andI g => g < 128
  | .orI g => g < 128
  | .xorI g => g < 128
  | .shlI g => g < 128
  | .shrI g => g < 128
  | .li g => g < 128
  | .ld g => g < 128
  | .st g => g < 128
  | .cmpI g => g < 128
  | .minI g => g < 128
  | .maxI g => g < 128
  | .tdldI g => g < 128
  | .tdstI g => g < 128
  | .mmtI g => g < 128
  | .mmaI g => g < 128
  | .convI g => g < 128
  | .convtI g => g < 128
  | .poolI g => g < 128
  | .attnI g => g < 128
  | .kvwI g => g < 128
  | .cbldI g => g < 128
  | .scaleI g => g < 128
  | .vopI g => g < 128
  | .vredI g => g < 128
  | .vdwI g => g < 128
  | .vsfnI g => g < 128
  | .vnormI g => g < 128
  | .voptI g => g < 128
  | .vcvtI g => g < 128
  | .vgatherI g => g < 128
  | .dmaI g => g < 128
  | .haloI g => g < 128
  | .dmawI g => g < 128
  | .prefI g => g < 128
  | .semaI g => g < 128
  | .barI g => g < 128
  | .credI g => g < 128
  | .evtI g => g < 128
  | .icacheFill _ g _ => g < 128
  | .tileIssue _ g engine => g < 128 && engine < 8
  | .leafDeliver _ g _ => g < 128
  | .gleanRequest _ g => g < 128
  | .gleanGrant _ g => g < 128
  | .gleanBackoffExpiry _ g => g < 128
  | .dmaEntryStart _ g q => g < 128 && q < 2
  | .dmaEntryDone _ g q => g < 128 && q < 2
  | .meshPacketLost _ die c vc p slot => die < 4 && c < 32 && vc < 8 && (1 ≤ p && p ≤ 32) && slot < 16
  | .coreMove _ g => g < 128
  | .sdlEntryCommit _ h e => h < 2 && e < 64
  | .sdlBand _ h e => h < 2 && e < 64
  | .sdlJobStart _ h e => h < 2 && e < 64
  | .sliceEnd _ eng h => eng < 2 && h < 2
  | .csiLongPacket _ h port vc dt _ _ _ _ _ => h < 2 && port < 12 && vc < 16 && dt < 64
  | .frameStart _ h port vc fn => h < 2 && port < 12 && vc < 16 && fn < 2 ^ 16
  | .frameEnd _ h port vc => h < 2 && port < 12 && vc < 16
  | .ethFrame _ h mac dst etype vlan _ _ _ _ _ _ => h < 2 && mac < 4 && dst < 2 ^ 48 && etype < 2 ^ 16 && vlan < 4096
  | .frameGapExpiry _ h n => h < 2 && n < 48
  | .missingDeadline _ h n => h < 2 && n < 48
  | .frameRelease _ h n _ => h < 2 && n < 48
  | .syncReceived _ h _ _ => h < 2
  | .syncTimeout _ h => h < 2
  | .timeFollow _ _ => true
  | .timeStep _ h => h < 2
  | .fusionEnable _ h => h < 2
  | .fusionDisable _ h => h < 2
  | .fusionSourceCommit _ h e => h < 2 && e < 32
  | .pointListRead _ h e => h < 2 && e < 32
  | .fusionPointBatch _ h e => h < 2 && e < 32
  | .instantClose _ h _ => h < 2
  | .cryptoTurn _ h _ => h < 2
  | .dramRead _ h ch _ _ => h < 2 && ch < 16
  | .dramWrite _ h ch _ _ => h < 2 && ch < 16
  | .refresh _ h ch => h < 2 && ch < 16
  | .ratWindowEnd _ h ch => h < 2 && ch < 16
  | .patrolScrub _ h _ => h < 2
  | .wck2dqTrack _ h ch _ => h < 2 && ch < 16
  | .trainingGo _ h _ _ _ _ => h < 2
  | .trnWaitExpiry _ h _ _ _ _ => h < 2
  | .capture _ h => h < 2
  | .holdMem _ h => h < 2
  | .holdRelease _ h => h < 2
  | .diagLoad _ h _ _ => h < 2
  | .sidebandMessage _ k _ _ => k < 10
  | .sidebandRetry _ k => k < 10
  | .linkTrain _ k fails _ _ _ => k < 10 && fails.length ≤ 8
  | .trainTimeout _ k => k < 10
  | .flitReceive _ k _ _ => k < 10
  | .nakReceived _ k => k < 10
  | .linkHeartbeat _ k _ => k < 10
  | .linkSilence _ k _ => k < 10
  | .e2eAck _ src dst _ => src < 6 && dst < 6
  | .dieHeartbeat _ d _ => d < 4
  | .dieHeartbeatMiss _ d => d < 4
  | .pllUnlock _ d => d < 4
  | .fenceReceive _ d lost => d < 4 && lost < 4
  | .fencedHeartbeat _ d => d < 4
  | .dieResetRelease _ d => d < 4
  | .dieRejoinDone _ d => d < 4
  | .hubDieReset _ hub => hub < 2
  | .hubReturn _ hub => hub < 2
  | .partnerEnable _ acc hub _ => agentOk acc && hub < 2
  | .partnerLost _ hub => hub < 2
  | .partnerMirrorApply _ hub _ _ => hub < 2
  | .resultRecord _ isl => isl < 2
  | .unmatchedExpiry _ isl n => isl < 2 && n < 64
  | .resultDeadline _ isl n => isl < 2 && n < 64
  | .staleNotice _ isl => isl < 2
  | .lockstepError _ isl => isl < 2
  | .inputDisagreement _ isl => isl < 2
  | .clockCheck _ isl _ _ => isl < 2
  | .islandHeartbeat _ isl _ => isl < 2
  | .islLinkLoss _ isl => isl < 2
  | .islandLinkMessage _ isl _ => isl < 2
  | .islandResetRelease _ isl _ => isl < 2
  | .islandRun _ isl => isl < 2
  | .islandRestart _ isl acc _ => isl < 2 && agentOk acc
  | .islandDebugHalt _ isl => isl < 2
  | .canStatusFrame _ isl => isl < 2
  | .canBusoff _ isl => isl < 2
  | .canReceive _ isl => isl < 2
  | .swatchDone _ isl n ch => isl < 2 && n < 64 && ch < 2
  | .rollingTestStart _ d => d < 4
  | .scanTestDone _ g _ => g < 128
  | .coverageCheck _ isl => isl < 2
  | .injFire _ acc => agentOk acc
  | .injectionEffect _ => true
  | .injectionTimeout _ => true
  | .bootRom _ _ => true
  | .scionCopy _ h _ => h < 2
  | .recoveryChunk _ acc chunk _ _ => agentOk acc && chunk < 64
  | .scionHeartbeat _ h => h < 2
  | .scionWatchdog _ h _ => h < 2
  | .spdmRequest _ _ => true
  | .debugToken _ level _ _ _ _ => (1 ≤ level && level ≤ 2)
  | .tapAccess _ _ => true
  | .evrCursorLoad _ acc _ _ => agentOk acc
  | .clearCirculating _ acc => agentOk acc
  | .clearKept _ acc => agentOk acc
  | .coreCntClr _ acc off => agentOk acc && offOk off
  | .modeRequest _ acc req => agentOk acc && req < 4
  | .modeChangeDone _ _ => true
  | .standbyExit _ hub => hub < 2
  | .quadrantGate _ d q => d < 4 && q < 4
  | .quadrantUngate _ d q => d < 4 && q < 4
  | .capTick _ w _ => w.length = 4
  | .voltageReached _ d => d < 4
  | .currentCheck _ d _ => d < 4
  | .thermalSample _ sensor _ _ => sensor < 56
  | .coolantCheck _ h _ _ _ _ _ => h < 2
  | .railFault _ rail _ => rail < 16
  | .hubReset _ acc hub => agentOk acc && hub < 2
  | .porst _ => true
  | .ageingMeasure _ x _ => x < 6
  | .lifetimeSave _ _ => true
  | .instructionNop g => g < 128
  | .unsupportedRequest _ link _ => link < 4
  | .vfEnableWrite _ link _ num => link < 4 && num < 2 ^ 16
  | .managementClusterAccess _ hub core _ _ len _ => hub < 2 && core < 4 && len ≤ 64
  | .islandPeriodicTest _ isl _ => isl < 2
  | .quietWindowOpen _ isl n => isl < 2 && n < 64
  | .islandPllUnlock _ isl => isl < 2
  | .islandDebugResume _ isl _ => isl < 2
  | .islandResetAssert _ isl => isl < 2
  | .canBusoffRecovery _ isl => isl < 2
  | .vddAonLoss _ => true

end Sys2Proof
end

