-- ==== Sys2Proof/Tests/Slice0.lean ====
section
/-!
SUPPORT. Tests/Slice0.lean: small states on which the hypotheses of the statements hold together, the checks of WellFormed,
and a few steps checked against the examples and tables of spec/.
-/
namespace Sys2Proof.Tests

open Sys2Proof Sys2Proof.Machine

set_option Elab.async false

/-- A part with its hubs up and booted, every domain powered, every compute die UP and every die link UP. -/
def live : State :=
  { State.reset with
    hubs := [(0, { up := true }), (1, { up := true })],
    dies := (List.range 4).map fun d => (d, { st := .up, pll := true }),
    links := (List.range 8).map fun k => (k, { st := .up, mask := 15, sealed := 1 }),
    sec := { stage := 2 },
    pwr := { cd := 2 ^ 20 - 1, hn := 63, hs := 63 },
    hif := { links := [(0, { up := true })] } }

/-- `live` with rings 0 and 4 of the management PF ACTIVE. -/
def rung : State :=
  { live with hif := { live.hif with fns := [(0, { rings := [(0, { st := .active }), (4, { st := .active })] })] } }

/-- Ring 0 of `rung` holds 8 entries, and one has been written. -/
def oneWaits : State :=
  { rung with regs := [(winReg 0 0x108, 3), (winReg 0 0x188, 3)],
              hif := { live.hif with fns := [(0, { rings := [(0, { st := .active, bell := 1 }), (4, { st := .active })] })] } }

/-- The descriptor waits to start, with nothing before it. -/
def inq (d : Desc) (s : State) : State := { s with hif := { s.hif with inflight := [d] } }

/-- A flit of link 0 that fails its CRC. -/
def badCrc : Flit := { seq := 0, ack := 0, epoch := 0, kind := 1, bundle := 0, crcOk := false, packets := [] }

/-- Die 0 is fenced by die 1 and has still to be fenced by die 2. -/
def fencedOnce : State :=
  { live with dies := [(0, { st := .fenced, toFence := [2] })],
              links := (List.range 8).map fun k => (k, if k = 4 then { st := .up, mask := 15, sealed := 1, b := { fenced := true } } else { st := .up, mask := 15, sealed := 1 }) }

/-- MIRROR_CFG add of the first granule of partition 1. -/
def mirDesc : Desc := { id := 0, fn := 0, ring := 0, raw := 0x1B + 0xFF * 2 ^ 40 + 1 * 2 ^ 64 + 1 * 2 ^ 192, st := .waiting }

/-- MIRROR_CFG remove of the same range. -/
def mirGone : Desc := { mirDesc with raw := mirDesc.raw + 2 ^ 72 }

/-- Partition 1 has its first granule mapped on HN, and the port of HN is enabled. -/
def mirState : State :=
  { live with prt := { parts := [(1, { st := 1, gmap := [(0, some { dev := 32, read := true, write := true })] })] },
              ptn := [(0, { enable := true })] }

/-- The range waits on HN's port, which runs, in the package of role 1. -/
def mirWaits : State :=
  { mirState with links := [(8, { st := .up, mask := 15 })], regs := [(ptnBase 0 + 4, 2)],
                  ptn := [(0, { enable := true, ok := true, ranges := [(0, { part := 1, st := 1, granules := 1, desc := some 0 })] })] }

/-- `live` with both islands in RUN. -/
def islUp : State :=
  { live with isl := [(0, { st := .run, cmpOk := true, faultHigh := true, alive := true }),
                      (1, { st := .run, cmpOk := true, faultHigh := true, alive := true })] }

/-- An empty tolerance program that names no swatch. -/
def safProg : List Byte := (toBytes 4 0x53414631 ++ toBytes 2 1 ++ zeros 26 ++ [0xFF#8, 0xFF#8]) ++ zeros 30

/-- SAFETY_CFG that sets stream 0 of ISL_A on partition 1. -/
def safDesc : Desc :=
  { id := 0, fn := 0, ring := 0, raw := 0x15 + 0xFF * 2 ^ 40 + 1 * 2 ^ 96 + 64 * 2 ^ 256, st := .waiting }

/-- Partition 1 is created with the safety flag. -/
def safState : State := { islUp with prt := { parts := [(1, { st := 1, safety := true })] } }

/-- A result record on its way to ISL_A. -/
def aRecord : ResRec := { island := 0, stream := 0, part := 1, addr := 0, data := zeros 64 }

/-- A stream whose deadline is due and whose program tolerates one miss. -/
def missState : State :=
  { live with isl := [(0, { st := .run, strs := [(0, { st := .run, cfg := { partA := 1, period := 1, prog := zeros 8 ++ [1#8] ++ zeros 55 } })] })] }
def missedOnce : State :=
  { live with isl := [(0, { st := .run, strs := [(0, { st := .run, misses := 1, nMiss := 1, deadline := 1000, cfg := { partA := 1, period := 1, prog := zeros 8 ++ [1#8] ++ zeros 55 } })] })] }

/-- CD0 has two enabled cores, 0 free and 1 the spare. -/
def twoCores : State :=
  { islUp with fuse := { coreEn := [3, 0, 0, 0] }, dies := [(0, { st := .up, pll := true, spare := some 1 })],
               cores := [(0, { role := .free })] }


/-- VF 1 is on link 0 with its rings ACTIVE; partition 1 has four granules of DRC_N and an idle context 0. -/
def vfState : State :=
  { live with
    hif := { links := [(0, { up := true, vfEnable := true, numVfs := 1 })],
             fns := [(1, { rings := [(0, { st := .active }), (4, { st := .active })] })] },
    prt := { parts := [(1, { st := 1, cores := [1, 0, 0, 0],
                             gmap := (List.range 4).map fun i => (i, some { dev := i, read := true, write := true }) })],
             ctxs := [(16, { st := .idle, cores := 1 })] } }

def vfDesc (raw : Nat) : Desc := { id := 0, fn := 1, ring := 0, raw := BitVec.ofNat 512 raw, st := .waiting }
/-- COPY of 64 bytes from host memory to partition address 64, and from there to host memory. -/
def copyIn : Desc := vfDesc (0x02 + 0xFF * 2 ^ 40 + 64 * 2 ^ 128 + 64 * 2 ^ 192 + 1 * 2 ^ 256)
def copyOut : Desc := vfDesc (0x02 + 0xFF * 2 ^ 40 + 64 * 2 ^ 64 + 64 * 2 ^ 192 + 2 * 2 ^ 256)
/-- FILL and DIGEST of 64 bytes. -/
def fillDesc : Desc := vfDesc (0x03 + 0xFF * 2 ^ 40 + 64 * 2 ^ 128 + 7 * 2 ^ 192)
def digestDesc : Desc := vfDesc (0x0B + 0xFF * 2 ^ 40 + 64 * 2 ^ 128)
/-- QUERY class 0. -/
def queryDesc : Desc := vfDesc (0x0C + 0xFF * 2 ^ 40 + 64 * 2 ^ 192)
/-- LAUNCH of slot 0. -/
def launchDesc : Desc := vfDesc 0x01
/-- RECORD start of slot 0 into 4 KiB at address 4096, and REPLAY of the record at address 4096. -/
def recDesc : Desc := vfDesc (0x0D + 4096 * 2 ^ 128 + 4096 * 2 ^ 192)
def replayDesc : Desc := vfDesc (0x0E + 4096 * 2 ^ 64 + 512 * 2 ^ 128)

/-- A record's header at address 4096: fresh, and complete with no entry. -/
def vfFresh : State := { vfState with dram := putBytes [] 4096 (toBytes 4 0x52454331 ++ toBytes 2 1 ++ [1#8, 0#8]) }
def vfRecord : State :=
  { vfState with dram := putBytes [] 4096 (toBytes 4 0x52454331 ++ toBytes 2 1 ++ [1#8, 2#8] ++ zeros 2 ++ toBytes 2 1 ++
      zeros 12 ++ toBytes 8 512) }
/-- Slot 0 records. -/
def vfRecording : State :=
  { vfState with prt := { vfState.prt with ctxs := [(16, { st := .idle, cores := 1, recording := some (4096, 4096, 0, 0, 512) })] } }

/-- `rung` with every core of the dies enabled, free cores, and 1 GiB behind each hub. -/
def pfState : State :=
  { rung with fuse := { coreEn := [15, 15, 15, 15] }, drc := [(0, { gib := 1 }), (1, { gib := 1 })],
              cores := [(0, { role := .free }), (1, { role := .free })],
              dies := (List.range 4).map fun d => (d, { st := .up, pll := true, spare := some 3 }) }
/-- Partition 1 reserves a granule and maps none. -/
def mapState : State := { pfState with prt := { parts := [(1, { st := 1, granN := 2 })] } }
def pfDesc (raw : Nat) : Desc := { id := 0, fn := 0, ring := 0, raw := BitVec.ofNat 512 (raw + 0xFF * 2 ^ 40), st := .waiting }
/-- PART_CREATE of partition 2 with one core of CD0, PART_DESTROY of partition 1 by force, MEM_MAP and its undoing. -/
def pcDesc : Desc := pfDesc (0x10 + 2 * 2 ^ 64 + 2 ^ 96)
def pdDesc : Desc := pfDesc (0x11 + 2 ^ 64 + 2 ^ 72)
def mmDesc : Desc := pfDesc (0x14 + 2 ^ 64 + 3 * 2 ^ 72 + 300 * 2 ^ 213 + 1 * 2 ^ 256)
def muDesc : Desc := pfDesc (0x14 + 2 ^ 64 + 4 * 2 ^ 72 + 1 * 2 ^ 256)
/-- CTX_CREATE of slot 1 with one core. -/
def ccDesc : Desc := vfDesc (0x12 + 2 ^ 40 + 2 ^ 80)
/-- Slot 0 is being replanted from the header at address 0; it has no cores. -/
def heeled : State :=
  { vfState with dram := putBytes [] 0 (toBytes 4 0x48454C31 ++ toBytes 2 1 ++ [1#8, 0#8]),
                 prt := { vfState.prt with ctxs := [(16, { st := .replanting })] } }
def heeledRead : Except MemErr (List Byte) × State :=
  readPart 1 (getCtx (advance 0 heeled) 1 0).heelAddr 4096 (.hub 1) (advance 0 heeled)
theorem some_getD {α : Type} {x : Option α} (h : x.isSome = true) (d : α) : x = some (x.getD d) := by
  cases x with
  | none => cases h
  | some _ => rfl

/-- An instruction word: opcode, and its other fields. -/
def iw (op rest : Nat) : InstrWord := BitVec.ofNat 128 (op * 2 ^ 122 + rest)
/-- Core 0 runs slot 0 of partition 1 alone, and stands at word `w` of its cache. -/
def onCore (w : InstrWord) (c : Core) : State :=
  { vfState with
    cores := [(0, { c with role := .placed, part := 1, icache := if c.icache.isEmpty then [(0, some w)] else c.icache })],
    prt := { vfState.prt with ctxs := [(16, { st := .running, cores := 1, place := [0], launch := some { desc := none } })] } }
/-- The same with core 1 beside it in the context. -/
def onCores (w : InstrWord) (c : Core) : State :=
  { onCore w c with
    cores := (onCore w c).cores ++ [(1, { role := .placed, part := 1, idx := 1 })],
    prt := { vfState.prt with ctxs := [(16, { st := .running, cores := 2, place := [0, 1], launch := some { desc := none } })] } }

/-- The state an instruction leaves where it completes. -/
def ranTo (s : State) (g : Nat) (m : Xm Unit) : State := (applyTally g (ran s g m).2.t (ran s g m).2.s).2

/-- A descriptor: base, space, format, scale format, rank, dims 0 to 2, strides 1 and 2, scale offset. -/
def tdw (base space fmt sf rank d0 d1 d2 s1 s2 so : Nat) : DescWord :=
  BitVec.ofNat 512 (ofBytes (toBytes 8 base ++ toBytes 1 space ++ [0] ++ toBytes 1 (fmt + 16 * sf) ++ toBytes 1 rank ++ [1] ++ zeros 3 ++
    toBytes 4 d0 ++ toBytes 4 d1 ++ toBytes 4 d2 ++ toBytes 4 1 ++ toBytes 4 1 ++ toBytes 4 s1 ++ toBytes 4 s2 ++ zeros 8 ++ toBytes 4 so))
/-- Register 0: one FP32 element, an FP32 image of one pixel, one BF16 element, a BF16 image of one pixel. -/
def regs1 : Tab DescWord := [(0, tdw 0 0 7 0 1 1 1 1 0 0 0)]
def regs3 : Tab DescWord := [(0, tdw 0 0 7 0 3 1 1 1 4 4 0)]
def bfRegs : Tab DescWord := [(0, tdw 0 0 5 0 2 1 1 1 2 0 0)]
def regs3b : Tab DescWord := [(0, tdw 0 0 5 0 3 1 1 1 2 2 0)]
/-- A window of one tap: kernel, stride and dilation 1. -/
def win1 : Nat := 2 ^ 89 + 2 ^ 83 + 2 ^ 79 + 2 ^ 75 + 2 ^ 71 + 2 ^ 67
/-- A sound optimiser block at scratchpad address 0. -/
def lossRec : Tab Byte := [(0, 1), (64, 1), (69, 24), (70, 5)]

/-- MMT of one element has issued; its one tile is queued, then in engine 3, or core 1 asks for it from BAR. -/
def mmWord : InstrWord := iw 0x20 (2 ^ 107)
def mmStart : State :=
  ranTo (onCore mmWord { t := bfRegs ++ [(1, tdw 0 1 7 0 2 1 1 1 4 0 0)] }) 0 (do mmCheck 0 mmWord; startRun 0 mmWord {})
def mmRun : Run :=
  (getCore mmStart 0).runs.headD { id := 0, word := 0, pc := 0, td := 0, ta := 0, tb := 0, tc := 0, pad := 0, seamU := none, seamL := none }
def mmTile : Tile := { run := 0, tile := 0, block := 0, k := 0 }
def mmLeaf : Except XErr (List (Option Word)) × Vst :=
  (tileLeaf 0 mmRun.plan (runSeams (advance 0 mmStart) 0 mmRun) mmRun.pad mmTile.block mmTile.k).run
    { s := advance 0 mmStart, t := { ctl := (getCore (advance 0 mmStart) 0).numctl } }
def mmIssued : State := doTileIssue 0 0 3 mmStart
def mmTaken : Tile := (getCore mmIssued 0).tiles.headD { run := 9, tile := 9, block := 9, k := 9 }
def mmAsked : State :=
  { mmStart with
    cores := mmStart.cores ++ [(1, { role := .placed, part := 1, idx := 1, waits := .bar false, glean := { min := 1, max := 4, asked := some 0 } })],
    prt := { mmStart.prt with ctxs := [(16, { st := .running, cores := 2, place := [0, 1], launch := some { desc := none } })] } }

/-- ATTN of one query of 32 BF16 elements, to FP32; a walk of it at its start; a page list of one entry of one token at
address 0, its page not valid. -/
def attnWord : InstrWord := iw 0x25 (2 ^ 107)
def attnRegs : Tab DescWord := [(0, tdw 0 0 5 0 3 32 1 1 64 64 0), (1, tdw 64 0 7 0 3 32 1 1 128 128 0)]
def attnWalk : Walk :=
  { word := attnWord, td := tdw 64 0 7 0 3 32 1 1 128 128 0, ta := tdw 0 0 5 0 3 32 1 1 64 64 0, tb := tdw 0 0 5 0 3 32 1 1 64 64 0,
    list := 0, pos := 0 }
def kvState (w : InstrWord) (c : Core) : State :=
  { onCore w c with
    dram := putBytes [] 0 (toBytes 4 0x4B564C31 ++ toBytes 2 0 ++ toBytes 2 1 ++ toBytes 4 0 ++ toBytes 2 1 ++ toBytes 2 32 ++
      [0#8, 0#8] ++ toBytes 2 1 ++ zeros 44 ++ toBytes 4 (2 ^ 17)) }
/-- KV_MAP of one entry from address 256 into the list. -/
def kvDesc : Desc := vfDesc (0x08 + 2 ^ 160 + 256 * 2 ^ 192)

/-- Stream 0 of HN is bound on CSI-2 port 0, with a frame in progress and one held; port 0 and MAC 0 are on. -/
def ingState : State := { vfState with regs := [(ingBase 0 + 0x100, 1), (ingBase 0 + 0x140, 1)] }
def framed : State :=
  { ingState with ing := [(0, { streams := [(0, { st := .bound, part := 1, dataType := 0x2A, lineBytes := 64, nLines := 16,
                                                  deadline := some 4, cur := some { seq := 0 }, held := [{ seq := 7 }] })] })] }
def ethState : State :=
  { ingState with ing := [(0, { streams := [(1, { st := .bound, part := 1, source := 1, lineBytes := 46, nLines := 4 })] })] }
/-- STREAM_BIND of stream 0 of HN to port 0, and its unbinding. -/
def bindDesc : Desc := vfDesc (0x09 + 0xFF * 2 ^ 40 + 0x2A * 2 ^ 96 + 64 * 2 ^ 192 + 16 * 2 ^ 208)
def unbindDesc : Desc := vfDesc (0x09 + 0xFF * 2 ^ 40 + 8 * 2 ^ 72)
/-- HN is a gPTP end station. -/
def gptpState : State := { live with regs := [(ingBase 0 + 0x1C, 1)] }

/-- Entry 0 of HN's seedling engine has a layer and a frame in work; or a last layer whose semaphore stands at its count. -/
def sdlJob0 : SdlJob := { raw := zeros 256, weights := [], wscales := [], bias := [], used := 0 }
def sdlFrame : Frame := { seq := 7, ended := true, sdl := [0] }
def sdlState : State :=
  { live with ing := [(0, { streams := [(0, { st := .bound, part := 1, lineBytes := 64, nLines := 16, held := [sdlFrame] })] })],
              sdl := [(0, { ents := [(0, { active := true, job := some sdlJob0, cur := some 7 })] })] }
def sdlLast : SdlJob := { sdlJob0 with raw := [0, 0, 1] }
def sdlLastState : State :=
  { live with eff := [(entReg 0 0 0, 2)], sdl := [(0, { ents := [(0, { active := true, job := some sdlLast })] })] }
/-- The engine of HN runs for partition 1, and its instant 0 is due; source 0 reads the point list at address 4096. -/
def fusOn : State := { vfState with regs := [(fusReg 0 0x10, 3)], fus := [(0, { on := true })] }
def listState : State :=
  { fusOn with
    dram := putBytes [] 4096 [1#8], prt := { parts := [(1, { (getPart vfState 1) with sems := [(0, 1)] })] },
    fus := [(0, { on := true, srcs := [(0, { active := true, raw := [0, 0, 1] ++ zeros 38 ++ [0x10] })] })] }
/-- CAL_LOAD for sensor 0 of HN, of the entry at address 4096: identity placement in z, ranges 0 to 1. -/
def calDesc : Desc := vfDesc (0x0A + 0xFF * 2 ^ 40 + 4096 * 2 ^ 128)
def calState : State :=
  { fusOn with dram := putBytes (putBytes (putBytes [] 4096 [1#8]) (4096 + 18) [0x80, 0x3F]) (4096 + 126) [0x80, 0x3F] }

/-- HN's 32 GiB serve in set 0; a read or a write of line 0 by the hub waits in its channel. -/
def dramUp : State := { live with drc := [(0, { st := 2, type := 2, gib := 32, trained := [0, 1] })] }
def rdReq : MemReq := { isWrite := false, addr := 0, len := 64, data := [], who := .hub 1, since := 0 }
def wrReq : MemReq := { isWrite := true, addr := 0, len := 64, data := zeros 63 ++ [1#8], who := .hub 1, since := 0 }
def rdWaits : State := { live with drc := [(0, { st := 2, type := 2, gib := 32, chans := [(0, { reads := [rdReq] })] })] }
def wrWaits : State := { live with drc := [(0, { st := 2, type := 2, gib := 32, chans := [(0, { writes := [wrReq] })] })] }
/-- DRAM_FREQ of HN to set 1. -/
def freqDesc : Desc := pfDesc (0x16 + 2 ^ 64 + 2 ^ 72)
def freqState : State := { rung with drc := dramUp.drc }

/-- KEY_IMPORT to slot 1, and the import to slot 0 that waits for its policy; ATTEST of partition 1 to host address 64. -/
def keyDesc : Desc := vfDesc (0x19 + 0xFF * 2 ^ 40 + 1 * 2 ^ 64 + 256 * 2 ^ 192)
def importState : State :=
  inq keyDesc { vfState with prt := { parts := [(1, { (getPart vfState 1) with sec := { importing := some (0, []) } })] } }
def attestDesc : Desc := vfDesc (0x1A + 0xFF * 2 ^ 40 + 1 * 2 ^ 64 + 64 * 2 ^ 128 + 8192 * 2 ^ 192)

/-! The spec's own examples of places, ways and costs. -/

/-- R22's example and R17: core 77 is core 13 of its die; HN reaches CD2 over links 0 and 6, or 1, 7 and 5. -/
theorem test_route : meshXY 13 = (5, 1) ∧ routeMain 4 2 false = [0, 6] ∧ routeAlt 4 2 false = [1, 7, 5] := by decide

/-- Table 8.6: 1,928 cycles. -/
theorem test_attn_cost : attnCycles 128 1 [(1, 32, 12)] = 1928 := by decide

/-- Table 19.1, doorbell to dispatch at 90 %: 4.30 µs; R104: 29,429,760 bytes in 175.2 µs at share 160. -/
theorem test_load : meanLatency 2500000 400000 9 10 = 4300000 ∧ heelRate 9600 160 256 = 168000 := by decide

/-- The example after R503: DDR_N_13_RDQS1_C at row 19, column 48, and its counterpart at row 54. -/
theorem test_ball : memBall 0 13 5 2 = ballAt 19 48 ∧ memBall 1 13 5 2 = ballAt 54 48 := ⟨rfl, rfl⟩
/-! ## Checks of WellFormed: each refuses a term out of its range and takes one in it -/

theorem test_wf_registerWrite_acc : wellFormed (.registerWrite 0 .pf 0 0) = true ∧ wellFormed (.registerWrite 0 (.vf 33) 0 0) = false := by decide
theorem test_wf_registerWrite_off : wellFormed (.registerWrite 0 .pf 0 0) = true ∧ wellFormed (.registerWrite 0 .pf 2 0) = false := by decide
theorem test_wf_misalignedAccess_off : wellFormed (.misalignedAccess 0 .pf 0 2 false) = true ∧ wellFormed (.misalignedAccess 0 .pf (2 ^ 26) 2 false) = false := by decide
theorem test_wf_misalignedAccess_size : wellFormed (.misalignedAccess 0 .pf 0 2 false) = true ∧ wellFormed (.misalignedAccess 0 .pf 0 4 false) = false := by decide
theorem test_wf_sqDoorbell_fn : wellFormed (.sqDoorbell 0 0 0 0) = true ∧ wellFormed (.sqDoorbell 0 33 0 0) = false := by decide
theorem test_wf_sqDoorbell_ring : wellFormed (.sqDoorbell 0 0 0 0) = true ∧ wellFormed (.sqDoorbell 0 0 4 0) = false := by decide
theorem test_wf_sqDoorbell_val : wellFormed (.sqDoorbell 0 0 0 0) = true ∧ wellFormed (.sqDoorbell 0 0 0 (2 ^ 32)) = false := by decide
theorem test_wf_cqDoorbell_ring : wellFormed (.cqDoorbell 0 0 4 0) = true ∧ wellFormed (.cqDoorbell 0 0 3 0) = false := by decide
theorem test_wf_ringEnable_ring : wellFormed (.ringEnable 0 0 0) = true ∧ wellFormed (.ringEnable 0 0 8) = false := by decide
theorem test_wf_ringFetch_hub : wellFormed (.ringFetch 0 0 0 []) = true ∧ wellFormed (.ringFetch 0 2 0 []) = false := by decide
theorem test_wf_ringFetch_load : wellFormed (.ringFetch 0 0 0 []) = true ∧ wellFormed (.ringFetch 0 0 101 []) = false := by decide
theorem test_wf_ringFetch_descs : wellFormed (.ringFetch 0 0 0 []) = true ∧ wellFormed (.ringFetch 0 0 0 (List.replicate 9 0)) = false := by decide
theorem test_wf_ringFetchError_addr : wellFormed (.ringFetchError 0 0 0 0) = true ∧ wellFormed (.ringFetchError 0 0 0 (2 ^ 64)) = false := by decide
theorem test_wf_msixUnmask_vec : wellFormed (.msixUnmask 0 0 0) = true ∧ wellFormed (.msixUnmask 0 0 64) = false := by decide
theorem test_wf_vfFlr_p : wellFormed (.vfFlr 0 1) = true ∧ wellFormed (.vfFlr 0 0) = false := by decide
theorem test_wf_pfFlr_link : wellFormed (.pfFlr 0 0) = true ∧ wellFormed (.pfFlr 0 4) = false := by decide
theorem test_wf_pcieLinkReturn_speed : wellFormed (.pcieLinkReturn 0 0 0 0 false) = true ∧ wellFormed (.pcieLinkReturn 0 0 8 0 false) = false := by decide
theorem test_wf_pcieLinkReturn_width : wellFormed (.pcieLinkReturn 0 0 0 0 false) = true ∧ wellFormed (.pcieLinkReturn 0 0 0 16 false) = false := by decide
theorem test_wf_freqGroupSwitch_grp : wellFormed (.freqGroupSwitch 0 0 0) = true ∧ wellFormed (.freqGroupSwitch 0 0 4) = false := by decide
theorem test_wf_stopPointReached_g : wellFormed (.stopPointReached 0 0) = true ∧ wellFormed (.stopPointReached 0 128) = false := by decide
theorem test_wf_heelInDone_slot : wellFormed (.heelInDone 0 1 0) = true ∧ wellFormed (.heelInDone 0 1 16) = false := by decide
theorem test_wf_tileIssue_engine : wellFormed (.tileIssue 0 0 0) = true ∧ wellFormed (.tileIssue 0 0 8) = false := by decide
theorem test_wf_dmaEntryStart_q : wellFormed (.dmaEntryStart 0 0 0) = true ∧ wellFormed (.dmaEntryStart 0 0 2) = false := by decide
theorem test_wf_meshPacketLost_die : wellFormed (.meshPacketLost 0 0 0 0 1 0) = true ∧ wellFormed (.meshPacketLost 0 4 0 0 1 0) = false := by decide
theorem test_wf_meshPacketLost_c : wellFormed (.meshPacketLost 0 0 0 0 1 0) = true ∧ wellFormed (.meshPacketLost 0 0 32 0 1 0) = false := by decide
theorem test_wf_meshPacketLost_vc : wellFormed (.meshPacketLost 0 0 0 0 1 0) = true ∧ wellFormed (.meshPacketLost 0 0 0 8 1 0) = false := by decide
theorem test_wf_sdlEntryCommit_h : wellFormed (.sdlEntryCommit 0 0 0) = true ∧ wellFormed (.sdlEntryCommit 0 2 0) = false := by decide
theorem test_wf_sdlEntryCommit_e : wellFormed (.sdlEntryCommit 0 0 0) = true ∧ wellFormed (.sdlEntryCommit 0 0 64) = false := by decide
theorem test_wf_sliceEnd_eng : wellFormed (.sliceEnd 0 0 0) = true ∧ wellFormed (.sliceEnd 0 2 0) = false := by decide
theorem test_wf_csiLongPacket_port : wellFormed (.csiLongPacket 0 0 0 0 0 0 false [] false []) = true ∧ wellFormed (.csiLongPacket 0 0 12 0 0 0 false [] false []) = false := by decide
theorem test_wf_csiLongPacket_vc : wellFormed (.csiLongPacket 0 0 0 0 0 0 false [] false []) = true ∧ wellFormed (.csiLongPacket 0 0 0 16 0 0 false [] false []) = false := by decide
theorem test_wf_csiLongPacket_dt : wellFormed (.csiLongPacket 0 0 0 0 0 0 false [] false []) = true ∧ wellFormed (.csiLongPacket 0 0 0 0 64 0 false [] false []) = false := by decide
theorem test_wf_frameStart_fn : wellFormed (.frameStart 0 0 0 0 0) = true ∧ wellFormed (.frameStart 0 0 0 0 (2 ^ 16)) = false := by decide
theorem test_wf_ethFrame_mac : wellFormed (.ethFrame 0 0 0 0 0 0 0 false false [] false []) = true ∧ wellFormed (.ethFrame 0 0 4 0 0 0 0 false false [] false []) = false := by decide
theorem test_wf_ethFrame_dst : wellFormed (.ethFrame 0 0 0 0 0 0 0 false false [] false []) = true ∧ wellFormed (.ethFrame 0 0 0 (2 ^ 48) 0 0 0 false false [] false []) = false := by decide
theorem test_wf_ethFrame_etype : wellFormed (.ethFrame 0 0 0 0 0 0 0 false false [] false []) = true ∧ wellFormed (.ethFrame 0 0 0 0 (2 ^ 16) 0 0 false false [] false []) = false := by decide
theorem test_wf_ethFrame_vlan : wellFormed (.ethFrame 0 0 0 0 0 0 0 false false [] false []) = true ∧ wellFormed (.ethFrame 0 0 0 0 0 4096 0 false false [] false []) = false := by decide
theorem test_wf_frameGapExpiry_n : wellFormed (.frameGapExpiry 0 0 0) = true ∧ wellFormed (.frameGapExpiry 0 0 48) = false := by decide
theorem test_wf_fusionSourceCommit_e : wellFormed (.fusionSourceCommit 0 0 0) = true ∧ wellFormed (.fusionSourceCommit 0 0 32) = false := by decide
theorem test_wf_dramRead_ch : wellFormed (.dramRead 0 0 0 0 false) = true ∧ wellFormed (.dramRead 0 0 16 0 false) = false := by decide
theorem test_wf_sidebandMessage_k : wellFormed (.sidebandMessage 0 0 false false) = true ∧ wellFormed (.sidebandMessage 0 10 false false) = false := by decide
theorem test_wf_linkTrain_fails : wellFormed (.linkTrain 0 0 [] 0 0 false) = true ∧ wellFormed (.linkTrain 0 0 (List.replicate 9 []) 0 0 false) = false := by decide
theorem test_wf_e2eAck_src : wellFormed (.e2eAck 0 0 0 []) = true ∧ wellFormed (.e2eAck 0 6 0 []) = false := by decide
theorem test_wf_e2eAck_dst : wellFormed (.e2eAck 0 0 0 []) = true ∧ wellFormed (.e2eAck 0 0 6 []) = false := by decide
theorem test_wf_dieHeartbeat_d : wellFormed (.dieHeartbeat 0 0 false) = true ∧ wellFormed (.dieHeartbeat 0 4 false) = false := by decide
theorem test_wf_fenceReceive_lost : wellFormed (.fenceReceive 0 0 0) = true ∧ wellFormed (.fenceReceive 0 0 4) = false := by decide
theorem test_wf_resultRecord_isl : wellFormed (.resultRecord 0 0) = true ∧ wellFormed (.resultRecord 0 2) = false := by decide
theorem test_wf_unmatchedExpiry_n : wellFormed (.unmatchedExpiry 0 0 0) = true ∧ wellFormed (.unmatchedExpiry 0 0 64) = false := by decide
theorem test_wf_swatchDone_ch : wellFormed (.swatchDone 0 0 0 0) = true ∧ wellFormed (.swatchDone 0 0 0 2) = false := by decide
theorem test_wf_recoveryChunk_chunk : wellFormed (.recoveryChunk 0 .pf 0 false false) = true ∧ wellFormed (.recoveryChunk 0 .pf 64 false false) = false := by decide
theorem test_wf_debugToken_level : wellFormed (.debugToken 0 1 [] [] [] []) = true ∧ wellFormed (.debugToken 0 0 [] [] [] []) = false := by decide
theorem test_wf_modeRequest_req : wellFormed (.modeRequest 0 .pf 0) = true ∧ wellFormed (.modeRequest 0 .pf 4) = false := by decide
theorem test_wf_quadrantGate_q : wellFormed (.quadrantGate 0 0 0) = true ∧ wellFormed (.quadrantGate 0 0 4) = false := by decide
theorem test_wf_capTick_w : wellFormed (.capTick 0 [0, 0, 0, 0] 0) = true ∧ wellFormed (.capTick 0 [1] 0) = false := by decide
theorem test_wf_thermalSample_sensor : wellFormed (.thermalSample 0 0 0 false) = true ∧ wellFormed (.thermalSample 0 56 0 false) = false := by decide
theorem test_wf_railFault_rail : wellFormed (.railFault 0 0 0) = true ∧ wellFormed (.railFault 0 16 0) = false := by decide
theorem test_wf_ageingMeasure_x : wellFormed (.ageingMeasure 0 0 []) = true ∧ wellFormed (.ageingMeasure 0 6 []) = false := by decide
theorem test_wf_vfEnableWrite_num : wellFormed (.vfEnableWrite 0 0 false 0) = true ∧ wellFormed (.vfEnableWrite 0 0 false (2 ^ 16)) = false := by decide
theorem test_wf_managementClusterAccess_core : wellFormed (.managementClusterAccess 0 0 0 0 false 0 []) = true ∧ wellFormed (.managementClusterAccess 0 0 4 0 false 0 []) = false := by decide
theorem test_wf_managementClusterAccess_len : wellFormed (.managementClusterAccess 0 0 0 0 false 0 []) = true ∧ wellFormed (.managementClusterAccess 0 0 0 0 false 65 []) = false := by decide


/-! ## Worked examples of the spec: every number on the right of an equation is the spec's own -/

/-- spec/01, the example of core 77: its registers start at 0x018D_0000. -/
theorem test_core_77 : (Blk.core 77).base = 0x18D0000 ∧ blkOf 0x18D0000 = some (.core 77) ∧ quadOf 13 = 1 := by decide

/-- spec/06 Table 6.9: the block scale of amax 3.7 against E4M3's 448 is BF16 0x3C08, and E8M0 0x79. -/
theorem test_scale_of_3_7 : (match f32 0x406CCCCD with | .fin _ n d => (upBf16 n (448 * d), upE8 n (448 * d)) | _ => (0, 0)) = (0x3C08, 0x79) := by
  decide +kernel

/-- spec/06 Table 6.9: 3.7 over the scale 136/128 · 2^-7 rounds to E4M3 code 0x7E, -1.0 to 0xEF, 0.01 to 0x3A and 0.0001 to 0x06. -/
theorem test_codes_of_table_6_9 :
    ([(false, 37, 10), (true, 1, 1), (false, 1, 100), (false, 1, 10000)].map fun x : Bool × Nat × Nat =>
      ((e4m3.encode (.fin x.1 (x.2.1 * 128 * 2 ^ 7) (x.2.2 * 136))).run { ctl := 0 }).1) = [0x7E, 0xEF, 0x3A, 0x06] := by
  decide +kernel

/-- spec/06, the delayed scale: up_bf16(14.25 / 448) is BF16 0x3D03, and up_bf16(16.5 / 448) is 0x3D17. -/
theorem test_delayed_scale : (upBf16 1425 44800, upBf16 165 4480) = (0x3D03, 0x3D17) := by decide +kernel

/-- spec/11, the cell of instant 100: occ 3,600, free 800 and t_ref 23,241 decay to 900, 200 and 23,753; three hits of 600
and four misses of 300 leave occ 2,700, free 1,400 and conflict 1. -/
theorem test_cell_of_instant_100 :
    let c := decay 256 25000000000 (3600 + 800 * 2 ^ 12 + 23241 * 2 ^ 32)
    let e := [600, 600, 600].foldl (fun c h => (addEv 1024 c h 0).1) c
    let e := [300, 300, 300, 300].foldl (fun c m => (addEv 1024 c 0 m).1) e
    (bits c 0 12, bits c 12 12, bits c 32 24) = (900, 200, 23753) ∧ (bits e 0 12, bits e 12 12, bits e 24 4) = (2700, 1400, 1) := by
  decide +kernel

/-- spec/16 Table 16.8: the second drop of stream 4 merges into slot 277, with repeat 2, the first time and the new
data; EVR_HEAD stays 4,119 and the kept slots stay as they are. -/
theorem test_event_merges_by_table_16_8 :
    let drop (tm st sq : Nat) : EvRec := { time := tm, code := 0x0703, sev := 3, repeats := 1, part := 2, ctx := 0xFF, data := [0, BitVec.ofNat 8 st, BitVec.ofNat 8 sq, 4], keyLen := 2 }
    let e := (storeEvent 3 64 { head := 4117, kept := 12 } (drop 5000001840 4 0xB0)).1
    let e := (storeEvent 3 64 e (drop 5000001840 5 0xB0)).1
    let u := (storeEvent 3 64 e (drop 5033335173 4 0xB1)).1
    (e.head, e.kept, u.head, u.kept) = (4119, 14, 4119, 14) ∧ tabGet dEv u.slots 277 = { drop 5000001840 4 0xB1 with repeats := 2 } ∧
      tabGet dEv u.slots 12 = drop 5000001840 4 0xB0 := by
  decide +kernel

/-- spec/05, the worked word: op 0x21, td 2 and tb 1 make the upper 32 bits 0x8400_1008. -/
theorem test_mma_word : let w : InstrWord := BitVec.ofNat 128 (0x84001008 * 2 ^ 96); opOf w = 0x21 ∧ wf w 107 4 = 2 ∧ wf w 99 4 = 1 ∧ wf w 103 4 = 0 := by
  decide +kernel

/-- spec/00, the example of an sh field: a read between the writes returns the shadow value; what takes effect at the
boundary is the last value written. -/
theorem test_shadow_field :
    let s := regSet 0x20000C 0x0010 State.reset
    let s' := regSet 0x20000C 0x0018 s
    regGet s 0x20000C = 0x10 ∧ effGet s' 0x20000C = regDefault 0x20000C ∧ effGet (commit 0x20000C s') 0x20000C = 0x18 := by
  decide +kernel

/-- spec/05 Table of R163: LOOP of count 0 at pc 0 with ENDL at 4 goes on at 5. -/
theorem test_loop_of_none : (getCore (doLoop 0 (onCore (iw 3 4) {})) 0).pc = 5 := by decide +kernel

/-- R153: a write to s0 is discarded; the pc goes on. -/
theorem test_s0_reads_zero : let u := doAdd 0 (onCore (iw 0x10 (2 ^ 111 + 5)) {}); (getCore u 0).getS 0 = 0 ∧ (getCore u 0).pc = 1 := by
  decide +kernel

theorem wit_registerAccessesAnswer_registerWrite : ∃ (t o : Nat) (acc : Agent) (off : Nat) (_val : Word) (b : Blk) (s : State),
    (off % 4 = 0 ∧ agentAbsent (advance t s) acc = false ∧ absOff acc off = some o ∧ blkOf o = some b) ∧ (reach (advance t s) (answerHub (advance t s) acc) b = .reached ∧ writeReaches (advance t s) acc o = true) :=
  ⟨0, 0x200000, .pf, 0x200000, 0, .prt, live, by decide +kernel⟩

theorem wit_registerAccessesAnswer_absentRead : ∃ (t l : Nat) (fn off : Nat) (s : State),
    (off % 4 = 0 ∧ fnPresent (advance t s) fn = false ∧ accLink (advance t s) (.vf fn) = some l) :=
  ⟨0, 0, 1, 0, live, by decide +kernel⟩

theorem wit_registerAccessesAnswer_expertEnable : ∃ (_t : Nat) (r o : Nat) (acc : Agent) (off : Nat) (b : Blk) (_s : State),
    (absOff acc off = some o ∧ blkOf o = some b ∧ expertReg b = some r ∧ b.base + r = o) :=
  ⟨0, 0x4, 0x2700004, .pf, 0x2700004, .evr, live, by decide +kernel⟩

theorem wit_registerAccessesAnswer_latchingLoRead : ∃ (t o : Nat) (acc : Agent) (off : Nat) (b : Blk) (s : State),
    (off % 4 = 0 ∧ agentAbsent (advance t s) acc = false ∧ absOff acc off = some o ∧ blkOf o = some b) ∧ (reach (advance t s) (answerHub (advance t s) acc) b = .reached ∧ wideAt (advance t s) b (o - b.base) = none ∧ otherWindow acc o = false) :=
  ⟨0, 0x200000, .pf, 0x200000, .prt, live, by decide +kernel⟩

theorem wit_registerAccessesAnswer_latchingLoRead2 : ∃ (t o w : Nat) (acc : Agent) (off : Nat) (b : Blk) (s : State),
    (off % 4 = 0 ∧ agentAbsent (advance t s) acc = false ∧ absOff acc off = some o ∧ blkOf o = some b ∧ otherWindow acc o = false) ∧ (reach (advance t s) (answerHub (advance t s) acc) b = .reached ∧ wideAt (advance t s) b (o - b.base) = some w ∧ coreAbsent (advance t s) b = false) :=
  ⟨0, 0x2200010, 0, .pf, 0x2200010, .ing 0, live, by decide +kernel⟩

theorem wit_registerAccessesAnswer_coreCntClr : ∃ (t o g : Nat) (acc : Agent) (off : Nat) (s : State),
    (absOff acc off = some o ∧ blkOf o = some (.core g) ∧ o = (Blk.core g).base + 0x20) ∧ (writeReaches (advance t s) acc o = true) :=
  ⟨0, 0x1000020, 0, .pf, 0x1000020, { live with fuse := { coreEn := [3, 0, 0, 0] } }, by decide +kernel⟩

theorem wit_registerAccessesAnswer_misalignedAccess : ∃ (t size l : Nat) (acc : Agent) (off : Nat) (_w : Bool) (s : State),
    (¬(size = 4 ∧ off % 4 = 0)) ∧ (accLink (noteAccess acc off 2 (advance t s)) acc = some l) :=
  ⟨0, 2, 0, .pf, 0, true, live, by decide +kernel⟩

theorem wit_registerAccessesAnswer_unreachableAccess : ∃ (t : Nat) (acc : Agent) (off : Nat) (_late : Bool) (s : State),
    (accReach (advance t s) acc off = .pdOff) :=
  ⟨0, .pf, 0x2100000, false, { live with pwr := { cd := 0, hn := 0, hs := 0 } }, by decide +kernel⟩

theorem wit_registerAccessesAnswer_unreachableAccess2 : ∃ (t : Nat) (acc : Agent) (off : Nat) (_late : Bool) (b : Blk) (s : State),
    (accReach (advance t s) acc off = .pdOff ∧ accBlk acc off = some b) :=
  ⟨0, .pf, 0x2100000, false, .drc 0, { live with pwr := { cd := 0, hn := 0, hs := 0 } }, by decide +kernel⟩

theorem wit_functionsAndPortsReset_vfFlr : ∃ (_t p : Nat) (_s : State),
    (1 ≤ p ∧ p ≤ 32) :=
  ⟨0, 32, live, by decide +kernel⟩

theorem wit_functionsAndPortsReset_pfFlr : ∃ (t link : Nat) (s : State),
    (linkExists (advance t s) link = true ∧ (advance t s).fuse.mpfLink = link) :=
  ⟨0, 0, live, by decide +kernel⟩

theorem wit_functionsAndPortsReset_vfEnableWrite : ∃ (t link _num : Nat) (s : State),
    (linkExists (advance t s) link = true) :=
  ⟨0, 0, 0, live, by decide +kernel⟩

theorem wit_functionsAndPortsReset_vfEnableWrite2 : ∃ (t link num : Nat) (s : State),
    (linkExists (advance t s) link = true) ∧ ((getPLink (modPLink link (fun l => { l with numVfs := num }) (advance t s)) link).vfEnable = true) :=
  ⟨0, 0, 0, { live with hif := { links := [(0, { up := true, vfEnable := true })] } }, by decide +kernel⟩

theorem wit_ringEngineTakesTurns_ringFetch : ∃ (t hub load fn ring : Nat) (descs : List DescWord) (u s : State),
    (hub < 2 ∧ u = batchMode hub load (advance t s)) ∧ (nextRing u hub = some (fn, ring) ∧ injActive u 0x0201 (fnLink u fn) = false) ∧ (min 8 (ringAvail u fn ring) ≤ descs.length) :=
  ⟨0, 0, 60, 0, 0, [0], oneWaits, oneWaits, by decide +kernel⟩

theorem wit_descriptorsMoveData_nop : ∃ (t id : Nat) (d : Desc) (s : State),
    (Starts (advance t s) id 0x00 d) :=
  ⟨0, 0, { id := 0, fn := 0, ring := 0, raw := 0xFF * 2 ^ 40, st := .waiting }, inq { id := 0, fn := 0, ring := 0, raw := 0xFF * 2 ^ 40, st := .waiting } rung, by decide +kernel⟩

theorem wit_descriptorsMoveData_copy : ∃ (t id : Nat) (src : List Byte) (d : Desc) (s : State),
    (Starts (advance t s) id 0x02 d ∧ copyCheck (advance t s) d = none ∧ bit (d.u 32 1) 0 = true ∧ bit (d.u 32 1) 1 = false) ∧ (copyPolicy (startDesc id (advance t s)) d = none ∧ copyRights (startDesc id (advance t s)) d = none) ∧ ((writePart d.part (d.u 16 8) (fit (d.u 24 8) src) (.hub 2) (startDesc id (advance t s))).1 = none) :=
  ⟨0, 0, zeros 64, copyIn, inq copyIn vfState, by decide +kernel⟩

theorem wit_descriptorsMoveData_copy2 : ∃ (t id : Nat) (_src data : List Byte) (d : Desc) (v s : State),
    (Starts (advance t s) id 0x02 d ∧ copyCheck (advance t s) d = none ∧ bit (d.u 32 1) 0 = false ∧ bit (d.u 32 1) 1 = true) ∧ (copyPolicy (startDesc id (advance t s)) d = none ∧ copyRights (startDesc id (advance t s)) d = none) ∧ (v = (readPart d.part (d.u 8 8) (d.u 24 8) (.hub 2) (startDesc id (advance t s))).2 ∧ (readPart d.part (d.u 8 8) (d.u 24 8) (.hub 2) (startDesc id (advance t s))).1.toOption = some data) ∧ (regionsOf v d.part [4] = [] ∧ (getPLink v (fnLink v d.fn)).up = true) :=
  ⟨0, 0, [], zeros 64, copyOut, (readPart 1 64 64 (.hub 2) (startDesc 0 (advance 0 (inq copyOut vfState)))).2, inq copyOut vfState, by decide +kernel⟩

theorem wit_descriptorsMoveData_fill : ∃ (t id : Nat) (d : Desc) (s : State),
    (Starts (advance t s) id 0x03 d ∧ fillCheck (advance t s) d = none) ∧ (policyStop (startDesc id (advance t s)) d.part (d.u 8 8) (d.u 16 8) = none ∧ refusedAt (startDesc id (advance t s)) d.part (d.u 8 8) (d.u 16 8) true = none) ∧ ((writePart d.part (d.u 8 8) (repeatBytes (toBytes 8 (d.u 24 8)) (d.u 16 8 / 8)) (.hub 2) (startDesc id (advance t s))).1 = none) :=
  ⟨0, 0, fillDesc, inq fillDesc vfState, by decide +kernel⟩

theorem wit_descriptorsMoveData_digest : ∃ (t id : Nat) (data : List Byte) (d : Desc) (v s : State),
    (Starts (advance t s) id 0x0B d ∧ digestCheck (advance t s) d = none ∧ (getPart (startDesc id (advance t s)) d.part).confidential = false) ∧ (v = (readPart d.part (d.u 8 8) (d.u 16 8) (.hub 2) (startDesc id (advance t s))).2 ∧ (readPart d.part (d.u 8 8) (d.u 16 8) (.hub 2) (startDesc id (advance t s))).1.toOption = some data) ∧ ((getPLink v (fnLink v d.fn)).up = true) :=
  ⟨0, 0, zeros 64, digestDesc, (readPart 1 64 64 (.hub 2) (startDesc 0 (advance 0 (inq digestDesc vfState)))).2, inq digestDesc vfState, by refine ⟨?_, ?_, ?_⟩ <;> decide +kernel⟩

theorem wit_descriptorsMoveData_query : ∃ (t id : Nat) (data : List Byte) (d : Desc) (v s : State),
    (Starts (advance t s) id 0x0C d ∧ queryCheck (advance t s) d = none) ∧ (queryAnswer d (startDesc id (advance t s)) = (data, v) ∧ (getPLink v (fnLink v d.fn)).up = true) :=
  ⟨0, 0, fnAnswer (startDesc 0 (advance 0 (inq queryDesc vfState))) 1, queryDesc, startDesc 0 (advance 0 (inq queryDesc vfState)), inq queryDesc vfState, by refine ⟨?_, ?_, ?_⟩ <;> first | decide +kernel | rfl⟩

theorem wit_contextsLaunchAndHold_launch : ∃ (t id k : Nat) (d : Desc) (s : State),
    (slotIdle s id = true ∧ Starts (advance t s) id 0x01 d ∧ d.ctx? = some k) ∧ ((launchCheck (advance t s) d).or (confidentialRun (advance t s) d.part (d.u 8 8)) = none) :=
  ⟨0, 0, 0, launchDesc, inq launchDesc vfState, by decide +kernel⟩

theorem wit_contextsLaunchAndHold_replay : ∃ (t id k : Nat) (d : Desc) (s : State),
    (slotIdle s id = true ∧ Starts (advance t s) id 0x0E d ∧ d.ctx? = some k) ∧ (replayCheck (advance t s) d = none ∧ (getPart (advance t s) d.part).confidential = false) :=
  ⟨0, 0, 0, replayDesc, inq replayDesc vfRecord, by decide +kernel⟩

theorem wit_contextsLaunchAndHold_preempt : ∃ (t id k : Nat) (d : Desc) (s : State),
    (Starts (advance t s) id 0x06 d ∧ d.ctx? = some k ∧ (getCtx (startDesc id (advance t s)) d.part k).st = .idle) :=
  ⟨0, 0, 0, { launchDesc with raw := 0x06 }, inq { launchDesc with raw := 0x06 } vfState, by decide +kernel⟩

theorem wit_contextsLaunchAndHold_resume : ∃ (t id k : Nat) (d : Desc) (s : State),
    (Starts (advance t s) id 0x07 d ∧ d.ctx? = some k ∧ (getCtx (startDesc id (advance t s)) d.part k).st = .held) :=
  ⟨0, 0, 0, { launchDesc with raw := 0x07 }, inq { launchDesc with raw := 0x07 } { vfState with prt := { vfState.prt with ctxs := [(16, { st := .held, before := .idle, hold := true, cores := 1 })] } }, by decide +kernel⟩

theorem wit_contextsLaunchAndHold_resume2 : ∃ (t id k : Nat) (d : Desc) (s : State),
    (Starts (advance t s) id 0x07 d ∧ d.ctx? = some k ∧ (getCtx (startDesc id (advance t s)) d.part k).st ≠ .held) :=
  ⟨0, 0, 0, { launchDesc with raw := 0x07 }, inq { launchDesc with raw := 0x07 } vfState, by decide +kernel⟩

theorem wit_contextsLaunchAndHold_recordStart : ∃ (t id : Nat) (d : Desc) (s : State),
    (recordMode s id 0 = true ∧ Starts (advance t s) id 0x0D d ∧ recordCheck (advance t s) d = none) :=
  ⟨0, 0, recDesc, inq recDesc vfFresh, by decide +kernel⟩

theorem wit_contextsLaunchAndHold_recordStop : ∃ (t id k : Nat) (d : Desc) (s : State),
    (recordMode s id 1 = true ∧ Starts (advance t s) id 0x0D d ∧ d.ctx? = some k ∧ (getCtx (advance t s) d.part k).recording ≠ none) :=
  ⟨0, 0, 0, { launchDesc with raw := 0x0D + 2 ^ 64 }, inq { launchDesc with raw := 0x0D + 2 ^ 64 } vfRecording, by decide +kernel⟩

theorem wit_semaphoresAndLocks_wait : ∃ (t id : Nat) (d : Desc) (s : State),
    (Starts (advance t s) id 0x04 d ∧ waitCheck (advance t s) d = none) :=
  ⟨0, 0, { launchDesc with raw := 0x04 }, inq { launchDesc with raw := 0x04 } vfState, by decide +kernel⟩

theorem wit_semaphoresAndLocks_signal : ∃ (t id : Nat) (d : Desc) (s : State),
    (Starts (advance t s) id 0x05 d ∧ signalCheck (advance t s) d = none) :=
  ⟨0, 0, { launchDesc with raw := 0x05 }, inq { launchDesc with raw := 0x05 } vfState, by decide +kernel⟩

theorem wit_semaphoresAndLocks_semaphoreTimeout : ∃ (t p i e : Nat) (x : Waiting) (s : State),
    ((getPart (advance t s) p).waits[i]? = some x ∧ x.until_ = some e ∧ e ≤ (advance t s).clk ∧ x.sem < 960) :=
  ⟨1000, 1, 0, 1000, { sem := 3, who := .desc 7, want := .atLeast 1, until_ := some 1000 }, { vfState with prt := { parts := [(1, { st := 1, waits := [{ sem := 3, who := .desc 7, want := .atLeast 1, until_ := some 1000 }] })] } }, by decide +kernel⟩

theorem wit_semaphoresAndLocks_holdBudgetExpiry : ∃ (t p k e m x : Nat) (s : State),
    ((getCtx (advance t s) p k).holdEnds = some (e, m, x) ∧ e ≤ (advance t s).clk ∧ (getMutex (advance t s) p m).owner = some k) :=
  ⟨500, 1, 0, 500, 960, 1, { vfState with prt := { parts := [(1, { st := 1, mutexes := [(960, { owner := some 0 })] })], ctxs := [(16, { st := .running, holdEnds := some (500, 960, 1) })] } }, by decide +kernel⟩

theorem wit_semaphoresAndLocks_quantumExpiry : ∃ (t p k : Nat) (s : State),
    ((getCtx (advance t s) p k).st = .running ∧ 0 < quantumNs (advance t s) ∧ (getCtx (advance t s) p k).dispatchTime + quantumNs (advance t s) ≤ (advance t s).clk) ∧ (equalWaits (advance t s) p k = true ∧ longestRunning (advance t s) p k = true) :=
  ⟨100000000, 1, 0, { vfState with eff := [(0x20000C, 1)], prt := { parts := [(1, { st := 1, cores := [1, 0, 0, 0] })], ctxs := [(16, { st := .running, cores := 1, place := [0] }), (17, { st := .ready, cores := 4 })] } }, by decide +kernel⟩

theorem wit_semaphoresAndLocks_budgetExpiry : ∃ (t p k g : Nat) (l : Launch) (r : List Nat) (s : State),
    ((getCtx (advance t s) p k).launch = some l ∧ (getCtx (advance t s) p k).place = g :: r) ∧ ((getCtx (advance t s) p k).resident = true ∧ l.budget ≠ 0 ∧ l.budget * 1000 < runNs (advance t s) (getCtx (advance t s) p k)) :=
  ⟨2000, 1, 0, 0, { desc := none, opcode := 1, budget := 1 }, [], { vfState with prt := { vfState.prt with ctxs := [(16, { st := .running, cores := 1, place := [0], launch := some { desc := none, opcode := 1, budget := 1 }, began := 0 })] } }, by decide +kernel⟩

theorem wit_hostRingsTakeBellsAndEnable_sqDoorbell : ∃ (t fn ring val : Nat) (s : State),
    (fn ≤ 32 ∧ ring < 4 ∧ hasRing fn ring = true) ∧ (fnPresent (advance t s) fn = true) ∧ ((getRing (advance t s) fn ring).st = .active) ∧ (val < ringSize (advance t s) fn ring) :=
  ⟨0, 0, 0, 0, rung, by decide +kernel⟩

theorem wit_hostRingsTakeBellsAndEnable_cqDoorbell : ∃ (t fn ring val : Nat) (s : State),
    (fn ≤ 32 ∧ 4 ≤ ring ∧ hasRing fn ring = true) ∧ (fnPresent (advance t s) fn = true) ∧ ((getRing (advance t s) fn ring).st = .active) ∧ (val < ringSize (advance t s) fn ring) ∧ ((getRing (advance t s) fn ring).held = []) :=
  ⟨0, 0, 4, 0, rung, by decide +kernel⟩

theorem wit_hostRingsTakeBellsAndEnable_ringEnable : ∃ (t fn ring : Nat) (s u : State),
    (fn ≤ 32 ∧ 4 ≤ ring ∧ hasRing fn ring = true) ∧ (fnPresent (advance t s) fn = true) ∧ ((getRing (advance t s) fn ring).st = .off) ∧ (u = fldSet (winReg fn (0x108 + 0x20 * ring)) 16 1 1 (advance t s)) ∧ (ringBase u fn ring % 4096 = 0 ∧ 6 ≤ fld (advance t s) (winReg fn (0x108 + 0x20 * ring)) 0 5 ∧ fld (advance t s) (winReg fn (0x108 + 0x20 * ring)) 0 5 ≤ 16) :=
  ⟨0, 0, 4, { live with regs := [(winReg 0 0x188, 6)] }, fldSet (winReg 0 0x188) 16 1 1 { live with regs := [(winReg 0 0x188, 6)] }, by decide +kernel⟩

theorem wit_hostRingsTakeBellsAndEnable_ringEnable2 : ∃ (t fn ring : Nat) (s u : State),
    (fn ≤ 32 ∧ ring < 4 ∧ hasRing fn ring = true) ∧ (fnPresent (advance t s) fn = true) ∧ ((getRing (advance t s) fn ring).st = .off ∧ (getRing u fn (ring + 4)).st = .active) ∧ (u = fldSet (winReg fn (0x108 + 0x20 * ring)) 16 1 1 (advance t s)) ∧ (ringBase u fn ring % 4096 = 0 ∧ 6 ≤ fld (advance t s) (winReg fn (0x108 + 0x20 * ring)) 0 5 ∧ fld (advance t s) (winReg fn (0x108 + 0x20 * ring)) 0 5 ≤ 16) ∧ (verOk (fld (advance t s) (winReg fn (0x108 + 0x20 * ring)) 8 4) = true) :=
  ⟨0, 0, 1, { rung with regs := [(winReg 0 0x128, 0x106)], hif := { rung.hif with fns := [(0, { rings := [(5, { st := .active })] })] } }, fldSet (winReg 0 0x128) 16 1 1 { rung with regs := [(winReg 0 0x128, 0x106)], hif := { rung.hif with fns := [(0, { rings := [(5, { st := .active })] })] } }, by decide +kernel⟩

theorem wit_hostRingsDrainAndFail_ringDisable : ∃ (t fn ring : Nat) (s : State),
    (fn ≤ 32 ∧ ring < 4 ∧ hasRing fn ring = true) ∧ (fnPresent (advance t s) fn = true) ∧ ((getRing (advance t s) fn ring).st = .active) :=
  ⟨0, 0, 0, rung, by decide +kernel⟩

theorem wit_hostRingsDrainAndFail_ringDrainDone : ∃ (t fn ring : Nat) (s : State),
    (ring < 4) ∧ ((getRing (advance t s) fn ring).st = .draining ∧ ringDrained (advance t s) fn ring = true) :=
  ⟨0, 0, 0, { live with hif := { live.hif with fns := [(0, { rings := [(0, { st := .draining })] })] } }, by decide +kernel⟩

theorem wit_hostRingsDrainAndFail_ringFetchError : ∃ (t fn ring _addr : Nat) (s : State),
    (ring < 4 ∧ (getRing (advance t s) fn ring).st = .active) :=
  ⟨0, 0, 0, 0, rung, by decide +kernel⟩

theorem wit_hostRingsDrainAndFail_coalesceTimeout : ∃ (t fn ring : Nat) (s : State),
    (4 ≤ ring ∧ ring < 8 ∧ 0 < (getRing (advance t s) fn ring).count) ∧ ((getRing (advance t s) fn ring).oldest + (irqThr (advance t s) fn ring).2 * 4000 ≤ (advance t s).clk) :=
  ⟨4000, 0, 4, { live with hif := { live.hif with fns := [(0, { rings := [(4, { count := 1 })] })] } }, by decide +kernel⟩

theorem wit_hostRingsDrainAndFail_msixUnmask : ∃ (t fn vec : Nat) (s : State),
    (fn ≤ 32 ∧ vec < vectors fn) ∧ ((getFn (advance t s) fn).pendingBits.elem vec = false ∧ (getFn (advance t s) fn).unmasked.elem vec = false) :=
  ⟨0, 0, 0, live, by decide +kernel⟩

theorem wit_pcieLinksComeAndGo_pcieLinkDown : ∃ (t link : Nat) (s : State),
    (link < 4 ∧ (getPLink (advance t s) link).up = true) :=
  ⟨0, 0, live, by decide +kernel⟩

theorem wit_pcieLinksComeAndGo_pcieLinkReturn : ∃ (t link _speed _width : Nat) (_flit : Bool) (s : State),
    (link < 4 ∧ linkExists (advance t s) link = true ∧ (getPLink (advance t s) link).up = false) ∧ ((getHub (advance t s) (linkHub link)).inReset = false ∧ tabGet dBool (advance t s).pwr.perst (linkHub link) = false) :=
  ⟨0, 2, 0, 0, false, live, by decide +kernel⟩

theorem wit_partitionsComeAndGo_partCreate : ∃ (t id : Nat) (d : Desc) (s : State),
    (ScionServes s ∧ Starts (advance t s) id 0x10 d ∧ partCreateCheck (advance t s) d = none) :=
  ⟨0, 0, pcDesc, inq pcDesc pfState, by decide +kernel⟩

theorem wit_partitionsComeAndGo_partDestroy : ∃ (t id : Nat) (d : Desc) (s : State),
    (ScionServes s ∧ Starts (advance t s) id 0x11 d ∧ partDestroyCheck (advance t s) d = none) :=
  ⟨0, 0, pdDesc, inq pdDesc vfState, by decide +kernel⟩

theorem wit_partitionsComeAndGo_ctxCreate : ∃ (t id : Nat) (d : Desc) (s : State),
    (Starts (advance t s) id 0x12 d ∧ ctxCreateCheck (advance t s) d = none) :=
  ⟨0, 0, ccDesc, inq ccDesc vfState, by decide +kernel⟩

theorem wit_partitionsComeAndGo_ctxDestroy : ∃ (t id : Nat) (d : Desc) (s : State),
    (Starts (advance t s) id 0x13 d ∧ partNamed (advance t s) d = true ∧ (getCtx (startDesc id (advance t s)) d.part d.slot).st ≠ .faulted ∧ bit (d.u 9 1) 0 = true) :=
  ⟨0, 0, vfDesc (0x13 + 2 ^ 72), inq (vfDesc (0x13 + 2 ^ 72)) vfState, by decide +kernel⟩

theorem wit_partitionsComeAndGo_memMap : ∃ (t id : Nat) (d : Desc) (s : State),
    (unmapBit s id = some false ∧ ScionServes s ∧ Starts (advance t s) id 0x14 d ∧ memMapCheck (advance t s) d = none) :=
  ⟨0, 0, mmDesc, inq mmDesc mapState, by decide +kernel⟩

theorem wit_partitionsComeAndGo_memUnmap : ∃ (t id : Nat) (d : Desc) (s : State),
    (unmapBit s id = some true ∧ ScionServes s ∧ Starts (advance t s) id 0x14 d ∧ memUnmapCheck (advance t s) d = none) :=
  ⟨0, 0, muDesc, inq muDesc vfState, by decide +kernel⟩

theorem wit_partitionsComeAndGo_mirrorApply : ∃ (t : Nat) (s : State),
    ((getHub (advance t s) 0).up = true ∧ (getHub (advance t s) 1).up = true ∧ hubsJoined (advance t s) = true ∧ (advance t s).inj.busy = none) :=
  ⟨0, live, by decide +kernel⟩

theorem wit_partitionsComeAndGo_mirrorLost : ∃ (t : Nat) (s : State),
    ((advance t s).prt.applied < (advance t s).prt.changes ∧ (advance t s).prt.mirrorOk = true) :=
  ⟨0, { live with prt := { changes := 1, mirrorOk := true } }, by decide +kernel⟩

theorem wit_contextsHeelAndReplant_stopPointReached : ∃ (t g : Nat) (s : State),
    ((getCore (advance t s) g).role ≠ .free ∧ (getCore (advance t s) g).stop = .requested) :=
  ⟨0, 0, { live with cores := [(0, { role := .placed, part := 1, stop := .requested })] }, by decide +kernel⟩

theorem wit_contextsHeelAndReplant_drainDone : ∃ (t g : Nat) (c : Core) (s : State),
    (c = getCore (advance t s) g ∧ c.stop = .stopped ∧ drained (advance t s) g = true ∧ (getCtx (advance t s) c.part c.slot).cause ≠ .coreMove) ∧ ((writeBlock c.part ((getCtx (advance t s) c.part c.slot).heelAddr + blockOff c.idx) c (advance t s)).1 = none) :=
  ⟨0, 0, { role := .placed, part := 1, stop := .stopped }, { vfState with cores := [(0, { role := .placed, part := 1, stop := .stopped })] }, by refine ⟨by decide +kernel, writeBlock_sound ?_ ?_ ?_⟩ <;> decide +kernel⟩

theorem wit_contextsHeelAndReplant_drainDone2 : ∃ (t g : Nat) (s : State),
    ((getCore (advance t s) g).stop = .stopped ∧ drained (advance t s) g = true) ∧ ((getCtx (advance t s) (getCore (advance t s) g).part (getCore (advance t s) g).slot).cause = .coreMove) :=
  ⟨0, 0, { vfState with cores := [(0, { role := .placed, part := 1, stop := .stopped })], prt := { vfState.prt with ctxs := [(16, { st := .heeling, cause := .coreMove })] } }, by decide +kernel⟩

theorem wit_contextsHeelAndReplant_heelInDone : ∃ (t p k : Nat) (s : State),
    ((getCtx (advance t s) p k).st = .heeling ∧ (getCtx (advance t s) p k).cause ≠ .coreMove ∧ (getCtx (advance t s) p k).place.all (fun g => (getCore (advance t s) g).stop = .saved) = true) ∧ ((writePart p (getCtx (advance t s) p k).heelAddr (heelHeader (advance t s) p k) (.hub 1) (advance t s)).1 = none) :=
  ⟨0, 1, 0, { vfState with cores := [(0, { role := .placed, part := 1, stop := .saved })], prt := { vfState.prt with ctxs := [(16, { st := .heeling, place := [0], cores := 1 })] } }, by refine ⟨?_, writePart_sound ?_ ?_⟩ <;> decide +kernel⟩

theorem wit_contextsHeelAndReplant_replantDone : ∃ (t p k : Nat) (hd : List Byte) (v w s : State),
    ((getCtx (advance t s) p k).st = .replanting ∧ (advance t s).inj.busy = none) ∧ (v = (readPart p (getCtx (advance t s) p k).heelAddr 4096 (.hub 1) (advance t s)).2 ∧ (readPart p (getCtx (advance t s) p k).heelAddr 4096 (.hub 1) (advance t s)).1.toOption = some hd) ∧ (v.inj.busy = none ∧ headerOk v p k hd (leAt hd 16 8) = true) ∧ (replantCores p k v = (none, w)) :=
  ⟨0, 1, 0, heeledRead.1.toOption.getD [], heeledRead.2, heeledRead.2, heeled, by
  refine ⟨by decide +kernel, ⟨rfl, some_getD (by decide +kernel) _⟩, by decide +kernel, ?_⟩
  simp only [replantCores, show (getCtx heeledRead.2 1 0).place = [] by decide +kernel]
  rfl⟩

theorem wit_contextsHeelAndReplant_coreMove : ∃ (t g n : Nat) (s : State),
    ((getCtx (advance t s) (getCore (advance t s) g).part (getCore (advance t s) g).slot).moving = some (g, n) ∧ (getCtx (advance t s) (getCore (advance t s) g).part (getCore (advance t s) g).slot).st = .heeling) ∧ ((getCtx (advance t s) (getCore (advance t s) g).part (getCore (advance t s) g).slot).cause = .coreMove ∧ (getCtx (advance t s) (getCore (advance t s) g).part (getCore (advance t s) g).slot).place.all (fun o => (getCore (advance t s) o).stop = .saved) = true) :=
  ⟨0, 0, 1, { vfState with dies := [(0, { st := .up, spare := some 1 })], cores := [(0, { role := .placed, part := 1, stop := .saved })], prt := { vfState.prt with ctxs := [(16, { st := .heeling, cause := .coreMove, place := [0], cores := 1, moving := some (0, 1) })] } }, by decide +kernel⟩

theorem wit_scalarArithmetic_addI : ∃ (g : Nat) (w : InstrWord) (s : State),
    (Issues s g 0x10 w ∧ okB w [] = true) :=
  ⟨0, iw 0x10 (3 * 2 ^ 106 + 2 ^ 111 + 5), onCore (iw 0x10 (3 * 2 ^ 106 + 2 ^ 111 + 5)) {}, by decide +kernel⟩

theorem wit_scalarArithmetic_subI : ∃ (g : Nat) (w : InstrWord) (s : State),
    (Issues s g 0x11 w ∧ okB w [] = true) :=
  ⟨0, iw 0x11 (3 * 2 ^ 106 + 2 ^ 111 + 5), onCore (iw 0x11 (3 * 2 ^ 106 + 2 ^ 111 + 5)) {}, by decide +kernel⟩

theorem wit_scalarArithmetic_mulI : ∃ (g : Nat) (w : InstrWord) (s : State),
    (Issues s g 0x12 w ∧ okB w [] = true) :=
  ⟨0, iw 0x12 (3 * 2 ^ 106 + 2 ^ 111 + 5), onCore (iw 0x12 (3 * 2 ^ 106 + 2 ^ 111 + 5)) {}, by decide +kernel⟩

theorem wit_scalarArithmetic_andI : ∃ (g : Nat) (w : InstrWord) (s : State),
    (Issues s g 0x13 w ∧ okB w [] = true) :=
  ⟨0, iw 0x13 (3 * 2 ^ 106 + 2 ^ 111 + 5), onCore (iw 0x13 (3 * 2 ^ 106 + 2 ^ 111 + 5)) {}, by decide +kernel⟩

theorem wit_scalarArithmetic_orI : ∃ (g : Nat) (w : InstrWord) (s : State),
    (Issues s g 0x14 w ∧ okB w [] = true) :=
  ⟨0, iw 0x14 (3 * 2 ^ 106 + 2 ^ 111 + 5), onCore (iw 0x14 (3 * 2 ^ 106 + 2 ^ 111 + 5)) {}, by decide +kernel⟩

theorem wit_scalarArithmetic_xorI : ∃ (g : Nat) (w : InstrWord) (s : State),
    (Issues s g 0x15 w ∧ okB w [] = true) :=
  ⟨0, iw 0x15 (3 * 2 ^ 106 + 2 ^ 111 + 5), onCore (iw 0x15 (3 * 2 ^ 106 + 2 ^ 111 + 5)) {}, by decide +kernel⟩

theorem wit_scalarArithmetic_shlI : ∃ (g : Nat) (w : InstrWord) (s : State),
    (Issues s g 0x16 w ∧ okB w [] = true) :=
  ⟨0, iw 0x16 (3 * 2 ^ 106 + 2 ^ 111 + 5), onCore (iw 0x16 (3 * 2 ^ 106 + 2 ^ 111 + 5)) {}, by decide +kernel⟩

theorem wit_scalarArithmetic_shrI : ∃ (g : Nat) (w : InstrWord) (s : State),
    (Issues s g 0x17 w ∧ okB w [(112, 1)] = true) :=
  ⟨0, iw 0x17 (3 * 2 ^ 106 + 2 ^ 111 + 5), onCore (iw 0x17 (3 * 2 ^ 106 + 2 ^ 111 + 5)) {}, by decide +kernel⟩

theorem wit_scalarArithmetic_minI : ∃ (g : Nat) (w : InstrWord) (s : State),
    (Issues s g 0x1c w ∧ okB w [(112, 1)] = true) :=
  ⟨0, iw 0x1c (3 * 2 ^ 106 + 2 ^ 111 + 5), onCore (iw 0x1c (3 * 2 ^ 106 + 2 ^ 111 + 5)) {}, by decide +kernel⟩

theorem wit_scalarArithmetic_maxI : ∃ (g : Nat) (w : InstrWord) (s : State),
    (Issues s g 0x1d w ∧ okB w [(112, 1)] = true) :=
  ⟨0, iw 0x1d (3 * 2 ^ 106 + 2 ^ 111 + 5), onCore (iw 0x1d (3 * 2 ^ 106 + 2 ^ 111 + 5)) {}, by decide +kernel⟩

theorem wit_scalarArithmetic_li : ∃ (g : Nat) (w : InstrWord) (s : State),
    (Issues s g 0x18 w ∧ onlyBits w [fRd, fImm] = true) :=
  ⟨0, iw 0x18 5, onCore (iw 0x18 5) {}, by decide +kernel⟩

theorem wit_scalarArithmetic_cmpI : ∃ (g : Nat) (w : InstrWord) (r : Bool) (s : State),
    (Issues s g 0x1B w ∧ okB w [(113, 3)] = true) ∧ (condHolds (wf w 113 3) ((getCore s g).getS (raOf w)) (opB (getCore s g) w) = some r) :=
  ⟨0, iw 0x1B (2 ^ 111 + 5), false, onCore (iw 0x1B (2 ^ 111 + 5)) {}, by decide +kernel⟩

theorem wit_coreControlFlow_instructionNop : ∃ (g : Nat) (w : InstrWord) (s : State),
    (Issues s g 0x00 w ∧ onlyBits w [fImm] = true) :=
  ⟨0, iw 0 0, onCore (iw 0 0) {}, by decide +kernel⟩

theorem wit_coreControlFlow_br : ∃ (g : Nat) (w : InstrWord) (s : State),
    (Issues s g 0x01 w ∧ onlyBits w [(0, 32)] = true ∧ wf w 0 32 < (getCore s g).count) :=
  ⟨0, iw 1 3, onCore (iw 1 3) { count := 4 }, by decide +kernel⟩

theorem wit_coreControlFlow_brc : ∃ (g : Nat) (w : InstrWord) (s : State),
    (Issues s g 0x02 w ∧ onlyBits w [(0, 32), fRa, fRb, (111, 3)] = true ∧ wf w 0 32 < (getCore s g).count) ∧ (condHolds (wf w 111 3) ((getCore s g).getS (raOf w)) ((getCore s g).getS (rbOf w)) = some true) :=
  ⟨0, iw 2 3, onCore (iw 2 3) { count := 4 }, by decide +kernel⟩

theorem wit_coreControlFlow_brc2 : ∃ (g : Nat) (w : InstrWord) (s : State),
    (Issues s g 0x02 w ∧ onlyBits w [(0, 32), fRa, fRb, (111, 3)] = true) ∧ (condHolds (wf w 111 3) ((getCore s g).getS (raOf w)) ((getCore s g).getS (rbOf w)) = some false) :=
  ⟨0, iw 2 (3 + 2 ^ 111), onCore (iw 2 (3 + 2 ^ 111)) {}, by decide +kernel⟩

theorem wit_coreControlFlow_loopI : ∃ (g n : Nat) (w : InstrWord) (s : State),
    (Issues s g 0x03 w ∧ (onlyBits w ([fImm, (111, 1)] ++ if flag w 0 then [fRa] else []) && wf w 116 6 = 0) = true) ∧ (n = (if flag w 0 then ((getCore s g).getS (raOf w)).toNat else wf w 32 32) ∧ n ≠ 0 ∧ (getCore s g).pc < wf w 0 32 ∧ (getCore s g).loops.length < 16) :=
  ⟨0, 2, iw 3 (2 * 2 ^ 32 + 4), onCore (iw 3 (2 * 2 ^ 32 + 4)) {}, by decide +kernel⟩

theorem wit_coreControlFlow_loopI2 : ∃ (g : Nat) (w : InstrWord) (s : State),
    (Issues s g 0x03 w ∧ (onlyBits w ([fImm, (111, 1)] ++ if flag w 0 then [fRa] else []) && wf w 116 6 = 0) = true) ∧ ((if flag w 0 then ((getCore s g).getS (raOf w)).toNat else wf w 32 32) = 0 ∧ (getCore s g).pc < wf w 0 32) :=
  ⟨0, iw 3 4, onCore (iw 3 4) {}, by decide +kernel⟩

theorem wit_coreControlFlow_endlI : ∃ (g : Nat) (w : InstrWord) (l : LoopEnt) (r : List LoopEnt) (s : State),
    (Issues s g 0x04 w ∧ (onlyBits w [fImm] && wf w 116 6 = 0) = true) ∧ ((getCore s g).loops = l :: r ∧ l.stop = (getCore s g).pc) :=
  ⟨0, iw 4 0, { start := 0, stop := 0, left := 2 }, [], onCore (iw 4 0) { loops := [{ start := 0, stop := 0, left := 2 }] }, by decide +kernel⟩

theorem wit_coreControlFlow_callI : ∃ (g : Nat) (w : InstrWord) (s : State),
    (Issues s g 0x05 w ∧ onlyBits w [(0, 32)] = true ∧ wf w 0 32 < (getCore s g).count ∧ (getCore s g).calls.length < 32) :=
  ⟨0, iw 5 3, onCore (iw 5 3) { count := 4 }, by decide +kernel⟩

theorem wit_coreControlFlow_retI : ∃ (g a : Nat) (r : List Nat) (w : InstrWord) (s : State),
    (Issues s g 0x06 w ∧ onlyBits w [fImm] = true ∧ (getCore s g).calls = a :: r) :=
  ⟨0, 7, [], iw 6 0, onCore (iw 6 0) { calls := [7] }, by decide +kernel⟩

theorem wit_coreControlFlow_haltI : ∃ (g : Nat) (w : InstrWord) (s : State),
    (Issues s g 0x07 w ∧ onlyBits w [fImm] = true) ∧ ((getCore s g).dma0 = [] ∧ (getCore s g).dma1 = [] ∧ (getCore s g).runs = []) :=
  ⟨0, iw 7 0, onCore (iw 7 0) {}, by decide +kernel⟩

theorem wit_coreControlFlow_yieldI : ∃ (g p k : Nat) (u : State) (w : InstrWord) (s : State),
    (Issues s g 0x08 w ∧ onlyBits w [fImm] = true ∧ p = (getCore s g).part ∧ k = (getCore s g).slot) ∧ (u = refreshBlocked p k (modCore g (fun c => { c with waits := .yielded }) s)) ∧ ((getCtx u p k).place.all (fun g => (getCore u g).waits = .yielded) = false) :=
  ⟨0, 1, 0, refreshBlocked 1 0 (modCore 0 (fun c => { c with waits := .yielded }) (onCores (iw 8 0) {})), iw 8 0, onCores (iw 8 0) {}, by decide +kernel⟩

theorem wit_coreControlFlow_yieldI2 : ∃ (g p k : Nat) (u v : State) (w : InstrWord) (s : State),
    (Issues s g 0x08 w ∧ onlyBits w [fImm] = true ∧ p = (getCore s g).part ∧ k = (getCore s g).slot) ∧ (u = refreshBlocked p k (modCore g (fun c => { c with waits := .yielded }) s)) ∧ ((getCtx u p k).place.all (fun g => (getCore u g).waits = .yielded) = true) ∧ (v = refreshBlocked p k (resume (getCtx u p k).place u)) :=
  ⟨0, 1, 0, refreshBlocked 1 0 (modCore 0 (fun c => { c with waits := .yielded }) (onCore (iw 8 0) {})), refreshBlocked 1 0 (resume [0] (refreshBlocked 1 0 (modCore 0 (fun c => { c with waits := .yielded }) (onCore (iw 8 0) {})))), iw 8 0, onCore (iw 8 0) {}, by decide +kernel⟩

theorem wit_coreControlFlow_trapI : ∃ (g : Nat) (w : InstrWord) (s : State),
    (Issues s g 0x09 w ∧ onlyBits w [fImm] = true) :=
  ⟨0, iw 9 77, onCore (iw 9 77) {}, by decide +kernel⟩

theorem wit_coreControlFlow_illegalOpcode : ∃ (g : Nat) (w : InstrWord) (s : State),
    ((getCore s g).word = some w ∧ mayIssue s g = true ∧ reservedOp (opOf w) = true) :=
  ⟨0, iw 0x0A 0, onCore (iw 0x0A 0) {}, by decide +kernel⟩

theorem wit_coreLoadsAndStores_ld : ∃ (g v : Nat) (w : InstrWord) (u s : State),
    (Issues s g 0x19 w ∧ okLdSt w fRd true = true ∧ flag w 3 = true ∧ special g (wf w 0 8) s = (v, u)) :=
  ⟨0, 1, iw 0x19 (2 ^ 114 + 2), onCore (iw 0x19 (2 ^ 114 + 2)) {}, onCore (iw 0x19 (2 ^ 114 + 2)) {}, by decide +kernel⟩

theorem wit_coreLoadsAndStores_ld2 : ∃ (g a : Nat) (w : InstrWord) (s : State),
    (Issues s g 0x19 w ∧ okLdSt w fRd true = true ∧ flag w 3 = false ∧ flag w 4 = false) ∧ ((scalarAddr (getCore s g) w false (accSize w)).toOption = some a ∧ hazard s g false a (accSize w) = false ∧ (getCore s g).ecc = [] ∧ s.inj.busy = none) :=
  ⟨0, 64, iw 0x19 64, onCore (iw 0x19 64) {}, by decide +kernel⟩

theorem wit_coreLoadsAndStores_st : ∃ (g a : Nat) (w : InstrWord) (s : State),
    (Issues s g 0x1A w ∧ okLdSt w fRb false = true ∧ flag w 3 = false) ∧ ((scalarAddr (getCore s g) w (flag w 4) (accSize w)).toOption = some a ∧ hazard s g (flag w 4) a (accSize w) = false) :=
  ⟨0, 64, iw 0x1A 64, onCore (iw 0x1A 64) {}, by decide +kernel⟩

theorem wit_coreLoadsAndStores_st2 : ∃ (g : Nat) (w : InstrWord) (s : State),
    (Issues s g 0x1A w ∧ okLdSt w fRb false = true ∧ flag w 3 = true ∧ wf w 0 8 = 0x08 ∧ ((getCore s g).getS (rbOf w)).toNat < 16) :=
  ⟨0, iw 0x1A (2 ^ 114 + 8), onCore (iw 0x1A (2 ^ 114 + 8)) {}, by decide +kernel⟩

theorem wit_coreLoadsAndStores_tdldI : ∃ (g a : Nat) (w : InstrWord) (s : State),
    (Issues s g 0x1E w ∧ onlyBits w [(106, 4), fRa, fImm] = true) ∧ ((tdAddr (getCore s g) w).toOption = some a ∧ hazard s g false a 64 = false ∧ (getCore s g).ecc = [] ∧ s.inj.busy = none) :=
  ⟨0, 64, iw 0x1E 64, onCore (iw 0x1E 64) {}, by decide +kernel⟩

theorem wit_coreLoadsAndStores_tdstI : ∃ (g a : Nat) (w : InstrWord) (s : State),
    (Issues s g 0x1F w ∧ onlyBits w [(96, 4), fRa, fImm] = true) ∧ ((tdAddr (getCore s g) w).toOption = some a ∧ hazard s g false a 64 = false) :=
  ⟨0, 64, iw 0x1F 64, onCore (iw 0x1F 64) {}, by decide +kernel⟩

theorem wit_coreLoadsAndStores_icacheFill : ∃ (t g l : Nat) (bs : List Byte) (c : Core) (x : Launch) (s : State),
    (c = getCore (advance t s) g ∧ mayIssue (advance t s) g = true ∧ l = c.pc / 16 ∧ c.pc < c.count ∧ c.word = none) ∧ ((getCtx (advance t s) c.part c.slot).launch = some x ∧ (readPart c.part (x.prog + 64 + 256 * l) (lineBytes c l) (.ctx c.part c.slot) (advance t s)).1.toOption = some bs) :=
  ⟨0, 0, 0, zeros 64, { role := .placed, part := 1, count := 4, icache := [(4, some 0)] }, { desc := none }, onCore 0 { count := 4, icache := [(4, some 0)] }, by decide +kernel⟩

theorem wit_vectorInstructions_vopI : ∃ (g : Nat) (w : InstrWord) (u s : State),
    (Issues s g 0x30 w ∧ (okVop) w = true) ∧ (operandsFree s g (((vopTds) w).map fun i => Td.of ((getCore s g).getT i)) = true) ∧ (Completes s g (vopBody g w) u) :=
  ⟨0, iw 0x30 (0), ranTo (onCore (iw 0x30 (0)) { t := regs1 }) 0 (vopBody 0 (iw 0x30 (0))), onCore (iw 0x30 (0)) { t := regs1 }, by refine ⟨by decide +kernel, by decide +kernel, by decide +kernel, by decide +kernel, rfl⟩⟩

theorem wit_vectorInstructions_vredI : ∃ (g : Nat) (w : InstrWord) (u s : State),
    (Issues s g 0x31 w ∧ (okVred) w = true) ∧ (operandsFree s g (((fun w => [vTd w, vTa w]) w).map fun i => Td.of ((getCore s g).getT i)) = true) ∧ (Completes s g (vredBody g w) u) :=
  ⟨0, iw 0x31 (0), ranTo (onCore (iw 0x31 (0)) { t := regs1 }) 0 (vredBody 0 (iw 0x31 (0))), onCore (iw 0x31 (0)) { t := regs1 }, by refine ⟨by decide +kernel, by decide +kernel, by decide +kernel, by decide +kernel, rfl⟩⟩

theorem wit_vectorInstructions_vdwI : ∃ (g : Nat) (w : InstrWord) (u s : State),
    (Issues s g 0x32 w ∧ (fun w => onlyBits w (winFields ++ [fTb, (111, 4)] ++ if flag w 0 then [fTc] else [])) w = true) ∧ (operandsFree s g (((fun w => [vTd w, vTa w, vTb w] ++ if flag w 0 then [vTc w] else []) w).map fun i => Td.of ((getCore s g).getT i)) = true) ∧ (Completes s g (vdwBody g w) u) :=
  ⟨0, iw 0x32 (win1), ranTo (onCore (iw 0x32 (win1)) { t := regs3 }) 0 (vdwBody 0 (iw 0x32 (win1))), onCore (iw 0x32 (win1)) { t := regs3 }, by refine ⟨by decide +kernel, by decide +kernel, by decide +kernel, by decide +kernel, rfl⟩⟩

theorem wit_vectorInstructions_vsfnI : ∃ (g : Nat) (w : InstrWord) (u s : State),
    (Issues s g 0x33 w ∧ (okVred) w = true) ∧ (operandsFree s g (((fun w => [vTd w, vTa w]) w).map fun i => Td.of ((getCore s g).getT i)) = true) ∧ (Completes s g (vsfnBody g w) u) :=
  ⟨0, iw 0x33 (0), ranTo (onCore (iw 0x33 (0)) { t := regs1 }) 0 (vsfnBody 0 (iw 0x33 (0))), onCore (iw 0x33 (0)) { t := regs1 }, by refine ⟨by decide +kernel, by decide +kernel, by decide +kernel, by decide +kernel, rfl⟩⟩

theorem wit_vectorInstructions_vnormI : ∃ (g : Nat) (w : InstrWord) (u s : State),
    (Issues s g 0x34 w ∧ (okVnorm) w = true) ∧ (operandsFree s g (((fun w => [vTd w, vTa w, vTb w] ++ if vnormBeta w then [vTc w] else []) w).map fun i => Td.of ((getCore s g).getT i)) = true) ∧ (Completes s g (vnormBody g w) u) :=
  ⟨0, iw 0x34 (2 ^ 77), ranTo (onCore (iw 0x34 (2 ^ 77)) { t := regs1 }) 0 (vnormBody 0 (iw 0x34 (2 ^ 77))), onCore (iw 0x34 (2 ^ 77)) { t := regs1 }, by refine ⟨by decide +kernel, by decide +kernel, by decide +kernel, by decide +kernel, rfl⟩⟩

theorem wit_vectorInstructions_vcvtI : ∃ (g : Nat) (w : InstrWord) (u s : State),
    (Issues s g 0x36 w ∧ (fun w => onlyBits w [fTd, fTa, fSub, (111, 2)]) w = true) ∧ (operandsFree s g (((fun w => [vTd w, vTa w]) w).map fun i => Td.of ((getCore s g).getT i)) = true) ∧ (Completes s g (vcvtBody g w) u) :=
  ⟨0, iw 0x36 (0), ranTo (onCore (iw 0x36 (0)) { t := regs1 }) 0 (vcvtBody 0 (iw 0x36 (0))), onCore (iw 0x36 (0)) { t := regs1 }, by refine ⟨by decide +kernel, by decide +kernel, by decide +kernel, by decide +kernel, rfl⟩⟩

theorem wit_vectorInstructions_vgatherI : ∃ (g : Nat) (w : InstrWord) (u s : State),
    (Issues s g 0x37 w ∧ (fun w => onlyBits w [fTd, fTa, fTb, fSub]) w = true) ∧ (operandsFree s g (((fun w => [vTd w, vTa w, vTb w]) w).map fun i => Td.of ((getCore s g).getT i)) = true) ∧ (Completes s g (vgatherBody g w) u) :=
  ⟨0, iw 0x37 (2 ^ 99), ranTo (onCore (iw 0x37 (2 ^ 99)) { t := regs1 ++ [(1, tdw 0 1 10 0 1 1 1 1 0 0 0)] }) 0 (vgatherBody 0 (iw 0x37 (2 ^ 99))), onCore (iw 0x37 (2 ^ 99)) { t := regs1 ++ [(1, tdw 0 1 10 0 1 1 1 1 0 0 0)] }, by refine ⟨by decide +kernel, by decide +kernel, by decide +kernel, by decide +kernel, rfl⟩⟩

theorem wit_vectorInstructions_poolI : ∃ (g : Nat) (w : InstrWord) (u s : State),
    (Issues s g 0x24 w ∧ (fun w => onlyBits w (winFields ++ [fTb, fTc, (111, 4)])) w = true) ∧ (operandsFree s g (((fun w => [vTd w, vTa w]) w).map fun i => Td.of ((getCore s g).getT i)) = true) ∧ (Completes s g (poolBody g w) u) :=
  ⟨0, iw 0x24 (win1), ranTo (onCore (iw 0x24 (win1)) { t := regs3 }) 0 (poolBody 0 (iw 0x24 (win1))), onCore (iw 0x24 (win1)) { t := regs3 }, by refine ⟨by decide +kernel, by decide +kernel, by decide +kernel, by decide +kernel, rfl⟩⟩

theorem wit_vectorInstructions_voptI : ∃ (g : Nat) (w : InstrWord) (u s : State),
    (Issues s g 0x35 w ∧ okVopt w = true) ∧ (operandsFree s g ((match vSub w with | 0x00 => [vTd w, vTa w, vTb w] | 0x01 => [vTd w, vTa w, vTb w, vTc w] | 0x10 => [vTa w] | _ => []).map fun i => Td.of ((getCore s g).getT i)) = true) ∧ (hazard s g false ((getCore s g).getS (vSa w)).toNat 192 = false ∧ Completes s g (voptBody g w) u) :=
  ⟨0, iw 0x35 (0x11 * 2 ^ 77), ranTo (onCore (iw 0x35 (0x11 * 2 ^ 77)) { sp := lossRec }) 0 (voptBody 0 (iw 0x35 (0x11 * 2 ^ 77))), onCore (iw 0x35 (0x11 * 2 ^ 77)) { sp := lossRec }, by refine ⟨by decide +kernel, by decide +kernel, by decide +kernel, by decide +kernel, by decide +kernel, rfl⟩⟩

theorem wit_vectorInstructions_scaleI : ∃ (g : Nat) (w : InstrWord) (u s : State),
    (Issues s g 0x29 w ∧ onlyBits w ([fTd, fTa, (111, 1)] ++ if flag w 0 then [fSa] else []) = true) ∧ (tdHazard s g (Td.of ((getCore s g).getT (vTa w))) = false ∧ recHazard s g (Td.of ((getCore s g).getT (vTd w))) (Td.of ((getCore s g).getT (vTa w))).blockCount = false) ∧ ((flag w 0 && hazard s g false ((getCore s g).getS (vSa w)).toNat 64) = false ∧ Completes s g (scaleBody g w) u) :=
  ⟨0, iw 0x29 (2 ^ 107), ranTo (onCore (iw 0x29 (2 ^ 107)) { t := regs1 ++ [(1, tdw 0 0 3 1 1 1 1 1 0 0 64)] }) 0 (scaleBody 0 (iw 0x29 (2 ^ 107))), onCore (iw 0x29 (2 ^ 107)) { t := regs1 ++ [(1, tdw 0 0 3 1 1 1 1 1 0 0 64)] }, by refine ⟨by decide +kernel, by decide +kernel, by decide +kernel, by decide +kernel, by decide +kernel, rfl⟩⟩

theorem wit_tensorInstructionsAndTiles_mmtI : ∃ (g : Nat) (w : InstrWord) (u s : State),
    (Issues s g 0x20 w ∧ onlyBits w [(107, 4), (103, 4), (99, 4), (111, 2)] = true ∧ expandedAll (getCore s g) = true) ∧ (operandsFree s g ([wf w 107 4, wf w 103 4, wf w 99 4].map fun i => Td.of ((getCore s g).getT i)) = true) ∧ (Completes s g (do mmCheck g w; startRun g w {}) u) :=
  ⟨0, iw 0x20 (2 ^ 107), ranTo (onCore (iw 0x20 (2 ^ 107)) { t := bfRegs ++ [(1, tdw 0 1 7 0 2 1 1 1 4 0 0)] }) 0 (do mmCheck 0 (iw 0x20 (2 ^ 107)); startRun 0 (iw 0x20 (2 ^ 107)) {}), onCore (iw 0x20 (2 ^ 107)) { t := bfRegs ++ [(1, tdw 0 1 7 0 2 1 1 1 4 0 0)] }, by refine ⟨by decide +kernel, by decide +kernel, by decide +kernel, by decide +kernel, rfl⟩⟩

theorem wit_tensorInstructionsAndTiles_mmaI : ∃ (g : Nat) (w : InstrWord) (u s : State),
    (Issues s g 0x21 w ∧ onlyBits w [(107, 4), (103, 4), (99, 4), (111, 2)] = true ∧ expandedAll (getCore s g) = true) ∧ (operandsFree s g ([wf w 107 4, wf w 103 4, wf w 99 4].map fun i => Td.of ((getCore s g).getT i)) = true) ∧ (Completes s g (do mmCheck g w; startRun g w {}) u) :=
  ⟨0, iw 0x21 (2 ^ 107), ranTo (onCore (iw 0x21 (2 ^ 107)) { t := bfRegs ++ [(1, tdw 0 1 7 0 2 1 1 1 4 0 0)] }) 0 (do mmCheck 0 (iw 0x21 (2 ^ 107)); startRun 0 (iw 0x21 (2 ^ 107)) {}), onCore (iw 0x21 (2 ^ 107)) { t := bfRegs ++ [(1, tdw 0 1 7 0 2 1 1 1 4 0 0)] }, by refine ⟨by decide +kernel, by decide +kernel, by decide +kernel, by decide +kernel, rfl⟩⟩

theorem wit_tensorInstructionsAndTiles_convI : ∃ (g : Nat) (w : InstrWord) (u s : State),
    (Issues s g 0x22 w ∧ expandedAll (getCore s g) = true) ∧ (onlyBits w (winFields ++ [(99, 4), (111, 2)] ++ (if flag w 0 then [(95, 4)] else []) ++ if false then [] else [(113, 3)]) = true) ∧ (operandsFree s g (([wf w 107 4, wf w 103 4, wf w 99 4] ++ if flag w 0 then [wf w 95 4] else []).map fun i => Td.of ((getCore s g).getT i)) = true) ∧ (Completes s g (do let m ← convCheck g w false; startRun g w m) u) :=
  ⟨0, iw 0x22 (2 ^ 107 + 2 * 2 ^ 99 + win1), ranTo (onCore (iw 0x22 (2 ^ 107 + 2 * 2 ^ 99 + win1)) { t := regs3b ++ [(1, tdw 0 1 7 0 3 1 1 1 4 4 0), (2, tdw 0 0 5 0 2 1 1 1 2 0 0)] }) 0 (do let m ← convCheck 0 (iw 0x22 (2 ^ 107 + 2 * 2 ^ 99 + win1)) false; startRun 0 (iw 0x22 (2 ^ 107 + 2 * 2 ^ 99 + win1)) m), onCore (iw 0x22 (2 ^ 107 + 2 * 2 ^ 99 + win1)) { t := regs3b ++ [(1, tdw 0 1 7 0 3 1 1 1 4 4 0), (2, tdw 0 0 5 0 2 1 1 1 2 0 0)] }, by refine ⟨by decide +kernel, by decide +kernel, by decide +kernel, by decide +kernel, by decide +kernel, rfl⟩⟩

theorem wit_tensorInstructionsAndTiles_convtI : ∃ (g : Nat) (w : InstrWord) (u s : State),
    (Issues s g 0x23 w ∧ expandedAll (getCore s g) = true) ∧ (onlyBits w (winFields ++ [(99, 4), (111, 2)] ++ (if flag w 0 then [(95, 4)] else []) ++ if true then [] else [(113, 3)]) = true) ∧ (operandsFree s g (([wf w 107 4, wf w 103 4, wf w 99 4] ++ if flag w 0 then [wf w 95 4] else []).map fun i => Td.of ((getCore s g).getT i)) = true) ∧ (Completes s g (do let m ← convCheck g w true; startRun g w m) u) :=
  ⟨0, iw 0x23 (2 ^ 107 + 2 * 2 ^ 99 + win1), ranTo (onCore (iw 0x23 (2 ^ 107 + 2 * 2 ^ 99 + win1)) { t := regs3b ++ [(1, tdw 0 1 7 0 3 1 1 1 4 4 0), (2, tdw 0 0 5 0 2 1 1 1 2 0 0)] }) 0 (do let m ← convCheck 0 (iw 0x23 (2 ^ 107 + 2 * 2 ^ 99 + win1)) true; startRun 0 (iw 0x23 (2 ^ 107 + 2 * 2 ^ 99 + win1)) m), onCore (iw 0x23 (2 ^ 107 + 2 * 2 ^ 99 + win1)) { t := regs3b ++ [(1, tdw 0 1 7 0 3 1 1 1 4 4 0), (2, tdw 0 0 5 0 2 1 1 1 2 0 0)] }, by refine ⟨by decide +kernel, by decide +kernel, by decide +kernel, by decide +kernel, by decide +kernel, rfl⟩⟩

theorem wit_tensorInstructionsAndTiles_cbldI : ∃ (g a : Nat) (w : InstrWord) (s : State),
    (Issues s g 0x28 w ∧ onlyBits w [(90, 5)] = true ∧ a = ((getCore s g).getS (wf w 90 5)).toNat) ∧ ((getCore s g).tiles.all (fun t => t.st = .waiting) = true ∧ expandedAll (getCore s g) = true ∧ hazard s g false a 2048 = false) ∧ (a + 2048 ≤ 0x300000 ∧ a % 64 = 0 ∧ (getCore s g).ecc = [] ∧ s.inj.busy = none) :=
  ⟨0, 0, iw 0x28 0, onCore (iw 0x28 0) {}, by decide +kernel⟩

theorem wit_tensorInstructionsAndTiles_tileIssue : ∃ (t g e i : Nat) (x : Tile) (r : Run) (l : List (Option Word)) (v : Vst) (s : State),
    ((getCore (advance t s) g).oldest = some (i, x) ∧ (getCore (advance t s) g).run? x.run = some r ∧ e < 8) ∧ ((getCore (advance t s) g).role = .placed ∧ (getCore (advance t s) g).stop = .go ∧ ((getCore (advance t s) g).tiles.filter fun y => y.st = .inEngine e).length < 2 ∧ (getCore (advance t s) g).staged + r.plan.slots ≤ 32) ∧ (((tileLeaf g r.plan (runSeams (advance t s) g r) r.pad x.block x.k).run { s := (advance t s), t := { ctl := (getCore (advance t s) g).numctl } }).1.toOption = some l ∧ v = ((tileLeaf g r.plan (runSeams (advance t s) g r) r.pad x.block x.k).run { s := (advance t s), t := { ctl := (getCore (advance t s) g).numctl } }).2) :=
  ⟨0, 0, 3, 0, mmTile, mmRun, mmLeaf.1.toOption.getD [], mmLeaf.2, mmStart, by refine ⟨by decide +kernel, by decide +kernel, by decide +kernel, rfl⟩⟩

theorem wit_tensorInstructionsAndTiles_leafDeliver : ∃ (t g n i e : Nat) (x : Tile) (u s : State),
    (((List.range (getCore (advance t s) g).tiles.length).zip (getCore (advance t s) g).tiles).find? (fun y => y.2.tile = n && y.2.st ≠ .queued && y.2.st ≠ .waiting) = some (i, x)) ∧ ((getCore (advance t s) g).role = .placed ∧ x.st = .inEngine e) ∧ (Completes (countCore g 2 1 (advance t s)) g (do actX (modCore g fun c => { c with tiles := c.tiles.set i { x with st := .waiting } }); pump g) u) :=
  ⟨0, 0, 0, 0, 3, mmTaken, _, mmIssued, by refine ⟨by decide +kernel, by decide +kernel, by decide +kernel, by decide +kernel, rfl⟩⟩

theorem wit_tensorInstructionsAndTiles_gleanRequest : ∃ (t g k : Nat) (s : State),
    (mayGlean (getCore (advance t s) g) = true ∧ nextSibling (siblings (advance t s) g) (getCore (advance t s) g).glean.last = some k) :=
  ⟨0, 0, 1, onCores 0 { waits := .bar false, glean := { min := 1, max := 4 } }, by decide +kernel⟩

theorem wit_tensorInstructionsAndTiles_gleanGrant : ∃ (t g k i o : Nat) (x : Tile) (r : Run) (s : State),
    ((getCore (advance t s) g).glean.asked = some k ∧ siblingCore (advance t s) g k = o) ∧ ((getCore (advance t s) o).oldest = some (i, x) ∧ (getCore (advance t s) o).run? x.run = some r) ∧ ((getCore (advance t s) g).glean.min ≤ ((getCore (advance t s) o).tiles.filter fun t => t.st = .queued).length ∧ (getCore (advance t s) o).staged + r.plan.slots ≤ 32 ∧ (getCore (advance t s) o).stop = .go) :=
  ⟨0, 1, 0, 0, 0, { run := 0, tile := 0, block := 0, k := 0 }, mmRun, mmAsked, by decide +kernel⟩

theorem wit_tensorInstructionsAndTiles_gleanBackoffExpiry : ∃ (t g : Nat) (s : State),
    ((getCore (advance t s) g).glean.backoff = true) :=
  ⟨0, 0, onCores 0 { glean := { backoff := true } }, by decide +kernel⟩

theorem wit_coresMoveDataAndSynchronise_dmaI : ∃ (g : Nat) (w : InstrWord) (u s : State),
    (Issues s g 0x38 w ∧ onlyBits w [fRd, (102, 4), (98, 4), (111, 1)] = true) ∧ ((((getCore s g).dma (b2n (flag w 0))).filter fun e => e.data.isNone).length < 16) ∧ (tdHazard s g (Td.of ((getCore s g).getT (wf w 102 4))) = false ∧ tdHazard s g (Td.of ((getCore s g).getT (wf w 98 4))) = false) ∧ (Completes s g (dmaChecks g (wf w 102 4) (wf w 98 4)) u) :=
  ⟨0, iw 0x38 0, _, onCore (iw 0x38 0) { t := regs1 }, by refine ⟨by decide +kernel, by decide +kernel, by decide +kernel, by decide +kernel, by decide +kernel, rfl⟩⟩

theorem wit_coresMoveDataAndSynchronise_dmawI : ∃ (g : Nat) (w : InstrWord) (s : State),
    (Issues s g 0x3A w ∧ onlyBits w ([fImm, (111, 2)] ++ if flag w 1 then [] else [fRa]) = true) ∧ (dmaDone ((getCore s g).dma (b2n (flag w 0))) (flag w 1) (((getCore s g).getS (raOf w)).toNat % 65536) = true) :=
  ⟨0, iw 0x3A 0, onCore (iw 0x3A 0) {}, by decide +kernel⟩

theorem wit_coresMoveDataAndSynchronise_dmaEntryStart : ∃ (t g q i : Nat) (e : DmaEnt) (rows : List (List Byte)) (v : Vst) (s : State),
    ((getCore (advance t s) g).role = .placed ∧ (getCore (advance t s) g).stop = .go ∧ (getCtx (advance t s) (getCore (advance t s) g).part (getCore (advance t s) g).slot).resident = true) ∧ (((getCore (advance t s) g).dma q).findIdx? (fun e => e.data.isNone) = some i ∧ ((getCore (advance t s) g).dma q)[i]? = some e) ∧ (v = ((dmaRead g (Td.of e.src)).run { s := (advance t s), t := { ctl := 0 } }).2 ∧ ((dmaRead g (Td.of e.src)).run { s := (advance t s), t := { ctl := 0 } }).1.toOption = some rows) :=
  ⟨0, 0, 0, 0, { num := 0, src := tdw 0 0 7 0 1 1 1 1 0 0 0, dst := tdw 64 0 7 0 1 1 1 1 0 0 0, data := none }, [zeros 4], _, onCore 0 { dma0 := [{ num := 0, src := tdw 0 0 7 0 1 1 1 1 0 0 0, dst := tdw 64 0 7 0 1 1 1 1 0 0 0, data := none }] }, by refine ⟨by decide +kernel, by decide +kernel, rfl, by decide +kernel⟩⟩

theorem wit_coresMoveDataAndSynchronise_dmaEntryDone : ∃ (t g q : Nat) (e : DmaEnt) (r : List DmaEnt) (d : List Byte) (v : Vst) (s : State),
    ((getCore (advance t s) g).role = .placed ∧ (getCore (advance t s) g).stop ≠ .saved ∧ (getCore (advance t s) g).dma q = e :: r ∧ e.data = some d) ∧ (v = ((dmaWrite g (Td.of e.dst) d).run { s := (advance t s), t := { ctl := 0 } }).2 ∧ ((dmaWrite g (Td.of e.dst) d).run { s := (advance t s), t := { ctl := 0 } }).1.isOk = true) :=
  ⟨0, 0, 0, { num := 0, src := tdw 0 0 7 0 1 1 1 1 0 0 0, dst := tdw 64 0 7 0 1 1 1 1 0 0 0, data := some (zeros 4) }, [], zeros 4, _, onCore 0 { dma0 := [{ num := 0, src := tdw 0 0 7 0 1 1 1 1 0 0 0, dst := tdw 64 0 7 0 1 1 1 1 0 0 0, data := some (zeros 4) }] }, by refine ⟨by decide +kernel, rfl, by decide +kernel⟩⟩

theorem wit_coresMoveDataAndSynchronise_haloI : ∃ (g h : Nat) (w : InstrWord) (u s : State),
    (Issues s g 0x39 w ∧ onlyBits w ([(100, 7), (84, 16), (68, 16), (111, 3)] ++ if wf w 111 2 = 0 ∨ wf w 111 2 = 3 then [(107, 4)] else []) = true ∧ wf w 111 2 = 0) ∧ (haloPeer (getCore s g).idx 0 (b2n (flag w 2)) = some (wf w 100 7) ∧ wf w 100 7 < (getCtx s (getCore s g).part (getCore s g).slot).cores) ∧ ((getCtx s (getCore s g).part (getCore s g).slot).place[wf w 100 7]? = some h ∧ seamField s h (seamBase (b2n (flag w 2)) (wf w 68 16 % 2)) 4 1 ≠ 1) ∧ (tdHazard s g (Td.of ((getCore s g).getT (wf w 107 4))) = false ∧ Completes s g (haloSend g h (wf w 107 4) (b2n (flag w 2)) (wf w 84 16) (wf w 68 16)) u) :=
  ⟨0, 1, iw 0x39 (2 ^ 100), _, onCores (iw 0x39 (2 ^ 100)) { t := regs3 }, by refine ⟨by decide +kernel, by decide +kernel, by decide +kernel, by decide +kernel, by decide +kernel, by decide +kernel, rfl⟩⟩

theorem wit_coresMoveDataAndSynchronise_haloI2 : ∃ (g : Nat) (w : InstrWord) (s : State),
    (Issues s g 0x39 w ∧ onlyBits w ([(100, 7), (84, 16), (68, 16), (111, 3)] ++ if wf w 111 2 = 0 ∨ wf w 111 2 = 3 then [(107, 4)] else []) = true ∧ wf w 111 2 = 1) ∧ (haloPeer (getCore s g).idx 1 (b2n (flag w 2)) = some (wf w 100 7) ∧ wf w 100 7 < (getCtx s (getCore s g).part (getCore s g).slot).cores) ∧ (seamHolds s g (seamBase (b2n (flag w 2)) (wf w 68 16 % 2)) (wf w 84 16) (wf w 68 16) = true) :=
  ⟨0, iw 0x39 (2 ^ 111 + 2 ^ 113 + 2 ^ 100), onCores (iw 0x39 (2 ^ 111 + 2 ^ 113 + 2 ^ 100)) { sp := [(0x2A0004, 1)] }, by decide +kernel⟩

theorem wit_coresMoveDataAndSynchronise_haloI3 : ∃ (g : Nat) (w : InstrWord) (s : State),
    (Issues s g 0x39 w ∧ onlyBits w ([(100, 7), (84, 16), (68, 16), (111, 3)] ++ if wf w 111 2 = 0 ∨ wf w 111 2 = 3 then [(107, 4)] else []) = true ∧ wf w 111 2 = 2) ∧ (haloPeer (getCore s g).idx 2 (b2n (flag w 2)) = some (wf w 100 7) ∧ wf w 100 7 < (getCtx s (getCore s g).part (getCore s g).slot).cores) ∧ (seamHolds s g (seamBase (b2n (flag w 2)) (wf w 68 16 % 2)) (wf w 84 16) (wf w 68 16) = true ∧ (getCore s g).runs = []) :=
  ⟨0, iw 0x39 (2 ^ 112 + 2 ^ 113 + 2 ^ 100), onCores (iw 0x39 (2 ^ 112 + 2 ^ 113 + 2 ^ 100)) { sp := [(0x2A0004, 1)] }, by decide +kernel⟩

theorem wit_coresMoveDataAndSynchronise_prefI : ∃ (g : Nat) (w : InstrWord) (s : State),
    (Issues s g 0x3B w ∧ onlyBits w (if flag w 0 then [(0, 48), (111, 1)] else [fRa, fImm]) = true ∧ flag w 0 = true) ∧ ((bitList 48 (wf w 0 48)).any (fun b => hazard s g false (b * 0x10000) 0x10000) = false) :=
  ⟨0, iw 0x3B (2 ^ 111 + 5), onCore (iw 0x3B (2 ^ 111 + 5)) {}, by decide +kernel⟩

theorem wit_coresMoveDataAndSynchronise_prefI2 : ∃ (g : Nat) (w : InstrWord) (s : State),
    (Issues s g 0x3B w ∧ onlyBits w (if flag w 0 then [(0, 48), (111, 1)] else [fRa, fImm]) = true ∧ flag w 0 = false) ∧ (1 ≤ wf w 32 16 ∧ wf w 32 16 ≤ 4096) :=
  ⟨0, iw 0x3B (2 ^ 32), onCore (iw 0x3B (2 ^ 32)) {}, by decide +kernel⟩

theorem wit_coresMoveDataAndSynchronise_semaI : ∃ (g : Nat) (w : InstrWord) (s : State),
    (Issues s g 0x3C w ∧ okSema w = true ∧ semaOp w = 0 ∧ semaCond w ≠ 3 ∧ semOf w < 960) ∧ (inReplay s (getCore s g).part (getCore s g).slot = false) :=
  ⟨0, iw 0x3C 0, onCore (iw 0x3C 0) {}, by decide +kernel⟩

theorem wit_coresMoveDataAndSynchronise_semaI2 : ∃ (g : Nat) (w : InstrWord) (s : State),
    (Issues s g 0x3C w ∧ okSema w = true ∧ semaOp w = 5 ∧ semaCond w ≠ 3 ∧ 960 ≤ semOf w) ∧ ((getMutex s (getCore s g).part (semOf w)).owner = none) :=
  ⟨0, iw 0x3C (960 * 2 ^ 86 + 5 * 2 ^ 111), onCore (iw 0x3C (960 * 2 ^ 86 + 5 * 2 ^ 111)) {}, by decide +kernel⟩

theorem wit_coresMoveDataAndSynchronise_semaI3 : ∃ (g : Nat) (w : InstrWord) (s : State),
    (Issues s g 0x3C w ∧ okSema w = true ∧ semaOp w = 6 ∧ semaCond w ≠ 3 ∧ 960 ≤ semOf w) ∧ ((getMutex s (getCore s g).part (semOf w)).owner = some (getCore s g).slot ∧ (getCtx s (getCore s g).part (getCore s g).slot).holdEnds = none) :=
  ⟨0, iw 0x3C (960 * 2 ^ 86 + 6 * 2 ^ 111), { onCore (iw 0x3C (960 * 2 ^ 86 + 6 * 2 ^ 111)) {} with prt := { (onCore 0 {}).prt with parts := [(1, { st := 1, mutexes := [(960, { owner := some 0 })] })] } }, by decide +kernel⟩

theorem wit_coresMoveDataAndSynchronise_barI : ∃ (g : Nat) (w : InstrWord) (u s : State),
    (Issues s g 0x3D w ∧ onlyBits w [(111, 1)] = true ∧ u = commit ((Blk.die (g / 32)).base + 4) s) :=
  ⟨0, iw 0x3D 0, _, onCore (iw 0x3D 0) {}, by refine ⟨by decide +kernel, by decide +kernel, rfl⟩⟩

theorem wit_coresMoveDataAndSynchronise_credI : ∃ (g : Nat) (w : InstrWord) (s : State),
    (Issues s g 0x3E w ∧ onlyBits w [(107, 4), (100, 7), (84, 16), (111, 3)] = true ∧ wf w 100 7 < (getCtx s (getCore s g).part (getCore s g).slot).cores) ∧ (wf w 111 2 = 1 ∧ ((getCore s g).getCred (wf w 107 4)).isOpen = true ∧ ((getCore s g).getCred (wf w 107 4)).consumer = false) ∧ (((getCore s g).getCred (wf w 107 4)).acquired + wf w 84 16 ≤ ((getCore s g).getCred (wf w 107 4)).depth + ((getCore s g).getCred (wf w 107 4)).released) :=
  ⟨0, iw 0x3E (2 ^ 111 + 3 * 2 ^ 84), onCore (iw 0x3E (2 ^ 111 + 3 * 2 ^ 84)) { creds := [(0, { isOpen := true, depth := 4 })] }, by decide +kernel⟩

theorem wit_coresMoveDataAndSynchronise_credI2 : ∃ (g : Nat) (w : InstrWord) (s : State),
    (Issues s g 0x3E w ∧ onlyBits w [(107, 4), (100, 7), (84, 16), (111, 3)] = true ∧ wf w 100 7 < (getCtx s (getCore s g).part (getCore s g).slot).cores) ∧ (wf w 111 2 = 2 ∧ ((getCore s g).getCred (wf w 107 4)).isOpen = true ∧ ((getCore s g).getCred (wf w 107 4)).consumer = true) :=
  ⟨0, iw 0x3E (2 ^ 112 + 3 * 2 ^ 84), onCore (iw 0x3E (2 ^ 112 + 3 * 2 ^ 84)) { creds := [(0, { isOpen := true, consumer := true, depth := 4 })] }, by decide +kernel⟩

theorem wit_coresMoveDataAndSynchronise_evtI : ∃ (g : Nat) (w : InstrWord) (s : State),
    (Issues s g 0x3F w ∧ onlyBits w ([(88, 8), (111, 1)] ++ if flag w 0 then [fRa, fRb] else []) = true ∧ flag w 0 = false) ∧ (5 ≤ wf w 88 8 ∧ wf w 88 8 ≤ 61 ∧ inReplay s (getCore s g).part (getCore s g).slot = false) :=
  ⟨0, iw 0x3F (5 * 2 ^ 88), onCore (iw 0x3F (5 * 2 ^ 88)) {}, by decide +kernel⟩

theorem wit_coresMoveDataAndSynchronise_evtI2 : ∃ (g : Nat) (w : InstrWord) (u s : State),
    (Issues s g 0x3F w ∧ onlyBits w ([(88, 8), (111, 1)] ++ if flag w 0 then [fRa, fRb] else []) = true ∧ flag w 0 = true) ∧ (wf w 88 8 ≤ 63 ∧ (getCore s g).dma0 = [] ∧ (getCore s g).dma1 = [] ∧ hazard s g false ((getCore s g).getS (raOf w)).toNat 64 = false) ∧ (Completes s g (evtWrite g (wf w 88 8) ((getCore s g).getS (raOf w)).toNat ((getCore s g).getS (rbOf w)).toNat) u) :=
  ⟨0, iw 0x3F (2 ^ 111), _, onCore (iw 0x3F (2 ^ 111)) {}, by refine ⟨by decide +kernel, by decide +kernel, by decide +kernel, by decide +kernel, rfl⟩⟩

theorem wit_coresMoveDataAndSynchronise_meshPacketLost : ∃ (t die c vc p k : Nat) (u s : State),
    (u = record (2 + die) 0x0404 [.id1 die, .id1 c, .code1 vc] p k (stick ((Blk.die die).base + 0x10) 1 3 (some (8, 5, c)) (stick ((Blk.core (32 * die + c)).base + 0x10) 2 3 none (advance t s)))) ∧ ((getCtx u p k).st ≠ .free) :=
  ⟨0, 0, 0, 0, 1, 0, _, onCore 0 {}, by refine ⟨rfl, by decide +kernel⟩⟩

theorem wit_attentionWalksPageLists_attnI : ∃ (g : Nat) (w : InstrWord) (u s : State),
    (Issues s g 0x25 w ∧ okAttn w = true ∧ (getCore s g).walk = none ∧ expandedAll (getCore s g) = true) ∧ (operandsFree s g (([vTd w, vTa w] ++ if flag w 2 || flag w 3 then [vTb w] else []).map fun i => Td.of ((getCore s g).getT i)) = true) ∧ (Completes s g (do attnCheck g w; startWalk g w) u) :=
  ⟨0, attnWord, _, onCore attnWord { t := attnRegs }, by refine ⟨by decide +kernel, by decide +kernel, by decide +kernel, by decide +kernel, rfl⟩⟩

theorem wit_attentionWalksPageLists_attnI2 : ∃ (g : Nat) (w : InstrWord) (k : Walk) (u s : State),
    (Issues s g 0x25 w ∧ okAttn w = true ∧ (getCore s g).walk = some k ∧ k.started = false) ∧ (Completes s g (walkStart g k (attnFits (Td.of k.ta))) u) :=
  ⟨0, attnWord, attnWalk, _, kvState attnWord { t := attnRegs, walk := some attnWalk }, by refine ⟨by decide +kernel, by decide +kernel, by decide +kernel, rfl⟩⟩

theorem wit_attentionWalksPageLists_attnI3 : ∃ (g : Nat) (w : InstrWord) (k : Walk) (u s : State),
    (Issues s g 0x25 w ∧ okAttn w = true ∧ (getCore s g).walk = some k ∧ k.started = true) ∧ (Completes s g (attnEnd g k) u) :=
  ⟨0, attnWord, { attnWalk with started := true, entries := 1 }, _, kvState attnWord { t := attnRegs, walk := some { attnWalk with started := true, entries := 1 } }, by refine ⟨by decide +kernel, by decide +kernel, by decide +kernel, rfl⟩⟩

theorem wit_attentionWalksPageLists_kvwI : ∃ (g : Nat) (w : InstrWord) (u s : State),
    (Issues s g 0x27 w ∧ okKvw w = true ∧ (getCore s g).walk = none) ∧ (operandsFree s g (((if flag w 1 then [] else [vTa w]) ++ if flag w 0 || flag w 1 then [] else [vTb w]).map fun i => Td.of ((getCore s g).getT i)) = true) ∧ (Completes s g (do kvwCheck g w; startWalk g w) u) :=
  ⟨0, iw 0x27 (2 ^ 112), _, onCore (iw 0x27 (2 ^ 112)) {}, by refine ⟨by decide +kernel, by decide +kernel, by decide +kernel, by decide +kernel, rfl⟩⟩

theorem wit_attentionWalksPageLists_kvwI2 : ∃ (g : Nat) (w : InstrWord) (k : Walk) (u s : State),
    (Issues s g 0x27 w ∧ okKvw w = true ∧ (getCore s g).walk = some k ∧ k.started = true) ∧ (Completes s g (kvwEnd g k) u) :=
  ⟨0, iw 0x27 (2 ^ 112), { attnWalk with word := iw 0x27 (2 ^ 112), started := true, entries := 1 }, _, kvState (iw 0x27 (2 ^ 112)) { walk := some { attnWalk with word := iw 0x27 (2 ^ 112), started := true, entries := 1 } }, by refine ⟨by decide +kernel, by decide +kernel, by decide +kernel, rfl⟩⟩

theorem wit_attentionWalksPageLists_kvMap : ∃ (t id : Nat) (d : Desc) (src : List Byte) (u v s : State),
    (Starts (advance t s) id 0x08 d ∧ kvMapCheck (advance t s) d = none ∧ kvMapReady (advance t s) d = none ∧ bit (d.u 32 1) 0 = false) ∧ ((readPart d.part (d.u 24 8) (16 * d.u 20 4) (.hub 2) (startDesc id (advance t s))).1.toOption = some src ∧ u = (readPart d.part (d.u 24 8) (16 * d.u 20 4) (.hub 2) (startDesc id (advance t s))).2) ∧ ((writeDesc d (d.u 8 8 + 64 + 16 * d.u 16 4) src u).1 = none ∧ v = (writeDesc d (d.u 8 8 + 64 + 16 * d.u 16 4) src u).2) :=
  ⟨0, 0, kvDesc, zeros 16, _, _, inq kvDesc (kvState 0 {}), by refine ⟨by decide +kernel, ⟨by decide +kernel, rfl⟩, by decide +kernel, rfl⟩⟩

theorem wit_sensorFramesAreAdmittedAndEnd_streamBind : ∃ (t id : Nat) (d : Desc) (s : State),
    (Starts (advance t s) id 0x09 d) ∧ (bindCheck (advance t s) d = none ∧ bit (d.u 9 1) 3 = false) :=
  ⟨0, 0, bindDesc, inq bindDesc ingState, by decide +kernel⟩

theorem wit_sensorFramesAreAdmittedAndEnd_streamBind2 : ∃ (t id : Nat) (d : Desc) (s : State),
    (Starts (advance t s) id 0x09 d) ∧ (bindCheck (advance t s) d = none ∧ bit (d.u 9 1) 3 = true) :=
  ⟨0, 0, unbindDesc, inq unbindDesc framed, by decide +kernel⟩

theorem wit_sensorFramesAreAdmittedAndEnd_csiLongPacket : ∃ (t h port vc dt hdr n : Nat) (data _read : List Byte) (f : Frame) (s : State),
    (h < 2 ∧ (getHub (advance t s) h).up = true ∧ portOn (advance t s) h port = true ∧ hdr ≠ 2 ∧ (advance t s).inj.busy = none) ∧ (csiStream (advance t s) h port vc = some n ∧ (getStr (advance t s) h n).dataType = dt) ∧ ((getStr (advance t s) h n).cur = some f ∧ f.admitted = true ∧ f.rx < (getStr (advance t s) h n).nLines ∧ data.length ≤ (getStr (advance t s) h n).lineBytes) :=
  ⟨0, 0, 0, 0, 0x2A, 0, 0, [1#8], [], { seq := 0 }, framed, by decide +kernel⟩

theorem wit_sensorFramesAreAdmittedAndEnd_frameStart : ∃ (t h port vc _fn n : Nat) (s : State),
    (h < 2 ∧ (getHub (advance t s) h).up = true ∧ portOn (advance t s) h port = true ∧ (advance t s).inj.busy = none ∧ (advance t s).inj.rest = []) ∧ (csiStream (advance t s) h port vc = some n ∧ (getStr (advance t s) h n).st ≠ .unbinding) :=
  ⟨0, 0, 0, 0, 1, 0, framed, by decide +kernel⟩

theorem wit_sensorFramesAreAdmittedAndEnd_frameEnd : ∃ (t h port vc n : Nat) (f : Frame) (s : State),
    (h < 2 ∧ (getHub (advance t s) h).up = true ∧ portOn (advance t s) h port = true ∧ (advance t s).inj.busy = none) ∧ (csiStream (advance t s) h port vc = some n ∧ (getStr (advance t s) h n).cur = some f) :=
  ⟨0, 0, 0, 0, 0, { seq := 0 }, framed, by decide +kernel⟩

theorem wit_sensorFramesAreAdmittedAndEnd_ethFrame : ∃ (t h mac dst etype vlan len n : Nat) (_isAs : Bool) (_data _read : List Byte) (s : State),
    (h < 2 ∧ (getHub (advance t s) h).up = true ∧ mac < 4 ∧ fld (advance t s) (ingBase h + 0x140 + 4 * mac) 0 1 = 1 ∧ (advance t s).inj.busy = none) ∧ (len ≤ 9216 ∧ ethStream (advance t s) h mac dst etype vlan = some n) :=
  ⟨0, 0, 0, 0, 0, 0, 60, 1, false, [], [], ethState, by decide +kernel⟩

theorem wit_sensorFramesAreAdmittedAndEnd_ethFrame2 : ∃ (t h mac _dst _etype _vlan _len : Nat) (_isAs _ecc : Bool) (_data _read : List Byte) (s : State),
    (h < 2 ∧ (getHub (advance t s) h).up = true ∧ mac < 4 ∧ fld (advance t s) (ingBase h + 0x140 + 4 * mac) 0 1 = 1 ∧ (advance t s).inj.busy = none) :=
  ⟨0, 0, 0, 0, 0, 0, 60, false, false, [], [], ethState, by decide +kernel⟩

theorem wit_sensorFramesAreAdmittedAndEnd_frameGapExpiry : ∃ (t h n : Nat) (f : Frame) (s : State),
    ((getStr (advance t s) h n).cur = some f ∧ (advance t s).inj.busy = none) ∧ (f.last + (freshPar (advance t s) h n).gap ≤ hubTime (advance t s) h) :=
  ⟨3000000, 0, 0, { seq := 0 }, framed, by decide +kernel⟩

theorem wit_sensorFramesAreAdmittedAndEnd_missingDeadline : ∃ (t h n d : Nat) (s : State),
    ((getStr (advance t s) h n).st = .bound ∧ (getStr (advance t s) h n).deadline = some d ∧ d < hubTime (advance t s) h) :=
  ⟨5, 0, 0, 4, framed, by decide +kernel⟩

theorem wit_sensorFramesAreAdmittedAndEnd_frameRelease : ∃ (t h n seq : Nat) (f : Frame) (s : State),
    ((getStr (advance t s) h n).held.find? (·.seq = seq) = some f ∧ f.sdl = [] ∧ f.fus = []) :=
  ⟨0, 0, 0, 7, { seq := 7 }, framed, by decide +kernel⟩

theorem wit_hubTimeIsDisciplined_syncReceived : ∃ (t h gm : Nat) (adj : Int) (s u : State),
    (h < 2 ∧ (getHub (advance t s) h).up = true ∧ gptpOn (advance t s) h = true ∧ h = 0) ∧ ((hubTime (advance t s) h : Int) = gm ∧ u = slew h 0 adj (t - s.clk) (advance t s)) ∧ ((getIng u h).good < 15 ∧ (getIng u h).synced = false) :=
  ⟨0, 0, 0, 0, gptpState, gptpState, by decide +kernel⟩

theorem wit_hubTimeIsDisciplined_syncReceived2 : ∃ (t h gm : Nat) (_adj : Int) (s u : State),
    (h < 2 ∧ (getHub (advance t s) h).up = true ∧ gptpOn (advance t s) h = true ∧ h = 0) ∧ ((gm : Int) + 1000000000 < hubTime (advance t s) h ∧ (getIng (advance t s) h).gmBehind = false) ∧ (u = timeEvent h 3 ((gm : Int) - hubTime (advance t s) h) (advance t s) ∧ (getIng u h).synced = false) :=
  ⟨1000000001, 0, 0, 0, gptpState, timeEvent 0 3 (-1000000001) { gptpState with clk := 1000000001 }, by decide +kernel⟩

theorem wit_hubTimeIsDisciplined_syncTimeout : ∃ (t h : Nat) (s : State),
    (h < 2 ∧ gptpOn (advance t s) h = true) :=
  ⟨0, 0, { live with regs := [(ingBase 0 + 0x1C, 1)] }, by decide +kernel⟩

theorem wit_hubTimeIsDisciplined_timeFollow : ∃ (t : Nat) (_adj : Int) (s : State),
    ((getHub (advance t s) 1).up = true ∧ follows (advance t s) = true) :=
  ⟨0, 0, { live with regs := [(ingBase 1 + 0x1C, 8)] }, by decide +kernel⟩

theorem wit_hubTimeIsDisciplined_timeStep : ∃ (t h : Nat) (g : Int) (s : State),
    (h < 2 ∧ (getHub (advance t s) h).up = true ∧ (getIng (advance t s) h).gm = some g) ∧ (boundOn (advance t s) h = [] ∧ gptpOn (advance t s) h = true) :=
  ⟨0, 0, 5, { live with regs := [(ingBase 0 + 0x1C, 1)], ing := [(0, { gm := some 5 })] }, by decide +kernel⟩

theorem wit_hubTimeIsDisciplined_timeStep2 : ∃ (t h : Nat) (s : State),
    (h < 2 ∧ (getHub (advance t s) h).up = true ∧ boundOn (advance t s) h ≠ []) :=
  ⟨0, 0, framed, by decide +kernel⟩

theorem wit_seedlingEntriesCommitAndRun_sdlEntryCommit : ∃ (t h e : Nat) (s u : State),
    (h < 2 ∧ e < 64 ∧ (getHub (advance t s) h).up = true ∧ (getSdl (advance t s) h).slice = none) ∧ (u = [0, 4, 8, 0xC].foldl (fun s r => commit (entReg h e r) s) (advance t s) ∧ eff u (entReg h e 0) 0 1 = 1) :=
  ⟨0, 0, 0, { live with regs := [(entReg 0 0 0, 1)] }, _, ⟨by decide +kernel, rfl, by decide +kernel⟩⟩

theorem wit_seedlingEntriesCommitAndRun_sdlEntryCommit2 : ∃ (t h e : Nat) (s u : State),
    (h < 2 ∧ e < 64 ∧ (getHub (advance t s) h).up = true ∧ (getSdl (advance t s) h).slice = none) ∧ (u = [0, 4, 8, 0xC].foldl (fun s r => commit (entReg h e r) s) (advance t s) ∧ eff u (entReg h e 0) 0 1 = 0) :=
  ⟨0, 0, 0, live, live, by decide +kernel⟩

theorem wit_seedlingEntriesCommitAndRun_sdlBand : ∃ (t h e : Nat) (j : SdlJob) (f : Frame) (s : State),
    (h < 2 ∧ mayRun (advance t s) h e = true ∧ entLast (advance t s) h e = false) ∧ ((getEnt (advance t s) h e).job = some j ∧ entFrame (advance t s) h e = some f) :=
  ⟨0, 0, 0, sdlJob0, sdlFrame, sdlState, by decide +kernel⟩

theorem wit_seedlingEntriesCommitAndRun_sdlJobStart : ∃ (t h e : Nat) (j : SdlJob) (s : State),
    (h < 2 ∧ mayRun (advance t s) h e = true ∧ entLast (advance t s) h e = true) ∧ ((getEnt (advance t s) h e).job = some j) :=
  ⟨0, 0, 0, sdlLast, sdlLastState, by decide +kernel⟩

theorem wit_seedlingEntriesCommitAndRun_sliceEnd : ∃ (t h e fin : Nat) (s : State),
    (h < 2 ∧ (getSdl (advance t s) h).slice = some (e, fin) ∧ (getSdl (advance t s) h).busy ≤ (advance t s).clk * 11 ∧ fin ≤ (advance t s).clk * 11) :=
  ⟨0, 0, 3, 0, { live with sdl := [(0, { slice := some (3, 0) })] }, by decide +kernel⟩

theorem wit_seedlingEntriesCommitAndRun_sliceEnd2 : ∃ (t h e fin : Nat) (s : State),
    (h < 2 ∧ (getFus (advance t s) h).slice = some (e, fin) ∧ (getFus (advance t s) h).busy ≤ (advance t s).clk ∧ fin ≤ (advance t s).clk) :=
  ⟨0, 0, 3, 0, { live with fus := [(0, { slice := some (3, 0) })] }, by decide +kernel⟩

theorem wit_fusionMergesPointsIntoInstants_calLoad : ∃ (t id : Nat) (d : Desc) (s : State),
    (Starts (advance t s) id 0x0A d ∧ calCheck (advance t s) d = none) ∧ ((getSensor (startDesc id (advance t s)) (d.u 8 1 % 2) (d.u 9 1)).cur = none) :=
  ⟨0, 0, calDesc, inq calDesc calState, by decide +kernel⟩

theorem wit_fusionMergesPointsIntoInstants_fusionEnable : ∃ (t h : Nat) (s : State),
    (h < 2 ∧ (getHub (advance t s) h).up = true ∧ fld (advance t s) (fusReg h 0x10) 0 1 = 0) :=
  ⟨0, 0, live, by decide +kernel⟩

theorem wit_fusionMergesPointsIntoInstants_fusionDisable : ∃ (t h : Nat) (s : State),
    (h < 2 ∧ (getHub (advance t s) h).up = true ∧ fld (advance t s) (fusReg h 0x10) 0 1 = 1) :=
  ⟨0, 0, fusOn, by decide +kernel⟩

theorem wit_fusionMergesPointsIntoInstants_fusionSourceCommit : ∃ (t h e : Nat) (s : State),
    (h < 2 ∧ e < 32 ∧ atBoundary (advance t s) h = true) :=
  ⟨0, 0, 0, fusOn, by decide +kernel⟩

theorem wit_fusionMergesPointsIntoInstants_pointListRead : ∃ (t h e : Nat) (b ps : List Byte) (s u v w : State),
    (h < 2 ∧ e < 32 ∧ (getHub (advance t s) h).up = true ∧ (getFus (advance t s) h).on = true ∧ (getSrc (advance t s) h e).active = true ∧ (getSrc (advance t s) h e).list = none) ∧ (leAt (getSrc (advance t s) h e).raw 2 1 = 1 ∧ 1 ≤ semVal (advance t s) (fusPart (advance t s) h) (leAt (getSrc (advance t s) h e).raw 30 2)) ∧ (u = changed (setSem (fusPart (advance t s) h) (leAt (getSrc (advance t s) h e).raw 30 2) (semVal (advance t s) (fusPart (advance t s) h) (leAt (getSrc (advance t s) h e).raw 30 2) - 1) (advance t s))) ∧ ((readPart (fusPart (advance t s) h) (leAt (getSrc (advance t s) h e).raw 40 8) 64 ingReq u).1.toOption = some b ∧ v = (readPart (fusPart (advance t s) h) (leAt (getSrc (advance t s) h e).raw 40 8) 64 ingReq u).2 ∧ listHdrOk b = true) ∧ ((readPart (fusPart (advance t s) h) (leAt (getSrc (advance t s) h e).raw 40 8 + 64) (16 * leAt b 4 4) ingReq v).1.toOption = some ps ∧ w = (readPart (fusPart (advance t s) h) (leAt (getSrc (advance t s) h e).raw 40 8 + 64) (16 * leAt b 4 4) ingReq v).2) :=
  ⟨0, 0, 0, _, [], listState, _, _, _, ⟨by decide +kernel, by decide +kernel, rfl, ⟨some_getD (by decide +kernel) [], rfl, by decide +kernel⟩, by decide +kernel, rfl⟩⟩

theorem wit_fusionMergesPointsIntoInstants_fusionPointBatch : ∃ (t h e : Nat) (s : State),
    (h < 2 ∧ e < 32 ∧ fusMayRun (advance t s) h e = true) :=
  ⟨0, 0, 0, { fusOn with fus := [(0, { on := true, srcs := [(0, { active := true, raw := [0, 0, 1], list := some { read := 0, time := 0, pts := [] } })] })] }, by decide +kernel⟩

theorem wit_fusionMergesPointsIntoInstants_instantClose : ∃ (t h : Nat) (_struck : List Nat) (s : State),
    (h < 2 ∧ (getHub (advance t s) h).up = true ∧ (getFus (advance t s) h).on = true ∧ (getFus (advance t s) h).cutoff ≤ hubTime (advance t s) h) :=
  ⟨0, 0, [], fusOn, by decide +kernel⟩

theorem wit_dramRequestsAreServed_cryptoTurn : ∃ (t h i k : Nat) (reqs : List MemReq) (s u : State),
    (h < 2 ∧ drcServes (advance t s) h = true ∧ k ≠ 33) ∧ (((List.range 34).map fun i => ((getDrc (advance t s) h).turn + 1 + i) % 34).findIdx? (fun k => (reqs.filter (reqFits (advance t s) h)).any fun r => turnOf (advance t s) h (ownerOf (advance t s) r.addr) = k) = some i) ∧ (((List.range 34).map fun i => ((getDrc (advance t s) h).turn + 1 + i) % 34).getD i 0 = k) ∧ (u = modDrc h (fun d => { d with debts := (((List.range 34).map fun i => ((getDrc (advance t s) h).turn + 1 + i) % 34).take i).foldl (fun t x => tabSet dNat t x 0) d.debts }) (advance t s)) :=
  ⟨0, 0, 33, 0, [rdReq], dramUp, dramUp, by decide +kernel⟩

theorem wit_dramRequestsAreServed_cryptoTurn2 : ∃ (t h : Nat) (reqs : List MemReq) (s : State),
    (h < 2 ∧ drcServes (advance t s) h = true ∧ reqs.filter (reqFits (advance t s) h) = []) :=
  ⟨0, 0, [], dramUp, by decide +kernel⟩

theorem wit_dramRequestsAreServed_dramRead : ∃ (t h ch : Nat) (lecc : Bool) (r : MemReq) (s u : State),
    (h < 2 ∧ chanServes (advance t s) h ch = true ∧ nextReq (advance t s) h ch = some r ∧ r.isWrite = false ∧ r.who ≠ .hub 3) ∧ (u = linkEcc h lecc (takeReq h ch r (advance t s)) ∧ u.inj.busy = none ∧ lineState u (r.addr / 64) = 0) :=
  ⟨0, 0, 0, false, rdReq, rdWaits, _, ⟨by decide +kernel, rfl, by decide +kernel⟩⟩

theorem wit_dramRequestsAreServed_dramRead2 : ∃ (t h ch : Nat) (lecc : Bool) (r : MemReq) (s u : State),
    (h < 2 ∧ chanServes (advance t s) h ch = true ∧ nextReq (advance t s) h ch = some r ∧ r.isWrite = false ∧ r.who ≠ .hub 3) ∧ (u = linkEcc h lecc (takeReq h ch r (advance t s)) ∧ u.inj.busy = none ∧ lineState u (r.addr / 64) = 0) :=
  ⟨0, 0, 0, false, rdReq, rdWaits, _, ⟨by decide +kernel, rfl, by decide +kernel⟩⟩

theorem wit_dramRequestsAreServed_dramWrite : ∃ (t h ch _err : Nat) (r : MemReq) (s u : State),
    (h < 2 ∧ chanServes (advance t s) h ch = true ∧ nextReq (advance t s) h ch = some r ∧ r.isWrite = true ∧ r.who ≠ .hub 3 ∧ 64 ≤ r.len) ∧ (u = takeReq h ch r (advance t s) ∧ (getDrc u h).held = false) :=
  ⟨0, 0, 0, 0, wrReq, wrWaits, _, ⟨by decide +kernel, rfl, by decide +kernel⟩⟩

theorem wit_dramRequestsAreServed_refresh : ∃ (t h ch : Nat) (s u : State),
    (h < 2 ∧ ch < 16 ∧ drcServes (advance t s) h = true) ∧ (u = [0x10, 0x14, 0x18].foldl (fun s r => commit (drcBase h + r) s) (advance t s)) :=
  ⟨0, 0, 0, dramUp, _, ⟨by decide +kernel, rfl⟩⟩

theorem wit_dramRequestsAreServed_ratWindowEnd : ∃ (t h ch : Nat) (s : State),
    (h < 2 ∧ ch < 16 ∧ drcServes (advance t s) h = true) :=
  ⟨0, 0, 0, dramUp, by decide +kernel⟩

theorem wit_dramRequestsAreServed_patrolScrub : ∃ (t h : Nat) (s u : State),
    (h < 2 ∧ drcServes (advance t s) h = true ∧ eff (advance t s) (drcBase h + 0x18) 0 2 ≠ 2) ∧ (u = modDrc h (fun d => { d with scrub := ((getDrc (advance t s) h).scrub + 1) % max 1 (2 ^ 24 * (getDrc (advance t s) h).gib) }) (advance t s) ∧ lineState u (2 ^ 30 * h + (getDrc (advance t s) h).scrub) = 0) :=
  ⟨0, 0, dramUp, _, ⟨by decide +kernel, rfl, by decide +kernel⟩⟩

theorem wit_dramRequestsAreServed_wck2dqTrack : ∃ (t h ch : Nat) (_beyond : Bool) (s : State),
    (h < 2 ∧ ch < 16 ∧ drcServes (advance t s) h = true ∧ (advance t s).inj.busy = none) :=
  ⟨0, 0, 0, true, dramUp, by decide +kernel⟩

theorem wit_dramTrainsChangesAndFreezes_trainingGo : ∃ (t h b : Nat) (_types _dens : List Nat) (_mrs : List Byte) (_res : List TrainRes) (s : State),
    (h < 2 ∧ (getDrc (advance t s) h).waiting = some b) :=
  ⟨0, 0, 0, [], [], [], [], { live with drc := [(0, { waiting := some 0 })] }, by decide +kernel⟩

theorem wit_dramTrainsChangesAndFreezes_trnWaitExpiry : ∃ (t h b : Nat) (_types _dens : List Nat) (_mrs : List Byte) (_res : List TrainRes) (s : State),
    (h < 2 ∧ (getDrc (advance t s) h).waiting = some b ∧ b + 1000000 * fld (advance t s) (drcBase h + 0x70) 8 8 ≤ (advance t s).clk) :=
  ⟨1000000000, 0, 0, [], [], [], [], { live with drc := [(0, { waiting := some 0 })] }, by decide +kernel⟩

theorem wit_dramTrainsChangesAndFreezes_dramFreq : ∃ (t id : Nat) (d : Desc) (s : State),
    (Starts (advance t s) id 0x16 d ∧ freqCheck (advance t s) d = none) :=
  ⟨0, 0, freqDesc, inq freqDesc freqState, by decide +kernel⟩

theorem wit_dramTrainsChangesAndFreezes_freqGroupSwitch : ∃ (t hub g set id : Nat) (s : State),
    (hub < 2 ∧ g < 3 ∧ (getDrc (advance t s) hub).change = some (set, g, id)) :=
  ⟨0, 0, 0, 1, 0, { live with drc := [(0, { st := 3, gib := 1, change := some (1, 0, 0) })] }, by decide +kernel⟩

theorem wit_dramTrainsChangesAndFreezes_freqGroupSwitch2 : ∃ (t hub set id : Nat) (s u v : State),
    (hub < 2 ∧ (getDrc (advance t s) hub).change = some (set, 3, id)) ∧ (u = (groupOf 3).foldl (fun s c => modChan hub c (fun x => { x with blackout := false }) (flushMeta hub c (precharge hub c s))) (advance t s)) ∧ (v = startChange hub (event hub 0x0605 [.id1 hub, .code1 (getDrc u hub).set, .code1 set] (modDrc hub (fun d => { d with change := none, set, st := 2 }) u)) ∧ freqOpen v id = false) :=
  ⟨0, 0, 1, 0, { live with drc := [(0, { st := 3, gib := 1, change := some (1, 3, 0) })] }, _, _, ⟨by decide +kernel, rfl, rfl, by decide +kernel⟩⟩

theorem wit_dramTrainsChangesAndFreezes_capture : ∃ (t h : Nat) (s : State),
    (h < 2 ∧ (getHub (advance t s) h).up = true ∧ fld (advance t s) (drcBase h + 0x60) 3 1 = 0) :=
  ⟨0, 0, live, by decide +kernel⟩

theorem wit_dramTrainsChangesAndFreezes_holdMem : ∃ (t h : Nat) (s : State),
    (h < 2 ∧ (getHub (advance t s) h).up = true ∧ (getDrc (advance t s) h).held = false ∧ hubMapped (advance t s) h = false) :=
  ⟨0, 0, dramUp, by decide +kernel⟩

theorem wit_dramTrainsChangesAndFreezes_holdMem2 : ∃ (t h : Nat) (s : State),
    (h < 2 ∧ (getHub (advance t s) h).up = true ∧ (getDrc (advance t s) h).held = false ∧ hubMapped (advance t s) h = true) :=
  ⟨0, 0, vfState, by decide +kernel⟩

theorem wit_dramTrainsChangesAndFreezes_holdRelease : ∃ (t h : Nat) (s : State),
    (h < 2 ∧ (getDrc (advance t s) h).held = true) :=
  ⟨0, 0, { live with drc := [(0, { held := true })] }, by decide +kernel⟩

theorem wit_dramTrainsChangesAndFreezes_diagLoad : ∃ (t h : Nat) (_val : Word) (s : State),
    (h < 2 ∧ (getHub (advance t s) h).up = true) :=
  ⟨0, 0, 5, live, by decide +kernel⟩

theorem wit_dramTrainsChangesAndFreezes_diagLoad2 : ∃ (t h : Nat) (_val : Word) (s : State),
    (h < 2 ∧ (getHub (advance t s) h).up = true) :=
  ⟨0, 0, 5, live, by decide +kernel⟩

theorem wit_linkTrainingRunsItsSteps_linkTrain : ∃ (t k _peerE _peerM : Nat) (_fails : List (List Nat)) (_keyOk : Bool) (s : State),
    (k < 8 ∧ (getLink (advance t s) k).st = .training ∧ (getLink (advance t s) k).step = .threads ∧ (getLink (advance t s) k).rethread = false) ∧ (endsLive (advance t s) k = true) :=
  ⟨0, 0, 0, 0, [], false, { live with links := [(0, { st := .training, step := .threads, rethread := false })] }, by decide +kernel⟩

theorem wit_linkTrainingRunsItsSteps_sidebandMessage : ∃ (t k : Nat) (m : SbMsg) (r : List SbMsg) (s u : State),
    ((getLink (advance t s) k).wires = m :: r ∧ m.toB = true ∧ m.kind = 2) ∧ (u = modLink k (fun l => { l with wires := l.wires.erase m }) (advance t s)) ∧ (injActive u 0x0504 k = false) ∧ ((getLink u k).st = .training ∧ (getLink u k).step = .maskSent) :=
  ⟨0, 0, { toB := true, kind := 2, epoch := 1, mask := 15 }, [], { live with links := [(0, { st := .training, step := .maskSent, wires := [{ toB := true, kind := 2, epoch := 1, mask := 15 }] })] }, { live with links := [(0, { st := .training, step := .maskSent })] }, by decide +kernel⟩

theorem wit_linkTrainingRunsItsSteps_sidebandRetry : ∃ (t k since : Nat) (m : SbMsg) (s : State),
    ((getLink (advance t s) k).await = some (m, since)) ∧ (since + 10000 ≤ (advance t s).clk) :=
  ⟨10000, 0, 0, { toB := true, kind := 1 }, { live with links := [(0, { st := .training, await := some ({ toB := true, kind := 1 }, 0) })] }, by decide +kernel⟩

theorem wit_linkTrainingRunsItsSteps_trainTimeout : ∃ (t k : Nat) (s : State),
    (k < 8 ∧ (getLink (advance t s) k).st = .training) ∧ ((getLink (advance t s) k).began + 1000000 ≤ (advance t s).clk) :=
  ⟨1000000, 0, { live with links := [(0, { st := .training })] }, by decide +kernel⟩

theorem wit_linkTrainingRunsItsSteps_linkRetrain : ∃ (t id : Nat) (d : Desc) (s : State),
    (ScionServes s ∧ Starts (advance t s) id 0x17 d) ∧ (d.u 8 1 < 8 ∧ (getLink (advance t s) (d.u 8 1)).st ≠ .fenced ∧ (getLink (advance t s) (d.u 8 1)).st ≠ .off) :=
  ⟨0, 0, { id := 0, fn := 0, ring := 0, raw := 0xFF0000000017, st := .waiting }, inq { id := 0, fn := 0, ring := 0, raw := 0xFF0000000017, st := .waiting } live, by decide +kernel⟩

theorem wit_linkFlitsAreCheckedAndReplayed_flitReceive : ∃ (t k : Nat) (toB : Bool) (f : Flit) (s : State),
    (k < 10 ∧ (getLink (advance t s) k).st = .up ∧ bit (getLink (advance t s) k).mask f.bundle = true) ∧ ((advance t s).inj.busy = none ∧ (advance t s).inj.rest = []) ∧ (((getLink (advance t s) k).side toB).fenced = false ∧ f.crcOk = false) :=
  ⟨0, 0, false, badCrc, live, by decide +kernel⟩

theorem wit_linkFlitsAreCheckedAndReplayed_flitReceive2 : ∃ (t k : Nat) (toB : Bool) (f : Flit) (s : State),
    (k < 10 ∧ (getLink (advance t s) k).st = .up ∧ bit (getLink (advance t s) k).mask f.bundle = true) ∧ ((advance t s).inj.busy = none ∧ (advance t s).inj.rest = [] ∧ f.crcOk = true) ∧ (((getLink (advance t s) k).side toB).fenced = false ∧ ((getLink (advance t s) k).side toB).discarding = false) ∧ (f.epoch ≠ ((getLink (advance t s) k).side toB).epoch) :=
  ⟨0, 0, false, { badCrc with crcOk := true, epoch := 7 }, live, by decide +kernel⟩

theorem wit_linkFlitsAreCheckedAndReplayed_nakReceived : ∃ (t k b good : Nat) (toB : Bool) (r : List (Bool × Nat × Nat)) (s : State),
    ((getLink (advance t s) k).nakOut = (toB, b, good) :: r) ∧ ((replayPolicy (advance t s) (getLink (advance t s) k)).1 = 0) :=
  ⟨0, 0, 0, 0, false, [], { live with links := [(0, { st := .up, policy := 3, nakOut := [(false, 0, 0)] })] }, by decide +kernel⟩

theorem wit_linkFlitsAreCheckedAndReplayed_linkHeartbeat : ∃ (t k : Nat) (b : Bool) (s : State),
    (k < 8 ∧ (getLink (advance t s) k).st = .up) ∧ (((getLink (advance t s) k).side b).beat + 10000 ≤ (advance t s).clk ∧ ((getLink (advance t s) k).side b).replay.length < 512) :=
  ⟨10000, 0, false, live, by decide +kernel⟩

theorem wit_linkFlitsAreCheckedAndReplayed_linkSilence : ∃ (t k : Nat) (b : Bool) (s : State),
    (k < 8 ∧ (getLink (advance t s) k).st = .up) ∧ (((getLink (advance t s) k).side b).heard + 30000 ≤ (advance t s).clk) :=
  ⟨30000, 0, false, live, by decide +kernel⟩

theorem wit_lostDiesAreFencedAndReturn_dieHeartbeat : ∃ (t d : Nat) (s : State),
    (d < 4 ∧ (getDie (advance t s) d).st = .up ∧ (advance t s).inj.busy = none) ∧ (dieReaches (advance t s) d (declHub (advance t s) d) = true) :=
  ⟨0, 0, live, by decide +kernel⟩

theorem wit_lostDiesAreFencedAndReturn_dieHeartbeatMiss : ∃ (t d : Nat) (s : State),
    (d < 4 ∧ (getDie (advance t s) d).st = .up ∧ (getDie (advance t s) d).heard + 30000 ≤ (advance t s).clk) ∧ (hubUp (advance t s) (declHub (advance t s) d) = true) :=
  ⟨30000, 0, live, by decide +kernel⟩

theorem wit_lostDiesAreFencedAndReturn_pllUnlock : ∃ (t d : Nat) (s : State),
    (d < 4 ∧ (getDie (advance t s) d).st = .up) :=
  ⟨0, 0, live, by decide +kernel⟩

theorem wit_lostDiesAreFencedAndReturn_fenceReceive : ∃ (t d lost : Nat) (s u : State),
    (lost < 4 ∧ (getDie (advance t s) lost).st = .fenced ∧ (getDie (advance t s) lost).toFence.elem d = true) ∧ (u = (linksOf lost).foldl (fun s k => if endDie k (!isEndB k lost) = d then modSide k (!isEndB k lost) (fun e => { e with fenced := true }) s else s) (modDie lost (fun x => { x with toFence := x.toFence.filter (· ≠ d) }) (advance t s))) ∧ ((getDie u lost).toFence ≠ []) :=
  ⟨0, 1, 0, { live with dies := [(0, { st := .fenced, toFence := [1, 2] })] }, fencedOnce, by decide +kernel⟩

theorem wit_lostDiesAreFencedAndReturn_fencedHeartbeat : ∃ (t d : Nat) (s : State),
    (d < 4 ∧ (getDie (advance t s) d).st = .fenced) :=
  ⟨0, 0, { live with dies := [(0, { st := .fenced })] }, by decide +kernel⟩

theorem wit_lostDiesAreFencedAndReturn_dieReset : ∃ (t id : Nat) (d : Desc) (s : State),
    (ScionServes s ∧ Starts (advance t s) id 0x18 d) ∧ (d.u 8 1 < 4 ∧ dieHot (advance t s) (d.u 8 1) = false ∧ (getDie (advance t s) (d.u 8 1)).st = .up ∧ bit (d.u 9 1) 0 = true) ∧ ((getDie (startDesc id (advance t s)) (d.u 8 1)).st = .up) :=
  ⟨0, 0, { id := 0, fn := 0, ring := 0, raw := 0x0100FF0000000018 + 2 ^ 72, st := .waiting }, inq { id := 0, fn := 0, ring := 0, raw := 0x0100FF0000000018 + 2 ^ 72, st := .waiting } live, by decide +kernel⟩

theorem wit_lostDiesAreFencedAndReturn_dieResetRelease : ∃ (t d : Nat) (s : State),
    (d < 4 ∧ (getDie (advance t s) d).st = .reset ∧ (getDie (advance t s) d).since + 10000 ≤ (advance t s).clk) :=
  ⟨10000, 0, { live with dies := [(0, { st := .reset })] }, by decide +kernel⟩

theorem wit_lostDiesAreFencedAndReturn_dieRejoinDone : ∃ (t d i : Nat) (s : State),
    (d < 4 ∧ (getDie (advance t s) d).st = .rejoin ∧ (getDie (advance t s) d).desc = some i) ∧ ((linksOf d).all (fun k => (getLink (advance t s) k).st ≠ .training) = true) ∧ (dieReaches (advance t s) d (declHub (advance t s) d) = true) :=
  ⟨0, 0, 0, { live with dies := [(0, { st := .rejoin, desc := some 0 })] }, by decide +kernel⟩

theorem wit_partnerPortsMirrorRanges_partnerEnable : ∃ (t hub : Nat) (acc : Agent) (s : State),
    (hub < 2 ∧ writeReaches (advance t s) acc (ptnBase hub + 4) = true) :=
  ⟨0, 0, .pf, live, by decide +kernel⟩

theorem wit_partnerPortsMirrorRanges_partnerLost : ∃ (t hub : Nat) (s : State),
    (hub < 2 ∧ (getPtn (advance t s) hub).ok = true ∧ (getPtn (advance t s) hub).heard + 300000 ≤ (advance t s).clk) :=
  ⟨300000, 0, { live with ptn := [(0, { ok := true })] }, by decide +kernel⟩

theorem wit_partnerPortsMirrorRanges_mirrorCfgAdd : ∃ (t id : Nat) (same : Bool) (d : Desc) (s : State),
    (mirrorRemoves s id = false ∧ ScionServes s ∧ Starts (advance t s) id 0x1B d) ∧ (mirrorAddCheck same (advance t s) d = none) :=
  ⟨0, 0, false, mirDesc, inq mirDesc mirState, by decide +kernel⟩

theorem wit_partnerPortsMirrorRanges_mirrorCfgRemove : ∃ (t id : Nat) (d : Desc) (s : State),
    (mirrorRemoves s id = true ∧ ScionServes s ∧ Starts (advance t s) id 0x1B d) :=
  ⟨0, 0, mirGone, inq mirGone mirState, by decide +kernel⟩

theorem wit_partnerPortsMirrorRanges_rangeInSync : ∃ (t id : Nat) (d : Desc) (s : State),
    (findDesc (advance t s) id = some d) ∧ (waitingPorts (advance t s) id = [0] ∧ portRuns (advance t s) 0 = true) ∧ (fld (advance t s) (ptnBase 0 + 4) 1 1 = 1 ∧ d.fn = 0) :=
  ⟨0, 0, mirDesc, inq mirDesc mirWaits, by decide +kernel⟩

theorem wit_partnerPortsMirrorRanges_partnerMirrorApply : ∃ (t hub : Nat) (it : PtnItem) (rest : List PtnItem) (_tagOk : Bool) (s : State),
    (hub < 2 ∧ portRuns (advance t s) hub = true) ∧ ((getPtn (advance t s) hub).queue = it :: rest) :=
  ⟨0, 0, .sem 1 2 false 3, [], false, { mirWaits with ptn := [(0, { ok := true, queue := [.sem 1 2 false 3] })] }, by decide +kernel⟩

theorem wit_partnerPortsMirrorRanges_partnerMirrorApply2 : ∃ (t hub : Nat) (_k : PtnPkt) (s : State),
    (hub < 2 ∧ portRuns (advance t s) hub = true ∧ (advance t s).inj.busy = none) :=
  ⟨0, 0, .sem 1 2 false 3, mirWaits, by decide +kernel⟩

theorem wit_islandsJudgeRecords_safetyCfg : ∃ (t id : Nat) (prog : List Byte) (d : Desc) (s : State),
    (ScionServes s ∧ Starts (advance t s) id 0x15 d) ∧ (safetyCheck prog (advance t s) d = none ∧ d.u 10 1 = 0) ∧ ((getIsl (startDesc id (advance t s)) (d.u 8 1)).st ≠ .safe) :=
  ⟨0, 0, safProg, safDesc, inq safDesc safState, by decide +kernel⟩

theorem wit_islandsJudgeRecords_resultRecord : ∃ (t isl : Nat) (r : ResRec) (s : State),
    ((advance t s).records.find? (·.island = isl) = some r) ∧ ((getIsl (advance t s) isl).noClock = false) :=
  ⟨0, 0, aRecord, { live with records := [aRecord] }, by decide +kernel⟩

theorem wit_islandsJudgeRecords_unmatchedExpiry : ∃ (t isl _n : Nat) (s : State),
    (islRuns (advance t s) isl = true) :=
  ⟨0, 0, 0, islUp, by decide +kernel⟩

theorem wit_islandsJudgeRecords_resultDeadline : ∃ (t isl n : Nat) (s u : State),
    (islRuns (advance t s) isl = true ∧ (getSs (advance t s) isl n).st ≠ .off) ∧ ((getSs (advance t s) isl n).cfg.period ≠ 0 ∧ (getSs (advance t s) isl n).deadline ≤ hubTime (advance t s) isl) ∧ (u = modSs isl n (fun x => { x with misses := x.misses + 1, nMiss := satAdd 16 x.nMiss 1, deadline := x.deadline + x.cfg.period * 1000 }) (advance t s)) ∧ ((getSs u isl n).misses ≤ missLimit (getSs (advance t s) isl n).cfg.prog) :=
  ⟨0, 0, 0, missState, missedOnce, by decide +kernel⟩

theorem wit_islandsJudgeRecords_staleNotice : ∃ (t isl h k : Nat) (stale inj : Bool) (r : List (Nat × Nat × Bool × Bool)) (s : State),
    ((getIsl (advance t s) isl).inbox = (h, k, stale, inj) :: r) ∧ ((getIsl (advance t s) isl).noClock = false ∧ (getIsl (advance t s) isl).strs = []) :=
  ⟨0, 0, 0, 3, true, false, [], { live with isl := [(0, { st := .run, inbox := [(0, 3, true, false)] })] }, by decide +kernel⟩

theorem wit_islandsJudgeRecords_swatchDone : ∃ (t isl n ch : Nat) (s : State),
    (((getSs (advance t s) isl n).sw ch).result = some (0, (((getSs (advance t s) isl n).sw ch).data.drop 32).take 32)) :=
  ⟨0, 0, 0, 0, { live with isl := [(0, { strs := [(0, { swA := { due := true, result := some (0, []) } })] })] }, by decide +kernel⟩

theorem wit_islandsWatchTheirOwnHardware_lockstepError : ∃ (t isl : Nat) (s : State),
    (islAlive (advance t s) isl = true ∧ (advance t s).inj.busy = none) :=
  ⟨0, 0, islUp, by decide +kernel⟩

theorem wit_islandsWatchTheirOwnHardware_inputDisagreement : ∃ (t isl : Nat) (s : State),
    (islAlive (advance t s) isl = true ∧ (advance t s).inj.busy = none) :=
  ⟨0, 0, islUp, by decide +kernel⟩

theorem wit_islandsWatchTheirOwnHardware_clockCheck : ∃ (t isl _ppm _other : Nat) (s : State),
    (islAlive (advance t s) isl = true ∧ (advance t s).inj.busy = none) :=
  ⟨0, 0, 0, 0, islUp, by decide +kernel⟩

theorem wit_islandsWatchTheirOwnHardware_islandHeartbeat : ∃ (t isl : Nat) (s : State),
    (islAlive (advance t s) isl = true ∧ (advance t s).inj.busy = none) ∧ ((getIsl (advance t s) isl).beat + 50000 ≤ (advance t s).clk) :=
  ⟨50000, 0, islUp, by decide +kernel⟩

theorem wit_islandsWatchTheirOwnHardware_islLinkLoss : ∃ (t isl : Nat) (s : State),
    (islAlive (advance t s) isl = true ∧ (advance t s).inj.busy = none ∧ (getIsl (advance t s) isl).st ≠ .startup) ∧ ((getIsl (advance t s) isl).heard + 150000 ≤ (advance t s).clk) :=
  ⟨150000, 0, islUp, by decide +kernel⟩

theorem wit_islandsWatchTheirOwnHardware_islandLinkMessage : ∃ (t isl m : Nat) (r : List Nat) (s : State),
    ((getIsl (advance t s) isl).mail = m :: r) :=
  ⟨0, 0, 1, [], { live with isl := [(0, { st := .run, mail := [1] })] }, by decide +kernel⟩

theorem wit_islandsWatchTheirOwnHardware_islandResetRelease : ∃ (t isl : Nat) (s : State),
    ((getIsl (advance t s) isl).st = .reset) :=
  ⟨0, 0, live, by decide +kernel⟩

theorem wit_islandsWatchTheirOwnHardware_islandRun : ∃ (t isl : Nat) (s : State),
    ((getIsl (advance t s) isl).st = .startup ∧ (getIsl (advance t s) isl).cmpOk = true ∧ (getIsl (advance t s) isl).noClock = false ∧ (advance t s).sec.stage = 2) :=
  ⟨0, 0, { live with isl := [(0, { st := .startup, cmpOk := true })] }, by decide +kernel⟩

theorem wit_islandsWatchTheirOwnHardware_islandRestart : ∃ (t isl : Nat) (acc : Agent) (s : State),
    (writeReaches (advance t s) acc (safReg isl 0x14) = true ∧ (getIsl (advance t s) isl).st ≠ .reset) :=
  ⟨0, 0, .pf, islUp, by decide +kernel⟩

theorem wit_islandsHaltResetAndSendFrames_islandDebugHalt : ∃ (t isl : Nat) (s : State),
    (1 ≤ (advance t s).sec.debug ∧ islAlive (advance t s) isl = true) :=
  ⟨0, 0, { islUp with sec := { stage := 2, debug := 1 } }, by decide +kernel⟩

theorem wit_islandsHaltResetAndSendFrames_islandDebugResume : ∃ (t _isl : Nat) (_step : Bool) (s : State),
    (1 ≤ (advance t s).sec.debug) :=
  ⟨0, 0, false, { islUp with sec := { stage := 2, debug := 1 } }, by decide +kernel⟩

theorem wit_islandsHaltResetAndSendFrames_canStatusFrame : ∃ (t isl : Nat) (s : State),
    ((getIsl (advance t s) isl).st = .run ∨ (getIsl (advance t s) isl).st = .safe) ∧ ((getIsl (advance t s) isl).canLast + 10000000 ≤ (advance t s).clk) :=
  ⟨10000000, 0, islUp, by decide +kernel⟩

theorem wit_islandsHaltResetAndSendFrames_canBusoff : ∃ (t isl : Nat) (s : State),
    (fld (advance t s) (safReg isl 0x20) 24 1 = 1 ∧ (getIsl (advance t s) isl).busOff = false) :=
  ⟨0, 0, islUp, by decide +kernel⟩

theorem wit_selfTestsAndInjectionsRun_quietWindowOpen : ∃ (t isl n : Nat) (s : State),
    (islRuns (advance t s) isl = true ∧ (getSs (advance t s) isl n).st ≠ .off) ∧ ((getSs (advance t s) isl n).quietFrom ≤ hubTime (advance t s) isl ∧ hubTime (advance t s) isl < (getSs (advance t s) isl n).quietTo) :=
  ⟨0, 0, 0, { live with isl := [(0, { st := .run, strs := [(0, { st := .run, quietTo := 1 })] })] }, by decide +kernel⟩

theorem wit_selfTestsAndInjectionsRun_islandPeriodicTest : ∃ (t isl : Nat) (s : State),
    (islRuns (advance t s) isl = true ∧ (getIsl (advance t s) isl).lastTest + 100000000 ≤ (advance t s).clk) ∧ ((getIsl (advance t s) isl).strs.all (fun e => e.2.st ≠ .run || inQuiet (advance t s) isl e.1 120000) = true) :=
  ⟨100000000, 0, islUp, by decide +kernel⟩

theorem wit_selfTestsAndInjectionsRun_rollingTestStart : ∃ (t d n g sp : Nat) (s : State),
    (testInterval (advance t s) (d / 2) = some n ∧ nextTest (advance t s) d = some (g, sp)) ∧ (islRuns (advance t s) (d / 2) = true ∧ dieUp (advance t s) d = true ∧ scanOf (advance t s) d = none ∧ moving (advance t s) g = false) ∧ ((liveCores (advance t s) d).any (overdue (advance t s) (d / 2)) = true ∧ (advance t s).inj.busy = none) :=
  ⟨5000000000, 0, 4000000000, 0, 1, twoCores, by decide +kernel⟩

theorem wit_selfTestsAndInjectionsRun_scanTestDone : ∃ (t g part began : Nat) (s : State),
    (scanOf (advance t s) (g / 32) = some (g, part, began) ∧ began + 1800000 ≤ (advance t s).clk ∧ (advance t s).inj.busy = none) :=
  ⟨1800000, 0, 0, 0, { twoCores with isl := [(0, { st := .run, scanLo := some (0, 0, 0) })] }, by decide +kernel⟩

theorem wit_selfTestsAndInjectionsRun_coverageCheck : ∃ (t isl : Nat) (s : State),
    (islRuns (advance t s) isl = true) ∧ ((islDies isl).flatMap (fun d => if dieUp (advance t s) d then (liveCores (advance t s) d).filter (overdue (advance t s) isl) else []) = []) ∧ ((advance t s).clk ≤ (getIsl (advance t s) isl).lastTest + 200000000) :=
  ⟨0, 0, islUp, by decide +kernel⟩

theorem wit_selfTestsAndInjectionsRun_coverageCheck2 : ∃ (t isl g : Nat) (s : State),
    (islRuns (advance t s) isl = true) ∧ ((islDies isl).flatMap (fun d => if dieUp (advance t s) d then (liveCores (advance t s) d).filter (overdue (advance t s) isl) else []) = [g]) ∧ ((advance t s).clk ≤ (getIsl (coverCore isl g false (advance t s)) isl).lastTest + 200000000 ∧ (coverCore isl g false (advance t s)).clk = (advance t s).clk) :=
  ⟨5000000000, 0, 1, { twoCores with isl := [(0, { st := .run, lastTest := 4900000000 })], cores := [(0, { role := .free, lastTest := 4900000000 }), (1, { role := .off })] }, by decide +kernel⟩

theorem wit_selfTestsAndInjectionsRun_injFire : ∃ (t : Nat) (acc : Agent) (s : State),
    (writeReaches (advance t s) acc (injReg 0x18) = true) ∧ (fld (advance t s) (injReg 4) 1 1 = 1 ∧ injKnown (fld (advance t s) (injReg 0x10) 0 16) (fld (advance t s) (injReg 0x10) 16 8) = true ∧ (advance t s).inj.busy = none) :=
  ⟨0, .pf, { live with regs := [(injReg 4, 2), (injReg 0x10, 0x0301)] }, by decide +kernel⟩

theorem wit_selfTestsAndInjectionsRun_injectionEffect : ∃ (t : Nat) (i : Injection) (s : State),
    ((advance t s).inj.busy = some i ∧ i.effect = none) :=
  ⟨0, { point := 0x0301, inst := 0, arg := 0, fired := 0, effect := none, left := 0 }, { live with inj := { busy := some { point := 0x0301, inst := 0, arg := 0, fired := 0, effect := none, left := 0 } } }, by decide +kernel⟩

theorem wit_selfTestsAndInjectionsRun_injectionTimeout : ∃ (t e : Nat) (i : Injection) (s : State),
    ((advance t s).inj.busy = some i ∧ i.effect = some e ∧ e + injTimeout (advance t s) ≤ hubTime (advance t s) 0) :=
  ⟨10000000, 0, { point := 0x0301, inst := 0, arg := 0, fired := 0, effect := some 0, left := 1 }, { live with inj := { busy := some { point := 0x0301, inst := 0, arg := 0, fired := 0, effect := some 0, left := 1 } } }, by decide +kernel⟩

theorem wit_securityBootsRecoversAndUnlocks_bootRom : ∃ (t : Nat) (_flash : List Byte) (s u : State),
    ((advance t s).sec.stage = 0 ∧ u = { (advance t s) with pwr := { (advance t s).pwr with hn := (advance t s).pwr.hn ||| 33 } }) :=
  ⟨0, [], State.reset, { State.reset with pwr := { hn := 33 } }, by decide +kernel⟩

theorem wit_securityBootsRecoversAndUnlocks_scionCopy : ∃ (t h : Nat) (body : List Byte) (s : State),
    (h < 2 ∧ hubUp (advance t s) h = true ∧ (getScion (advance t s) h).started = true ∧ (getScion (advance t s) h).copied = false) ∧ ((getDrc (advance t s) h).st = 2 ∧ sha3 body = (advance t s).sec.scionDigest) :=
  ⟨0, 0, [], { dramUp with sec := { stage := 2, scionDigest := sha3 [], scionN := { started := true } } }, ⟨by decide +kernel, by decide +kernel, rfl⟩⟩

theorem wit_securityBootsRecoversAndUnlocks_recoveryChunk : ∃ (t _chunk : Nat) (acc : Agent) (_last _commits : Bool) (s : State),
    ((advance t s).sec.stage = 3 ∧ writeReaches (advance t s) acc 0x2500010 = true) :=
  ⟨0, 0, .pf, false, false, { live with sec := { stage := 3 } }, by decide +kernel⟩

theorem wit_securityBootsRecoversAndUnlocks_scionHeartbeat : ∃ (t h : Nat) (s : State),
    (h < 2 ∧ hubUp (advance t s) h = true ∧ (getScion (advance t s) h).started = true ∧ (getScion (advance t s) h).st ≠ 2 ∧ (advance t s).inj.busy = none) :=
  ⟨0, 0, { live with sec := { stage := 2, scionN := { started := true } } }, by decide +kernel⟩

theorem wit_securityBootsRecoversAndUnlocks_scionWatchdog : ∃ (t h : Nat) (_flash : List Byte) (s : State),
    (h < 2 ∧ hubUp (advance t s) h = true ∧ (getScion (advance t s) h).started = true ∧ (getScion (advance t s) h).st = 0 ∧ (getScion (advance t s) h).copied = true) ∧ ((getScion (advance t s) h).beat + 15000000 ≤ (advance t s).clk) ∧ (((getScion (advance t s) h).restarts.filter fun r => (advance t s).clk < r + 60000000000).length < 2) :=
  ⟨15000000, 0, [], { live with sec := { stage := 2, scionN := { started := true, copied := true } } }, by decide +kernel⟩

theorem wit_securityBootsRecoversAndUnlocks_spdmRequest : ∃ (t : Nat) (_req : SpdmReq) (s : State),
    ((advance t s).sec.stage = 2 ∧ (getPLink (advance t s) (advance t s).fuse.mpfLink).up = true) :=
  ⟨0, .version, live, by decide +kernel⟩

theorem wit_securityBootsRecoversAndUnlocks_debugToken : ∃ (t _level : Nat) (_devid _nonce _key _sig : List Byte) (s : State),
    ((advance t s).sec.stage = 2) :=
  ⟨0, 1, [], [], [], [], live, by decide +kernel⟩

theorem wit_securityBootsRecoversAndUnlocks_tapAccess : ∃ (t _n : Nat) (s : State),
    ((advance t s).sec.debug = 0) :=
  ⟨0, 0, live, by decide +kernel⟩

theorem wit_securityBootsRecoversAndUnlocks_tapAccess2 : ∃ (t _n i : Nat) (_v : Bool) (s : State),
    ((advance t s).sec.debug ≠ 0 ∧ i < 2) :=
  ⟨0, 0, 0, true, { live with sec := { stage := 2, debug := 1 } }, by decide +kernel⟩

theorem wit_securityBootsRecoversAndUnlocks_tapAccess3 : ∃ (t _n : Nat) (s : State),
    ((advance t s).sec.debug ≠ 0) :=
  ⟨0, 0, { live with sec := { stage := 2, debug := 1 } }, by decide +kernel⟩

theorem wit_keysPoliciesAndReports_keyImport : ∃ (t id : Nat) (_payload : List Byte) (d : Desc) (s : State),
    (Starts (advance t s) id 0x19 d ∧ d.u 8 1 ≤ 7 ∧ d.u 9 1 ≤ 1) :=
  ⟨0, 0, [], keyDesc, inq keyDesc vfState, by decide +kernel⟩

theorem wit_keysPoliciesAndReports_policyInstall : ∃ (t id : Nat) (d : Desc) (body : List Byte) (s : State),
    (findDesc (advance t s) id = some d ∧ (getPart (advance t s) d.part).sec.importing = some (id, body) ∧ importQuiet (advance t s) d.part = true) :=
  ⟨0, 0, keyDesc, [], importState, by decide +kernel⟩

theorem wit_keysPoliciesAndReports_attest : ∃ (t id : Nat) (d : Desc) (s : State),
    (Starts (advance t s) id 0x1A d ∧ attestCheck (advance t s) d = none ∧ (getPLink (startDesc id (advance t s)) (fnLink (startDesc id (advance t s)) d.fn)).up = true) :=
  ⟨0, 0, attestDesc, inq attestDesc vfState, by decide +kernel⟩

theorem wit_theEventStoreIsReadAndCleared_evrCursorLoad : ∃ (t : Nat) (val : Word) (s : State),
    (writeReaches (advance t s) .pf 0x2700100 = true ∧ (advance t s).inj.busy = none ∧ val.toNat % 2048 ∉ (advance t s).evr.badSlots) :=
  ⟨0, 5, live, by decide +kernel⟩

theorem wit_theEventStoreIsReadAndCleared_clearCirculating : ∃ (t : Nat) (s : State),
    (writeReaches (advance t s) .pf 0x2700018 = true) :=
  ⟨0, live, by decide +kernel⟩

theorem wit_theEventStoreIsReadAndCleared_clearKept : ∃ (t : Nat) (s : State),
    (writeReaches (advance t s) .pf 0x2700018 = true) :=
  ⟨0, live, by decide +kernel⟩

theorem wit_theEventStoreIsReadAndCleared_clearKept2 : ∃ (t h : Nat) (s : State),
    (writeReaches (advance t s) (.scion h) 0x2700018 = true) :=
  ⟨0, 0, live, by decide +kernel⟩

theorem wit_powerModesAndQuadrantsChange_modeRequest : ∃ (t req : Nat) (acc : Agent) (s : State),
    (writeReaches (advance t s) acc 0x280000C = true ∧ (advance t s).pwr.target = none) ∧ ((fldSet 0x280000C 0 2 (req % 4) (advance t s)).pwr.mode ≠ req % 4 ∧ modeOk (fldSet 0x280000C 0 2 (req % 4) (advance t s)) (req % 4) = true ∧ req % 4 ≠ 1) :=
  ⟨0, 2, .pf, live, by decide +kernel⟩

theorem wit_powerModesAndQuadrantsChange_modeRequest2 : ∃ (t req : Nat) (acc : Agent) (s : State),
    (writeReaches (advance t s) acc 0x280000C = true ∧ (advance t s).pwr.target = none) ∧ ((fldSet 0x280000C 0 2 (req % 4) (advance t s)).pwr.mode ≠ req % 4 ∧ modeOk (fldSet 0x280000C 0 2 (req % 4) (advance t s)) (req % 4) = false) :=
  ⟨0, 3, .pf, live, by decide +kernel⟩

theorem wit_powerModesAndQuadrantsChange_modeChangeDone : ∃ (t m began : Nat) (_saved : Bool) (s : State),
    ((advance t s).pwr.target = some (m, began) ∧ began + modeNs m ≤ (advance t s).clk ∧ m ≠ 1) :=
  ⟨1000000, 2, 0, true, { live with pwr := { live.pwr with target := some (2, 0) } }, by decide +kernel⟩

theorem wit_powerModesAndQuadrantsChange_standbyExit : ∃ (t hub : Nat) (s : State),
    (hub < 2 ∧ tabGet dBool (advance t s).pwr.perst hub = true) :=
  ⟨0, 0, { live with pwr := { mode := 3, perst := [(0, true)] } }, by decide +kernel⟩

theorem wit_powerModesAndQuadrantsChange_quadrantGate : ∃ (t d q : Nat) (s : State),
    (d < 4 ∧ q < 4 ∧ (advance t s).pwr.mode = 0 ∧ (getDie (advance t s) d).st = .up) :=
  ⟨0, 0, 0, live, by decide +kernel⟩

theorem wit_powerModesAndQuadrantsChange_quadrantUngate : ∃ (t d q : Nat) (s : State),
    (d < 4 ∧ q < 4 ∧ (advance t s).pwr.mode = 0 ∧ meshOn (advance t s) d = true ∧ (getDie (advance t s) d).st = .up) :=
  ⟨0, 0, 0, live, by decide +kernel⟩

theorem wit_powerFollowsCapHeatAndRails_voltageReached : ∃ (t d : Nat) (s : State),
    (d < 4 ∧ (getPD (advance t s) d).raising.isSome = true) :=
  ⟨0, 0, { live with pwr := { live.pwr with dies := [(0, { raising := some 1 })] } }, by decide +kernel⟩

theorem wit_powerFollowsCapHeatAndRails_currentCheck : ∃ (t d amps : Nat) (s : State),
    (d < 4 ∧ 150 < amps ∧ (getPD (advance t s) d).halved = false) :=
  ⟨0, 0, 151, live, by decide +kernel⟩

theorem wit_powerFollowsCapHeatAndRails_currentCheck2 : ∃ (t d amps : Nat) (s : State),
    (d < 4 ∧ amps < 125 ∧ (getPD (advance t s) d).halved = false) :=
  ⟨0, 0, 0, live, by decide +kernel⟩

theorem wit_powerFollowsCapHeatAndRails_thermalSample : ∃ (t sensor : Nat) (temp : Int) (bad_ : Bool) (s u : State),
    (sensor < 56 ∧ (advance t s).inj.busy = none) ∧ (u = { (advance t s) with pwr := { (advance t s).pwr with temps := tabSet (fun _ => ((0 : Int), false)) (advance t s).pwr.temps sensor (if bad_ then 125 * 16 else temp, bad_) } }) :=
  ⟨0, 0, 800, false, live, { live with pwr := { live.pwr with temps := [(0, (800, false))] } }, by decide +kernel⟩

theorem wit_powerFollowsCapHeatAndRails_coolantCheck : ∃ (t h pulses : Nat) (inlet outlet : Int) (s u : State),
    (h < 2 ∧ (advance t s).inj.busy = none ∧ pulses ≠ 0) ∧ (u = { (advance t s) with pwr := { (advance t s).pwr with cools := tabSet dCool (advance t s).pwr.cools h { inlet, outlet, flow := min 4095 (pulses * 6000 / max 1 (eff (advance t s) (0x2800204 + 16 * h) 0 16)), inBad := false, outBad := false, pulse := (advance t s).clk } } }) ∧ (coolRow u = (advance t s).pwr.row) :=
  ⟨0, 0, 4095, 40, 40, { live with pwr := { live.pwr with cools := [(0, { flow := 200 }), (1, { flow := 200 })] } }, _, ⟨by decide +kernel, rfl, by decide +kernel⟩⟩

theorem wit_powerFollowsCapHeatAndRails_railFault : ∃ (t rail mv : Nat) (s : State),
    (rail < 4 ∧ (advance t s).inj.busy = none ∧ neverUp (event 0 0x0D05 [.id1 rail, .val4 mv] (pwrErr 2 (advance t s))) rail = false) :=
  ⟨0, 0, 0, live, by decide +kernel⟩

theorem wit_powerFollowsCapHeatAndRails_ageingMeasure : ∃ (t x : Nat) (slows : List Nat) (s u : State),
    (x < 6 ∧ (tabGet dAge (advance t s).pwr.ages x).at_ = none) ∧ (∀ y ∈ slows, y < 30) ∧ (u = { (advance t s) with pwr := { (advance t s).pwr with ages := tabSet dAge (advance t s).pwr.ages x { slow := max (tabGet dAge (advance t s).pwr.ages x).slow (min 1023 (slows.getD ((List.range (if x < 4 then 4 else 2)).foldl (fun b i => if slows.getD b 0 < slows.getD i 0 then i else b) 0) 0)), steps := (tabGet dAge (advance t s).pwr.ages x).steps, at_ := some (advance t s).clk } } }) :=
  ⟨0, 0, [1, 2, 3, 4], live, _, ⟨by decide +kernel, by decide, rfl⟩⟩

theorem wit_powerFollowsCapHeatAndRails_lifetimeSave : ∃ (t n : Nat) (s u : State),
    (n = ((advance t s).clk - (advance t s).pwr.saved) / 3600000000000 ∧ n ≠ 0) ∧ (u = countHours n { (advance t s) with pwr := { (advance t s).pwr with saved := (advance t s).pwr.saved + 3600000000000 * n } }) :=
  ⟨3600000000000, 1, live, _, ⟨by decide +kernel, rfl⟩⟩

theorem wit_hubsAndTheWholePartReset_hubDieReset : ∃ (t hub : Nat) (s : State),
    (hub < 2 ∧ hubUp (advance t s) hub = true) :=
  ⟨0, 0, live, by decide +kernel⟩

theorem wit_hubsAndTheWholePartReset_hubReset : ∃ (t hub : Nat) (acc : Agent) (s : State),
    (hub < 2 ∧ writeReaches (advance t s) acc 0x2800014 = true ∧ hubUp (fldSet 0x2800014 1 1 hub (advance t s)) hub = true) :=
  ⟨0, 0, .pf, live, by decide +kernel⟩

theorem wit_hubsAndTheWholePartReset_hubReturn : ∃ (t hub : Nat) (s : State),
    (hub < 2 ∧ (getHub (advance t s) hub).up = false ∧ (advance t s).sec.stage = 2) :=
  ⟨0, 0, { State.reset with sec := { stage := 2 } }, by decide +kernel⟩

theorem wit_hubsAndTheWholePartReset_managementClusterAccess : ∃ (t hub core addr len h : Nat) (_data : List Byte) (s : State),
    (hub < 2 ∧ core < 4 ∧ len ≠ 0 ∧ len ≤ 64 ∧ hubUp (advance t s) hub = true) ∧ (devSpace (advance t s) (addr + len - 1) ≠ .absent ∧ devSpace (advance t s) addr = .dram h) :=
  ⟨0, 0, 0, 2 ^ 30, 64, 0, [], dramUp, by decide +kernel⟩

theorem wit_hubsAndTheWholePartReset_managementClusterAccess2 : ∃ (t hub core addr len : Nat) (_data : List Byte) (s : State),
    (hub < 2 ∧ core < 4 ∧ len ≠ 0 ∧ len ≤ 64 ∧ hubUp (advance t s) hub = true) ∧ (devSpace (advance t s) (addr + len - 1) = .absent) :=
  ⟨0, 0, 0, 2 ^ 36 - 64, 64, [], dramUp, by decide +kernel⟩

theorem wit_hubsAndTheWholePartReset_managementClusterAccess3 : ∃ (t hub core addr _len off : Nat) (data : List Byte) (s : State),
    (hub < 2 ∧ core < 4 ∧ hubUp (advance t s) hub = true ∧ data.length = 4) ∧ (devSpace (advance t s) (addr + 4 - 1) ≠ .absent ∧ devSpace (advance t s) addr = .reg off) :=
  ⟨0, 0, 0, 0x4200000000, 0, 0, [0, 0, 0, 0], dramUp, by decide +kernel⟩

theorem wit_aStepRunsTheFrontCommand_idle : ∃ (s : State),
    (s.pending = []) :=
  ⟨State.reset, rfl⟩

theorem wit_everyStepKeepsTheStateSafe_step : ∃ (s u : State),
    (Safe s ∧ step s = .next u) :=
  ⟨State.reset, State.reset, ⟨⟨rfl, ⟨rfl, fun _ => rfl⟩, fun p q i j g h hg => by simp [granAt, getPart, State.reset, tabGet, dPart] at hg⟩, rfl⟩⟩

theorem wit_commandsKeepTheQueueTheFusesAndWhatWasSent_exec : ∃ (c : Instr) (s u : State),
    (exec c s = .next u) :=
  ⟨.canReceive 0 0, State.reset, _, rfl⟩

theorem wit_timeNeverGoesBackButAtPorst_exec : ∃ (c : Instr) (s u : State),
    ((∀ t, c ≠ .porst t) ∧ exec c s = .next u) :=
  ⟨.canReceive 0 0, State.reset, _, ⟨fun _ => Instr.noConfusion, rfl⟩⟩

theorem wit_stepsTakeCommandsInOrder_run : ∃ (n : Nat) (s : State),
    (n ≤ s.pending.length) :=
  ⟨1, { State.reset with pending := [.canReceive 0 0] }, by decide +kernel⟩

theorem wit_writesStayInTheirRange_bytes : ∃ (p a x : Nat) (bs : List Byte) (_who : Requester) (s : State),
    (memOk s = true ∧ ¬ storedIn s p a bs.length x) :=
  ⟨0, 0, 0, [], .hub 0, State.reset, ⟨rfl, by rintro ⟨y, hy, -⟩; simp [pieces] at hy⟩⟩

theorem wit_writesStayInTheirRange_others : ∃ (_p _a : Nat) (_bs : List Byte) (_who : Requester) (s : State),
    (memOk s = true) :=
  ⟨0, 0, [], .hub 0, State.reset, by decide +kernel⟩

theorem wit_partitionsCannotWriteEachOther_peek : ∃ (p q _a _b _n : Nat) (_bs : List Byte) (_who : Requester) (s : State),
    (Safe s ∧ p ≠ q) :=
  ⟨1, 2, 0, 0, 64, [1], .hub 0, State.reset, ⟨⟨rfl, ⟨rfl, fun _ => rfl⟩, fun p q i j g h hg => by simp [granAt, getPart, State.reset, tabGet, dPart] at hg⟩, by decide⟩⟩

theorem wit_whatIsWrittenReadsBack_peek : ∃ (p a : Nat) (bs : List Byte) (who : Requester) (s : State),
    (memOk s = true ∧ mapsOnce s p) ∧ ((writePart p a bs who s).1 = none) :=
  ⟨1, 0, [], .hub 0, State.reset, ⟨⟨rfl, fun i j g h hg => by simp [granAt, getPart, State.reset, tabGet, dPart] at hg⟩, by decide⟩⟩

theorem wit_aFullLineWriteHeals_line : ∃ (dev : Nat) (bs : List Byte) (_who : Requester) (s : State),
    (memOk s = true ∧ tabWf dLine s.lines = true ∧ dev % 64 = 0 ∧ bs.length = 64 ∧ (getDrc s (devHub dev)).held = false) :=
  ⟨64, zeros 64, .hub 0, { State.reset with lines := [(1, 1)] }, by decide +kernel⟩

theorem wit_loopAndCallStacksOverflowAndUnderflow_loopSkip : ∃ (g : Nat) (w : InstrWord) (s : State),
    (Issues s g 0x03 w ∧ (onlyBits w ([fImm, (111, 1)] ++ if flag w 0 then [fRa] else []) && wf w 116 6 = 0) = true) ∧ ((if flag w 0 then ((getCore s g).getS (raOf w)).toNat else wf w 32 32) = 0 ∧ (getCore s g).pc < wf w 0 32) :=
  ⟨0, iw 3 4, onCore (iw 3 4) {}, by decide +kernel⟩

theorem wit_loopAndCallStacksOverflowAndUnderflow_loopFull : ∃ (g : Nat) (w : InstrWord) (s : State),
    (Issues s g 0x03 w ∧ (onlyBits w ([fImm, (111, 1)] ++ if flag w 0 then [fRa] else []) && wf w 116 6 = 0) = true) ∧ ((if flag w 0 then ((getCore s g).getS (raOf w)).toNat else wf w 32 32) ≠ 0 ∧ (getCore s g).pc < wf w 0 32 ∧ (getCore s g).loops.length = 16) :=
  ⟨0, iw 3 (2 * 2 ^ 32 + 4), onCore (iw 3 (2 * 2 ^ 32 + 4)) { loops := List.replicate 16 { start := 1, stop := 2, left := 1 } }, by decide +kernel⟩

theorem wit_loopAndCallStacksOverflowAndUnderflow_loopPush : ∃ (g n : Nat) (w : InstrWord) (s : State),
    (Issues s g 0x03 w ∧ (onlyBits w ([fImm, (111, 1)] ++ if flag w 0 then [fRa] else []) && wf w 116 6 = 0) = true) ∧ (n = (if flag w 0 then ((getCore s g).getS (raOf w)).toNat else wf w 32 32) ∧ n ≠ 0 ∧ (getCore s g).pc < wf w 0 32 ∧ (getCore s g).loops.length < 16) :=
  ⟨0, 2, iw 3 (2 * 2 ^ 32 + 4), onCore (iw 3 (2 * 2 ^ 32 + 4)) { loops := List.replicate 15 { start := 1, stop := 2, left := 1 } }, by decide +kernel⟩

theorem wit_loopAndCallStacksOverflowAndUnderflow_endlFault : ∃ (g : Nat) (w : InstrWord) (s : State),
    (Issues s g 0x04 w ∧ (onlyBits w [fImm] && wf w 116 6 = 0) = true) ∧ (∀ l r, (getCore s g).loops = l :: r → l.stop ≠ (getCore s g).pc) :=
  ⟨0, iw 4 0, onCore (iw 4 0) {}, ⟨by decide +kernel, fun l r h => by cases h⟩⟩

theorem wit_loopAndCallStacksOverflowAndUnderflow_endlPass : ∃ (g : Nat) (w : InstrWord) (l : LoopEnt) (r : List LoopEnt) (s : State),
    (Issues s g 0x04 w ∧ (onlyBits w [fImm] && wf w 116 6 = 0) = true) ∧ ((getCore s g).loops = l :: r ∧ l.stop = (getCore s g).pc) :=
  ⟨0, iw 4 0, { start := 0, stop := 0, left := 1 }, [], onCore (iw 4 0) { loops := [{ start := 0, stop := 0, left := 1 }] }, by decide +kernel⟩

theorem wit_loopAndCallStacksOverflowAndUnderflow_callFull : ∃ (g : Nat) (w : InstrWord) (s : State),
    (Issues s g 0x05 w ∧ onlyBits w [(0, 32)] = true ∧ (getCore s g).calls.length = 32) :=
  ⟨0, iw 5 3, onCore (iw 5 3) { calls := List.replicate 32 1 }, by decide +kernel⟩

theorem wit_loopAndCallStacksOverflowAndUnderflow_callPush : ∃ (g : Nat) (w : InstrWord) (s : State),
    (Issues s g 0x05 w ∧ onlyBits w [(0, 32)] = true ∧ wf w 0 32 < (getCore s g).count ∧ (getCore s g).calls.length < 32) :=
  ⟨0, iw 5 3, onCore (iw 5 3) { count := 4, calls := List.replicate 31 1 }, by decide +kernel⟩

theorem wit_loopAndCallStacksOverflowAndUnderflow_retEmpty : ∃ (g : Nat) (w : InstrWord) (s : State),
    (Issues s g 0x06 w ∧ onlyBits w [fImm] = true ∧ (getCore s g).calls = []) :=
  ⟨0, iw 6 0, onCore (iw 6 0) {}, by decide +kernel⟩

theorem wit_loopAndCallStacksOverflowAndUnderflow_branch : ∃ (g : Nat) (w : InstrWord) (s : State),
    (Issues s g 0x01 w ∧ onlyBits w [(0, 32)] = true ∧ wf w 0 32 < (getCore s g).count) :=
  ⟨0, iw 1 3, onCore (iw 1 3) { count := 4, loops := [{ start := 0, stop := 9, left := 1 }] }, by decide +kernel⟩

theorem wit_doorbellsAreCheckedBeforeTheyAreTaken_sqOff : ∃ (t fn ring _val : Nat) (s : State),
    (fn ≤ 32 ∧ ring < 4 ∧ hasRing fn ring = true ∧ fnPresent (advance t s) fn = true ∧ (getRing (advance t s) fn ring).st ≠ .active) :=
  ⟨0, 0, 1, 2 ^ 31, rung, by decide +kernel⟩

theorem wit_doorbellsAreCheckedBeforeTheyAreTaken_cqOff : ∃ (t fn ring _val : Nat) (s : State),
    (fn ≤ 32 ∧ 4 ≤ ring ∧ hasRing fn ring = true ∧ fnPresent (advance t s) fn = true ∧ (getRing (advance t s) fn ring).st ≠ .active) :=
  ⟨0, 0, 5, 0, rung, by decide +kernel⟩

theorem wit_doorbellsAreCheckedBeforeTheyAreTaken_sqRange : ∃ (t fn ring val : Nat) (s : State),
    (fn ≤ 32 ∧ ring < 4 ∧ hasRing fn ring = true ∧ fnPresent (advance t s) fn = true ∧ (getRing (advance t s) fn ring).st = .active) ∧ (ringSize (advance t s) fn ring ≤ val) :=
  ⟨0, 0, 0, 1, rung, by decide +kernel⟩

theorem wit_doorbellsAreCheckedBeforeTheyAreTaken_cqRange : ∃ (t fn ring val : Nat) (s : State),
    (fn ≤ 32 ∧ 4 ≤ ring ∧ hasRing fn ring = true ∧ fnPresent (advance t s) fn = true ∧ (getRing (advance t s) fn ring).st = .active) ∧ (ringSize (advance t s) fn ring ≤ val) :=
  ⟨0, 0, 4, 1, rung, by decide +kernel⟩

theorem wit_doorbellsAreCheckedBeforeTheyAreTaken_sqTail : ∃ (t fn ring val : Nat) (s : State),
    (fn ≤ 32 ∧ ring < 4 ∧ hasRing fn ring = true ∧ fnPresent (advance t s) fn = true ∧ (getRing (advance t s) fn ring).st = .active) ∧ (val < ringSize (advance t s) fn ring) :=
  ⟨0, 0, 0, 0, rung, by decide +kernel⟩

theorem wit_doorbellsAreCheckedBeforeTheyAreTaken_cqHead : ∃ (t fn ring val : Nat) (s : State),
    (fn ≤ 32 ∧ 4 ≤ ring ∧ hasRing fn ring = true ∧ fnPresent (advance t s) fn = true ∧ (getRing (advance t s) fn ring).st = .active) ∧ (val < ringSize (advance t s) fn ring) :=
  ⟨0, 0, 4, 0, rung, by decide +kernel⟩

theorem wit_undefinedOffsetsReadZeroAndIgnoreWrites_reservedRead : ∃ (_t off : Nat) (_s : State),
    (off % 4 = 0 ∧ off < 0x4000000 ∧ blkOf off = none) :=
  ⟨0, 0x300000, live, by decide +kernel⟩

theorem wit_undefinedOffsetsReadZeroAndIgnoreWrites_reservedWrite : ∃ (_t off : Nat) (_val : Word) (_s : State),
    (off % 4 = 0 ∧ off < 0x4000000 ∧ blkOf off = none) :=
  ⟨0, 0x2B00000, 1, live, by decide +kernel⟩

theorem wit_undefinedOffsetsReadZeroAndIgnoreWrites_undefinedRead : ∃ (t off o : Nat) (acc : Agent) (b : Blk) (s : State),
    (off % 4 = 0 ∧ agentAbsent (advance t s) acc = false ∧ absOff acc off = some o ∧ blkOf o = some b ∧ fieldsAt o = []) ∧ (reach (advance t s) (answerHub (advance t s) acc) b = .reached) :=
  ⟨0, 0x2200FF0, 0x2200FF0, .pf, .ing 0, live, by decide +kernel⟩

theorem wit_undefinedOffsetsReadZeroAndIgnoreWrites_undefinedWrite : ∃ (t off o : Nat) (acc : Agent) (_val : Word) (b : Blk) (s : State),
    (off % 4 = 0 ∧ agentAbsent (advance t s) acc = false ∧ absOff acc off = some o ∧ blkOf o = some b ∧ fieldsAt o = []) ∧ (reach (advance t s) (answerHub (advance t s) acc) b = .reached) :=
  ⟨0, 0x2200FF0, 0x2200FF0, .pf, 1, .ing 0, live, by decide +kernel⟩

theorem wit_anUnmapRemovesThePolicyItOverlaps_order : ∃ (t id : Nat) (d : Desc) (s : State),
    (unmapBit s id = some true ∧ ScionServes s ∧ Starts (advance t s) id 0x14 d ∧ memUnmapCheck (advance t s) d = none) :=
  ⟨0, 0, muDesc, inq muDesc vfState, by decide +kernel⟩

theorem wit_anUnmapRemovesThePolicyItOverlaps_removed : ∃ (p a n : Nat) (pol : Policy) (s u : State),
    ((getPart s p).sec.policy = some pol ∧ pol.regions.any (fun r => r.meets a n) = true) ∧ (tabWf dPart s.prt.parts = true ∧ tabWf (fun _ => ([] : List Byte)) (getPart s p).sec.slots = true) ∧ (u = unmapPolicy p a n s) :=
  ⟨1, 0, 1, { regions := [{ addr := 0, len := 64, mode := 0, keySlot := 0, digest := [] }], allowSeal := false, bytes := [] }, { State.reset with prt := { parts := [(1, { st := 1, sec := { policy := some { regions := [{ addr := 0, len := 64, mode := 0, keySlot := 0, digest := [] }], allowSeal := false, bytes := [] } } })] } }, _, ⟨by decide, by decide, rfl⟩⟩

theorem wit_anUnmapRemovesThePolicyItOverlaps_kept : ∃ (p a n : Nat) (pol : Policy) (s : State),
    ((getPart s p).sec.policy = some pol ∧ pol.regions.any (fun r => r.meets a n) = false) :=
  ⟨1, 64, 1, { regions := [{ addr := 0, len := 64, mode := 0, keySlot := 0, digest := [] }], allowSeal := false, bytes := [] }, { State.reset with prt := { parts := [(1, { st := 1, sec := { policy := some { regions := [{ addr := 0, len := 64, mode := 0, keySlot := 0, digest := [] }], allowSeal := false, bytes := [] } } })] } }, by decide +kernel⟩

theorem wit_eventsFillTheStoreInOrder_newest : ∃ (_thr _win : Nat) (e : Evr) (r : EvRec),
    (tabWf dEv e.slots = true ∧ evRepeats r.code = false ∧ e.kept ≤ 256) :=
  ⟨3, 64, { head := 4117 }, { code := 0x0B01, sev := 4 }, by decide +kernel⟩

theorem wit_eventsFillTheStoreInOrder_kept : ∃ (thr _win : Nat) (e : Evr) (r : EvRec),
    (tabWf dEv e.slots = true ∧ evRepeats r.code = false ∧ thr ≤ r.sev ∧ thr ≤ 4) :=
  ⟨3, 64, { kept := 256 }, { code := 0x0B01, sev := 4 }, by decide +kernel⟩

theorem wit_eventsFillTheStoreInOrder_merged : ∃ (_thr win k : Nat) (e : Evr) (r o : EvRec),
    (tabWf dEv e.slots = true ∧ evRepeats r.code = true) ∧ (findMerge e r (min win 1024) e.head = some k ∧ tabGet dEv e.slots k = o) :=
  ⟨3, 64, 256, { head := 1, slots := [(256, { code := 0x0703, sev := 3, repeats := 1 })] }, { code := 0x0703, sev := 3, repeats := 1 }, { code := 0x0703, sev := 3, repeats := 1 }, by decide +kernel⟩

theorem wit_windowsHaveTheirOutputSizes_floor : ∃ (_n _lo _hi k s _d : Nat),
    (0 < s ∧ 0 < k) :=
  ⟨1, 0, 0, 5, 3, 1, by decide +kernel⟩

theorem wit_windowsHaveTheirOutputSizes_transposed : ∃ (_n _lo _hi k _s _d : Nat),
    (0 < k) :=
  ⟨4, 0, 0, 1, 1, 1, by decide +kernel⟩

theorem wit_cellsDecayOnceInAnInstant_once : ∃ (half _t _c : Nat),
    (0 < half) :=
  ⟨64, 2 ^ 40, 5, by decide +kernel⟩

theorem wit_everyFloatRoundsToItself_code : ∃ (f : Fpf) (code : Nat) (_t : Tally),
    (f ∈ floatFormats ∧ code < 2 ^ f.bits ∧ f.decode code ≠ .nan) :=
  ⟨fp32, 0x80000001, { ctl := 0 }, by decide +kernel⟩

theorem wit_roundingIsNearestTiesToEven_nearest : ∃ (f : Fpf) (_n d _k : Nat),
    (f ∈ floatFormats ∧ 0 < d) :=
  ⟨bf16, 5, 3, 7, by decide +kernel⟩

theorem wit_roundingIsNearestTiesToEven_ties : ∃ (f : Fpf) (n d k : Nat),
    (f ∈ floatFormats ∧ 0 < d ∧ k ≠ f.roundMag n d) ∧ (((((f.magnitude (f.roundMag n d)).1 * d : Int) - n * (f.magnitude (f.roundMag n d)).2).natAbs * (f.magnitude k).2 = (((f.magnitude k).1 * d : Int) - n * (f.magnitude k).2).natAbs * (f.magnitude (f.roundMag n d)).2)) :=
  ⟨e4m3, 1, 1024, 1, by decide +kernel⟩

theorem wit_scalarInstructionsChangeTheirCoreAlone_frame : ∃ (g : Nat) (c : Instr) (s u : State),
    (c ∈ scalarOps g ∧ exec c s = .next u) :=
  ⟨0, .addI 0, onCore (iw 0x10 5) {}, _, ⟨by decide, rfl⟩⟩

theorem wit_scalarInstructionsChangeTheirCoreAlone_others : ∃ (g k : Nat) (_f : Core → Core) (s : State),
    (tabWf dCore s.cores = true ∧ k ≠ g) :=
  ⟨0, 1, id, live, by decide +kernel⟩


end Sys2Proof.Tests
end

/-! # What every command keeps, and the steps along a queue -/

namespace Sys2Proof.Machine

/-! ## Every command answers a next state -/

/-- Every command but PORST answers a next state that the part's own work leads to. PORST is left out because it begins
time anew (`doPorst_keeps`). -/
theorem exec_next_keeps (c : Instr) (s : State) (hc : ∀ t, c ≠ .porst t) : ∃ u, exec c s = .next u ∧ Keeps s u := by
  have r := Keeps.refl s
  cases c with
  | registerWrite => exact ⟨_, rfl, doRegisterWrite_keeps r⟩
  | shadowCommit => exact ⟨_, rfl, doShadowCommit_keeps r⟩
  | expertEnable => exact ⟨_, rfl, doExpertEnable_keeps r⟩
  | misalignedAccess => exact ⟨_, rfl, doMisalignedAccess_keeps r⟩
  | unreachableAccess => exact ⟨_, rfl, doUnreachableAccess_keeps r⟩
  | latchingLoRead => exact ⟨_, rfl, doLatchingLoRead_keeps r⟩
  | sqDoorbell => exact ⟨_, rfl, doSqDoorbell_keeps r⟩
  | cqDoorbell => exact ⟨_, rfl, doCqDoorbell_keeps r⟩
  | ringEnable => exact ⟨_, rfl, doRingEnable_keeps r⟩
  | ringDisable => exact ⟨_, rfl, doRingDisable_keeps r⟩
  | ringDrainDone => exact ⟨_, rfl, doRingDrainDone_keeps r⟩
  | ringFetch => exact ⟨_, rfl, doRingFetch_keeps r⟩
  | ringFetchError => exact ⟨_, rfl, doRingFetchError_keeps r⟩
  | coalesceTimeout => exact ⟨_, rfl, doCoalesceTimeout_keeps r⟩
  | msixUnmask => exact ⟨_, rfl, doMsixUnmask_keeps r⟩
  | vfFlr => exact ⟨_, rfl, doVfFlr_keeps r⟩
  | pfFlr => exact ⟨_, rfl, doPfFlr_keeps r⟩
  | portReset => exact ⟨_, rfl, doPortReset_keeps r⟩
  | pcieLinkDown => exact ⟨_, rfl, doPcieLinkDown_keeps r⟩
  | pcieLinkReturn => exact ⟨_, rfl, doPcieLinkReturn_keeps r⟩
  | nop => exact ⟨_, rfl, doNop_keeps r⟩
  | launch => exact ⟨_, rfl, doLaunch_keeps r⟩
  | copy => exact ⟨_, rfl, doCopy_keeps r⟩
  | fill => exact ⟨_, rfl, doFill_keeps r⟩
  | wait => exact ⟨_, rfl, doWait_keeps r⟩
  | signal => exact ⟨_, rfl, doSignal_keeps r⟩
  | preempt => exact ⟨_, rfl, doPreempt_keeps r⟩
  | resume => exact ⟨_, rfl, doResume_keeps r⟩
  | kvMap => exact ⟨_, rfl, doKvMap_keeps r⟩
  | streamBind => exact ⟨_, rfl, doStreamBind_keeps r⟩
  | calLoad => exact ⟨_, rfl, doCalLoad_keeps r⟩
  | digest => exact ⟨_, rfl, doDigest_keeps r⟩
  | query => exact ⟨_, rfl, doQuery_keeps r⟩
  | recordStart => exact ⟨_, rfl, doRecordStart_keeps r⟩
  | recordStop => exact ⟨_, rfl, doRecordStop_keeps r⟩
  | replay => exact ⟨_, rfl, doReplay_keeps r⟩
  | partCreate => exact ⟨_, rfl, doPartCreate_keeps r⟩
  | partDestroy => exact ⟨_, rfl, doPartDestroy_keeps r⟩
  | ctxCreate => exact ⟨_, rfl, doCtxCreate_keeps r⟩
  | ctxDestroy => exact ⟨_, rfl, doCtxDestroy_keeps r⟩
  | memMap => exact ⟨_, rfl, doMemMap_keeps r⟩
  | memUnmap => exact ⟨_, rfl, doMemUnmap_keeps r⟩
  | safetyCfg => exact ⟨_, rfl, doSafetyCfg_keeps r⟩
  | dramFreq => exact ⟨_, rfl, doDramFreq_keeps r⟩
  | freqGroupSwitch => exact ⟨_, rfl, doFreqGroupSwitch_keeps r⟩
  | linkRetrain => exact ⟨_, rfl, doLinkRetrain_keeps r⟩
  | dieReset => exact ⟨_, rfl, doDieReset_keeps r⟩
  | keyImport => exact ⟨_, rfl, doKeyImport_keeps r⟩
  | policyInstall => exact ⟨_, rfl, doPolicyInstall_keeps r⟩
  | attest => exact ⟨_, rfl, doAttest_keeps r⟩
  | mirrorCfgAdd => exact ⟨_, rfl, doMirrorCfgAdd_keeps r⟩
  | mirrorCfgRemove => exact ⟨_, rfl, doMirrorCfgRemove_keeps r⟩
  | rangeInSync => exact ⟨_, rfl, doRangeInSync_keeps r⟩
  | stopPointReached => exact ⟨_, rfl, doStopPointReached_keeps r⟩
  | drainDone => exact ⟨_, rfl, doDrainDone_keeps r⟩
  | heelInDone => exact ⟨_, rfl, doHeelInDone_keeps r⟩
  | replantDone => exact ⟨_, rfl, doReplantDone_keeps r⟩
  | quantumExpiry => exact ⟨_, rfl, doQuantumExpiry_keeps r⟩
  | budgetExpiry => exact ⟨_, rfl, doBudgetExpiry_keeps r⟩
  | semaphoreTimeout => exact ⟨_, rfl, doSemaphoreTimeout_keeps r⟩
  | holdBudgetExpiry => exact ⟨_, rfl, doHoldBudgetExpiry_keeps r⟩
  | mirrorApply => exact ⟨_, rfl, doMirrorApply_keeps r⟩
  | mirrorLost => exact ⟨_, rfl, doMirrorLost_keeps r⟩
  | illegalOpcode => exact ⟨_, rfl, doIllegalOpcode_keeps r⟩
  | br => exact ⟨_, rfl, doBr_keeps r⟩
  | brc => exact ⟨_, rfl, doBrc_keeps r⟩
  | loopI => exact ⟨_, rfl, doLoop_keeps r⟩
  | endlI => exact ⟨_, rfl, doEndl_keeps r⟩
  | callI => exact ⟨_, rfl, doCall_keeps r⟩
  | retI => exact ⟨_, rfl, doRet_keeps r⟩
  | haltI => exact ⟨_, rfl, doHalt_keeps r⟩
  | yieldI => exact ⟨_, rfl, doYield_keeps r⟩
  | trapI => exact ⟨_, rfl, doTrap_keeps r⟩
  | addI => exact ⟨_, rfl, doAdd_keeps r⟩
  | subI => exact ⟨_, rfl, doSub_keeps r⟩
  | mulI => exact ⟨_, rfl, doMul_keeps r⟩
  | andI => exact ⟨_, rfl, doAnd_keeps r⟩
  | orI => exact ⟨_, rfl, doOr_keeps r⟩
  | xorI => exact ⟨_, rfl, doXor_keeps r⟩
  | shlI => exact ⟨_, rfl, doShl_keeps r⟩
  | shrI => exact ⟨_, rfl, doShr_keeps r⟩
  | li => exact ⟨_, rfl, doLi_keeps r⟩
  | ld => exact ⟨_, rfl, doLd_keeps r⟩
  | st => exact ⟨_, rfl, doSt_keeps r⟩
  | cmpI => exact ⟨_, rfl, doCmp_keeps r⟩
  | minI => exact ⟨_, rfl, doMin_keeps r⟩
  | maxI => exact ⟨_, rfl, doMax_keeps r⟩
  | tdldI => exact ⟨_, rfl, doTdld_keeps r⟩
  | tdstI => exact ⟨_, rfl, doTdst_keeps r⟩
  | mmtI => exact ⟨_, rfl, doMm_keeps r⟩
  | mmaI => exact ⟨_, rfl, doMm_keeps r⟩
  | convI => exact ⟨_, rfl, doConvOp_keeps r⟩
  | convtI => exact ⟨_, rfl, doConvOp_keeps r⟩
  | poolI => exact ⟨_, rfl, doPool_keeps r⟩
  | attnI => exact ⟨_, rfl, doAttn_keeps r⟩
  | kvwI => exact ⟨_, rfl, doKvw_keeps r⟩
  | cbldI => exact ⟨_, rfl, doCbld_keeps r⟩
  | scaleI => exact ⟨_, rfl, doScale_keeps r⟩
  | vopI => exact ⟨_, rfl, doVop_keeps r⟩
  | vredI => exact ⟨_, rfl, doVred_keeps r⟩
  | vdwI => exact ⟨_, rfl, doVdw_keeps r⟩
  | vsfnI => exact ⟨_, rfl, doVsfn_keeps r⟩
  | vnormI => exact ⟨_, rfl, doVnorm_keeps r⟩
  | voptI => exact ⟨_, rfl, doVopt_keeps r⟩
  | vcvtI => exact ⟨_, rfl, doVcvt_keeps r⟩
  | vgatherI => exact ⟨_, rfl, doVgather_keeps r⟩
  | dmaI => exact ⟨_, rfl, doDma_keeps r⟩
  | haloI => exact ⟨_, rfl, doHalo_keeps r⟩
  | dmawI => exact ⟨_, rfl, doDmaw_keeps r⟩
  | prefI => exact ⟨_, rfl, doPref_keeps r⟩
  | semaI => exact ⟨_, rfl, doSema_keeps r⟩
  | barI => exact ⟨_, rfl, doBar_keeps r⟩
  | credI => exact ⟨_, rfl, doCred_keeps r⟩
  | evtI => exact ⟨_, rfl, doEvt_keeps r⟩
  | icacheFill => exact ⟨_, rfl, doIcacheFill_keeps r⟩
  | tileIssue => exact ⟨_, rfl, doTileIssue_keeps r⟩
  | leafDeliver => exact ⟨_, rfl, doLeafDeliver_keeps r⟩
  | gleanRequest => exact ⟨_, rfl, doGleanRequest_keeps r⟩
  | gleanGrant => exact ⟨_, rfl, doGleanGrant_keeps r⟩
  | gleanBackoffExpiry => exact ⟨_, rfl, doGleanBackoffExpiry_keeps r⟩
  | dmaEntryStart => exact ⟨_, rfl, doDmaEntryStart_keeps r⟩
  | dmaEntryDone => exact ⟨_, rfl, doDmaEntryDone_keeps r⟩
  | meshPacketLost => exact ⟨_, rfl, doMeshPacketLost_keeps r⟩
  | coreMove => exact ⟨_, rfl, doCoreMove_keeps r⟩
  | sdlEntryCommit => exact ⟨_, rfl, doSdlEntryCommit_keeps r⟩
  | sdlBand => exact ⟨_, rfl, doSdlBand_keeps r⟩
  | sdlJobStart => exact ⟨_, rfl, doSdlJobStart_keeps r⟩
  | sliceEnd => exact ⟨_, rfl, doSliceEnd_keeps r⟩
  | csiLongPacket => exact ⟨_, rfl, doCsiLongPacket_keeps r⟩
  | frameStart => exact ⟨_, rfl, doFrameStart_keeps r⟩
  | frameEnd => exact ⟨_, rfl, doFrameEnd_keeps r⟩
  | ethFrame => exact ⟨_, rfl, doEthFrame_keeps r⟩
  | frameGapExpiry => exact ⟨_, rfl, doFrameGapExpiry_keeps r⟩
  | missingDeadline => exact ⟨_, rfl, doMissingDeadline_keeps r⟩
  | frameRelease => exact ⟨_, rfl, doFrameRelease_keeps r⟩
  | syncReceived => exact ⟨_, rfl, doSyncReceived_keeps r⟩
  | syncTimeout => exact ⟨_, rfl, doSyncTimeout_keeps r⟩
  | timeFollow => exact ⟨_, rfl, doTimeFollow_keeps r⟩
  | timeStep => exact ⟨_, rfl, doTimeStep_keeps r⟩
  | fusionEnable => exact ⟨_, rfl, doFusionEnable_keeps r⟩
  | fusionDisable => exact ⟨_, rfl, doFusionDisable_keeps r⟩
  | fusionSourceCommit => exact ⟨_, rfl, doFusionSourceCommit_keeps r⟩
  | pointListRead => exact ⟨_, rfl, doPointListRead_keeps r⟩
  | fusionPointBatch => exact ⟨_, rfl, doFusionPointBatch_keeps r⟩
  | instantClose => exact ⟨_, rfl, doInstantClose_keeps r⟩
  | cryptoTurn => exact ⟨_, rfl, doCryptoTurn_keeps r⟩
  | dramRead => exact ⟨_, rfl, doDramRead_keeps r⟩
  | dramWrite => exact ⟨_, rfl, doDramWrite_keeps r⟩
  | refresh => exact ⟨_, rfl, doRefresh_keeps r⟩
  | ratWindowEnd => exact ⟨_, rfl, doRatWindowEnd_keeps r⟩
  | patrolScrub => exact ⟨_, rfl, doPatrolScrub_keeps r⟩
  | wck2dqTrack => exact ⟨_, rfl, doWck2dqTrack_keeps r⟩
  | trainingGo => exact ⟨_, rfl, doTrainingGo_keeps r⟩
  | trnWaitExpiry => exact ⟨_, rfl, doTrnWaitExpiry_keeps r⟩
  | capture => exact ⟨_, rfl, doCapture_keeps r⟩
  | holdMem => exact ⟨_, rfl, doHold_keeps r⟩
  | holdRelease => exact ⟨_, rfl, doHoldRelease_keeps r⟩
  | diagLoad => exact ⟨_, rfl, doDiagLoad_keeps r⟩
  | sidebandMessage => exact ⟨_, rfl, doSidebandMessage_keeps r⟩
  | sidebandRetry => exact ⟨_, rfl, doSidebandRetry_keeps r⟩
  | linkTrain => exact ⟨_, rfl, doLinkTrain_keeps r⟩
  | trainTimeout => exact ⟨_, rfl, doTrainTimeout_keeps r⟩
  | flitReceive => exact ⟨_, rfl, doFlitReceive_keeps r⟩
  | nakReceived => exact ⟨_, rfl, doNakReceived_keeps r⟩
  | linkHeartbeat => exact ⟨_, rfl, doLinkHeartbeat_keeps r⟩
  | linkSilence => exact ⟨_, rfl, doLinkSilence_keeps r⟩
  | e2eAck => exact ⟨_, rfl, doE2eAck_keeps r⟩
  | dieHeartbeat => exact ⟨_, rfl, doDieHeartbeat_keeps r⟩
  | dieHeartbeatMiss => exact ⟨_, rfl, doDieHeartbeatMiss_keeps r⟩
  | pllUnlock => exact ⟨_, rfl, doPllUnlock_keeps r⟩
  | fenceReceive => exact ⟨_, rfl, doFenceReceive_keeps r⟩
  | fencedHeartbeat => exact ⟨_, rfl, doFencedHeartbeat_keeps r⟩
  | dieResetRelease => exact ⟨_, rfl, doDieResetRelease_keeps r⟩
  | dieRejoinDone => exact ⟨_, rfl, doDieRejoinDone_keeps r⟩
  | hubDieReset => exact ⟨_, rfl, doHubDieReset_keeps r⟩
  | hubReturn => exact ⟨_, rfl, doHubReturn_keeps r⟩
  | partnerEnable => exact ⟨_, rfl, doPartnerEnable_keeps r⟩
  | partnerLost => exact ⟨_, rfl, doPartnerLost_keeps r⟩
  | partnerMirrorApply => exact ⟨_, rfl, doPartnerMirrorApply_keeps r⟩
  | resultRecord => exact ⟨_, rfl, doResultRecord_keeps r⟩
  | unmatchedExpiry => exact ⟨_, rfl, doUnmatchedExpiry_keeps r⟩
  | resultDeadline => exact ⟨_, rfl, doResultDeadline_keeps r⟩
  | staleNotice => exact ⟨_, rfl, doStaleNotice_keeps r⟩
  | lockstepError => exact ⟨_, rfl, doLockstepError_keeps r⟩
  | inputDisagreement => exact ⟨_, rfl, doInputDisagreement_keeps r⟩
  | clockCheck => exact ⟨_, rfl, doClockCheck_keeps r⟩
  | islandHeartbeat => exact ⟨_, rfl, doIslandHeartbeat_keeps r⟩
  | islLinkLoss => exact ⟨_, rfl, doIslLinkLoss_keeps r⟩
  | islandLinkMessage => exact ⟨_, rfl, doIslandLinkMessage_keeps r⟩
  | islandResetRelease => exact ⟨_, rfl, doIslandResetRelease_keeps r⟩
  | islandRun => exact ⟨_, rfl, doIslandRun_keeps r⟩
  | islandRestart => exact ⟨_, rfl, doIslandRestart_keeps r⟩
  | islandDebugHalt => exact ⟨_, rfl, doIslandDebugHalt_keeps r⟩
  | canStatusFrame => exact ⟨_, rfl, doCanStatusFrame_keeps r⟩
  | canBusoff => exact ⟨_, rfl, doCanBusoff_keeps r⟩
  | canReceive => exact ⟨_, rfl, advance_keeps r⟩
  | swatchDone => exact ⟨_, rfl, doSwatchDone_keeps r⟩
  | rollingTestStart => exact ⟨_, rfl, doRollingTestStart_keeps r⟩
  | scanTestDone => exact ⟨_, rfl, doScanTestDone_keeps r⟩
  | coverageCheck => exact ⟨_, rfl, doCoverageCheck_keeps r⟩
  | injFire => exact ⟨_, rfl, doInjFire_keeps r⟩
  | injectionEffect => exact ⟨_, rfl, doInjectionEffect_keeps r⟩
  | injectionTimeout => exact ⟨_, rfl, doInjectionTimeout_keeps r⟩
  | bootRom => exact ⟨_, rfl, doBootRom_keeps r⟩
  | scionCopy => exact ⟨_, rfl, doScionCopy_keeps r⟩
  | recoveryChunk => exact ⟨_, rfl, doRecoveryChunk_keeps r⟩
  | scionHeartbeat => exact ⟨_, rfl, doScionHeartbeat_keeps r⟩
  | scionWatchdog => exact ⟨_, rfl, doScionWatchdog_keeps r⟩
  | spdmRequest => exact ⟨_, rfl, doSpdmRequest_keeps r⟩
  | debugToken => exact ⟨_, rfl, doDebugToken_keeps r⟩
  | tapAccess => exact ⟨_, rfl, doTapAccess_keeps r⟩
  | evrCursorLoad => exact ⟨_, rfl, doEvrCursorLoad_keeps r⟩
  | clearCirculating => exact ⟨_, rfl, doClearCirculating_keeps r⟩
  | clearKept => exact ⟨_, rfl, doClearKept_keeps r⟩
  | coreCntClr => exact ⟨_, rfl, doCoreCntClr_keeps r⟩
  | modeRequest => exact ⟨_, rfl, doModeRequest_keeps r⟩
  | modeChangeDone => exact ⟨_, rfl, doModeChangeDone_keeps r⟩
  | standbyExit => exact ⟨_, rfl, doStandbyExit_keeps r⟩
  | quadrantGate => exact ⟨_, rfl, doQuadrantGate_keeps r⟩
  | quadrantUngate => exact ⟨_, rfl, doQuadrantUngate_keeps r⟩
  | capTick => exact ⟨_, rfl, doCapTick_keeps r⟩
  | voltageReached => exact ⟨_, rfl, doVoltageReached_keeps r⟩
  | currentCheck => exact ⟨_, rfl, doCurrentCheck_keeps r⟩
  | thermalSample => exact ⟨_, rfl, doThermalSample_keeps r⟩
  | coolantCheck => exact ⟨_, rfl, doCoolantCheck_keeps r⟩
  | railFault => exact ⟨_, rfl, doRailFault_keeps r⟩
  | hubReset => exact ⟨_, rfl, doHubResetCmd_keeps r⟩
  | porst t => exact absurd rfl (hc t)
  | ageingMeasure => exact ⟨_, rfl, doAgeingMeasure_keeps r⟩
  | lifetimeSave => exact ⟨_, rfl, doLifetimeSave_keeps r⟩
  | instructionNop => exact ⟨_, rfl, doInstructionNop_keeps r⟩
  | unsupportedRequest t link posted =>
    exact ⟨_, rfl, .ite (fun _ => advance_keeps r) fun _ => send_keeps (advance_keeps r)⟩
  | vfEnableWrite => exact ⟨_, rfl, doVfEnableWrite_keeps r⟩
  | managementClusterAccess => exact ⟨_, rfl, doManagementClusterAccess_keeps r⟩
  | islandPeriodicTest => exact ⟨_, rfl, doIslandPeriodicTest_keeps r⟩
  | quietWindowOpen => exact ⟨_, rfl, doQuietWindowOpen_keeps r⟩
  | islandPllUnlock => exact ⟨_, rfl, doIslandPllUnlock_keeps r⟩
  | islandDebugResume => exact ⟨_, rfl, doIslandDebugResume_keeps r⟩
  | islandResetAssert => exact ⟨_, rfl, doIslandResetAssert_keeps r⟩
  | canBusoffRecovery => exact ⟨_, rfl, doCanBusoffRecovery_keeps r⟩
  | vddAonLoss => exact ⟨_, rfl, doVddAonLoss_keeps r⟩

/-- Every command answers a next state, and no command touches the queue. -/
theorem exec_next_pending (c : Instr) (s : State) : ∃ u, exec c s = .next u ∧ u.pending = s.pending := by
  by_cases hc : ∀ t, c ≠ .porst t
  · obtain ⟨u, hu, hk⟩ := exec_next_keeps c s hc
    exact ⟨u, hu, hk.pending⟩
  · obtain ⟨t, rfl⟩ : ∃ t, c = .porst t := by simpa using hc
    exact ⟨doPorst t s, rfl, doPorst_keeps.1⟩

/-! ## A step and a run -/

theorem step_nil {s : State} (h : s.pending = []) : step s = .next s := by
  simp [step, h]

theorem step_cons {c : Instr} {r : List Instr} {s : State} (h : s.pending = c :: r) :
    step s = exec c { s with pending := r } := by
  simp [step, h]

/-- A step answers a next state and takes the front command, if there is one, off the queue. -/
theorem step_next_tail (s : State) : ∃ u, step s = .next u ∧ u.pending = s.pending.tail := by
  cases h : s.pending with
  | nil => exact ⟨s, step_nil h, h⟩
  | cons c r =>
    obtain ⟨u, hu, hp⟩ := exec_next_pending c { s with pending := r }
    exact ⟨u, (step_cons h).trans hu, hp⟩

/-- A run whose first step answers `u` goes on from `u`. -/
theorem run_succ {n : Nat} {s u : State} (h : step s = .next u) :
    Host.Core.run Sys2Proof.core (n + 1) s = Host.Core.run Sys2Proof.core n u := by
  have h' : Sys2Proof.core.step s = .next u := h
  simp only [Host.Core.run, h']

/-- Any number of steps is a run to a next state with that many commands fewer in the queue, or with none. -/
theorem run_next_drop (n : Nat) (s : State) :
    ∃ u : State, Host.Core.run Sys2Proof.core n s = .next u ∧ u.pending = s.pending.drop n := by
  induction n generalizing s with
  | zero => exact ⟨s, rfl, rfl⟩
  | succ n ih =>
    obtain ⟨v, hv, hvp⟩ := step_next_tail s
    obtain ⟨u, hu, hup⟩ := ih v
    exact ⟨u, (run_succ hv).trans hu, by rw [hup, hvp, List.drop_tail]⟩

end Sys2Proof.Machine

/-! # Register accesses -/

namespace Sys2Proof.Machine

variable {acc : Agent} {off o : Nat} {b : Blk} {s : State}

/-! ## Writes -/

/-- A write that is allowed and reaches its block changes what stands there (R6 to R10). -/
theorem registerWrite_reached {val : Nat} (ha : agentAbsent s acc = false) (ho : absOff acc off = some o)
    (hb : blkOf o = some b) (hr : reach s (answerHub s acc) b = .reached) (hw : writeReaches s acc o = true) :
    registerWrite acc off val s = writeAt (answerHub s acc) o b val s := by
  simp [registerWrite, ha, ho, hb, hr, hw]

/-- A write that no function takes changes nothing (R41). -/
theorem registerWrite_absent {val : Nat} (ha : agentAbsent s acc = true) : registerWrite acc off val s = s := by
  simp [registerWrite, ha]

theorem doRegisterWrite_aligned {t : Nat} {val : Word} (h : off % 4 = 0) :
    doRegisterWrite t acc off val s = registerWrite acc off val.toNat (advance t s) := by
  simp [doRegisterWrite, h]

/-- Raising EXPERT_EN writes the register back with bit 0 set (R11). -/
theorem doExpertEnable_eq {t r : Nat} (ho : absOff acc off = some o) (hb : blkOf o = some b)
    (hr : expertReg b = some r) (hat : b.base + r = o) :
    doExpertEnable t acc off s = doRegisterWrite t acc off (regGet s o ||| 1) s := by
  simp [doExpertEnable, ho, hb, hr, hat]

/-- A write of 1 to CORE_CNT_CTRL.clr that reaches its core clears the core's counters (R146). -/
theorem doCoreCntClr_reached {t g : Nat} (ho : absOff acc off = some o) (hb : blkOf o = some (.core g))
    (hat : o = (Blk.core g).base + 0x20) (hw : writeReaches (advance t s) acc o = true) :
    doCoreCntClr t acc off s = modCore g (fun c => { c with cnt := [] }) (advance t s) := by
  have hrel : o - (Blk.core g).base = 0x20 := by omega
  simp [doCoreCntClr, ho, hb, hrel, hw]

/-- The commit boundary of PRT commits PRT_POLICY (R8). -/
theorem doShadowCommit_prt (t : Nat) (s : State) :
    doShadowCommit t Blk.prt.base s = commit (Blk.prt.base + 0xC) (advance t s) := by
  have hb : blkOf Blk.prt.base = some .prt := by decide
  simp [doShadowCommit, hb, commitBlk]

/-! ## Reads -/

theorem doLatchingLoRead_aligned {t : Nat} (h : off % 4 = 0) :
    doLatchingLoRead t acc off s = registerRead acc off (advance t s) := by
  simp [doLatchingLoRead, h]

/-- A read that no function takes completes with Unsupported Request (R41). -/
theorem registerRead_absent {l : Nat} (ha : agentAbsent s acc = true) (hl : accLink s acc = some l) :
    registerRead acc off s = send (.unsupported l) s := by
  simp [registerRead, ha, hl]

/-- A read of a register with no high half answers with its value and latches nothing (R34). -/
theorem registerRead_narrow (ha : agentAbsent s acc = false) (ho : absOff acc off = some o) (hb : blkOf o = some b)
    (hr : reach s (answerHub s acc) b = .reached) (hn : wideAt s b (o - b.base) = none) (hx : otherWindow acc o = false) :
    registerRead acc off s = answerRead acc off (regRead s (answerHub s acc) o) s := by
  simp [registerRead, ha, ho, hb, hr, hn, hx]

/-- A read of a low half latches the high half and answers (R146). -/
theorem registerRead_wide {w : Nat} (ha : agentAbsent s acc = false) (ho : absOff acc off = some o)
    (hb : blkOf o = some b) (hr : reach s (answerHub s acc) b = .reached) (hw : wideAt s b (o - b.base) = some w)
    (hc : coreAbsent s b = false) (hx : otherWindow acc o = false) :
    registerRead acc off s = answerRead acc off (regRead s (answerHub s acc) o)
      { s with latch := tabSet dWord s.latch (o + 4) (BitVec.ofNat 32 (w / 2 ^ 32)) } := by
  simp [registerRead, ha, ho, hb, hr, hw, hc, hx]

/-! ## Accesses that no register answers -/

/-- A misaligned write is noted and posted; a misaligned read is noted and completes with Unsupported Request (R5, R39). -/
theorem doMisalignedAccess_eq {t size l : Nat} {isWrite : Bool} (h : ¬(size = 4 ∧ off % 4 = 0))
    (hl : accLink (noteAccess acc off 2 (advance t s)) acc = some l) :
    doMisalignedAccess t acc off size isWrite s =
      if isWrite then noteAccess acc off 2 (advance t s)
      else send (.unsupported l) (noteAccess acc off 2 (advance t s)) := by
  simp only [doMisalignedAccess, if_neg h, hl]

/-- An access to a powered-off block is not answered by the block (R35). -/
theorem doUnreachableAccess_pdOff {t : Nat} {isWrite late : Bool} (h : accReach (advance t s) acc off = .pdOff) :
    doUnreachableAccess t acc off isWrite late s = notAnswered acc off isWrite 0 (advance t s) := by
  simp [doUnreachableAccess, h]

/-- A write that no block answers is noted and discarded (R35). -/
theorem notAnswered_write (bit_ : Nat) : notAnswered acc off true bit_ s = noteAccess acc off bit_ s := by
  simp [notAnswered]

/-- A read that no block answers is noted and returns 0xDEAD_00nn, nn the block's identifier (R35). -/
theorem notAnswered_read (bit_ : Nat) (hb : accBlk acc off = some b) :
    notAnswered acc off false bit_ s =
      answerRead acc off (BitVec.ofNat 32 (0xDEAD0000 + b.ident)) (noteAccess acc off bit_ s) := by
  simp [notAnswered, hb]

end Sys2Proof.Machine

/-! # The obligations of spec/00_scope.md -/

section
open Sys2Proof Sys2Proof.Machine

/-- Settles O44: PORST's answer has the clock of reset, and what any other command answers `Keeps` the clock. -/
theorem timeNeverGoesBackButAtPorst : Obligations.TimeNeverGoesBackButAtPorst := by
  refine ⟨?_, fun t s => ⟨doPorst t s, rfl, rfl⟩⟩
  rintro c s u ⟨hc, hu⟩
  obtain ⟨v, hv, hk⟩ := exec_next_keeps c s hc
  obtain rfl : v = u := by simpa [hv] using hu
  exact hk.clk

/-- Settles O45. The bound on `n` is not needed: past the end of the queue the steps idle. -/
theorem stepsTakeCommandsInOrder : Obligations.StepsTakeCommandsInOrder :=
  fun n s _ => run_next_drop n s

/-- Settles O1, clause by clause from what an access comes to where it reaches its register and where it does not. -/
theorem registerAccessesAnswer : Obligations.RegisterAccessesAnswer := by
  refine ⟨?write, ?absent, ?expert, ?narrow, ?wide, ?clear, ?commit, ?misaligned, ?offWrite, ?offRead⟩
  case write =>
    rintro t o acc off val b s ⟨h4, ha, ho, hb⟩ ⟨hr, hw⟩
    exact congrArg Host.Outcome.next ((doRegisterWrite_aligned h4).trans (registerWrite_reached ha ho hb hr hw))
  case absent =>
    rintro t l fn off s ⟨h4, hf, hl⟩
    have ha : agentAbsent (advance t s) (.vf fn) = true := by simp [agentAbsent, hf]
    exact ⟨congrArg Host.Outcome.next ((doLatchingLoRead_aligned h4).trans (registerRead_absent ha hl)),
      fun _ => congrArg Host.Outcome.next ((doRegisterWrite_aligned h4).trans (registerWrite_absent ha))⟩
  case expert =>
    rintro t r o acc off b s ⟨ho, hb, hr, hat⟩
    exact congrArg Host.Outcome.next (doExpertEnable_eq ho hb hr hat)
  case narrow =>
    rintro t o acc off b s ⟨h4, ha, ho, hb⟩ ⟨hr, hn, hx⟩
    exact congrArg Host.Outcome.next ((doLatchingLoRead_aligned h4).trans (registerRead_narrow ha ho hb hr hn hx))
  case wide =>
    rintro t o w acc off b s ⟨h4, ha, ho, hb, hx⟩ ⟨hr, hw, hc⟩
    exact congrArg Host.Outcome.next ((doLatchingLoRead_aligned h4).trans (registerRead_wide ha ho hb hr hw hc hx))
  case clear =>
    rintro t o g acc off s ⟨ho, hb, hat⟩ hw
    exact congrArg Host.Outcome.next (doCoreCntClr_reached ho hb hat hw)
  case commit => exact fun t s => congrArg Host.Outcome.next (doShadowCommit_prt t s)
  case misaligned =>
    rintro t size l acc off w s h hl
    exact congrArg Host.Outcome.next (doMisalignedAccess_eq h hl)
  case offWrite =>
    rintro t acc off late s h
    exact congrArg Host.Outcome.next ((doUnreachableAccess_pdOff h).trans (notAnswered_write 0))
  case offRead =>
    rintro t acc off late b s ⟨h, hb⟩
    exact congrArg Host.Outcome.next ((doUnreachableAccess_pdOff h).trans (notAnswered_read 0 hb))

/-- Settles O40, by the equations of `step` with and without a command at the front of the queue. -/
theorem aStepRunsTheFrontCommand : Obligations.AStepRunsTheFrontCommand :=
  ⟨fun _ _ _ => step_cons rfl, fun _ h => step_nil h, fun _ _ _ => ⟨rfl, rfl⟩⟩

end

/-! # Every command leaves a safe state safe -/

namespace Sys2Proof.Machine

/-- From a safe state every command, PORST too, answers a safe state. -/
theorem exec_next_safe {c : Instr} {s u : State} (h : Safe s) (he : exec c s = .next u) : Safe u := by
  by_cases hc : ∀ t, c ≠ .porst t
  · obtain ⟨v, hv, hk⟩ := exec_next_keeps c s hc
    obtain rfl : v = u := by simpa [hv] using he
    exact hk.safe h
  · obtain ⟨t, rfl⟩ : ∃ t, c = .porst t := by simpa using hc
    obtain rfl : doPorst t s = u := Host.Outcome.next.inj he
    obtain ⟨_, _, _, _, hsafe⟩ := doPorst_keeps (t := t) (s := s)
    exact hsafe h

/-- Taking a command off the queue leaves a safe state safe: safety looks at the memories and the maps alone. -/
theorem Safe.withPending {s : State} (h : Safe s) (l : List Instr) : Safe { s with pending := l } :=
  h.same rfl rfl rfl

/-- From a safe state a step answers a safe state. -/
theorem step_next_safe {s u : State} (h : Safe s) (hs : step s = .next u) : Safe u := by
  cases hp : s.pending with
  | nil =>
    obtain rfl : s = u := by simpa [step_nil hp] using hs
    exact h
  | cons c r => exact exec_next_safe (h.withPending r) ((step_cons hp).symm.trans hs)

end Sys2Proof.Machine

/-! # What a write of partition memory leaves as it was -/

namespace Sys2Proof.Machine

/-- `u` comes from `s` by writing DRAM, and no byte of it outside `P`: host memory, the partitions with their maps and the
cores are as they were, and the memories are still in canonical form. -/
structure WritesOnly (P : Nat → Prop) (s u : State) : Prop where
  prt : u.prt = s.prt
  hostMem : u.hostMem = s.hostMem
  cores : u.cores = s.cores
  mem : memOk u = true
  dram : ∀ x, ¬ P x → tabGet dByte u.dram x = tabGet dByte s.dram x

section
variable {P : Nat → Prop} {s t u : State} {p q a b n x i : Nat} {bs : List Byte} {who : Requester}

theorem WritesOnly.refl (h : memOk s = true) : WritesOnly P s s :=
  ⟨rfl, rfl, rfl, h, fun _ _ => rfl⟩

theorem WritesOnly.trans (h : WritesOnly P s t) (g : WritesOnly P t u) : WritesOnly P s u :=
  ⟨g.prt.trans h.prt, g.hostMem.trans h.hostMem, g.cores.trans h.cores, g.mem,
    fun x hx => (g.dram x hx).trans (h.dram x hx)⟩

/-- Bookkeeping after a write writes nothing more. -/
theorem WritesOnly.quiet (h : WritesOnly P s t) (g : Quiet t u) : WritesOnly P s u :=
  h.trans ⟨g.prt, g.hostMem, g.cores, by simpa [memOk, g.dram, g.hostMem] using h.mem, fun x _ => by rw [g.dram]⟩

/-- The maps of the partitions are seen through `prt` alone. -/
theorem granAt_congr (h : u.prt = s.prt) : granAt u p i = granAt s p i := by
  simp only [granAt, getPart, h]

theorem devOf_congr (h : u.prt = s.prt) : devOf u p a = devOf s p a := by
  simp only [devOf, granAt_congr h]

/-- A device write writes only its range. -/
theorem writeDev_writesOnly {dev : Nat} (h : memOk s = true) (hP : ∀ x, dev ≤ x → x < dev + bs.length → P x) :
    WritesOnly P s (writeDev dev bs who s).2 := by
  obtain ⟨hprt, hhost, hcores, hmem, hdram⟩ := writeDev_frame (dev := dev) (bs := bs) (who := who) h
  refine ⟨hprt, hhost, hcores, hmem, fun x hx => hdram x ?_⟩
  have hout : ¬ (dev ≤ x ∧ x < dev + bs.length) := fun hin => hx (hP x hin.1 hin.2)
  omega

/-- A write that the rights refuse changes nothing (R88). -/
theorem writePart_refused (h : refusedAt s p a bs.length true = some x) :
    writePart p a bs who s = (some (.violation x), s) := by
  simp only [writePart, h]

/-- A write of partition memory writes only the bytes its pieces are stored in (R88, R342). Each piece is written where
the map of the start puts it, because no piece changes the map. -/
theorem writePart_writesOnly (h : memOk s = true) :
    WritesOnly (storedIn s p a bs.length) s (writePart p a bs who s).2 := by
  cases hr : refusedAt s p a bs.length true with
  | some x => rw [writePart_refused hr]; exact .refl h
  | none =>
    simp only [writePart, hr]
    refine WritesOnly.quiet (List.foldlRecOn (motive := fun acc : Option MemErr × State => WritesOnly _ s acc.2) _ _ (.refl h) ?piece)
      (mirrorWrite_quiet (Quiet.refl _))
    case piece =>
      intro acc hacc y hy
      refine hacc.trans (writeDev_writesOnly hacc.mem fun x hlo hhi => ⟨y, hy, ?_⟩)
      rw [devOf_congr hacc.prt] at hlo hhi
      simp only [List.length_take] at hhi
      omega

/-! ## Where the bytes of a piece lie -/

/-- The bytes of a piece lie in the device granule that its partition granule maps to. -/
theorem piece_in_granule {y : Nat × Nat} {g : Granule} (hy : y ∈ pieces a n)
    (hg : granAt s p (y.1 / granuleBytes) = some g) (hlo : devOf s p y.1 ≤ x) (hhi : x < devOf s p y.1 + y.2) :
    x / granuleBytes = g.dev := by
  obtain ⟨_, _, _, hend⟩ := pieces_mem hy
  simp only [devOf, hg] at hlo hhi
  simp only [granuleBytes] at *
  omega

/-- Where the rights refuse nothing, every piece is mapped (R88). -/
theorem granAt_of_not_refused {wr : Bool} {y : Nat × Nat} (hr : refusedAt s p a n wr = none) (hy : y ∈ pieces a n) :
    ∃ g, granAt s p (y.1 / granuleBytes) = some g := by
  simp only [refusedAt, Option.map_eq_none_iff, List.find?_eq_none] at hr
  have hm := hr y hy
  cases hg : granAt s p (y.1 / granuleBytes) with
  | none => simp [hg] at hm
  | some g => exact ⟨g, rfl⟩

/-- What a permitted access of a partition is stored in lies in granules the partition maps. -/
theorem storedIn_mapped {wr : Bool} (hr : refusedAt s p a n wr = none) (h : storedIn s p a n x) :
    ∃ i g, granAt s p i = some g ∧ x / granuleBytes = g.dev := by
  obtain ⟨y, hy, hlo, hhi⟩ := h
  obtain ⟨g, hg⟩ := granAt_of_not_refused hr hy
  exact ⟨_, g, hg, piece_in_granule hy hg hlo hhi⟩

/-! ## What a partition sees -/

/-- Byte tables that hold the same in a range have the same bytes there. -/
theorem getBytes_congr {t u : Tab Byte} {k : Nat} (ht : tabWf dByte t = true) (hu : tabWf dByte u = true)
    (h : ∀ x, k ≤ x → x < k + n → tabGet dByte t x = tabGet dByte u x) : getBytes t k n = getBytes u k n := by
  rw [getBytes_eq (fun _ => rfl) ht, getBytes_eq (fun _ => rfl) hu]
  refine List.map_congr_left fun j hj => h _ (Nat.le_add_right k j) ?_
  have := List.mem_range.mp hj
  omega

theorem tabWf_dram_of_memOk (h : memOk s = true) : tabWf dByte s.dram = true := by
  simp only [memOk, Bool.and_eq_true] at h
  exact h.1

/-- A partition none of whose granules is written sees at every address what it saw. -/
theorem WritesOnly.peek_eq (h : WritesOnly P s u) (hs : memOk s = true)
    (hq : ∀ x i g, granAt s q i = some g → x / granuleBytes = g.dev → ¬ P x) : peek u q b n = peek s q b n := by
  refine congrArg List.flatten (List.map_congr_left fun y hy => ?_)
  simp only [granAt_congr h.prt, devOf_congr h.prt]
  cases hg : granAt s q (y.1 / granuleBytes) with
  | none => rfl
  | some g =>
    exact getBytes_congr (tabWf_dram_of_memOk h.mem) (tabWf_dram_of_memOk hs) fun x hlo hhi =>
      h.dram x (hq x _ g hg (piece_in_granule hy hg hlo hhi))

/-- In a safe state a write of one partition leaves what every other one sees: both see granules of their own, and no
device granule is in two maps (R31, R88). -/
theorem peek_writePart_other (hs : Safe s) (hpq : p ≠ q) : peek (writePart p a bs who s).2 q b n = peek s q b n := by
  cases hr : refusedAt s p a bs.length true with
  | some x => rw [writePart_refused hr]
  | none =>
    refine (writePart_writesOnly hs.mem).peek_eq hs.mem fun x j h hh hx hst => ?_
    obtain ⟨i, g, hg, hgx⟩ := storedIn_mapped hr hst
    exact hpq (hs.isolated p q i j g h hg hh (hgx.symm.trans hx))

end

end Sys2Proof.Machine

/-! # Offsets that no table defines -/

namespace Sys2Proof.Machine

variable {acc : Agent} {off o rel : Nat} {b : Blk} {s : State}

theorem ite_eq_none_iff {α : Type} {c : Prop} [Decidable c] {x y : Option α} :
    (if c then x else y) = none ↔ (c → x = none) ∧ (¬c → y = none) := by
  split <;> simp only [*, true_implies, false_implies, not_true_eq_false, not_false_eq_true, and_true, true_and]

/-- The two reserved ranges of BAR0 are all that no block holds (R34). -/
theorem blkOf_eq_none_iff : blkOf off = none ↔ (0x300000 ≤ off ∧ off < 0x1000000) ∨ 0x2B00000 ≤ off := by
  simp only [blkOf, ite_eq_none_iff, reduceCtorEq, imp_false, implies_true, true_and, and_true]
  omega

/-- Every register of the tables has a field. -/
theorem regs_have_fields (b : Blk) : (b.regs.all fun r => !r.fields.isEmpty) = true := by
  cases b <;> rfl

/-- An offset that the block's table covers has fields. -/
theorem fieldsAt_ne_nil (hb : blkOf o = some b) (hc : (b.regs.any (·.covers (o - b.base))) = true) : fieldsAt o ≠ [] := by
  obtain ⟨r, hr⟩ := Option.isSome_iff_exists.mp (List.find?_isSome.mpr (List.any_eq_true.mp hc))
  have hf := List.all_eq_true.mp (regs_have_fields b) r (List.mem_of_find?_eq_some hr)
  simpa [fieldsAt, hb, hr] using hf

/-- The counters of a core stand in its register table. -/
theorem regsCore_covers_counters : ∀ i < 12, (regsCore.any (·.covers (0x100 + 8 * i))) = true := by decide

/-- A low half that latches stands in the block's register table. -/
theorem covered_of_wideAt {w : Nat} (h : wideAt s b rel = some w) : (b.regs.any (·.covers rel)) = true := by
  cases b with
  | core g =>
    simp only [wideAt, Option.ite_none_right_eq_some] at h
    obtain ⟨⟨hlo, hhi, h8⟩, _⟩ := h
    have hc := regsCore_covers_counters ((rel - 0x100) / 8) (by omega)
    rwa [show 0x100 + 8 * ((rel - 0x100) / 8) = rel by omega] at hc
  | ing k | fus k | saf k =>
    simp only [wideAt, Option.ite_none_right_eq_some] at h
    obtain ⟨rfl, _⟩ := h
    rfl
  | _ => cases h

/-- An offset that no table defines latches nothing. -/
theorem wideAt_undefined (hb : blkOf o = some b) (hf : fieldsAt o = []) : wideAt s b (o - b.base) = none :=
  Option.eq_none_iff_forall_ne_some.mpr fun _ h => fieldsAt_ne_nil hb (covered_of_wideAt h) hf

/-- An offset that no table defines holds zero (R34). -/
theorem regRead_undefined {h : Nat} (hf : fieldsAt o = []) : regRead s h o = 0 := by
  unfold regRead
  split <;> simp [hf]

/-- A read that reaches a block at an offset no table defines answers zero, in either event window too (R34). -/
theorem registerRead_undefined (ha : agentAbsent s acc = false) (ho : absOff acc off = some o) (hb : blkOf o = some b)
    (hf : fieldsAt o = []) (hr : reach s (answerHub s acc) b = .reached) :
    registerRead acc off s = answerRead acc off 0 s := by
  simp [registerRead, ha, ho, hb, hr, wideAt_undefined hb hf, regRead_undefined hf]

/-- A write to an offset that no table defines changes nothing (R34). -/
theorem writeAt_undefined {h val : Nat} (hf : fieldsAt o = []) : writeAt h o b val s = s := by
  simp [writeAt, hf]

/-- A write that reaches a block at an offset no table defines changes nothing (R34). -/
theorem registerWrite_undefined {val : Nat} (ha : agentAbsent s acc = false) (ho : absOff acc off = some o)
    (hb : blkOf o = some b) (hf : fieldsAt o = []) (hr : reach s (answerHub s acc) b = .reached) :
    registerWrite acc off val s = s := by
  simp [registerWrite, ha, ho, hb, hr, writeAt_undefined hf]

/-- A read of a reserved range answers zero (R34). -/
theorem registerRead_reserved (ha : agentAbsent s acc = false) (ho : absOff acc off = some o) (hb : blkOf o = none) :
    registerRead acc off s = answerRead acc off 0 s := by
  simp [registerRead, ha, ho, hb]

/-- A write of a reserved range changes nothing (R34). -/
theorem registerWrite_reserved {val : Nat} (ha : agentAbsent s acc = false) (ho : absOff acc off = some o)
    (hb : blkOf o = none) : registerWrite acc off val s = s := by
  simp [registerWrite, ha, ho, hb]

end Sys2Proof.Machine

/-! # The obligations of spec/01_package.md -/

section
open Sys2Proof Sys2Proof.Machine

/-- Settles O42: an idle step changes nothing, and any other runs the front command, which leaves a safe state safe. -/
theorem everyStepKeepsTheStateSafe : Obligations.EveryStepKeepsTheStateSafe :=
  fun _ _ ⟨h, hs⟩ => step_next_safe h hs

/-- Settles O47: what is written lies in granules of the writer, and a safe state maps none of them to another partition. -/
theorem partitionsCannotWriteEachOther : Obligations.PartitionsCannotWriteEachOther :=
  fun _ _ _ _ _ _ _ _ ⟨h, hpq⟩ => peek_writePart_other h hpq

/-- Settles O46, by the frame of a write and because a read is bookkeeping alone. -/
theorem writesStayInTheirRange : Obligations.WritesStayInTheirRange := by
  refine ⟨?bytes, ?rest, ?read⟩
  case bytes =>
    rintro p a x bs who s ⟨h, hx⟩
    exact (writePart_writesOnly h).dram x hx
  case rest =>
    intro p a bs who s h
    have hw := writePart_writesOnly (p := p) (a := a) (bs := bs) (who := who) h
    exact ⟨hw.hostMem, hw.prt, hw.cores⟩
  case read =>
    intro p a n who s
    have hq := readPart_quiet (x0 := p) (x1 := a) (x2 := n) (x3 := who) (Quiet.refl s)
    exact ⟨hq.dram, hq.hostMem, hq.prt⟩

/-- Settles O39, command by command in `exec_next_pending`. -/
theorem everyCommandAnswersANextState : Obligations.EveryCommandAnswersANextState := by
  intro c s
  obtain ⟨u, hu, _⟩ := exec_next_pending c s
  exact ⟨u, hu⟩

/-- Settles O52: a reserved offset reaches no block, and at one that no table defines a block holds no field to read, to
latch or to write. -/
theorem undefinedOffsetsReadZeroAndIgnoreWrites : Obligations.UndefinedOffsetsReadZeroAndIgnoreWrites := by
  refine ⟨fun _ => blkOf_eq_none_iff, ?reservedRead, ?reservedWrite, ?undefinedRead, ?undefinedWrite⟩
  case reservedRead =>
    rintro t off s ⟨h4, hoff, hb⟩
    exact congrArg Host.Outcome.next
      ((doLatchingLoRead_aligned h4).trans (registerRead_reserved rfl (if_pos hoff) hb))
  case reservedWrite =>
    rintro t off val s ⟨h4, hoff, hb⟩
    exact congrArg Host.Outcome.next
      ((doRegisterWrite_aligned h4).trans (registerWrite_reserved rfl (if_pos hoff) hb))
  case undefinedRead =>
    rintro t off o acc b s ⟨h4, ha, ho, hb, hf⟩ hr
    exact congrArg Host.Outcome.next ((doLatchingLoRead_aligned h4).trans (registerRead_undefined ha ho hb hf hr))
  case undefinedWrite =>
    rintro t off o acc val b s ⟨h4, ha, ho, hb, hf⟩ hr
    exact congrArg Host.Outcome.next ((doRegisterWrite_aligned h4).trans (registerWrite_undefined ha ho hb hf hr))

end

/-! # Host rings, links and resets: what their commands come to -/

namespace Sys2Proof.Machine

/-- A command that answers a state is PORST, or the answer is one that the part's own work leads to. -/
theorem keeps_or_porst {c : Instr} {s u : State} (he : exec c s = .next u) :
    Keeps s u ∨ ∃ t, c = .porst t ∧ u = doPorst t s := by
  by_cases hc : ∀ t, c ≠ .porst t
  · obtain ⟨v, hv, hk⟩ := exec_next_keeps c s hc
    obtain rfl : v = u := by simpa [hv] using he
    exact .inl hk
  · obtain ⟨t, rfl⟩ : ∃ t, c = .porst t := by simpa using hc
    exact .inr ⟨t, rfl, (Host.Outcome.next.inj he).symm⟩

section
variable {t fn ring val : Nat} {s : State}

/-! ## Doorbells -/

/-- A doorbell to a ring that is not ACTIVE is discarded and flagged, whatever its value (R49). -/
theorem doorbell_notActive {take : State → State} (hp : fnPresent s fn = true) (hr : (getRing s fn ring).st ≠ .active) :
    doorbell fn ring val take s =
      eventFor fn (fnHub s fn) 0x0202 [.id1 fn, .id1 ring, .val4 val] (fnErr fn 1 ring (dropBell fn s)) := by
  simp only [doorbell, hp, Bool.not_true, Bool.false_eq_true, if_false, if_pos hr]

/-- A doorbell beyond its ACTIVE ring is discarded and flagged (R49). -/
theorem doorbell_beyond {take : State → State} (hp : fnPresent s fn = true) (hr : (getRing s fn ring).st = .active)
    (hv : ringSize s fn ring ≤ val) :
    doorbell fn ring val take s =
      eventFor fn (fnHub s fn) 0x0201 [.id1 fn, .id1 ring, .val4 val] (fnErr fn 0 ring (dropBell fn s)) := by
  simp only [doorbell, hp, Bool.not_true, Bool.false_eq_true, if_false, hr, ne_eq, not_true_eq_false, if_pos hv]

/-- A doorbell within its ACTIVE ring is taken (R49). -/
theorem doorbell_taken {take : State → State} (hp : fnPresent s fn = true) (hr : (getRing s fn ring).st = .active)
    (hv : val < ringSize s fn ring) : doorbell fn ring val take s = take s := by
  simp only [doorbell, hp, Bool.not_true, Bool.false_eq_true, if_false, hr, ne_eq, not_true_eq_false,
    if_neg (Nat.not_le.mpr hv)]

theorem doSqDoorbell_ring (hfn : fn ≤ 32) (hr : ring < 4) (hh : hasRing fn ring = true) :
    doSqDoorbell t fn ring val s =
      doorbell fn ring val (modRing fn ring fun x => { x with bell := val }) (advance t s) := by
  simp only [doSqDoorbell, hfn, hr, hh, decide_true, Bool.and_self, if_true]

theorem doCqDoorbell_ring (hfn : fn ≤ 32) (hr : 4 ≤ ring) (hh : hasRing fn ring = true) :
    doCqDoorbell t fn ring val s = doorbell fn ring val (releaseTo fn ring val) (advance t s) := by
  simp only [doCqDoorbell, hfn, hr, hh, decide_true, Bool.and_self, if_true]

/-- A head doorbell of a ring with nothing held only releases slots (R53). -/
theorem releaseTo_noneHeld (hh : (getRing s fn ring).held = []) :
    releaseTo fn ring val s = modRing fn ring (fun y =>
      { y with bell := val,
               fill := y.fill - (val + ringSize s fn ring - (getRing s fn ring).bell) % ringSize s fn ring }) s := by
  simp only [releaseTo, hh, List.length_nil, drainHeld]

/-! ## Enabling, draining and errors of rings -/

/-- Enabling is for a ring in OFF of a present function (R48). -/
theorem doRingEnable_off (hfn : fn ≤ 32) (hh : hasRing fn ring = true) (hp : fnPresent (advance t s) fn = true)
    (hr : (getRing (advance t s) fn ring).st = .off) : doRingEnable t fn ring s = enableRing fn ring (advance t s) := by
  simp only [doRingEnable, hfn, hh, hp, hr, decide_true, Bool.and_self, if_true]

section
variable {u : State} (hu : u = fldSet (winReg fn (0x108 + 0x20 * ring)) 16 1 1 s) (hb : ringBase u fn ring % 4096 = 0)
  (hmin : 6 ≤ fld s (winReg fn (0x108 + 0x20 * ring)) 0 5) (hmax : fld s (winReg fn (0x108 + 0x20 * ring)) 0 5 ≤ 16)
include hu hb hmin hmax

/-- A well-formed completion ring becomes ACTIVE, with the version of its submission ring (R48, R71). -/
theorem enableRing_completion (hr : 4 ≤ ring) :
    enableRing fn ring s =
      modRing fn ring (fun _ => { st := .active, verEff := (getRing u fn (ring - 4)).verEff }) u := by
  subst hu
  simp only [enableRing, hb, Nat.not_lt.mpr hmin, Nat.not_lt.mpr hmax, Nat.not_lt.mpr hr, ne_eq, not_true_eq_false,
    false_and, or_self, if_false]

/-- A well-formed submission ring whose completion ring is ACTIVE becomes ACTIVE; both take its version (R48, R71). -/
theorem enableRing_submission (hr : ring < 4) (hc : (getRing u fn (ring + 4)).st = .active)
    (hver : verOk (fld s (winReg fn (0x108 + 0x20 * ring)) 8 4) = true) :
    enableRing fn ring s =
      modRing fn ring (fun _ => { st := .active, verEff := fld s (winReg fn (0x108 + 0x20 * ring)) 8 4 })
        (modRing fn (ring + 4) (fun x => { x with verEff := fld s (winReg fn (0x108 + 0x20 * ring)) 8 4 }) u) := by
  subst hu
  simp only [enableRing, hb, Nat.not_lt.mpr hmin, Nat.not_lt.mpr hmax, hr, hc, hver, ne_eq, not_true_eq_false,
    and_false, or_self, if_false, if_true]

end

/-- Writing enable = 0 to an ACTIVE submission ring makes it DRAINING (R525). -/
theorem doRingDisable_active (hfn : fn ≤ 32) (hr : ring < 4) (hh : hasRing fn ring = true)
    (hp : fnPresent (advance t s) fn = true) (ha : (getRing (advance t s) fn ring).st = .active) :
    doRingDisable t fn ring s = modRing fn ring (fun x => { x with st := .draining })
      (fldSet (winReg fn (0x108 + 0x20 * ring)) 16 1 0 (advance t s)) := by
  simp only [doRingDisable, hfn, hh, hp, decide_true, Bool.and_self, if_true, disableRing, if_pos hr, ha]

/-- A DRAINING ring with nothing left to complete becomes OFF (R525). -/
theorem doRingDrainDone_drained (hr : ring < 4) (hst : (getRing (advance t s) fn ring).st = .draining)
    (hd : ringDrained (advance t s) fn ring = true) :
    doRingDrainDone t fn ring s = modRing fn ring (fun x => { x with st := .off }) (advance t s) := by
  simp only [doRingDrainDone, hr, hst, hd, decide_true, Bool.and_self, if_true]

/-- A fetch error of an ACTIVE ring: the error bit, ERROR with err FETCH, event 0x0204, and AER (R81). -/
theorem doRingFetchError_active {addr : Nat} (hr : ring < 4) (ha : (getRing (advance t s) fn ring).st = .active) :
    doRingFetchError t fn ring addr s =
      let u := ringError fn ring .fetch (fnErr fn 2 ring (advance t s))
      let v := eventFor fn (fnHub u fn) 0x0204 [.id1 fn, .id1 ring, .loc8 addr] u
      send (.aer (fnLink v fn)) v := by
  simp only [doRingFetchError, hr, ha, decide_true, Bool.and_self, if_true]

/-- A completion counted on a ring whose time threshold has passed raises the ring's vector (R74). -/
theorem doCoalesceTimeout_due (h4 : 4 ≤ ring) (h8 : ring < 8) (hc : 0 < (getRing (advance t s) fn ring).count)
    (ht : (getRing (advance t s) fn ring).oldest + (irqThr (advance t s) fn ring).2 * 4000 ≤ (advance t s).clk) :
    doCoalesceTimeout t fn ring s = signalRing fn ring (advance t s) := by
  simp only [doCoalesceTimeout, h4, h8, hc, ht, decide_true, Bool.and_self, if_true]

/-- Unmasking a vector that is not pending sends nothing (R74). -/
theorem doMsixUnmask_notPending {vec : Nat} (hfn : fn ≤ 32) (hv : vec < vectors fn)
    (hp : (getFn (advance t s) fn).pendingBits.elem vec = false) :
    doMsixUnmask t fn vec s = modFn fn (fun f =>
      { f with unmasked := if f.unmasked.elem vec then f.unmasked else f.unmasked ++ [vec],
               pendingBits := f.pendingBits.filter (· ≠ vec) }) (advance t s) := by
  simp only [doMsixUnmask, hfn, hv, hp, decide_true, Bool.and_self, if_true, Bool.false_eq_true, if_false]

end

section
variable {t link : Nat} {s : State}

/-! ## PCIe links -/

/-- A link that was up goes down, and its functions and event 0x0205 tell of it (R80). -/
theorem doPcieLinkDown_up (hl : link < 4) (hup : (getPLink (advance t s) link).up = true) :
    doPcieLinkDown t link s =
      let u := modPLink link (fun l =>
        { l with up := false, speed := 0, width := 0, flit := false, l0p := false, ide := false }) (advance t s)
      event (linkHub link) 0x0205 [.id1 link] ((fnsOn u link).foldl (fun s fn => fnErr fn 5 0 s) u) := by
  simp only [doPcieLinkDown, hl, hup, decide_true, Bool.and_self, if_true]

/-- A link that was down, of a hub and a port out of reset, comes up and its functions lose their rings (R80). -/
theorem doPcieLinkReturn_down {speed width : Nat} {flit : Bool} (hl : link < 4)
    (he : linkExists (advance t s) link = true) (hup : (getPLink (advance t s) link).up = false)
    (hh : (getHub (advance t s) (linkHub link)).inReset = false)
    (hp : tabGet dBool (advance t s).pwr.perst (linkHub link) = false) :
    doPcieLinkReturn t link speed width flit s =
      let u := modPLink link (fun l =>
        { l with up := true, speed := speed % 8, width := width % 16, flit }) (advance t s)
      (fnsOn u link).foldl (fun s fn => ringsLost fn s) u := by
  simp only [doPcieLinkReturn, hl, he, hup, hh, hp, decide_true, Bool.not_false, Bool.and_self, if_true]

/-! ## Resets and VF Enable -/

theorem doVfFlr_vf {p : Nat} (hp : 1 ≤ p ∧ p ≤ 32) :
    doVfFlr t p s =
      settle (eventFor p (fnHub (advance t s) p) 0x0206 [.id1 p] (vfReset p (advance t s))) := by
  simp only [doVfFlr, if_pos hp]

/-- R79 on the management PF's link: the admin rings go off too. -/
theorem pfReset_management (hm : s.fuse.mpfLink = link) :
    pfReset link s = clearVfs link (ringsOff 0 (abandon 0 s)) := by
  simp only [pfReset, if_pos hm]

/-- A PF_FLR of the management PF's link: a reset leaves the fuse that names the link, so event 0x0206 is function 0's
(R79). -/
theorem doPfFlr_management (he : linkExists (advance t s) link = true) (hm : (advance t s).fuse.mpfLink = link) :
    doPfFlr t link s =
      settle (event (linkHub link) 0x0206 [.id1 0] (clearCounts 0 (pfReset link (advance t s)))) := by
  have hfuse : (pfReset link (advance t s)).fuse.mpfLink = link := by
    rw [(pfReset_keeps (Keeps.refl (advance t s))).fuse, hm]
  simp only [doPfFlr, if_pos he, if_pos hfuse]

/-- VF Enable is set with NumVFs (R44). -/
theorem doVfEnableWrite_set {num : Nat} (he : linkExists (advance t s) link = true) :
    doVfEnableWrite t link true num s = modPLink link (fun l => { l with vfEnable := true })
      (modPLink link (fun l => { l with numVfs := num }) (advance t s)) := by
  simp only [doVfEnableWrite, if_pos he, if_true]

/-- Clearing a VF Enable that is set resets every VF of the link (R79). -/
theorem doVfEnableWrite_clear {num : Nat} (he : linkExists (advance t s) link = true)
    (hv : (getPLink (modPLink link (fun l => { l with numVfs := num }) (advance t s)) link).vfEnable = true) :
    doVfEnableWrite t link false num s =
      settle (clearVfs link (modPLink link (fun l => { l with numVfs := num }) (advance t s))) := by
  simp only [doVfEnableWrite, if_pos he, Bool.false_eq_true, if_false, if_pos hv]

end

end Sys2Proof.Machine

/-! # Descriptors: the effect of each that starts and passes its checks -/

namespace Sys2Proof.Machine

variable {t id k : Nat} {d : Desc} {data : List Byte} {s u v : State}

/-! ## Data -/

/-- A write that meets no error, as one equation. -/
theorem write_ok {r : Option MemErr × State} (h : r.1 = none) : r = (none, r.2) := Prod.ext h rfl

/-- A COPY from host memory stores the bytes and answers the count (R523). -/
theorem copyBody_fromHost {src : List Byte} (hfrom : bit (d.u 32 1) 0 = true) (hto : bit (d.u 32 1) 1 = false)
    (hpol : copyPolicy s d = none) (hrights : copyRights s d = none)
    (hw : writePart d.part (d.u 16 8) (fit (d.u 24 8) src) (.hub 2) s = (none, v)) :
    copyBody src d s = finish d.id 0 0 (min (d.u 24 8) 0xFFFFFFFF) 0 v := by
  simp only [copyBody, hpol, hrights, hfrom, hto, if_true, Bool.false_eq_true, if_false, hw]

/-- A COPY to host memory from outside any sealed region writes what was read (R523). -/
theorem copyBody_toHost {src : List Byte} (hfrom : bit (d.u 32 1) 0 = false) (hto : bit (d.u 32 1) 1 = true)
    (hpol : copyPolicy s d = none) (hrights : copyRights s d = none)
    (hread : readPart d.part (d.u 8 8) (d.u 24 8) (.hub 2) s = (.ok data, v)) (hsealed : regionsOf v d.part [4] = [])
    (hup : (getPLink v (fnLink v d.fn)).up = true) :
    copyBody src d s = finish d.id 0 0 (min (d.u 24 8) 0xFFFFFFFF) 0 (hostWrite (d.u 16 8) data v) := by
  simp only [copyBody, hpol, hrights, hfrom, hto, Bool.false_eq_true, if_false, hread, if_true, hsealed, List.find?_nil,
    if_pos hup]

/-- A FILL that no policy and no right stops stores its pattern over the range (R523). -/
theorem doFill_starts (hs : Starts (advance t s) id 0x03 d) (hc : fillCheck (advance t s) d = none)
    (hu : u = startDesc id (advance t s)) (hpol : policyStop u d.part (d.u 8 8) (d.u 16 8) = none)
    (hrights : refusedAt u d.part (d.u 8 8) (d.u 16 8) true = none)
    (hw : writePart d.part (d.u 8 8) (repeatBytes (toBytes 8 (d.u 24 8)) (d.u 16 8 / 8)) (.hub 2) u = (none, v)) :
    doFill t id s = settle (finish d.id 0 0 (min (d.u 16 8) 0xFFFFFFFF) 0 v) := by
  subst hu
  rw [doFill, runDesc_starts hs hc]
  simp only [hpol, Option.isSome_none, Bool.false_eq_true, if_false, hrights, hw]

/-- A DIGEST in a partition that is not confidential writes the digest of what was read (R444, R522). -/
theorem doDigest_starts (hs : Starts (advance t s) id 0x0B d) (hc : digestCheck (advance t s) d = none)
    (hu : u = startDesc id (advance t s)) (hconf : (getPart u d.part).confidential = false)
    (hread : readPart d.part (d.u 8 8) (d.u 16 8) (.hub 2) u = (.ok data, v))
    (hup : (getPLink v (fnLink v d.fn)).up = true) :
    doDigest t id s = settle (finish d.id 0 0 32 0 (hostWrite (d.u 24 8) (sha3 data) v)) := by
  subst hu
  rw [doDigest, runDesc_starts hs hc]
  simp only [hconf, Bool.false_and, Bool.false_eq_true, if_false, hread, if_pos hup]

/-- A QUERY writes the first min(out_len, 64) bytes of its answer to host memory (R82). -/
theorem queryBody_up (ha : queryAnswer d s = (data, v)) (hup : (getPLink v (fnLink v d.fn)).up = true) :
    queryBody d s = finish d.id 0 0 (min (d.u 24 4) 64) 0 (hostWrite (d.u 16 8) (data.take (min (d.u 24 4) 64)) v) := by
  simp only [queryBody, ha, if_pos hup]

/-! ## Contexts -/

/-- A LAUNCH makes its context READY (R91). -/
theorem doLaunch_starts (hi : slotIdle s id = true) (hs : Starts (advance t s) id 0x01 d) (hk : d.ctx? = some k)
    (hc : (launchCheck (advance t s) d).or (confidentialRun (advance t s) d.part (d.u 8 8)) = none) :
    doLaunch t id s = settle (makeReady d.part k d.launch (startDesc id (advance t s))) := by
  rw [doLaunch, if_pos hi, runDesc_starts hs hc, hk]

theorem confidentialRun_of_not_confidential {p prog : Nat} (h : (getPart s p).confidential = false) :
    confidentialRun s p prog = none := by
  simp only [confidentialRun, h, Bool.not_false, if_true]

/-- A REPLAY in a partition that is not confidential makes its context READY (R462, R463). -/
theorem doReplay_starts (hi : slotIdle s id = true) (hs : Starts (advance t s) id 0x0E d) (hk : d.ctx? = some k)
    (hc : replayCheck (advance t s) d = none) (hconf : (getPart (advance t s) d.part).confidential = false) :
    doReplay t id s = settle (makeReady d.part k
      { desc := some d.id, tag := d.tag, opcode := 0x0E, flags := d.flags, digestAddr := d.u 24 8,
        replay := some { addr := d.u 8 8,
                         entries := leAt (peek (startDesc id (advance t s)) d.part (d.u 8 8) 512) 16 4 } }
      (startDesc id (advance t s))) := by
  have hpass (prog : Nat) : (replayCheck (advance t s) d).or (confidentialRun (advance t s) d.part prog) = none := by
    rw [hc, confidentialRun_of_not_confidential hconf, Option.or_none]
  rw [doReplay, if_pos hi, runDesc_starts hs (hpass _), hk]

/-- A PREEMPT of an idle context holds it and completes (R64). -/
theorem preemptBody_idle (hk : d.ctx? = some k) (hst : (getCtx s d.part k).st = .idle) :
    preemptBody d s = finishOk d.id (wake d.part (hold d.part k s)) := by
  simp only [preemptBody, hk, hst]

/-- A RESUME of a held context gives it back the state before the hold (R64). -/
theorem resumeBody_held (hk : d.ctx? = some k) (hst : (getCtx s d.part k).st = .held) :
    resumeBody d s = finishOk d.id (wake d.part (changed (modCtx d.part k (fun c =>
      { c with st := c.before, hold := false, readyTime := s.clk }) s))) := by
  simp only [resumeBody, hk, if_pos hst]

/-- A RESUME of a context that is not held only completes (R64). -/
theorem resumeBody_notHeld (hk : d.ctx? = some k) (hst : (getCtx s d.part k).st ≠ .held) :
    resumeBody d s = finishOk d.id s := by
  simp only [resumeBody, hk, if_neg hst]

/-- A RECORD stop of an active recording ends it (R461). -/
theorem doRecordStop_starts (hm : recordMode s id 1 = true) (hs : Starts (advance t s) id 0x0D d) (hk : d.ctx? = some k)
    (hr : (getCtx (advance t s) d.part k).recording ≠ none) :
    doRecordStop t id s = settle (finishOk d.id (recStop d.part k 2 (startDesc id (advance t s)))) := by
  have hc : recordStopCheck (advance t s) d = none := by
    have hr' := Option.isNone_eq_false_iff.mpr (Option.isSome_iff_ne_none.mpr hr)
    simp only [recordStopCheck, hk, hr', Bool.false_eq_true, if_false]
  rw [doRecordStop, if_pos hm, runDesc_starts hs hc, hk]

end Sys2Proof.Machine

/-! # The obligations of spec/02_host_rings.md -/

section
open Sys2Proof Sys2Proof.Machine

/-- Settles O43: PORST leaves all four as they are, and what any other command answers `Keeps` them. -/
theorem commandsKeepTheQueueTheFusesAndWhatWasSent : Obligations.CommandsKeepTheQueueTheFusesAndWhatWasSent := by
  intro c s u he
  obtain hk | ⟨t, rfl, rfl⟩ := keeps_or_porst he
  · exact ⟨hk.pending, hk.fuse, hk.outbox, hk.frees⟩
  · obtain ⟨hpending, hfuse, hfrees, houtbox, _⟩ := doPorst_keeps (t := t) (s := s)
    exact ⟨hpending, hfuse, houtbox ▸ List.prefix_refl _, Nat.le_of_eq hfrees.symm⟩

/-- Settles O2. A PF_FLR is the management PF's because a reset keeps the fuses. -/
theorem functionsAndPortsReset : Obligations.FunctionsAndPortsReset := by
  refine ⟨?vf, ?pf, fun _ _ _ => rfl, fun _ _ _ => rfl, ?set, ?clear⟩
  case vf =>
    intro t p s hp
    exact congrArg Host.Outcome.next (doVfFlr_vf hp)
  case pf =>
    rintro t link s ⟨he, hm⟩
    rw [← pfReset_management hm]
    exact congrArg Host.Outcome.next (doPfFlr_management he hm)
  case set =>
    intro t link num s he
    exact congrArg Host.Outcome.next (doVfEnableWrite_set he)
  case clear =>
    intro t link num s he hv
    exact congrArg Host.Outcome.next (doVfEnableWrite_clear he hv)

/-- Settles O4: each descriptor is its body (`runDesc_starts`), and the body on its good path. -/
theorem descriptorsMoveData : Obligations.DescriptorsMoveData := by
  refine ⟨?nop, ?fromHost, ?toHost, ?fill, ?digest, ?query⟩
  case nop =>
    intro t id d s hs
    exact congrArg Host.Outcome.next (runDesc_starts hs rfl)
  case fromHost =>
    rintro t id src d s ⟨hs, hc, hfrom, hto⟩ ⟨hpol, hrights⟩ hw
    exact congrArg Host.Outcome.next
      ((runDesc_starts hs hc).trans (congrArg settle (copyBody_fromHost hfrom hto hpol hrights (write_ok hw))))
  case toHost =>
    rintro t id src data d v s ⟨hs, hc, hfrom, hto⟩ ⟨hpol, hrights⟩ ⟨hv, hread⟩ ⟨hsealed, hup⟩
    exact congrArg Host.Outcome.next ((runDesc_starts hs hc).trans
      (congrArg settle (copyBody_toHost hfrom hto hpol hrights (read_ok hread hv) hsealed hup)))
  case fill =>
    rintro t id d s ⟨hs, hc⟩ ⟨hpol, hrights⟩ hw
    exact congrArg Host.Outcome.next (doFill_starts hs hc rfl hpol hrights (write_ok hw))
  case digest =>
    rintro t id data d v s ⟨hs, hc, hconf⟩ ⟨hv, hread⟩ hup
    exact congrArg Host.Outcome.next (doDigest_starts hs hc rfl hconf (read_ok hread hv) hup)
  case query =>
    rintro t id data d v s ⟨hs, hc⟩ ⟨ha, hup⟩
    exact congrArg Host.Outcome.next ((runDesc_starts hs hc).trans (congrArg settle (queryBody_up ha hup)))

/-- Settles O5: each descriptor is its body (`runDesc_starts`), which the context's state decides. -/
theorem contextsLaunchAndHold : Obligations.ContextsLaunchAndHold := by
  refine ⟨?launch, ?replay, ?preempt, ?resumeHeld, ?resumeOther, ?recordStart, ?recordStop⟩
  case launch =>
    rintro t id k d s ⟨hi, hs, hk⟩ hc
    exact congrArg Host.Outcome.next (doLaunch_starts hi hs hk hc)
  case replay =>
    rintro t id k d s ⟨hi, hs, hk⟩ ⟨hc, hconf⟩
    exact congrArg Host.Outcome.next (doReplay_starts hi hs hk hc hconf)
  case preempt =>
    rintro t id k d s ⟨hs, hk, hst⟩
    exact congrArg Host.Outcome.next ((runDesc_starts hs rfl).trans (congrArg settle (preemptBody_idle hk hst)))
  case resumeHeld =>
    rintro t id k d s ⟨hs, hk, hst⟩
    exact congrArg Host.Outcome.next ((runDesc_starts hs rfl).trans (congrArg settle (resumeBody_held hk hst)))
  case resumeOther =>
    rintro t id k d s ⟨hs, hk, hst⟩
    exact congrArg Host.Outcome.next ((runDesc_starts hs rfl).trans (congrArg settle (resumeBody_notHeld hk hst)))
  case recordStart =>
    rintro t id d s ⟨hm, hs, hc⟩
    exact congrArg Host.Outcome.next ((if_pos hm).trans (runDesc_starts hs hc))
  case recordStop =>
    rintro t id k d s ⟨hm, hs, hk, hr⟩
    exact congrArg Host.Outcome.next (doRecordStop_starts hm hs hk hr)

/-- Settles O7: a doorbell within its ring is taken, and a well-formed ring in OFF is enabled. -/
theorem hostRingsTakeBellsAndEnable : Obligations.HostRingsTakeBellsAndEnable := by
  refine ⟨?submission, ?completion, ?enableCompletion, ?enableSubmission⟩
  case submission =>
    rintro t fn ring val s ⟨hfn, hr, hh⟩ hp ha hv
    exact congrArg Host.Outcome.next ((doSqDoorbell_ring hfn hr hh).trans (doorbell_taken hp ha hv))
  case completion =>
    rintro t fn ring val s ⟨hfn, hr, hh⟩ hp ha hv hheld
    exact congrArg Host.Outcome.next
      ((doCqDoorbell_ring hfn hr hh).trans ((doorbell_taken hp ha hv).trans (releaseTo_noneHeld hheld)))
  case enableCompletion =>
    rintro t fn ring s u ⟨hfn, hr, hh⟩ hp hoff hu ⟨hb, hmin, hmax⟩
    exact congrArg Host.Outcome.next
      ((doRingEnable_off hfn hh hp hoff).trans (enableRing_completion hu hb hmin hmax hr))
  case enableSubmission =>
    rintro t fn ring s u ⟨hfn, hr, hh⟩ hp ⟨hoff, hc⟩ hu ⟨hb, hmin, hmax⟩ hver
    exact congrArg Host.Outcome.next
      ((doRingEnable_off hfn hh hp hoff).trans (enableRing_submission hu hb hmin hmax hr hc hver))

/-- Settles O8, clause by clause from what each command of a ring or a vector comes to. -/
theorem hostRingsDrainAndFail : Obligations.HostRingsDrainAndFail := by
  refine ⟨?disable, ?drained, ?fetchError, ?coalesce, ?unmask⟩
  case disable =>
    rintro t fn ring s ⟨hfn, hr, hh⟩ hp ha
    exact congrArg Host.Outcome.next (doRingDisable_active hfn hr hh hp ha)
  case drained =>
    rintro t fn ring s hr ⟨hst, hd⟩
    exact congrArg Host.Outcome.next (doRingDrainDone_drained hr hst hd)
  case fetchError =>
    rintro t fn ring addr s ⟨hr, ha⟩
    exact ⟨_, rfl, congrArg Host.Outcome.next (doRingFetchError_active hr ha)⟩
  case coalesce =>
    rintro t fn ring s ⟨h4, h8, hc⟩ ht
    exact congrArg Host.Outcome.next (doCoalesceTimeout_due h4 h8 hc ht)
  case unmask =>
    rintro t fn vec s ⟨hfn, hv⟩ ⟨hp, _⟩
    exact congrArg Host.Outcome.next (doMsixUnmask_notPending hfn hv hp)

/-- Settles O9, by what a link's loss and its return come to; an unsupported request is its own definition. -/
theorem pcieLinksComeAndGo : Obligations.PcieLinksComeAndGo := by
  refine ⟨?down, ?returns, fun _ _ _ _ => rfl⟩
  case down =>
    rintro t link s ⟨hl, hup⟩
    exact ⟨_, rfl, congrArg Host.Outcome.next (doPcieLinkDown_up hl hup)⟩
  case returns =>
    rintro t link speed width flit s ⟨hl, he, hup⟩ ⟨hh, hp⟩
    exact ⟨_, rfl, congrArg Host.Outcome.next (doPcieLinkReturn_down hl he hup hh hp)⟩

/-- Settles O51: both kinds of doorbell are one check, of the ring's state first and then of the value. -/
theorem doorbellsAreCheckedBeforeTheyAreTaken : Obligations.DoorbellsAreCheckedBeforeTheyAreTaken := by
  refine ⟨?sqOff, ?cqOff, ?sqBeyond, ?cqBeyond, ?sqTaken, ?cqTaken, fun _ _ _ => rfl⟩
  case sqOff =>
    rintro t fn ring val s ⟨hfn, hr, hh, hp, ha⟩
    exact congrArg Host.Outcome.next ((doSqDoorbell_ring hfn hr hh).trans (doorbell_notActive hp ha))
  case cqOff =>
    rintro t fn ring val s ⟨hfn, hr, hh, hp, ha⟩
    exact congrArg Host.Outcome.next ((doCqDoorbell_ring hfn hr hh).trans (doorbell_notActive hp ha))
  case sqBeyond =>
    rintro t fn ring val s ⟨hfn, hr, hh, hp, ha⟩ hv
    exact congrArg Host.Outcome.next ((doSqDoorbell_ring hfn hr hh).trans (doorbell_beyond hp ha hv))
  case cqBeyond =>
    rintro t fn ring val s ⟨hfn, hr, hh, hp, ha⟩ hv
    exact congrArg Host.Outcome.next ((doCqDoorbell_ring hfn hr hh).trans (doorbell_beyond hp ha hv))
  case sqTaken =>
    rintro t fn ring val s ⟨hfn, hr, hh, hp, ha⟩ hv
    exact congrArg Host.Outcome.next ((doSqDoorbell_ring hfn hr hh).trans (doorbell_taken hp ha hv))
  case cqTaken =>
    rintro t fn ring val s ⟨hfn, hr, hh, hp, ha⟩ hv
    exact congrArg Host.Outcome.next ((doCqDoorbell_ring hfn hr hh).trans (doorbell_taken hp ha hv))

end

/-! # What a write of partition memory leaves there to be read -/

namespace Sys2Proof.Machine

/-- What is written in a set of bytes is written in a larger one. -/
theorem WritesOnly.mono {P Q : Nat → Prop} {s u : State} (h : WritesOnly P s u) (hPQ : ∀ x, P x → Q x) :
    WritesOnly Q s u :=
  ⟨h.prt, h.hostMem, h.cores, h.mem, fun x hx => h.dram x fun hp => hx (hPQ x hp)⟩

/-! ## A range and its pieces -/

/-- The bytes of a write at `a` that fall into piece `y`. -/
def pieceBytes (a : Nat) (bs : List Byte) (y : Nat × Nat) : List Byte := (bs.drop (y.1 - a)).take y.2

/-- Byte `x` of DRAM lies where piece `y` of partition `p` is stored. -/
def inPiece (s : State) (p : Nat) (y : Nat × Nat) (x : Nat) : Prop := devOf s p y.1 ≤ x ∧ x < devOf s p y.1 + y.2

section
variable {s t u : State} {p a n x : Nat} {bs : List Byte} {who : Requester} {y z : Nat × Nat}
  {l : List (Nat × Nat)}

theorem pieceBytes_length (hy : y ∈ pieces a bs.length) : (pieceBytes a bs y).length = y.2 := by
  obtain ⟨hlo, hhi, _, _⟩ := pieces_mem hy
  simp only [pieceBytes, List.length_take, List.length_drop]
  omega

/-- The pieces of a range lie in different granules. -/
theorem pieces_granules_ne (a n : Nat) :
    (pieces a n).Pairwise fun y z => y.1 / granuleBytes ≠ z.1 / granuleBytes := by
  unfold pieces
  split
  · exact List.Pairwise.nil
  · refine List.pairwise_map.mpr (List.pairwise_lt_range.imp_of_mem fun {i j} hi hj hij => ?_)
    have hi := List.mem_range.mp hi
    have hj := List.mem_range.mp hj
    simp only [granuleBytes] at *
    omega

/-- The bytes that fall into the first `k` granules of a range are its first bytes, in order. -/
theorem pieceBytes_flatMap_range (a : Nat) (bs : List Byte) (k : Nat) :
    ((List.range k).flatMap fun i =>
        let lo := max a (granuleBytes * (a / granuleBytes + i))
        pieceBytes a bs (lo, min (a + bs.length) (granuleBytes * (a / granuleBytes + i + 1)) - lo)) =
      bs.take (granuleBytes * (a / granuleBytes + k) - a) := by
  induction k with
  | zero => simp [granuleBytes]; omega
  | succ k ih =>
    have hk : granuleBytes * (a / granuleBytes + (k + 1)) - a =
        (granuleBytes * (a / granuleBytes + k) - a) +
          (granuleBytes * (a / granuleBytes + (k + 1)) - max a (granuleBytes * (a / granuleBytes + k))) := by
      simp only [granuleBytes]; omega
    rw [List.range_succ, List.flatMap_append, ih, hk, List.take_add, List.flatMap_singleton]
    refine congrArg (List.take _ bs ++ ·) ?_
    simp only [pieceBytes]
    rw [show max a (granuleBytes * (a / granuleBytes + k)) - a = granuleBytes * (a / granuleBytes + k) - a by omega,
      List.take_eq_take_iff, List.length_drop, Nat.add_assoc _ k 1]
    omega

/-- The bytes of the pieces of a range, one after the other, are the bytes of the range. -/
theorem pieces_flatMap_pieceBytes (a : Nat) (bs : List Byte) :
    (pieces a bs.length).flatMap (pieceBytes a bs) = bs := by
  unfold pieces
  split
  · next h => rw [List.eq_nil_of_length_eq_zero h]; rfl
  · rw [List.flatMap_map, pieceBytes_flatMap_range]
    refine List.take_of_length_le ?_
    simp only [granuleBytes]
    omega

/-! ## Writing piece by piece -/

/-- A device write that meets no error leaves its bytes there (R342). -/
theorem writeDev_reads {dev : Nat} (h : memOk s = true) (hw : (writeDev dev bs who s).1 = none) :
    getBytes (writeDev dev bs who s).2.dram dev bs.length = bs := by
  revert hw
  unfold writeDev
  extract_lets -merge n firstPart lastPart lead tail
  split
  · next hn =>
    intro _
    rw [List.eq_nil_of_length_eq_zero hn]; rfl
  split
  · intro hw; cases hw
  split
  next e1 s1 he1 =>
  have q1 : Quiet s s1 := Quiet.ofEq (Quiet.ite2 (fun _ => checkLines_quiet (.refl s)) fun _ => .pair (.refl s)) he1
  split
  next e2 s2 he2 =>
  have q2 : Quiet s s2 := Quiet.ofEq (Quiet.ite2 (fun _ => checkLines_quiet q1) fun _ => .pair q1) he2
  intro hw
  obtain ⟨rfl, rfl⟩ := Option.or_eq_none_iff.mp hw
  simp only [(healLines_quiet (Quiet.refl _)).dram, q2.dram, Option.isSome_none, Bool.false_eq_true, if_false]
  rw [List.take_length, List.drop_zero, Nat.add_zero]
  exact getBytes_putBytes (fun _ => rfl) (tabWf_dram_of_memOk h) dev bs

/-- One piece of a write of partition memory, after those before it. -/
def storePiece (p a : Nat) (bs : List Byte) (who : Requester) (acc : Option MemErr × State) (y : Nat × Nat) :
    Option MemErr × State :=
  let (e, s) := writeDev (devOf acc.2 p y.1) (pieceBytes a bs y) who acc.2
  (acc.1.or e, s)

theorem storePiece_eq_none_iff {acc : Option MemErr × State} :
    (storePiece p a bs who acc y).1 = none ↔
      acc.1 = none ∧ (writeDev (devOf acc.2 p y.1) (pieceBytes a bs y) who acc.2).1 = none := Option.or_eq_none_iff

/-- A piece that meets no error can be read where it was stored. -/
theorem storePiece_reads {acc : Option MemErr × State} (h : memOk acc.2 = true) (hprt : acc.2.prt = s.prt)
    (hy : y ∈ pieces a bs.length) (hnone : (storePiece p a bs who acc y).1 = none) :
    getBytes (storePiece p a bs who acc y).2.dram (devOf s p y.1) y.2 = pieceBytes a bs y := by
  rw [← devOf_congr hprt, ← pieceBytes_length hy]
  exact writeDev_reads h (storePiece_eq_none_iff.mp hnone).2

/-- A write that the rights allow stores its pieces and is then mirrored (R88, R386). -/
theorem writePart_allowed (h : refusedAt s p a bs.length true = none) :
    writePart p a bs who s =
      let r := (pieces a bs.length).foldl (storePiece p a bs who) (none, s)
      (r.1, mirrorWrite p a bs r.2) := by
  simp only [writePart, h]
  rfl

/-- A partition that maps no device granule twice stores pieces of different granules apart. -/
theorem inPiece_disjoint {wr : Bool} (hr : refusedAt s p a n wr = none) (hm : mapsOnce s p) (hy : y ∈ pieces a n)
    (hz : z ∈ pieces a n) (hne : y.1 / granuleBytes ≠ z.1 / granuleBytes) (hx : inPiece s p y x) : ¬ inPiece s p z x := by
  intro hx'
  obtain ⟨g, hg⟩ := granAt_of_not_refused hr hy
  obtain ⟨h, hh⟩ := granAt_of_not_refused hr hz
  exact hne (hm _ _ g h hg hh
    ((piece_in_granule hy hg hx.1 hx.2).symm.trans (piece_in_granule hz hh hx'.1 hx'.2)))

theorem storePiece_writesOnly {acc : Option MemErr × State} (h : memOk acc.2 = true) (hprt : acc.2.prt = s.prt)
    (hy : y ∈ pieces a bs.length) : WritesOnly (inPiece s p y) acc.2 (storePiece p a bs who acc y).2 := by
  refine writeDev_writesOnly h fun x hlo hhi => ?_
  rw [devOf_congr hprt] at hlo hhi
  rw [pieceBytes_length hy] at hhi
  exact ⟨hlo, hhi⟩

/-- A run of pieces writes only where the pieces are stored. -/
theorem foldl_storePiece_writesOnly {acc : Option MemErr × State} (h : memOk acc.2 = true) (hprt : acc.2.prt = s.prt)
    (hl : ∀ y ∈ l, y ∈ pieces a bs.length) :
    WritesOnly (fun x => ∃ y ∈ l, inPiece s p y x) acc.2 (l.foldl (storePiece p a bs who) acc).2 := by
  induction l generalizing acc with
  | nil => exact .refl h
  | cons y l ih =>
    obtain ⟨hy, hl⟩ := List.forall_mem_cons.mp hl
    have hfirst := storePiece_writesOnly (p := p) (who := who) h hprt hy
    have hrest := ih hfirst.mem (hfirst.prt.trans hprt) hl
    exact (hfirst.mono fun x hx => ⟨y, List.mem_cons_self, hx⟩).trans
      (hrest.mono fun x ⟨z, hz, hx⟩ => ⟨z, List.mem_cons_of_mem y hz, hx⟩)

/-- After a run of pieces of different granules that met no error, each of them can be read where it was stored: no later
piece reaches it. -/
theorem foldl_storePiece_reads {acc : Option MemErr × State} (h : memOk acc.2 = true) (hprt : acc.2.prt = s.prt)
    (hr : refusedAt s p a bs.length true = none) (hm : mapsOnce s p) (hl : ∀ y ∈ l, y ∈ pieces a bs.length)
    (hd : l.Pairwise fun y z => y.1 / granuleBytes ≠ z.1 / granuleBytes)
    (hnone : (l.foldl (storePiece p a bs who) acc).1 = none) :
    acc.1 = none ∧
      ∀ y ∈ l, getBytes (l.foldl (storePiece p a bs who) acc).2.dram (devOf s p y.1) y.2 = pieceBytes a bs y := by
  induction l generalizing acc with
  | nil => exact ⟨hnone, fun _ hy => absurd hy List.not_mem_nil⟩
  | cons y l ih =>
    obtain ⟨hy, hl⟩ := List.forall_mem_cons.mp hl
    obtain ⟨hdy, hd⟩ := List.pairwise_cons.mp hd
    have hfirst := storePiece_writesOnly (p := p) (who := who) h hprt hy
    have hprt' := hfirst.prt.trans hprt
    have hrest := foldl_storePiece_writesOnly (p := p) (who := who) hfirst.mem hprt' hl
    obtain ⟨hstored, hreads⟩ := ih hfirst.mem hprt' hl hd hnone
    refine ⟨(storePiece_eq_none_iff.mp hstored).1, List.forall_mem_cons.mpr ⟨?kept, hreads⟩⟩
    refine (getBytes_congr (tabWf_dram_of_memOk hrest.mem) (tabWf_dram_of_memOk hfirst.mem) fun x hlo hhi =>
      hrest.dram x ?_).trans (storePiece_reads h hprt hy hstored)
    rintro ⟨z, hz, hx⟩
    exact inPiece_disjoint hr hm hy (hl z hz) (hdy z hz) ⟨hlo, hhi⟩ hx

/-- A write of partition memory that meets no error shows its bytes (R88, R342). -/
theorem peek_writePart_self (h : memOk s = true) (hm : mapsOnce s p) (hw : (writePart p a bs who s).1 = none) :
    peek (writePart p a bs who s).2 p a bs.length = bs := by
  cases hr : refusedAt s p a bs.length true with
  | some x => rw [writePart_refused hr] at hw; cases hw
  | none =>
    rw [writePart_allowed hr] at hw ⊢
    obtain ⟨_, hread⟩ := foldl_storePiece_reads (acc := (none, s)) h rfl hr hm (fun _ => id)
      (pieces_granules_ne a bs.length) hw
    have hprt := (foldl_storePiece_writesOnly (p := p) (who := who) (acc := (none, s)) h rfl
      fun y (hy : y ∈ pieces a bs.length) => hy).prt
    have hq := mirrorWrite_quiet (x0 := p) (x1 := a) (x2 := bs)
      (Quiet.refl ((pieces a bs.length).foldl (storePiece p a bs who) (none, s)).2)
    calc peek _ p a bs.length = (pieces a bs.length).flatMap (pieceBytes a bs) := by
          refine congrArg List.flatten (List.map_congr_left fun y hy => ?_)
          obtain ⟨g, hg⟩ := granAt_of_not_refused hr hy
          simp only [granAt_congr (hq.prt.trans hprt), devOf_congr (hq.prt.trans hprt), hg, readDev, hq.dram]
          exact hread y hy
      _ = bs := pieces_flatMap_pieceBytes a bs

end

end Sys2Proof.Machine

/-! # Partitions, contexts and slices: what their commands come to -/

namespace Sys2Proof.Machine

/-- With no injection under way none is used up. -/
theorem injLive_of_idle {s : State} {pt inst : Nat} (h : s.inj.busy = none) : injLive s pt inst = false := by
  simp only [injLive, h]

section
variable {t p k g id h e : Nat} {d : Desc} {s u v w : State}

/-! ## Waits, locks, quanta and budgets -/

/-- A waiter whose time is over leaves unserved, and those behind it may now be served (R108). -/
theorem doSemaphoreTimeout_due {i : Nat} {x : Waiting} (hx : (getPart (advance t s) p).waits[i]? = some x)
    (hu : x.until_ = some e) (he : e ≤ (advance t s).clk) (hsem : x.sem < 960)
    (hv : v = answer p x 1 (dropWaiting p x (advance t s))) :
    doSemaphoreTimeout t p i s = settle (serveSem p x.sem (getPart v p).waits.length v) := by
  subst hv
  simp only [doSemaphoreTimeout, hx, hu, if_pos he, if_pos hsem]

/-- A hold budget that ends revokes the mutex and tears its owner down (R111). -/
theorem doHoldBudgetExpiry_due {m x : Nat} (hh : (getCtx (advance t s) p k).holdEnds = some (e, m, x))
    (he : e ≤ (advance t s).clk) (ho : (getMutex (advance t s) p m).owner = some k) :
    doHoldBudgetExpiry t p k s =
      settle (teardown p k 0x0203 0 0 0 none (modPart p (fun y => { y with nRevoked := satAdd 32 y.nRevoked 1 })
        (record 0 0x0302 [.id1 p, .val4 m, .id1 k, .id1 x] p k (advance t s)))) := by
  simp only [doHoldBudgetExpiry, hh, he, ho, decide_true, Bool.and_self, if_true]

/-- A quantum that ends while an equal waits heels the longest-running context in (R95). -/
theorem doQuantumExpiry_due (hst : (getCtx (advance t s) p k).st = .running) (hq : 0 < quantumNs (advance t s))
    (hd : (getCtx (advance t s) p k).dispatchTime + quantumNs (advance t s) ≤ (advance t s).clk)
    (hw : equalWaits (advance t s) p k = true) (hl : longestRunning (advance t s) p k = true) :
    doQuantumExpiry t p k s = settle (heelNow p k .quantum (advance t s)) := by
  simp only [doQuantumExpiry, hst, hq, hd, hw, hl, decide_true, Bool.and_self, if_true]

/-- A budget that ends is a fault of the context's first core with cause 0x11 (R96). -/
theorem doBudgetExpiry_due {l : Launch} {r : List Nat} (hl : (getCtx (advance t s) p k).launch = some l)
    (hp : (getCtx (advance t s) p k).place = g :: r) (hr : (getCtx (advance t s) p k).resident = true)
    (hb : l.budget ≠ 0) (hran : l.budget * 1000 < runNs (advance t s) (getCtx (advance t s) p k)) :
    doBudgetExpiry t p k s = settle (coreFault g 0x11 0 0 (advance t s)) := by
  simp only [doBudgetExpiry, hl, hp, List.head?_cons, hr, hb, hran, ne_eq, not_false_eq_true, decide_true,
    Bool.and_self, if_true]

/-! ## Partitions, contexts and maps -/

/-- A descriptor that needs scion, has it, starts and passes its checks has its effect (R61, R438). -/
theorem runScion_starts {op : Nat} {check : State → Desc → Option Refused} {body : Desc → State → State}
    (hsc : ScionServes s) (hs : Starts (advance t s) id op d) (hc : check (advance t s) d = none) :
    runScion t id op check body s = settle (body d (startDesc id (advance t s))) :=
  (runScion_serves hsc).trans (runDesc_starts hs hc)

/-- A CTX_DESTROY by force of a slot that is not FAULTED (R115). -/
theorem ctxDestroyBody_forced (hst : (getCtx s d.part d.slot).st ≠ .faulted) (hf : bit (d.u 9 1) 0 = true) :
    ctxDestroyBody d s = finishOk d.id (destroyForced d.part d.slot (some d.id) s) := by
  simp only [ctxDestroyBody, if_neg hst, if_pos hf]

/-- A CTX_DESTROY that names a partition has its effect (R115). -/
theorem doCtxDestroy_starts (hs : Starts (advance t s) id 0x13 d) (hp : partNamed (advance t s) d = true) :
    doCtxDestroy t id s = settle (ctxDestroyBody d (startDesc id (advance t s))) :=
  runDesc_starts hs (if_pos hp)

/-- The standby copy applies the next change (R117). -/
theorem doMirrorApply_joined (hN : (getHub (advance t s) 0).up = true) (hS : (getHub (advance t s) 1).up = true)
    (hj : hubsJoined (advance t s) = true) (hi : (advance t s).inj.busy = none) {a : Nat}
    (ha : a = min (advance t s).prt.changes ((advance t s).prt.applied + 1)) :
    doMirrorApply t s = { (advance t s) with prt :=
      { (advance t s).prt with applied := a, mirrorOk := a = (advance t s).prt.changes } } := by
  subst ha
  simp only [doMirrorApply, hN, hS, hj, Bool.and_self, if_true, injLive_of_idle hi, Bool.false_eq_true, if_false]

/-- A standby copy with a change still to apply is reported lost, once (R117). -/
theorem doMirrorLost_behind (hb : (advance t s).prt.applied < (advance t s).prt.changes)
    (hm : (advance t s).prt.mirrorOk = true) :
    doMirrorLost t s = event 0 0x0304 [.val4 (advance t s).prt.applied]
      (prtErr 1 0 { (advance t s) with prt := { (advance t s).prt with mirrorOk := false } }) := by
  simp only [doMirrorLost, hb, decide_true, Bool.or_true, if_true, mirrorLost, hm]

/-! ## Heel-in, replant and core moves -/

theorem doStopPointReached_requested (hr : (getCore (advance t s) g).role ≠ .free)
    (hst : (getCore (advance t s) g).stop = .requested) :
    doStopPointReached t g s = modCore g Core.stopNow (giveBack g (advance t s)) :=
  if_pos ⟨hr, hst⟩

theorem stopped_and_drained {c : Core} (hst : c.stop = .stopped) (hd : drained s g = true) :
    (decide (c.stop = .stopped) && drained s g) = true := by
  simp only [hst, hd, decide_true, Bool.and_self]

section
variable {c : Core} (hc : c = getCore (advance t s) g) (hst : c.stop = .stopped) (hd : drained (advance t s) g = true)
include hc hst hd

/-- A stopped core with its transfers done writes its core block and is saved (R97). -/
theorem doDrainDone_block (hcause : (getCtx (advance t s) c.part c.slot).cause ≠ .coreMove)
    (hw : writeBlock c.part ((getCtx (advance t s) c.part c.slot).heelAddr + blockOff c.idx) c (advance t s) = (none, v)) :
    doDrainDone t g s = modCtx c.part c.slot (fun y => { y with heelBytes := y.heelBytes + c.blockBytes })
      (modCore g (fun k => { k with stop := .saved }) v) := by
  subst hc
  refine (if_pos (stopped_and_drained hst hd)).trans ((if_neg hcause).trans ?_)
  rw [hw]

/-- In a core move a stopped core is saved where it is (R105). -/
theorem doDrainDone_coreMove (hcause : (getCtx (advance t s) c.part c.slot).cause = .coreMove) :
    doDrainDone t g s = modCore g (fun k => { k with stop := .saved }) (advance t s) := by
  subst hc
  exact (if_pos (stopped_and_drained hst hd)).trans (if_pos hcause)

end

/-- Once every core is saved the header is written, and the heel-in ends (R97). -/
theorem doHeelInDone_saved (hst : (getCtx (advance t s) p k).st = .heeling)
    (hcause : (getCtx (advance t s) p k).cause ≠ .coreMove)
    (hsaved : ((getCtx (advance t s) p k).place.all fun g => (getCore (advance t s) g).stop = .saved) = true)
    (hw : writePart p (getCtx (advance t s) p k).heelAddr (heelHeader (advance t s) p k) (.hub 1) (advance t s) = (none, v)) :
    doHeelInDone t p k s = heelEnd p k v := by
  simp only [doHeelInDone, hst, hcause, hsaved, hw, ne_eq, not_false_eq_true, decide_true, Bool.and_self, if_true]

/-- A replant whose header agrees and whose blocks read without an error makes the context run again (R102, R103). -/
theorem replantDone_agrees {hd : List Byte} (hread : readPart p (getCtx s p k).heelAddr 4096 (.hub 1) s = (.ok hd, v))
    (hi : v.inj.busy = none) (hok : headerOk v p k hd (leAt hd 16 8) = true) (hcores : replantCores p k v = (none, w))
    (hu : u = applyKept p k (replantSpills p k w)) :
    replantDone p k s = runAgain p k (modCtx p k (fun c =>
      { c with saved := [], heelHeld := false, replants := satAdd 64 c.replants 1,
               replantNs := satAdd 64 c.replantNs (u.clk - c.began) }) u) := by
  subst hu
  simp only [replantDone, hread, injLive_of_idle hi, Bool.false_eq_true, if_false, hok, Bool.not_true, hcores]

/-- With every core of its context saved, a core's state passes to the one it moves to (R105). -/
theorem doCoreMove_saved {n : Nat} {c : Ctx}
    (hc : c = getCtx (advance t s) (getCore (advance t s) g).part (getCore (advance t s) g).slot)
    (hm : c.moving = some (g, n)) (hst : c.st = .heeling) (hcause : c.cause = .coreMove)
    (hsaved : (c.place.all fun o => (getCore (advance t s) o).stop = .saved) = true) :
    doCoreMove t g s = coreMove g n (getCore (advance t s) g).part (getCore (advance t s) g).slot
      (if isSpare (advance t s) n then beginScan g (getCore (advance t s) g).part (advance t s) else advance t s) := by
  subst hc
  simp only [doCoreMove, hm, hst, hcause, hsaved, decide_true, Bool.and_self, if_true]

/-! ## Slices of the shared engines -/

/-- Between slices the fields of an entry take effect, and its enable bit decides what becomes of it (R241). -/
theorem doSdlEntryCommit_between (hh : h < 2) (he : e < 64) (hup : (getHub (advance t s) h).up = true)
    (hsl : (getSdl (advance t s) h).slice = none)
    (hu : u = [0, 4, 8, 0xC].foldl (fun s r => commit (entReg h e r) s) (advance t s)) :
    doSdlEntryCommit t h e s =
      if eff u (entReg h e 0) 0 1 = 1 then commitEnt h e u else dropReader h e none (modEnt h e idleEnt u) := by
  subst hu
  simp only [doSdlEntryCommit, hh, he, hup, hsl, decide_true, Bool.and_self, if_true]

/-- An entry that may run computes the next band of its frame (R246). -/
theorem doSdlBand_runs {j : SdlJob} {f : Frame} (hh : h < 2) (hr : mayRun (advance t s) h e = true)
    (hl : entLast (advance t s) h e = false) (hj : (getEnt (advance t s) h e).job = some j)
    (hf : entFrame (advance t s) h e = some f) :
    doSdlBand t h e s =
      let i := jobInput (advance t s) h e j.raw
      let y0 := (getEnt (advance t s) h e).row
      let y1 := min (jobHout j.raw i.1) (y0 + jobBand j.raw i.1 i.2)
      runBand h e j f y0 y1 (spend h ((y1 - y0) * jobCyc j.raw i.2) (beginSlice h e (advance t s))) := by
  simp only [doSdlBand, hh, hr, hl, hj, hf, decide_true, Bool.not_false, Bool.and_self, if_true]

/-- A last-layer entry that may run runs its job (R245). -/
theorem doSdlJobStart_runs {j : SdlJob} (hh : h < 2) (hr : mayRun (advance t s) h e = true)
    (hl : entLast (advance t s) h e = true) (hj : (getEnt (advance t s) h e).job = some j) :
    doSdlJobStart t h e s =
      runJob h e j (spend h (jobHout j.raw (leAt j.raw 96 2) * jobCyc j.raw (leAt j.raw 98 2))
        (beginSlice h e (advance t s))) := by
  simp only [doSdlJobStart, hh, hr, hl, hj, decide_true, Bool.and_self, if_true]

/-- A used-up slice of an idle seedling engine ends; what ran over its end is the entry's debt (R116). -/
theorem sdlSliceEnd_usedUp {fin : Nat} (hsl : (getSdl s h).slice = some (e, fin)) (hb : (getSdl s h).busy ≤ s.clk * 11)
    (hf : fin ≤ s.clk * 11) :
    sdlSliceEnd h s = modEnt h e (fun y => { y with debt := if y.active then (getSdl s h).busy - fin else 0 })
      (commit ((Blk.sdl h).base + 8) (modSdl h (fun x => { x with slice := none, last := e }) s)) := by
  have hover : fin ≤ max (getSdl s h).busy (s.clk * 11) := Nat.le_trans hf (Nat.le_max_right _ _)
  simp only [sdlSliceEnd, now11, hsl, hb, hover, decide_true, Bool.true_or, Bool.and_self, if_true]

/-- A used-up slice of an idle fusion engine ends likewise (R116). -/
theorem fusSliceEnd_usedUp {fin : Nat} (hsl : (getFus s h).slice = some (e, fin)) (hb : (getFus s h).busy ≤ s.clk)
    (hf : fin ≤ s.clk) :
    fusSliceEnd h s = modSrc h e (fun y => { y with debt := if y.active then (getFus s h).busy - fin else 0 })
      (modFus h (fun x => { x with slice := none, last := e }) s) := by
  simp only [fusSliceEnd, hsl, hb, hf, decide_true, Bool.true_or, Bool.and_self, if_true]

end

end Sys2Proof.Machine

/-! # The obligations of spec/03_partitions.md -/

section
open Sys2Proof Sys2Proof.Machine

/-- Settles O48: each piece is read back where it was stored, and the pieces are the range. -/
theorem whatIsWrittenReadsBack : Obligations.WhatIsWrittenReadsBack :=
  fun _ _ _ _ _ ⟨h, hm⟩ hw => peek_writePart_self h hm hw

/-- Settles O6: WAIT and SIGNAL are their bodies (`runDesc_starts`), and each timer that is due has its effect. -/
theorem semaphoresAndLocks : Obligations.SemaphoresAndLocks := by
  refine ⟨?wait, ?signal, ?timeout, ?hold, ?quantum, ?budget⟩
  case wait =>
    rintro t id d s ⟨hs, hc⟩
    exact congrArg Host.Outcome.next (runDesc_starts hs hc)
  case signal =>
    rintro t id d s ⟨hs, hc⟩
    exact congrArg Host.Outcome.next (runDesc_starts hs hc)
  case timeout =>
    rintro t p i e x s ⟨hx, hu, he, hsem⟩
    exact congrArg Host.Outcome.next (doSemaphoreTimeout_due hx hu he hsem rfl)
  case hold =>
    rintro t p k e m x s ⟨hh, he, ho⟩
    exact congrArg Host.Outcome.next (doHoldBudgetExpiry_due hh he ho)
  case quantum =>
    rintro t p k s ⟨hst, hq, hd⟩ ⟨hw, hl⟩
    exact congrArg Host.Outcome.next (doQuantumExpiry_due hst hq hd hw hl)
  case budget =>
    rintro t p k g l r s ⟨hl, hp⟩ ⟨hr, hb, hran⟩
    exact congrArg Host.Outcome.next (doBudgetExpiry_due hl hp hr hb hran)

/-- Settles O10: each descriptor is its body, with scion where it needs scion (`runScion_starts`), and the standby copy
moves on or is lost. -/
theorem partitionsComeAndGo : Obligations.PartitionsComeAndGo := by
  refine ⟨?create, ?destroy, ?ctxCreate, ?ctxDestroy, ?map, ?unmap, ?apply, ?lost⟩
  case create =>
    rintro t id d s ⟨hsc, hs, hc⟩
    exact congrArg Host.Outcome.next (runScion_starts hsc hs hc)
  case destroy =>
    rintro t id d s ⟨hsc, hs, hc⟩
    exact congrArg Host.Outcome.next (runScion_starts hsc hs hc)
  case ctxCreate =>
    rintro t id d s ⟨hs, hc⟩
    exact congrArg Host.Outcome.next (runDesc_starts hs hc)
  case ctxDestroy =>
    rintro t id d s ⟨hs, hp, hst, hf⟩
    exact congrArg Host.Outcome.next
      ((doCtxDestroy_starts hs hp).trans (congrArg settle (ctxDestroyBody_forced hst hf)))
  case map =>
    rintro t id d s ⟨hb, hsc, hs, hc⟩
    exact congrArg Host.Outcome.next ((if_pos hb).trans (runScion_starts hsc hs hc))
  case unmap =>
    rintro t id d s ⟨hb, hsc, hs, hc⟩
    exact congrArg Host.Outcome.next ((if_pos hb).trans (runScion_starts hsc hs hc))
  case apply =>
    rintro t s ⟨hN, hS, hj, hi⟩
    exact congrArg Host.Outcome.next (doMirrorApply_joined hN hS hj hi rfl)
  case lost =>
    rintro t s ⟨hb, hm⟩
    exact congrArg Host.Outcome.next (doMirrorLost_behind hb hm)

/-- Settles O11, step by step: the writes and reads of the heel-in area go through, so no step takes its error path. -/
theorem contextsHeelAndReplant : Obligations.ContextsHeelAndReplant := by
  refine ⟨?stop, ?drain, ?drainMove, ?heeled, ?replant, ?move⟩
  case stop =>
    rintro t g s ⟨hr, hst⟩
    exact congrArg Host.Outcome.next (doStopPointReached_requested hr hst)
  case drain =>
    rintro t g c s ⟨hc, hst, hd, hcause⟩ hw
    exact congrArg Host.Outcome.next (doDrainDone_block hc hst hd hcause (write_ok hw))
  case drainMove =>
    rintro t g s ⟨hst, hd⟩ hcause
    exact congrArg Host.Outcome.next (doDrainDone_coreMove rfl hst hd hcause)
  case heeled =>
    rintro t p k s ⟨hst, hcause, hsaved⟩ hw
    exact congrArg Host.Outcome.next (doHeelInDone_saved hst hcause hsaved (write_ok hw))
  case replant =>
    rintro t p k hd v w s ⟨hst, _⟩ ⟨hv, hread⟩ ⟨hi, hok⟩ hcores
    exact congrArg Host.Outcome.next
      ((if_pos hst).trans (replantDone_agrees (read_ok hread hv) hi hok hcores rfl))
  case move =>
    rintro t g n s ⟨hm, hst⟩ ⟨hcause, hsaved⟩
    exact congrArg Host.Outcome.next (doCoreMove_saved rfl hm hst hcause hsaved)

/-- Settles O21: the enable bit decides what a commit does, an entry that may run has its job, and a slice ends on both
engines in the same way. -/
theorem seedlingEntriesCommitAndRun : Obligations.SeedlingEntriesCommitAndRun := by
  refine ⟨?enabled, ?disabled, ?band, ?job, ?seedlingSlice, ?fusionSlice⟩
  case enabled =>
    rintro t h e s u ⟨hh, he, hup, hsl⟩ ⟨hu, hen⟩
    exact congrArg Host.Outcome.next ((doSdlEntryCommit_between hh he hup hsl hu).trans (if_pos hen))
  case disabled =>
    rintro t h e s u ⟨hh, he, hup, hsl⟩ ⟨hu, hen⟩
    have hne : ¬ eff u (entReg h e 0) 0 1 = 1 := by rw [hen]; exact Nat.zero_ne_one
    exact congrArg Host.Outcome.next ((doSdlEntryCommit_between hh he hup hsl hu).trans (if_neg hne))
  case band =>
    rintro t h e j f s ⟨hh, hr, hl⟩ ⟨hj, hf⟩
    exact congrArg Host.Outcome.next (doSdlBand_runs hh hr hl hj hf)
  case job =>
    rintro t h e j s ⟨hh, hr, hl⟩ hj
    exact congrArg Host.Outcome.next (doSdlJobStart_runs hh hr hl hj)
  case seedlingSlice =>
    rintro t h e fin s ⟨hh, hsl, hb, hf⟩
    exact congrArg Host.Outcome.next ((if_pos hh).trans (sdlSliceEnd_usedUp hsl hb hf))
  case fusionSlice =>
    rintro t h e fin s ⟨hh, hsl, hb, hf⟩
    exact congrArg Host.Outcome.next ((if_pos hh).trans (fusSliceEnd_usedUp hsl hb hf))

end

/-! # A core's own accesses: what its loads, stores and instruction fetches come to -/

namespace Sys2Proof.Machine

/-- A value that is there, as one equation. -/
theorem eq_ok_of_toOption {ε α : Type} {r : Except ε α} {a : α} (h : r.toOption = some a) : r = .ok a := by
  cases r with
  | error _ => cases h
  | ok _ => exact congrArg Except.ok (Option.some.inj h)

variable {g a : Nat} {w : InstrWord} {s u : State}

/-! ## LD and ST (R154, R155) -/

/-- LD of a special register writes its value (R154). -/
theorem doLd_special {v : Nat} (h : Issues s g 0x19 w) (hok : okLdSt w fRd true = true) (hspecial : flag w 3 = true)
    (hv : special g (wf w 0 8) s = (v, u)) : doLd g s = retireS g (rdOf w) (BitVec.ofNat 64 v) u := by
  rw [doLd, issue_eq h hok, if_pos hspecial, hv]

/-- LD of a scratchpad address that is free and clean writes the bytes there, extended as its flag says (R154). -/
theorem doLd_scratchpad (h : Issues s g 0x19 w) (hok : okLdSt w fRd true = true) (hmem : flag w 3 = false)
    (hsp : flag w 4 = false) (ha : scalarAddr (getCore s g) w false (accSize w) = .ok a)
    (hfree : hazard s g false a (accSize w) = false) (hecc : (getCore s g).ecc = []) (hinj : s.inj.busy = none) :
    doLd g s =
      let x := ofBytes (getBytes (getCore s g).sp a (accSize w))
      retireS g (rdOf w) (BitVec.ofNat 64 (if flag w 2 then wrap 64 (sext (8 * accSize w) x) else x)) s := by
  have hread := spRead_clean (off := a) (n := accSize w) (v := { s, t := { ctl := 0 } }) hecc hinj
  rw [doLd, issue_eq h hok]
  simp only [hmem, hsp, Bool.false_eq_true, if_false, ha, hfree, hread]

/-- ST stores the low bytes of s[rb] at an address that is free, in the scratchpad or the accumulators (R154). -/
theorem doSt_memory (h : Issues s g 0x1A w) (hok : okLdSt w fRb false = true) (hmem : flag w 3 = false)
    (ha : scalarAddr (getCore s g) w (flag w 4) (accSize w) = .ok a)
    (hfree : hazard s g (flag w 4) a (accSize w) = false) :
    doSt g s =
      let bs := toBytes (accSize w) ((getCore s g).getS (rbOf w)).toNat
      nextPc g (modCore g (fun c => if flag w 4 then c.putAcc a bs else c.putSp a bs) s) := by
  rw [doSt, issue_eq h hok]
  simp only [hmem, Bool.false_eq_true, if_false, ha, hfree]

/-- ST of a value below 16 to special register NUMCTL writes it (R155). -/
theorem doSt_numctl (h : Issues s g 0x1A w) (hok : okLdSt w fRb false = true) (hspecial : flag w 3 = true)
    (hreg : wf w 0 8 = 0x08) (hv : ((getCore s g).getS (rbOf w)).toNat < 16) :
    doSt g s = nextPc g (modCore g (fun c => { c with numctl := ((getCore s g).getS (rbOf w)).toNat }) s) := by
  rw [doSt, issue_eq h hok]
  simp only [hspecial, if_true, hreg, ne_eq, not_true_eq_false, if_false, Nat.not_le.mpr hv]

/-! ## TDLD and TDST (R156) -/

/-- TDLD reads the 64 bytes of a tensor register from an address that is free and clean (R156). -/
theorem doTdld_clean (h : Issues s g 0x1E w) (hok : onlyBits w [(106, 4), fRa, fImm] = true)
    (ha : tdAddr (getCore s g) w = .ok a) (hfree : hazard s g false a 64 = false) (hecc : (getCore s g).ecc = [])
    (hinj : s.inj.busy = none) :
    doTdld g s = nextPc g (modCore g (fun c =>
      { c with t := tabSet (fun _ => 0) c.t (wf w 106 4)
                      (BitVec.ofNat 512 (ofBytes (getBytes (getCore s g).sp a 64))) }) s) := by
  have hread := spRead_clean (off := a) (n := 64) (v := { s, t := { ctl := 0 } }) hecc hinj
  rw [doTdld, issue_eq h hok]
  simp only [ha, hfree, Bool.false_eq_true, if_false, hread]

/-- TDST stores the 64 bytes of a tensor register at an address that is free (R156). -/
theorem doTdst_free (h : Issues s g 0x1F w) (hok : onlyBits w [(96, 4), fRa, fImm] = true)
    (ha : tdAddr (getCore s g) w = .ok a) (hfree : hazard s g false a 64 = false) :
    doTdst g s = nextPc g (modCore g (fun c => c.putSp a (toBytes 64 (c.getT (wf w 96 4)).toNat)) s) := by
  rw [doTdst, issue_eq h hok]
  simp only [ha, hfree, Bool.false_eq_true, if_false]

/-! ## The instruction cache (R149) -/

/-- The line at the pc of a core that may issue and holds no word there is brought into the cache: no parity error is
met, for there is no stored word to have one (R142, R149). -/
theorem doIcacheFill_missing {t l : Nat} {bs : List Byte} {c : Core} {x : Launch} (hc : c = getCore (advance t s) g)
    (hissue : mayIssue (advance t s) g = true) (hl : l = c.pc / 16) (hpc : c.pc < c.count) (hword : c.word = none)
    (hx : (getCtx (advance t s) c.part c.slot).launch = some x)
    (hread : readPart c.part (x.prog + 64 + 256 * l) (lineBytes c l) (.ctx c.part c.slot) (advance t s) = (.ok bs, u)) :
    doIcacheFill t g l s = icFill g l bs u := by
  subst hc
  simp only [doIcacheFill, hissue, hl.symm, decide_true, Bool.and_self, if_true, Nat.not_le.mpr hpc, if_false, hx, hword,
    Option.isSome_none, Bool.and_false, Bool.false_and, Bool.false_eq_true, hread]

end Sys2Proof.Machine

/-! # What cores move and wait for: DMA, HALO, PREF, SEMA, BAR, CRED, EVT and the mesh -/

namespace Sys2Proof.Machine

/-- Work that answers a value, as one equation. -/
theorem run_eq_ok {α : Type} {r : Except XErr α × Vst} {a : α} {v : Vst} (h : r.1.toOption = some a) (hv : v = r.2) :
    r = (.ok a, v) := Prod.ext (eq_ok_of_toOption h) hv.symm

/-- Work without a value that goes through answers its one value. -/
theorem toOption_of_isOk {ε : Type} {r : Except ε Unit} (h : r.isOk = true) : r.toOption = some () := by
  cases r with
  | error _ => cases h
  | ok _ => rfl

section
variable {g : Nat} {w : InstrWord} {s u : State}

/-! ## DMA and its entries (R141, R174, R175) -/

/-- DMA joins a queue with room once nothing is outstanding to its operands and its checks pass (R174). -/
theorem doDma_joins (h : Issues s g 0x38 w) (hok : onlyBits w [fRd, (102, 4), (98, 4), (111, 1)] = true)
    (hroom : (((getCore s g).dma (b2n (flag w 0))).filter fun e => e.data.isNone).length < 16)
    (hsrc : tdHazard s g (Td.of ((getCore s g).getT (wf w 102 4))) = false)
    (hdst : tdHazard s g (Td.of ((getCore s g).getT (wf w 98 4))) = false)
    (hc : Completes s g (dmaChecks g (wf w 102 4) (wf w 98 4)) u) :
    doDma g s = dmaPut g (b2n (flag w 0)) (rdOf w) ((getCore s g).getT (wf w 102 4)) ((getCore s g).getT (wf w 98 4)) u := by
  rw [doDma, issue_eq h hok]
  simp only [Nat.not_le.mpr hroom, hsrc, hdst, decide_false, Bool.or_self, Bool.false_eq_true, if_false,
    runX_completes hc]

/-- DMAW goes on once what it waits for has completed (R175). -/
theorem doDmaw_done (h : Issues s g 0x3A w)
    (hok : onlyBits w ([fImm, (111, 2)] ++ if flag w 1 then [] else [fRa]) = true)
    (hd : dmaDone ((getCore s g).dma (b2n (flag w 0))) (flag w 1) (((getCore s g).getS (raOf w)).toNat % 65536) = true) :
    doDmaw g s = nextPc g s := by
  rw [doDmaw, issue_eq h hok, if_pos hd]

/-- The oldest unstarted entry of a queue reads its source (R141). -/
theorem dmaStart_reads {q i : Nat} {e : DmaEnt} {rows : List (List Byte)} {v : Vst}
    (hrole : (getCore s g).role = .placed) (hstop : (getCore s g).stop = .go)
    (hres : (getCtx s (getCore s g).part (getCore s g).slot).resident = true)
    (hi : ((getCore s g).dma q).findIdx? (fun e => e.data.isNone) = some i) (he : ((getCore s g).dma q)[i]? = some e)
    (hread : (dmaRead g (Td.of e.src)).run { s, t := { ctl := 0 } } = (.ok rows, v)) :
    dmaStart g q s = dmaSet g q i { e with data := some rows.flatten } v.s := by
  simp only [dmaStart, hrole, hstop, hres, decide_true, Bool.and_self, if_true, hi, he, hread]

/-- The oldest entry of a queue, started, writes its destination and leaves the queue (R141). -/
theorem dmaFinish_writes {q : Nat} {e : DmaEnt} {r : List DmaEnt} {d : List Byte} {v : Vst}
    (hrole : (getCore s g).role = .placed) (hstop : (getCore s g).stop ≠ .saved)
    (hq : (getCore s g).dma q = e :: r) (hd : e.data = some d)
    (hwrite : (dmaWrite g (Td.of e.dst) d).run { s, t := { ctl := 0 } } = (.ok (), v)) :
    dmaFinish g q s = modCore g (fun c => c.setDma q r) v.s := by
  simp only [dmaFinish, hrole, hstop, ne_eq, not_false_eq_true, decide_true, Bool.and_self, if_true, hq, hd, hwrite]

/-! ## HALO (R177, R235, R237) -/

section
variable (h : Issues s g 0x39 w) (hok : onlyBits w ([(100, 7), (84, 16), (68, 16), (111, 3)] ++
    if wf w 111 2 = 0 ∨ wf w 111 2 = 3 then [(107, 4)] else []) = true)
  (hin : wf w 100 7 < (getCtx s (getCore s g).part (getCore s g).slot).cores)
include h hok hin

/-- HALO send to a neighbour whose slot is not full writes the row-set there (R237). -/
theorem doHalo_send {n : Nat} (hop : wf w 111 2 = 0)
    (hpeer : haloPeer (getCore s g).idx 0 (b2n (flag w 2)) = some (wf w 100 7))
    (hn : (getCtx s (getCore s g).part (getCore s g).slot).place[wf w 100 7]? = some n)
    (hfull : seamField s n (seamBase (b2n (flag w 2)) (wf w 68 16 % 2)) 4 1 ≠ 1)
    (hfree : tdHazard s g (Td.of ((getCore s g).getT (wf w 107 4))) = false)
    (hc : Completes s g (haloSend g n (wf w 107 4) (b2n (flag w 2)) (wf w 84 16) (wf w 68 16)) u) :
    doHalo g s = nextPc g u := by
  rw [doHalo, issue_eq h hok]
  simp only [hop, hpeer, Nat.not_le.mpr hin, hn, hfull, hfree, ne_eq, not_true_eq_false, or_self, Nat.reduceEqDiff,
    decide_false, Bool.or_self, Bool.false_eq_true, if_false, runX_completes hc]

/-- HALO wait is the wait on the slot its fields name (R237). -/
theorem doHalo_wait (hop : wf w 111 2 = 1)
    (hpeer : haloPeer (getCore s g).idx 1 (b2n (flag w 2)) = some (wf w 100 7)) :
    doHalo g s = haloWait g (b2n (flag w 2)) (wf w 84 16) (wf w 68 16) s := by
  rw [doHalo, issue_eq h hok]
  simp only [hop, hpeer, Nat.not_le.mpr hin, ne_eq, not_true_eq_false, or_self, Nat.reduceEqDiff, if_false]

/-- HALO release is the release of the slot its fields name (R237). -/
theorem doHalo_release (hop : wf w 111 2 = 2)
    (hpeer : haloPeer (getCore s g).idx 2 (b2n (flag w 2)) = some (wf w 100 7)) :
    doHalo g s = haloRelease g (b2n (flag w 2)) (wf w 84 16) (wf w 68 16) s := by
  rw [doHalo, issue_eq h hok]
  simp only [hop, hpeer, Nat.not_le.mpr hin, ne_eq, not_true_eq_false, or_self, Nat.reduceEqDiff, if_false]

end

/-- A slot that holds the tag is released where no tensor instruction is under way that may read it (R237). -/
theorem haloRelease_holds {side tag row : Nat} (hh : seamHolds s g (seamBase side (row % 2)) tag row = true)
    (hruns : (getCore s g).runs = []) :
    haloRelease g side tag row s = nextPc g (modCore g (fun c => c.putSp (seamBase side (row % 2) + 4) [0]) s) := by
  simp only [haloRelease, hh, Bool.not_true, Bool.false_eq_true, if_false, hruns, List.any_nil]

/-! ## PREF (R176) -/

section
variable (h : Issues s g 0x3B w)
  (hok : onlyBits w (if flag w 0 then [(0, 48), (111, 1)] else [fRa, fImm]) = true)
include h hok

/-- PREF with a bank mask clears the banks once no write is outstanding to them (R138, R176). -/
theorem doPref_banks (hbanks : flag w 0 = true)
    (hfree : (bitList 48 (wf w 0 48)).any (fun b => hazard s g false (b * 0x10000) 0x10000) = false) :
    doPref g s = nextPc g (modCore g (fun c => (bitList 48 (wf w 0 48)).foldl Core.killBank c) s) := by
  rw [doPref, issue_eq h hok, if_pos hbanks]
  simp only [hfree, Bool.false_eq_true, if_false]

/-- PREF of 1 to 4,096 instructions fills their lines in order (R176). -/
theorem doPref_lines (hlines : flag w 0 = false) (hlo : 1 ≤ wf w 32 16) (hhi : wf w 32 16 ≤ 4096) :
    doPref g s =
      let first := ((getCore s g).getS (raOf w)).toNat + wf w 0 32
      nextPc g (((List.range ((first + wf w 32 16 - 1) / 16 - first / 16 + 1)).map (first / 16 + ·)).foldl (prefLine g) s) := by
  have hcount : ¬ (wf w 32 16 = 0 ∨ 4096 < wf w 32 16) := by omega
  rw [doPref, issue_eq h hok]
  simp only [hlines, Bool.false_eq_true, if_false, hcount]

end

/-! ## SEMA (R107, R109, R110, R178) -/

section
variable (h : Issues s g 0x3C w) (hok : okSema w = true) (hcond : semaCond w ≠ 3)
include h hok hcond

/-- An op below 4 on a semaphore below 960 counts (R178). -/
theorem doSema_count (hop : semaOp w < 4) (hsem : semOf w < 960) : doSema g s = semaCount g w s := by
  have hdefined : ¬ (semaOp w = 7 ∨ semaCond w = 3) := by omega
  have hfits : ¬ ((semaOp w < 4) = (960 ≤ semOf w)) := by rw [eq_iff_iff]; omega
  rw [doSema, issue_eq h hok, if_neg hdefined, if_neg hfits, if_pos hop]

/-- An op of 4 to 6 on a semaphore from 960 on is one of the mutex (R178). -/
theorem doSema_mutex (hlo : 4 ≤ semaOp w) (hhi : semaOp w < 7) (hsem : 960 ≤ semOf w) :
    doSema g s = semaMutex g w s := by
  have hdefined : ¬ (semaOp w = 7 ∨ semaCond w = 3) := by omega
  have hfits : ¬ ((semaOp w < 4) = (960 ≤ semOf w)) := by rw [eq_iff_iff]; omega
  rw [doSema, issue_eq h hok, if_neg hdefined, if_neg hfits, if_neg (Nat.not_lt.mpr hlo)]

end

/-- SEMA set acts at once, outside replay mode (R107, R464). -/
theorem semaCount_set (hop : semaOp w = 0) (hreplay : inReplay s (getCore s g).part (getCore s g).slot = false) :
    semaCount g w s =
      settle (semOp (getCore s g).part (semOf w) true ((getCore s g).getS (raOf w)).toNat (retireS g (rdOf w) 0 s)) := by
  simp only [semaCount, hreplay, Bool.false_eq_true, if_false, hop]

/-- Try-lock takes a free mutex and says whether its last owner abandoned it (R109). -/
theorem semaMutex_tryLock_free (hop : semaOp w = 5) (hfree : (getMutex s (getCore s g).part (semOf w)).owner = none) :
    semaMutex g w s =
      let c := getCore s g
      let x := getMutex s c.part (semOf w)
      retireS g (rdOf w) (if x.abandoned then 3 else 0)
        (changed (setMutex c.part (semOf w) { owner := some c.slot, abandoned := false } s)) := by
  simp only [semaMutex, hop, hfree]

/-- Unlock by the owner gives the mutex up, and with it what the owner inherited: no hold budget names another mutex
(R109 to R111). -/
theorem semaMutex_unlock_owned (hop : semaOp w = 6)
    (howner : (getMutex s (getCore s g).part (semOf w)).owner = some (getCore s g).slot)
    (hhold : (getCtx s (getCore s g).part (getCore s g).slot).holdEnds = none) :
    semaMutex g w s =
      let c := getCore s g
      settle (wake c.part (retireS g (rdOf w) 0 (releaseMutex c.part (semOf w) false
        (modCtx c.part c.slot (fun k => { k with inherited := none, holdEnds := none }) s)))) := by
  simp only [semaMutex, hop, howner, ne_eq, not_true_eq_false, if_false, hhold, if_true]

/-! ## BAR (R179) -/

/-- A core arrives at BAR with the gleaning settings that its arrival commits (R134, R179). -/
theorem doBar_arrives (h : Issues s g 0x3D w) (hok : onlyBits w [(111, 1)] = true)
    (hu : u = commit ((Blk.die (g / 32)).base + 4) s) :
    doBar g s =
      let c := getCore s g
      refreshBlocked c.part c.slot (barCheck c.part c.slot (refreshBlocked c.part c.slot (modCore g (fun k =>
        { k with waits := .bar (flag w 0),
                 glean := { min := (gleanSet u (g / 32)).1, max := (gleanSet u (g / 32)).2 } }) u))) := by
  rw [doBar, issue_eq h hok, hu]

/-! ## CRED (R180) -/

/-- CRED that names a core of the context does what its op says (R180). -/
theorem doCred_peer (h : Issues s g 0x3E w) (hok : onlyBits w [(107, 4), (100, 7), (84, 16), (111, 3)] = true)
    (hpeer : wf w 100 7 < (getCtx s (getCore s g).part (getCore s g).slot).cores) : doCred g s = credStep g w s := by
  rw [doCred, issue_eq h hok]
  exact if_neg (Nat.not_le.mpr hpeer)

/-- The producer acquires credits that the depth and the releases leave it (R180). -/
theorem credStep_acquire (hop : wf w 111 2 = 1) (hopen : ((getCore s g).getCred (wf w 107 4)).isOpen = true)
    (hprod : ((getCore s g).getCred (wf w 107 4)).consumer = false)
    (hleft : ((getCore s g).getCred (wf w 107 4)).acquired + wf w 84 16 ≤
      ((getCore s g).getCred (wf w 107 4)).depth + ((getCore s g).getCred (wf w 107 4)).released) :
    credStep g w s =
      nextPc g (credBoth g (wf w 107 4) (fun e => { e with acquired := (e.acquired + wf w 84 16) % 2 ^ 64 }) s) := by
  simp only [credStep, hop, hopen, hprod, Bool.not_true, Bool.or_self, Bool.false_eq_true, if_false, hleft, if_true]

/-- The consumer releases credits (R180). -/
theorem credStep_release (hop : wf w 111 2 = 2) (hopen : ((getCore s g).getCred (wf w 107 4)).isOpen = true)
    (hcons : ((getCore s g).getCred (wf w 107 4)).consumer = true) :
    credStep g w s =
      nextPc g (credBoth g (wf w 107 4) (fun e => { e with released := (e.released + wf w 84 16) % 2 ^ 64 }) s) := by
  simp only [credStep, hop, hopen, hcons, Bool.not_true, Bool.or_self, Bool.false_eq_true, if_false]

/-! ## EVT (R181) -/

section
variable (h : Issues s g 0x3F w)
  (hok : onlyBits w ([(88, 8), (111, 1)] ++ if flag w 0 then [fRa, fRb] else []) = true)
include h hok

/-- EVT of vectors 5 to 61 sends the VF's interrupt, outside replay mode (R181, R464). -/
theorem doEvt_interrupt (hint : flag w 0 = false) (hlo : 5 ≤ wf w 88 8) (hhi : wf w 88 8 ≤ 61)
    (hreplay : inReplay s (getCore s g).part (getCore s g).slot = false) :
    doEvt g s = nextPc g (sendMsix (getCore s g).part (wf w 88 8) s) := by
  rw [doEvt, issue_eq h hok]
  simp only [hint, Nat.not_lt.mpr hlo, Nat.not_lt.mpr hhi, decide_false, Bool.or_self, Bool.false_eq_true, if_false,
    hreplay]

/-- EVT of a record of streams 0 to 63 writes it once the DMA queues are empty and its source is free (R181). -/
theorem doEvt_record (hrec : flag w 0 = true) (hn : wf w 88 8 ≤ 63) (hdma0 : (getCore s g).dma0 = [])
    (hdma1 : (getCore s g).dma1 = []) (hfree : hazard s g false ((getCore s g).getS (raOf w)).toNat 64 = false)
    (hc : Completes s g (evtWrite g (wf w 88 8) ((getCore s g).getS (raOf w)).toNat
      ((getCore s g).getS (rbOf w)).toNat) u) : doEvt g s = nextPc g u := by
  rw [doEvt, issue_eq h hok, if_pos hrec]
  simp only [Nat.not_lt.mpr hn, decide_false, Bool.false_and, Bool.false_eq_true, if_false, hdma0, hdma1, hfree,
    List.isEmpty_nil, Bool.not_false, Bool.and_self, if_true, runX_completes hc]

end

end

/-! ## The mesh (R142, R148) -/

/-- A packet lost on the mesh is recorded at the core and the die and tears its context down (R142, R148). -/
theorem doMeshPacketLost_inUse {t die c vc p k : Nat} {s u : State}
    (hu : u = record (2 + die) 0x0404 [.id1 die, .id1 c, .code1 vc] p k
      (stick ((Blk.die die).base + 0x10) 1 3 (some (8, 5, c))
        (stick ((Blk.core (32 * die + c)).base + 0x10) 2 3 none (advance t s))))
    (hst : (getCtx u p k).st ≠ .free) :
    doMeshPacketLost t die c vc p k s =
      let x := getCore (advance t s) (32 * die + c)
      let mine := x.role = .placed && x.part = p && x.slot = k
      settle (teardown p k 0x0200 (if mine then x.idx else 0) (if mine then x.pc else 0) 0 none u) := by
  subst hu
  exact if_neg hst

end Sys2Proof.Machine

/-! # The obligations of spec/04_core.md -/

section
open Sys2Proof Sys2Proof.Machine

/-- Settles O14, access by access: each address is good, free and clean, so no access takes its error path. -/
theorem coreLoadsAndStores : Obligations.CoreLoadsAndStores := by
  refine ⟨?ldSpecial, ?ld, ?st, ?stNumctl, ?tdld, ?tdst, ?fill⟩
  case ldSpecial =>
    rintro g v w u s ⟨h, hok, hspecial, hv⟩
    exact congrArg Host.Outcome.next (doLd_special h hok hspecial hv)
  case ld =>
    rintro g a w s ⟨h, hok, hmem, hsp⟩ ⟨ha, hfree, hecc, hinj⟩
    exact congrArg Host.Outcome.next (doLd_scratchpad h hok hmem hsp (eq_ok_of_toOption ha) hfree hecc hinj)
  case st =>
    rintro g a w s ⟨h, hok, hmem⟩ ⟨ha, hfree⟩
    exact congrArg Host.Outcome.next (doSt_memory h hok hmem (eq_ok_of_toOption ha) hfree)
  case stNumctl =>
    rintro g w s ⟨h, hok, hspecial, hreg, hv⟩
    exact congrArg Host.Outcome.next (doSt_numctl h hok hspecial hreg hv)
  case tdld =>
    rintro g a w s ⟨h, hok⟩ ⟨ha, hfree, hecc, hinj⟩
    exact congrArg Host.Outcome.next (doTdld_clean h hok (eq_ok_of_toOption ha) hfree hecc hinj)
  case tdst =>
    rintro g a w s ⟨h, hok⟩ ⟨ha, hfree⟩
    exact congrArg Host.Outcome.next (doTdst_free h hok (eq_ok_of_toOption ha) hfree)
  case fill =>
    rintro t g l bs c x s ⟨hc, hissue, hl, hpc, hword⟩ ⟨hx, hread⟩
    exact congrArg Host.Outcome.next (doIcacheFill_missing hc hissue hl hpc hword hx (read_ok hread rfl))

/-- Settles O17, instruction by instruction: each finds its operands free and its condition met, so it neither waits nor
faults; a queue's entries and a lost packet go their one way. -/
theorem coresMoveDataAndSynchronise : Obligations.CoresMoveDataAndSynchronise := by
  refine ⟨?dma, ?dmaw, ?entryStart, ?entryDone, ?haloSend, ?haloWait, ?haloRelease, ?prefBanks, ?prefLines, ?semaSet,
    ?tryLock, ?unlock, ?bar, ?acquire, ?release, ?evtInterrupt, ?evtRecord, ?packetLost⟩
  case dma =>
    rintro g w u s ⟨h, hok⟩ hroom ⟨hsrc, hdst⟩ hc
    exact congrArg Host.Outcome.next (doDma_joins h hok hroom hsrc hdst hc)
  case dmaw =>
    rintro g w s ⟨h, hok⟩ hd
    exact congrArg Host.Outcome.next (doDmaw_done h hok hd)
  case entryStart =>
    rintro t g q i e rows v s ⟨hrole, hstop, hres⟩ ⟨hi, he⟩ ⟨hv, hread⟩
    exact congrArg Host.Outcome.next (dmaStart_reads hrole hstop hres hi he (run_eq_ok hread hv))
  case entryDone =>
    rintro t g q e r d v s ⟨hrole, hstop, hq, hd⟩ ⟨hv, hwrite⟩
    exact congrArg Host.Outcome.next (dmaFinish_writes hrole hstop hq hd (run_eq_ok (toOption_of_isOk hwrite) hv))
  case haloSend =>
    rintro g n w u s ⟨h, hok, hop⟩ ⟨hpeer, hin⟩ ⟨hn, hfull⟩ ⟨hfree, hc⟩
    exact congrArg Host.Outcome.next (doHalo_send h hok hin hop hpeer hn hfull hfree hc)
  case haloWait =>
    rintro g w s ⟨h, hok, hop⟩ ⟨hpeer, hin⟩ hholds
    exact congrArg Host.Outcome.next ((doHalo_wait h hok hin hop hpeer).trans (if_pos hholds))
  case haloRelease =>
    rintro g w s ⟨h, hok, hop⟩ ⟨hpeer, hin⟩ ⟨hholds, hruns⟩
    exact congrArg Host.Outcome.next ((doHalo_release h hok hin hop hpeer).trans (haloRelease_holds hholds hruns))
  case prefBanks =>
    rintro g w s ⟨h, hok, hbanks⟩ hfree
    exact congrArg Host.Outcome.next (doPref_banks h hok hbanks hfree)
  case prefLines =>
    rintro g w s ⟨h, hok, hlines⟩ ⟨hlo, hhi⟩
    exact congrArg Host.Outcome.next (doPref_lines h hok hlines hlo hhi)
  case semaSet =>
    rintro g w s ⟨h, hok, hop, hcond, hsem⟩ hreplay
    exact congrArg Host.Outcome.next
      ((doSema_count h hok hcond (by omega) hsem).trans (semaCount_set hop hreplay))
  case tryLock =>
    rintro g w s ⟨h, hok, hop, hcond, hsem⟩ hfree
    exact congrArg Host.Outcome.next
      ((doSema_mutex h hok hcond (by omega) (by omega) hsem).trans (semaMutex_tryLock_free hop hfree))
  case unlock =>
    rintro g w s ⟨h, hok, hop, hcond, hsem⟩ ⟨howner, hhold⟩
    exact congrArg Host.Outcome.next
      ((doSema_mutex h hok hcond (by omega) (by omega) hsem).trans (semaMutex_unlock_owned hop howner hhold))
  case bar =>
    rintro g w u s ⟨h, hok, hu⟩
    exact congrArg Host.Outcome.next (doBar_arrives h hok hu)
  case acquire =>
    rintro g w s ⟨h, hok, hpeer⟩ ⟨hop, hopen, hprod⟩ hleft
    exact congrArg Host.Outcome.next ((doCred_peer h hok hpeer).trans (credStep_acquire hop hopen hprod hleft))
  case release =>
    rintro g w s ⟨h, hok, hpeer⟩ ⟨hop, hopen, hcons⟩
    exact congrArg Host.Outcome.next ((doCred_peer h hok hpeer).trans (credStep_release hop hopen hcons))
  case evtInterrupt =>
    rintro g w s ⟨h, hok, hint⟩ ⟨hlo, hhi, hreplay⟩
    exact congrArg Host.Outcome.next (doEvt_interrupt h hok hint hlo hhi hreplay)
  case evtRecord =>
    rintro g w u s ⟨h, hok, hrec⟩ ⟨hn, hdma0, hdma1, hfree⟩ hc
    exact congrArg Host.Outcome.next (doEvt_record h hok hrec hn hdma0 hdma1 hfree hc)
  case packetLost =>
    rintro t die c vc p k u s hu hst
    exact congrArg Host.Outcome.next (doMeshPacketLost_inUse hu hst)

end

/-! # Scalar and control instructions: what they do, and that they change their core alone -/

namespace Sys2Proof.Machine

section
variable {g : Nat} {w : InstrWord} {s : State}

/-! ## Scalar instructions (R151, R153, R162) -/

/-- s[0] reads as 0 (R153). -/
@[simp] theorem Core.getS_zero (c : Core) : c.getS 0 = 0 := if_pos rfl

/-- A write of s[0] is discarded (R153). -/
@[simp] theorem Core.setS_zero (c : Core) (v : DWord) : c.setS 0 v = c := if_pos rfl

/-- An ALU instruction that issues writes its result of s[ra] and b into s[rd] and goes on (R162). -/
theorem alu_issues {op : Nat} {flags : List (Nat × Nat)} {f : InstrWord → DWord → DWord → DWord}
    (h : Issues s g op w) (hok : okB w flags = true) :
    alu g op flags f s = retireS g (rdOf w) (f w ((getCore s g).getS (raOf w)) (opB (getCore s g) w)) s :=
  issue_eq h hok

/-- LI writes imm (R162). -/
theorem doLi_issues (h : Issues s g 0x18 w) (hok : onlyBits w [fRd, fImm] = true) :
    doLi g s = retireS g (rdOf w) (BitVec.ofNat 64 (immOf w)) s :=
  issue_eq h hok

/-- CMP with a condition code that R162 defines writes whether the condition holds. -/
theorem doCmp_defined {r : Bool} (h : Issues s g 0x1B w) (hok : okB w [(113, 3)] = true)
    (hr : condHolds (wf w 113 3) ((getCore s g).getS (raOf w)) (opB (getCore s g) w) = some r) :
    doCmp g s = retireS g (rdOf w) (BitVec.ofNat 64 (b2n r)) s := by
  rw [doCmp, issue_eq h hok]
  simp only [hr]

/-! ## NOP, BR and BRC (R162) -/

theorem doInstructionNop_issues (h : Issues s g 0x00 w) (hok : onlyBits w [fImm] = true) :
    doInstructionNop g s = nextPc g s :=
  issue_eq h hok

/-- A taken branch below count goes to its target. -/
theorem jump_below {t : Nat} (ht : t < (getCore s g).count) : jump g t s = modCore g (fun c => { c with pc := t }) s :=
  if_neg (Nat.not_le.mpr ht)

theorem doBr_below (h : Issues s g 0x01 w) (hok : onlyBits w [(0, 32)] = true)
    (ht : wf w 0 32 < (getCore s g).count) : doBr g s = modCore g (fun c => { c with pc := wf w 0 32 }) s :=
  (issue_eq h hok).trans (jump_below ht)

section
variable (h : Issues s g 0x02 w) (hok : onlyBits w [(0, 32), fRa, fRb, (111, 3)] = true)
include h hok

theorem doBrc_taken (ht : wf w 0 32 < (getCore s g).count)
    (hc : condHolds (wf w 111 3) ((getCore s g).getS (raOf w)) ((getCore s g).getS (rbOf w)) = some true) :
    doBrc g s = modCore g (fun c => { c with pc := wf w 0 32 }) s := by
  rw [doBrc, issue_eq h hok]
  simp only [hc, jump_below ht]

/-- A branch that is not taken goes on, whatever its target. -/
theorem doBrc_notTaken
    (hc : condHolds (wf w 111 3) ((getCore s g).getS (raOf w)) ((getCore s g).getS (rbOf w)) = some false) :
    doBrc g s = nextPc g s := by
  rw [doBrc, issue_eq h hok]
  simp only [hc]

end

/-! ## LOOP and ENDL (R163) -/

section
variable (h : Issues s g 0x03 w)
  (hok : (onlyBits w ([fImm, (111, 1)] ++ if flag w 0 then [fRa] else []) && wf w 116 6 = 0) = true)
  (he : (getCore s g).pc < wf w 0 32)
include h hok he

/-- LOOP with a count of 0 skips its body and pushes nothing. -/
theorem doLoop_zero (hn : (if flag w 0 then ((getCore s g).getS (raOf w)).toNat else wf w 32 32) = 0) :
    doLoop g s = modCore g (fun c => { c with pc := wf w 0 32 + 1 }) s := by
  rw [doLoop, issue_eq h hok]
  simp only [Nat.not_le.mpr he, if_false, hn, if_true]

/-- LOOP on a full loop stack faults. -/
theorem doLoop_full (hn : (if flag w 0 then ((getCore s g).getS (raOf w)).toNat else wf w 32 32) ≠ 0)
    (hfull : 16 ≤ (getCore s g).loops.length) : doLoop g s = stopCore g 0x04 0 s := by
  rw [doLoop, issue_eq h hok]
  simp only [Nat.not_le.mpr he, if_false, hn, hfull, if_true]

/-- LOOP on a stack with room pushes its start, end and count and enters its body. -/
theorem doLoop_pushes {n : Nat} (hn : n = if flag w 0 then ((getCore s g).getS (raOf w)).toNat else wf w 32 32)
    (hpos : n ≠ 0) (hroom : (getCore s g).loops.length < 16) :
    doLoop g s = modCore g (fun c =>
      { c with loops := { start := c.pc + 1, stop := wf w 0 32, left := n } :: c.loops, pc := c.pc + 1 }) s := by
  rw [doLoop, issue_eq h hok]
  simp only [Nat.not_le.mpr he, if_false, ← hn, hpos, Nat.not_le.mpr hroom]

end

section
variable (h : Issues s g 0x04 w) (hok : (onlyBits w [fImm] && wf w 116 6 = 0) = true)
include h hok

/-- ENDL that ends no loop on top of the stack faults: the stack is empty, or its top ends at another pc. -/
theorem doEndl_noLoop (hno : ∀ l r, (getCore s g).loops = l :: r → l.stop ≠ (getCore s g).pc) :
    doEndl g s = stopCore g 0x04 0 s := by
  rw [doEndl, issue_eq h hok]
  cases hl : (getCore s g).loops with
  | nil => simp only [hl]
  | cons l r => simp only [hl, hno l r hl, ne_eq, not_false_eq_true, if_true]

/-- ENDL at its loop's end drops the entry at the last pass, and else counts one pass off and goes back. -/
theorem doEndl_top {l : LoopEnt} {r : List LoopEnt} (hl : (getCore s g).loops = l :: r)
    (hstop : l.stop = (getCore s g).pc) :
    doEndl g s = modCore g (fun c =>
      if l.left = 1 then { c with loops := r, pc := c.pc + 1 }
      else { c with loops := { l with left := l.left - 1 } :: r, pc := l.start }) s := by
  rw [doEndl, issue_eq h hok]
  simp only [hl, hstop, ne_eq, not_true_eq_false, if_false]
  by_cases hlast : l.left = 1
  · simp only [hlast, if_true]
  · simp only [hlast, if_false]

end

/-! ## CALL and RET (R163) -/

section
variable (h : Issues s g 0x05 w) (hok : onlyBits w [(0, 32)] = true)
include h hok

/-- CALL on a full call stack faults, whatever its target. -/
theorem doCall_full (hfull : 32 ≤ (getCore s g).calls.length) : doCall g s = stopCore g 0x04 0 s := by
  rw [doCall, issue_eq h hok, if_pos hfull]

theorem doCall_pushes (ht : wf w 0 32 < (getCore s g).count) (hroom : (getCore s g).calls.length < 32) :
    doCall g s = modCore g (fun c => { c with calls := (c.pc + 1) :: c.calls, pc := wf w 0 32 }) s := by
  rw [doCall, issue_eq h hok, if_neg (Nat.not_le.mpr hroom), if_neg (Nat.not_le.mpr ht)]

end

section
variable (h : Issues s g 0x06 w) (hok : onlyBits w [fImm] = true)
include h hok

theorem doRet_empty (hempty : (getCore s g).calls = []) : doRet g s = stopCore g 0x04 0 s := by
  rw [doRet, issue_eq h hok]
  simp only [hempty]

theorem doRet_top {a : Nat} {r : List Nat} (htop : (getCore s g).calls = a :: r) :
    doRet g s = modCore g (fun c => { c with calls := r, pc := a }) s := by
  rw [doRet, issue_eq h hok]
  simp only [htop]

end

/-! ## HALT, YIELD, TRAP and the reserved opcodes (R152, R161, R164) -/

/-- HALT with nothing under way on its core stops the core, and the run ends where it was the last (R164). -/
theorem doHalt_quiet (h : Issues s g 0x07 w) (hok : onlyBits w [fImm] = true) (hdma0 : (getCore s g).dma0 = [])
    (hdma1 : (getCore s g).dma1 = []) (hruns : (getCore s g).runs = []) :
    doHalt g s =
      let c := getCore s g
      settle (haltCheck c.part c.slot (refreshBlocked c.part c.slot (modCore g (fun k => { k with waits := .halted }) s))) := by
  rw [doHalt, issue_eq h hok]
  simp only [hdma0, hdma1, hruns, List.isEmpty_nil, Bool.and_self, if_true]

section
variable {p k : Nat} {u : State} (h : Issues s g 0x08 w) (hok : onlyBits w [fImm] = true)
  (hp : p = (getCore s g).part) (hk : k = (getCore s g).slot)
  (hu : u = refreshBlocked p k (modCore g (fun c => { c with waits := .yielded }) s))
include h hok hp hk hu

/-- YIELD of a core that is not the last to arrive waits (R164). -/
theorem doYield_arrives (hall : (getCtx u p k).place.all (fun g => (getCore u g).waits = .yielded) = false) :
    doYield g s = u := by
  subst hp hk hu
  rw [doYield, issue_eq h hok]
  simp only [hall, Bool.false_eq_true, if_false]

/-- The last YIELD releases the cores, and a context of equal priority that waits takes them (R164). -/
theorem doYield_last {v : State} (hall : (getCtx u p k).place.all (fun g => (getCore u g).waits = .yielded) = true)
    (hv : v = refreshBlocked p k (resume (getCtx u p k).place u)) :
    doYield g s = settle (if equalReady v p k then heelNow p k .quantum v else v) := by
  subst hp hk hu hv
  rw [doYield, issue_eq h hok]
  simp only [hall, if_true]

end

/-- TRAP faults with its code (R161). -/
theorem doTrap_issues (h : Issues s g 0x09 w) (hok : onlyBits w [fImm] = true) :
    doTrap g s = settle (coreFault g 0x0D (wf w 0 16) 0 s) :=
  issue_eq h hok

/-- A reserved opcode faults (R152). -/
theorem doIllegalOpcode_reserved (hw : (getCore s g).word = some w) (hi : mayIssue s g = true)
    (hop : reservedOp (opOf w) = true) : doIllegalOpcode g s = stopCore g 0x01 0 s := by
  simp only [doIllegalOpcode, hw, hi, hop, Bool.and_self, if_true]

/-! ## What a scalar or control instruction can do -/

/-- The states a scalar or control instruction of core `g` can lead to: it waits, it faults, it moves the pc and the
stacks of its core, or it writes s[rd] of its word and goes on. -/
inductive ScalarOutcome (g : Nat) (s : State) : State → Prop
  | waits : ScalarOutcome g s s
  | faults (cause : Nat) : ScalarOutcome g s (stopCore g cause 0 s)
  | moves (f : Core → Core) (hf : ∀ c, f c = { c with pc := (f c).pc, loops := (f c).loops, calls := (f c).calls }) :
      ScalarOutcome g s (modCore g f s)
  | retires (w : InstrWord) (hw : (getCore s g).word = some w) (v : DWord) : ScalarOutcome g s (retireS g (rdOf w) v s)

/-- What goes through is one change of the core: s[rd] of its word, or none (s[0]), beside the pc and the stacks. -/
theorem ScalarOutcome.change {u : State} (h : ScalarOutcome g s u) :
    u = s ∨ (∃ cause, u = stopCore g cause 0 s) ∨
      ∃ (f : Core → Core) (rd : Nat) (v : DWord), u = modCore g f s ∧
        (rd = 0 ∨ ∃ w, (getCore s g).word = some w ∧ rd = rdOf w) ∧
        ∀ x, f x = { x.setS rd v with pc := (f x).pc, loops := (f x).loops, calls := (f x).calls } := by
  cases h with
  | waits => exact .inl rfl
  | faults cause => exact .inr (.inl ⟨cause, rfl⟩)
  | moves f hf => exact .inr (.inr ⟨f, 0, 0, rfl, .inl rfl, fun x => by rw [Core.setS_zero]; exact hf x⟩)
  | retires w hw v => exact .inr (.inr ⟨_, rdOf w, v, rfl, .inr ⟨w, hw, rfl⟩, fun x => rfl⟩)

/-- Going on to the next instruction moves the pc. -/
theorem ScalarOutcome.next : ScalarOutcome g s (nextPc g s) := .moves _ fun _ => rfl

theorem jump_outcome (t : Nat) : ScalarOutcome g s (jump g t s) := by
  unfold jump
  split
  · exact .faults 0x03
  · exact .moves _ fun _ => rfl

/-- Issuing adds nothing to what the instruction does: a core that does not issue waits, a malformed word faults, and a
predicate that does not hold goes on (R151, R160). -/
theorem issue_outcome {op : Nat} {ok : InstrWord → Bool} {body : InstrWord → State → State}
    (hb : ∀ w, (getCore s g).word = some w → ScalarOutcome g s (body w s)) :
    ScalarOutcome g s (issue g op ok body s) := by
  cases hw : (getCore s g).word with
  | none =>
    simp only [issue, hw]
    exact .waits
  | some w =>
    simp only [issue, hw, checked]
    split
    · split
      · exact .faults 0x02
      · split
        · exact hb w hw
        · exact .next
    · exact .waits

theorem alu_outcome (op : Nat) (flags : List (Nat × Nat)) (f : InstrWord → DWord → DWord → DWord) :
    ScalarOutcome g s (alu g op flags f s) :=
  issue_outcome fun w hw => .retires w hw _

theorem doLi_outcome : ScalarOutcome g s (doLi g s) := issue_outcome fun w hw => .retires w hw _

theorem doCmp_outcome : ScalarOutcome g s (doCmp g s) :=
  issue_outcome fun w hw => by
    dsimp only
    split
    · exact .faults 0x13
    · exact .retires w hw _

theorem doInstructionNop_outcome : ScalarOutcome g s (doInstructionNop g s) := issue_outcome fun _ _ => .next

theorem doBr_outcome : ScalarOutcome g s (doBr g s) := issue_outcome fun w _ => jump_outcome (wf w 0 32)

theorem doBrc_outcome : ScalarOutcome g s (doBrc g s) :=
  issue_outcome fun w _ => by
    dsimp only
    split
    · exact .faults 0x13
    · exact jump_outcome (wf w 0 32)
    · exact .next

theorem doLoop_outcome : ScalarOutcome g s (doLoop g s) :=
  issue_outcome fun w _ => by
    dsimp only
    generalize (if flag w 0 then ((getCore s g).getS (raOf w)).toNat else wf w 32 32) = n
    split
    · exact .faults 0x13
    · split
      · exact .moves _ fun _ => rfl
      · split
        · exact .faults 0x04
        · exact .moves _ fun _ => rfl

theorem doEndl_outcome : ScalarOutcome g s (doEndl g s) :=
  issue_outcome fun _ _ => by
    dsimp only
    split
    · exact .faults 0x04
    · split
      · exact .faults 0x04
      · split
        · exact .moves _ fun _ => rfl
        · exact .moves _ fun _ => rfl

theorem doCall_outcome : ScalarOutcome g s (doCall g s) :=
  issue_outcome fun _ _ => by
    dsimp only
    split
    · exact .faults 0x04
    · split
      · exact .faults 0x03
      · exact .moves _ fun _ => rfl

theorem doRet_outcome : ScalarOutcome g s (doRet g s) :=
  issue_outcome fun _ _ => by
    split
    · exact .faults 0x04
    · exact .moves _ fun _ => rfl

/-- Every instruction of `scalarOps` has one of the outcomes of a scalar instruction. -/
theorem exec_scalarOps {c : Instr} {u : State} (hc : c ∈ scalarOps g) (hu : exec c s = .next u) : ScalarOutcome g s u := by
  suffices h : ∃ v, exec c s = .next v ∧ ScalarOutcome g s v by
    obtain ⟨v, hv, ho⟩ := h
    obtain rfl : v = u := Host.Outcome.next.inj (hv.symm.trans hu)
    exact ho
  simp only [scalarOps, List.mem_cons, List.not_mem_nil, or_false] at hc
  rcases hc with rfl | rfl | rfl | rfl | rfl | rfl | rfl | rfl | rfl | rfl | rfl | rfl | rfl | rfl | rfl | rfl | rfl |
    rfl | rfl
  iterate 10 exact ⟨_, rfl, alu_outcome ..⟩
  · exact ⟨_, rfl, doLi_outcome⟩
  · exact ⟨_, rfl, doCmp_outcome⟩
  · exact ⟨_, rfl, doInstructionNop_outcome⟩
  · exact ⟨_, rfl, doBr_outcome⟩
  · exact ⟨_, rfl, doBrc_outcome⟩
  · exact ⟨_, rfl, doLoop_outcome⟩
  · exact ⟨_, rfl, doEndl_outcome⟩
  · exact ⟨_, rfl, doCall_outcome⟩
  · exact ⟨_, rfl, doRet_outcome⟩

end

end Sys2Proof.Machine

/-! # The obligations of spec/05_isa.md -/

section
open Sys2Proof Sys2Proof.Machine

/-- Settles O60: each instruction has one of the outcomes of a scalar instruction (`exec_scalarOps`), and a change of one
core of a canonical table leaves the others. -/
theorem scalarInstructionsChangeTheirCoreAlone : Obligations.ScalarInstructionsChangeTheirCoreAlone :=
  ⟨fun _ _ _ _ ⟨hc, hu⟩ => (exec_scalarOps hc hu).change,
    fun g k f s ⟨hw, hk⟩ => ⟨getCore_modCore_ne g k f s hw hk, getCore_modCore_self g f s hw, rfl⟩⟩

/-- Settles O12: the ten ALU instructions by the one equation of an ALU instruction that issues, LI and CMP by theirs. -/
theorem scalarArithmetic : Obligations.ScalarArithmetic := by
  refine ⟨fun c v => ⟨c.getS_zero, c.setS_zero v⟩, ?add, ?sub, ?mul, ?and, ?or, ?xor, ?shl, ?shr, ?min, ?max, ?li, ?cmp⟩
  case li => exact fun _ _ _ ⟨h, hok⟩ => congrArg Host.Outcome.next (doLi_issues h hok)
  case cmp => exact fun _ _ _ _ ⟨h, hok⟩ hr => congrArg Host.Outcome.next (doCmp_defined h hok hr)
  all_goals exact fun _ _ _ ⟨h, hok⟩ => congrArg Host.Outcome.next (alu_issues h hok)

/-- Settles O13, instruction by instruction: each issues with a well-formed word and meets its condition. -/
theorem coreControlFlow : Obligations.CoreControlFlow := by
  refine ⟨?nop, ?br, ?taken, ?notTaken, ?loop, ?skip, ?endl, ?call, ?ret, ?halt, ?arrives, ?last, ?trap, ?reserved⟩
  case nop => exact fun g w s ⟨h, hok⟩ => congrArg Host.Outcome.next (doInstructionNop_issues h hok)
  case br => exact fun g w s ⟨h, hok, ht⟩ => congrArg Host.Outcome.next (doBr_below h hok ht)
  case taken => exact fun g w s ⟨h, hok, ht⟩ hc => congrArg Host.Outcome.next (doBrc_taken h hok ht hc)
  case notTaken => exact fun g w s ⟨h, hok⟩ hc => congrArg Host.Outcome.next (doBrc_notTaken h hok hc)
  case loop =>
    exact fun g n w s ⟨h, hok⟩ ⟨hn, hpos, he, hroom⟩ =>
      congrArg Host.Outcome.next (doLoop_pushes h hok he hn hpos hroom)
  case skip => exact fun g w s ⟨h, hok⟩ ⟨hn, he⟩ => congrArg Host.Outcome.next (doLoop_zero h hok he hn)
  case endl => exact fun g w l r s ⟨h, hok⟩ ⟨hl, hstop⟩ => congrArg Host.Outcome.next (doEndl_top h hok hl hstop)
  case call => exact fun g w s ⟨h, hok, ht, hroom⟩ => congrArg Host.Outcome.next (doCall_pushes h hok ht hroom)
  case ret => exact fun g a r w s ⟨h, hok, htop⟩ => congrArg Host.Outcome.next (doRet_top h hok htop)
  case halt =>
    exact fun g w s ⟨h, hok⟩ ⟨hdma0, hdma1, hruns⟩ =>
      congrArg Host.Outcome.next (doHalt_quiet h hok hdma0 hdma1 hruns)
  case arrives =>
    exact fun g p k u w s ⟨h, hok, hp, hk⟩ hu hall => congrArg Host.Outcome.next (doYield_arrives h hok hp hk hu hall)
  case last =>
    exact fun g p k u v w s ⟨h, hok, hp, hk⟩ hu hall hv =>
      congrArg Host.Outcome.next (doYield_last h hok hp hk hu hall hv)
  case trap => exact fun g w s ⟨h, hok⟩ => congrArg Host.Outcome.next (doTrap_issues h hok)
  case reserved =>
    exact fun g w s ⟨hw, hi, hop⟩ => congrArg Host.Outcome.next (doIllegalOpcode_reserved hw hi hop)

/-- Settles O50, at each end of the two stacks; below their limits by the lemmas of O13. -/
theorem loopAndCallStacksOverflowAndUnderflow : Obligations.LoopAndCallStacksOverflowAndUnderflow := by
  refine ⟨?skip, ?loopFull, ?loop, ?noLoop, ?endl, ?callFull, ?call, ?retEmpty, ?br⟩
  case skip => exact fun g w s ⟨h, hok⟩ ⟨hn, he⟩ => congrArg Host.Outcome.next (doLoop_zero h hok he hn)
  case loopFull =>
    exact fun g w s ⟨h, hok⟩ ⟨hn, he, hfull⟩ => congrArg Host.Outcome.next (doLoop_full h hok he hn (Nat.le_of_eq hfull.symm))
  case loop =>
    exact fun g n w s ⟨h, hok⟩ ⟨hn, hpos, he, hroom⟩ =>
      congrArg Host.Outcome.next (doLoop_pushes h hok he hn hpos hroom)
  case noLoop => exact fun g w s ⟨h, hok⟩ hno => congrArg Host.Outcome.next (doEndl_noLoop h hok hno)
  case endl => exact fun g w l r s ⟨h, hok⟩ ⟨hl, hstop⟩ => congrArg Host.Outcome.next (doEndl_top h hok hl hstop)
  case callFull => exact fun g w s ⟨h, hok, hfull⟩ => congrArg Host.Outcome.next (doCall_full h hok (Nat.le_of_eq hfull.symm))
  case call => exact fun g w s ⟨h, hok, ht, hroom⟩ => congrArg Host.Outcome.next (doCall_pushes h hok ht hroom)
  case retEmpty => exact fun g w s ⟨h, hok, hempty⟩ => congrArg Host.Outcome.next (doRet_empty h hok hempty)
  case br => exact fun g w s ⟨h, hok, ht⟩ => congrArg Host.Outcome.next (doBr_below h hok ht)

end

/-! # Rounding: the grid of a format, and what is nearest on it -/

namespace Sys2Proof.Machine

/-! ## The distance of two numbers -/

/-- The distance of two natural numbers. -/
def away (a b : Nat) : Nat := a - b + (b - a)

theorem away_mul (a b c : Nat) : away (a * c) (b * c) = away a b * c := by
  simp only [away, Nat.add_mul, Nat.sub_mul]

theorem eq_of_away_eq_zero {a b : Nat} (h : away a b = 0) : a = b := by
  simp only [away] at h
  omega

theorem natAbs_sub_eq_away (a b : Nat) : ((a : Int) - b).natAbs = away a b := by
  simp only [away]
  omega

/-! ## The nearest integer -/

section
variable {n d : Nat} (hd : 0 < d)
include hd

/-- An integer at or below a quotient misses it by its remainder at least, one above by what the remainder lacks. -/
theorem min_le_away (j : Nat) : min (n % d) (d - n % d) ≤ away (j * d) n := by
  have hn := Nat.div_add_mod' n d
  simp only [away]
  rcases Nat.lt_or_ge (n / d) j with h | h
  · have := Nat.mul_le_mul_right d h
    rw [Nat.succ_mul] at this
    omega
  · have := Nat.mul_le_mul_right d h
    omega

/-- Only the integers on either side of a quotient can be its nearest. -/
theorem beside_of_away_le {j : Nat} (h : away (j * d) n ≤ min (n % d) (d - n % d)) :
    j = n / d ∧ 2 * (n % d) ≤ d ∨ j = n / d + 1 ∧ d ≤ 2 * (n % d) := by
  have hn := Nat.div_add_mod' n d
  have hr := Nat.mod_lt n hd
  simp only [away] at h
  rcases Nat.lt_trichotomy j (n / d) with hj | rfl | hj
  · have := Nat.mul_le_mul_right d hj
    rw [Nat.succ_mul] at this
    omega
  · omega
  · obtain ⟨i, rfl⟩ := Nat.exists_eq_add_of_lt hj
    simp only [Nat.add_mul, Nat.one_mul] at h
    rcases Nat.eq_zero_or_pos i with rfl | hi
    · omega
    · have := Nat.mul_le_mul_right d hi
      omega

theorem roundNE_away : away (roundNE n d * d) n = min (n % d) (d - n % d) := by
  have hn := Nat.div_add_mod' n d
  have hr := Nat.mod_lt n hd
  simp only [roundNE, away]
  split
  · omega
  · split
    · rw [Nat.succ_mul]
      omega
    · rcases Nat.mod_two_eq_zero_or_one (n / d) with h | h <;> rw [h, Nat.add_mul] <;> omega

/-- No integer lies nearer to a quotient than the one it is rounded to. -/
theorem roundNE_nearest (j : Nat) : away (roundNE n d * d) n ≤ away (j * d) n :=
  roundNE_away hd ▸ min_le_away hd j

/-- Where another integer lies as near, the one rounded to is even. -/
theorem roundNE_even_of_tie {j : Nat} (hj : j ≠ roundNE n d) (h : away (j * d) n = away (roundNE n d * d) n) :
    roundNE n d % 2 = 0 := by
  have hside := beside_of_away_le hd (Nat.le_of_eq (h.trans (roundNE_away hd)))
  simp only [roundNE] at hj ⊢
  split at hj
  next hlt =>
    rw [if_pos hlt]
    omega
  next hge =>
    rw [if_neg hge]
    split at hj
    next hgt =>
      rw [if_pos hgt]
      omega
    next hle =>
      rw [if_neg hle]
      omega

end

/-! ## Powers of two beside a quotient -/

theorem shiftQ_pos (n a b : Nat) : 0 < (shiftQ n a b).2 := by
  unfold shiftQ
  split
  · exact Nat.one_pos
  · exact Nat.two_pow_pos _

/-- `shiftQ n a b` is n · 2^a / 2^b. -/
theorem shiftQ_mul (n a b : Nat) : (shiftQ n a b).1 * 2 ^ b = n * 2 ^ a * (shiftQ n a b).2 := by
  unfold shiftQ
  split
  next h => rw [Nat.mul_assoc, ← Nat.pow_add, Nat.sub_add_cancel h, Nat.mul_one]
  next h => rw [Nat.mul_assoc, ← Nat.pow_add, Nat.add_sub_cancel' (Nat.le_of_not_le h)]

/-- `log2Q` compares the quotient with the power of two that the operands' own logarithms give. -/
theorem log2Q_eq (n d off : Nat) :
    log2Q n d off =
      if n * 2 ^ off < d * 2 ^ (n.log2 + off - d.log2) then n.log2 + off - d.log2 - 1 else n.log2 + off - d.log2 := by
  unfold log2Q
  generalize n.log2 + off - d.log2 = e
  dsimp only
  split
  next h =>
    obtain ⟨i, rfl⟩ := Nat.exists_eq_add_of_le h
    simp only [Nat.add_sub_cancel_left, Nat.pow_add, Nat.mul_left_comm _ (2 ^ off), Nat.mul_comm n,
      Nat.mul_lt_mul_left (Nat.two_pow_pos off)]
  next h =>
    obtain ⟨i, rfl⟩ := Nat.exists_eq_add_of_le (Nat.le_of_not_le h)
    simp only [Nat.add_sub_cancel_left, Nat.pow_add, Nat.mul_left_comm _ (2 ^ e), Nat.mul_comm d,
      Nat.mul_lt_mul_left (Nat.two_pow_pos e)]

/-- A quotient times 2^off lies below the power of two above its `log2Q`. -/
theorem lt_log2Q (n off : Nat) {d : Nat} (hd : 0 < d) : n * 2 ^ off < d * 2 ^ (log2Q n d off + 1) := by
  rw [log2Q_eq]
  split
  next h => exact Nat.lt_of_lt_of_le h (Nat.mul_le_mul_left d (Nat.pow_le_pow_right (by decide) (by omega)))
  next =>
    calc n * 2 ^ off < 2 ^ (n.log2 + 1) * 2 ^ off := Nat.mul_lt_mul_of_pos_right Nat.lt_log2_self (Nat.two_pow_pos off)
      _ = 2 ^ (n.log2 + 1 + off) := (Nat.pow_add ..).symm
      _ ≤ 2 ^ (d.log2 + (n.log2 + off - d.log2 + 1)) := Nat.pow_le_pow_right (by decide) (by omega)
      _ = 2 ^ d.log2 * 2 ^ (n.log2 + off - d.log2 + 1) := Nat.pow_add ..
      _ ≤ d * 2 ^ (n.log2 + off - d.log2 + 1) := Nat.mul_le_mul_right _ (Nat.log2_self_le (Nat.ne_of_gt hd))

/-- A quotient times 2^off reaches the power of two of its `log2Q`, where that is not cut to 0. -/
theorem log2Q_le {n d off : Nat} (hn : 0 < n) (h : 0 < log2Q n d off) : d * 2 ^ log2Q n d off ≤ n * 2 ^ off := by
  rw [log2Q_eq] at h ⊢
  split at h
  next hlt =>
    rw [if_pos hlt]
    calc d * 2 ^ (n.log2 + off - d.log2 - 1)
      _ ≤ 2 ^ (d.log2 + 1) * 2 ^ (n.log2 + off - d.log2 - 1) := Nat.mul_le_mul_right _ (Nat.le_of_lt Nat.lt_log2_self)
      _ = 2 ^ (d.log2 + 1 + (n.log2 + off - d.log2 - 1)) := (Nat.pow_add ..).symm
      _ = 2 ^ (n.log2 + off) := congrArg (2 ^ ·) (by omega)
      _ = 2 ^ n.log2 * 2 ^ off := Nat.pow_add ..
      _ ≤ n * 2 ^ off := Nat.mul_le_mul_right _ (Nat.log2_self_le (Nat.ne_of_gt hn))
  next hge => rwa [if_neg hge, ← Nat.not_lt]

/-! ## The grid of a format -/

/-- The exponent of the grid step above a magnitude code, counted from the subnormal step. -/
def Fpf.stepOf (f : Fpf) (k : Nat) : Nat := k / 2 ^ f.man - 1

/-- The magnitude of a code in steps of the smallest subnormal. -/
def Fpf.units (f : Fpf) (k : Nat) : Nat := (k - f.stepOf k * 2 ^ f.man) * 2 ^ f.stepOf k

theorem Fpf.magnitude_pos (f : Fpf) (k : Nat) : 0 < (f.magnitude k).2 := by
  unfold Fpf.magnitude
  dsimp only
  split <;> exact shiftQ_pos ..

theorem Fpf.magnitude_units (f : Fpf) (k : Nat) :
    (f.magnitude k).1 * 2 ^ f.sub = f.units k * (f.magnitude k).2 := by
  have hk := Nat.div_add_mod' k (2 ^ f.man)
  unfold Fpf.magnitude
  dsimp only
  split
  next he =>
    rw [shiftQ_mul]
    rw [he, Nat.zero_mul, Nat.zero_add] at hk
    simp only [Fpf.units, Fpf.stepOf, he, hk, Nat.zero_mul, Nat.zero_sub, Nat.sub_zero]
  next he =>
    rw [shiftQ_mul]
    obtain ⟨e, he⟩ := Nat.exists_eq_succ_of_ne_zero he
    simp only [Fpf.units, Fpf.stepOf, he, Nat.succ_mul, Nat.succ_sub_one] at hk ⊢
    congr 2
    omega

/-- A code counts the multiples of its grid step: from 0 for the subnormals and the first binade, from 2^man for the
others. -/
theorem Fpf.exists_code_eq (f : Fpf) (k : Nat) :
    ∃ m, k = f.stepOf k * 2 ^ f.man + m ∧ (0 < f.stepOf k → 2 ^ f.man ≤ m) ∧ m < 2 ^ (f.man + 1) := by
  have hk := Nat.div_add_mod' k (2 ^ f.man)
  have hr := Nat.mod_lt k (Nat.two_pow_pos f.man)
  unfold Fpf.stepOf
  rw [Nat.pow_succ]
  generalize k / 2 ^ f.man = e at hk
  rcases e with _ | e
  · exact ⟨k, by omega⟩
  · rw [Nat.succ_mul] at hk
    rw [Nat.add_sub_cancel]
    exact ⟨2 ^ f.man + k % 2 ^ f.man, by omega⟩

/-- The codes of one grid step count it, up to the end of its binade, which is the start of the next. -/
theorem Fpf.units_mul_add (f : Fpf) {q m : Nat} (hlo : 0 < q → 2 ^ f.man ≤ m) (hhi : m ≤ 2 ^ (f.man + 1)) :
    f.units (q * 2 ^ f.man + m) = m * 2 ^ q := by
  have hP := Nat.two_pow_pos f.man
  have hdiv : (q * 2 ^ f.man + m) / 2 ^ f.man = q + m / 2 ^ f.man := by
    rw [Nat.mul_comm, Nat.mul_add_div hP]
  rw [Nat.pow_succ] at hhi
  unfold Fpf.units Fpf.stepOf
  rw [hdiv]
  rcases Nat.lt_or_ge m (2 ^ f.man) with hsub | hnorm
  · obtain rfl : q = 0 := by omega
    simp only [Nat.div_eq_of_lt hsub, Nat.zero_mul, Nat.zero_add, Nat.zero_sub, Nat.sub_zero]
  · rcases Nat.lt_or_eq_of_le hhi with hin | rfl
    · have hone : m / 2 ^ f.man = 1 := Nat.div_eq_of_lt_le (by omega) (by omega)
      rw [hone, Nat.add_sub_cancel, Nat.add_sub_cancel_left]
    · have hend : q * 2 ^ f.man + 2 ^ f.man * 2 - (q + 1) * 2 ^ f.man = 2 ^ f.man := by
        rw [Nat.succ_mul]
        omega
      rw [Nat.mul_div_right 2 hP, show q + 2 - 1 = q + 1 from rfl, hend, Nat.pow_succ', Nat.mul_assoc]

/-- Consecutive codes are consecutive magnitudes, a grid step apart. -/
theorem Fpf.units_succ (f : Fpf) (k : Nat) : f.units (k + 1) = f.units k + 2 ^ f.stepOf k := by
  obtain ⟨m, hk, hlo, hhi⟩ := f.exists_code_eq k
  generalize f.stepOf k = q at *
  subst hk
  rw [f.units_mul_add hlo (Nat.le_of_lt hhi), Nat.add_assoc,
    f.units_mul_add (fun h => Nat.le_succ_of_le (hlo h)) hhi, Nat.succ_mul]

theorem Fpf.units_lt_succ (f : Fpf) (k : Nat) : f.units k < f.units (k + 1) :=
  f.units_succ k ▸ Nat.lt_add_of_pos_right (Nat.two_pow_pos _)

theorem Fpf.units_lt (f : Fpf) {k i : Nat} (h : k < i) : f.units k < f.units i := by
  induction h with
  | refl => exact f.units_lt_succ k
  | step _ ih => exact Nat.lt_trans ih (f.units_lt_succ _)

theorem Fpf.units_injective (f : Fpf) {k i : Nat} (h : f.units k = f.units i) : k = i := by
  rcases Nat.lt_trichotomy k i with hlt | heq | hgt
  · exact absurd h (Nat.ne_of_lt (f.units_lt hlt))
  · exact heq
  · exact absurd h (Nat.ne_of_gt (f.units_lt hgt))

/-- Beside a step of 2^q a magnitude is a multiple of it, or lies below the binades of that step, where the grid is
finer. -/
theorem Fpf.units_multiple_or_finer (f : Fpf) (q k : Nat) :
    (∃ j, f.units k = j * 2 ^ q) ∨ 0 < q ∧ f.units k < 2 ^ f.man * 2 ^ q := by
  rcases Nat.lt_or_ge (f.stepOf k) q with hlt | hge
  · obtain ⟨m, hk, -, hhi⟩ := f.exists_code_eq k
    refine .inr ⟨Nat.zero_lt_of_lt hlt, ?_⟩
    calc f.units k = m * 2 ^ f.stepOf k := congrArg (· * 2 ^ f.stepOf k) (by omega)
      _ < 2 ^ (f.man + 1) * 2 ^ f.stepOf k := Nat.mul_lt_mul_of_pos_right hhi (Nat.two_pow_pos _)
      _ = 2 ^ f.man * 2 ^ (f.stepOf k + 1) := by rw [Nat.pow_succ, Nat.pow_succ', Nat.mul_assoc]
      _ ≤ 2 ^ f.man * 2 ^ q := Nat.mul_le_mul_left _ (Nat.pow_le_pow_right (by decide) hlt)
  · refine .inl ⟨(k - f.stepOf k * 2 ^ f.man) * 2 ^ (f.stepOf k - q), ?_⟩
    rw [Nat.mul_assoc, ← Nat.pow_add, Nat.sub_add_cancel hge, Fpf.units]

/-! ## What a quotient is rounded to -/

/-- How far the magnitude of a code misses n / d, in parts of d of the smallest subnormal. -/
def Fpf.gap (f : Fpf) (n d k : Nat) : Nat := away (f.units k * d) (n * 2 ^ f.sub)

/-- The multiple of its grid step that n / d is rounded to. -/
def Fpf.multiple (f : Fpf) (n d : Nat) : Nat :=
  roundNE (f.scaled n d (f.step n d)).1 (f.scaled n d (f.step n d)).2

theorem Fpf.roundMag_eq (f : Fpf) (n d : Nat) :
    f.roundMag n d = f.step n d * 2 ^ f.man + f.multiple n d := rfl

/-- The distance of a magnitude to n / d over their denominators, in steps of the smallest subnormal, is the gap. -/
theorem Fpf.natAbs_magnitude (f : Fpf) (n d k : Nat) :
    (((f.magnitude k).1 * d : Int) - n * (f.magnitude k).2).natAbs * 2 ^ f.sub = f.gap n d k * (f.magnitude k).2 := by
  rw [← Int.natCast_mul, ← Int.natCast_mul, natAbs_sub_eq_away, Fpf.gap, ← away_mul, ← away_mul,
    Nat.mul_right_comm, f.magnitude_units, Nat.mul_right_comm, Nat.mul_right_comm n]

/-- Over the step of 2^q, multiples miss a quotient as they do in the step's own scale. -/
theorem Fpf.away_scaled (f : Fpf) (n d q j : Nat) :
    away (j * (f.scaled n d q).2) (f.scaled n d q).1 * 2 ^ q =
      away (j * 2 ^ q * d) (n * 2 ^ f.sub) * (shiftQ 1 f.sub q).2 := by
  have hshift := shiftQ_mul 1 f.sub q
  rw [Nat.one_mul] at hshift
  simp only [Fpf.scaled, ← away_mul]
  rw [Nat.mul_assoc n, hshift]
  congr 1 <;> ac_rfl

/-- A quotient reaches the start of the binade of its step, unless that is the step of the subnormals. -/
theorem Fpf.binade_start_le {f : Fpf} {n d : Nat} (h : 0 < f.step n d) :
    2 ^ f.man * 2 ^ f.step n d * d ≤ n * 2 ^ f.sub := by
  rcases Nat.eq_zero_or_pos n with rfl | hn
  · exact absurd h (Nat.lt_irrefl 0)
  · rw [Fpf.step, if_neg (Nat.ne_of_gt hn)] at h ⊢
    have hlog := log2Q_le (d := d) (off := f.sub + 2048) hn (by omega)
    generalize 2048 = g at *
    refine Nat.le_of_mul_le_mul_right (c := 2 ^ g) ?_ (Nat.two_pow_pos g)
    calc 2 ^ f.man * 2 ^ (log2Q n d (f.sub + g) - (g + f.man)) * d * 2 ^ g
      _ = d * 2 ^ (f.man + (log2Q n d (f.sub + g) - (g + f.man)) + g) := by
        rw [Nat.pow_add _ _ g, Nat.pow_add _ f.man]
        ac_rfl
      _ = d * 2 ^ log2Q n d (f.sub + g) := congrArg (d * 2 ^ ·) (by omega)
      _ ≤ n * 2 ^ (f.sub + g) := hlog
      _ = n * 2 ^ f.sub * 2 ^ g := by
        rw [Nat.pow_add]
        ac_rfl

section
variable {f : Fpf} {n d k : Nat} (hd : 0 < d)
include hd

/-- A quotient lies below the end of the binade of its step. -/
theorem Fpf.lt_binade_end : n * 2 ^ f.sub < 2 ^ (f.man + 1) * 2 ^ f.step n d * d := by
  rcases Nat.eq_zero_or_pos n with rfl | hn
  · rw [Nat.zero_mul]
    exact Nat.mul_pos (Nat.mul_pos (Nat.two_pow_pos _) (Nat.two_pow_pos _)) hd
  · rw [Fpf.step, if_neg (Nat.ne_of_gt hn)]
    have hlog := lt_log2Q n (f.sub + 2048) hd
    generalize 2048 = g at *
    refine Nat.lt_of_mul_lt_mul_right (a := 2 ^ g) ?_
    calc n * 2 ^ f.sub * 2 ^ g
      _ = n * 2 ^ (f.sub + g) := by
        rw [Nat.pow_add]
        ac_rfl
      _ < d * 2 ^ (log2Q n d (f.sub + g) + 1) := hlog
      _ ≤ d * 2 ^ (f.man + 1 + (log2Q n d (f.sub + g) - (g + f.man)) + g) :=
        Nat.mul_le_mul_left d (Nat.pow_le_pow_right (by decide) (by omega))
      _ = 2 ^ (f.man + 1) * 2 ^ (log2Q n d (f.sub + g) - (g + f.man)) * d * 2 ^ g := by
        rw [Nat.pow_add _ _ g, Nat.pow_add _ (f.man + 1)]
        ac_rfl

theorem Fpf.scaled_pos (f : Fpf) (n q : Nat) : 0 < (f.scaled n d q).2 := Nat.mul_pos hd (shiftQ_pos ..)

/-- No multiple of the step lies nearer than the one rounded to. -/
theorem Fpf.multiple_nearest (j : Nat) :
    away (f.multiple n d * 2 ^ f.step n d * d) (n * 2 ^ f.sub) ≤
      away (j * 2 ^ f.step n d * d) (n * 2 ^ f.sub) := by
  have hnear : away (f.multiple n d * _) (f.scaled n d (f.step n d)).1 ≤ _ := roundNE_nearest (f.scaled_pos hd n _) j
  have hscaled := Nat.mul_le_mul_right (2 ^ f.step n d) hnear
  rw [f.away_scaled, f.away_scaled] at hscaled
  exact Nat.le_of_mul_le_mul_right hscaled (shiftQ_pos ..)

/-- Where another multiple of the step lies as near, the one rounded to is even. -/
theorem Fpf.multiple_even_of_tie {j : Nat} (hj : j ≠ f.multiple n d)
    (h : away (j * 2 ^ f.step n d * d) (n * 2 ^ f.sub) =
      away (f.multiple n d * 2 ^ f.step n d * d) (n * 2 ^ f.sub)) : f.multiple n d % 2 = 0 := by
  refine roundNE_even_of_tie (f.scaled_pos hd n _) hj (Nat.eq_of_mul_eq_mul_right (Nat.two_pow_pos (f.step n d)) ?_)
  rw [f.away_scaled, f.away_scaled, h]
  rfl

theorem Fpf.multiple_le : f.multiple n d ≤ 2 ^ (f.man + 1) := by
  have hnear := Fpf.multiple_nearest hd (f := f) (n := n) (2 ^ (f.man + 1))
  have hstep := Fpf.lt_binade_end hd (f := f) (n := n)
  refine Nat.not_lt.mp fun hlt => ?_
  have hhigh := Nat.mul_lt_mul_of_pos_right (Nat.mul_lt_mul_of_pos_right hlt (Nat.two_pow_pos (f.step n d))) hd
  simp only [away] at hnear
  omega

theorem Fpf.le_multiple (h : 0 < f.step n d) : 2 ^ f.man ≤ f.multiple n d := by
  have hnear := Fpf.multiple_nearest hd (f := f) (n := n) (2 ^ f.man)
  have hstep := Fpf.binade_start_le h
  refine Nat.not_lt.mp fun hlt => ?_
  have hlow := Nat.mul_lt_mul_of_pos_right (Nat.mul_lt_mul_of_pos_right hlt (Nat.two_pow_pos (f.step n d))) hd
  simp only [away] at hnear
  omega

theorem Fpf.units_roundMag : f.units (f.roundMag n d) = f.multiple n d * 2 ^ f.step n d :=
  f.units_mul_add (Fpf.le_multiple hd) (Fpf.multiple_le hd)

/-- The grid below the step's binades is farther from the quotient than their start, which is a multiple of the step. -/
theorem Fpf.gap_roundMag_lt_finer (hq : 0 < f.step n d) (hk : f.units k < 2 ^ f.man * 2 ^ f.step n d) :
    f.gap n d (f.roundMag n d) < f.gap n d k := by
  have hnear := Fpf.multiple_nearest hd (f := f) (n := n) (2 ^ f.man)
  have hstep := Fpf.binade_start_le hq
  have hlow := Nat.mul_lt_mul_of_pos_right hk hd
  rw [Fpf.gap, Fpf.gap, Fpf.units_roundMag hd]
  refine Nat.lt_of_le_of_lt hnear ?_
  simp only [away]
  omega

/-- No code's magnitude lies nearer to a quotient than the one it is rounded to (R189). -/
theorem Fpf.gap_roundMag_le (k : Nat) : f.gap n d (f.roundMag n d) ≤ f.gap n d k := by
  rcases f.units_multiple_or_finer (f.step n d) k with ⟨j, hj⟩ | ⟨hq, hk⟩
  · rw [Fpf.gap, Fpf.gap, Fpf.units_roundMag hd, hj]
    exact Fpf.multiple_nearest hd j
  · exact Nat.le_of_lt (Fpf.gap_roundMag_lt_finer hd hq hk)

/-- Where another code's magnitude lies as near, the code rounded to is even (R189). -/
theorem Fpf.roundMag_even_of_tie (hman : 0 < f.man) (hk : k ≠ f.roundMag n d)
    (h : f.gap n d k = f.gap n d (f.roundMag n d)) : f.roundMag n d % 2 = 0 := by
  rcases f.units_multiple_or_finer (f.step n d) k with ⟨j, hj⟩ | ⟨hq, hfine⟩
  · have hne : j ≠ f.multiple n d := by
      rintro rfl
      exact hk (f.units_injective (hj.trans (Fpf.units_roundMag hd).symm))
    rw [Fpf.gap, Fpf.gap, Fpf.units_roundMag hd, hj] at h
    have heven := Fpf.multiple_even_of_tie hd hne h
    obtain ⟨i, hi⟩ := Nat.exists_eq_succ_of_ne_zero (Nat.ne_of_gt hman)
    rw [f.roundMag_eq, hi, Nat.pow_succ, ← Nat.mul_assoc]
    omega
  · exact absurd h (Nat.ne_of_gt (Fpf.gap_roundMag_lt_finer hd hq hfine))

end

/-- The magnitude of a code is rounded to that code: it misses itself by nothing, and no other code has it. -/
theorem Fpf.roundMag_magnitude (f : Fpf) (k : Nat) : f.roundMag (f.magnitude k).1 (f.magnitude k).2 = k := by
  have hd := f.magnitude_pos k
  have hself : f.gap (f.magnitude k).1 (f.magnitude k).2 k = 0 := by
    rw [Fpf.gap, f.magnitude_units, away, Nat.sub_self]
  have hround := eq_of_away_eq_zero (Nat.le_zero.mp (hself ▸ Fpf.gap_roundMag_le hd k))
  rw [f.magnitude_units] at hround
  exact f.units_injective (Nat.eq_of_mul_eq_mul_right hd hround)

/-- Distances of two codes' magnitudes over one denominator compare as their gaps do. -/
theorem Fpf.natAbs_magnitude_mul (f : Fpf) (n d k i : Nat) :
    (((f.magnitude k).1 * d : Int) - n * (f.magnitude k).2).natAbs * (f.magnitude i).2 * 2 ^ f.sub =
      f.gap n d k * ((f.magnitude k).2 * (f.magnitude i).2) := by
  rw [Nat.mul_right_comm, f.natAbs_magnitude, Nat.mul_assoc]

/-! ## Codes and their values -/

/-- A code is its sign bit and its magnitude code (R186). -/
theorem signBit_add_mod {f : Fpf} {code : Nat} (hbits : 0 < f.bits) (hcode : code < 2 ^ f.bits) :
    signBit f (bit code (f.bits - 1)) + code % 2 ^ (f.bits - 1) = code := by
  obtain ⟨b, hb⟩ := Nat.exists_eq_succ_of_ne_zero (Nat.ne_of_gt hbits)
  have htop : code / 2 ^ b < 2 := Nat.div_lt_of_lt_mul (by rwa [hb, Nat.pow_succ] at hcode)
  have hsplit := Nat.div_add_mod code (2 ^ b)
  simp only [signBit, bit, hb, Nat.succ_sub_one, Nat.testBit_eq_decide_div_mod_eq, decide_eq_true_eq]
  rcases Nat.le_one_iff_eq_zero_or_eq_one.mp (Nat.le_of_lt_succ htop) with h | h
  · rw [h, Nat.mul_zero] at hsplit
    rw [h, if_neg (by decide)]
    exact hsplit
  · rw [h, Nat.mul_one] at hsplit
    rw [h, if_pos rfl]
    exact hsplit

/-- A magnitude code up to the largest finite one needs no limit (R189). -/
theorem Fpf.limit_le {f : Fpf} {k : Nat} (neg : Bool) (hk : k ≤ f.maxCode) : f.limit neg k = pure (signBit f neg + k) :=
  if_pos hk

/-- A format's own infinity stays one (Table 6.2). -/
theorem Fpf.infinity_some {f : Fpf} {k : Nat} (neg : Bool) (hk : f.inf = some k) :
    f.infinity neg = pure (signBit f neg + k) := by
  rw [Fpf.infinity, hk]

/-- A code that is no NaN is the format's infinity or a finite magnitude, with its sign (R186). -/
theorem Fpf.decode_cases {f : Fpf} {code k : Nat} (hk : code % 2 ^ (f.bits - 1) = k) (hnan : f.decode code ≠ .nan) :
    f.inf = some k ∧ f.decode code = .inf (bit code (f.bits - 1)) ∨
      k ≤ f.maxCode ∧ f.decode code = .fin (bit code (f.bits - 1)) (f.magnitude k).1 (f.magnitude k).2 := by
  subst hk
  rcases Nat.lt_or_ge f.maxCode (code % 2 ^ (f.bits - 1)) with hbig | hfin
  · by_cases hinf : f.inf = some (code % 2 ^ (f.bits - 1))
    · exact .inl ⟨hinf, (if_pos hbig).trans (if_pos hinf)⟩
    · exact absurd ((if_pos hbig).trans (if_neg hinf)) hnan
  · exact .inr ⟨hfin, if_neg (Nat.not_lt.mpr hfin)⟩

/-- The value of a code that is no NaN is rounded to its sign bit and its magnitude code, counting nothing. -/
theorem Fpf.encode_decode {f : Fpf} {code : Nat} (hnan : f.decode code ≠ .nan) :
    f.encode (f.decode code) = pure (signBit f (bit code (f.bits - 1)) + code % 2 ^ (f.bits - 1)) := by
  rcases Fpf.decode_cases rfl hnan with ⟨hinf, h⟩ | ⟨hfin, h⟩
  · rw [h, Fpf.encode, Fpf.infinity_some _ hinf]
  · rw [h, Fpf.encode, f.roundMag_magnitude, Fpf.limit_le _ hfin]

theorem floatFormats_pos : ∀ f ∈ floatFormats, 0 < f.man ∧ 0 < f.bits := by decide

end Sys2Proof.Machine

/-! # The obligations of spec/06_numerics.md -/

section
open Sys2Proof Sys2Proof.Machine

/-- Settles O59: distances over the magnitudes' own denominators compare as the gaps on the grid do, and the gap of the
code rounded to is the least, by a comparison within the quotient's grid step and one with the finer grid below it. -/
theorem roundingIsNearestTiesToEven : Obligations.RoundingIsNearestTiesToEven := by
  constructor
  · rintro f n d k ⟨-, hd⟩
    refine Nat.le_of_mul_le_mul_right (c := 2 ^ f.sub) ?_ (Nat.two_pow_pos _)
    rw [f.natAbs_magnitude_mul, f.natAbs_magnitude_mul, Nat.mul_comm (f.magnitude k).2]
    exact Nat.mul_le_mul_right _ (Fpf.gap_roundMag_le hd k)
  · rintro f n d k ⟨hf, hd, hk⟩ htie
    have hgap := congrArg (· * 2 ^ f.sub) htie
    simp only [f.natAbs_magnitude_mul, Nat.mul_comm (f.magnitude k).2] at hgap
    exact Fpf.roundMag_even_of_tie hd (floatFormats_pos f hf).1 hk
      (Nat.eq_of_mul_eq_mul_right (Nat.mul_pos (f.magnitude_pos _) (f.magnitude_pos k)) hgap).symm

/-- Settles O58: what a code's magnitude is rounded to is the code itself (`Fpf.roundMag_magnitude`), and infinities stay
as they are. -/
theorem everyFloatRoundsToItself : Obligations.EveryFloatRoundsToItself := by
  rintro f code t ⟨hf, hcode, hnan⟩
  rw [Fpf.encode_decode hnan, signBit_add_mod (floatFormats_pos f hf).2 hcode]
  rfl

end

/-! # Sliding windows: output sizes (R225) -/

namespace Sys2Proof.Machine

section
variable {n lo hi k s d : Nat}

/-- The size of a window, with the filter's extent in the spec's integers: a filter has at least one tap. -/
theorem outSize_eq (hk : 0 < k) :
    outSize n lo hi k s d = ((n : Int) + lo + hi - d * ((k : Int) - 1) - 1) / s + 1 := by
  rw [outSize, Int.ofNat_sub hk, Int.natCast_one]

theorem outSizeT_eq (hk : 0 < k) :
    outSizeT n lo hi k s d = ((n : Int) - 1) * s + d * ((k : Int) - 1) + 1 - lo - hi := by
  rw [outSizeT, Int.ofNat_sub hk, Int.natCast_one]

end

/-- The division by a positive stride is the floor toward minus infinity, for a negative numerator too. -/
theorem floor_bounds (num : Int) {s : Nat} (hs : 0 < s) :
    (s : Int) * (num / s) ≤ num ∧ num < s * (num / s + 1) := by
  have hpos : (0 : Int) < s := Int.natCast_pos.mpr hs
  refine ⟨Int.mul_ediv_self_le (Int.ne_of_gt hpos), ?_⟩
  rw [Int.mul_add, Int.mul_one]
  exact Int.lt_mul_ediv_self_add hpos

section
variable (w : Win) (n : Nat)

@[simp] theorem Win.outH_window : w.outH false n = outSize n w.pt w.pb w.kh w.sh w.dh := rfl
@[simp] theorem Win.outW_window : w.outW false n = outSize n w.pl w.pr w.kw w.sw w.dw := rfl
@[simp] theorem Win.outH_transposed : w.outH true n = outSizeT n w.pt w.pb w.kh w.sh w.dh := rfl
@[simp] theorem Win.outW_transposed : w.outW true n = outSizeT n w.pl w.pr w.kw w.sw w.dw := rfl

end

end Sys2Proof.Machine

/-! # The obligations of spec/07_sliding_window.md -/

section
open Sys2Proof Sys2Proof.Machine

/-- Settles O55: the model's division by the stride is the floor toward minus infinity (`floor_bounds`), and the sizes
are read off the window's fields. -/
theorem windowsHaveTheirOutputSizes : Obligations.WindowsHaveTheirOutputSizes := by
  refine ⟨?_, ?_, ?_⟩
  · rintro n lo hi k s d ⟨hs, hk⟩
    rw [outSize_eq hk, Int.add_sub_cancel]
    exact floor_bounds _ hs
  · intro n lo hi k s d hk
    exact outSizeT_eq hk
  · intro w n
    exact ⟨w.outH_window n, w.outW_window n, w.outH_transposed n, w.outW_transposed n⟩

end

/-! # Sensor ingest: what a stream's commands come to -/

namespace Sys2Proof.Machine

/-- With no injection under way and none striking on, none strikes. -/
theorem injStrikes_of_idle {s : State} {pt inst : Nat} (hi : s.inj.busy = none) (hr : s.inj.rest = []) :
    injStrikes s pt inst = false := by
  simp only [injStrikes, injLive_of_idle hi, hr, List.any_nil, Bool.or_self]

/-- With no injection under way no line is withheld. -/
theorem withheld_of_idle {s : State} {h n : Nat} (hi : s.inj.busy = none) : withheld s h n = false := by
  simp only [withheld, injLive_of_idle hi, Bool.false_and]

section
variable {t h n : Nat} {s : State}

/-! ## Binding and release -/

/-- A STREAM_BIND that passes its checks binds its stream, pending the first frame (R284). -/
theorem doStreamBind_binds {id : Nat} {d : Desc} (hs : Starts (advance t s) id 0x09 d)
    (hc : bindCheck (advance t s) d = none) (hbind : bit (d.u 9 1) 3 = false) :
    doStreamBind t id s = settle (finishOk d.id
      (modStr (d.u 9 1 % 2) (d.u 8 1) (fun x => { d.stream with gone := x.gone }) (startDesc id (advance t s)))) := by
  rw [doStreamBind, runDesc_starts hs hc]
  simp only [hbind, Bool.false_eq_true, if_false]

/-- A STREAM_BIND that unbinds starts the unbinding and is what completes when the last held frame is gone (R285). -/
theorem doStreamBind_unbinds {id : Nat} {d : Desc} (hs : Starts (advance t s) id 0x09 d)
    (hc : bindCheck (advance t s) d = none) (hunbind : bit (d.u 9 1) 3 = true) :
    doStreamBind t id s =
      let h := d.u 9 1 % 2
      let n := d.u 8 1
      settle (unbindDone h n
        (modStr h n (fun x => { x with unbinder := some d.id }) (unbind h n (startDesc id (advance t s))))) := by
  rw [doStreamBind, runDesc_starts hs hc]
  simp only [hunbind, if_true]

/-- A held frame that no entry waits for is released (R293). -/
theorem doFrameRelease_unread {seq : Nat} {f : Frame}
    (hf : (getStr (advance t s) h n).held.find? (·.seq = seq) = some f) (hsdl : f.sdl = []) (hfus : f.fus = []) :
    doFrameRelease t h n seq s =
      unbindDone h n (modStr h n (fun x => { x with held := x.held.filter (·.seq ≠ seq) }) (advance t s)) := by
  simp only [doFrameRelease, hf, hsdl, hfus, List.isEmpty_nil, Bool.and_self, if_true]

/-! ## Lines and frames of a CSI-2 port -/

/-- A sound line within the count and the length of its admitted frame is stored and hashed: nothing is cut, and no
error is counted (R282, R297). -/
theorem addLine_stores {f : Frame} {data read : List Byte} (hcur : (getStr s h n).cur = some f)
    (hadm : f.admitted = true) (hrx : f.rx < (getStr s h n).nLines) (hlen : data.length ≤ (getStr s h n).lineBytes) :
    addLine h n data true false read s =
      let f' := { f with rx := f.rx + 1, last := hubTime s h }.hash (getStr s h n).nLines f.rx data
      modStr h n (fun x => { x with cur := some { f' with lines := f'.lines ++ [data] } }) s := by
  have hcut : data.take (getStr s h n).lineBytes = data := List.take_of_length_le hlen
  simp only [addLine, hcur, hadm, Nat.not_le.mpr hrx, Nat.not_lt.mpr hlen, hcut, Bool.not_true, Bool.false_and,
    Bool.false_eq_true, if_false, if_true]
  -- The counts of errors remain, each plus `b2n false`.
  rfl

/-- A line of the data type of its port's stream comes to the stream's frame (R282). -/
theorem csiLine_matches {port vc dt : Nat} {crcOk ecc : Bool} {data read : List Byte}
    (hstr : csiStream s h port vc = some n) (hdt : (getStr s h n).dataType = dt) (hi : s.inj.busy = none) :
    csiLine h port vc dt crcOk data ecc read s = addLine h n data crcOk ecc read s := by
  simp only [csiLine, hstr, hdt, withheld_of_idle hi, injLive_of_idle hi, ne_eq, not_true_eq_false, Bool.or_self,
    Bool.or_false, Bool.not_false, Bool.and_true, Bool.false_eq_true, if_false]

section
variable {port : Nat} (hh : h < 2) (hup : (getHub (advance t s) h).up = true)
  (hon : portOn (advance t s) h port = true)
include hh hup hon

/-- A packet whose header can be read, on a port that is on, is a line (R282). -/
theorem doCsiLongPacket_line {vc dt hdr : Nat} {crcOk ecc : Bool} {data read : List Byte} (hhdr : hdr ≠ 2)
    (hi : (advance t s).inj.busy = none) :
    doCsiLongPacket t h port vc dt hdr crcOk data ecc read s =
      csiLine h port vc dt crcOk data ecc read (advance t s) := by
  simp only [doCsiLongPacket, hh, hup, hon, hhdr, injLive_of_idle hi, decide_true, decide_false, Bool.or_self,
    Bool.and_self, Bool.false_eq_true, if_true, if_false]

/-- A Frame Start of a stream that is not being unbound starts the stream's next frame (R285, R289). -/
theorem doFrameStart_starts {vc fn : Nat} (hi : (advance t s).inj.busy = none) (hr : (advance t s).inj.rest = [])
    (hstr : csiStream (advance t s) h port vc = some n) (hst : (getStr (advance t s) h n).st ≠ .unbinding) :
    doFrameStart t h port vc fn s = startFrame h n (fn % 65536) (advance t s) := by
  simp only [doFrameStart, hh, hup, hon, hstr, hst, injStrikes_of_idle hi hr, decide_true, Bool.and_self,
    Bool.false_eq_true, if_true, if_false]

/-- A Frame End ends the frame in progress, as short where lines are missing (R290). -/
theorem doFrameEnd_ends {vc : Nat} {f : Frame} (hi : (advance t s).inj.busy = none)
    (hstr : csiStream (advance t s) h port vc = some n) (hcur : (getStr (advance t s) h n).cur = some f) :
    doFrameEnd t h port vc s =
      endFrame h n (if f.rx < (getStr (advance t s) h n).nLines then some 1 else none) (hubTime (advance t s) h)
        (advance t s) := by
  simp only [doFrameEnd, hh, hup, hon, hstr, hcur, withheld_of_idle hi, decide_true, Bool.false_and, Bool.and_self,
    Bool.false_eq_true, if_true, if_false]

end

/-! ## Frames of an Ethernet MAC -/

section
variable {mac dst etype vlan len : Nat} {isAs ecc : Bool} {data read : List Byte} (hh : h < 2)
  (hup : (getHub (advance t s) h).up = true) (hmac : mac < 4)
  (hon : fld (advance t s) (ingBase h + 0x140 + 4 * mac) 0 1 = 1) (hi : (advance t s).inj.busy = none)
include hh hup hmac hon hi

/-- A sound frame of a bound stream is a line of the stream (R283). -/
theorem doEthFrame_line (hlen : len ≤ 9216) (hstr : ethStream (advance t s) h mac dst etype vlan = some n) :
    doEthFrame t h mac dst etype vlan len true isAs data ecc read s = ethLine h n data ecc read (advance t s) := by
  simp only [doEthFrame, hh, hup, hmac, hon, hstr, Nat.not_lt.mpr hlen, injLive_of_idle hi, decide_true, Bool.and_self,
    Bool.not_true, Bool.or_self, Bool.or_false, Bool.false_eq_true, if_true, if_false]

/-- A frame that fails its FCS is recorded and otherwise discarded (R283). -/
theorem doEthFrame_badFcs :
    doEthFrame t h mac dst etype vlan len false isAs data ecc read s =
      event h 0x0708 [.id1 h, .id1 mac, .code1 0] (advance t s) := by
  simp only [doEthFrame, hh, hup, hmac, hon, injLive_of_idle hi, decide_true, Bool.and_self, Bool.not_false,
    Bool.true_or, Bool.false_eq_true, if_true, if_false]

end

/-! ## Gaps and deadlines -/

/-- A gap that has run out ends the frame as damaged, at the instant it ran out (R290). -/
theorem doFrameGapExpiry_due {f : Frame} (hcur : (getStr (advance t s) h n).cur = some f)
    (hi : (advance t s).inj.busy = none)
    (hdue : f.last + (freshPar (advance t s) h n).gap ≤ hubTime (advance t s) h) :
    doFrameGapExpiry t h n s =
      endFrame h n (some 3) (f.last + (freshPar (advance t s) h n).gap) (advance t s) := by
  simp only [doFrameGapExpiry, hcur, hdue, withheld_of_idle hi, Bool.false_eq_true, if_true, if_false]

/-- A deadline of a bound stream that has passed counts one missing frame and moves on by the period (R299). -/
theorem doMissingDeadline_passed {d : Nat} (hst : (getStr (advance t s) h n).st = .bound)
    (hd : (getStr (advance t s) h n).deadline = some d) (hpast : d < hubTime (advance t s) h) :
    doMissingDeadline t h n s =
      freshen h n (getStr (advance t s) h n).seq .missing
        (modStr h n (fun x =>
          { x with missing := satAdd 32 x.missing 1, deadline := some (d + periodNs (advance t s) h n) })
          (advance t s)) := by
  simp only [doMissingDeadline, hd, hst, hpast, and_self, if_true]

end

end Sys2Proof.Machine

/-! # The obligations of spec/10_ingest.md -/

section
open Sys2Proof Sys2Proof.Machine

/-- Settles O19, command by command: each finds its hub, port and stream as it needs them, and no injection in its way,
so what remains is the one operation on the stream. -/
theorem sensorFramesAreAdmittedAndEnd : Obligations.SensorFramesAreAdmittedAndEnd := by
  refine ⟨?bind, ?unbind, ?line, ?frameStart, ?frameEnd, ?ethLine, ?badFcs, ?gap, ?deadline, ?release⟩
  case bind =>
    rintro t id d s hs ⟨hc, hbind⟩
    exact congrArg Host.Outcome.next (doStreamBind_binds hs hc hbind)
  case unbind =>
    rintro t id d s hs ⟨hc, hunbind⟩
    exact congrArg Host.Outcome.next (doStreamBind_unbinds hs hc hunbind)
  case line =>
    rintro t h port vc dt hdr n data read f s ⟨hh, hup, hon, hhdr, hi⟩ ⟨hstr, hdt⟩ ⟨hcur, hadm, hrx, hlen⟩
    exact congrArg Host.Outcome.next ((doCsiLongPacket_line hh hup hon hhdr hi).trans
      ((csiLine_matches hstr hdt hi).trans (addLine_stores hcur hadm hrx hlen)))
  case frameStart =>
    rintro t h port vc fn n s ⟨hh, hup, hon, hi, hr⟩ ⟨hstr, hst⟩
    exact congrArg Host.Outcome.next (doFrameStart_starts hh hup hon hi hr hstr hst)
  case frameEnd =>
    rintro t h port vc n f s ⟨hh, hup, hon, hi⟩ ⟨hstr, hcur⟩
    exact congrArg Host.Outcome.next (doFrameEnd_ends hh hup hon hi hstr hcur)
  case ethLine =>
    rintro t h mac dst etype vlan len n isAs data read s ⟨hh, hup, hmac, hon, hi⟩ ⟨hlen, hstr⟩
    exact congrArg Host.Outcome.next (doEthFrame_line hh hup hmac hon hi hlen hstr)
  case badFcs =>
    rintro t h mac dst etype vlan len isAs ecc data read s ⟨hh, hup, hmac, hon, hi⟩
    exact congrArg Host.Outcome.next (doEthFrame_badFcs hh hup hmac hon hi)
  case gap =>
    rintro t h n f s ⟨hcur, hi⟩ hdue
    exact congrArg Host.Outcome.next (doFrameGapExpiry_due hcur hi hdue)
  case deadline =>
    rintro t h n d s ⟨hst, hd, hpast⟩
    exact congrArg Host.Outcome.next (doMissingDeadline_passed hst hd hpast)
  case release =>
    rintro t h n seq f s ⟨hf, hsdl, hfus⟩
    exact congrArg Host.Outcome.next (doFrameRelease_unread hf hsdl hfus)

end

/-! # Fusion: decay of a cell, and the evidence added to it (R318 to R321) -/

namespace Sys2Proof.Machine

/-! ## Decay -/

section
variable (half t c : Nat)

/-- How far a cell's reference time is behind an instant's time: m of R319. -/
def cellLag : Nat := (t / 2 ^ 20 % 2 ^ 24 + 2 ^ 24 - bits c 32 24) % 2 ^ 24

theorem bits_decay_refTime : bits (decay half t c) 32 24 = (bits c 32 24 + cellLag t c / half * half) % 2 ^ 24 :=
  bits_setBits_self _ _ _ _

/-- The frame of a decay: a field apart from the counts and the reference time. -/
theorem bits_decay_ne {lo w : Nat} (h : 28 ≤ lo ∧ lo + w ≤ 32 ∨ 56 ≤ lo) :
    bits (decay half t c) lo w = bits c lo w := by
  simp only [decay]
  rw [bits_setBits_ne, bits_setBits_ne, bits_setBits_ne, bits_setBits_ne] <;> omega

/-- A reference time moved on by a part of its lag is behind by the rest, modulo 2^24. -/
theorem lag_after_advance {u r e : Nat} (hr : r < 2 ^ 24) (he : e ≤ (u + 2 ^ 24 - r) % 2 ^ 24) :
    (u + 2 ^ 24 - (r + e) % 2 ^ 24) % 2 ^ 24 = (u + 2 ^ 24 - r) % 2 ^ 24 - e := by
  omega

/-- A decay takes whole half-lives off the lag. -/
theorem cellLag_decay : cellLag t (decay half t c) = cellLag t c % half := by
  rw [Nat.mod_eq_sub_div_mul, cellLag, bits_decay_refTime]
  exact lag_after_advance (bits_lt c 32 24) (Nat.div_mul_le_self _ _)

variable {half t c}

/-- A cell less than one half-life behind is shifted by nothing. -/
theorem decay_of_cellLag_lt (h : cellLag t c < half) : decay half t c = c := by
  have hshift : (t / 2 ^ 20 % 2 ^ 24 + 2 ^ 24 - bits c 32 24) % 2 ^ 24 / half = 0 := Nat.div_eq_of_lt h
  simp only [decay, hshift, Nat.reduceLeDiff, reduceIte, Nat.pow_zero, Nat.div_one, Nat.zero_mul, Nat.add_zero,
    setBits_bits]

theorem decay_decay (hhalf : 0 < half) : decay half t (decay half t c) = decay half t c :=
  decay_of_cellLag_lt (by rw [cellLag_decay]; exact Nat.mod_lt _ hhalf)

end

/-! ## Evidence -/

/-- Fields apart are set in ascending order: `simp` sorts a chain of updates by it. -/
theorem setBits_sort (n lo w v lo' w' u : Nat) (h : lo' + w' ≤ lo) :
    setBits (setBits n lo w v) lo' w' u = setBits (setBits n lo' w' u) lo w v :=
  setBits_comm n lo w v lo' w' u (.inr h)

/-- A cell with its counts set and `seen`: what an update writes. -/
def withCounts (c occ free conflict : Nat) : Nat :=
  setBits (setBits (setBits (setBits c 0 12 occ) 12 12 free) 24 4 conflict) 63 1 1

theorem withCounts_withCounts (c o f k o' f' k' : Nat) :
    withCounts (withCounts c o f k) o' f' k' = withCounts c o' f' k' := by
  simp [withCounts, setBits_sort, setBits_setBits_self]

theorem bits_withCounts_occ (c o f k : Nat) : bits (withCounts c o f k) 0 12 = o % 2 ^ 12 := by
  simp [withCounts, bits_setBits_ne, bits_setBits_self]

theorem bits_withCounts_free (c o f k : Nat) : bits (withCounts c o f k) 12 12 = f % 2 ^ 12 := by
  simp [withCounts, bits_setBits_ne, bits_setBits_self]

theorem bits_withCounts_conflict (c o f k : Nat) : bits (withCounts c o f k) 24 4 = k % 2 ^ 4 := by
  simp [withCounts, bits_setBits_ne, bits_setBits_self]

/-- Both counts of evidence stand at or above the threshold (R321). -/
def inConflict (conf c : Nat) : Bool := conf ≤ bits c 0 12 && conf ≤ bits c 12 12

section
variable (conf c o f : Nat)

theorem addEv_cell :
    (addEv conf c o f).1 = withCounts c (min 4095 (bits c 0 12 + o)) (min 4095 (bits c 12 12 + f))
      (min 15 (bits c 24 4 + b2n (addEv conf c o f).2)) := by
  simp [addEv, withCounts, bits_setBits_ne]

theorem bits_addEv_occ : bits (addEv conf c o f).1 0 12 = min 4095 (bits c 0 12 + o) := by
  rw [addEv_cell, bits_withCounts_occ, Nat.mod_eq_of_lt (by omega)]

theorem bits_addEv_free : bits (addEv conf c o f).1 12 12 = min 4095 (bits c 12 12 + f) := by
  rw [addEv_cell, bits_withCounts_free, Nat.mod_eq_of_lt (by omega)]

theorem bits_addEv_conflict :
    bits (addEv conf c o f).1 24 4 = min 15 (bits c 24 4 + b2n (addEv conf c o f).2) := by
  rw [addEv_cell, bits_withCounts_conflict, Nat.mod_eq_of_lt (by omega)]

/-- An update enters conflict when it takes the cell from outside conflict into it. -/
theorem addEv_enters : (addEv conf c o f).2 = (!inConflict conf c && inConflict conf (addEv conf c o f).1) := by
  simp only [inConflict, bits_addEv_occ, bits_addEv_free]
  exact Bool.and_assoc _ _ _

/-- Evidence only grows, so no update takes a cell out of conflict. -/
theorem inConflict_addEv (h : inConflict conf c = true) : inConflict conf (addEv conf c o f).1 = true := by
  simp only [inConflict, Bool.and_eq_true, decide_eq_true_eq, bits_addEv_occ, bits_addEv_free] at h ⊢
  have := bits_lt c 0 12
  have := bits_lt c 12 12
  omega

variable (o' f' : Nat)

theorem inConflict_addEv_addEv :
    inConflict conf (addEv conf (addEv conf c o f).1 o' f').1 = inConflict conf (addEv conf c (o + o') (f + f')).1 := by
  simp only [inConflict, bits_addEv_occ, bits_addEv_free]
  congr 2 <;> rw [eq_iff_iff] <;> omega

/-- Two updates enter conflict as often as one with the evidence of both. -/
theorem enters_add :
    b2n (addEv conf c o f).2 + b2n (addEv conf (addEv conf c o f).1 o' f').2 =
      b2n (addEv conf c (o + o') (f + f')).2 := by
  have hfirst := inConflict_addEv conf c o f
  have hsecond := inConflict_addEv conf (addEv conf c o f).1 o' f'
  rw [inConflict_addEv_addEv] at hsecond
  rw [addEv_enters conf c o f, addEv_enters conf (addEv conf c o f).1, addEv_enters conf c (o + o'),
    inConflict_addEv_addEv]
  generalize inConflict conf c = before, inConflict conf (addEv conf c o f).1 = between,
    inConflict conf (addEv conf c (o + o') (f + f')).1 = after at *
  revert before between after
  decide

/-- Two updates leave a cell as one with the evidence of both does. -/
theorem addEv_addEv :
    (addEv conf (addEv conf c o f).1 o' f').1 = (addEv conf c (o + o') (f + f')).1 := by
  rw [addEv_cell conf (addEv conf c o f).1, bits_addEv_occ, bits_addEv_free, bits_addEv_conflict,
    addEv_cell conf c o f, withCounts_withCounts, ← addEv_cell, addEv_cell conf c (o + o'), ← enters_add]
  congr 1 <;> omega

end

end Sys2Proof.Machine

/-! # The obligations of spec/11_fusion.md -/

section
open Sys2Proof Sys2Proof.Machine

/-- Settles O56: a decayed cell is less than one half-life behind (`cellLag_decay`), so the second decay shifts by
nothing (`decay_of_cellLag_lt`); the bits that stay are the frame of a decay. -/
theorem cellsDecayOnceInAnInstant : Obligations.CellsDecayOnceInAnInstant :=
  ⟨fun _ _ _ hhalf => decay_decay hhalf,
    fun half t c => ⟨bits_decay_ne half t c (by decide), bits_decay_ne half t c (by decide)⟩⟩

/-- Settles O57: two updates come to one with the evidence of both, in the cell (`addEv_addEv`) and in the count of
conflicts (`enters_add`), and a sum of evidence has no order. -/
theorem cellUpdatesCommute : Obligations.CellUpdatesCommute := by
  intro conf c o1 f1 o2 f2
  constructor
  · rw [addEv_addEv, addEv_addEv, Nat.add_comm o1, Nat.add_comm f1]
  · rw [enters_add, enters_add, Nat.add_comm o1, Nat.add_comm f1]

end

/-! # Memory: what the commands of a hub's controller come to -/

namespace Sys2Proof.Machine

/-! ## Writing whole lines (R342, R359) -/

/-- Giving one value to those keys of a list that meet a condition changes the table there alone. -/
theorem tabGet_foldl_set {α : Type} [DecidableEq α] {d : Nat → α} {v : α} {p : Nat → Bool} {i : Nat}
    (ks : List Nat) {t : Tab α} (h : tabWf d t = true) :
    tabGet d (ks.foldl (fun t k => if p k then tabSet d t k v else t) t) i =
      if i ∈ ks ∧ p i = true then v else tabGet d t i := by
  induction ks generalizing t with
  | nil => simp
  | cons k ks ih =>
    rw [List.foldl_cons]
    by_cases hk : p k = true
    · rw [if_pos hk, ih (tabSet_wf h)]
      by_cases hi : i = k
      · subst hi; simp [hk, tabGet_set_self h]
      · simp [hi, tabGet_set_ne h hi]
    · rw [if_neg hk, ih h]
      by_cases hi : i = k
      · subst hi; simp [hk]
      · simp [hi]

section
variable {s : State} {dev n l : Nat} {bs : List Byte} {who : Requester}

@[simp] theorem getDrc_healLines (h : Nat) : getDrc (healLines dev n s) h = getDrc s h := rfl
@[simp] theorem eighthOf_healLines (a : Nat) : eighthOf (healLines dev n s) a = eighthOf s a := rfl

/-- A healed line is marked as written in a dropped eighth, and else no longer listed. -/
theorem tabGet_healLines (hw : tabWf dLine s.lines = true) (hlo : (dev + 63) / 64 ≤ l) (hhi : l < (dev + n) / 64) :
    tabGet dLine (healLines dev n s).lines l =
      if (getDrc s (devHub dev)).dropped.elem (eighthOf s (l * 64)) then 3 else 0 := by
  have hl : l ∈ (List.range ((dev + n) / 64 - (dev + 63) / 64)).map ((dev + 63) / 64 + ·) :=
    List.mem_map.mpr ⟨l - (dev + 63) / 64, List.mem_range.mpr (by omega), by omega⟩
  have herased : tabGet dLine (tabErase s.lines ((dev + 63) / 64) ((dev + n) / 64 - (dev + 63) / 64)) l = 0 := by
    rw [tabGet_erase hw, if_pos (by omega)]
    rfl
  simp only [healLines]
  split
  · next hnone => simp [herased, List.isEmpty_iff.mp hnone]
  · rw [tabGet_foldl_set (p := fun l => (getDrc s (devHub dev)).dropped.elem (eighthOf s (l * 64))) _ (tabErase_wf hw),
      herased]
    simp only [hl, true_and]

/-- A healed line of a hub whose memory is not held is sound, also in a dropped eighth. -/
theorem lineState_healLines (hw : tabWf dLine s.lines = true) (hlo : (dev + 63) / 64 ≤ l) (hhi : l < (dev + n) / 64)
    (hhub : devHub (l * 64) = devHub dev) (hheld : (getDrc s (devHub dev)).held = false) :
    lineState (healLines dev n s) l = 0 := by
  simp only [lineState, getDrc_healLines, eighthOf_healLines, hhub, hheld, tabGet_healLines hw hlo hhi,
    Bool.false_eq_true, if_false]
  by_cases hd : (getDrc s (devHub dev)).dropped.elem (eighthOf s (l * 64)) = true
  · simp only [hd, if_true]
  · simp only [hd, Bool.false_eq_true, if_false]

/-- A write of whole lines reads none of them: it stores its bytes and heals the lines. -/
theorem writeDev_wholeLines (hdev : dev % 64 = 0) (hpos : 0 < bs.length) (hlen : bs.length % 64 = 0)
    (hheld : (getDrc s (devHub dev)).held = false) :
    writeDev dev bs who s = (none, healLines dev bs.length { s with dram := putBytes s.dram dev bs }) := by
  have hend : (dev + bs.length) % 64 = 0 := by omega
  have hmin : ¬ bs.length < 64 := by omega
  simp only [writeDev, Nat.ne_of_gt hpos, hheld, hdev, hend, hmin, ne_eq, not_true_eq_false, decide_false, Bool.or_self,
    Bool.false_and, Bool.false_eq_true, Nat.lt_irrefl, Option.isSome_none, Option.or_none, List.take_length,
    List.drop_zero, Nat.add_zero, if_false]

end

/-! ## The crypto unit (R347) -/

/-- The turns in the order in which they come after the last one served. -/
def turnOrder (s : State) (h : Nat) : List Nat := (List.range 34).map fun i => ((getDrc s h).turn + 1 + i) % 34

/-- The requests of a turn among those that the crypto unit takes. -/
def turnReqs (s : State) (h : Nat) (reqs : List MemReq) (k : Nat) : List MemReq :=
  (reqs.filter (reqFits s h)).filter fun r => turnOf s h (ownerOf s r.addr) = k

/-- Turns passed over without a request owe nothing any more. -/
def passTurns (h : Nat) (ks : List Nat) (s : State) : State :=
  modDrc h (fun d => { d with debts := ks.foldl (fun t k => tabSet dNat t k 0) d.debts }) s

section
variable {t h : Nat} {reqs : List MemReq} {s : State}

/-- The first turn with a request is served until its quantum less its debt is spent. -/
theorem doCryptoTurn_serves {i k : Nat} (hh : h < 2) (hs : drcServes (advance t s) h = true) (h33 : k ≠ 33)
    (hi : (turnOrder (advance t s) h).findIdx? (fun k => (reqs.filter (reqFits (advance t s) h)).any fun r =>
      turnOf (advance t s) h (ownerOf (advance t s) r.addr) = k) = some i)
    (hk : (turnOrder (advance t s) h).getD i 0 = k) :
    doCryptoTurn t h reqs s =
      let u := passTurns h ((turnOrder (advance t s) h).take i) (advance t s)
      let quota := quantum u h k - tabGet dNat (getDrc u h).debts k
      let r := serveTurn h quota 0 (turnReqs (advance t s) h reqs k) u
      modDrc h (fun d => { d with turn := k, debts := tabSet dNat d.debts k (r.1 - quota),
                                  zeroLast := (getDrc r.2 h).zeroLast }) r.2 := by
  simp only [turnOrder] at hi hk
  simp only [doCryptoTurn, turnOrder, turnReqs, passTurns, hh, hs, hi, hk, h33, decide_true, Bool.and_self, if_true,
    if_false]

/-- Where no request waits, every debt is cleared. -/
theorem doCryptoTurn_none (hh : h < 2) (hs : drcServes (advance t s) h = true)
    (hnone : reqs.filter (reqFits (advance t s) h) = []) :
    doCryptoTurn t h reqs s = modDrc h (fun d => { d with debts := [] }) (advance t s) := by
  have hi : ∀ ks : List Nat, ks.findIdx? (fun _ => false) = none := fun ks =>
    List.findIdx?_eq_none_iff.mpr fun _ _ => rfl
  simp only [doCryptoTurn, hh, hs, hnone, hi, List.any_nil, decide_true, Bool.and_self, if_true]

end

/-! ## The request that a channel serves next (R341, R342, R348) -/

/-- With no injection under way a read meets the error that its line shows. -/
theorem withInj_of_idle {h ch err : Nat} {s : State} (hi : s.inj.busy = none) : withInj h ch err s = (err, s) := by
  simp only [withInj, injLive_of_idle hi, Bool.false_eq_true, if_false]

section
variable {t h ch err : Nat} {lecc : Bool} {r : MemReq} {s u v : State}

/-- A sound line read without error changes nothing. -/
theorem lineRead_sound (hl : lineState s (r.addr / 64) = 0) : lineRead h ch 0 r s = (none, s) := by
  simp [lineRead, hl]

/-- One wrong symbol of a sound line is corrected, counted and recorded. -/
theorem lineRead_corrected (hl : lineState s (r.addr / 64) = 0) :
    lineRead h ch 1 r s = (none, event h 0x0601 [.id1 h, .id1 ch, .loc8 (r.addr / 64 * 64)]
      (modDrc h (fun d => { d with ce := satAdd 32 d.ce 1 }) s)) := by
  simp [lineRead, hl]

section
variable (hh : h < 2) (hc : chanServes (advance t s) h ch = true) (hn : nextReq (advance t s) h ch = some r)
  (hwho : r.who ≠ .hub 3)
include hh hc hn hwho

/-- A read that fails no check ends as its line's read does. -/
theorem doDramRead_serves (hr : r.isWrite = false) (hu : u = linkEcc h lecc (takeReq h ch r (advance t s)))
    (hi : u.inj.busy = none) (hread : lineRead h ch err r u = (none, v)) : doDramRead t h ch err lecc s = v := by
  subst hu
  simp only [doDramRead, hh, hc, hn, hr, hwho, withInj_of_idle hi, hread, decide_true, decide_false, Bool.false_and,
    Bool.and_self, Bool.false_eq_true, if_true, if_false]

/-- A write of a full line reads nothing: its bytes are stored, and copied to the partner where a partition owns
them. -/
theorem doDramWrite_fullLine (hr : r.isWrite = true) (hlen : 64 ≤ r.len) (hu : u = takeReq h ch r (advance t s))
    (hheld : (getDrc u h).held = false) :
    doDramWrite t h ch err false s =
      let v := (writeDev r.addr r.data r.who u).2
      let p := ownerOf u r.addr
      (partAddr v p r.addr).elim v fun a => mirrorWrite p a r.data v := by
  subst hu
  simp only [doDramWrite, hh, hc, hn, hr, hwho, hheld, linkEcc, Nat.not_lt.mpr hlen, decide_true, decide_false,
    Bool.false_and, Bool.and_self, Bool.not_true, Bool.or_self, Bool.false_eq_true, if_true, if_false]
  cases partAddr (writeDev r.addr r.data r.who (takeReq h ch r (advance t s))).2
    (ownerOf (takeReq h ch r (advance t s)) r.addr) r.addr <;> rfl

end

/-! ## Refresh, windows, scrub, delay tracking (R346, R349 to R351, R358) -/

section
variable (hh : h < 2) (hch : ch < 16) (hs : drcServes (advance t s) h = true)
include hh hch hs

/-- A refresh boundary commits the hub's sh fields, gives them to the channel and closes its rows. -/
theorem doRefresh_serves (hu : u = [0x10, 0x14, 0x18].foldl (fun s r => commit (drcBase h + r) s) (advance t s)) :
    doRefresh t h ch s =
      precharge h ch (modChan h ch (fun c =>
        { c with sched := regGet u (drcBase h + 0x10), rat := regGet u (drcBase h + 0x14) }) u) := by
  subst hu
  simp only [doRefresh, hh, hch, hs, decide_true, Bool.and_self, if_true]

/-- A window's end clears every count and throttle of the channel. -/
theorem doRatWindowEnd_serves :
    doRatWindowEnd t h ch s = (List.range 16).foldl
      (fun s b => modBank h ch b (fun x => { x with floor := 0, ents := [], throttled := [] }) s) (advance t s) := by
  simp only [doRatWindowEnd, hh, hch, hs, decide_true, Bool.and_self, if_true]

/-- With no injection under way, drift beyond correction is an error of kind 2, and drift within it nothing. -/
theorem doWck2dqTrack_idle {beyond : Bool} (hi : (advance t s).inj.busy = none) :
    doWck2dqTrack t h ch beyond s =
      if beyond then trainFail h ch (getDrc (advance t s) h).set 2 (advance t s) else advance t s := by
  simp only [doWck2dqTrack, hh, hch, hs, injLive_of_idle hi, decide_true, Bool.and_self, Bool.or_false,
    Bool.false_eq_true, if_true, if_false]

end

/-- The scrubber leaves a sound line and moves on by one. -/
theorem doPatrolScrub_sound (hh : h < 2) (hs : drcServes (advance t s) h = true)
    (hon : eff (advance t s) (drcBase h + 0x18) 0 2 ≠ 2)
    (hu : u = modDrc h (fun d =>
      { d with scrub := ((getDrc (advance t s) h).scrub + 1) % max 1 (2 ^ 24 * (getDrc (advance t s) h).gib) })
      (advance t s))
    (hl : lineState u (2 ^ 30 * h + (getDrc (advance t s) h).scrub) = 0) : doPatrolScrub t h 0 s = u := by
  subst hu
  simp only [doPatrolScrub, hh, hs, hon, hl, ne_eq, not_false_eq_true, OfNat.zero_ne_ofNat, zero_ne_one, decide_true,
    decide_false, Bool.and_self, Bool.or_self, Bool.false_eq_true, if_true, if_false]

end

/-! ## Training and frequency changes (R354, R355, R357) -/

/-- The channels of a group serve again, with their metadata written back and their rows closed. -/
def switchGroup (hub g : Nat) (s : State) : State :=
  (groupOf g).foldl (fun s c => modChan hub c (fun x => { x with blackout := false })
    (flushMeta hub c (precharge hub c s))) s

/-- The channels of a group stop serving until they switch. -/
def drainGroup (hub g : Nat) (s : State) : State :=
  (groupOf g).foldl (fun s c => modChan hub c (fun x => { x with blackout := true }) s) s

section
variable {t h b hub : Nat} {types dens : List Nat} {mrs : List Byte} {res : List TrainRes} {s u v : State}

/-- TRAINING_GO ends the wait of a hub's memory. -/
theorem doTrainingGo_waiting (hh : h < 2) (hb : (getDrc (advance t s) h).waiting = some b) :
    doTrainingGo t h types dens mrs res s = trainHub h types dens mrs res (advance t s) := by
  simp only [doTrainingGo, hh, hb, Option.isSome_some, decide_true, Bool.and_self, if_true]

/-- A wait that has run out ends of itself. -/
theorem doTrnWaitExpiry_due (hh : h < 2) (hb : (getDrc (advance t s) h).waiting = some b)
    (hdue : b + 1000000 * fld (advance t s) (drcBase h + 0x70) 8 8 ≤ (advance t s).clk) :
    doTrnWaitExpiry t h types dens mrs res s = trainHub h types dens mrs res (advance t s) := by
  simp only [doTrnWaitExpiry, hh, hb, hdue, decide_true, Bool.and_self, if_true]

section
variable {g set id : Nat} (hhub : hub < 2)
include hhub

/-- A group before the last serves again in the new set, and the next one drains. -/
theorem doFreqGroupSwitch_next (hg : g < 3) (hc : (getDrc (advance t s) hub).change = some (set, g, id)) :
    doFreqGroupSwitch t hub g s = drainGroup hub (g + 1)
      (modDrc hub (fun d => { d with change := some (set, g + 1, id) }) (switchGroup hub g (advance t s))) := by
  simp only [doFreqGroupSwitch, drainGroup, switchGroup, hhub, hc, hg, Nat.lt_succ_of_lt hg, decide_true,
    Bool.and_self, if_true]

/-- The last group puts the set in effect, and the descriptor completes where no hub has its change still open. -/
theorem doFreqGroupSwitch_last (hc : (getDrc (advance t s) hub).change = some (set, 3, id))
    (hu : u = switchGroup hub 3 (advance t s))
    (hv : v = startChange hub (event hub 0x0605 [.id1 hub, .code1 (getDrc u hub).set, .code1 set]
      (modDrc hub (fun d => { d with change := none, set, st := 2 }) u)))
    (hopen : freqOpen v id = false) : doFreqGroupSwitch t hub 3 s = settle (finishOk id v) := by
  subst hu hv
  simp only [switchGroup] at hopen
  simp only [doFreqGroupSwitch, switchGroup, hhub, hc, hopen, decide_true, Bool.and_self, Nat.lt_irrefl,
    Nat.lt_succ_self, Bool.false_eq_true, if_true, if_false]

end

/-! ## Capture, hold, diagnosis (R360 to R362) -/

/-- A capture over no earlier one keeps the controller's state and is recorded. -/
theorem capture_fresh {cause : Nat} (hfresh : fld s (drcBase h + 0x60) 3 1 = 0) :
    capture h cause s = event h 0x0607 [.id1 h, .code1 cause] (fldSet (drcBase h + 0x60) 3 1 1
      (modDrc h (fun d => { d with store := some { time := s.clk, log := d.log, banks := d.banks, chans := d.chans } })
        s)) := by
  simp only [capture, hfresh, Nat.zero_ne_one, if_false]

/-- CAPTURE captures on a hub that is up. -/
theorem doCapture_up (hh : h < 2) (hup : (getHub (advance t s) h).up = true) :
    doCapture t h s = capture h 0 (advance t s) := by
  simp only [doCapture, hh, hup, decide_true, Bool.and_self, if_true]

section
variable (hh : h < 2) (hup : (getHub (advance t s) h).up = true) (hheld : (getDrc (advance t s) h).held = false)
include hh hup hheld

/-- With no granule mapped, a hold writes the caches back, closes the rows, captures and stops the memory. -/
theorem doHold_unmapped (hm : hubMapped (advance t s) h = false) :
    doHold t h s =
      let u := capture h 2 ((List.range 16).foldl (fun s c => precharge h c (flushMeta h c s)) (advance t s))
      modDrc h (fun d => { d with held := true, st := 4 }) (fldSet (drcBase h + 0x60) 1 1 1 u) := by
  simp only [doHold, hh, hup, hheld, hm, decide_true, Bool.not_false, Bool.and_self, Bool.false_eq_true, if_true,
    if_false]

/-- With a granule mapped, a hold is refused and noted. -/
theorem doHold_mapped (hm : hubMapped (advance t s) h = true) : doHold t h s = drcErr h 4 0 (advance t s) := by
  simp only [doHold, hh, hup, hheld, hm, decide_true, Bool.not_false, Bool.and_self, if_true]

end

/-- A release lets the hub's memory serve as it did. -/
theorem doHoldRelease_held (hh : h < 2) (hheld : (getDrc (advance t s) h).held = true) :
    doHoldRelease t h s =
      modDrc h (fun d => { d with held := false, st := if d.gib = 0 then 5 else if d.change.isSome then 3 else 2 })
        (fldSet (drcBase h + 0x60) 1 1 0 (advance t s)) := by
  simp only [doHoldRelease, hh, hheld, decide_true, Bool.and_self, if_true]

/-- A write of the index or the selection loads the item that both then name. -/
theorem doDiagLoad_up {idx : Bool} {val : Word} (hh : h < 2) (hup : (getHub (advance t s) h).up = true) :
    doDiagLoad t h idx val s =
      let u := if idx then regSet (drcBase h + 0x68) val (advance t s)
        else regSet (drcBase h + 0x64) (BitVec.ofNat 32 (bits val.toNat 0 16)) (advance t s)
      modDrc h (fun d => { d with diag := diagItem u h }) u := by
  simp only [doDiagLoad, hh, hup, decide_true, Bool.and_self, if_true]

end

end Sys2Proof.Machine

/-! # The obligations of spec/12_memory.md -/

section
open Sys2Proof Sys2Proof.Machine

/-- Settles O49: a write of whole lines reads none of them (`writeDev_wholeLines`), and the lines that it heals are
sound (`lineState_healLines`). -/
theorem aFullLineWriteHeals : Obligations.AFullLineWriteHeals := by
  rintro dev bs who s ⟨hmem, hlines, hdev, hlen, hheld⟩
  have hwrite := writeDev_wholeLines (who := who) hdev (by omega) (by omega : bs.length % 64 = 0) hheld
  have hnone : (writeDev dev bs who s).1 = none := by rw [hwrite]
  have hbytes := writeDev_reads hmem hnone
  rw [hlen] at hbytes
  refine ⟨hnone, ?_, hbytes, by rw [hwrite]; rfl⟩
  rw [hwrite]
  have hline : dev / 64 * 64 = dev := Nat.div_mul_cancel (Nat.dvd_of_mod_eq_zero hdev)
  exact lineState_healLines hlines (by omega) (by omega) (congrArg devHub hline) hheld

/-- Settles O23, command by command: each finds its hub, its channel and its request as it needs them, and no injection
in its way, so it takes none of its error paths. -/
theorem dramRequestsAreServed : Obligations.DramRequestsAreServed := by
  refine ⟨?turn, ?noTurn, ?read, ?corrected, ?write, ?refresh, ?window, ?scrub, ?drift⟩
  case turn =>
    rintro t h i k reqs s u ⟨hh, hs, h33⟩ hi hk rfl
    exact congrArg Host.Outcome.next (doCryptoTurn_serves hh hs h33 hi hk)
  case noTurn =>
    rintro t h reqs s ⟨hh, hs, hnone⟩
    exact congrArg Host.Outcome.next (doCryptoTurn_none hh hs hnone)
  case read =>
    rintro t h ch lecc r s u ⟨hh, hc, hn, hr, hwho⟩ ⟨hu, hi, hl⟩
    exact congrArg Host.Outcome.next (doDramRead_serves hh hc hn hwho hr hu hi (lineRead_sound hl))
  case corrected =>
    rintro t h ch lecc r s u ⟨hh, hc, hn, hr, hwho⟩ ⟨hu, hi, hl⟩
    exact congrArg Host.Outcome.next (doDramRead_serves hh hc hn hwho hr hu hi (lineRead_corrected hl))
  case write =>
    rintro t h ch err r s u ⟨hh, hc, hn, hr, hwho, hlen⟩ ⟨hu, hheld⟩
    exact congrArg Host.Outcome.next (doDramWrite_fullLine hh hc hn hwho hr hlen hu hheld)
  case refresh =>
    rintro t h ch s u ⟨hh, hch, hs⟩ hu
    exact congrArg Host.Outcome.next (doRefresh_serves hh hch hs hu)
  case window =>
    rintro t h ch s ⟨hh, hch, hs⟩
    exact congrArg Host.Outcome.next (doRatWindowEnd_serves hh hch hs)
  case scrub =>
    rintro t h s u ⟨hh, hs, hon⟩ ⟨hu, hl⟩
    exact congrArg Host.Outcome.next (doPatrolScrub_sound hh hs hon hu hl)
  case drift =>
    rintro t h ch beyond s ⟨hh, hch, hs, hi⟩
    exact congrArg Host.Outcome.next (doWck2dqTrack_idle hh hch hs hi)

/-- Settles O24, command by command: the waits, changes and holds are as each command needs them; DRAM_FREQ is its body
(`runDesc_starts`). -/
theorem dramTrainsChangesAndFreezes : Obligations.DramTrainsChangesAndFreezes := by
  refine ⟨?go, ?expiry, ?freq, ?group, ?lastGroup, ?capture, ?hold, ?refused, ?release, ?index, ?selection⟩
  case go =>
    rintro t h b types dens mrs res s ⟨hh, hb⟩
    exact congrArg Host.Outcome.next (doTrainingGo_waiting hh hb)
  case expiry =>
    rintro t h b types dens mrs res s ⟨hh, hb, hdue⟩
    exact congrArg Host.Outcome.next (doTrnWaitExpiry_due hh hb hdue)
  case freq =>
    rintro t id d s ⟨hs, hc⟩
    exact congrArg Host.Outcome.next (runDesc_starts hs hc)
  case group =>
    rintro t hub g set id s ⟨hhub, hg, hc⟩
    exact congrArg Host.Outcome.next (doFreqGroupSwitch_next hhub hg hc)
  case lastGroup =>
    rintro t hub set id s u v ⟨hhub, hc⟩ hu ⟨hv, hopen⟩
    exact congrArg Host.Outcome.next (doFreqGroupSwitch_last hhub hc hu hv hopen)
  case capture =>
    rintro t h s ⟨hh, hup, hfresh⟩
    exact congrArg Host.Outcome.next ((doCapture_up hh hup).trans (capture_fresh hfresh))
  case hold =>
    rintro t h s ⟨hh, hup, hheld, hm⟩
    exact congrArg Host.Outcome.next (doHold_unmapped hh hup hheld hm)
  case refused =>
    rintro t h s ⟨hh, hup, hheld, hm⟩
    exact congrArg Host.Outcome.next (doHold_mapped hh hup hheld hm)
  case release =>
    rintro t h s ⟨hh, hheld⟩
    exact congrArg Host.Outcome.next (doHoldRelease_held hh hheld)
  case index =>
    rintro t h val s ⟨hh, hup⟩
    exact congrArg Host.Outcome.next (doDiagLoad_up hh hup)
  case selection =>
    rintro t h val s ⟨hh, hup⟩
    exact congrArg Host.Outcome.next (doDiagLoad_up hh hup)

end

/-! # Die links and compute dies: what their commands come to -/

namespace Sys2Proof.Machine

/-- With no injection under way none awaits its detection. -/
theorem injActive_of_idle {s : State} {pt inst : Nat} (hi : s.inj.busy = none) : injActive s pt inst = false := by
  simp only [injActive, hi, Option.any_none]

section
variable {t k id d : Nat} {m : SbMsg} {s u : State}

/-! ## Training of a die link (R365 to R368, R524) -/

/-- With its threads trained and no repair asked for, end A sends MASK with the next epoch and its usable bundles. -/
theorem doLinkTrain_sendsMask {fails : List (List Nat)} {peerE peerM : Nat} {keyOk : Bool} (hk : k < 8)
    (hst : (getLink (advance t s) k).st = .training) (hstep : (getLink (advance t s) k).step = .threads)
    (hre : (getLink (advance t s) k).rethread = false) (hl : endsLive (advance t s) k = true) :
    doLinkTrain t k fails peerE peerM keyOk s =
      let l := getLink (advance t s) k
      let e := nextEpoch l.a.epoch l.b.epoch
      let mA := usableMask l 1
      let mB := usableMask l 0
      sbSend k { toB := true, kind := 2, epoch := e, mask := mA } (modLink k (fun x =>
        { x with maps := l.maps, a := { x.a with usable := mA }, b := { x.b with usable := mB }, propE := e,
                 propM := mA, step := .maskSent }) (advance t s)) := by
  have h10 : k < 10 := by omega
  simp only [doLinkTrain, h10, hst, hstep, hre, hl, Nat.not_le.mpr hk, and_self, Bool.false_eq_true, if_true, if_false]
  -- The usable bundles are those of the repair maps, which stay.
  rfl

/-- The oldest message to end B arrives with a good check and no injection on its link. -/
theorem doSidebandMessage_arrives {r : List SbMsg} (hw : (getLink (advance t s) k).wires = m :: r) (hB : m.toB = true)
    (hu : u = modLink k (fun l => { l with wires := l.wires.erase m }) (advance t s))
    (hi : injActive u 0x0504 k = false) : doSidebandMessage t k true true s = withRoutes (sbReceive k m) u := by
  subst hu
  simp only [doSidebandMessage, hw, hB, hi, decide_true, List.find?_cons_of_pos, Bool.not_false, Bool.and_self, if_true]

/-- End B answers MASK with CONFIRM: the AND of its own mask and the one proposed. -/
theorem sbReceive_mask (hB : m.toB = true) (hkind : m.kind = 2) (hst : (getLink s k).st = .training)
    (hstep : (getLink s k).step = .maskSent) :
    sbReceive k m s = sbSend k { toB := false, kind := 3, epoch := m.epoch, mask := m.mask &&& (getLink s k).b.usable }
      (modLink k (fun l =>
        { l with step := .confirmB, propE := m.epoch, propM := m.mask &&& l.b.usable }) s) := by
  simp only [sbReceive, hB, hkind, hst, hstep, ne_eq, not_true_eq_false, true_or, and_self, if_true, if_false]

/-- A message without an answer is repeated three times; then its sideband is dead. -/
theorem doSidebandRetry_due {since : Nat} (ha : (getLink (advance t s) k).await = some (m, since))
    (hdue : since + 10000 ≤ (advance t s).clk) :
    doSidebandRetry t k s =
      if m.repeats < 3 then sbSend k { m with repeats := m.repeats + 1 } (advance t s)
      else event 0 0x0505 [.id1 k]
        (lnkErr 3 k (modLink k (fun l => { l with sbOk := false, await := none }) (advance t s))) := by
  simp only [doSidebandRetry, ha, Nat.not_lt.mpr hdue, if_false]

/-- An attempt on a die link that has lasted 1 ms fails. -/
theorem doTrainTimeout_due (hk : k < 8) (hst : (getLink (advance t s) k).st = .training)
    (hdue : (getLink (advance t s) k).began + 1000000 ≤ (advance t s).clk) :
    doTrainTimeout t k s = withRoutes (failAttempt k) (advance t s) := by
  have h10 : k < 10 := by omega
  simp only [doTrainTimeout, hk, h10, hst, hdue, and_self, if_true]

/-- LINK_RETRAIN may name any die link that is neither fenced nor off. -/
theorem retrainCheck_dieLink {x : Desc} (hk : x.u 8 1 < 8) (hf : (getLink s (x.u 8 1)).st ≠ .fenced)
    (ho : (getLink s (x.u 8 1)).st ≠ .off) : retrainCheck s x = none := by
  have h9 : ¬ 9 < x.u 8 1 := by omega
  simp only [retrainCheck, firstOf, h9, hf, ho, Nat.not_le.mpr hk, decide_false, Bool.false_and, Bool.and_false,
    Bool.or_self, Bool.false_eq_true, not_false_eq_true, List.find?_cons_of_neg, List.find?_nil, Option.map_none]

/-! ## Loss of a compute die (R27, R375 to R379, R381) -/

section
variable (hd : d < 4) (hst : (getDie (advance t s) d).st = .up)
include hd hst

/-- A heartbeat with the PLL locked that has a route, before its count and after it, is heard. -/
theorem doDieHeartbeat_heard (hi : (advance t s).inj.busy = none)
    (hu : u = modDie d (fun x => { x with beats := (x.beats + 1) % 2 ^ 32 }) (advance t s))
    (hr : dieReaches u d (declHub u d) = true) :
    doDieHeartbeat t d true s = modDie d (fun x => { x with heard := (advance t s).clk }) u := by
  have hi' : injActive u 0x0501 d = false := injActive_of_idle (hu ▸ hi)
  subst hu
  simp only [doDieHeartbeat, hd, hst, hi', hr, Bool.not_true, Bool.false_eq_true, or_self, and_self, if_true, if_false,
    modDie_clk]

/-- Three intervals without a heartbeat lose the die. -/
theorem doDieHeartbeatMiss_due (hdue : (getDie (advance t s) d).heard + 30000 ≤ (advance t s).clk)
    (hup : hubUp (advance t s) (declHub (advance t s) d) = true) :
    doDieHeartbeatMiss t d s = loseDie d 0 (advance t s) := by
  simp only [doDieHeartbeatMiss, hd, hst, hdue, hup, and_self, if_true]

/-- A die whose PLL unlocks is lost. -/
theorem doPllUnlock_up :
    doPllUnlock t d s = loseDie d 1 (modDie d (fun x => { x with pll := false }) (advance t s)) := by
  simp only [doPllUnlock, hd, hst, if_true]

end

/-- A die that hears FENCE, with others still to hear it, fences its own ends of the links that it shares with the lost
die, and no more. -/
theorem doFenceReceive_pending {lost : Nat} (hlost : lost < 4) (hst : (getDie (advance t s) lost).st = .fenced)
    (hto : (getDie (advance t s) lost).toFence.elem d = true)
    (hu : u = (linksOf lost).foldl (fun s k =>
      if endDie k (!isEndB k lost) = d then modSide k (!isEndB k lost) (fun e => { e with fenced := true }) s else s)
      (modDie lost (fun x => { x with toFence := x.toFence.filter (· ≠ d) }) (advance t s)))
    (hmore : (getDie u lost).toFence ≠ []) : doFenceReceive t d lost s = u := by
  subst hu
  simp only [doFenceReceive, hlost, hst, hto, and_self, if_true]
  exact if_neg (mt List.isEmpty_iff.mp hmore)

/-- A heartbeat of a fenced die is recorded and ignored. -/
theorem doFencedHeartbeat_fenced (hd : d < 4) (hst : (getDie (advance t s) d).st = .fenced) :
    doFencedHeartbeat t d s = event (declHub (advance t s) d) 0x0507 [.id1 d] (advance t s) := by
  simp only [doFencedHeartbeat, hd, hst, and_self, if_true]

/-! ## DIE_RESET and rejoin (R65, R382) -/

/-- DIE_RESET by force may name any compute die that is UP and not too hot. -/
theorem dieResetCheck_forced {x : Desc} (hd : x.u 8 1 < 4) (hhot : dieHot s (x.u 8 1) = false)
    (hst : (getDie s (x.u 8 1)).st = .up) (hf : bit (x.u 9 1) 0 = true) : dieResetCheck s x = none := by
  have h3 : ¬ 3 < x.u 8 1 := by omega
  have hne : DieSt.up ≠ .fenced := by decide
  simp only [dieResetCheck, firstOf, h3, hhot, hst, hf, hne, ne_eq, not_true_eq_false, decide_true, decide_false,
    Bool.false_and, Bool.and_false, Bool.not_true, Bool.or_self, Bool.false_eq_true, not_false_eq_true,
    List.find?_cons_of_neg, List.find?_nil, Option.map_none]

/-- A DIE_RESET of a die that is UP loses it and waits for the fence. -/
theorem dieResetBody_up {x : Desc} (hst : (getDie s (x.u 8 1)).st = .up) :
    dieResetBody x s = loseDie (x.u 8 1) 2
      (modDie (x.u 8 1) (fun y => { y with desc := some x.id, noReset := bit (x.u 9 1) 1 }) s) :=
  if_pos hst

/-- After 10 µs of reset the die comes up and its links train. -/
theorem doDieResetRelease_due (hd : d < 4) (hst : (getDie (advance t s) d).st = .reset)
    (hdue : (getDie (advance t s) d).since + 10000 ≤ (advance t s).clk) :
    doDieResetRelease t d s =
      withRoutes (fun s => (linksOf d).foldl (fun s k => rejoinLink k s) s) (raiseDie d (advance t s)) := by
  simp only [doDieResetRelease, hd, hst, hdue, and_self, true_or, if_true]

/-- With its links trained and a route to its hub, a die that rejoins is UP, and the DIE_RESET that waits for it is
done. -/
theorem doDieRejoinDone_reaches {i : Nat} (hd : d < 4) (hst : (getDie (advance t s) d).st = .rejoin)
    (hi : (getDie (advance t s) d).desc = some i)
    (hset : (linksOf d).all (fun k => (getLink (advance t s) k).st ≠ .training) = true)
    (hr : dieReaches (advance t s) d (declHub (advance t s) d) = true) :
    doDieRejoinDone t d s = settle (finishOk i (dieUpNow d (advance t s))) := by
  simp only [doDieRejoinDone, hd, hst, hi, hset, hr, true_or, and_self, if_true]

end

end Sys2Proof.Machine

/-! # The obligations of spec/13_links.md -/

section
open Sys2Proof Sys2Proof.Machine

/-- Settles O25, command by command: the link stands at the step that each command takes on; LINK_RETRAIN passes its
check (`retrainCheck_dieLink`) and is its body. -/
theorem linkTrainingRunsItsSteps : Obligations.LinkTrainingRunsItsSteps := by
  refine ⟨?mask, ?confirm, ?retry, ?timeout, ?retrain⟩
  case mask =>
    rintro t k peerE peerM fails keyOk s ⟨hk, hst, hstep, hre⟩ hl
    exact congrArg Host.Outcome.next (doLinkTrain_sendsMask hk hst hstep hre hl)
  case confirm =>
    rintro t k m r s u ⟨hw, hB, hkind⟩ hu hi ⟨hst, hstep⟩
    exact congrArg Host.Outcome.next ((doSidebandMessage_arrives hw hB hu hi).trans
      (congrArg (fun x => settle (routesMoved (hubsJoined u) x)) (sbReceive_mask hB hkind hst hstep)))
  case retry =>
    rintro t k since m s ha hdue
    exact congrArg Host.Outcome.next (doSidebandRetry_due ha hdue)
  case timeout =>
    rintro t k s ⟨hk, hst⟩ hdue
    exact congrArg Host.Outcome.next (doTrainTimeout_due hk hst hdue)
  case retrain =>
    rintro t id d s ⟨hsc, hs⟩ ⟨hk, hf, ho⟩
    exact congrArg Host.Outcome.next (runScion_starts hsc hs (retrainCheck_dieLink hk hf ho))

/-- Settles O27, command by command: the die is in the state that each command takes on; DIE_RESET passes its check
(`dieResetCheck_forced`) and loses the die (`dieResetBody_up`). -/
theorem lostDiesAreFencedAndReturn : Obligations.LostDiesAreFencedAndReturn := by
  refine ⟨?heard, ?miss, ?unlock, ?fence, ?fenced, ?reset, ?release, ?rejoin⟩
  case heard =>
    rintro t d s ⟨hd, hst, hi⟩ - u hr
    exact congrArg Host.Outcome.next (doDieHeartbeat_heard hd hst hi rfl hr)
  case miss =>
    rintro t d s ⟨hd, hst, hdue⟩ hup
    exact congrArg Host.Outcome.next (doDieHeartbeatMiss_due hd hst hdue hup)
  case unlock =>
    rintro t d s ⟨hd, hst⟩
    exact congrArg Host.Outcome.next (doPllUnlock_up hd hst)
  case fence =>
    rintro t d lost s u ⟨hlost, hst, hto⟩ hu hmore
    exact congrArg Host.Outcome.next (doFenceReceive_pending hlost hst hto hu hmore)
  case fenced =>
    rintro t d s ⟨hd, hst⟩
    exact congrArg Host.Outcome.next (doFencedHeartbeat_fenced hd hst)
  case reset =>
    rintro t id d s ⟨hsc, hs⟩ ⟨hd, hhot, hst, hf⟩ hst'
    exact congrArg Host.Outcome.next ((runScion_starts hsc hs (dieResetCheck_forced hd hhot hst hf)).trans
      (congrArg settle (dieResetBody_up hst')))
  case release =>
    rintro t d s ⟨hd, hst, hdue⟩
    exact congrArg Host.Outcome.next (doDieResetRelease_due hd hst hdue)
  case rejoin =>
    rintro t d i s ⟨hd, hst, hi⟩ hset hr
    exact congrArg Host.Outcome.next (doDieRejoinDone_reaches hd hst hi hset hr)

end

/-! # Safety islands: what their commands come to -/

namespace Sys2Proof.Machine

section
variable {t id i n ch h k : Nat} {s u : State}

/-! ## Streams, records and swatches (R400 to R410, R421) -/

/-- A SAFETY_CFG that sets a stream of an island outside the safe state restarts it with the configuration given. -/
theorem safetyBody_sets {prog : List Byte} {d : Desc} (hset : d.u 10 1 = 0) (hst : (getIsl s (d.u 8 1)).st ≠ .safe) :
    safetyBody prog d s = finishOk d.id (applyCfg (d.u 8 1) (d.u 9 1) (some (safetyCfg prog d)) s) := by
  simp only [safetyBody, hset, hst, if_true, if_false]

/-- An island with its clock takes the oldest record on its way to it. -/
theorem doResultRecord_takes {r : ResRec} (hr : (advance t s).records.find? (·.island = i) = some r)
    (hc : (getIsl (advance t s) i).noClock = false) :
    doResultRecord t i s =
      settle (receiveRecord i r { (advance t s) with records := (advance t s).records.erase r }) := by
  simp only [doResultRecord, hr, hc, Bool.false_eq_true, if_false]

/-- On an island that runs, the records that have waited too long leave and get UNMATCHED. -/
theorem doUnmatchedExpiry_runs (hr : islRuns (advance t s) i = true) :
    doUnmatchedExpiry t i n s =
      let c := (getSs (advance t s) i n).cfg
      let now := hubTime (advance t s) i
      ((getSs (advance t s) i n).waiting.filter (c.tired now)).foldl (fun s w => unmatched i n w s)
        (modSs i n (fun x => { x with waiting := x.waiting.filter fun w => !x.cfg.tired now w }) (advance t s)) :=
  if_pos hr

/-- A deadline that has passed counts one miss and moves on by the period; within miss_limit that is all. -/
theorem doResultDeadline_withinLimit (hr : islRuns (advance t s) i = true) (hst : (getSs (advance t s) i n).st ≠ .off)
    (hper : (getSs (advance t s) i n).cfg.period ≠ 0)
    (hdue : (getSs (advance t s) i n).deadline ≤ hubTime (advance t s) i)
    (hu : u = modSs i n (fun x =>
      { x with misses := x.misses + 1, nMiss := satAdd 16 x.nMiss 1, deadline := x.deadline + x.cfg.period * 1000 })
      (advance t s))
    (hlim : (getSs u i n).misses ≤ missLimit (getSs (advance t s) i n).cfg.prog) : doResultDeadline t i n s = u := by
  subst hu
  exact (if_pos ⟨hr, hst, hper, hdue⟩).trans (if_neg (Nat.not_lt.mpr hlim))

/-- With no stream to tell, a notice only changes what the island knows to be STALE. -/
theorem doStaleNotice_noStreams {stale inj : Bool} {r : List (Nat × Nat × Bool × Bool)}
    (hin : (getIsl (advance t s) i).inbox = (h, k, stale, inj) :: r) (hc : (getIsl (advance t s) i).noClock = false)
    (hstrs : (getIsl (advance t s) i).strs = []) :
    doStaleNotice t i s =
      let others := (getIsl (advance t s) i).staleAll.filter (· ≠ (h, k))
      modIsl i (fun x => { x with inbox := r, staleAll := if stale then others ++ [(h, k)] else others })
        (advance t s) := by
  simp only [doStaleNotice, hin, hc, hstrs, Bool.false_eq_true, if_false, List.foldl_nil]

/-- A swatch with status OK and the digest expected is no longer due, and counts. -/
theorem doSwatchDone_agrees (hres : ((getSs (advance t s) i n).sw ch).result =
      some (0, (((getSs (advance t s) i n).sw ch).data.drop 32).take 32)) :
    doSwatchDone t i n ch s = restore i 0x20 (swSubject n ch)
      (modSs i n (fun x => { x with runs := satAdd 16 x.runs 1 }) (modSw i n ch (fun _ => {}) (advance t s))) := by
  simp only [doSwatchDone, hres, and_self, if_true]

/-! ## The island's own detectors (R391, R395 to R397, R415) -/

section
variable (ha : islAlive (advance t s) i = true) (hi : (advance t s).inj.busy = none)
include ha hi

theorem doLockstepError_alive : doLockstepError t i s = detect i 0x01 0x7F false (advance t s) := by
  simp only [doLockstepError, ha, injLive_of_idle hi, Bool.or_self, if_true]

theorem doInputDisagreement_alive : doInputDisagreement t i s = detect i 0x01 0x7F false (advance t s) := by
  simp only [doInputDisagreement, ha, injLive_of_idle hi, if_true]

/-- A clock off by more than 1 percent of either reference is a detection. -/
theorem doClockCheck_alive {ppm other : Nat} :
    doClockCheck t i ppm other s =
      if 10000 < ppm ∨ 10000 < other then detect i 0x03 0x7F false (advance t s) else advance t s := by
  simp only [doClockCheck, ha, injLive_of_idle hi, Bool.false_eq_true, if_true, if_false, Nat.add_zero]

/-- A sound heartbeat that is due reaches the other island. -/
theorem doIslandHeartbeat_due (hdue : (getIsl (advance t s) i).beat + 50000 ≤ (advance t s).clk) :
    doIslandHeartbeat t i true s = modIsl (1 - i) (fun x => { x with heard := (advance t s).clk })
      (modIsl i (fun x => { x with beat := (advance t s).clk }) (advance t s)) := by
  simp only [doIslandHeartbeat, ha, hdue, injLive_of_idle hi, decide_true, Bool.and_self, Bool.not_true, Bool.or_self,
    Bool.false_eq_true, if_true, if_false, modIsl_clk]

/-- Three missing heartbeats are a detection with its event, once the island has started. -/
theorem doIslLinkLoss_due (hst : (getIsl (advance t s) i).st ≠ .startup)
    (hdue : (getIsl (advance t s) i).heard + 150000 ≤ (advance t s).clk) :
    doIslLinkLoss t i s = detect i 0x04 0x7F false (event i 0x0B0D [.id1 i]
      (islErr i 2 (modIsl i (fun x => { x with heard := (advance t s).clk }) (advance t s)))) := by
  simp only [doIslLinkLoss, ha, hst, hdue, injActive_of_idle hi, ne_eq, not_false_eq_true, decide_true, Bool.and_self,
    if_true]

end

/-- The oldest message of the other island, arriving whole: a safe-state notice is counted, any other is a detection. -/
theorem doIslandLinkMessage_whole {m : Nat} {r : List Nat} (hm : (getIsl (advance t s) i).mail = m :: r) :
    doIslandLinkMessage t i true s =
      let u := modIsl i (fun x => { x with mail := r }) (advance t s)
      if m = 1 then modIsl i (fun x => { x with notices := x.notices + 1 }) u else detect i 0x06 0x7F false u := by
  simp only [doIslandLinkMessage, hm, Bool.not_true, Bool.false_eq_true, if_false]

/-! ## Start-up, restart and reset (R390, R392, R398, R399) -/

/-- A comparator test that passes puts the island into start-up, or into split operation. -/
theorem startIsland_passes : startIsland i true s = modIsl i (fun x =>
    { x with st := if x.otpSplit then .split else .startup, faultHigh := false, alive := false, cmpOk := true,
             halted := false, noClock := false, cause := 0, causeStr := 0x7F, injected := false, decision := 0,
             later := 0 }) s :=
  if_pos (Or.inr rfl)

/-- A release from reset starts the island. -/
theorem doIslandResetRelease_reset {cmpOk : Bool} (hst : (getIsl (advance t s) i).st = .reset) :
    doIslandResetRelease t i cmpOk s = startIsland i cmpOk (advance t s) :=
  if_pos hst

/-- Start-up ends in RUN once SEC runs. -/
theorem doIslandRun_ready (hst : (getIsl (advance t s) i).st = .startup) (hcmp : (getIsl (advance t s) i).cmpOk = true)
    (hc : (getIsl (advance t s) i).noClock = false) (hsec : (advance t s).sec.stage = 2) :
    doIslandRun t i s = modIsl i (fun x =>
      { x with st := .run, faultHigh := true, alive := true, heard := (advance t s).clk, beat := (advance t s).clk,
               lastTest := (advance t s).clk, canLast := (advance t s).clk,
               strs := x.strs.map fun e => (e.1, if e.2.st = .off then e.2
                 else { e.2 with deadline := deadlineFrom (advance t s) i e.2.cfg }) }) (advance t s) := by
  simp only [doIslandRun, hst, hcmp, hc, hsec, Bool.not_false, and_self, if_true]

/-- A restart that reaches an island out of reset records the event and counts, restarts each stream, and starts the
island. -/
theorem doIslandRestart_reaches {acc : Agent} {cmpOk : Bool}
    (hw : writeReaches (advance t s) acc (safReg i 0x14) = true) (hst : (getIsl (advance t s) i).st ≠ .reset) :
    doIslandRestart t i acc cmpOk s =
      let x := getIsl (advance t s) i
      let u := modIsl i (fun x =>
        { x with restarts := satAdd 16 x.restarts 1, degraded := x.degraded.filter (·.1 ≠ 0x20) })
        (event i 0x0B0A [.id1 i, .code1 x.cause] (advance t s))
      startIsland i cmpOk (x.strs.foldl (fun s e => restartStream i e.1 s) u) :=
  if_pos ⟨hw, hst⟩

/-! ## Debug and CAN FD (R394, R416, R417) -/

theorem doIslandDebugHalt_alive (hdbg : 1 ≤ (advance t s).sec.debug) (ha : islAlive (advance t s) i = true) :
    doIslandDebugHalt t i s = modIsl i (fun x => { x with halted := true }) (detect i 0x16 0x7F false (advance t s)) :=
  if_pos ⟨hdbg, ha⟩

theorem doIslandDebugResume_open {step : Bool} (hdbg : 1 ≤ (advance t s).sec.debug) :
    doIslandDebugResume t i step s = modIsl i (fun x => { x with halted := x.halted && step }) (advance t s) :=
  if_pos hdbg

/-- An island in RUN or in the safe state sends a frame every 10 ms. -/
theorem doCanStatusFrame_due (hst : (getIsl (advance t s) i).st = .run ∨ (getIsl (advance t s) i).st = .safe)
    (hdue : (getIsl (advance t s) i).canLast + 10000000 ≤ (advance t s).clk) :
    doCanStatusFrame t i s = canSend i (advance t s) := by
  refine if_pos ?_
  simp only [Bool.and_eq_true, Bool.or_eq_true, decide_eq_true_eq]
  exact ⟨hst, hdue⟩

/-- A controller that is on goes bus-off once. -/
theorem doCanBusoff_on (hon : fld (advance t s) (safReg i 0x20) 24 1 = 1)
    (hb : (getIsl (advance t s) i).busOff = false) : doCanBusoff t i s = goBusOff i (advance t s) := by
  simp only [doCanBusoff, hon, hb, Bool.not_false, and_self, if_true]

/-! ## Quiet windows and self-tests (R422, R423, R425) -/

/-- A declared quiet window opens at its time. -/
theorem doQuietWindowOpen_inside (hr : islRuns (advance t s) i = true) (hst : (getSs (advance t s) i n).st ≠ .off)
    (hfrom : (getSs (advance t s) i n).quietFrom ≤ hubTime (advance t s) i)
    (hto : hubTime (advance t s) i < (getSs (advance t s) i n).quietTo) :
    doQuietWindowOpen t i n s = modSs i n (fun x => { x with quiet := true }) (advance t s) :=
  if_pos ⟨hr, hst, hfrom, hto⟩

/-- The island's own test runs when it is due and every stream in RUN is quiet, and covers the island again. -/
theorem doIslandPeriodicTest_due (hr : islRuns (advance t s) i = true)
    (hdue : (getIsl (advance t s) i).lastTest + 100000000 ≤ (advance t s).clk)
    (hq : (getIsl (advance t s) i).strs.all (fun e => e.2.st ≠ .run || inQuiet (advance t s) i e.1 120000) = true) :
    doIslandPeriodicTest t i false s = restore i 0x21 islSubject (modIsl i (fun x =>
      { x with lastTest := (advance t s).clk, covered := x.covered.filter (· ≠ islSubject) }) (advance t s)) :=
  if_pos ⟨hr, hdue, hq⟩

/-- A die with an overdue core and no test or move in its way starts the test of the core whose turn it is. -/
theorem doRollingTestStart_overdue {d g sp : Nat} (hint : testInterval (advance t s) (d / 2) = some n)
    (hnext : nextTest (advance t s) d = some (g, sp)) (hr : islRuns (advance t s) (d / 2) = true)
    (hup : dieUp (advance t s) d = true) (hscan : scanOf (advance t s) d = none)
    (hm : moving (advance t s) g = false)
    (hdue : (liveCores (advance t s) d).any (overdue (advance t s) (d / 2)) = true)
    (hi : (advance t s).inj.busy = none) :
    doRollingTestStart t d s = settle (startTest g sp (modIsl (d / 2) (fun x =>
      if d % 2 = 0 then { x with rollLo := (advance t s).clk } else { x with rollHi := (advance t s).clk })
      (commit (safReg (d / 2) 0x24) (advance t s)))) := by
  simp only [doRollingTestStart, hint, hnext, hr, hup, hscan, hm, hdue, injLive_of_idle hi, Option.some_or,
    Option.isNone_none, Bool.not_false, Bool.or_true, Bool.true_or, Bool.false_eq_true, and_self, if_true, if_false,
    commit_clk]

/-- A core that passes its scan is free, covered again, and the spare of its die. -/
theorem doScanTestDone_passes {g part began : Nat} (hscan : scanOf (advance t s) (g / 32) = some (g, part, began))
    (hdue : began + 1800000 ≤ (advance t s).clk) (hi : (advance t s).inj.busy = none) :
    doScanTestDone t g true s =
      let d := g / 32
      let u := modCore g (fun k => { k.cleared with role := .free, lastTest := (advance t s).clk })
        (clearScan d (advance t s))
      settle (changed (restore (d / 2) 0x21 g (modDie d (fun x => { x with spare := some (g % 32) })
        (modIsl (d / 2) (fun x => { x with covered := x.covered.filter (· ≠ g) }) u)))) := by
  simp only [doScanTestDone, hscan, hdue, injLive_of_idle hi, Bool.not_false, Bool.false_eq_true, and_self, if_true,
    if_false]
  -- Ending the scan takes no time.
  rfl

/-- The cores of an island's dies whose last test is too old. -/
def overdueCores (s : State) (i : Nat) : List Nat :=
  (islDies i).flatMap fun d => if dieUp s d then (liveCores s d).filter (overdue s i) else []

/-- Each overdue core loses its coverage; the island keeps its own while its own test is recent. -/
theorem doCoverageCheck_runs (hr : islRuns (advance t s) i = true)
    (hu : u = (overdueCores (advance t s) i).foldl (fun s g => coverCore i g false s) (advance t s))
    (hown : u.clk ≤ (getIsl u i).lastTest + 200000000) : doCoverageCheck t i s = u := by
  subst hu
  exact (if_pos hr).trans (if_neg (Nat.not_lt.mpr hown))

/-! ## The injection fabric (R427) -/

/-- A fire that is armed, in the index, and finds no injection under way is recorded and busy. -/
theorem doInjFire_armed {acc : Agent} (hw : writeReaches (advance t s) acc (injReg 0x18) = true)
    (harm : fld (advance t s) (injReg 4) 1 1 = 1)
    (hknown : injKnown (fld (advance t s) (injReg 0x10) 0 16) (fld (advance t s) (injReg 0x10) 16 8) = true)
    (hi : (advance t s).inj.busy = none) :
    doInjFire t acc s =
      let pt := fld (advance t s) (injReg 0x10) 0 16
      let inst := fld (advance t s) (injReg 0x10) 16 8
      let arg := (regGet (advance t s) (injReg 0x14)).toNat
      let u := commit (injReg 4) (advance t s)
      event 0 0x0F01 [.id2 pt, .id1 inst, .val4 arg] { u with inj := {
        busy := some { point := pt, inst, arg, fired := hubTime u 0, effect := none, left := 0 }, latency := 0,
        detected := false, rest := u.inj.rest } } := by
  simp only [doInjFire, hw, harm, hknown, hi, Nat.one_ne_zero, Bool.not_true, Option.isSome_none, Bool.false_eq_true,
    or_self, if_true, if_false]

/-- An injection that has been fired takes effect, and its detection is timed. -/
theorem doInjectionEffect_fired {x : Injection} (hb : (advance t s).inj.busy = some x) (he : x.effect = none) :
    doInjectionEffect t s = injNow x.point x.inst { (advance t s) with inj := { (advance t s).inj with
      busy := some { x with effect := some (hubTime (advance t s) 0), left := injCount x.point x.arg } } } := by
  simp only [doInjectionEffect, hb, he, Option.isSome_none, Bool.false_eq_true, if_false]

/-- An injection that nothing detects in time ends with its event. -/
theorem doInjectionTimeout_due {x : Injection} {e : Nat} (hb : (advance t s).inj.busy = some x)
    (he : x.effect = some e) (hdue : e + injTimeout (advance t s) ≤ hubTime (advance t s) 0) :
    doInjectionTimeout t s = event 0 0x0F02 [.id2 x.point, .id1 x.inst] (injErr 1 x.point
      { (advance t s) with inj := { (advance t s).inj with
        busy := none, detected := false, rest := injAfter (advance t s) x } }) := by
  simp only [doInjectionTimeout, hb, he, hdue, if_true]

end

end Sys2Proof.Machine

/-! # The obligations of spec/14_safety.md -/

section
open Sys2Proof Sys2Proof.Machine

/-- Settles O29, command by command: the stream or its island is as each command needs it; SAFETY_CFG is its body
(`safetyBody_sets`). -/
theorem islandsJudgeRecords : Obligations.IslandsJudgeRecords := by
  refine ⟨?cfg, ?record, ?expiry, ?deadline, ?notice, ?swatch⟩
  case cfg =>
    rintro t id prog d s ⟨hsc, hs⟩ ⟨hc, hset⟩ hst
    exact congrArg Host.Outcome.next ((runScion_starts hsc hs hc).trans (congrArg settle (safetyBody_sets hset hst)))
  case record =>
    rintro t isl r s hr hc
    exact congrArg Host.Outcome.next (doResultRecord_takes hr hc)
  case expiry =>
    rintro t isl n s hr
    exact congrArg Host.Outcome.next (doUnmatchedExpiry_runs hr)
  case deadline =>
    rintro t isl n s u ⟨hr, hst⟩ ⟨hper, hdue⟩ hu hlim
    exact congrArg Host.Outcome.next (doResultDeadline_withinLimit hr hst hper hdue hu hlim)
  case notice =>
    rintro t isl h k stale inj r s hin ⟨hc, hstrs⟩
    exact congrArg Host.Outcome.next (doStaleNotice_noStreams hin hc hstrs)
  case swatch =>
    rintro t isl n ch s hres
    exact congrArg Host.Outcome.next (doSwatchDone_agrees hres)

/-- Settles O30, command by command: the island is alive, with no injection in its way, or in the state that the command
takes on; a comparator test that passes starts it (`startIsland_passes`). -/
theorem islandsWatchTheirOwnHardware : Obligations.IslandsWatchTheirOwnHardware := by
  refine ⟨?lockstep, ?input, ?clock, ?heartbeat, ?loss, ?message, ?release, ?run, ?restart⟩
  case lockstep =>
    rintro t isl s ⟨ha, hi⟩
    exact congrArg Host.Outcome.next (doLockstepError_alive ha hi)
  case input =>
    rintro t isl s ⟨ha, hi⟩
    exact congrArg Host.Outcome.next (doInputDisagreement_alive ha hi)
  case clock =>
    rintro t isl ppm other s ⟨ha, hi⟩
    exact congrArg Host.Outcome.next (doClockCheck_alive ha hi)
  case heartbeat =>
    rintro t isl s ⟨ha, hi⟩ hdue
    exact congrArg Host.Outcome.next (doIslandHeartbeat_due ha hi hdue)
  case loss =>
    rintro t isl s ⟨ha, hi, hst⟩ hdue
    exact congrArg Host.Outcome.next (doIslLinkLoss_due ha hi hst hdue)
  case message =>
    rintro t isl m r s hm
    exact congrArg Host.Outcome.next (doIslandLinkMessage_whole hm)
  case release =>
    rintro t isl s hst
    exact congrArg Host.Outcome.next ((doIslandResetRelease_reset hst).trans startIsland_passes)
  case run =>
    rintro t isl s ⟨hst, hcmp, hc, hsec⟩
    exact congrArg Host.Outcome.next (doIslandRun_ready hst hcmp hc hsec)
  case restart =>
    rintro t isl acc s ⟨hw, hst⟩
    exact congrArg Host.Outcome.next (doIslandRestart_reaches hw hst)

/-- Settles O31: PLL unlock, the reset pin, the recovery and a received frame have no condition, and each other command
finds the one that it needs. -/
theorem islandsHaltResetAndSendFrames : Obligations.IslandsHaltResetAndSendFrames := by
  refine ⟨?halt, ?resume, fun _ _ _ => rfl, fun _ _ _ => rfl, ?frame, ?busOff, fun _ _ _ => rfl, fun _ _ _ => rfl⟩
  case halt =>
    rintro t isl s ⟨hdbg, ha⟩
    exact congrArg Host.Outcome.next (doIslandDebugHalt_alive hdbg ha)
  case resume =>
    rintro t isl step s hdbg
    exact congrArg Host.Outcome.next (doIslandDebugResume_open hdbg)
  case frame =>
    rintro t isl s hst hdue
    exact congrArg Host.Outcome.next (doCanStatusFrame_due hst hdue)
  case busOff =>
    rintro t isl s ⟨hon, hb⟩
    exact congrArg Host.Outcome.next (doCanBusoff_on hon hb)

/-- Settles O32, command by command: each test or injection is due and unhindered; the two clauses on coverage are the
check with no overdue core and with one (`doCoverageCheck_runs`). -/
theorem selfTestsAndInjectionsRun : Obligations.SelfTestsAndInjectionsRun := by
  refine ⟨?window, ?own, ?start, ?scan, ?covered, ?overdue, ?fire, ?effect, ?timeout⟩
  case window =>
    rintro t isl n s ⟨hr, hst⟩ ⟨hfrom, hto⟩
    exact congrArg Host.Outcome.next (doQuietWindowOpen_inside hr hst hfrom hto)
  case own =>
    rintro t isl s ⟨hr, hdue⟩ hq
    exact congrArg Host.Outcome.next (doIslandPeriodicTest_due hr hdue hq)
  case start =>
    rintro t d n g sp s ⟨hint, hnext⟩ ⟨hr, hup, hscan, hm⟩ ⟨hdue, hi⟩
    exact congrArg Host.Outcome.next (doRollingTestStart_overdue hint hnext hr hup hscan hm hdue hi)
  case scan =>
    rintro t g part began s ⟨hscan, hdue, hi⟩
    exact congrArg Host.Outcome.next (doScanTestDone_passes hscan hdue hi)
  case covered =>
    rintro t isl s hr hnone hown
    have hu : advance t s =
        (overdueCores (advance t s) isl).foldl (fun s g => coverCore isl g false s) (advance t s) := by
      rw [overdueCores, hnone, List.foldl_nil]
    exact congrArg Host.Outcome.next (doCoverageCheck_runs hr hu hown)
  case overdue =>
    rintro t isl g s hr hone ⟨hown, hclk⟩
    have hu : coverCore isl g false (advance t s) =
        (overdueCores (advance t s) isl).foldl (fun s g => coverCore isl g false s) (advance t s) := by
      rw [overdueCores, hone, List.foldl_cons, List.foldl_nil]
    exact congrArg Host.Outcome.next (doCoverageCheck_runs hr hu (hclk ▸ hown))
  case fire =>
    rintro t acc s hw ⟨harm, hknown, hi⟩
    exact congrArg Host.Outcome.next (doInjFire_armed hw harm hknown hi)
  case effect =>
    rintro t x s ⟨hb, he⟩
    exact congrArg Host.Outcome.next (doInjectionEffect_fired hb he)
  case timeout =>
    rintro t e x s ⟨hb, he, hdue⟩
    exact congrArg Host.Outcome.next (doInjectionTimeout_due hb he hdue)

end

/-! # Security: an unmap and the policy of its partition (R443) -/

namespace Sys2Proof.Machine

section
variable {s : State} {p a n : Nat} {pol : Policy}

/-- Recording an event leaves every partition. -/
theorem getPart_record {site code : Nat} {items : List Item} {part ctx : Nat} (q : Nat) :
    getPart (record site code items part ctx s) q = getPart s q := by
  rw [getPart, (record_quiet (Quiet.refl s)).prt, getPart]

/-- The partition has no policy, and no key in import slots 0 to 6. -/
def dropPolicy (p : Nat) (s : State) : State :=
  modPart p (fun x => { x with sec := { x.sec with policy := none, slots := tabErase x.sec.slots 0 7 } }) s

/-- An unmap that overlaps a region of the policy in force drops the policy and records it. -/
theorem unmapPolicy_overlaps (hpol : (getPart s p).sec.policy = some pol)
    (hhit : pol.regions.any (fun r => r.meets a n) = true) :
    unmapPolicy p a n s = record 0 0x0A08 [.id1 p] p 0xFF (dropPolicy p s) := by
  simp only [unmapPolicy, hpol, hhit, if_true, dropPolicy]

/-- An unmap that overlaps none leaves the policy. -/
theorem unmapPolicy_apart (hpol : (getPart s p).sec.policy = some pol)
    (hmiss : pol.regions.any (fun r => r.meets a n) = false) : unmapPolicy p a n s = s := by
  simp only [unmapPolicy, hpol, hmiss, Bool.false_eq_true, if_false]

section
variable (hw : tabWf dPart s.prt.parts = true)
include hw

theorem getPart_dropPolicy_self : getPart (dropPolicy p s) p =
    { getPart s p with sec := { (getPart s p).sec with
      policy := none, slots := tabErase (getPart s p).sec.slots 0 7 } } :=
  getPart_modPart_self p _ s hw

theorem getPart_dropPolicy_ne {q : Nat} (hq : q ≠ p) : getPart (dropPolicy p s) q = getPart s q :=
  getPart_modPart_ne p q _ s hw hq

/-- Dropping the policy erases import slots 0 to 6 and keeps the others. -/
theorem slots_dropPolicy (hs : tabWf (fun _ => ([] : List Byte)) (getPart s p).sec.slots = true) (k : Nat) :
    tabGet (fun _ => []) (getPart (dropPolicy p s) p).sec.slots k =
      if k < 7 then [] else tabGet (fun _ => []) (getPart s p).sec.slots k := by
  rw [getPart_dropPolicy_self hw, tabGet_erase hs]
  simp only [Nat.zero_le, true_and, Nat.zero_add]

end

end

end Sys2Proof.Machine

/-! # The obligations of spec/15_security.md -/

section
open Sys2Proof Sys2Proof.Machine

/-- Settles O53: the event leaves the partitions as they are (`getPart_record`), so what is read of them is what
dropping the policy leaves; the order is that of MEM_MAP's body. -/
theorem anUnmapRemovesThePolicyItOverlaps : Obligations.AnUnmapRemovesThePolicyItOverlaps := by
  refine ⟨?order, ?removed, ?kept⟩
  case order =>
    rintro t id d s ⟨hun, hsc, hs, hc⟩
    exact congrArg Host.Outcome.next ((if_pos hun).trans (runScion_starts hsc hs hc))
  case removed =>
    rintro p a n pol s u ⟨hpol, hhit⟩ ⟨hw, hs⟩ hu
    rw [unmapPolicy_overlaps hpol hhit] at hu
    have hpart (q : Nat) : getPart u q = getPart (dropPolicy p s) q := by rw [hu, getPart_record]
    refine ⟨?_, fun k hk => ?_, fun k hk => ?_, fun q hq => ?_, _, hu⟩
    · rw [hpart, getPart_dropPolicy_self hw]
    · rw [hpart, slots_dropPolicy hw hs, if_pos hk]
    · rw [hpart, slots_dropPolicy hw hs, if_neg (Nat.not_lt.mpr hk)]
    · rw [hpart, getPart_dropPolicy_ne hw hq]
  case kept =>
    rintro p a n pol s ⟨hpol, hmiss⟩
    exact unmapPolicy_apart hpol hmiss

end

/-! # The event store: how it is read and cleared (R465, R471, R472) -/

namespace Sys2Proof.Machine

section
variable {t : Nat} {s : State}

/-- A slot that shows no error is loaded with none. -/
theorem loadCursor_sound (i : Nat) (r : EvRec) : loadCursor i r false =
    { index := i, win := if i < 1280 then r else {}, ecc := false, empty := 1280 ≤ i || r.code = 0 } := rfl

/-- The PF's cursor, written with no error in the way, is loaded with the slot that the write names. -/
theorem doEvrCursorLoad_pf {val : Word} (hw : writeReaches (advance t s) .pf 0x2700100 = true)
    (hi : (advance t s).inj.busy = none) (hgood : val.toNat % 2048 ∉ (advance t s).evr.badSlots) :
    doEvrCursorLoad t .pf val false s = { (advance t s) with evr := { (advance t s).evr with
      pfCur := loadCursor (val.toNat % 2048) (tabGet dEv (advance t s).evr.slots (val.toNat % 2048)) false } } := by
  have hbad : (advance t s).evr.badSlots.elem (val.toNat % 2048) = false :=
    Bool.eq_false_iff.mpr fun h => hgood (List.mem_of_elem_eq_true h)
  simp only [doEvrCursorLoad, cursorOff, hw, injLive_of_idle hi, hbad, loadCursor_sound, Bool.false_eq_true, or_self,
    false_and, and_false, if_true, if_false]

/-- Any agent whose write reaches may clear the circulating area. -/
theorem doClearCirculating_reaches {acc : Agent} (hw : writeReaches (advance t s) acc 0x2700018 = true) :
    doClearCirculating t acc s =
      cleared 1 acc { (advance t s) with evr := emptySlots 256 1024 (advance t s).evr } :=
  if_pos hw

/-- The PF may clear the kept area. -/
theorem doClearKept_pf (hw : writeReaches (advance t s) .pf 0x2700018 = true) : doClearKept t .pf s = cleared 2 .pf
    { (advance t s) with evr := { emptySlots 0 256 (advance t s).evr with kept := 0, keptFull := false } } :=
  if_pos hw

/-- Scion may not: the refusal is noted. -/
theorem doClearKept_scion {h : Nat} (hw : writeReaches (advance t s) (.scion h) 0x2700018 = true) :
    doClearKept t (.scion h) s = fldSet 0x2700010 3 1 1 (advance t s) :=
  if_pos hw

end

end Sys2Proof.Machine

/-! # The obligations of spec/16_reproducibility.md -/

section
open Sys2Proof Sys2Proof.Machine

/-- Settles O35, command by command: each write reaches its register, and the loss of VDD_AON has no condition. -/
theorem theEventStoreIsReadAndCleared : Obligations.TheEventStoreIsReadAndCleared := by
  refine ⟨?cursor, ?circulating, ?kept, ?refused, fun _ _ => rfl⟩
  case cursor =>
    rintro t val s ⟨hw, hi, hgood⟩
    exact congrArg Host.Outcome.next (doEvrCursorLoad_pf hw hi hgood)
  case circulating =>
    rintro t s hw
    exact congrArg Host.Outcome.next (doClearCirculating_reaches hw)
  case kept =>
    rintro t s hw
    exact congrArg Host.Outcome.next (doClearKept_pf hw)
  case refused =>
    rintro t h s hw
    exact congrArg Host.Outcome.next (doClearKept_scion hw)

end
